-- ==== Sys2Proof/Word.lean ====
section
/-!
DEFINITION. The word types of the TW4816 model.
Registers are 32 bits wide (R10), stored bytes are 8 bits, and sparse stores are tables of key and value pairs.
-/
namespace Sys2Proof

/-- A 32-bit register or window word (R10). -/
abbrev Word := BitVec 32

/-- One stored byte. -/
abbrev Byte := BitVec 8

/-- A sparse store: keys strictly rising, and no entry equal to what an unlisted key reads as. -/
abbrev Tab (α : Type) := List (Nat × α)

end Sys2Proof
end

