-- ==== Sys2Proof/Types.lean ====
section
/-!
DEFINITION. The small closed types that commands and state share: parties, results, access codes, register
descriptors, lanes and the operand records of the commands.
-/
namespace Sys2Proof

/-- The parties that access registers (R31, R34): supervisor, fault collector, link, host and the sixteen engines. -/
inductive Party
  | sup | flt | link | host
  | eng (n : Fin 16)
  deriving DecidableEq, Repr

/-- The owner code of a party (owner codes table of R31). -/
def Party.code : Party → Nat
  | .sup => 0
  | .flt => 1
  | .link => 2
  | .host => 3
  | .eng n => 16 + n.val

/-- Rank of a party in a same-cycle collision (R275), smaller first. -/
def Party.rank : Party → Nat
  | .sup => 0
  | .flt => 1
  | .link => 2
  | .eng n => 3 + n.val
  | .host => 19

/-- The report of one access (R26, R411). -/
inductive Res
  | done | refused | collided | addrErr | domainOff | held
  deriving DecidableEq, Repr

/-- The RES code of a report (R411). -/
def Res.code : Res → Nat
  | .done => 0
  | .refused => 1
  | .collided => 2
  | .addrErr => 3
  | .domainOff => 4
  | .held => 7

/-- Access codes of register fields (R11). -/
inductive Acc
  | rw | ro | w1c | wo | rws | rwd
  deriving DecidableEq, Repr

/-- Who governs the writing of a field (R31): the page's OWN, the unit's own owner field, SUP and HOST alone,
or nobody because the field belongs to each party. -/
inductive Gov
  | page | unit | supHost | party
  deriving DecidableEq, Repr

/-- One field of a register as its table gives it; `oper`: writable under LOCK (R33); `cfg`: a configuration field
of the batten (R460). `win`: a window data field, written by every write (R502). -/
structure FieldDesc where
  hi : Nat
  lo : Nat
  acc : Acc
  reset : Nat
  gov : Gov
  oper : Bool
  cfg : Bool
  win : Bool
  deriving DecidableEq, Repr

/-- One register, or a row of like registers at `base + stride * i`, `i < count`. -/
structure RegDesc where
  base : Nat
  stride : Nat
  count : Nat
  fields : List FieldDesc
  deriving DecidableEq, Repr

/-- A named field: offset of unit 0, stride per unit, bits and access code. -/
structure Fld where
  off : Nat
  stride : Nat
  hi : Nat
  lo : Nat
  acc : Acc
  deriving DecidableEq, Repr

/-- One write request of a party. -/
structure BusReq where
  party : Party
  addr : Nat
  data : Word
  deriving DecidableEq, Repr

/-- The two lanes of an engine (R256). -/
inductive Lane
  | deadline | background
  deriving DecidableEq, Repr

/-- What the memories of an engine show at an instruction (R255): single-bit errors corrected, or an uncorrectable error in
program memory, data memory or the register file. -/
inductive EngEcc
  | corrected (n : Nat)
  | program
  | data
  | registers
  deriving DecidableEq, Repr

/-- The context in which an instruction executes: engine, lane, and what its memories show. -/
structure EngAt where
  eng : Fin 16
  lane : Lane
  ecc : EngEcc
  deriving DecidableEq, Repr

/-- The blocks by kind of page (R23). -/
inductive PageKind
  | dev | tick | flt | recd | clk | wch | nvs | dig | hst | can | lnk | sns | moi | lpa | prf | trc | ldg
  | eng | vlv | fan | din | dou | aou | pwr | rpt
  deriving DecidableEq, Repr

/-- A page index (R23); indices without a page are address errors (R21). -/
abbrev PageIx := Fin 64

/-- Die temperatures as a tide reads them, in 0.01 °C (R490). -/
structure DieTemps where
  aDie : Int
  cDie : Int
  pDie : Int
  deriving DecidableEq, Repr

/-- The two die bridges (R16). -/
inductive Bridge
  | ca | cp
  deriving DecidableEq, Repr

/-- What a bridge frame carries, named by the transfer it serves; the frame's type codes are not given by the spec. -/
inductive Carried
  | other
  | senseRecord (page : Nat) (unit : Nat)
  | moistRecord (ch : Nat)
  | loopOutput (slot : Nat)
  | legCommand (page : Nat) (leg : Nat)
  | fanSpeed (fan : Nat)
  | inputCount (counter : Nat)
  | analogReadback (channel : Nat)
  deriving DecidableEq, Repr

/-- A die-bridge frame as received: type, address, data, sequence number and CRC (R17). -/
structure BridgeFrameIn where
  ftype : Byte
  addr : BitVec 16
  data : Word
  seq : Byte
  crc : BitVec 16
  carried : Carried
  deriving DecidableEq, Repr

/-- A fault message on its way to the collector: sending page, checker instance, kind code, address, and the phases that have passed
since the detection, whose stamp it carries (R348). -/
structure MsgIn where
  page : Nat
  inst : Nat
  kind : Nat
  addr : Nat
  ago : Nat
  deriving DecidableEq, Repr

/-- A syndrome that a checker shows (R367): a single-bit error at a position, of which 0 to 7 are the check bits that INV_MASK inverts;
an uncorrectable error; a mismatch of a CRC or a parity; or the tripped or mismatch indication of a comparator. -/
inductive Shown
  | single (bit : Nat)
  | uncorrectable
  | mismatch
  | tripped
  deriving DecidableEq, Repr

/-- What a checker under injection shows at its next access (R368): a syndrome, or none, with the kind and the address of the message
that the checker would send of it. -/
structure Syndrome where
  shown : Option Shown
  kind : Nat
  addr : Nat
  deriving DecidableEq, Repr

/-- What a checker compares (R367): words with SECDED check bits, words with a CRC or a parity, or quantities. -/
inductive CheckerClass
  | secded | check | compare
  deriving DecidableEq, Repr

/-- What the scrub finds in one word (R373); a corrected error by its position. -/
inductive ScrubResult
  | clean
  | corrected (bit : Nat)
  | uncorrectable
  | parity
  deriving DecidableEq, Repr

/-- What one slice sees in one tick frame (R79): the 250 samples of each half-cycle that its input switch presents to the modulator, in
units of FS / 2^31 with the internal reference, the
phase at which the overload detector trips in each half-cycle, the break comparator at the end of gaps A and B, the
two common-mode samples in mV, and whether the modulator's parity fails at the result store (R370). -/
structure SliceIn where
  pos : List Int
  neg : List Int
  ovlPos : Option Nat
  ovlNeg : Option Nat
  brkA : Bool
  brkB : Bool
  cm0 : Int
  cm1 : Int
  parity : Bool
  deriving DecidableEq, Repr

/-- What a sense page sees in one tick frame: its 16 slices, for each of its two banks VREFP − VREFN in µV in the positive and in
the negative half-cycle and the reading of the cold-junction sensor in Q16.16 °C, and for each of its 8 excitation pairs whether
compliance was lost. -/
structure SenseIn where
  slices : List SliceIn
  refUv : List Int
  refNeg : List Int
  cj : List Int
  compl : List Bool
  deriving DecidableEq, Repr

/-- What the P-die senses at phase 40: leg and high-side currents and digital output currents in 5 mA, whether each digital
output limits its current, and the mean output current of each fan over the last tide in 4 mA (R315, R331, R346). -/
structure LandSense where
  legs : List Nat
  sides : List Nat
  outs : List Nat
  limits : List Bool
  fans : List Nat
  deriving DecidableEq, Repr

/-- What an analog output measures at phase 100: its readback in Q16.16 V or mA, current limiting, and lost compliance (R341). -/
structure AoReading where
  rb : Word
  limit : Bool
  open_ : Bool
  deriving DecidableEq, Repr

/-- The demodulated current of one programme point (R149): in-phase and quadrature amplitude into MSNS in pA, and whether the
drive current reached its limit. -/
structure CellPoint where
  i : Int
  q : Int
  limit : Bool
  deriving DecidableEq, Repr

/-- One frame of a watch scan's dwell (R398): what the slice sees, whether its pair lost compliance, and whether a clamp detection was on. -/
structure WatchFrame where
  slice : SliceIn
  compl : Bool
  clamp : Bool
  deriving DecidableEq, Repr

/-- What one channel of a bank sees in one dwell of a watch scan (R397, R398): channel, mux value, the frames of the dwell, settle frames
first, and the reading of the bank's cold-junction sensor in Q16.16 °C. -/
structure WatchReading where
  ch : Nat
  mxs : Nat
  frames : List WatchFrame
  cjt : Int
  deriving DecidableEq, Repr

/-- Where an operation's word writes to the NV store stop (R442, R472): after `left` of them, either because the next word could be written in
neither attempt, or (`cut`) because a rail fell while the last of them was in progress. -/
structure NvStop where
  left : Nat
  cut : Bool
  deriving DecidableEq, Repr

/-- How the host ends a request (R412): as it must, with the request incomplete, with a bit count that is no multiple of 8, or
by raising HCS_N while the device is busy. -/
inductive HostEnd
  | complete | truncated | strayBits | earlyRise
  deriving DecidableEq, Repr

/-- The request of a host frame (R408): the QUAD and FIX bits and the low five bits of the command byte, address, LEN, the
data words of a write, CRC, and how it ended. -/
structure HostReq where
  quad : Bool
  fix : Bool
  code : BitVec 5
  addr : BitVec 24
  len : BitVec 6
  data : List Word
  crc : BitVec 16
  ending : HostEnd
  deriving DecidableEq, Repr

/-- A CAN frame on the bus (R416, R418): identifier extension and identifier (an 11-bit one in [28:18]), remote frame, the FD
bits, DLC and data bytes. -/
structure CanFrame where
  ide : Bool
  ident : BitVec 29
  rtr : Bool
  fdf : Bool
  brs : Bool
  esi : Bool
  dlc : BitVec 4
  data : List Byte
  deriving DecidableEq, Repr

/-- How ISO 11898-1 counts a detected error (R421): as a transmitter, as a transmitter under one of the two exceptions, as a
receiver, or as a receiver that sees a dominant bit after its error flag. -/
inductive CanCount
  | transmitter | transmitterExempt | receiver | receiverDominant
  deriving DecidableEq, Repr

/-- A Linron frame (R424): header fields, body and LCRC as they stand in the frame. -/
structure LinkFrame where
  ver : Byte
  typ : Byte
  origin : Byte
  hops : Byte
  seq : BitVec 16
  blen : BitVec 16
  tick : BitVec 48
  state : Byte
  dest : Byte
  corr : Word
  body : List Byte
  lcrc : Word
  deriving DecidableEq, Repr

/-- An Ethernet II frame that carries a Linron frame (R424): destination, source, EtherType, the payload, and the bytes of padding after its
LCRC. -/
structure EtherFrame where
  dst : BitVec 48
  src : BitVec 48
  etype : BitVec 16
  pay : LinkFrame
  pad : Nat
  deriving DecidableEq, Repr

/-- The rails that reset the device (R470). -/
inductive Rail
  | vddc | vdda | vddio
  deriving DecidableEq, Repr

/-- Rail voltages in mV (R501). -/
structure RailMv where
  vddc : BitVec 16
  vdda : BitVec 16
  vddio : BitVec 16
  vfield : BitVec 16
  deriving DecidableEq, Repr

/-- The reset inputs (R475). -/
inductive ResetPin
  | porst | reset
  deriving DecidableEq, Repr

/-- The instructions of the test access port (R498). -/
inductive TapIr
  | bypass | idcode | sample | extest | debug
  deriving DecidableEq, Repr

end Sys2Proof
end

