-- ==== Sys2Proof/Syntax.lean ====
section
/-!
DEFINITION. The commands of the block: one constructor for every row of the opcode table, in the table's order.
-/
namespace Sys2Proof

/-- A command, an access or an event at the device's boundary, or a due step of one of its own sequencers. -/
inductive Instr
  /-- The 125 µs tick expires (R41); `oscLen` is the ended tick's length as the independent oscillator measured it, in 10 ns (R39), `rails` the rail readings of the tick (R501). -/
  | tickBoundary (oscLen : Nat) (rails : RailMv)
  /-- The C-die PLL loses lock (R39). -/
  | pllLockLoss
  /-- A tick boundary ends a tide (R38); `temps` are the die temperatures read then (R490). -/
  | tideBoundary (temps : DieTemps)
  /-- A tick boundary ends a long tide (R38); `vbat` is the battery voltage measured then, in mV (R404). -/
  | longTideBoundary (vbat : Nat)
  /-- A die-bridge frame is received (R17). -/
  | bridgeFrame (bridge : Bridge) (frame : BridgeFrameIn)
  /-- Register writes applied in one cycle, each judged field by field (R502, R275). -/
  | registerWrite (writes : List BusReq)
  /-- A write of CTRL.RUN (R27). -/
  | runControl (party : Party) (page : PageIx) (run : Bool)
  /-- A write of CTRL.SWAP_REQ = 1 (R24, R41). -/
  | swapReq (party : Party) (page : PageIx)
  /-- A write of CTRL.SOFT_RST = 1 (R24). -/
  | softRst (party : Party) (page : PageIx)
  /-- A write of FLT_STAT.CNT_CLR = 1 (R29). -/
  | faultCountClr (party : Party) (page : PageIx)
  /-- A FINJ write that sets ARM (R30). -/
  | finjArm (party : Party) (page : PageIx) (checker mask : Byte)
  /-- A write of OWN (R31, R32). -/
  | ownWrite (party : Party) (page : PageIx) (owner : BitVec 5) (shared : Bool)
  /-- A write of KEY 0x7A3C to LOCK (R33). -/
  | lockSet (party : Party) (page : PageIx)
  /-- A write of KEY 0xF00F to LOCK (R33). -/
  | lockPerm (party : Party) (page : PageIx)
  /-- A write of KEY 0xC3A7 to LOCK (R33). -/
  | unlockFirst (party : Party) (page : PageIx)
  /-- A write of KEY 0x5E61 to LOCK (R33). -/
  | unlockSecond (party : Party) (page : PageIx)
  /-- A read of BATTEN (R34). -/
  | battenRead (party : Party) (page : PageIx)
  /-- A read of TICK_CNT_LO (R65). -/
  | tickCntCapture (party : Party)
  /-- A write of TICK_MON_CLR.CLR = 1 (R64). -/
  | tickMonClr (party : Party)
  /-- A SYNC frame is received on a port (R428): the local time of its SFD ingress in system clocks since tick count 0, and the residence time until its forwarding in ns. -/
  | syncReceive (port : Fin 2) (frame : LinkFrame) (ingress residence : Nat)
  /-- No sync frame for one tide in LOCKED (R59). -/
  | syncTimeout
  /-- HOLD_LIMIT tides have passed in HOLDOVER without a frame (R59). -/
  | holdoverExpire
  /-- The first cycle of a tick whose count is adopted from the master (R60, R61). -/
  | tickAdopt
  /-- No SYNC frame heard for 16 + 8 × RANK ticks in FREE with ROLE 1 (R429). -/
  | masterClaim
  /-- One tick frame of a SNS page's slices (R79). -/
  | senseFrame (page : Fin 3) (inp : SenseIn)
  /-- Conversions of a SNS page that end in this tick are formed (R82). -/
  | senseConversionEnd (page : Fin 3)
  /-- The bank clamp supervisor detects clamp current on a ball (R95). -/
  | clampDetect (bank : Fin 6) (pin : Fin 16)
  /-- A RANGE write of CHi_RANGE (R90). -/
  | rangeWrite (party : Party) (ch : Fin 48) (range : BitVec 4)
  /-- The dwell of a mux point ends (R98). -/
  | muxDwellEnd (bank : Fin 6)
  /-- A write of CTRL.SEQ_RESTART = 1 (R98). -/
  | seqRestart (party : Party) (page : Fin 3)
  /-- The first cycle of phase 0: due records land or go stale (R108). -/
  | resultLanding
  /-- A read of RESi_VAL (R121). -/
  | resultRead (party : Party) (ch : Fin 48)
  /-- A read of PT_VAL (R122). -/
  | ptValRead (party : Party) (page : Fin 3)
  /-- A 2048-tick tone window ends (R128). -/
  | toneWindowEnd (page : Fin 3)
  /-- A repeater output is read back 1 µs after an edge (R136). -/
  | rptEdgeCheck (out : Fin 4) (agrees : Bool)
  /-- A write (its word) or a read of COEF_DATA (R118). -/
  | coefDataAccess (party : Party) (page : Fin 3) (write : Option Word)
  /-- The boundary just passed ends the result periods of some moisture channels (R145). -/
  | moiPeriodEnd
  /-- The sweep finishes its last active point; `points` are the readings of the active points in order (R143, R149). -/
  | moiSweepComplete (ch : Fin 8) (points : List CellPoint)
  /-- The end of phase 99: sweeps of periods in their last tick are cut off (R146). -/
  | moiSweepDeadline
  /-- Phase 100: the evaluator takes the completed sweeps of periods in their last tick (R154). -/
  | moiEvaluate
  /-- The moisture PLL loses lock (R148). -/
  | moiPllUnlock
  /-- Lock has held for 20 µs (R148). -/
  | moiPllRelock
  /-- A moisture bank's clamp supervisor detects clamp current on a ball (R141). -/
  | moiClampDetect (bank : Fin 2) (pin : Fin 12)
  /-- A write of CAL_CTRL with CMD = 1 (R152). -/
  | calStart (party : Party) (ch : Fin 8) (navg : BitVec 6)
  /-- A write of CAL_CTRL.CMD = 2 that leaves the other fields as they read (R153). -/
  | calAbort (party : Party)
  /-- The boundary just passed ended the last period of a calibration (R152). -/
  | calEnd
  /-- A read of CHm_MOIST (R164). -/
  | moiResultRead (party : Party) (ch : Fin 8)
  /-- A write (its word) or a read of MOI_TBL_DATA (R158). -/
  | tblDataAccess (party : Party) (write : Option Word)
  /-- Phase 2: the loop array takes its snapshot and computes the due slots; `corrections` are the single-bit ECC corrections by slot (R170, R171). -/
  | loopArrayPass (corrections : List (Fin 64 × Nat))
  /-- The end of phase 28: computed slots publish, the others are late (R173). -/
  | loopDeadline
  /-- The first cycle of phase 40: landing writes, with the register writes of the same cycle, and the outputs of the DRIVE pages are computed from `sense` (R191, R193, R318). -/
  | landing (contenders : List BusReq) (sense : LandSense)
  /-- A write (its word) or a read of LPAp_WIN_DATA (R187). -/
  | lpaWinDataAccess (party : Party) (page : Fin 2) (write : Option Word)
  /-- A write of LOADMAX.CLR = 1 (R173). -/
  | loadmaxClr (party : Party) (page : Fin 2)
  /-- Phase 1: every profile generator steps; `corrections` are the single-bit ECC corrections by generator (R199, R200, R203). -/
  | profileStep (corrections : List (Fin 32 × Nat))
  /-- The end of phase 1: steps publish, incomplete ones are late (R199, R200). -/
  | profileDeadline
  /-- A write (its word) or a read of PRF_WIN_DATA (R219). -/
  | prfWinDataAccess (party : Party) (write : Option Word)
  /-- The last cycle of a phase: the trace units of that sample phase sample (R212). -/
  | traceSample (phase : Fin 125)
  /-- A write of TRC_Uu_CMD = 1 (R214). -/
  | traceArm (party : Party) (unit : Fin 4)
  /-- A write of TRC_Uu_CMD = 2 (R215). -/
  | traceForce (party : Party) (unit : Fin 4)
  /-- A write of TRC_Uu_CMD = 3 (R214). -/
  | traceAbort (party : Party) (unit : Fin 4)
  /-- Phase 30: every tower column takes its meter count and advances (R227). -/
  | ledgerAdvance
  /-- Phase 30 of a sampling instant: the ledger samples its sources (R226). -/
  | ledgerSample
  /-- The evaluator finishes the computation of the pass (R236). -/
  | ledgerPassComplete
  /-- A long tide boundary ends a column's summary interval (R251). -/
  | ledgerIntervalEnd (col : Fin 4)
  /-- A write of COLc_CMD = 1 (R248). -/
  | ledgerInit (party : Party) (col : Fin 4)
  /-- A write of COLc_CMD = 2 (R242). -/
  | ledgerClearBias (party : Party) (col : Fin 4)
  /-- A write of COLc_CMD = 3 (R249). -/
  | ledgerBatchEnd (party : Party) (col : Fin 4)
  /-- A write of a word of a parcel slot through the window (R248). -/
  | parcelWindowWrite (party : Party) (location : Fin 8192) (word : Fin 8) (data : Word)
  /-- A read of word 0 of a parcel slot (R224). -/
  | parcelRead (party : Party) (location : Fin 8192)
  /-- A write (its word) or a read of LDG_WIN_DATA (R252). -/
  | ldgWinDataAccess (party : Party) (write : Option Word)
  /-- Phase 40: engines with DL_EN = 1 start their deadline context at DL_ENTRY (R256). -/
  | deadlineLaneStart
  /-- The end of phase 124: deadline work that has not reached END is cut off (R272). -/
  | deadlineCutoff
  /-- Phase 0: background contexts resume, or start a pass at BG_ENTRY (R256). -/
  | backgroundResume
  /-- After the last cycle of phase 39 background contexts are suspended (R256). -/
  | backgroundSuspend
  /-- The instruction ADD of an engine (R260). -/
  | engAdd (c : EngAt) (d a b : Fin 32)
  /-- The instruction SUB of an engine (R260). -/
  | engSub (c : EngAt) (d a b : Fin 32)
  /-- The instruction AND of an engine (R260). -/
  | engAnd (c : EngAt) (d a b : Fin 32)
  /-- The instruction OR of an engine (R260). -/
  | engOr (c : EngAt) (d a b : Fin 32)
  /-- The instruction XOR of an engine (R260). -/
  | engXor (c : EngAt) (d a b : Fin 32)
  /-- The instruction SLL of an engine (R260). -/
  | engSll (c : EngAt) (d a b : Fin 32)
  /-- The instruction SRL of an engine (R260). -/
  | engSrl (c : EngAt) (d a b : Fin 32)
  /-- The instruction SRA of an engine (R260). -/
  | engSra (c : EngAt) (d a b : Fin 32)
  /-- The instruction CLT of an engine (R260). -/
  | engClt (c : EngAt) (d a b : Fin 32)
  /-- The instruction CLTU of an engine (R260). -/
  | engCltu (c : EngAt) (d a b : Fin 32)
  /-- The instruction MIN of an engine (R260). -/
  | engMin (c : EngAt) (d a b : Fin 32)
  /-- The instruction MAX of an engine (R260). -/
  | engMax (c : EngAt) (d a b : Fin 32)
  /-- The instruction ADDS of an engine (R260). -/
  | engAdds (c : EngAt) (d a b : Fin 32)
  /-- The instruction SUBS of an engine (R260). -/
  | engSubs (c : EngAt) (d a b : Fin 32)
  /-- The instruction CMOV of an engine (R260). -/
  | engCmov (c : EngAt) (d a b : Fin 32)
  /-- The instruction CLZ of an engine (R260). -/
  | engClz (c : EngAt) (d a : Fin 32)
  /-- The instruction SLLI of an engine (R260). -/
  | engSlli (c : EngAt) (d a sh : Fin 32)
  /-- The instruction SRLI of an engine (R260). -/
  | engSrli (c : EngAt) (d a sh : Fin 32)
  /-- The instruction SRAI of an engine (R260). -/
  | engSrai (c : EngAt) (d a sh : Fin 32)
  /-- The instruction SATQ of an engine (R260). -/
  | engSatq (c : EngAt) (d a sh : Fin 32)
  /-- The instruction MUL of an engine (R260). -/
  | engMul (c : EngAt) (d a b : Fin 32)
  /-- The instruction MULH of an engine (R260). -/
  | engMulh (c : EngAt) (d a b : Fin 32)
  /-- The instruction MULHU of an engine (R260). -/
  | engMulhu (c : EngAt) (d a b : Fin 32)
  /-- The instruction QMUL of an engine (R260). -/
  | engQmul (c : EngAt) (d a b sh : Fin 32)
  /-- The instruction DIV of an engine (R261). -/
  | engDiv (c : EngAt) (d a b : Fin 32)
  /-- The instruction DIVU of an engine (R261). -/
  | engDivu (c : EngAt) (d a b : Fin 32)
  /-- The instruction REM of an engine (R261). -/
  | engRem (c : EngAt) (d a b : Fin 32)
  /-- The instruction QDIV of an engine (R261). -/
  | engQdiv (c : EngAt) (d a b sh : Fin 32)
  /-- The instruction FADD of an engine (R262). -/
  | engFadd (c : EngAt) (d a b : Fin 32)
  /-- The instruction FSUB of an engine (R262). -/
  | engFsub (c : EngAt) (d a b : Fin 32)
  /-- The instruction FMUL of an engine (R262). -/
  | engFmul (c : EngAt) (d a b : Fin 32)
  /-- The instruction FMAC of an engine (R262). -/
  | engFmac (c : EngAt) (d a b : Fin 32)
  /-- The instruction FMIN of an engine (R262). -/
  | engFmin (c : EngAt) (d a b : Fin 32)
  /-- The instruction FMAX of an engine (R262). -/
  | engFmax (c : EngAt) (d a b : Fin 32)
  /-- The instruction FABS of an engine (R260). -/
  | engFabs (c : EngAt) (d a : Fin 32)
  /-- The instruction FNEG of an engine (R260). -/
  | engFneg (c : EngAt) (d a : Fin 32)
  /-- The instruction FLT of an engine (R262). -/
  | engFlt (c : EngAt) (d a b : Fin 32)
  /-- The instruction FLE of an engine (R262). -/
  | engFle (c : EngAt) (d a b : Fin 32)
  /-- The instruction FEQ of an engine (R262). -/
  | engFeq (c : EngAt) (d a b : Fin 32)
  /-- The instruction FDIV of an engine (R262). -/
  | engFdiv (c : EngAt) (d a b : Fin 32)
  /-- The instruction FSQRT of an engine (R262). -/
  | engFsqrt (c : EngAt) (d a : Fin 32)
  /-- The instruction FCVTIS of an engine (R262). -/
  | engFcvtis (c : EngAt) (d a : Fin 32)
  /-- The instruction FCVTSI of an engine (R262). -/
  | engFcvtsi (c : EngAt) (d a : Fin 32)
  /-- The instruction FCVTQS of an engine (R262). -/
  | engFcvtqs (c : EngAt) (d a : Fin 32)
  /-- The instruction FCVTSQ of an engine (R262). -/
  | engFcvtsq (c : EngAt) (d a : Fin 32)
  /-- The instruction ADDI of an engine (R260). -/
  | engAddi (c : EngAt) (d a : Fin 32) (imm : BitVec 16)
  /-- The instruction CLTI of an engine (R260). -/
  | engClti (c : EngAt) (d a : Fin 32) (imm : BitVec 16)
  /-- The instruction LHI of an engine (R260). -/
  | engLhi (c : EngAt) (d : Fin 32) (imm : BitVec 16)
  /-- The instruction JMPR of an engine (R259, R260). -/
  | engJmpr (c : EngAt) (a : Fin 32)
  /-- The instruction ANDI of an engine (R260). -/
  | engAndi (c : EngAt) (d a : Fin 32) (imm : BitVec 16)
  /-- The instruction ORI of an engine (R260). -/
  | engOri (c : EngAt) (d a : Fin 32) (imm : BitVec 16)
  /-- The instruction XORI of an engine (R260). -/
  | engXori (c : EngAt) (d a : Fin 32) (imm : BitVec 16)
  /-- The instruction LD of an engine (R263). -/
  | engLd (c : EngAt) (d a : Fin 32) (imm : BitVec 16)
  /-- The instruction LDH of an engine (R263). -/
  | engLdh (c : EngAt) (d a : Fin 32) (imm : BitVec 16)
  /-- The instruction LDHU of an engine (R263). -/
  | engLdhu (c : EngAt) (d a : Fin 32) (imm : BitVec 16)
  /-- The instruction LDB of an engine (R263). -/
  | engLdb (c : EngAt) (d a : Fin 32) (imm : BitVec 16)
  /-- The instruction LDBU of an engine (R263). -/
  | engLdbu (c : EngAt) (d a : Fin 32) (imm : BitVec 16)
  /-- The instruction ST of an engine (R263); `rivals` are the window writes of other parties in the same cycle (R278). -/
  | engSt (c : EngAt) (d a : Fin 32) (imm : BitVec 16) (rivals : List BusReq)
  /-- The instruction STH of an engine (R263); `rivals` are the window writes of other parties in the same cycle (R278). -/
  | engSth (c : EngAt) (d a : Fin 32) (imm : BitVec 16) (rivals : List BusReq)
  /-- The instruction STB of an engine (R263); `rivals` are the window writes of other parties in the same cycle (R278). -/
  | engStb (c : EngAt) (d a : Fin 32) (imm : BitVec 16) (rivals : List BusReq)
  /-- The instruction BEQ of an engine (R259). -/
  | engBeq (c : EngAt) (a b : Fin 32) (off : BitVec 16)
  /-- The instruction BNE of an engine (R259). -/
  | engBne (c : EngAt) (a b : Fin 32) (off : BitVec 16)
  /-- The instruction BLT of an engine (R259). -/
  | engBlt (c : EngAt) (a b : Fin 32) (off : BitVec 16)
  /-- The instruction BGE of an engine (R259). -/
  | engBge (c : EngAt) (a b : Fin 32) (off : BitVec 16)
  /-- The instruction BLTU of an engine (R259). -/
  | engBltu (c : EngAt) (a b : Fin 32) (off : BitVec 16)
  /-- The instruction BGEU of an engine (R259). -/
  | engBgeu (c : EngAt) (a b : Fin 32) (off : BitVec 16)
  /-- The instruction LOOP of an engine (R260). -/
  | engLoop (c : EngAt) (a : Fin 32) (off : BitVec 16)
  /-- The instruction JMP of an engine (R259). -/
  | engJmp (c : EngAt) (off : BitVec 27)
  /-- The instruction CALL of an engine (R259). -/
  | engCall (c : EngAt) (off : BitVec 27)
  /-- The instruction PRD of an engine (R264); `took` are the cycles of a bridged access. -/
  | engPrd (c : EngAt) (d a : Fin 32) (imm : BitVec 16) (took : Fin 805)
  /-- The instruction PWR of an engine (R264); `took` are the cycles of a bridged access, `rivals` the writes of other parties in the same cycle (R275). -/
  | engPwr (c : EngAt) (d a : Fin 32) (imm : BitVec 16) (took : Fin 805) (rivals : List BusReq)
  /-- The instruction PST of an engine (R269). -/
  | engPst (c : EngAt) (d a : Fin 32) (imm : BitVec 16)
  /-- The instruction SRD of an engine (R270). -/
  | engSrd (c : EngAt) (d : Fin 32) (src : BitVec 16)
  /-- The instruction SRDR of an engine (R270). -/
  | engSrdr (c : EngAt) (d a : Fin 32)
  /-- The instruction PUB of an engine (R271). -/
  | engPub (c : EngAt) (d : Fin 32) (k : Fin 16)
  /-- The instruction NOP of an engine (R260). -/
  | engNop (c : EngAt)
  /-- The instruction END of an engine (R256). -/
  | engEnd (c : EngAt)
  /-- The instruction SRR of an engine (R258). -/
  | engSrr (c : EngAt) (d : Fin 32) (sp : Fin 16)
  /-- The instruction SRW of an engine (R258). -/
  | engSrw (c : EngAt) (a : Fin 32) (sp : Fin 16)
  /-- The instruction CNF of an engine (R284). -/
  | engCnf (c : EngAt)
  /-- The instruction POP of an engine (R269). -/
  | engPop (c : EngAt) (d : Fin 32)
  /-- The instruction UFLT of an engine (R260). -/
  | engUflt (c : EngAt) (a : Fin 32)
  /-- An engine's oldest posted write is judged at the page arbiter (R269); `rivals` are the writes of other parties in the same cycle. -/
  | postedWriteOutcome (eng : Fin 16) (rivals : List BusReq)
  /-- A write of CTRL.SWAP_REQ = 1 to an ENG page (R280). -/
  | engSwapReq (party : Party) (eng : Fin 16) (dataClr : Bool)
  /-- The CRC-32 check of the shadow image concludes (R280). -/
  | engImageCrcCheck (eng : Fin 16)
  /-- The probation window ends without a confirmation (R285). -/
  | probationTimeout (eng : Fin 16)
  /-- A write of CTRL.PROB_ABORT = 1 to an ENG page (R285). -/
  | probAbort (party : Party) (eng : Fin 16)
  /-- A write of ENGn_CYC_CLR.CLR = 1 (R273). -/
  | cycClr (party : Party) (eng : Fin 16)
  /-- A write at an offset of an engine window (R290, R291). -/
  | engineWindowWrite (party : Party) (eng : Fin 16) (off : BitVec 17) (data : Word)
  /-- A write of LGi_CMD with OP 0 (R296). -/
  | vlvNop (party : Party) (leg : Fin 16)
  /-- A write of LGi_CMD with OP 1 (R296). -/
  | vlvPulse (party : Party) (leg : Fin 16) (onT : BitVec 24)
  /-- A write of LGi_CMD with OP 2 (R296). -/
  | vlvOn (party : Party) (leg : Fin 16)
  /-- A write of LGi_CMD with OP 3 (R296). -/
  | vlvOff (party : Party) (leg : Fin 16)
  /-- Phase 40: legs act on the commands of the tick before; `amps` are the leg currents in 5 mA then (R297, R298). -/
  | commandStart (amps : List Nat)
  /-- The coil current first reaches I_PULL (R300). -/
  | reach (leg : Fin 16)
  /-- A dip during the unchopped ramp: the µs from s to the minimum, the running maximum, the minimum and the present current in 5 mA (R302). -/
  | armatureDip (leg : Fin 16) (t imax imin amp : Nat)
  /-- The profile reaches s + T_PULL (R300). -/
  | pullEnd (leg : Fin 16)
  /-- The current falls to I_HOLD after the pull (R300). -/
  | holdLevelReached (leg : Fin 16)
  /-- The profile reaches its end instant E (R300). -/
  | profileEnd (leg : Fin 16)
  /-- The decay current falls below I_ZERO (R300). -/
  | decayEnd (leg : Fin 16)
  /-- The pair policy permits a waiting PULL; the currents of the leg and of its partner in 5 mA (R303). -/
  | waitingPullStart (leg : Fin 16) (amp partnerAmp : Nat)
  /-- Under DELAY the instant s + DMAX comes (R303). -/
  | delayExpire (leg : Fin 16)
  /-- A leg current at or above 6.0 A for 2 µs while its LS is on (R308). -/
  | legOvercurrent (leg : Fin 16)
  /-- A high-side current at or above 7.0 A for 2 µs (R309). -/
  | hsOvercurrent (pair : Fin 8)
  /-- A write of LGi_CTRL.TRIP_CLR = 1 (R310). -/
  | legTripClr (party : Party) (leg : Fin 16)
  /-- A write of PRk_CFG.HS_CLR = 1 (R310). -/
  | hsClr (party : Party) (pair : Fin 8)
  /-- A write of LGi_CTRL.CNT_CLR = 1 (R315). -/
  | legCntClr (party : Party) (leg : Fin 16)
  /-- The P-die has received no valid C–P frame for 250 µs (R322). -/
  | bridgeLoss
  /-- Valid C–P frames have been received for 8 consecutive ticks (R322). -/
  | bridgeLossEnd
  /-- A falling FTACH edge, with the tach period that it completes in 40 ns, if any (R327). -/
  | tachEdge (fan : Fin 12) (period : Option Nat)
  /-- The kick window ends (R329). -/
  | kickTimeout (fan : Fin 12)
  /-- The back-off ends (R330). -/
  | backoffEnd (fan : Fin 12)
  /-- The published speed has stayed below STALL_RPM for a long tide; the mean output current of the last tide in 4 mA (R331). -/
  | tachDoubt (fan : Fin 12) (amp : Nat)
  /-- Limiting for 50 ms, or a thermal shutdown of the switch (R332). -/
  | fanTrip (fan : Fin 12) (thermal : Bool)
  /-- A write of FAN_CHn_CTRL.STALL_CLR = 1 (R330). -/
  | stallClr (party : Party) (fan : Fin 12)
  /-- A write of FAN_CHn_CTRL.TRIP_CLR = 1 (R332). -/
  | fanTripClr (party : Party) (fan : Fin 12)
  /-- A write (its word) or a read of FAN_WIN_DATA (R344). -/
  | fanWinDataAccess (party : Party) (write : Option Word)
  /-- The sampled level of an input changes (R334, R335). -/
  | diChange (input : Fin 32) (level : Bool)
  /-- A debounce window ends (R335). -/
  | debounceEnd (input : Fin 32)
  /-- An edge of a counter input whose level has held for `held` µs (R336). -/
  | counterEdge (counter : Fin 8) (rising : Bool) (held : Nat)
  /-- The boundary just passed opened a tick whose count is a multiple of 2^GATE (R336). -/
  | diRateGate (counter : Fin 8)
  /-- A time-proportioning period starts (R337). -/
  | doPeriodStart (ch : Fin 24)
  /-- The on-time of the present period ends (R337). -/
  | doOntimeEnd (ch : Fin 24)
  /-- Current limiting has lasted `ms` milliseconds without a break (R338). -/
  | doLimitTrip (ch : Fin 24) (ms : Nat)
  /-- Thermal shutdown of a channel (R338). -/
  | doThermalTrip (ch : Fin 24)
  /-- For 1 ms the ball has been above 5 V (`high`) or below VFIELD − 3 V (R339). -/
  | doReadbackEpisode (ch : Fin 24) (high : Bool)
  /-- A write of DOU_CHj_CTRL.TRIP_CLR = 1 (R338). -/
  | douTripClr (party : Party) (ch : Fin 24)
  /-- Phase 100: the analog outputs measure their readbacks (R341). -/
  | aoReadbackMeasure (meas : List AoReading)
  /-- The fault messages that reach the collector in one cycle (R348, R360). -/
  | faultMessage (msgs : List MsgIn)
  /-- The P-die finds a flashing pair equal or a heartbeat missing, or finds the net sound again (R357). -/
  | flashingFault (present : Bool)
  /-- SAFE_IN_N has been low for 2 µs (R358). -/
  | safeInAssert
  /-- SAFE_IN_N has been high for 2 µs (R358). -/
  | safeInDeassert
  /-- A scope's quiet window ends (R364). -/
  | quietWindowEnd (scope : Fin 9)
  /-- A write of KEY 0x6C61 to FLT_CLR (R366). -/
  | fltClrFirst (party : Party) (scope : BitVec 4)
  /-- A write of KEY 0x7463 to FLT_CLR (R366). -/
  | fltClrSecond (party : Party) (scope : BitVec 4)
  /-- A write of FLT_FF_CLR.CLR = 1 (R362). -/
  | ffClr (party : Party)
  /-- A read of FLT_HIST_W0 (R363). -/
  | histRead (party : Party)
  /-- A write of FLT_SEV_DATA (R352). -/
  | sevDataWrite (party : Party) (data : Word)
  /-- The armed checker's next access or evaluation; `seen` is the syndrome that appeared (R368). -/
  | injectionConclude (page : PageIx) (seen : Syndrome)
  /-- No access within 2 long tides of the arming (R368). -/
  | injectionTimeout (page : PageIx)
  /-- The scrub reads one stored word (R373). -/
  | scrubWordRead (page : PageIx) (checker : Byte) (word : BitVec 16) (found : ScrubResult)
  /-- 256 tides of a scrub cycle have elapsed (R373). -/
  | scrubCycleEnd
  /-- The supervisor lockstep comparison finds a difference (R372). -/
  | lockstepMismatch
  /-- The recorder writes its next queued record (R386); `stop` says where its 17 word writes stop, if they do (R442, R472). -/
  | recordWrite (stop : Option NvStop)
  /-- Another 3600 calendar seconds have passed at a tick boundary (R380). -/
  | anchorHourly
  /-- A read of REC_WIN0 (R388). -/
  | recordRead (party : Party)
  /-- A write of KEY 0x5A17 to REC_CLR (R389). -/
  | recClrFirst (party : Party) (commissioning : Bool)
  /-- A write of KEY 0xE8A5 to REC_CLR (R389). -/
  | recClrSecond (party : Party) (commissioning : Bool)
  /-- The area clear finishes (R389). -/
  | recClearDone
  /-- A write of REC_DROP_CLR.CLR = 1 (R403). -/
  | recDropClr (party : Party)
  /-- A read of CLK_SEC_LO (R391). -/
  | clockCapture (party : Party)
  /-- A write of CLK_SET_LO (R392). -/
  | clockSet (party : Party) (lo : Word)
  /-- No 32.768 kHz edges for 2 ms (R394). -/
  | oscFail
  /-- The WATCH domain powers up from no supply (R395). -/
  | watchPowerUp
  /-- The supplies present at the WATCH domain change (R396). -/
  | watchSupplyChange (vdda link : Bool) (vbat : Nat)
  /-- The watch island starts a scan (R397). -/
  | watchScanStart
  /-- A watch scan ends with the readings taken (R398, R400). -/
  | watchScanEnd (readings : List WatchReading)
  /-- A scan is abandoned by a SENSE power-up or a watch brownout (R399). -/
  | watchScanAbandon (brownout : Bool)
  /-- A host write frame is received (R410); `rivals` are the writes of other parties in the cycle of each of its words (R275). -/
  | hostWriteFrame (req : HostReq) (rivals : List (List BusReq) := [])
  /-- A host read frame is received (R410). -/
  | hostReadFrame (req : HostReq)
  /-- The reply is ready and HRDY returns high (R409); `risen` says whether HCS_N has risen by then (R415). -/
  | hostReplyReady (risen : Bool := false)
  /-- A HOST write of 0x4B41 to HST_KA (R414). -/
  | keepAlive
  /-- A silence window ends without a keep-alive (R414). -/
  | hostSilenceBegin
  /-- A CAN frame is received without error (R419). -/
  | canFrameReceive (ctl : Fin 2) (frame : CanFrame)
  /-- A write of 1 to a TXREQ bit (R420). -/
  | canTxreq (party : Party) (ctl : Fin 2) (obj : Fin 64)
  /-- A write of 1 to a TXABORT bit (R420). -/
  | canTxabort (party : Party) (ctl : Fin 2) (obj : Fin 64)
  /-- The transmission of an object succeeds (R420). -/
  | canTxDone (ctl : Fin 2) (obj : Fin 64)
  /-- A write of CTRL.RECOVER = 1 (R421). -/
  | canRecover (party : Party) (ctl : Fin 2)
  /-- 128 sequences of 11 recessive bits have passed (R421). -/
  | canBusOffRecovered (ctl : Fin 2)
  /-- A write (its word) or a read of MO_DATA (R418). -/
  | moDataAccess (party : Party) (ctl : Fin 2) (write : Option Word)
  /-- A port goes up or down (R423), with what its PHY shows then. -/
  | linkPortChange (port : Fin 2) (up aneg lpwr : Bool) (sqi : Fin 8)
  /-- Phase 10 of a tick whose count is a multiple of 8: a master sends SYNC (R428); `cycle` is the cycle of its SFD egress. -/
  | syncSend (cycle : BitVec 16)
  /-- A port sends its path-delay request, at the local time of its SFD egress in ns (R427). -/
  | pdreqSend (port : Fin 2) (egress : Nat)
  /-- A PDREQ is received and answered, with the SFD ingress of the request and egress of the answer in ns (R427). -/
  | pdreqReceive (port : Fin 2) (frame : LinkFrame) (ingress egress : BitVec 64)
  /-- A PDRESP is received, at the local time of its SFD ingress in ns (R427). -/
  | pdrespReceive (port : Fin 2) (frame : LinkFrame) (ingress : Nat)
  /-- The first cycle of phase 42 of a cargo tick (R430). -/
  | cargoSend
  /-- A CARGO frame is received (R431). -/
  | cargoReceive (port : Fin 2) (frame : LinkFrame)
  /-- The boundary just passed is the due instant of some partners' cargo (R432). -/
  | cargoDue
  /-- No accepted frame from an expected partner for LOST_T long tides (R440). -/
  | partnerLost (partner : Fin 32)
  /-- A read of PC_VAL (R432). -/
  | cargoRead (party : Party)
  /-- A read of RG_HI (R440). -/
  | ridgeRead (party : Party)
  /-- A write (its word) or a read of LNK0_WIN_DATA (R440). -/
  | lnkWinDataAccess (party : Party) (write : Option Word)
  /-- The device's DIGEST tick (R434). -/
  | digestSend
  /-- A DIGEST frame is received (R434, R463). -/
  | digestReceive (port : Fin 2) (frame : LinkFrame)
  /-- A write of DQ_CMD with GO = 1 (R434). -/
  | dqueryStart (party : Party) (target : Fin 32) (level : Fin 4) (index : Byte)
  /-- A DQUERY is received (R434). -/
  | dqueryReceive (port : Fin 2) (frame : LinkFrame)
  /-- The tick after a query: the device answers with DREPLY (R434). -/
  | dreplySend
  /-- A DREPLY is received (R434). -/
  | dreplyReceive (port : Fin 2) (frame : LinkFrame)
  /-- 8 tides without a reply (R434). -/
  | dqueryTimeout
  /-- A write of CMT_CTRL with CMD = 1 (R435). -/
  | commitStart (party : Party) (cid : BitVec 16)
  /-- A write of CMT_CTRL.CMD = 2 that leaves CID as it reads (R435). -/
  | commitAbort (party : Party)
  /-- The coordinator sends PREPARE (R435). -/
  | prepareSend
  /-- A PREPARE is received (R436). -/
  | prepareReceive (port : Fin 2) (frame : LinkFrame)
  /-- A VOTE is received (R435). -/
  | voteReceive (port : Fin 2) (frame : LinkFrame)
  /-- 64 ticks after the start with votes missing (R435). -/
  | voteTimeout
  /-- The coordinator sends DECIDE (R435). -/
  | decideSend
  /-- A DECIDE is received (R437). -/
  | decideReceive (port : Fin 2) (frame : LinkFrame)
  /-- Tick A − 64 has come without DECIDE commit (R436). -/
  | targetDiscard
  /-- Phase 42 of tick A: a committed target applies its writes (R437); `rivals` are the writes of other parties in the cycle of each. -/
  | commitApply (rivals : List (List BusReq))
  /-- The tick after A: the target sends DONE (R437). -/
  | doneSend
  /-- A DONE is received (R435). -/
  | doneReceive (port : Fin 2) (frame : LinkFrame)
  /-- Tick A + 128 has come (R435). -/
  | commitTimeout
  /-- Queued fault entries are sent in a FAULT frame (R438). -/
  | faultFrameSend
  /-- A FAULT frame is received (R438). -/
  | faultFrameReceive (port : Fin 2) (frame : LinkFrame)
  /-- A write of NVS_CMD with CMD 1 (R448). -/
  | verify (party : Party)
  /-- A write of NVS_CMD with CMD 2 (R448). -/
  | arm (party : Party)
  /-- A write of NVS_CMD with CMD 3 (R448). -/
  | disarm (party : Party)
  /-- A write of NVS_CMD with CMD 4 (R458). -/
  | saveProfile (party : Party)
  /-- A write of NVS_CMD with CMD 5 (R453). -/
  | storeEng (party : Party) (eng : Fin 16)
  /-- A write of NVS_CMD with CMD 6 (R449). -/
  | supRestart (party : Party)
  /-- A write of NVS_CMD with CMD 7 (R451). -/
  | probReject (party : Party)
  /-- A write of NVS_CMD with CMD 8 (R446). -/
  | progKey (party : Party)
  /-- A write of NVS_CMD with CMD 9 (R446). -/
  | setKeypol (party : Party)
  /-- A write of NVS_CMD with CMD 10 (R457). -/
  | eraseProfile (party : Party)
  /-- The running command ends (R467); `failed` is the NV offset of a word that could not be written in two attempts (R442). -/
  | nvsCommandDone (failed : Option (BitVec 23))
  /-- A write (its word) or a read of NVS_DATA (R442); `failed` says that neither write attempt read back right. -/
  | nvsDataAccess (party : Party) (write : Option Word) (failed : Bool)
  /-- A write of NVS_PROB.CONFIRM = 1 (R451); `stop` says where its word writes stop, if they do (R442, R472). -/
  | confirm (party : Party) (stop : Option NvStop := none)
  /-- A supervisor start that is not part of a device start, after SUP_RESTART or a probation failure (R449, R450); `stop` says where its word writes stop, if they do (R442, R472). -/
  | supervisorStart (stop : Option NvStop := none)
  /-- The supervisor probation window ends (R451). -/
  | supProbationTimeout
  /-- A write of DIG_SHD_CMD with GO = 1 (R465). -/
  | shadowDigestStart (party : Party) (page : Byte)
  /-- The shadow digest ends (R465). -/
  | shadowDigestDone
  /-- A read of DIG_RIDGE_HI, DIG_PUB_HI, DIG_VAL_HI or DIG_SHD_HI (R468). -/
  | digestRead (party : Party) (reg : Fin 4)
  /-- A main rail has been beyond a reset threshold for 10 µs (R470). -/
  | supplyMonitorReset (rail : Rail)
  /-- PORST_N or RESET_N has been low for 1 µs (R475). -/
  | resetAssert (pin : ResetPin)
  /-- Reset is released: the device samples BOOT[1:0], measures VDDIO and starts (R471, R478, R479); `stop` says where the word writes of the start stop, if they do (R442, R472). -/
  | deviceStart (boot : BitVec 2) (vddioMv : BitVec 16) (stop : Option NvStop := none)
  /-- VFIELD enters or leaves its over- or undervoltage window (R473). -/
  | vfieldWindow (high active : Bool)
  /-- A die has been at or above 170 °C for 10 µs (R491). -/
  | thermalReset
  /-- A write of PWR_MODE with REQ 0 (R483). -/
  | modeReqRun (party : Party)
  /-- A write of PWR_MODE with REQ 1 (R483). -/
  | modeReqHalt (party : Party)
  /-- A write of PWR_MODE with REQ 2 (R483). -/
  | modeReqStandby (party : Party)
  /-- A write of PWR_MODE with REQ 3 (R483). -/
  | modeReqDeep (party : Party)
  /-- The recorder queue is empty and no NV write runs: COMPUTE switches off (R486). -/
  | deepEntry
  /-- The calendar reaches the wake alarm in DEEP (R486). -/
  | wakeAlarm
  /-- A write of KEY 0xA5C3 to DEV_SWRST (R500). -/
  | swrstFirst (party : Party)
  /-- A write of KEY 0x3C5A to DEV_SWRST (R500). -/
  | swrstSecond (party : Party)
  /-- A debug release through the test access port (R478); `stop` says where the word writes of the start stop, if they do (R442, R472). -/
  | debugRelease (stop : Option NvStop := none)
  /-- A read of DEV_UID_HI (R499). -/
  | uidRead (party : Party)
  /-- A write of DEV_BRIDGE_CLR.CLR = 1 (R499). -/
  | bridgeClr (party : Party)
  /-- A write of PWR_TCLR.CLR = 1 (R501). -/
  | tempClr (party : Party)
  /-- The BYPASS instruction is loaded (R498). -/
  | jtagBypass
  /-- The IDCODE instruction is loaded (R498). -/
  | jtagIdcode
  /-- The SAMPLE/PRELOAD instruction is loaded (R498). -/
  | jtagSamplePreload
  /-- The EXTEST instruction is loaded (R498). -/
  | jtagExtest
  /-- A register access of the debug instruction (R498). -/
  | jtagDebugAccess (addr : BitVec 24) (write : Option Word)
  /-- A period of a leg's chop grid starts, at a current in 5 mA (R301). -/
  | chopPeriodStart (leg : Fin 16) (amp : Nat)
  /-- After blanking the current reaches the chop target (R301). -/
  | chopTargetReached (leg : Fin 16)
  /-- MIXT µs into a MIXED decay interval (R293). -/
  | mixedFastEnd (leg : Fin 16)
  /-- 1 ms without a contrary ball voltage (R339). -/
  | doReadbackEnd (ch : Fin 24)
  /-- A CAN protocol error with its LEC code, and the object whose frame was being sent (R421). -/
  | canErrorDetected (ctl : Fin 2) (count : CanCount) (lec : Fin 7) (sending : Option (Fin 64))
  /-- A frame that is a violation or a duplicate arrives (R425, R426, R439): whether its FCS is right, and its EtherType. -/
  | linkFrameDiscard (port : Fin 2) (fcsOk : Bool) (etype : BitVec 16) (frame : LinkFrame)
  /-- The sub-second counter of the calendar clock wraps (R390, R393). -/
  | calendarSecond
  /-- A supervisor start ends (R449). -/
  | supervisorStartDone
  /-- The start-up sequence reaches step 7 (R479). -/
  | startUpRun
  /-- A requested power mode comes into force (R483). -/
  | powerModeChangeDone
  deriving DecidableEq, Repr

end Sys2Proof
end

