-- ==== Sys2Proof/Decode.lean ====
section
/-!
DEFINITION. The command that a word of spec/opcode_table.json spells. The table gives no row any bits: the device takes commands at
its pins and ports, not words of one encoding. The words of the control engines' programs, which the device fetches itself, are
decoded where they run (Machine/EngRun.lean).
-/
namespace Sys2Proof

/-- The command that the `nbits` bits of `w` spell by the table's bits: none, since no row has any (log entry 7). -/
def decodeTableWord (_nbits _w : Nat) : Option Instr := none

end Sys2Proof
end

