-- ==== Sys2Proof/Config.lean ====
section
/-!
DEFINITION. What one device fixes and the spec leaves open: free values without a body, so that no proof can see them.
Each is applied to a number that no two draws share, or to the operands it depends on.
-/
namespace Sys2Proof.Config

/-- A word that the spec leaves open, by draw number. -/
opaque freeWord : Nat → Word

/-- A number that the spec leaves open, by draw number. -/
opaque freeNat : Nat → Nat

/-- A signed number that the spec leaves open, by draw number. -/
opaque freeInt : Nat → Int

/-- Bytes of NV memory after power is lost during a write, by address and draw number. -/
opaque freeByte : Nat → Nat → Byte

/-- The unique identifier of the device (R500): its two words, the upper one at 0. -/
opaque uid : Nat → Word

end Sys2Proof.Config
end

