-- ==== Sys2Proof/Machine/RegMap.lean ====
section
/-!
DEFINITION. The register map: for every kind of page the registers of its chapter with offsets, fields, access codes and
reset values, the common registers of R24 with the block-specific bits of each page, and the capability words.
A reset value that the spec leaves to the device, the start or the NV store stands at 0 here (log entry 3).
-/
namespace Sys2Proof.Machine

/-- A read-only field. -/
def rfRo (hi lo rst : Nat) : FieldDesc := ⟨hi, lo, .ro, rst, .page, false, false, false⟩

/-- A configuration field governed by the page's OWN (R31, R460). -/
def rfCfg (hi lo : Nat) (a : Acc) (rst : Nat) : FieldDesc := ⟨hi, lo, a, rst, .page, false, true, false⟩

/-- A configuration field governed by the unit's owner field. -/
def rfCfgU (hi lo : Nat) (a : Acc) (rst : Nat) : FieldDesc := ⟨hi, lo, a, rst, .unit, false, true, false⟩

/-- A field that is no configuration field and falls under LOCK. -/
def rfNc (hi lo : Nat) (a : Acc) (rst : Nat) : FieldDesc := ⟨hi, lo, a, rst, .page, false, false, false⟩

/-- The same, governed by the unit's owner. -/
def rfNcU (hi lo : Nat) (a : Acc) (rst : Nat) : FieldDesc := ⟨hi, lo, a, rst, .unit, false, false, false⟩

/-- A field that stays writable under LOCK (R33). -/
def rfOp (hi lo : Nat) (a : Acc) (rst : Nat) : FieldDesc := ⟨hi, lo, a, rst, .page, true, false, false⟩

/-- The same, governed by the unit's owner. -/
def rfOpU (hi lo : Nat) (a : Acc) (rst : Nat) : FieldDesc := ⟨hi, lo, a, rst, .unit, true, false, false⟩

/-- An owner field, written only by SUP and HOST (R31). -/
def rfOwner (hi lo : Nat) (a : Acc) (rst : Nat) : FieldDesc := ⟨hi, lo, a, rst, .supHost, false, true, false⟩

/-- A field that belongs to the party that writes it (R122). -/
def rfParty (hi lo : Nat) (a : Acc) (rst : Nat) : FieldDesc := ⟨hi, lo, a, rst, .party, true, false, false⟩

/-- A window data field: every write writes the addressed word (R502); the window's own chapter judges it. -/
def rfWin (hi lo : Nat) (a : Acc) (rst : Nat) : FieldDesc := ⟨hi, lo, a, rst, .page, false, false, true⟩

/-- The common registers of a TICK page (R24) with its block-specific bits. -/
def commonTick : List RegDesc := [
  -- ID
  ⟨0x0, 0x0, 1, [rfRo 31 24 0x0, rfRo 23 16 0x0, rfRo 15 12 0x1, rfRo 11 8 0x2, rfRo 7 0 0x1]⟩,
  -- CAP
  ⟨0x4, 0x0, 1, [rfRo 31 24 0x0, rfRo 23 23 0x0, rfRo 22 22 0x0, rfRo 15 0 0x0]⟩,
  -- CTRL
  ⟨0x8, 0x0, 1, [rfCfg 15 8 .rw 0x3, rfNc 2 2 .wo 0x0, rfNc 1 1 .wo 0x0, rfCfg 0 0 .rw 0x1]⟩,
  -- STAT
  ⟨0xc, 0x0, 1, [rfRo 15 8 0x0, rfRo 4 4 0x0, rfRo 3 3 0x0, rfRo 2 2 0x0, rfRo 1 1 0x0, rfRo 0 0 0x1]⟩,
  -- IRQ_STAT
  ⟨0x10, 0x0, 1, [rfOp 19 19 .w1c 0x0, rfOp 18 18 .w1c 0x0, rfOp 17 17 .w1c 0x0, rfOp 16 16 .w1c 0x0, rfOp 3 3 .w1c 0x0, rfOp 2 2 .w1c 0x0, rfOp 1 1 .w1c 0x0, rfOp 0 0 .w1c 0x0]⟩,
  -- IRQ_EN
  ⟨0x14, 0x0, 1, [rfOp 19 16 .rw 0x0, rfOp 3 0 .rw 0x0]⟩,
  -- FLT_STAT
  ⟨0x18, 0x0, 1, [rfRo 31 16 0x0, rfRo 15 8 0x0, rfOp 7 7 .wo 0x0, rfRo 4 2 0x0, rfRo 1 1 0x0, rfRo 0 0 0x0]⟩,
  -- FINJ
  ⟨0x1c, 0x0, 1, [rfNc 31 31 .rw 0x0, rfRo 30 30 0x0, rfNc 15 8 .rw 0x0, rfNc 7 0 .rw 0x0]⟩,
  -- OWN
  ⟨0x20, 0x0, 1, [rfOwner 16 16 .rwd 0x0, rfRo 12 8 0x3, rfOwner 4 0 .rwd 0x3]⟩,
  -- LOCK
  ⟨0x24, 0x0, 1, [rfRo 17 17 0x0, rfRo 16 16 0x0, rfOp 15 0 .wo 0x0]⟩,
  -- BATTEN
  ⟨0x28, 0x0, 1, [rfRo 31 0 0x0]⟩,
  -- GEN
  ⟨0x2c, 0x0, 1, [rfRo 31 16 0x0, rfRo 15 0 0x0]⟩]

/-- The block registers of a TICK page (R64). -/
def regsTickPart0 : List RegDesc := [
  -- CNT_LO
  ⟨0x100, 0x0, 1, [rfRo 31 0 0x0]⟩,
  -- CNT_HI
  ⟨0x104, 0x0, 1, [rfRo 15 0 0x0]⟩,
  -- NOW
  ⟨0x108, 0x0, 1, [rfRo 22 16 0x0, rfRo 9 0 0x0]⟩,
  -- SYNC_CTRL
  ⟨0x110, 0x0, 1, [rfCfg 15 8 .rwd 0x80, rfCfg 1 0 .rwd 0x0]⟩,
  -- SYNC_STAT
  ⟨0x114, 0x0, 1, [rfRo 31 16 0xffff, rfRo 12 8 0x0, rfRo 4 4 0x0, rfRo 2 0 0x0]⟩,
  -- OFFSET
  ⟨0x118, 0x0, 1, [rfRo 31 0 0x0]⟩,
  -- RATE
  ⟨0x11c, 0x0, 1, [rfRo 31 0 0x0]⟩,
  -- ADOPT
  ⟨0x120, 0x0, 1, [rfRo 15 0 0x0]⟩,
  -- LEN
  ⟨0x124, 0x0, 1, [rfRo 15 0 0xc350]⟩,
  -- MON
  ⟨0x128, 0x0, 1, [rfRo 31 16 0x0, rfRo 15 0 0xffff]⟩,
  -- MON_CLR
  ⟨0x12c, 0x0, 1, [rfNc 0 0 .wo 0x0]⟩,
  -- LATE_MAP0
  ⟨0x130, 0x0, 1, [rfRo 31 0 0x0]⟩]

/-- The block registers of a TICK page (R64). -/
def regsTickPart1 : List RegDesc := [
  -- LATE_MAP1
  ⟨0x134, 0x0, 1, [rfRo 31 0 0x0]⟩]

/-- The block registers of a TICK page (R64). -/
def regsTick : List RegDesc := regsTickPart0 ++ regsTickPart1

/-- The common registers of a SNS page (R24) with its block-specific bits. -/
def commonSns : List RegDesc := [
  -- ID
  ⟨0x0, 0x0, 1, [rfRo 31 24 0x0, rfRo 23 16 0x0, rfRo 15 12 0x1, rfRo 11 8 0x2, rfRo 7 0 0x1]⟩,
  -- CAP
  ⟨0x4, 0x0, 1, [rfRo 31 24 0x0, rfRo 23 23 0x0, rfRo 22 22 0x0, rfRo 15 0 0x0]⟩,
  -- CTRL
  ⟨0x8, 0x0, 1, [rfOp 16 16 .wo 0x0, rfCfg 15 8 .rw 0x3, rfNc 2 2 .wo 0x0, rfNc 1 1 .wo 0x0, rfCfg 0 0 .rw 0x0]⟩,
  -- STAT
  ⟨0xc, 0x0, 1, [rfRo 19 19 0x0, rfRo 18 18 0x0, rfRo 17 17 0x0, rfRo 16 16 0x0, rfRo 15 8 0x0, rfRo 4 4 0x0, rfRo 3 3 0x0, rfRo 2 2 0x0, rfRo 1 1 0x1, rfRo 0 0 0x0]⟩,
  -- IRQ_STAT
  ⟨0x10, 0x0, 1, [rfOp 19 19 .w1c 0x0, rfOp 18 18 .w1c 0x0, rfOp 17 17 .w1c 0x0, rfOp 16 16 .w1c 0x0, rfOp 21 21 .w1c 0x0, rfOp 20 20 .w1c 0x0, rfOp 3 3 .w1c 0x0, rfOp 2 2 .w1c 0x0, rfOp 1 1 .w1c 0x0, rfOp 0 0 .w1c 0x0]⟩,
  -- IRQ_EN
  ⟨0x14, 0x0, 1, [rfOp 19 16 .rw 0x0, rfOp 21 20 .rw 0x0, rfOp 3 0 .rw 0x0]⟩,
  -- FLT_STAT
  ⟨0x18, 0x0, 1, [rfRo 31 16 0x0, rfRo 15 8 0x0, rfOp 7 7 .wo 0x0, rfRo 4 2 0x0, rfRo 1 1 0x0, rfRo 0 0 0x0]⟩,
  -- FINJ
  ⟨0x1c, 0x0, 1, [rfNc 31 31 .rw 0x0, rfRo 30 30 0x0, rfNc 15 8 .rw 0x0, rfNc 7 0 .rw 0x0]⟩,
  -- OWN
  ⟨0x20, 0x0, 1, [rfOwner 16 16 .rwd 0x0, rfRo 12 8 0x3, rfOwner 4 0 .rwd 0x3]⟩,
  -- LOCK
  ⟨0x24, 0x0, 1, [rfRo 17 17 0x0, rfRo 16 16 0x0, rfOp 15 0 .wo 0x0]⟩,
  -- BATTEN
  ⟨0x28, 0x0, 1, [rfRo 31 0 0x0]⟩,
  -- GEN
  ⟨0x2c, 0x0, 1, [rfRo 31 16 0x0, rfRo 15 0 0x0]⟩]

/-- The block registers of a SNS page (R102). -/
def regsSnsPart0 : List RegDesc := [
  -- CH_CFG
  ⟨0x100, 0x10, 16, [rfCfg 23 20 .rwd 0x4, rfCfg 16 16 .rwd 0x0, rfCfg 11 8 .rwd 0x7, rfCfg 4 4 .rwd 0x0, rfCfg 3 3 .rwd 0x0, rfCfg 2 2 .rwd 0x0, rfCfg 1 1 .rwd 0x1, rfCfg 0 0 .rwd 0x0]⟩,
  -- CH_RANGE
  ⟨0x104, 0x10, 16, [rfCfg 19 16 .rwd 0x9, rfCfg 11 8 .rwd 0x0, rfOp 3 0 .rw 0x2]⟩,
  -- CH_STAT
  ⟨0x108, 0x10, 16, [rfRo 31 16 0x0, rfRo 12 12 0x0, rfRo 11 11 0x0, rfRo 10 10 0x0, rfRo 9 9 0x0, rfRo 8 8 0x0, rfRo 7 4 0x2, rfRo 3 0 0x2]⟩,
  -- CH_RAW
  ⟨0x10c, 0x10, 16, [rfRo 31 0 0x0]⟩,
  -- EXC
  ⟨0x200, 0x4, 8, [rfRo 16 16 0x0, rfCfg 12 12 .rws 0x1, rfCfg 9 8 .rws 0x0, rfCfg 6 4 .rws 0x0, rfCfg 1 0 .rws 0x0]⟩,
  -- BK_MUX
  ⟨0x240, 0x20, 2, [rfCfg 31 24 .rws 0x4, rfCfg 20 16 .rws 0x1, rfCfg 11 8 .rws 0x3, rfCfg 0 0 .rws 0x0]⟩,
  -- BK_PTS
  ⟨0x244, 0x20, 2, [rfCfg 15 0 .rws 0x1]⟩,
  -- BK_TOL
  ⟨0x248, 0x20, 2, [rfCfg 23 0 .rws 0x0]⟩,
  -- BK_STAT
  ⟨0x24c, 0x20, 2, [rfRo 31 16 0x0, rfRo 11 8 0x0, rfRo 7 4 0x0, rfRo 3 3 0x0, rfNc 1 1 .w1c 0x0, rfRo 0 0 0x0]⟩,
  -- BK_CLPIN
  ⟨0x250, 0x20, 2, [rfNc 15 0 .w1c 0x0]⟩,
  -- BK_LATEPT
  ⟨0x254, 0x20, 2, [rfRo 15 0 0x0]⟩,
  -- RES_VAL
  ⟨0x280, 0x8, 16, [rfRo 31 0 0x0]⟩]

/-- The block registers of a SNS page (R102). -/
def regsSnsPart1 : List RegDesc := [
  -- RES_META
  ⟨0x284, 0x8, 16, [rfRo 31 24 0x80, rfRo 23 8 0x0, rfRo 7 0 0x0]⟩,
  -- PTSEL
  ⟨0x300, 0x0, 1, [rfParty 7 4 .rw 0x0, rfParty 3 0 .rw 0x0]⟩,
  -- PT_VAL
  ⟨0x304, 0x0, 1, [rfRo 31 0 0x0]⟩,
  -- PT_META
  ⟨0x308, 0x0, 1, [rfRo 31 24 0x80, rfRo 23 8 0x0, rfRo 7 0 0x0]⟩,
  -- BK_CJT
  ⟨0x310, 0x4, 2, [rfRo 31 0 0x0]⟩,
  -- CH_LIN
  ⟨0x320, 0x4, 16, [rfCfg 31 28 .rwd 0x0, rfCfg 21 16 .rwd 0x0, rfCfg 13 12 .rwd 0x0, rfCfg 11 8 .rwd 0x0, rfCfg 0 0 .rwd 0x0]⟩,
  -- CH_DIAG
  ⟨0x360, 0x4, 16, [rfRo 31 16 0x0, rfRo 12 12 0x0, rfRo 11 11 0x0, rfRo 10 10 0x0, rfRo 9 9 0x0, rfNc 8 8 .w1c 0x0, rfCfg 5 4 .rwd 0x0, rfCfg 0 0 .rwd 0x0]⟩,
  -- CH_ZMEAS
  ⟨0x3a0, 0x4, 16, [rfRo 31 0 0x0]⟩,
  -- CM
  ⟨0x3e0, 0x4, 4, [rfCfg 31 16 .rwd 0x7fff, rfCfg 15 0 .rwd 0x8000]⟩,
  -- COEF_ADDR
  ⟨0x3f0, 0x0, 1, [rfOp 16 16 .rw 0x0, rfOp 8 8 .rw 0x0, rfOp 7 4 .rw 0x0, rfOp 3 0 .rw 0x0]⟩,
  -- COEF_DATA
  ⟨0x3f4, 0x0, 1, [rfWin 31 0 .rw 0x0]⟩]

/-- The block registers of a SNS page (R102). -/
def regsSns : List RegDesc := regsSnsPart0 ++ regsSnsPart1

/-- The common registers of a RPT page (R24) with its block-specific bits. -/
def commonRpt : List RegDesc := [
  -- ID
  ⟨0x0, 0x0, 1, [rfRo 31 24 0x0, rfRo 23 16 0x0, rfRo 15 12 0x1, rfRo 11 8 0x2, rfRo 7 0 0x1]⟩,
  -- CAP
  ⟨0x4, 0x0, 1, [rfRo 31 24 0x0, rfRo 23 23 0x0, rfRo 22 22 0x0, rfRo 15 0 0x0]⟩,
  -- CTRL
  ⟨0x8, 0x0, 1, [rfCfg 15 8 .rw 0x3, rfNc 2 2 .wo 0x0, rfNc 1 1 .wo 0x0, rfCfg 0 0 .rw 0x0]⟩,
  -- STAT
  ⟨0xc, 0x0, 1, [rfRo 15 8 0x0, rfRo 4 4 0x0, rfRo 3 3 0x0, rfRo 2 2 0x0, rfRo 1 1 0x1, rfRo 0 0 0x0]⟩,
  -- IRQ_STAT
  ⟨0x10, 0x0, 1, [rfOp 3 3 .w1c 0x0, rfOp 2 2 .w1c 0x0, rfOp 1 1 .w1c 0x0, rfOp 0 0 .w1c 0x0]⟩,
  -- IRQ_EN
  ⟨0x14, 0x0, 1, [rfOp 3 0 .rw 0x0]⟩,
  -- FLT_STAT
  ⟨0x18, 0x0, 1, [rfRo 31 16 0x0, rfRo 15 8 0x0, rfOp 7 7 .wo 0x0, rfRo 4 2 0x0, rfRo 1 1 0x0, rfRo 0 0 0x0]⟩,
  -- FINJ
  ⟨0x1c, 0x0, 1, [rfNc 31 31 .rw 0x0, rfRo 30 30 0x0, rfNc 15 8 .rw 0x0, rfNc 7 0 .rw 0x0]⟩,
  -- OWN
  ⟨0x20, 0x0, 1, [rfOwner 16 16 .rwd 0x0, rfRo 12 8 0x3, rfOwner 4 0 .rwd 0x3]⟩,
  -- LOCK
  ⟨0x24, 0x0, 1, [rfRo 17 17 0x0, rfRo 16 16 0x0, rfOp 15 0 .wo 0x0]⟩,
  -- BATTEN
  ⟨0x28, 0x0, 1, [rfRo 31 0 0x0]⟩,
  -- GEN
  ⟨0x2c, 0x0, 1, [rfRo 31 16 0x0, rfRo 15 0 0x0]⟩]

/-- The block registers of a RPT page (R138). -/
def regsRpt : List RegDesc := [
  -- OUT_CFG
  ⟨0x100, 0x20, 4, [rfCfg 31 28 .rwd 0x0, rfCfg 21 16 .rwd 0x0, rfCfg 15 8 .rwd 0x80, rfCfg 1 0 .rwd 0x0]⟩,
  -- OUT_VLO
  ⟨0x104, 0x20, 4, [rfCfg 31 0 .rwd 0x0]⟩,
  -- OUT_VHI
  ⟨0x108, 0x20, 4, [rfCfg 31 0 .rwd 0x10000]⟩,
  -- OUT_OLO
  ⟨0x10c, 0x20, 4, [rfCfg 31 0 .rwd 0x3e8]⟩,
  -- OUT_OHI
  ⟨0x110, 0x20, 4, [rfCfg 31 0 .rwd 0x989680]⟩,
  -- OUT_SAFE
  ⟨0x114, 0x20, 4, [rfCfg 31 0 .rwd 0x3e8]⟩,
  -- OUT_PERIOD
  ⟨0x118, 0x20, 4, [rfCfg 19 0 .rwd 0x3e8]⟩,
  -- OUT_STAT
  ⟨0x11c, 0x20, 4, [rfRo 31 31 0x0, rfRo 30 30 0x0, rfRo 23 0 0x0]⟩]

/-- The common registers of a MOI page (R24) with its block-specific bits. -/
def commonMoi : List RegDesc := [
  -- ID
  ⟨0x0, 0x0, 1, [rfRo 31 24 0x0, rfRo 23 16 0x0, rfRo 15 12 0x1, rfRo 11 8 0x2, rfRo 7 0 0x1]⟩,
  -- CAP
  ⟨0x4, 0x0, 1, [rfRo 31 24 0x0, rfRo 23 23 0x0, rfRo 22 22 0x0, rfRo 15 0 0x0]⟩,
  -- CTRL
  ⟨0x8, 0x0, 1, [rfCfg 15 8 .rw 0x3, rfNc 2 2 .wo 0x0, rfNc 1 1 .wo 0x0, rfCfg 0 0 .rw 0x0]⟩,
  -- STAT
  ⟨0xc, 0x0, 1, [rfRo 17 17 0x0, rfRo 16 16 0x0, rfRo 15 8 0x0, rfRo 4 4 0x0, rfRo 3 3 0x0, rfRo 2 2 0x0, rfRo 1 1 0x1, rfRo 0 0 0x0]⟩,
  -- IRQ_STAT
  ⟨0x10, 0x0, 1, [rfOp 20 20 .w1c 0x0, rfOp 19 19 .w1c 0x0, rfOp 18 18 .w1c 0x0, rfOp 17 17 .w1c 0x0, rfOp 16 16 .w1c 0x0, rfOp 3 3 .w1c 0x0, rfOp 2 2 .w1c 0x0, rfOp 1 1 .w1c 0x0, rfOp 0 0 .w1c 0x0]⟩,
  -- IRQ_EN
  ⟨0x14, 0x0, 1, [rfOp 20 16 .rw 0x0, rfOp 3 0 .rw 0x0]⟩,
  -- FLT_STAT
  ⟨0x18, 0x0, 1, [rfRo 31 16 0x0, rfRo 15 8 0x0, rfOp 7 7 .wo 0x0, rfRo 4 2 0x0, rfRo 1 1 0x0, rfRo 0 0 0x0]⟩,
  -- FINJ
  ⟨0x1c, 0x0, 1, [rfNc 31 31 .rw 0x0, rfRo 30 30 0x0, rfNc 15 8 .rw 0x0, rfNc 7 0 .rw 0x0]⟩,
  -- OWN
  ⟨0x20, 0x0, 1, [rfOwner 16 16 .rwd 0x0, rfRo 12 8 0x3, rfOwner 4 0 .rwd 0x3]⟩,
  -- LOCK
  ⟨0x24, 0x0, 1, [rfRo 17 17 0x0, rfRo 16 16 0x0, rfOp 15 0 .wo 0x0]⟩,
  -- BATTEN
  ⟨0x28, 0x0, 1, [rfRo 31 0 0x0]⟩,
  -- GEN
  ⟨0x2c, 0x0, 1, [rfRo 31 16 0x0, rfRo 15 0 0x0]⟩]

/-- The block registers of a MOI page (R167). -/
def regsMoiPart0 : List RegDesc := [
  -- CH_CFG
  ⟨0x100, 0x20, 8, [rfCfg 29 16 .rwd 0xa0, rfOp 12 8 .rwd 0x0, rfCfg 0 0 .rwd 0x0]⟩,
  -- CH_TEMP
  ⟨0x104, 0x20, 8, [rfCfg 31 28 .rwd 0x0, rfCfg 21 16 .rwd 0x0, rfCfg 13 12 .rwd 0x0]⟩,
  -- CH_DIAG
  ⟨0x108, 0x20, 8, [rfCfg 31 24 .rwd 0x8, rfCfg 23 16 .rwd 0xa, rfCfg 15 8 .rwd 0xa, rfCfg 7 0 .rwd 0x14]⟩,
  -- CH_MOFS
  ⟨0x10c, 0x20, 8, [rfCfg 31 0 .rwd 0x0]⟩,
  -- CH_CA
  ⟨0x110, 0x20, 8, [rfCfg 31 0 .rwd 0xa0000]⟩,
  -- CH_STAT
  ⟨0x114, 0x20, 8, [rfRo 31 16 0x0, rfRo 15 12 0x0, rfRo 11 8 0x0, rfRo 6 6 0x0, rfRo 5 5 0x0, rfRo 4 4 0x0, rfRo 3 3 0x0, rfRo 2 2 0x0, rfRo 1 1 0x0, rfRo 0 0 0x0]⟩,
  -- CH_FOUL
  ⟨0x118, 0x20, 8, [rfRo 31 16 0x0, rfRo 15 0 0x0]⟩,
  -- CH_MOIST
  ⟨0x200, 0x20, 8, [rfRo 31 0 0x0]⟩,
  -- CH_DENS
  ⟨0x204, 0x20, 8, [rfRo 31 0 0x0]⟩,
  -- CH_EPSR
  ⟨0x208, 0x20, 8, [rfRo 31 0 0x0]⟩,
  -- CH_EPSI
  ⟨0x20c, 0x20, 8, [rfRo 31 0 0x0]⟩,
  -- CH_XVAL
  ⟨0x210, 0x20, 8, [rfRo 31 0 0x0]⟩]

/-- The block registers of a MOI page (R167). -/
def regsMoiPart1 : List RegDesc := [
  -- CH_TUSED
  ⟨0x214, 0x20, 8, [rfRo 31 0 0x0]⟩,
  -- CH_META
  ⟨0x218, 0x20, 8, [rfRo 31 24 0x80, rfRo 23 8 0x0, rfRo 7 0 0x0]⟩,
  -- CAL_CTRL
  ⟨0x300, 0x0, 1, [rfOp 21 16 .rw 0x10, rfOp 10 8 .rw 0x0, rfOp 1 0 .wo 0x0]⟩,
  -- CAL_STAT
  ⟨0x304, 0x0, 1, [rfRo 23 16 0x0, rfRo 10 8 0x0, rfRo 6 4 0x0, rfRo 0 0 0x0]⟩,
  -- CAL_TOL
  ⟨0x308, 0x0, 1, [rfCfg 15 0 .rw 0x5]⟩,
  -- TBL_ADDR
  ⟨0x310, 0x0, 1, [rfOp 16 16 .rw 0x0, rfOp 15 15 .rw 0x0, rfOp 14 12 .rw 0x0, rfOp 11 0 .rw 0x0]⟩,
  -- TBL_DATA
  ⟨0x314, 0x0, 1, [rfWin 31 0 .rw 0x0]⟩,
  -- SWAP_CHK
  ⟨0x318, 0x0, 1, [rfRo 15 15 0x0, rfRo 10 8 0x0, rfRo 3 0 0x0]⟩,
  -- PLL_STAT
  ⟨0x320, 0x0, 1, [rfRo 31 16 0x0, rfRo 0 0 0x0]⟩,
  -- BK_STAT
  ⟨0x330, 0x4, 2, [rfNc 27 16 .w1c 0x0, rfNc 1 1 .w1c 0x0, rfRo 0 0 0x0]⟩]

/-- The block registers of a MOI page (R167). -/
def regsMoi : List RegDesc := regsMoiPart0 ++ regsMoiPart1

/-- The common registers of a LPA page (R24) with its block-specific bits. -/
def commonLpa : List RegDesc := [
  -- ID
  ⟨0x0, 0x0, 1, [rfRo 31 24 0x0, rfRo 23 16 0x0, rfRo 15 12 0x1, rfRo 11 8 0x2, rfRo 7 0 0x1]⟩,
  -- CAP
  ⟨0x4, 0x0, 1, [rfRo 31 24 0x0, rfRo 23 23 0x0, rfRo 22 22 0x0, rfRo 15 0 0x0]⟩,
  -- CTRL
  ⟨0x8, 0x0, 1, [rfCfg 15 8 .rw 0x3, rfNc 2 2 .wo 0x0, rfNc 1 1 .wo 0x0, rfCfg 0 0 .rw 0x0]⟩,
  -- STAT
  ⟨0xc, 0x0, 1, [rfRo 15 8 0x0, rfRo 4 4 0x0, rfRo 3 3 0x0, rfRo 2 2 0x0, rfRo 1 1 0x1, rfRo 0 0 0x0]⟩,
  -- IRQ_STAT
  ⟨0x10, 0x0, 1, [rfOp 18 18 .w1c 0x0, rfOp 17 17 .w1c 0x0, rfOp 16 16 .w1c 0x0, rfOp 3 3 .w1c 0x0, rfOp 2 2 .w1c 0x0, rfOp 1 1 .w1c 0x0, rfOp 0 0 .w1c 0x0]⟩,
  -- IRQ_EN
  ⟨0x14, 0x0, 1, [rfOp 18 16 .rw 0x0, rfOp 3 0 .rw 0x0]⟩,
  -- FLT_STAT
  ⟨0x18, 0x0, 1, [rfRo 31 16 0x0, rfRo 15 8 0x0, rfOp 7 7 .wo 0x0, rfRo 4 2 0x0, rfRo 1 1 0x0, rfRo 0 0 0x0]⟩,
  -- FINJ
  ⟨0x1c, 0x0, 1, [rfNc 31 31 .rw 0x0, rfRo 30 30 0x0, rfNc 15 8 .rw 0x0, rfNc 7 0 .rw 0x0]⟩,
  -- OWN
  ⟨0x20, 0x0, 1, [rfOwner 16 16 .rwd 0x0, rfRo 12 8 0x3, rfOwner 4 0 .rwd 0x3]⟩,
  -- LOCK
  ⟨0x24, 0x0, 1, [rfRo 17 17 0x0, rfRo 16 16 0x0, rfOp 15 0 .wo 0x0]⟩,
  -- BATTEN
  ⟨0x28, 0x0, 1, [rfRo 31 0 0x0]⟩,
  -- GEN
  ⟨0x2c, 0x0, 1, [rfRo 31 16 0x0, rfRo 15 0 0x0]⟩]

/-- The block registers of a LPA page (R197). -/
def regsLpa : List RegDesc := [
  -- SL_CTRL
  ⟨0x100, 0x10, 32, [rfOwner 31 27 .rwd 0x3, rfCfgU 23 16 .rwd 0x0, rfCfgU 11 6 .rwd 0x0, rfCfgU 5 3 .rwd 0x0, rfCfgU 2 2 .rwd 0x1, rfOpU 1 0 .rwd 0x0]⟩,
  -- SL_SP
  ⟨0x104, 0x10, 32, [rfOpU 31 0 .rw 0x0]⟩,
  -- SL_MAN
  ⟨0x108, 0x10, 32, [rfOpU 31 0 .rw 0x0]⟩,
  -- SL_OUT
  ⟨0x10c, 0x10, 32, [rfRo 31 0 0x0]⟩,
  -- SL_STAT
  ⟨0x300, 0x4, 32, [rfRo 31 31 0x1, rfRo 30 30 0x0, rfRo 29 28 0x0, rfRo 27 26 0x0, rfRo 25 25 0x0, rfRo 24 24 0x0, rfRo 19 16 0x0, rfRo 11 8 0x0, rfRo 7 0 0xff]⟩,
  -- LOAD
  ⟨0x380, 0x0, 1, [rfRo 31 16 0x0, rfRo 15 0 0x0]⟩,
  -- LOADMAX
  ⟨0x384, 0x0, 1, [rfNc 31 31 .wo 0x0, rfRo 15 0 0x0]⟩,
  -- WIN_ADDR
  ⟨0x388, 0x0, 1, [rfOp 16 16 .rw 0x0, rfOp 15 15 .rw 0x0, rfOp 14 12 .rw 0x0, rfOp 11 0 .rw 0x0]⟩,
  -- WIN_DATA
  ⟨0x38c, 0x0, 1, [rfWin 31 0 .rw 0x0]⟩,
  -- CFG_CHK
  ⟨0x390, 0x0, 1, [rfRo 15 15 0x0, rfRo 13 8 0x0, rfRo 3 0 0x0]⟩]

/-- The common registers of a PRF page (R24) with its block-specific bits. -/
def commonPrf : List RegDesc := [
  -- ID
  ⟨0x0, 0x0, 1, [rfRo 31 24 0x0, rfRo 23 16 0x0, rfRo 15 12 0x1, rfRo 11 8 0x2, rfRo 7 0 0x1]⟩,
  -- CAP
  ⟨0x4, 0x0, 1, [rfRo 31 24 0x0, rfRo 23 23 0x0, rfRo 22 22 0x0, rfRo 15 0 0x0]⟩,
  -- CTRL
  ⟨0x8, 0x0, 1, [rfCfg 15 8 .rw 0x3, rfNc 2 2 .wo 0x0, rfNc 1 1 .wo 0x0, rfCfg 0 0 .rw 0x0]⟩,
  -- STAT
  ⟨0xc, 0x0, 1, [rfRo 15 8 0x0, rfRo 4 4 0x0, rfRo 3 3 0x0, rfRo 2 2 0x0, rfRo 1 1 0x1, rfRo 0 0 0x0]⟩,
  -- IRQ_STAT
  ⟨0x10, 0x0, 1, [rfOp 17 17 .w1c 0x0, rfOp 16 16 .w1c 0x0, rfOp 3 3 .w1c 0x0, rfOp 2 2 .w1c 0x0, rfOp 1 1 .w1c 0x0, rfOp 0 0 .w1c 0x0]⟩,
  -- IRQ_EN
  ⟨0x14, 0x0, 1, [rfOp 17 16 .rw 0x0, rfOp 3 0 .rw 0x0]⟩,
  -- FLT_STAT
  ⟨0x18, 0x0, 1, [rfRo 31 16 0x0, rfRo 15 8 0x0, rfOp 7 7 .wo 0x0, rfRo 4 2 0x0, rfRo 1 1 0x0, rfRo 0 0 0x0]⟩,
  -- FINJ
  ⟨0x1c, 0x0, 1, [rfNc 31 31 .rw 0x0, rfRo 30 30 0x0, rfNc 15 8 .rw 0x0, rfNc 7 0 .rw 0x0]⟩,
  -- OWN
  ⟨0x20, 0x0, 1, [rfOwner 16 16 .rwd 0x0, rfRo 12 8 0x3, rfOwner 4 0 .rwd 0x3]⟩,
  -- LOCK
  ⟨0x24, 0x0, 1, [rfRo 17 17 0x0, rfRo 16 16 0x0, rfOp 15 0 .wo 0x0]⟩,
  -- BATTEN
  ⟨0x28, 0x0, 1, [rfRo 31 0 0x0]⟩,
  -- GEN
  ⟨0x2c, 0x0, 1, [rfRo 31 16 0x0, rfRo 15 0 0x0]⟩]

/-- The block registers of a PRF page (R219). -/
def regsPrf : List RegDesc := [
  -- PG_CTRL
  ⟨0x100, 0x10, 32, [rfOwner 31 27 .rwd 0x3, rfCfgU 4 4 .rwd 0x0, rfOpU 1 0 .rwd 0x0]⟩,
  -- PG_TGT
  ⟨0x104, 0x10, 32, [rfOpU 31 0 .rw 0x0]⟩,
  -- PG_POS
  ⟨0x108, 0x10, 32, [rfRo 31 0 0x0]⟩,
  -- PG_STAT
  ⟨0x10c, 0x10, 32, [rfRo 31 31 0x1, rfRo 30 30 0x0, rfRo 29 29 0x0, rfRo 28 28 0x0, rfRo 27 27 0x0, rfRo 26 26 0x0, rfRo 25 25 0x0, rfRo 7 0 0xff]⟩,
  -- WIN_ADDR
  ⟨0x300, 0x0, 1, [rfOp 16 16 .rw 0x0, rfOp 14 12 .rw 0x0, rfOp 11 0 .rw 0x0]⟩,
  -- WIN_DATA
  ⟨0x304, 0x0, 1, [rfWin 31 0 .rw 0x0]⟩]

/-- The common registers of a TRC page (R24) with its block-specific bits. -/
def commonTrc : List RegDesc := [
  -- ID
  ⟨0x0, 0x0, 1, [rfRo 31 24 0x0, rfRo 23 16 0x0, rfRo 15 12 0x1, rfRo 11 8 0x2, rfRo 7 0 0x1]⟩,
  -- CAP
  ⟨0x4, 0x0, 1, [rfRo 31 24 0x0, rfRo 23 23 0x0, rfRo 22 22 0x0, rfRo 15 0 0x0]⟩,
  -- CTRL
  ⟨0x8, 0x0, 1, [rfCfg 15 8 .rw 0x3, rfNc 2 2 .wo 0x0, rfNc 1 1 .wo 0x0, rfCfg 0 0 .rw 0x0]⟩,
  -- STAT
  ⟨0xc, 0x0, 1, [rfRo 15 8 0x0, rfRo 4 4 0x0, rfRo 3 3 0x0, rfRo 2 2 0x0, rfRo 1 1 0x1, rfRo 0 0 0x0]⟩,
  -- IRQ_STAT
  ⟨0x10, 0x0, 1, [rfOp 23 20 .w1c 0x0, rfOp 19 16 .w1c 0x0, rfOp 3 3 .w1c 0x0, rfOp 2 2 .w1c 0x0, rfOp 1 1 .w1c 0x0, rfOp 0 0 .w1c 0x0]⟩,
  -- IRQ_EN
  ⟨0x14, 0x0, 1, [rfOp 23 16 .rw 0x0, rfOp 3 0 .rw 0x0]⟩,
  -- FLT_STAT
  ⟨0x18, 0x0, 1, [rfRo 31 16 0x0, rfRo 15 8 0x0, rfOp 7 7 .wo 0x0, rfRo 4 2 0x0, rfRo 1 1 0x0, rfRo 0 0 0x0]⟩,
  -- FINJ
  ⟨0x1c, 0x0, 1, [rfNc 31 31 .rw 0x0, rfRo 30 30 0x0, rfNc 15 8 .rw 0x0, rfNc 7 0 .rw 0x0]⟩,
  -- OWN
  ⟨0x20, 0x0, 1, [rfOwner 16 16 .rwd 0x0, rfRo 12 8 0x3, rfOwner 4 0 .rwd 0x3]⟩,
  -- LOCK
  ⟨0x24, 0x0, 1, [rfRo 17 17 0x0, rfRo 16 16 0x0, rfOp 15 0 .wo 0x0]⟩,
  -- BATTEN
  ⟨0x28, 0x0, 1, [rfRo 31 0 0x0]⟩,
  -- GEN
  ⟨0x2c, 0x0, 1, [rfRo 31 16 0x0, rfRo 15 0 0x0]⟩]

/-- The block registers of a TRC page (R220). -/
def regsTrcPart0 : List RegDesc := [
  -- U_CFG
  ⟨0x100, 0x40, 4, [rfCfg 27 24 .rw 0x0, rfCfg 22 16 .rw 0x28, rfCfg 9 8 .rw 0x0]⟩,
  -- U_PRE
  ⟨0x104, 0x40, 4, [rfCfg 12 0 .rw 0x1000]⟩,
  -- U_NODE0
  ⟨0x108, 0x40, 4, [rfCfg 31 28 .rw 0x4, rfCfg 23 0 .rw 0x0]⟩,
  -- U_NODE1
  ⟨0x10c, 0x40, 4, [rfCfg 31 28 .rw 0x4, rfCfg 23 0 .rw 0x0]⟩,
  -- U_NODE2
  ⟨0x110, 0x40, 4, [rfCfg 31 28 .rw 0x4, rfCfg 23 0 .rw 0x0]⟩,
  -- U_NODE3
  ⟨0x114, 0x40, 4, [rfCfg 31 28 .rw 0x4, rfCfg 23 0 .rw 0x0]⟩,
  -- U_TRIG
  ⟨0x118, 0x40, 4, [rfCfg 27 24 .rw 0x0, rfCfg 18 16 .rw 0x4, rfCfg 13 13 .rw 0x0, rfCfg 12 12 .rw 0x0, rfCfg 9 8 .rw 0x0, rfCfg 2 0 .rw 0x0]⟩,
  -- U_LEVEL
  ⟨0x11c, 0x40, 4, [rfCfg 31 0 .rw 0x0]⟩,
  -- U_MASK
  ⟨0x120, 0x40, 4, [rfCfg 31 0 .rw 0xffffffff]⟩,
  -- U_CMD
  ⟨0x124, 0x40, 4, [rfOp 1 0 .wo 0x0]⟩,
  -- U_STAT
  ⟨0x128, 0x40, 4, [rfRo 31 29 0x0, rfRo 28 15 0x0, rfRo 12 0 0x0]⟩,
  -- U_TTICK_LO
  ⟨0x12c, 0x40, 4, [rfRo 31 0 0x0]⟩]

/-- The block registers of a TRC page (R220). -/
def regsTrcPart1 : List RegDesc := [
  -- U_TTICK_HI
  ⟨0x130, 0x40, 4, [rfRo 26 24 0x0, rfRo 22 16 0x0, rfRo 15 0 0x0]⟩]

/-- The block registers of a TRC page (R220). -/
def regsTrc : List RegDesc := regsTrcPart0 ++ regsTrcPart1

/-- The common registers of a LDG page (R24) with its block-specific bits. -/
def commonLdg : List RegDesc := [
  -- ID
  ⟨0x0, 0x0, 1, [rfRo 31 24 0x0, rfRo 23 16 0x0, rfRo 15 12 0x1, rfRo 11 8 0x2, rfRo 7 0 0x1]⟩,
  -- CAP
  ⟨0x4, 0x0, 1, [rfRo 31 24 0x0, rfRo 23 23 0x0, rfRo 22 22 0x0, rfRo 15 0 0x0]⟩,
  -- CTRL
  ⟨0x8, 0x0, 1, [rfCfg 15 8 .rw 0x3, rfNc 2 2 .wo 0x0, rfNc 1 1 .wo 0x0, rfCfg 0 0 .rw 0x0]⟩,
  -- STAT
  ⟨0xc, 0x0, 1, [rfRo 15 8 0x0, rfRo 4 4 0x0, rfRo 3 3 0x0, rfRo 2 2 0x0, rfRo 1 1 0x1, rfRo 0 0 0x0]⟩,
  -- IRQ_STAT
  ⟨0x10, 0x0, 1, [rfOp 21 21 .w1c 0x0, rfOp 20 20 .w1c 0x0, rfOp 19 19 .w1c 0x0, rfOp 18 18 .w1c 0x0, rfOp 17 17 .w1c 0x0, rfOp 16 16 .w1c 0x0, rfOp 3 3 .w1c 0x0, rfOp 2 2 .w1c 0x0, rfOp 1 1 .w1c 0x0, rfOp 0 0 .w1c 0x0]⟩,
  -- IRQ_EN
  ⟨0x14, 0x0, 1, [rfOp 21 16 .rw 0x0, rfOp 3 0 .rw 0x0]⟩,
  -- FLT_STAT
  ⟨0x18, 0x0, 1, [rfRo 31 16 0x0, rfRo 15 8 0x0, rfOp 7 7 .wo 0x0, rfRo 4 2 0x0, rfRo 1 1 0x0, rfRo 0 0 0x0]⟩,
  -- FINJ
  ⟨0x1c, 0x0, 1, [rfNc 31 31 .rw 0x0, rfRo 30 30 0x0, rfNc 15 8 .rw 0x0, rfNc 7 0 .rw 0x0]⟩,
  -- OWN
  ⟨0x20, 0x0, 1, [rfOwner 16 16 .rwd 0x0, rfRo 12 8 0x3, rfOwner 4 0 .rwd 0x3]⟩,
  -- LOCK
  ⟨0x24, 0x0, 1, [rfRo 17 17 0x0, rfRo 16 16 0x0, rfOp 15 0 .wo 0x0]⟩,
  -- BATTEN
  ⟨0x28, 0x0, 1, [rfRo 31 0 0x0]⟩,
  -- GEN
  ⟨0x2c, 0x0, 1, [rfRo 31 16 0x0, rfRo 15 0 0x0]⟩]

/-- The block registers of a LDG page (R252). -/
def regsLdgPart0 : List RegDesc := [
  -- COL_CTRL
  ⟨0x100, 0x40, 4, [rfOwner 31 27 .rwd 0x3, rfCfgU 12 12 .rwd 0x0, rfCfgU 8 8 .rwd 0x0, rfCfgU 5 5 .rwd 0x0, rfCfgU 4 4 .rwd 0x0, rfOpU 1 0 .rwd 0x0]⟩,
  -- COL_CMD
  ⟨0x104, 0x40, 4, [rfOpU 1 0 .wo 0x0]⟩,
  -- COL_SLIP
  ⟨0x108, 0x40, 4, [rfCfgU 15 0 .rwd 0x4000]⟩,
  -- COL_BIAS
  ⟨0x10c, 0x40, 4, [rfRo 31 0 0x0]⟩,
  -- COL_PEXIT
  ⟨0x110, 0x40, 4, [rfRo 31 0 0x0]⟩,
  -- COL_QSUG
  ⟨0x114, 0x40, 4, [rfRo 31 0 0x0]⟩,
  -- COL_QMEAS
  ⟨0x118, 0x40, 4, [rfRo 31 0 0x0]⟩,
  -- COL_STAT
  ⟨0x11c, 0x40, 4, [rfRo 31 31 0x1, rfRo 30 30 0x0, rfRo 29 29 0x0, rfRo 28 28 0x0, rfRo 27 27 0x0, rfRo 26 26 0x0, rfRo 25 25 0x0, rfRo 24 24 0x0, rfRo 23 23 0x0, rfRo 22 22 0x0, rfRo 15 0 0xffff]⟩,
  -- COL_PTR
  ⟨0x120, 0x40, 4, [rfCfgU 21 11 .rw 0x0, rfCfgU 10 0 .rw 0x0]⟩,
  -- COL_TAIL
  ⟨0x124, 0x40, 4, [rfRo 26 16 0x0, rfCfg 10 0 .rw 0x0]⟩,
  -- COL_LOST
  ⟨0x128, 0x40, 4, [rfRo 31 16 0x0, rfRo 15 0 0x0]⟩,
  -- WIN_ADDR
  ⟨0x200, 0x0, 1, [rfOp 16 16 .rw 0x0, rfOp 15 15 .rw 0x0, rfOp 14 12 .rw 0x0, rfOp 11 0 .rw 0x0]⟩]

/-- The block registers of a LDG page (R252). -/
def regsLdgPart1 : List RegDesc := [
  -- WIN_DATA
  ⟨0x204, 0x0, 1, [rfWin 31 0 .rw 0x0]⟩,
  -- CFG_CHK
  ⟨0x208, 0x0, 1, [rfRo 15 15 0x0, rfRo 9 8 0x0, rfRo 3 0 0x0]⟩,
  -- PASS
  ⟨0x20c, 0x0, 1, [rfRo 31 0 0x0]⟩]

/-- The block registers of a LDG page (R252). -/
def regsLdg : List RegDesc := regsLdgPart0 ++ regsLdgPart1

/-- The common registers of a ENG page (R24) with its block-specific bits. -/
def commonEng : List RegDesc := [
  -- ID
  ⟨0x0, 0x0, 1, [rfRo 31 24 0x0, rfRo 23 16 0x0, rfRo 15 12 0x1, rfRo 11 8 0x2, rfRo 7 0 0x1]⟩,
  -- CAP
  ⟨0x4, 0x0, 1, [rfRo 31 24 0x0, rfRo 23 23 0x0, rfRo 22 22 0x0, rfRo 15 0 0x0]⟩,
  -- CTRL
  ⟨0x8, 0x0, 1, [rfNc 17 17 .wo 0x0, rfNc 16 16 .wo 0x0, rfCfg 15 8 .rw 0x3, rfNc 2 2 .wo 0x0, rfNc 1 1 .wo 0x0, rfCfg 0 0 .rw 0x0]⟩,
  -- STAT
  ⟨0xc, 0x0, 1, [rfRo 20 20 0x1, rfRo 19 19 0x0, rfRo 18 18 0x0, rfRo 17 17 0x0, rfRo 16 16 0x0, rfRo 15 8 0x0, rfRo 4 4 0x0, rfRo 3 3 0x0, rfRo 2 2 0x0, rfRo 1 1 0x1, rfRo 0 0 0x0]⟩,
  -- IRQ_STAT
  ⟨0x10, 0x0, 1, [rfOp 20 20 .w1c 0x0, rfOp 19 19 .w1c 0x0, rfOp 18 18 .w1c 0x0, rfOp 17 17 .w1c 0x0, rfOp 16 16 .w1c 0x0, rfOp 3 3 .w1c 0x0, rfOp 2 2 .w1c 0x0, rfOp 1 1 .w1c 0x0, rfOp 0 0 .w1c 0x0]⟩,
  -- IRQ_EN
  ⟨0x14, 0x0, 1, [rfOp 20 16 .rw 0x0, rfOp 3 0 .rw 0x0]⟩,
  -- FLT_STAT
  ⟨0x18, 0x0, 1, [rfRo 31 16 0x0, rfRo 15 8 0x0, rfOp 7 7 .wo 0x0, rfRo 4 2 0x0, rfRo 1 1 0x0, rfRo 0 0 0x0]⟩,
  -- FINJ
  ⟨0x1c, 0x0, 1, [rfNc 31 31 .rw 0x0, rfRo 30 30 0x0, rfNc 15 8 .rw 0x0, rfNc 7 0 .rw 0x0]⟩,
  -- OWN
  ⟨0x20, 0x0, 1, [rfOwner 16 16 .rwd 0x0, rfRo 12 8 0x3, rfOwner 4 0 .rwd 0x3]⟩,
  -- LOCK
  ⟨0x24, 0x0, 1, [rfRo 17 17 0x0, rfRo 16 16 0x0, rfOp 15 0 .wo 0x0]⟩,
  -- BATTEN
  ⟨0x28, 0x0, 1, [rfRo 31 0 0x0]⟩,
  -- GEN
  ⟨0x2c, 0x0, 1, [rfRo 31 16 0x0, rfRo 15 0 0x0]⟩]

/-- The block registers of a ENG page (R287). -/
def regsEngPart0 : List RegDesc := [
  -- CFG
  ⟨0x100, 0x0, 1, [rfCfg 1 1 .rwd 0x0, rfCfg 0 0 .rwd 0x1]⟩,
  -- PROB
  ⟨0x104, 0x0, 1, [rfRo 31 16 0x0, rfRo 14 12 0x0, rfRo 10 8 0x0, rfCfg 7 0 .rw 0x8]⟩,
  -- HDR
  ⟨0x108, 0x0, 1, [rfRo 31 16 0x0, rfRo 15 0 0x0]⟩,
  -- TOOL
  ⟨0x10c, 0x0, 1, [rfRo 31 0 0x0]⟩,
  -- DLCYC
  ⟨0x110, 0x0, 1, [rfRo 31 16 0x0, rfRo 15 0 0x0]⟩,
  -- BGCYC
  ⟨0x114, 0x0, 1, [rfRo 31 16 0x0, rfRo 15 0 0x0]⟩,
  -- CYC_CLR
  ⟨0x118, 0x0, 1, [rfNc 0 0 .wo 0x0]⟩,
  -- TRAP
  ⟨0x11c, 0x0, 1, [rfRo 31 24 0x0, rfRo 18 16 0x0, rfRo 15 15 0x0, rfRo 13 0 0x0]⟩,
  -- SWAP_CHK
  ⟨0x120, 0x0, 1, [rfRo 15 15 0x0, rfRo 3 0 0x0]⟩,
  -- DMWIN
  ⟨0x124, 0x0, 1, [rfCfg 28 16 .rwd 0x1fff, rfCfg 12 0 .rwd 0x0]⟩,
  -- POST
  ⟨0x128, 0x0, 1, [rfRo 31 16 0x0, rfRo 12 8 0x0, rfRo 4 0 0x0]⟩,
  -- COUNT
  ⟨0x12c, 0x0, 1, [rfRo 31 16 0x0, rfRo 15 0 0x0]⟩]

/-- The block registers of a ENG page (R287). -/
def regsEngPart1 : List RegDesc := [
  -- PUB
  ⟨0x180, 0x4, 16, [rfRo 31 0 0x0]⟩,
  -- PUBMETA
  ⟨0x1c0, 0x0, 1, [rfRo 31 31 0x1, rfRo 15 0 0xffff]⟩]

/-- The block registers of a ENG page (R287). -/
def regsEng : List RegDesc := regsEngPart0 ++ regsEngPart1

/-- The common registers of a VLV page (R24) with its block-specific bits. -/
def commonVlv : List RegDesc := [
  -- ID
  ⟨0x0, 0x0, 1, [rfRo 31 24 0x0, rfRo 23 16 0x0, rfRo 15 12 0x1, rfRo 11 8 0x2, rfRo 7 0 0x1]⟩,
  -- CAP
  ⟨0x4, 0x0, 1, [rfRo 31 24 0x0, rfRo 23 23 0x0, rfRo 22 22 0x0, rfRo 15 0 0x0]⟩,
  -- CTRL
  ⟨0x8, 0x0, 1, [rfCfg 15 8 .rw 0x3, rfNc 2 2 .wo 0x0, rfNc 1 1 .wo 0x0, rfCfg 0 0 .rw 0x0]⟩,
  -- STAT
  ⟨0xc, 0x0, 1, [rfRo 15 8 0x0, rfRo 4 4 0x0, rfRo 3 3 0x0, rfRo 2 2 0x0, rfRo 1 1 0x1, rfRo 0 0 0x0]⟩,
  -- IRQ_STAT
  ⟨0x10, 0x0, 1, [rfOp 18 18 .w1c 0x0, rfOp 17 17 .w1c 0x0, rfOp 16 16 .w1c 0x0, rfOp 3 3 .w1c 0x0, rfOp 2 2 .w1c 0x0, rfOp 1 1 .w1c 0x0, rfOp 0 0 .w1c 0x0]⟩,
  -- IRQ_EN
  ⟨0x14, 0x0, 1, [rfOp 18 16 .rw 0x0, rfOp 3 0 .rw 0x0]⟩,
  -- FLT_STAT
  ⟨0x18, 0x0, 1, [rfRo 31 16 0x0, rfRo 15 8 0x0, rfOp 7 7 .wo 0x0, rfRo 4 2 0x0, rfRo 1 1 0x0, rfRo 0 0 0x0]⟩,
  -- FINJ
  ⟨0x1c, 0x0, 1, [rfNc 31 31 .rw 0x0, rfRo 30 30 0x0, rfNc 15 8 .rw 0x0, rfNc 7 0 .rw 0x0]⟩,
  -- OWN
  ⟨0x20, 0x0, 1, [rfOwner 16 16 .rwd 0x0, rfRo 12 8 0x3, rfOwner 4 0 .rwd 0x3]⟩,
  -- LOCK
  ⟨0x24, 0x0, 1, [rfRo 17 17 0x0, rfRo 16 16 0x0, rfOp 15 0 .wo 0x0]⟩,
  -- BATTEN
  ⟨0x28, 0x0, 1, [rfRo 31 0 0x0]⟩,
  -- GEN
  ⟨0x2c, 0x0, 1, [rfRo 31 16 0x0, rfRo 15 0 0x0]⟩]

/-- The block registers of a VLV page (R315). -/
def regsVlvPart0 : List RegDesc := [
  -- LG_CTRL
  ⟨0x100, 0x20, 8, [rfOwner 31 27 .rwd 0x3, rfOpU 9 9 .wo 0x0, rfOpU 8 8 .wo 0x0, rfCfgU 0 0 .rwd 0x0]⟩,
  -- LG_CMD
  ⟨0x104, 0x20, 8, [rfOpU 31 30 .wo 0x0, rfOpU 23 0 .wo 0x0]⟩,
  -- LG_CUR
  ⟨0x108, 0x20, 8, [rfCfgU 25 16 .rwd 0x0, rfCfgU 9 0 .rwd 0x0]⟩,
  -- LG_TIME
  ⟨0x10c, 0x20, 8, [rfCfgU 31 24 .rwd 0x4, rfCfgU 16 0 .rwd 0x2710]⟩,
  -- LG_DECAY
  ⟨0x110, 0x20, 8, [rfCfgU 31 30 .rwd 0x1, rfCfgU 29 28 .rwd 0x0, rfCfgU 27 26 .rwd 0x2, rfCfgU 25 24 .rwd 0x0, rfCfgU 5 0 .rwd 0x8]⟩,
  -- LG_DUTY
  ⟨0x114, 0x20, 8, [rfCfgU 22 16 .rws 0x3c, rfCfgU 6 0 .rwd 0x64]⟩,
  -- LG_STAT
  ⟨0x118, 0x20, 8, [rfRo 31 22 0x0, rfRo 15 15 0x0, rfRo 14 14 0x0, rfRo 13 13 0x0, rfRo 12 12 0x0, rfRo 11 11 0x0, rfRo 10 10 0x0, rfRo 9 9 0x0, rfRo 8 8 0x0, rfRo 7 7 0x0, rfRo 6 6 0x0, rfRo 5 5 0x0, rfRo 2 0 0x0]⟩,
  -- LG_MOVE
  ⟨0x11c, 0x20, 8, [rfRo 31 16 0x0, rfRo 15 14 0x0, rfRo 9 0 0x0]⟩,
  -- PR_CFG
  ⟨0x200, 0x8, 4, [rfOp 31 31 .wo 0x0, rfCfg 24 8 .rwd 0x4e20, rfCfg 4 4 .rwd 0x0, rfCfg 1 0 .rwd 0x0]⟩,
  -- PR_STAT
  ⟨0x204, 0x8, 4, [rfRo 31 16 0x0, rfRo 15 6 0x0, rfRo 1 1 0x0, rfRo 0 0 0x0]⟩,
  -- BK_CHOP
  ⟨0x220, 0x4, 2, [rfCfg 11 0 .rws 0x4e2]⟩,
  -- LG_CNT
  ⟨0x230, 0x4, 8, [rfRo 31 24 0x0, rfRo 23 16 0x0, rfRo 15 8 0x0, rfRo 7 0 0x0]⟩]

/-- The block registers of a VLV page (R315). -/
def regsVlvPart1 : List RegDesc := [
  -- CFG_CHK
  ⟨0x250, 0x0, 1, [rfRo 15 15 0x0, rfRo 9 8 0x0, rfRo 3 0 0x0]⟩]

/-- The block registers of a VLV page (R315). -/
def regsVlv : List RegDesc := regsVlvPart0 ++ regsVlvPart1

/-- The common registers of a FAN page (R24) with its block-specific bits. -/
def commonFan : List RegDesc := [
  -- ID
  ⟨0x0, 0x0, 1, [rfRo 31 24 0x0, rfRo 23 16 0x0, rfRo 15 12 0x1, rfRo 11 8 0x2, rfRo 7 0 0x1]⟩,
  -- CAP
  ⟨0x4, 0x0, 1, [rfRo 31 24 0x0, rfRo 23 23 0x0, rfRo 22 22 0x0, rfRo 15 0 0x0]⟩,
  -- CTRL
  ⟨0x8, 0x0, 1, [rfCfg 15 8 .rw 0x3, rfNc 2 2 .wo 0x0, rfNc 1 1 .wo 0x0, rfCfg 0 0 .rw 0x0]⟩,
  -- STAT
  ⟨0xc, 0x0, 1, [rfRo 15 8 0x0, rfRo 4 4 0x0, rfRo 3 3 0x0, rfRo 2 2 0x0, rfRo 1 1 0x1, rfRo 0 0 0x0]⟩,
  -- IRQ_STAT
  ⟨0x10, 0x0, 1, [rfOp 19 19 .w1c 0x0, rfOp 18 18 .w1c 0x0, rfOp 17 17 .w1c 0x0, rfOp 16 16 .w1c 0x0, rfOp 3 3 .w1c 0x0, rfOp 2 2 .w1c 0x0, rfOp 1 1 .w1c 0x0, rfOp 0 0 .w1c 0x0]⟩,
  -- IRQ_EN
  ⟨0x14, 0x0, 1, [rfOp 19 16 .rw 0x0, rfOp 3 0 .rw 0x0]⟩,
  -- FLT_STAT
  ⟨0x18, 0x0, 1, [rfRo 31 16 0x0, rfRo 15 8 0x0, rfOp 7 7 .wo 0x0, rfRo 4 2 0x0, rfRo 1 1 0x0, rfRo 0 0 0x0]⟩,
  -- FINJ
  ⟨0x1c, 0x0, 1, [rfNc 31 31 .rw 0x0, rfRo 30 30 0x0, rfNc 15 8 .rw 0x0, rfNc 7 0 .rw 0x0]⟩,
  -- OWN
  ⟨0x20, 0x0, 1, [rfOwner 16 16 .rwd 0x0, rfRo 12 8 0x3, rfOwner 4 0 .rwd 0x3]⟩,
  -- LOCK
  ⟨0x24, 0x0, 1, [rfRo 17 17 0x0, rfRo 16 16 0x0, rfOp 15 0 .wo 0x0]⟩,
  -- BATTEN
  ⟨0x28, 0x0, 1, [rfRo 31 0 0x0]⟩,
  -- GEN
  ⟨0x2c, 0x0, 1, [rfRo 31 16 0x0, rfRo 15 0 0x0]⟩]

/-- The block registers of a FAN page (R344). -/
def regsFan : List RegDesc := [
  -- CH_CTRL
  ⟨0x100, 0x20, 12, [rfOwner 31 27 .rwd 0x3, rfCfgU 12 12 .rw 0x0, rfOpU 9 9 .wo 0x0, rfOpU 8 8 .wo 0x0, rfCfgU 4 4 .rw 0x0, rfOpU 1 0 .rw 0x0]⟩,
  -- CH_CFG
  ⟨0x104, 0x20, 12, [rfCfgU 31 16 .rwd 0x61a8, rfCfgU 14 12 .rwd 0x2, rfCfgU 11 4 .rwd 0x1e, rfCfgU 2 0 .rwd 0x0]⟩,
  -- CH_DUTY
  ⟨0x108, 0x20, 12, [rfOpU 25 16 .rw 0x0, rfCfgU 9 0 .rwd 0x0]⟩,
  -- CH_LPIN
  ⟨0x10c, 0x20, 12, [rfCfgU 31 0 .rw 0x0]⟩,
  -- CH_SPD
  ⟨0x110, 0x20, 12, [rfCfgU 31 16 .rwd 0x12c, rfCfgU 15 0 .rwd 0x96]⟩,
  -- CH_EVID
  ⟨0x114, 0x20, 12, [rfCfgU 31 24 .rwd 0x7d, rfCfgU 23 16 .rwd 0xa, rfCfgU 13 13 .rwd 0x0, rfCfgU 12 8 .rwd 0x0, rfCfgU 7 0 .rwd 0xa]⟩,
  -- CH_TSRC01
  ⟨0x118, 0x20, 12, [rfCfgU 31 16 .rwd 0x0, rfCfgU 15 0 .rwd 0x0]⟩,
  -- CH_TSRC23
  ⟨0x11c, 0x20, 12, [rfCfgU 31 16 .rwd 0x0, rfCfgU 15 0 .rwd 0x0]⟩,
  -- CH_STAT
  ⟨0x280, 0x8, 12, [rfRo 31 22 0x0, rfRo 20 18 0x0, rfRo 17 16 0x0, rfRo 15 8 0x64, rfRo 7 7 0x0, rfRo 6 6 0x0, rfRo 5 5 0x0, rfRo 4 4 0x0, rfRo 2 0 0x0]⟩,
  -- CH_SPEED
  ⟨0x284, 0x8, 12, [rfRo 31 0 0x0]⟩,
  -- WIN_ADDR
  ⟨0x340, 0x0, 1, [rfOp 16 16 .rw 0x0, rfOp 14 12 .rw 0x0, rfOp 11 0 .rw 0x0]⟩,
  -- WIN_DATA
  ⟨0x344, 0x0, 1, [rfWin 31 0 .rw 0x0]⟩]

/-- The common registers of a DIN page (R24) with its block-specific bits. -/
def commonDin : List RegDesc := [
  -- ID
  ⟨0x0, 0x0, 1, [rfRo 31 24 0x0, rfRo 23 16 0x0, rfRo 15 12 0x1, rfRo 11 8 0x2, rfRo 7 0 0x1]⟩,
  -- CAP
  ⟨0x4, 0x0, 1, [rfRo 31 24 0x0, rfRo 23 23 0x0, rfRo 22 22 0x0, rfRo 15 0 0x0]⟩,
  -- CTRL
  ⟨0x8, 0x0, 1, [rfCfg 15 8 .rw 0x3, rfNc 2 2 .wo 0x0, rfNc 1 1 .wo 0x0, rfCfg 0 0 .rw 0x0]⟩,
  -- STAT
  ⟨0xc, 0x0, 1, [rfRo 15 8 0x0, rfRo 4 4 0x0, rfRo 3 3 0x0, rfRo 2 2 0x0, rfRo 1 1 0x1, rfRo 0 0 0x0]⟩,
  -- IRQ_STAT
  ⟨0x10, 0x0, 1, [rfOp 16 16 .w1c 0x0, rfOp 3 3 .w1c 0x0, rfOp 2 2 .w1c 0x0, rfOp 1 1 .w1c 0x0, rfOp 0 0 .w1c 0x0]⟩,
  -- IRQ_EN
  ⟨0x14, 0x0, 1, [rfOp 16 16 .rw 0x0, rfOp 3 0 .rw 0x0]⟩,
  -- FLT_STAT
  ⟨0x18, 0x0, 1, [rfRo 31 16 0x0, rfRo 15 8 0x0, rfOp 7 7 .wo 0x0, rfRo 4 2 0x0, rfRo 1 1 0x0, rfRo 0 0 0x0]⟩,
  -- FINJ
  ⟨0x1c, 0x0, 1, [rfNc 31 31 .rw 0x0, rfRo 30 30 0x0, rfNc 15 8 .rw 0x0, rfNc 7 0 .rw 0x0]⟩,
  -- OWN
  ⟨0x20, 0x0, 1, [rfOwner 16 16 .rwd 0x0, rfRo 12 8 0x3, rfOwner 4 0 .rwd 0x3]⟩,
  -- LOCK
  ⟨0x24, 0x0, 1, [rfRo 17 17 0x0, rfRo 16 16 0x0, rfOp 15 0 .wo 0x0]⟩,
  -- BATTEN
  ⟨0x28, 0x0, 1, [rfRo 31 0 0x0]⟩,
  -- GEN
  ⟨0x2c, 0x0, 1, [rfRo 31 16 0x0, rfRo 15 0 0x0]⟩]

/-- The block registers of a DIN page (R345). -/
def regsDin : List RegDesc := [
  -- BK_CFG
  ⟨0x100, 0x4, 4, [rfCfg 0 0 .rws 0x0]⟩,
  -- IN_CFG
  ⟨0x110, 0x4, 32, [rfCfg 31 31 .rwd 0x0, rfCfg 19 0 .rwd 0x3e8]⟩,
  -- STATE
  ⟨0x190, 0x0, 1, [rfRo 31 0 0x0]⟩,
  -- RAW
  ⟨0x194, 0x0, 1, [rfRo 31 0 0x0]⟩,
  -- RISE
  ⟨0x198, 0x0, 1, [rfNc 31 0 .w1c 0x0]⟩,
  -- FALL
  ⟨0x19c, 0x0, 1, [rfNc 31 0 .w1c 0x0]⟩,
  -- REN
  ⟨0x1a0, 0x0, 1, [rfCfg 31 0 .rw 0x0]⟩,
  -- FEN
  ⟨0x1a4, 0x0, 1, [rfCfg 31 0 .rw 0x0]⟩,
  -- CNT_CFG
  ⟨0x200, 0x10, 8, [rfCfg 19 16 .rwd 0xa, rfCfg 9 8 .rwd 0x0, rfCfg 5 0 .rwd 0x5]⟩,
  -- CNT_COUNT
  ⟨0x204, 0x10, 8, [rfRo 31 0 0x0]⟩,
  -- CNT_RATE
  ⟨0x208, 0x10, 8, [rfRo 31 0 0x0]⟩,
  -- CNT_META
  ⟨0x20c, 0x10, 8, [rfRo 31 31 0x1, rfRo 15 0 0xffff]⟩]

/-- The common registers of a DOU page (R24) with its block-specific bits. -/
def commonDou : List RegDesc := [
  -- ID
  ⟨0x0, 0x0, 1, [rfRo 31 24 0x0, rfRo 23 16 0x0, rfRo 15 12 0x1, rfRo 11 8 0x2, rfRo 7 0 0x1]⟩,
  -- CAP
  ⟨0x4, 0x0, 1, [rfRo 31 24 0x0, rfRo 23 23 0x0, rfRo 22 22 0x0, rfRo 15 0 0x0]⟩,
  -- CTRL
  ⟨0x8, 0x0, 1, [rfCfg 15 8 .rw 0x3, rfNc 2 2 .wo 0x0, rfNc 1 1 .wo 0x0, rfCfg 0 0 .rw 0x0]⟩,
  -- STAT
  ⟨0xc, 0x0, 1, [rfRo 15 8 0x0, rfRo 4 4 0x0, rfRo 3 3 0x0, rfRo 2 2 0x0, rfRo 1 1 0x1, rfRo 0 0 0x0]⟩,
  -- IRQ_STAT
  ⟨0x10, 0x0, 1, [rfOp 17 17 .w1c 0x0, rfOp 16 16 .w1c 0x0, rfOp 3 3 .w1c 0x0, rfOp 2 2 .w1c 0x0, rfOp 1 1 .w1c 0x0, rfOp 0 0 .w1c 0x0]⟩,
  -- IRQ_EN
  ⟨0x14, 0x0, 1, [rfOp 17 16 .rw 0x0, rfOp 3 0 .rw 0x0]⟩,
  -- FLT_STAT
  ⟨0x18, 0x0, 1, [rfRo 31 16 0x0, rfRo 15 8 0x0, rfOp 7 7 .wo 0x0, rfRo 4 2 0x0, rfRo 1 1 0x0, rfRo 0 0 0x0]⟩,
  -- FINJ
  ⟨0x1c, 0x0, 1, [rfNc 31 31 .rw 0x0, rfRo 30 30 0x0, rfNc 15 8 .rw 0x0, rfNc 7 0 .rw 0x0]⟩,
  -- OWN
  ⟨0x20, 0x0, 1, [rfOwner 16 16 .rwd 0x0, rfRo 12 8 0x3, rfOwner 4 0 .rwd 0x3]⟩,
  -- LOCK
  ⟨0x24, 0x0, 1, [rfRo 17 17 0x0, rfRo 16 16 0x0, rfOp 15 0 .wo 0x0]⟩,
  -- BATTEN
  ⟨0x28, 0x0, 1, [rfRo 31 0 0x0]⟩,
  -- GEN
  ⟨0x2c, 0x0, 1, [rfRo 31 16 0x0, rfRo 15 0 0x0]⟩]

/-- The block registers of a DOU page (R346). -/
def regsDou : List RegDesc := [
  -- CH_CTRL
  ⟨0x100, 0x8, 24, [rfOwner 31 27 .rwd 0x3, rfCfgU 26 22 .rwd 0x0, rfCfgU 21 21 .rwd 0x0, rfOpU 20 20 .wo 0x0, rfCfgU 19 4 .rwd 0x50, rfCfgU 3 3 .rwd 0x0, rfOpU 2 2 .rw 0x0, rfOpU 1 0 .rw 0x0]⟩,
  -- CH_LPIN
  ⟨0x104, 0x8, 24, [rfOpU 31 0 .rw 0x0]⟩,
  -- CH_STAT
  ⟨0x200, 0x4, 24, [rfRo 31 24 0x0, rfRo 8 8 0x0, rfRo 7 7 0x0, rfRo 6 6 0x0, rfRo 5 5 0x0, rfRo 4 4 0x0, rfRo 3 3 0x0, rfRo 2 2 0x0, rfRo 1 1 0x0, rfRo 0 0 0x0]⟩,
  -- ILT
  ⟨0x280, 0x0, 1, [rfCfg 7 0 .rwd 0xa]⟩]

/-- The common registers of a AOU page (R24) with its block-specific bits. -/
def commonAou : List RegDesc := [
  -- ID
  ⟨0x0, 0x0, 1, [rfRo 31 24 0x0, rfRo 23 16 0x0, rfRo 15 12 0x1, rfRo 11 8 0x2, rfRo 7 0 0x1]⟩,
  -- CAP
  ⟨0x4, 0x0, 1, [rfRo 31 24 0x0, rfRo 23 23 0x0, rfRo 22 22 0x0, rfRo 15 0 0x0]⟩,
  -- CTRL
  ⟨0x8, 0x0, 1, [rfCfg 15 8 .rw 0x3, rfNc 2 2 .wo 0x0, rfNc 1 1 .wo 0x0, rfCfg 0 0 .rw 0x0]⟩,
  -- STAT
  ⟨0xc, 0x0, 1, [rfRo 15 8 0x0, rfRo 4 4 0x0, rfRo 3 3 0x0, rfRo 2 2 0x0, rfRo 1 1 0x1, rfRo 0 0 0x0]⟩,
  -- IRQ_STAT
  ⟨0x10, 0x0, 1, [rfOp 16 16 .w1c 0x0, rfOp 3 3 .w1c 0x0, rfOp 2 2 .w1c 0x0, rfOp 1 1 .w1c 0x0, rfOp 0 0 .w1c 0x0]⟩,
  -- IRQ_EN
  ⟨0x14, 0x0, 1, [rfOp 16 16 .rw 0x0, rfOp 3 0 .rw 0x0]⟩,
  -- FLT_STAT
  ⟨0x18, 0x0, 1, [rfRo 31 16 0x0, rfRo 15 8 0x0, rfOp 7 7 .wo 0x0, rfRo 4 2 0x0, rfRo 1 1 0x0, rfRo 0 0 0x0]⟩,
  -- FINJ
  ⟨0x1c, 0x0, 1, [rfNc 31 31 .rw 0x0, rfRo 30 30 0x0, rfNc 15 8 .rw 0x0, rfNc 7 0 .rw 0x0]⟩,
  -- OWN
  ⟨0x20, 0x0, 1, [rfOwner 16 16 .rwd 0x0, rfRo 12 8 0x3, rfOwner 4 0 .rwd 0x3]⟩,
  -- LOCK
  ⟨0x24, 0x0, 1, [rfRo 17 17 0x0, rfRo 16 16 0x0, rfOp 15 0 .wo 0x0]⟩,
  -- BATTEN
  ⟨0x28, 0x0, 1, [rfRo 31 0 0x0]⟩,
  -- GEN
  ⟨0x2c, 0x0, 1, [rfRo 31 16 0x0, rfRo 15 0 0x0]⟩]

/-- The block registers of a AOU page (R347). -/
def regsAou : List RegDesc := [
  -- CH_CTRL
  ⟨0x100, 0x20, 8, [rfOwner 31 27 .rwd 0x3, rfCfgU 26 22 .rwd 0x0, rfCfgU 21 21 .rwd 0x0, rfCfgU 15 8 .rwd 0xa, rfOpU 1 0 .rw 0x0]⟩,
  -- CH_VAL
  ⟨0x104, 0x20, 8, [rfOpU 31 0 .rw 0x0]⟩,
  -- CH_SAFE
  ⟨0x108, 0x20, 8, [rfCfgU 31 0 .rwd 0x0]⟩,
  -- CH_RB
  ⟨0x10c, 0x20, 8, [rfRo 31 0 0x0]⟩,
  -- CH_STAT
  ⟨0x110, 0x20, 8, [rfRo 7 7 0x0, rfRo 6 6 0x0, rfRo 5 5 0x0, rfRo 4 4 0x0, rfRo 3 3 0x0, rfRo 2 2 0x0, rfRo 1 1 0x0, rfRo 0 0 0x1]⟩]

/-- The common registers of a FLT page (R24) with its block-specific bits. -/
def commonFlt : List RegDesc := [
  -- ID
  ⟨0x0, 0x0, 1, [rfRo 31 24 0x0, rfRo 23 16 0x0, rfRo 15 12 0x1, rfRo 11 8 0x2, rfRo 7 0 0x1]⟩,
  -- CAP
  ⟨0x4, 0x0, 1, [rfRo 31 24 0x0, rfRo 23 23 0x0, rfRo 22 22 0x0, rfRo 15 0 0x0]⟩,
  -- CTRL
  ⟨0x8, 0x0, 1, [rfCfg 15 8 .rw 0x3, rfNc 2 2 .wo 0x0, rfNc 1 1 .wo 0x0, rfCfg 0 0 .rw 0x1]⟩,
  -- STAT
  ⟨0xc, 0x0, 1, [rfRo 15 8 0x0, rfRo 4 4 0x0, rfRo 3 3 0x0, rfRo 2 2 0x0, rfRo 1 1 0x0, rfRo 0 0 0x1]⟩,
  -- IRQ_STAT
  ⟨0x10, 0x0, 1, [rfOp 20 20 .w1c 0x0, rfOp 19 19 .w1c 0x0, rfOp 18 18 .w1c 0x0, rfOp 17 17 .w1c 0x0, rfOp 16 16 .w1c 0x0, rfOp 3 3 .w1c 0x0, rfOp 2 2 .w1c 0x0, rfOp 1 1 .w1c 0x0, rfOp 0 0 .w1c 0x0]⟩,
  -- IRQ_EN
  ⟨0x14, 0x0, 1, [rfOp 20 16 .rw 0x0, rfOp 3 0 .rw 0x0]⟩,
  -- FLT_STAT
  ⟨0x18, 0x0, 1, [rfRo 31 16 0x0, rfRo 15 8 0x0, rfOp 7 7 .wo 0x0, rfRo 4 2 0x0, rfRo 1 1 0x0, rfRo 0 0 0x0]⟩,
  -- FINJ
  ⟨0x1c, 0x0, 1, [rfNc 31 31 .rw 0x0, rfRo 30 30 0x0, rfNc 15 8 .rw 0x0, rfNc 7 0 .rw 0x0]⟩,
  -- OWN
  ⟨0x20, 0x0, 1, [rfOwner 16 16 .rwd 0x0, rfRo 12 8 0x3, rfOwner 4 0 .rwd 0x3]⟩,
  -- LOCK
  ⟨0x24, 0x0, 1, [rfRo 17 17 0x0, rfRo 16 16 0x0, rfOp 15 0 .wo 0x0]⟩,
  -- BATTEN
  ⟨0x28, 0x0, 1, [rfRo 31 0 0x0]⟩,
  -- GEN
  ⟨0x2c, 0x0, 1, [rfRo 31 16 0x0, rfRo 15 0 0x0]⟩]

/-- The block registers of a FLT page (R375). -/
def regsFltPart0 : List RegDesc := [
  -- STATE
  ⟨0x100, 0x0, 1, [rfRo 31 16 0x0, rfRo 9 9 0x0, rfRo 8 8 0x0, rfRo 7 7 0x1, rfRo 6 6 0x0, rfRo 5 5 0x0, rfRo 4 4 0x0, rfRo 3 3 0x0, rfRo 2 0 0x0]⟩,
  -- GRP_STAT
  ⟨0x104, 0x0, 1, [rfRo 23 16 0x0, rfRo 15 8 0x0, rfRo 7 0 0x0]⟩,
  -- RECOV
  ⟨0x108, 0x0, 1, [rfCfg 31 20 .rwd 0x3c, rfCfg 19 16 .rwd 0x3, rfCfg 10 8 .rwd 0x3]⟩,
  -- RCNT_DEV
  ⟨0x10c, 0x0, 1, [rfRo 31 16 0x0, rfRo 3 0 0x0]⟩,
  -- RCNT_GRP
  ⟨0x110, 0x0, 1, [rfRo 31 0 0x0]⟩,
  -- CLR
  ⟨0x114, 0x0, 1, [rfOp 31 16 .wo 0x0, rfOp 3 0 .wo 0x0]⟩,
  -- S4_ENGSTOP
  ⟨0x118, 0x0, 1, [rfCfg 15 0 .rwd 0x0]⟩,
  -- SEQ
  ⟨0x11c, 0x0, 1, [rfRo 31 0 0x0]⟩,
  -- FF0
  ⟨0x120, 0x0, 1, [rfRo 31 0 0x0]⟩,
  -- FF1
  ⟨0x124, 0x0, 1, [rfRo 31 0 0x0]⟩,
  -- FF2
  ⟨0x128, 0x0, 1, [rfRo 31 0 0x0]⟩,
  -- FF3
  ⟨0x12c, 0x0, 1, [rfRo 31 0 0x0]⟩]

/-- The block registers of a FLT page (R375). -/
def regsFltPart1 : List RegDesc := [
  -- FF4
  ⟨0x130, 0x0, 1, [rfRo 16 16 0x0, rfRo 15 0 0x0]⟩,
  -- FF_CLR
  ⟨0x134, 0x0, 1, [rfOp 0 0 .wo 0x0]⟩,
  -- HIST_SEL
  ⟨0x140, 0x0, 1, [rfParty 4 0 .rw 0x0]⟩,
  -- HIST_W0
  ⟨0x144, 0x0, 1, [rfRo 31 0 0x0]⟩,
  -- HIST_W1
  ⟨0x148, 0x0, 1, [rfRo 31 0 0x0]⟩,
  -- HIST_W2
  ⟨0x14c, 0x0, 1, [rfRo 31 0 0x0]⟩,
  -- HIST_W3
  ⟨0x150, 0x0, 1, [rfRo 31 0 0x0]⟩,
  -- SEV_ADDR
  ⟨0x160, 0x0, 1, [rfNc 15 0 .rw 0x10]⟩,
  -- SEV_DATA
  ⟨0x164, 0x0, 1, [rfRo 14 12 0x0, rfRo 11 11 0x0, rfRo 10 8 0x0, rfWin 7 7 .rwd 0x0, rfWin 6 4 .rwd 0x0, rfWin 2 0 .rwd 0x0]⟩,
  -- SCRUB
  ⟨0x170, 0x0, 1, [rfRo 31 16 0x0, rfRo 8 0 0x0]⟩,
  -- INJ
  ⟨0x174, 0x0, 1, [rfRo 31 24 0x0, rfRo 23 16 0x0, rfRo 2 0 0x0]⟩,
  -- GRP_VLV
  ⟨0x200, 0x10, 8, [rfCfg 15 0 .rwd 0x0]⟩]

/-- The block registers of a FLT page (R375). -/
def regsFltPart2 : List RegDesc := [
  -- GRP_FAN
  ⟨0x204, 0x10, 8, [rfCfg 11 0 .rwd 0x0]⟩,
  -- GRP_DOU
  ⟨0x208, 0x10, 8, [rfCfg 23 0 .rwd 0x0]⟩,
  -- GRP_AOU
  ⟨0x20c, 0x10, 8, [rfCfg 7 0 .rwd 0x0]⟩]

/-- The block registers of a FLT page (R375). -/
def regsFlt : List RegDesc := regsFltPart0 ++ regsFltPart1 ++ regsFltPart2

/-- The common registers of a REC page (R24) with its block-specific bits. -/
def commonRec : List RegDesc := [
  -- ID
  ⟨0x0, 0x0, 1, [rfRo 31 24 0x0, rfRo 23 16 0x0, rfRo 15 12 0x1, rfRo 11 8 0x2, rfRo 7 0 0x1]⟩,
  -- CAP
  ⟨0x4, 0x0, 1, [rfRo 31 24 0x0, rfRo 23 23 0x0, rfRo 22 22 0x0, rfRo 15 0 0x0]⟩,
  -- CTRL
  ⟨0x8, 0x0, 1, [rfCfg 16 16 .rw 0x0, rfCfg 15 8 .rw 0x3, rfNc 2 2 .wo 0x0, rfNc 1 1 .wo 0x0, rfCfg 0 0 .rw 0x1]⟩,
  -- STAT
  ⟨0xc, 0x0, 1, [rfRo 19 19 0x0, rfRo 18 18 0x1, rfRo 17 17 0x0, rfRo 16 16 0x0, rfRo 15 8 0x0, rfRo 4 4 0x0, rfRo 3 3 0x0, rfRo 2 2 0x0, rfRo 1 1 0x0, rfRo 0 0 0x1]⟩,
  -- IRQ_STAT
  ⟨0x10, 0x0, 1, [rfOp 18 18 .w1c 0x0, rfOp 17 17 .w1c 0x0, rfOp 16 16 .w1c 0x0, rfOp 3 3 .w1c 0x0, rfOp 2 2 .w1c 0x0, rfOp 1 1 .w1c 0x0, rfOp 0 0 .w1c 0x0]⟩,
  -- IRQ_EN
  ⟨0x14, 0x0, 1, [rfOp 18 16 .rw 0x0, rfOp 3 0 .rw 0x0]⟩,
  -- FLT_STAT
  ⟨0x18, 0x0, 1, [rfRo 31 16 0x0, rfRo 15 8 0x0, rfOp 7 7 .wo 0x0, rfRo 4 2 0x0, rfRo 1 1 0x0, rfRo 0 0 0x0]⟩,
  -- FINJ
  ⟨0x1c, 0x0, 1, [rfNc 31 31 .rw 0x0, rfRo 30 30 0x0, rfNc 15 8 .rw 0x0, rfNc 7 0 .rw 0x0]⟩,
  -- OWN
  ⟨0x20, 0x0, 1, [rfOwner 16 16 .rwd 0x0, rfRo 12 8 0x3, rfOwner 4 0 .rwd 0x3]⟩,
  -- LOCK
  ⟨0x24, 0x0, 1, [rfRo 17 17 0x0, rfRo 16 16 0x0, rfOp 15 0 .wo 0x0]⟩,
  -- BATTEN
  ⟨0x28, 0x0, 1, [rfRo 31 0 0x0]⟩,
  -- GEN
  ⟨0x2c, 0x0, 1, [rfRo 31 16 0x0, rfRo 15 0 0x0]⟩]

/-- The block registers of a REC page (R403). -/
def regsRec : List RegDesc := [
  -- NEXT
  ⟨0x100, 0x0, 1, [rfRo 31 0 0x0]⟩,
  -- SVC
  ⟨0x104, 0x0, 1, [rfRo 31 16 0x0, rfRo 14 0 0x0]⟩,
  -- CMS
  ⟨0x108, 0x0, 1, [rfRo 31 16 0x0, rfRo 10 0 0x0]⟩,
  -- SEV
  ⟨0x110, 0x4, 5, [rfRo 15 0 0x0]⟩,
  -- DROP
  ⟨0x130, 0x4, 5, [rfRo 15 0 0x0]⟩,
  -- DROP_CLR
  ⟨0x144, 0x0, 1, [rfNc 0 0 .wo 0x0]⟩,
  -- QUEUE
  ⟨0x148, 0x0, 1, [rfRo 31 16 0x0, rfRo 15 8 0x0, rfRo 7 0 0x0]⟩,
  -- RSEV
  ⟨0x14c, 0x0, 1, [rfCfg 14 12 .rwd 0x2, rfCfg 10 8 .rwd 0x2, rfCfg 6 4 .rwd 0x0, rfCfg 2 0 .rwd 0x1]⟩,
  -- BAD
  ⟨0x150, 0x0, 1, [rfRo 15 0 0x0]⟩,
  -- CUR
  ⟨0x160, 0x0, 1, [rfParty 31 31 .rw 0x0, rfParty 16 16 .rw 0x0, rfParty 14 0 .rw 0x0]⟩,
  -- WIN
  ⟨0x180, 0x4, 16, [rfRo 31 0 0x0]⟩,
  -- CLR
  ⟨0x1c0, 0x0, 1, [rfOp 31 16 .wo 0x0, rfOp 0 0 .wo 0x0]⟩]

/-- The common registers of a CLK page (R24) with its block-specific bits. -/
def commonClk : List RegDesc := [
  -- ID
  ⟨0x0, 0x0, 1, [rfRo 31 24 0x0, rfRo 23 16 0x0, rfRo 15 12 0x1, rfRo 11 8 0x2, rfRo 7 0 0x1]⟩,
  -- CAP
  ⟨0x4, 0x0, 1, [rfRo 31 24 0x0, rfRo 23 23 0x0, rfRo 22 22 0x0, rfRo 15 0 0x0]⟩,
  -- CTRL
  ⟨0x8, 0x0, 1, [rfCfg 15 8 .rw 0x3, rfNc 2 2 .wo 0x0, rfNc 1 1 .wo 0x0, rfCfg 0 0 .rw 0x1]⟩,
  -- STAT
  ⟨0xc, 0x0, 1, [rfRo 15 8 0x0, rfRo 4 4 0x0, rfRo 3 3 0x0, rfRo 2 2 0x0, rfRo 1 1 0x0, rfRo 0 0 0x1]⟩,
  -- IRQ_STAT
  ⟨0x10, 0x0, 1, [rfOp 3 3 .w1c 0x0, rfOp 2 2 .w1c 0x0, rfOp 1 1 .w1c 0x0, rfOp 0 0 .w1c 0x0]⟩,
  -- IRQ_EN
  ⟨0x14, 0x0, 1, [rfOp 3 0 .rw 0x0]⟩,
  -- FLT_STAT
  ⟨0x18, 0x0, 1, [rfRo 31 16 0x0, rfRo 15 8 0x0, rfOp 7 7 .wo 0x0, rfRo 4 2 0x0, rfRo 1 1 0x0, rfRo 0 0 0x0]⟩,
  -- FINJ
  ⟨0x1c, 0x0, 1, [rfNc 31 31 .rw 0x0, rfRo 30 30 0x0, rfNc 15 8 .rw 0x0, rfNc 7 0 .rw 0x0]⟩,
  -- OWN
  ⟨0x20, 0x0, 1, [rfOwner 16 16 .rwd 0x0, rfRo 12 8 0x3, rfOwner 4 0 .rwd 0x3]⟩,
  -- LOCK
  ⟨0x24, 0x0, 1, [rfRo 17 17 0x0, rfRo 16 16 0x0, rfOp 15 0 .wo 0x0]⟩,
  -- BATTEN
  ⟨0x28, 0x0, 1, [rfRo 31 0 0x0]⟩,
  -- GEN
  ⟨0x2c, 0x0, 1, [rfRo 31 16 0x0, rfRo 15 0 0x0]⟩]

/-- The block registers of a CLK page (R404). -/
def regsClk : List RegDesc := [
  -- SEC_LO
  ⟨0x100, 0x0, 1, [rfRo 31 0 0x0]⟩,
  -- SEC_HI
  ⟨0x104, 0x0, 1, [rfRo 30 16 0x0, rfRo 7 0 0x0]⟩,
  -- SET_HI
  ⟨0x108, 0x0, 1, [rfNc 7 0 .wo 0x0]⟩,
  -- SET_LO
  ⟨0x10c, 0x0, 1, [rfNc 31 0 .wo 0x0]⟩,
  -- TRIM
  ⟨0x110, 0x0, 1, [rfCfg 8 0 .rw 0x0]⟩,
  -- STAT
  ⟨0x114, 0x0, 1, [rfRo 4 4 0x0, rfRo 3 3 0x0, rfRo 2 2 0x0, rfNc 1 1 .w1c 0x0, rfRo 0 0 0x0]⟩,
  -- VBAT
  ⟨0x118, 0x0, 1, [rfRo 15 0 0x0]⟩]

/-- The common registers of a WCH page (R24) with its block-specific bits. -/
def commonWch : List RegDesc := [
  -- ID
  ⟨0x0, 0x0, 1, [rfRo 31 24 0x0, rfRo 23 16 0x0, rfRo 15 12 0x1, rfRo 11 8 0x2, rfRo 7 0 0x1]⟩,
  -- CAP
  ⟨0x4, 0x0, 1, [rfRo 31 24 0x0, rfRo 23 23 0x0, rfRo 22 22 0x0, rfRo 15 0 0x0]⟩,
  -- CTRL
  ⟨0x8, 0x0, 1, [rfCfg 15 8 .rw 0x3, rfNc 2 2 .wo 0x0, rfNc 1 1 .wo 0x0, rfCfg 0 0 .rw 0x0]⟩,
  -- STAT
  ⟨0xc, 0x0, 1, [rfRo 15 8 0x0, rfRo 4 4 0x0, rfRo 3 3 0x0, rfRo 2 2 0x0, rfRo 1 1 0x1, rfRo 0 0 0x0]⟩,
  -- IRQ_STAT
  ⟨0x10, 0x0, 1, [rfOp 17 17 .w1c 0x0, rfOp 16 16 .w1c 0x0, rfOp 3 3 .w1c 0x0, rfOp 2 2 .w1c 0x0, rfOp 1 1 .w1c 0x0, rfOp 0 0 .w1c 0x0]⟩,
  -- IRQ_EN
  ⟨0x14, 0x0, 1, [rfOp 17 16 .rw 0x0, rfOp 3 0 .rw 0x0]⟩,
  -- FLT_STAT
  ⟨0x18, 0x0, 1, [rfRo 31 16 0x0, rfRo 15 8 0x0, rfOp 7 7 .wo 0x0, rfRo 4 2 0x0, rfRo 1 1 0x0, rfRo 0 0 0x0]⟩,
  -- FINJ
  ⟨0x1c, 0x0, 1, [rfNc 31 31 .rw 0x0, rfRo 30 30 0x0, rfNc 15 8 .rw 0x0, rfNc 7 0 .rw 0x0]⟩,
  -- OWN
  ⟨0x20, 0x0, 1, [rfOwner 16 16 .rwd 0x0, rfRo 12 8 0x3, rfOwner 4 0 .rwd 0x3]⟩,
  -- LOCK
  ⟨0x24, 0x0, 1, [rfRo 17 17 0x0, rfRo 16 16 0x0, rfOp 15 0 .wo 0x0]⟩,
  -- BATTEN
  ⟨0x28, 0x0, 1, [rfRo 31 0 0x0]⟩,
  -- GEN
  ⟨0x2c, 0x0, 1, [rfRo 31 16 0x0, rfRo 15 0 0x0]⟩]

/-- The block registers of a WCH page (R405). -/
def regsWch : List RegDesc := [
  -- CFG
  ⟨0x100, 0x0, 1, [rfCfg 31 24 .rw 0x18, rfCfg 23 12 .rw 0x3c, rfCfg 6 4 .rw 0x0, rfOp 0 0 .rw 0x0]⟩,
  -- SCAN
  ⟨0x104, 0x0, 1, [rfCfg 31 16 .rw 0x1, rfCfg 15 8 .rw 0x1, rfCfg 7 4 .rw 0x5, rfCfg 3 0 .rw 0x4]⟩,
  -- CH
  ⟨0x110, 0x4, 8, [rfCfg 12 12 .rw 0x0, rfCfg 11 8 .rw 0x2, rfCfg 1 1 .rw 0x1, rfCfg 0 0 .rw 0x0]⟩,
  -- EXC
  ⟨0x130, 0x4, 4, [rfCfg 12 12 .rw 0x1, rfCfg 9 8 .rw 0x0, rfCfg 6 4 .rw 0x0, rfCfg 1 0 .rw 0x0]⟩,
  -- HIST
  ⟨0x140, 0x0, 1, [rfCfg 31 16 .rw 0x0, rfCfg 15 8 .rw 0x14]⟩,
  -- HOT
  ⟨0x144, 0x0, 1, [rfCfg 31 0 .rw 0x280000]⟩,
  -- COEF_ADDR
  ⟨0x148, 0x0, 1, [rfNc 16 16 .rw 0x0, rfNc 6 4 .rw 0x0, rfNc 3 0 .rw 0x0]⟩,
  -- COEF_DATA
  ⟨0x14c, 0x0, 1, [rfWin 31 0 .rw 0x0]⟩,
  -- STAT
  ⟨0x150, 0x0, 1, [rfRo 26 16 0x0, rfRo 15 8 0x0, rfRo 2 2 0x0, rfRo 1 0 0x0]⟩,
  -- LAST
  ⟨0x154, 0x0, 1, [rfRo 31 16 0x0, rfRo 15 8 0x0, rfRo 7 0 0x0]⟩,
  -- XFER
  ⟨0x158, 0x0, 1, [rfRo 31 16 0x0, rfRo 15 0 0x0]⟩]

/-- The common registers of a HST page (R24) with its block-specific bits. -/
def commonHst : List RegDesc := [
  -- ID
  ⟨0x0, 0x0, 1, [rfRo 31 24 0x0, rfRo 23 16 0x0, rfRo 15 12 0x1, rfRo 11 8 0x2, rfRo 7 0 0x1]⟩,
  -- CAP
  ⟨0x4, 0x0, 1, [rfRo 31 24 0x0, rfRo 23 23 0x0, rfRo 22 22 0x0, rfRo 15 0 0x0]⟩,
  -- CTRL
  ⟨0x8, 0x0, 1, [rfCfg 15 8 .rw 0x3, rfNc 2 2 .wo 0x0, rfNc 1 1 .wo 0x0, rfCfg 0 0 .rw 0x1]⟩,
  -- STAT
  ⟨0xc, 0x0, 1, [rfRo 15 8 0x0, rfRo 4 4 0x0, rfRo 3 3 0x0, rfRo 2 2 0x0, rfRo 1 1 0x0, rfRo 0 0 0x1]⟩,
  -- IRQ_STAT
  ⟨0x10, 0x0, 1, [rfOp 17 17 .w1c 0x0, rfOp 16 16 .w1c 0x0, rfOp 3 3 .w1c 0x0, rfOp 2 2 .w1c 0x0, rfOp 1 1 .w1c 0x0, rfOp 0 0 .w1c 0x0]⟩,
  -- IRQ_EN
  ⟨0x14, 0x0, 1, [rfOp 17 16 .rw 0x0, rfOp 3 0 .rw 0x0]⟩,
  -- FLT_STAT
  ⟨0x18, 0x0, 1, [rfRo 31 16 0x0, rfRo 15 8 0x0, rfOp 7 7 .wo 0x0, rfRo 4 2 0x0, rfRo 1 1 0x0, rfRo 0 0 0x0]⟩,
  -- FINJ
  ⟨0x1c, 0x0, 1, [rfNc 31 31 .rw 0x0, rfRo 30 30 0x0, rfNc 15 8 .rw 0x0, rfNc 7 0 .rw 0x0]⟩,
  -- OWN
  ⟨0x20, 0x0, 1, [rfOwner 16 16 .rwd 0x0, rfRo 12 8 0x3, rfOwner 4 0 .rwd 0x3]⟩,
  -- LOCK
  ⟨0x24, 0x0, 1, [rfRo 17 17 0x0, rfRo 16 16 0x0, rfOp 15 0 .wo 0x0]⟩,
  -- BATTEN
  ⟨0x28, 0x0, 1, [rfRo 31 0 0x0]⟩,
  -- GEN
  ⟨0x2c, 0x0, 1, [rfRo 31 16 0x0, rfRo 15 0 0x0]⟩]

/-- The block registers of a HST page (R415). -/
def regsHst : List RegDesc := [
  -- KA
  ⟨0x100, 0x0, 1, [rfOp 15 0 .wo 0x0]⟩,
  -- SIL
  ⟨0x104, 0x0, 1, [rfCfg 31 31 .rwd 0x0, rfCfg 13 0 .rwd 0x3e8]⟩,
  -- SILSTAT
  ⟨0x108, 0x0, 1, [rfRo 31 16 0x0, rfRo 0 0 0x0]⟩,
  -- KAAGE
  ⟨0x10c, 0x0, 1, [rfRo 31 0 0xffffffff]⟩,
  -- IRQPG0
  ⟨0x110, 0x0, 1, [rfRo 31 0 0x0]⟩,
  -- IRQPG1
  ⟨0x114, 0x0, 1, [rfRo 31 0 0x0]⟩,
  -- LAST
  ⟨0x118, 0x0, 1, [rfRo 31 24 0x0, rfRo 23 16 0x0, rfRo 15 10 0x0, rfRo 9 4 0x0, rfRo 3 0 0x0]⟩,
  -- WRES
  ⟨0x120, 0x4, 8, [rfRo 3 0 0x0, rfRo 7 4 0x0, rfRo 11 8 0x0, rfRo 15 12 0x0, rfRo 19 16 0x0, rfRo 23 20 0x0, rfRo 27 24 0x0, rfRo 31 28 0x0]⟩,
  -- ERR
  ⟨0x140, 0x0, 1, [rfRo 31 24 0x0, rfRo 23 16 0x0, rfRo 15 8 0x0, rfRo 7 0 0x0]⟩]

/-- The common registers of a CAN page (R24) with its block-specific bits. -/
def commonCan : List RegDesc := [
  -- ID
  ⟨0x0, 0x0, 1, [rfRo 31 24 0x0, rfRo 23 16 0x0, rfRo 15 12 0x1, rfRo 11 8 0x2, rfRo 7 0 0x1]⟩,
  -- CAP
  ⟨0x4, 0x0, 1, [rfRo 31 24 0x0, rfRo 23 23 0x0, rfRo 22 22 0x0, rfRo 15 0 0x0]⟩,
  -- CTRL
  ⟨0x8, 0x0, 1, [rfCfg 22 22 .rws 0x0, rfNc 21 21 .wo 0x0, rfCfg 20 20 .rws 0x1, rfCfg 19 19 .rws 0x0, rfCfg 18 18 .rws 0x0, rfCfg 17 17 .rws 0x0, rfCfg 16 16 .rws 0x0, rfCfg 15 8 .rw 0x3, rfNc 2 2 .wo 0x0, rfNc 1 1 .wo 0x0, rfCfg 0 0 .rw 0x0]⟩,
  -- STAT
  ⟨0xc, 0x0, 1, [rfRo 17 16 0x0, rfRo 15 8 0x0, rfRo 4 4 0x0, rfRo 3 3 0x0, rfRo 2 2 0x0, rfRo 1 1 0x1, rfRo 0 0 0x0]⟩,
  -- IRQ_STAT
  ⟨0x10, 0x0, 1, [rfOp 19 19 .w1c 0x0, rfOp 18 18 .w1c 0x0, rfOp 17 17 .w1c 0x0, rfOp 16 16 .w1c 0x0, rfOp 3 3 .w1c 0x0, rfOp 2 2 .w1c 0x0, rfOp 1 1 .w1c 0x0, rfOp 0 0 .w1c 0x0]⟩,
  -- IRQ_EN
  ⟨0x14, 0x0, 1, [rfOp 19 16 .rw 0x0, rfOp 3 0 .rw 0x0]⟩,
  -- FLT_STAT
  ⟨0x18, 0x0, 1, [rfRo 31 16 0x0, rfRo 15 8 0x0, rfOp 7 7 .wo 0x0, rfRo 4 2 0x0, rfRo 1 1 0x0, rfRo 0 0 0x0]⟩,
  -- FINJ
  ⟨0x1c, 0x0, 1, [rfNc 31 31 .rw 0x0, rfRo 30 30 0x0, rfNc 15 8 .rw 0x0, rfNc 7 0 .rw 0x0]⟩,
  -- OWN
  ⟨0x20, 0x0, 1, [rfOwner 16 16 .rwd 0x0, rfRo 12 8 0x3, rfOwner 4 0 .rwd 0x3]⟩,
  -- LOCK
  ⟨0x24, 0x0, 1, [rfRo 17 17 0x0, rfRo 16 16 0x0, rfOp 15 0 .wo 0x0]⟩,
  -- BATTEN
  ⟨0x28, 0x0, 1, [rfRo 31 0 0x0]⟩,
  -- GEN
  ⟨0x2c, 0x0, 1, [rfRo 31 16 0x0, rfRo 15 0 0x0]⟩]

/-- The block registers of a CAN page (R422). -/
def regsCanPart0 : List RegDesc := [
  -- BTN
  ⟨0x100, 0x0, 1, [rfCfg 29 23 .rws 0x1f, rfCfg 22 16 .rws 0x1f, rfCfg 15 8 .rws 0x7e, rfCfg 7 0 .rws 0x0]⟩,
  -- BTD
  ⟨0x104, 0x0, 1, [rfCfg 23 20 .rws 0x9, rfCfg 19 16 .rws 0x9, rfCfg 12 8 .rws 0x1c, rfCfg 4 0 .rws 0x0]⟩,
  -- TDC
  ⟨0x108, 0x0, 1, [rfCfg 15 8 .rws 0x1e, rfCfg 0 0 .rws 0x1]⟩,
  -- ERR
  ⟨0x10c, 0x0, 1, [rfRo 31 24 0x0, rfRo 22 16 0x0, rfRo 15 15 0x0, rfRo 10 8 0x0]⟩,
  -- NEW0
  ⟨0x110, 0x0, 1, [rfOp 31 0 .w1c 0x0]⟩,
  -- NEW1
  ⟨0x114, 0x0, 1, [rfOp 31 0 .w1c 0x0]⟩,
  -- LOST0
  ⟨0x118, 0x0, 1, [rfOp 31 0 .w1c 0x0]⟩,
  -- LOST1
  ⟨0x11c, 0x0, 1, [rfOp 31 0 .w1c 0x0]⟩,
  -- TXREQ0
  ⟨0x120, 0x0, 1, [rfOp 31 0 .rw 0x0]⟩,
  -- TXREQ1
  ⟨0x124, 0x0, 1, [rfOp 31 0 .rw 0x0]⟩,
  -- TXABORT0
  ⟨0x128, 0x0, 1, [rfOp 31 0 .wo 0x0]⟩,
  -- TXABORT1
  ⟨0x12c, 0x0, 1, [rfOp 31 0 .wo 0x0]⟩]

/-- The block registers of a CAN page (R422). -/
def regsCanPart1 : List RegDesc := [
  -- TXDONE0
  ⟨0x130, 0x0, 1, [rfOp 31 0 .w1c 0x0]⟩,
  -- TXDONE1
  ⟨0x134, 0x0, 1, [rfOp 31 0 .w1c 0x0]⟩,
  -- MO_ADDR
  ⟨0x140, 0x0, 1, [rfOp 16 16 .rw 0x0, rfOp 10 5 .rw 0x0, rfOp 4 0 .rw 0x0]⟩,
  -- MO_DATA
  ⟨0x144, 0x0, 1, [rfWin 31 0 .rw 0x0]⟩,
  -- CNT
  ⟨0x148, 0x0, 1, [rfRo 31 16 0x0, rfRo 15 8 0x0, rfRo 7 0 0x0]⟩]

/-- The block registers of a CAN page (R422). -/
def regsCan : List RegDesc := regsCanPart0 ++ regsCanPart1

/-- The common registers of a LNK page (R24) with its block-specific bits. -/
def commonLnk : List RegDesc := [
  -- ID
  ⟨0x0, 0x0, 1, [rfRo 31 24 0x0, rfRo 23 16 0x0, rfRo 15 12 0x1, rfRo 11 8 0x2, rfRo 7 0 0x1]⟩,
  -- CAP
  ⟨0x4, 0x0, 1, [rfRo 31 24 0x0, rfRo 23 23 0x0, rfRo 22 22 0x0, rfRo 15 0 0x0]⟩,
  -- CTRL
  ⟨0x8, 0x0, 1, [rfCfg 15 8 .rw 0x3, rfNc 2 2 .wo 0x0, rfNc 1 1 .wo 0x0, rfCfg 0 0 .rw 0x1]⟩,
  -- STAT
  ⟨0xc, 0x0, 1, [rfRo 15 8 0x0, rfRo 4 4 0x0, rfRo 3 3 0x0, rfRo 2 2 0x0, rfRo 1 1 0x0, rfRo 0 0 0x1]⟩,
  -- IRQ_STAT
  ⟨0x10, 0x0, 1, [rfOp 22 22 .w1c 0x0, rfOp 21 21 .w1c 0x0, rfOp 20 20 .w1c 0x0, rfOp 19 19 .w1c 0x0, rfOp 18 18 .w1c 0x0, rfOp 17 17 .w1c 0x0, rfOp 16 16 .w1c 0x0, rfOp 3 3 .w1c 0x0, rfOp 2 2 .w1c 0x0, rfOp 1 1 .w1c 0x0, rfOp 0 0 .w1c 0x0]⟩,
  -- IRQ_EN
  ⟨0x14, 0x0, 1, [rfOp 22 16 .rw 0x0, rfOp 3 0 .rw 0x0]⟩,
  -- FLT_STAT
  ⟨0x18, 0x0, 1, [rfRo 31 16 0x0, rfRo 15 8 0x0, rfOp 7 7 .wo 0x0, rfRo 4 2 0x0, rfRo 1 1 0x0, rfRo 0 0 0x0]⟩,
  -- FINJ
  ⟨0x1c, 0x0, 1, [rfNc 31 31 .rw 0x0, rfRo 30 30 0x0, rfNc 15 8 .rw 0x0, rfNc 7 0 .rw 0x0]⟩,
  -- OWN
  ⟨0x20, 0x0, 1, [rfOwner 16 16 .rwd 0x0, rfRo 12 8 0x3, rfOwner 4 0 .rwd 0x3]⟩,
  -- LOCK
  ⟨0x24, 0x0, 1, [rfRo 17 17 0x0, rfRo 16 16 0x0, rfOp 15 0 .wo 0x0]⟩,
  -- BATTEN
  ⟨0x28, 0x0, 1, [rfRo 31 0 0x0]⟩,
  -- GEN
  ⟨0x2c, 0x0, 1, [rfRo 31 16 0x0, rfRo 15 0 0x0]⟩]

/-- The block registers of a LNK page (R440). -/
def regsLnkPart0 : List RegDesc := [
  -- PCFG
  ⟨0x100, 0x0, 1, [rfCfg 2 2 .rws 0x1, rfCfg 1 1 .rws 0x1, rfCfg 0 0 .rws 0x1]⟩,
  -- PSTAT
  ⟨0x104, 0x0, 1, [rfRo 31 16 0x0, rfRo 10 8 0x0, rfRo 4 4 0x0, rfRo 1 1 0x0, rfRo 0 0 0x0]⟩,
  -- PCNT0
  ⟨0x108, 0x0, 1, [rfRo 31 16 0x0, rfRo 15 0 0x0]⟩,
  -- PCNT1
  ⟨0x10c, 0x0, 1, [rfRo 31 16 0x0, rfRo 15 0 0x0]⟩,
  -- PLOAD
  ⟨0x110, 0x0, 1, [rfRo 15 8 0x0, rfRo 7 0 0x0]⟩,
  -- CFG
  ⟨0x120, 0x0, 1, [rfCfg 20 16 .rws 0x0, rfCfg 11 8 .rwd 0xf, rfCfg 7 0 .rwd 0x8]⟩,
  -- FCFG
  ⟨0x124, 0x0, 1, [rfCfg 10 8 .rwd 0x3, rfCfg 6 4 .rwd 0x3]⟩,
  -- RFMASK
  ⟨0x128, 0x0, 1, [rfCfg 31 0 .rwd 0x0]⟩,
  -- PMASK
  ⟨0x12c, 0x0, 1, [rfCfg 31 0 .rwd 0x0]⟩,
  -- LOST
  ⟨0x130, 0x0, 1, [rfCfg 7 0 .rwd 0x2]⟩,
  -- PSEEN
  ⟨0x134, 0x0, 1, [rfRo 31 0 0x0]⟩,
  -- STAT2
  ⟨0x138, 0x0, 1, [rfRo 15 8 0x0, rfRo 0 0 0x0]⟩]

/-- The block registers of a LNK page (R440). -/
def regsLnkPart1 : List RegDesc := [
  -- WIN_ADDR
  ⟨0x140, 0x0, 1, [rfParty 16 16 .rw 0x0, rfParty 13 12 .rw 0x0, rfParty 7 0 .rw 0x0]⟩,
  -- WIN_DATA
  ⟨0x144, 0x0, 1, [rfWin 31 0 .rw 0x0]⟩,
  -- PC_SEL
  ⟨0x150, 0x0, 1, [rfParty 12 8 .rw 0x0, rfParty 5 0 .rw 0x0]⟩,
  -- PC_VAL
  ⟨0x154, 0x0, 1, [rfRo 31 0 0x0]⟩,
  -- PC_META
  ⟨0x158, 0x0, 1, [rfRo 31 31 0x1, rfRo 30 30 0x0, rfRo 23 16 0x80, rfRo 15 0 0xffff]⟩,
  -- RG_SEL
  ⟨0x160, 0x0, 1, [rfParty 4 0 .rw 0x0]⟩,
  -- RG_HI
  ⟨0x164, 0x0, 1, [rfRo 31 0 0x0]⟩,
  -- RG_LO
  ⟨0x168, 0x0, 1, [rfRo 31 0 0x0]⟩,
  -- RG_META
  ⟨0x16c, 0x0, 1, [rfRo 31 16 0xffff, rfRo 0 0 0x0]⟩,
  -- DQ_CMD
  ⟨0x170, 0x0, 1, [rfNc 31 31 .wo 0x0, rfNc 28 24 .wo 0x0, rfNc 17 16 .wo 0x0, rfNc 7 0 .wo 0x0]⟩,
  -- DQ_STAT
  ⟨0x174, 0x0, 1, [rfRo 2 0 0x0]⟩,
  -- DQ_HI
  ⟨0x178, 0x0, 1, [rfRo 31 0 0x0]⟩]

/-- The block registers of a LNK page (R440). -/
def regsLnkPart2 : List RegDesc := [
  -- DQ_LO
  ⟨0x17c, 0x0, 1, [rfRo 31 0 0x0]⟩,
  -- CMT_CTRL
  ⟨0x180, 0x0, 1, [rfNc 31 30 .wo 0x0, rfCfg 15 0 .rw 0x0]⟩,
  -- CMT_ARM_LO
  ⟨0x184, 0x0, 1, [rfCfg 31 0 .rw 0x0]⟩,
  -- CMT_ARM_HI
  ⟨0x188, 0x0, 1, [rfCfg 15 0 .rw 0x0]⟩,
  -- CMT_TMASK
  ⟨0x18c, 0x0, 1, [rfCfg 31 0 .rw 0x0]⟩,
  -- CMT_NW
  ⟨0x190, 0x0, 1, [rfCfg 5 0 .rw 0x1]⟩,
  -- CMT_STAT
  ⟨0x194, 0x0, 1, [rfRo 2 0 0x0]⟩,
  -- CMT_YES
  ⟨0x198, 0x0, 1, [rfRo 31 0 0x0]⟩,
  -- CMT_DONE
  ⟨0x19c, 0x0, 1, [rfRo 31 0 0x0]⟩,
  -- CMT_FAIL
  ⟨0x1a0, 0x0, 1, [rfRo 31 0 0x0]⟩,
  -- TGT_STAT
  ⟨0x1a4, 0x0, 1, [rfRo 31 16 0x0, rfRo 11 8 0x0, rfRo 2 0 0x0]⟩,
  -- RF_LAST
  ⟨0x1b0, 0x0, 1, [rfRo 31 16 0x0, rfRo 12 8 0x0, rfRo 2 0 0x0]⟩]

/-- The block registers of a LNK page (R440). -/
def regsLnk : List RegDesc := regsLnkPart0 ++ regsLnkPart1 ++ regsLnkPart2

/-- The common registers of a NVS page (R24) with its block-specific bits. -/
def commonNvs : List RegDesc := [
  -- ID
  ⟨0x0, 0x0, 1, [rfRo 31 24 0x0, rfRo 23 16 0x0, rfRo 15 12 0x1, rfRo 11 8 0x2, rfRo 7 0 0x1]⟩,
  -- CAP
  ⟨0x4, 0x0, 1, [rfRo 31 24 0x0, rfRo 23 23 0x0, rfRo 22 22 0x0, rfRo 15 0 0x0]⟩,
  -- CTRL
  ⟨0x8, 0x0, 1, [rfCfg 15 8 .rw 0x3, rfNc 2 2 .wo 0x0, rfNc 1 1 .wo 0x0, rfCfg 0 0 .rw 0x1]⟩,
  -- STAT
  ⟨0xc, 0x0, 1, [rfRo 17 17 0x0, rfRo 16 16 0x0, rfRo 15 8 0x0, rfRo 4 4 0x0, rfRo 3 3 0x0, rfRo 2 2 0x0, rfRo 1 1 0x0, rfRo 0 0 0x1]⟩,
  -- IRQ_STAT
  ⟨0x10, 0x0, 1, [rfOp 18 18 .w1c 0x0, rfOp 17 17 .w1c 0x0, rfOp 16 16 .w1c 0x0, rfOp 3 3 .w1c 0x0, rfOp 2 2 .w1c 0x0, rfOp 1 1 .w1c 0x0, rfOp 0 0 .w1c 0x0]⟩,
  -- IRQ_EN
  ⟨0x14, 0x0, 1, [rfOp 18 16 .rw 0x0, rfOp 3 0 .rw 0x0]⟩,
  -- FLT_STAT
  ⟨0x18, 0x0, 1, [rfRo 31 16 0x0, rfRo 15 8 0x0, rfOp 7 7 .wo 0x0, rfRo 4 2 0x0, rfRo 1 1 0x0, rfRo 0 0 0x0]⟩,
  -- FINJ
  ⟨0x1c, 0x0, 1, [rfNc 31 31 .rw 0x0, rfRo 30 30 0x0, rfNc 15 8 .rw 0x0, rfNc 7 0 .rw 0x0]⟩,
  -- OWN
  ⟨0x20, 0x0, 1, [rfOwner 16 16 .rwd 0x0, rfRo 12 8 0x3, rfOwner 4 0 .rwd 0x3]⟩,
  -- LOCK
  ⟨0x24, 0x0, 1, [rfRo 17 17 0x0, rfRo 16 16 0x0, rfOp 15 0 .wo 0x0]⟩,
  -- BATTEN
  ⟨0x28, 0x0, 1, [rfRo 31 0 0x0]⟩,
  -- GEN
  ⟨0x2c, 0x0, 1, [rfRo 31 16 0x0, rfRo 15 0 0x0]⟩]

/-- The block registers of a NVS page (R466). -/
def regsNvsPart0 : List RegDesc := [
  -- ADDR
  ⟨0x100, 0x0, 1, [rfParty 31 31 .rw 0x0, rfParty 22 0 .rw 0x0]⟩,
  -- DATA
  ⟨0x104, 0x0, 1, [rfWin 31 0 .rw 0x0]⟩,
  -- CMD
  ⟨0x108, 0x0, 1, [rfNc 31 16 .wo 0x0, rfNc 11 8 .wo 0x0, rfNc 3 0 .wo 0x0]⟩,
  -- CSTAT
  ⟨0x10c, 0x0, 1, [rfRo 7 4 0x0, rfRo 3 0 0x0]⟩,
  -- SLIP
  ⟨0x110, 0x0, 1, [rfRo 11 8 0x0, rfRo 2 0 0x0]⟩,
  -- IMG
  ⟨0x114, 0x0, 1, [rfRo 31 24 0x0, rfRo 23 16 0x0, rfRo 7 4 0x0, rfRo 3 0 0x0]⟩,
  -- VERSION
  ⟨0x118, 0x0, 1, [rfRo 31 0 0x0]⟩,
  -- PROB
  ⟨0x11c, 0x0, 1, [rfNc 31 31 .wo 0x0, rfRo 27 16 0x0, rfRo 1 0 0x0]⟩,
  -- PROF
  ⟨0x120, 0x0, 1, [rfRo 3 3 0x0, rfRo 2 2 0x0, rfRo 1 1 0x0, rfRo 0 0 0x0]⟩,
  -- GEN
  ⟨0x124, 0x0, 1, [rfRo 31 0 0x0]⟩,
  -- LOAD
  ⟨0x128, 0x0, 1, [rfRo 31 31 0x0, rfRo 30 24 0x0, rfRo 23 16 0x0, rfRo 15 0 0xffff]⟩,
  -- KEYSTAT
  ⟨0x12c, 0x0, 1, [rfRo 2 2 0x0, rfRo 1 1 0x0, rfRo 0 0 0x0]⟩]

/-- The block registers of a NVS page (R466). -/
def regsNvsPart1 : List RegDesc := [
  -- KEYBUF
  ⟨0x140, 0x4, 16, [rfCfg 31 0 .rw 0x0]⟩]

/-- The block registers of a NVS page (R466). -/
def regsNvs : List RegDesc := regsNvsPart0 ++ regsNvsPart1

/-- The common registers of a DIG page (R24) with its block-specific bits. -/
def commonDig : List RegDesc := [
  -- ID
  ⟨0x0, 0x0, 1, [rfRo 31 24 0x0, rfRo 23 16 0x0, rfRo 15 12 0x1, rfRo 11 8 0x2, rfRo 7 0 0x1]⟩,
  -- CAP
  ⟨0x4, 0x0, 1, [rfRo 31 24 0x0, rfRo 23 23 0x0, rfRo 22 22 0x0, rfRo 15 0 0x0]⟩,
  -- CTRL
  ⟨0x8, 0x0, 1, [rfCfg 15 8 .rw 0x3, rfNc 2 2 .wo 0x0, rfNc 1 1 .wo 0x0, rfCfg 0 0 .rw 0x1]⟩,
  -- STAT
  ⟨0xc, 0x0, 1, [rfRo 15 8 0x0, rfRo 4 4 0x0, rfRo 3 3 0x0, rfRo 2 2 0x0, rfRo 1 1 0x0, rfRo 0 0 0x1]⟩,
  -- IRQ_STAT
  ⟨0x10, 0x0, 1, [rfOp 17 17 .w1c 0x0, rfOp 16 16 .w1c 0x0, rfOp 3 3 .w1c 0x0, rfOp 2 2 .w1c 0x0, rfOp 1 1 .w1c 0x0, rfOp 0 0 .w1c 0x0]⟩,
  -- IRQ_EN
  ⟨0x14, 0x0, 1, [rfOp 17 16 .rw 0x0, rfOp 3 0 .rw 0x0]⟩,
  -- FLT_STAT
  ⟨0x18, 0x0, 1, [rfRo 31 16 0x0, rfRo 15 8 0x0, rfOp 7 7 .wo 0x0, rfRo 4 2 0x0, rfRo 1 1 0x0, rfRo 0 0 0x0]⟩,
  -- FINJ
  ⟨0x1c, 0x0, 1, [rfNc 31 31 .rw 0x0, rfRo 30 30 0x0, rfNc 15 8 .rw 0x0, rfNc 7 0 .rw 0x0]⟩,
  -- OWN
  ⟨0x20, 0x0, 1, [rfOwner 16 16 .rwd 0x0, rfRo 12 8 0x3, rfOwner 4 0 .rwd 0x3]⟩,
  -- LOCK
  ⟨0x24, 0x0, 1, [rfRo 17 17 0x0, rfRo 16 16 0x0, rfOp 15 0 .wo 0x0]⟩,
  -- BATTEN
  ⟨0x28, 0x0, 1, [rfRo 31 0 0x0]⟩,
  -- GEN
  ⟨0x2c, 0x0, 1, [rfRo 31 16 0x0, rfRo 15 0 0x0]⟩]

/-- The block registers of a DIG page (R468). -/
def regsDigPart0 : List RegDesc := [
  -- RIDGE_HI
  ⟨0x100, 0x0, 1, [rfRo 31 0 0x0]⟩,
  -- RIDGE_LO
  ⟨0x104, 0x0, 1, [rfRo 31 0 0x0]⟩,
  -- PUB_HI
  ⟨0x108, 0x0, 1, [rfRo 31 0 0x0]⟩,
  -- PUB_LO
  ⟨0x10c, 0x0, 1, [rfRo 31 0 0x0]⟩,
  -- SEL
  ⟨0x110, 0x0, 1, [rfParty 17 16 .rw 0x0, rfParty 7 0 .rw 0x0]⟩,
  -- VAL_HI
  ⟨0x114, 0x0, 1, [rfRo 31 0 0x0]⟩,
  -- VAL_LO
  ⟨0x118, 0x0, 1, [rfRo 31 0 0x0]⟩,
  -- CMPMASK
  ⟨0x120, 0x0, 1, [rfCfg 31 0 .rwd 0x0]⟩,
  -- MM
  ⟨0x124, 0x0, 1, [rfRo 31 0 0x0]⟩,
  -- MMSTAT
  ⟨0x128, 0x0, 1, [rfRo 31 16 0x0, rfRo 0 0 0x0]⟩,
  -- SHD_CMD
  ⟨0x130, 0x0, 1, [rfOp 31 31 .wo 0x0, rfOp 7 0 .wo 0x0]⟩,
  -- SHD_STAT
  ⟨0x134, 0x0, 1, [rfRo 2 0 0x0]⟩]

/-- The block registers of a DIG page (R468). -/
def regsDigPart1 : List RegDesc := [
  -- SHD_HI
  ⟨0x138, 0x0, 1, [rfRo 31 0 0x0]⟩,
  -- SHD_LO
  ⟨0x13c, 0x0, 1, [rfRo 31 0 0x0]⟩]

/-- The block registers of a DIG page (R468). -/
def regsDig : List RegDesc := regsDigPart0 ++ regsDigPart1

/-- The common registers of a DEV page (R24) with its block-specific bits. -/
def commonDev : List RegDesc := [
  -- ID
  ⟨0x0, 0x0, 1, [rfRo 31 24 0x0, rfRo 23 16 0x0, rfRo 15 12 0x1, rfRo 11 8 0x2, rfRo 7 0 0x1]⟩,
  -- CAP
  ⟨0x4, 0x0, 1, [rfRo 31 24 0x0, rfRo 23 23 0x0, rfRo 22 22 0x0, rfRo 15 0 0x0]⟩,
  -- CTRL
  ⟨0x8, 0x0, 1, [rfCfg 15 8 .rw 0x3, rfNc 2 2 .wo 0x0, rfNc 1 1 .wo 0x0, rfCfg 0 0 .rw 0x1]⟩,
  -- STAT
  ⟨0xc, 0x0, 1, [rfRo 15 8 0x0, rfRo 4 4 0x0, rfRo 3 3 0x0, rfRo 2 2 0x0, rfRo 1 1 0x0, rfRo 0 0 0x1]⟩,
  -- IRQ_STAT
  ⟨0x10, 0x0, 1, [rfOp 16 16 .w1c 0x0, rfOp 3 3 .w1c 0x0, rfOp 2 2 .w1c 0x0, rfOp 1 1 .w1c 0x0, rfOp 0 0 .w1c 0x0]⟩,
  -- IRQ_EN
  ⟨0x14, 0x0, 1, [rfOp 16 16 .rw 0x0, rfOp 3 0 .rw 0x0]⟩,
  -- FLT_STAT
  ⟨0x18, 0x0, 1, [rfRo 31 16 0x0, rfRo 15 8 0x0, rfOp 7 7 .wo 0x0, rfRo 4 2 0x0, rfRo 1 1 0x0, rfRo 0 0 0x0]⟩,
  -- FINJ
  ⟨0x1c, 0x0, 1, [rfNc 31 31 .rw 0x0, rfRo 30 30 0x0, rfNc 15 8 .rw 0x0, rfNc 7 0 .rw 0x0]⟩,
  -- OWN
  ⟨0x20, 0x0, 1, [rfOwner 16 16 .rwd 0x0, rfRo 12 8 0x3, rfOwner 4 0 .rwd 0x3]⟩,
  -- LOCK
  ⟨0x24, 0x0, 1, [rfRo 17 17 0x0, rfRo 16 16 0x0, rfOp 15 0 .wo 0x0]⟩,
  -- BATTEN
  ⟨0x28, 0x0, 1, [rfRo 31 0 0x0]⟩,
  -- GEN
  ⟨0x2c, 0x0, 1, [rfRo 31 16 0x0, rfRo 15 0 0x0]⟩]

/-- The block registers of a DEV page (R499). -/
def regsDev : List RegDesc := [
  -- PART
  ⟨0x100, 0x0, 1, [rfRo 31 16 0x4816, rfRo 15 8 0x1]⟩,
  -- UID_HI
  ⟨0x104, 0x0, 1, [rfRo 31 0 0x0]⟩,
  -- UID_LO
  ⟨0x108, 0x0, 1, [rfRo 31 0 0x0]⟩,
  -- RSTCAUSE
  ⟨0x10c, 0x0, 1, [rfRo 31 16 0x0, rfRo 11 0 0x0]⟩,
  -- SWRST
  ⟨0x110, 0x0, 1, [rfNc 31 16 .wo 0x0]⟩,
  -- BOOT
  ⟨0x114, 0x0, 1, [rfRo 31 16 0x0, rfRo 15 15 0x0, rfRo 14 14 0x0, rfRo 13 12 0x0, rfRo 11 11 0x0, rfRo 2 0 0x0]⟩,
  -- BRIDGE
  ⟨0x118, 0x0, 1, [rfRo 31 24 0x0, rfRo 23 16 0x0, rfRo 15 8 0x0, rfRo 7 0 0x0]⟩,
  -- BRIDGE_CLR
  ⟨0x11c, 0x0, 1, [rfOp 0 0 .wo 0x0]⟩,
  -- JTAGID
  ⟨0x120, 0x0, 1, [rfRo 31 0 0x248164eb]⟩,
  -- DBG
  ⟨0x124, 0x0, 1, [rfCfg 0 0 .rw 0x0]⟩]

/-- The common registers of a PWR page (R24) with its block-specific bits. -/
def commonPwr : List RegDesc := [
  -- ID
  ⟨0x0, 0x0, 1, [rfRo 31 24 0x0, rfRo 23 16 0x0, rfRo 15 12 0x1, rfRo 11 8 0x2, rfRo 7 0 0x1]⟩,
  -- CAP
  ⟨0x4, 0x0, 1, [rfRo 31 24 0x0, rfRo 23 23 0x0, rfRo 22 22 0x0, rfRo 15 0 0x0]⟩,
  -- CTRL
  ⟨0x8, 0x0, 1, [rfCfg 15 8 .rw 0x3, rfNc 2 2 .wo 0x0, rfNc 1 1 .wo 0x0, rfCfg 0 0 .rw 0x1]⟩,
  -- STAT
  ⟨0xc, 0x0, 1, [rfRo 15 8 0x0, rfRo 4 4 0x0, rfRo 3 3 0x0, rfRo 2 2 0x0, rfRo 1 1 0x0, rfRo 0 0 0x1]⟩,
  -- IRQ_STAT
  ⟨0x10, 0x0, 1, [rfOp 18 18 .w1c 0x0, rfOp 17 17 .w1c 0x0, rfOp 16 16 .w1c 0x0, rfOp 3 3 .w1c 0x0, rfOp 2 2 .w1c 0x0, rfOp 1 1 .w1c 0x0, rfOp 0 0 .w1c 0x0]⟩,
  -- IRQ_EN
  ⟨0x14, 0x0, 1, [rfOp 18 16 .rw 0x0, rfOp 3 0 .rw 0x0]⟩,
  -- FLT_STAT
  ⟨0x18, 0x0, 1, [rfRo 31 16 0x0, rfRo 15 8 0x0, rfOp 7 7 .wo 0x0, rfRo 4 2 0x0, rfRo 1 1 0x0, rfRo 0 0 0x0]⟩,
  -- FINJ
  ⟨0x1c, 0x0, 1, [rfNc 31 31 .rw 0x0, rfRo 30 30 0x0, rfNc 15 8 .rw 0x0, rfNc 7 0 .rw 0x0]⟩,
  -- OWN
  ⟨0x20, 0x0, 1, [rfOwner 16 16 .rwd 0x0, rfRo 12 8 0x3, rfOwner 4 0 .rwd 0x3]⟩,
  -- LOCK
  ⟨0x24, 0x0, 1, [rfRo 17 17 0x0, rfRo 16 16 0x0, rfOp 15 0 .wo 0x0]⟩,
  -- BATTEN
  ⟨0x28, 0x0, 1, [rfRo 31 0 0x0]⟩,
  -- GEN
  ⟨0x2c, 0x0, 1, [rfRo 31 16 0x0, rfRo 15 0 0x0]⟩]

/-- The block registers of a PWR page (R501). -/
def regsPwr : List RegDesc := [
  -- MODE
  ⟨0x100, 0x0, 1, [rfOp 31 16 .wo 0x0, rfOp 1 0 .wo 0x0]⟩,
  -- STAT
  ⟨0x104, 0x0, 1, [rfRo 12 12 0x0, rfRo 11 11 0x0, rfRo 10 10 0x0, rfRo 9 9 0x0, rfRo 8 8 0x0, rfRo 4 4 0x0, rfRo 2 0 0x0]⟩,
  -- RAIL0
  ⟨0x108, 0x0, 1, [rfRo 31 16 0x0, rfRo 15 0 0x0]⟩,
  -- RAIL1
  ⟨0x10c, 0x0, 1, [rfRo 31 16 0x0, rfRo 15 0 0x0]⟩,
  -- TEMP0
  ⟨0x110, 0x0, 1, [rfRo 31 16 0x0, rfRo 15 0 0x0]⟩,
  -- TEMP1
  ⟨0x114, 0x0, 1, [rfRo 31 16 0x8000, rfRo 15 0 0x0]⟩,
  -- TCLR
  ⟨0x118, 0x0, 1, [rfOp 0 0 .wo 0x0]⟩,
  -- TWARN
  ⟨0x11c, 0x0, 1, [rfCfg 15 0 .rw 0x36b0]⟩,
  -- WAKE_LO
  ⟨0x120, 0x0, 1, [rfCfg 31 0 .rw 0x0]⟩,
  -- WAKE_HI
  ⟨0x124, 0x0, 1, [rfCfg 31 31 .rw 0x0, rfCfg 7 0 .rw 0x0]⟩,
  -- HALT0
  ⟨0x128, 0x0, 1, [rfRo 31 0 0x0]⟩,
  -- HALT1
  ⟨0x12c, 0x0, 1, [rfRo 31 0 0x0]⟩]

/-- The kind of block at a page index (R23); none where the index is unassigned. -/
def pageKind (p : Nat) : Option PageKind :=
  if p = 0x00 then some .dev else if p = 0x01 then some .tick else if p = 0x02 then some .flt
  else if p = 0x03 then some .recd else if p = 0x04 then some .clk else if p = 0x05 then some .wch
  else if p = 0x06 then some .nvs else if p = 0x07 then some .dig else if p = 0x08 then some .hst
  else if p = 0x09 ∨ p = 0x0A then some .can else if p = 0x0B ∨ p = 0x0C then some .lnk
  else if 0x10 ≤ p ∧ p ≤ 0x12 then some .sns else if p = 0x14 then some .moi
  else if p = 0x18 ∨ p = 0x19 then some .lpa else if p = 0x1A then some .prf else if p = 0x1B then some .trc
  else if p = 0x1C then some .ldg else if 0x20 ≤ p ∧ p ≤ 0x2F then some .eng
  else if p = 0x30 ∨ p = 0x31 then some .vlv else if p = 0x32 then some .fan else if p = 0x33 then some .din
  else if p = 0x34 then some .dou else if p = 0x35 then some .aou else if p = 0x36 then some .pwr
  else if p = 0x38 then some .rpt else none

/-- Page index of the first page of a kind, the BLOCK_TYPE of the ID register. -/
def blockType : PageKind → Nat
  | .dev => 0x00
  | .tick => 0x01
  | .flt => 0x02
  | .recd => 0x03
  | .clk => 0x04
  | .wch => 0x05
  | .nvs => 0x06
  | .dig => 0x07
  | .hst => 0x08
  | .can => 0x09
  | .lnk => 0x0B
  | .sns => 0x10
  | .moi => 0x14
  | .lpa => 0x18
  | .prf => 0x1A
  | .trc => 0x1B
  | .ldg => 0x1C
  | .eng => 0x20
  | .vlv => 0x30
  | .fan => 0x32
  | .din => 0x33
  | .dou => 0x34
  | .aou => 0x35
  | .pwr => 0x36
  | .rpt => 0x38

/-- The CAP word of a kind (UNITS, DBUF, LIVE, BLK_CAP of each chapter). -/
def capWord : PageKind → Nat
  | .tick => 0x0100007D
  | .sns => 0x10C010A2
  | .rpt => 0x04400000
  | .moi => 0x08C01020
  | .lpa => 0x20C00807
  | .prf => 0x20400000
  | .trc => 0x04402000
  | .ldg => 0x04C00840
  | .eng => 0x01C04020
  | .vlv => 0x08400402
  | .fan => 0x0C400810
  | .din => 0x20400804
  | .dou => 0x18400003
  | .aou => 0x08400000
  | .flt => 0x01400820
  | .recd => 0x01406800
  | .clk => 0x01400028
  | .wch => 0x01400400
  | .hst => 0x01400040
  | .can => 0x40400105
  | .lnk => 0x40402040
  | .nvs => 0x01402000
  | .dig => 0x04400000
  | .dev => 0x01400003
  | .pwr => 0x03400004

/-- The FINJ checker list of a kind (R30; R102, R137 and their like). -/
def checkers : PageKind → List Nat
  | .sns => [0, 1, 2, 16, 17, 18, 19, 20, 21]
  | .rpt => [0, 1]
  | .moi => [0, 1, 2, 3, 4, 5, 6]
  | .lpa => [0, 1, 2, 3, 4]
  | .prf => [0, 1, 2, 3]
  | .trc => [0, 1]
  | .ldg => [0, 1, 2, 3, 4]
  | .eng => [0, 1, 2, 3, 4, 5]
  | .vlv => [0, 1, 2, 3]
  | .fan => [0, 1, 2, 3, 4]
  | .din => [0, 1, 2]
  | .dou => [0, 1, 2, 3]
  | .aou => [0, 1, 2]
  | .flt => [0, 1, 2, 3, 4]
  | .recd => [0, 1, 2, 3]
  | .clk => [0, 1]
  | .wch => [0, 1, 2, 3]
  | .hst => [0, 1, 2, 3]
  | .can => [0, 1, 2, 3]
  | .lnk => [0, 1, 2, 3, 4]
  | .nvs => [0, 1, 2, 3, 4]
  | .dig => [0, 1, 2]
  | .dev => [0, 1, 2, 3, 4]
  | .pwr => [0, 1, 2, 3, 4, 5]
  | .tick => []

/-- The common registers of a kind. -/
def commonRegs : PageKind → List RegDesc
  | .tick => commonTick
  | .sns => commonSns
  | .rpt => commonRpt
  | .moi => commonMoi
  | .lpa => commonLpa
  | .prf => commonPrf
  | .trc => commonTrc
  | .ldg => commonLdg
  | .eng => commonEng
  | .vlv => commonVlv
  | .fan => commonFan
  | .din => commonDin
  | .dou => commonDou
  | .aou => commonAou
  | .flt => commonFlt
  | .recd => commonRec
  | .clk => commonClk
  | .wch => commonWch
  | .hst => commonHst
  | .can => commonCan
  | .lnk => commonLnk
  | .nvs => commonNvs
  | .dig => commonDig
  | .dev => commonDev
  | .pwr => commonPwr

/-- The block registers of a kind. -/
def blockRegs : PageKind → List RegDesc
  | .tick => regsTick
  | .sns => regsSns
  | .rpt => regsRpt
  | .moi => regsMoi
  | .lpa => regsLpa
  | .prf => regsPrf
  | .trc => regsTrc
  | .ldg => regsLdg
  | .eng => regsEng
  | .vlv => regsVlv
  | .fan => regsFan
  | .din => regsDin
  | .dou => regsDou
  | .aou => regsAou
  | .flt => regsFlt
  | .recd => regsRec
  | .clk => regsClk
  | .wch => regsWch
  | .hst => regsHst
  | .can => regsCan
  | .lnk => regsLnk
  | .nvs => regsNvs
  | .dig => regsDig
  | .dev => regsDev
  | .pwr => regsPwr

/-- The offsets of LNK registers that page LNK1 has (R440: 0x114 to 0x3FF are reserved there). -/
def onPage (p off : Nat) : Bool :=
  if p = 0x0C then decide (off < 0x114)
  else if 0x12 = p then decide (off < 0x3E0 ∨ 0x3F0 ≤ off)
  else true

/-- Whether a register row covers an offset. -/
def regCovers (r : RegDesc) (off : Nat) : Bool :=
  if r.stride = 0 then decide (off = r.base)
  else decide (r.base ≤ off ∧ (off - r.base) % r.stride = 0 ∧ (off - r.base) / r.stride < r.count)

/-- The index within its row of the register at an offset. -/
def regUnit (r : RegDesc) (off : Nat) : Nat :=
  if r.stride = 0 then 0 else (off - r.base) / r.stride

/-- The register at an offset of a page; none for an undefined offset (R21, R24). -/
def regAt (p off : Nat) : Option RegDesc :=
  match pageKind p with
  | none => none
  | some k =>
    if off < 0x30 then (commonRegs k).find? fun r => regCovers r off
    else if onPage p off then (blockRegs k).find? fun r => regCovers r off
    else none

/-- Bit mask of a field. -/
def fieldMask (f : FieldDesc) : Nat := (2 ^ (f.hi - f.lo + 1) - 1) <<< f.lo

/-- The value a word carries in a field. -/
def fieldGet (f : FieldDesc) (w : Nat) : Nat := (w >>> f.lo) % 2 ^ (f.hi - f.lo + 1)

/-- The reset word of a register row: every field at the value of its table. -/
def regReset (r : RegDesc) : Nat := r.fields.foldl (fun a f => a + f.reset <<< f.lo) 0

/-- The ID word of a page (R24): block type, instance, stepping A2, map version 1. -/
def idWord (p : Nat) (k : PageKind) : Nat :=
  blockType k <<< 24 + (p - blockType k) <<< 16 + 0x1201

/-- What a register reads before anything wrote it, by host address: the Reset column, with ID and CAP of its page. -/
def resetWord (a : Nat) : Word :=
  let p := a / 0x400
  let off := a % 0x400
  match pageKind p with
  | none => 0
  | some k =>
    if off = 0 then BitVec.ofNat 32 (idWord p k)
    else if off = 4 then BitVec.ofNat 32 (if p = 0x0C then 0x01400000 else capWord k)
    else match regAt p off with
      | none => 0
      | some r => BitVec.ofNat 32 (regReset r)

/-- The checkers of a page (R137: SNS2 has no common-mode comparator; R440: LNK1 has 0x00 and 0x02). -/
def pageCheckers (p : Nat) : List Nat :=
  match pageKind p with
  | none => []
  | some k => if p = 0x12 then (checkers k).erase 0x14 else if p = 0x0C then [0, 2] else checkers k

/-- Field LATE_LIMIT of register CTRL. -/
def CMN.CTRL_LATE_LIMIT : Fld := ⟨0x8, 0x0, 15, 8, .rw⟩
/-- Field RUN of register CTRL. -/
def CMN.CTRL_RUN : Fld := ⟨0x8, 0x0, 0, 0, .rw⟩
/-- Field LATE_CNT of register STAT. -/
def CMN.STAT_LATE_CNT : Fld := ⟨0xc, 0x0, 15, 8, .ro⟩
/-- Field SWAP_PEND of register STAT. -/
def CMN.STAT_SWAP_PEND : Fld := ⟨0xc, 0x0, 2, 2, .ro⟩
/-- Field STOPPED of register STAT. -/
def CMN.STAT_STOPPED : Fld := ⟨0xc, 0x0, 1, 1, .ro⟩
/-- Field RUNNING of register STAT. -/
def CMN.STAT_RUNNING : Fld := ⟨0xc, 0x0, 0, 0, .ro⟩
/-- Field LAST_KIND of register FLT_STAT. -/
def CMN.FLT_STAT_LAST_KIND : Fld := ⟨0x18, 0x0, 31, 16, .ro⟩
/-- Field COUNT of register FLT_STAT. -/
def CMN.FLT_STAT_COUNT : Fld := ⟨0x18, 0x0, 15, 8, .ro⟩
/-- Field ARM of register FINJ. -/
def CMN.FINJ_ARM : Fld := ⟨0x1c, 0x0, 31, 31, .rw⟩
/-- Field PASSED of register FINJ. -/
def CMN.FINJ_PASSED : Fld := ⟨0x1c, 0x0, 30, 30, .ro⟩
/-- Field INV_MASK of register FINJ. -/
def CMN.FINJ_INV_MASK : Fld := ⟨0x1c, 0x0, 15, 8, .rw⟩
/-- Field CHECKER of register FINJ. -/
def CMN.FINJ_CHECKER : Fld := ⟨0x1c, 0x0, 7, 0, .rw⟩
/-- Field SHARED of register OWN. -/
def CMN.OWN_SHARED : Fld := ⟨0x20, 0x0, 16, 16, .rwd⟩
/-- Field PREV_OWNER of register OWN. -/
def CMN.OWN_PREV_OWNER : Fld := ⟨0x20, 0x0, 12, 8, .ro⟩
/-- Field OWNER of register OWN. -/
def CMN.OWN_OWNER : Fld := ⟨0x20, 0x0, 4, 0, .rwd⟩
/-- Field PERM of register LOCK. -/
def CMN.LOCK_PERM : Fld := ⟨0x24, 0x0, 17, 17, .ro⟩
/-- Field LOCKED of register LOCK. -/
def CMN.LOCK_LOCKED : Fld := ⟨0x24, 0x0, 16, 16, .ro⟩
/-- Field SWAP_GEN of register GEN. -/
def CMN.GEN_SWAP_GEN : Fld := ⟨0x2c, 0x0, 31, 16, .ro⟩
/-- Field WRITE_GEN of register GEN. -/
def CMN.GEN_WRITE_GEN : Fld := ⟨0x2c, 0x0, 15, 0, .ro⟩
/-- Field HOLD_LIMIT of register SYNC_CTRL. -/
def TICK.SYNC_CTRL_HOLD_LIMIT : Fld := ⟨0x110, 0x0, 15, 8, .rwd⟩
/-- Field ROLE of register SYNC_CTRL. -/
def TICK.SYNC_CTRL_ROLE : Fld := ⟨0x110, 0x0, 1, 0, .rwd⟩
/-- Field MASTER_ADDR of register SYNC_STAT. -/
def TICK.SYNC_STAT_MASTER_ADDR : Fld := ⟨0x114, 0x0, 12, 8, .ro⟩
/-- Field PORT of register SYNC_STAT. -/
def TICK.SYNC_STAT_PORT : Fld := ⟨0x114, 0x0, 4, 4, .ro⟩
/-- Field STATE of register SYNC_STAT. -/
def TICK.SYNC_STAT_STATE : Fld := ⟨0x114, 0x0, 2, 0, .ro⟩
/-- Field OFFSET of register OFFSET. -/
def TICK.OFFSET_OFFSET : Fld := ⟨0x118, 0x0, 31, 0, .ro⟩
/-- Field RATE of register RATE. -/
def TICK.RATE_RATE : Fld := ⟨0x11c, 0x0, 31, 0, .ro⟩
/-- Field ADOPT_CNT of register ADOPT. -/
def TICK.ADOPT_ADOPT_CNT : Fld := ⟨0x120, 0x0, 15, 0, .ro⟩
/-- Field LAST_LEN of register LEN. -/
def TICK.LEN_LAST_LEN : Fld := ⟨0x124, 0x0, 15, 0, .ro⟩
/-- Field MAX_LEN of register MON. -/
def TICK.MON_MAX_LEN : Fld := ⟨0x128, 0x0, 31, 16, .ro⟩
/-- Field MIN_LEN of register MON. -/
def TICK.MON_MIN_LEN : Fld := ⟨0x128, 0x0, 15, 0, .ro⟩
/-- Field DOWN_CNT of register CH_CFG. -/
def SNS.CH_CFG_DOWN_CNT : Fld := ⟨0x100, 0x10, 23, 20, .rwd⟩
/-- Field AUTO of register CH_CFG. -/
def SNS.CH_CFG_AUTO : Fld := ⟨0x100, 0x10, 16, 16, .rwd⟩
/-- Field RATE of register CH_CFG. -/
def SNS.CH_CFG_RATE : Fld := ⟨0x100, 0x10, 11, 8, .rwd⟩
/-- Field NOTCH_EN of register CH_CFG. -/
def SNS.CH_CFG_NOTCH_EN : Fld := ⟨0x100, 0x10, 4, 4, .rwd⟩
/-- Field REF_SEL of register CH_CFG. -/
def SNS.CH_CFG_REF_SEL : Fld := ⟨0x100, 0x10, 3, 3, .rwd⟩
/-- Field BIAS_EN of register CH_CFG. -/
def SNS.CH_CFG_BIAS_EN : Fld := ⟨0x100, 0x10, 2, 2, .rwd⟩
/-- Field BREAK_EN of register CH_CFG. -/
def SNS.CH_CFG_BREAK_EN : Fld := ⟨0x100, 0x10, 1, 1, .rwd⟩
/-- Field EN of register CH_CFG. -/
def SNS.CH_CFG_EN : Fld := ⟨0x100, 0x10, 0, 0, .rwd⟩
/-- Field NARROW of register CH_RANGE. -/
def SNS.CH_RANGE_NARROW : Fld := ⟨0x104, 0x10, 19, 16, .rwd⟩
/-- Field WIDE of register CH_RANGE. -/
def SNS.CH_RANGE_WIDE : Fld := ⟨0x104, 0x10, 11, 8, .rwd⟩
/-- Field DISCARD of register CH_STAT. -/
def SNS.CH_STAT_DISCARD : Fld := ⟨0x108, 0x10, 12, 12, .ro⟩
/-- Field CLAMP of register CH_STAT. -/
def SNS.CH_STAT_CLAMP : Fld := ⟨0x108, 0x10, 11, 11, .ro⟩
/-- Field COMPL of register CH_STAT. -/
def SNS.CH_STAT_COMPL : Fld := ⟨0x108, 0x10, 10, 10, .ro⟩
/-- Field CLIP of register CH_STAT. -/
def SNS.CH_STAT_CLIP : Fld := ⟨0x108, 0x10, 9, 9, .ro⟩
/-- Field SETTLE of register CH_STAT. -/
def SNS.CH_STAT_SETTLE : Fld := ⟨0x108, 0x10, 8, 8, .ro⟩
/-- Field CUR_RANGE of register CH_STAT. -/
def SNS.CH_STAT_CUR_RANGE : Fld := ⟨0x108, 0x10, 3, 0, .ro⟩
/-- Field RAW of register CH_RAW. -/
def SNS.CH_RAW_RAW : Fld := ⟨0x10c, 0x10, 31, 0, .ro⟩
/-- Field COMPL of register EXC. -/
def SNS.EXC_COMPL : Fld := ⟨0x200, 0x4, 16, 16, .ro⟩
/-- Field ALT of register EXC. -/
def SNS.EXC_ALT : Fld := ⟨0x200, 0x4, 12, 12, .rws⟩
/-- Field RET of register EXC. -/
def SNS.EXC_RET : Fld := ⟨0x200, 0x4, 9, 8, .rws⟩
/-- Field LEVEL of register EXC. -/
def SNS.EXC_LEVEL : Fld := ⟨0x200, 0x4, 6, 4, .rws⟩
/-- Field MODE of register EXC. -/
def SNS.EXC_MODE : Fld := ⟨0x200, 0x4, 1, 0, .rws⟩
/-- Field SETTLE of register BK_MUX. -/
def SNS.BK_MUX_SETTLE : Fld := ⟨0x240, 0x20, 31, 24, .rws⟩
/-- Field CONV of register BK_MUX. -/
def SNS.BK_MUX_CONV : Fld := ⟨0x240, 0x20, 20, 16, .rws⟩
/-- Field MUX_RATE of register BK_MUX. -/
def SNS.BK_MUX_MUX_RATE : Fld := ⟨0x240, 0x20, 11, 8, .rws⟩
/-- Field MUX_EN of register BK_MUX. -/
def SNS.BK_MUX_MUX_EN : Fld := ⟨0x240, 0x20, 0, 0, .rws⟩
/-- Field MASK of register BK_PTS. -/
def SNS.BK_PTS_MASK : Fld := ⟨0x244, 0x20, 15, 0, .rws⟩
/-- Field SETTLE_TOL of register BK_TOL. -/
def SNS.BK_TOL_SETTLE_TOL : Fld := ⟨0x248, 0x20, 23, 0, .rws⟩
/-- Field SCAN_CNT of register BK_STAT. -/
def SNS.BK_STAT_SCAN_CNT : Fld := ⟨0x24c, 0x20, 31, 16, .ro⟩
/-- Field POINT of register BK_STAT. -/
def SNS.BK_STAT_POINT : Fld := ⟨0x24c, 0x20, 11, 8, .ro⟩
/-- Field MXS of register BK_STAT. -/
def SNS.BK_STAT_MXS : Fld := ⟨0x24c, 0x20, 7, 4, .ro⟩
/-- Field REF_BAD of register BK_STAT. -/
def SNS.BK_STAT_REF_BAD : Fld := ⟨0x24c, 0x20, 3, 3, .ro⟩
/-- Field CLAMP_SEEN of register BK_STAT. -/
def SNS.BK_STAT_CLAMP_SEEN : Fld := ⟨0x24c, 0x20, 1, 1, .w1c⟩
/-- Field CLAMP of register BK_STAT. -/
def SNS.BK_STAT_CLAMP : Fld := ⟨0x24c, 0x20, 0, 0, .ro⟩
/-- Field PIN of register BK_CLPIN. -/
def SNS.BK_CLPIN_PIN : Fld := ⟨0x250, 0x20, 15, 0, .w1c⟩
/-- Field TPT of register CH_LIN. -/
def SNS.CH_LIN_TPT : Fld := ⟨0x320, 0x4, 31, 28, .rwd⟩
/-- Field TCH of register CH_LIN. -/
def SNS.CH_LIN_TCH : Fld := ⟨0x320, 0x4, 21, 16, .rwd⟩
/-- Field TSRC of register CH_LIN. -/
def SNS.CH_LIN_TSRC : Fld := ⟨0x320, 0x4, 13, 12, .rwd⟩
/-- Field SET of register CH_LIN. -/
def SNS.CH_LIN_SET : Fld := ⟨0x320, 0x4, 11, 8, .rwd⟩
/-- Field LIN_EN of register CH_LIN. -/
def SNS.CH_LIN_LIN_EN : Fld := ⟨0x320, 0x4, 0, 0, .rwd⟩
/-- Field CM_MEAS of register CH_DIAG. -/
def SNS.CH_DIAG_CM_MEAS : Fld := ⟨0x360, 0x4, 31, 16, .ro⟩
/-- Field ZVALID of register CH_DIAG. -/
def SNS.CH_DIAG_ZVALID : Fld := ⟨0x360, 0x4, 9, 9, .ro⟩
/-- Field BRK_SEEN of register CH_DIAG. -/
def SNS.CH_DIAG_BRK_SEEN : Fld := ⟨0x360, 0x4, 8, 8, .w1c⟩
/-- Field TONE_LVL of register CH_DIAG. -/
def SNS.CH_DIAG_TONE_LVL : Fld := ⟨0x360, 0x4, 5, 4, .rwd⟩
/-- Field TONE_EN of register CH_DIAG. -/
def SNS.CH_DIAG_TONE_EN : Fld := ⟨0x360, 0x4, 0, 0, .rwd⟩
/-- Field Z of register CH_ZMEAS. -/
def SNS.CH_ZMEAS_Z : Fld := ⟨0x3a0, 0x4, 31, 0, .ro⟩
/-- Field CM_HI of register CM. -/
def SNS.CM_CM_HI : Fld := ⟨0x3e0, 0x4, 31, 16, .rwd⟩
/-- Field CM_LO of register CM. -/
def SNS.CM_CM_LO : Fld := ⟨0x3e0, 0x4, 15, 0, .rwd⟩
/-- Field AINC of register COEF_ADDR. -/
def SNS.COEF_ADDR_AINC : Fld := ⟨0x3f0, 0x0, 16, 16, .rw⟩
/-- Field VIEW of register COEF_ADDR. -/
def SNS.COEF_ADDR_VIEW : Fld := ⟨0x3f0, 0x0, 8, 8, .rw⟩
/-- Field SET of register COEF_ADDR. -/
def SNS.COEF_ADDR_SET : Fld := ⟨0x3f0, 0x0, 7, 4, .rw⟩
/-- Field WORD of register COEF_ADDR. -/
def SNS.COEF_ADDR_WORD : Fld := ⟨0x3f0, 0x0, 3, 0, .rw⟩
/-- Field MUX_RUN1 of register STAT. -/
def SNS.STAT_MUX_RUN1 : Fld := ⟨0xc, 0x0, 19, 19, .ro⟩
/-- Field MUX_RUN0 of register STAT. -/
def SNS.STAT_MUX_RUN0 : Fld := ⟨0xc, 0x0, 18, 18, .ro⟩
/-- Field CLAMP1 of register STAT. -/
def SNS.STAT_CLAMP1 : Fld := ⟨0xc, 0x0, 17, 17, .ro⟩
/-- Field CLAMP0 of register STAT. -/
def SNS.STAT_CLAMP0 : Fld := ⟨0xc, 0x0, 16, 16, .ro⟩
/-- Field SRC_PT of register OUT_CFG. -/
def RPT.OUT_CFG_SRC_PT : Fld := ⟨0x100, 0x20, 31, 28, .rwd⟩
/-- Field SRC_CH of register OUT_CFG. -/
def RPT.OUT_CFG_SRC_CH : Fld := ⟨0x100, 0x20, 21, 16, .rwd⟩
/-- Field FB_MASK of register OUT_CFG. -/
def RPT.OUT_CFG_FB_MASK : Fld := ⟨0x100, 0x20, 15, 8, .rwd⟩
/-- Field MODE of register OUT_CFG. -/
def RPT.OUT_CFG_MODE : Fld := ⟨0x100, 0x20, 1, 0, .rwd⟩
/-- Field V of register OUT_VLO. -/
def RPT.OUT_VLO_V : Fld := ⟨0x104, 0x20, 31, 0, .rwd⟩
/-- Field V of register OUT_VHI. -/
def RPT.OUT_VHI_V : Fld := ⟨0x108, 0x20, 31, 0, .rwd⟩
/-- Field O of register OUT_OLO. -/
def RPT.OUT_OLO_O : Fld := ⟨0x10c, 0x20, 31, 0, .rwd⟩
/-- Field O of register OUT_OHI. -/
def RPT.OUT_OHI_O : Fld := ⟨0x110, 0x20, 31, 0, .rwd⟩
/-- Field O of register OUT_SAFE. -/
def RPT.OUT_SAFE_O : Fld := ⟨0x114, 0x20, 31, 0, .rwd⟩
/-- Field PERIOD of register OUT_PERIOD. -/
def RPT.OUT_PERIOD_PERIOD : Fld := ⟨0x118, 0x20, 19, 0, .rwd⟩
/-- Field RB_ERR of register OUT_STAT. -/
def RPT.OUT_STAT_RB_ERR : Fld := ⟨0x11c, 0x20, 31, 31, .ro⟩
/-- Field FB of register OUT_STAT. -/
def RPT.OUT_STAT_FB : Fld := ⟨0x11c, 0x20, 30, 30, .ro⟩
/-- Field OUT of register OUT_STAT. -/
def RPT.OUT_STAT_OUT : Fld := ⟨0x11c, 0x20, 23, 0, .ro⟩
/-- Field EN of register CH_CFG. -/
def MOI.CH_CFG_EN : Fld := ⟨0x100, 0x20, 0, 0, .rwd⟩
/-- Field LAST_LEN of register CH_STAT. -/
def MOI.CH_STAT_LAST_LEN : Fld := ⟨0x114, 0x20, 31, 16, .ro⟩
/-- Field REPEATS of register CH_STAT. -/
def MOI.CH_STAT_REPEATS : Fld := ⟨0x114, 0x20, 11, 8, .ro⟩
/-- Field EMPTY of register CH_STAT. -/
def MOI.CH_STAT_EMPTY : Fld := ⟨0x114, 0x20, 2, 2, .ro⟩
/-- Field CAL of register CH_STAT. -/
def MOI.CH_STAT_CAL : Fld := ⟨0x114, 0x20, 1, 1, .ro⟩
/-- Field DL of register CH_FOUL. -/
def MOI.CH_FOUL_DL : Fld := ⟨0x118, 0x20, 31, 16, .ro⟩
/-- Field DC of register CH_FOUL. -/
def MOI.CH_FOUL_DC : Fld := ⟨0x118, 0x20, 15, 0, .ro⟩
/-- Field NAVG of register CAL_CTRL. -/
def MOI.CAL_CTRL_NAVG : Fld := ⟨0x300, 0x0, 21, 16, .rw⟩
/-- Field DONE_CNT of register CAL_STAT. -/
def MOI.CAL_STAT_DONE_CNT : Fld := ⟨0x304, 0x0, 23, 16, .ro⟩
/-- Field CH of register CAL_STAT. -/
def MOI.CAL_STAT_CH : Fld := ⟨0x304, 0x0, 10, 8, .ro⟩
/-- Field RESULT of register CAL_STAT. -/
def MOI.CAL_STAT_RESULT : Fld := ⟨0x304, 0x0, 6, 4, .ro⟩
/-- Field BUSY of register CAL_STAT. -/
def MOI.CAL_STAT_BUSY : Fld := ⟨0x304, 0x0, 0, 0, .ro⟩
/-- Field TOL of register CAL_TOL. -/
def MOI.CAL_TOL_TOL : Fld := ⟨0x308, 0x0, 15, 0, .rw⟩
/-- Field AINC of register TBL_ADDR. -/
def MOI.TBL_ADDR_AINC : Fld := ⟨0x310, 0x0, 16, 16, .rw⟩
/-- Field VIEW of register TBL_ADDR. -/
def MOI.TBL_ADDR_VIEW : Fld := ⟨0x310, 0x0, 15, 15, .rw⟩
/-- Field AREA of register TBL_ADDR. -/
def MOI.TBL_ADDR_AREA : Fld := ⟨0x310, 0x0, 14, 12, .rw⟩
/-- Field WORD of register TBL_ADDR. -/
def MOI.TBL_ADDR_WORD : Fld := ⟨0x310, 0x0, 11, 0, .rw⟩
/-- Field VALID of register SWAP_CHK. -/
def MOI.SWAP_CHK_VALID : Fld := ⟨0x318, 0x0, 15, 15, .ro⟩
/-- Field CH of register SWAP_CHK. -/
def MOI.SWAP_CHK_CH : Fld := ⟨0x318, 0x0, 10, 8, .ro⟩
/-- Field CAUSE of register SWAP_CHK. -/
def MOI.SWAP_CHK_CAUSE : Fld := ⟨0x318, 0x0, 3, 0, .ro⟩
/-- Field UNLOCK_CNT of register PLL_STAT. -/
def MOI.PLL_STAT_UNLOCK_CNT : Fld := ⟨0x320, 0x0, 31, 16, .ro⟩
/-- Field LOCK of register PLL_STAT. -/
def MOI.PLL_STAT_LOCK : Fld := ⟨0x320, 0x0, 0, 0, .ro⟩
/-- Field PIN of register BK_STAT. -/
def MOI.BK_STAT_PIN : Fld := ⟨0x330, 0x4, 27, 16, .w1c⟩
/-- Field CLAMP_SEEN of register BK_STAT. -/
def MOI.BK_STAT_CLAMP_SEEN : Fld := ⟨0x330, 0x4, 1, 1, .w1c⟩
/-- Field CLAMP of register BK_STAT. -/
def MOI.BK_STAT_CLAMP : Fld := ⟨0x330, 0x4, 0, 0, .ro⟩
/-- Field PLL_LOCK of register STAT. -/
def MOI.STAT_PLL_LOCK : Fld := ⟨0xc, 0x0, 17, 17, .ro⟩
/-- Field CAL_BUSY of register STAT. -/
def MOI.STAT_CAL_BUSY : Fld := ⟨0xc, 0x0, 16, 16, .ro⟩
/-- Field OWNER of register SL_CTRL. -/
def LPA.SL_CTRL_OWNER : Fld := ⟨0x100, 0x10, 31, 27, .rwd⟩
/-- Field MODE of register SL_CTRL. -/
def LPA.SL_CTRL_MODE : Fld := ⟨0x100, 0x10, 1, 0, .rwd⟩
/-- Field LATE of register SL_STAT. -/
def LPA.SL_STAT_LATE : Fld := ⟨0x300, 0x4, 30, 30, .ro⟩
/-- Field DEST of register SL_STAT. -/
def LPA.SL_STAT_DEST : Fld := ⟨0x300, 0x4, 29, 28, .ro⟩
/-- Field LIM of register SL_STAT. -/
def LPA.SL_STAT_LIM : Fld := ⟨0x300, 0x4, 27, 26, .ro⟩
/-- Field INCOND of register SL_STAT. -/
def LPA.SL_STAT_INCOND : Fld := ⟨0x300, 0x4, 11, 8, .ro⟩
/-- Field LAST of register LOAD. -/
def LPA.LOAD_LAST : Fld := ⟨0x380, 0x0, 31, 16, .ro⟩
/-- Field MAX of register LOADMAX. -/
def LPA.LOADMAX_MAX : Fld := ⟨0x384, 0x0, 15, 0, .ro⟩
/-- Field AINC of register WIN_ADDR. -/
def LPA.WIN_ADDR_AINC : Fld := ⟨0x388, 0x0, 16, 16, .rw⟩
/-- Field VIEW of register WIN_ADDR. -/
def LPA.WIN_ADDR_VIEW : Fld := ⟨0x388, 0x0, 15, 15, .rw⟩
/-- Field AREA of register WIN_ADDR. -/
def LPA.WIN_ADDR_AREA : Fld := ⟨0x388, 0x0, 14, 12, .rw⟩
/-- Field WORD of register WIN_ADDR. -/
def LPA.WIN_ADDR_WORD : Fld := ⟨0x388, 0x0, 11, 0, .rw⟩
/-- Field VALID of register CFG_CHK. -/
def LPA.CFG_CHK_VALID : Fld := ⟨0x390, 0x0, 15, 15, .ro⟩
/-- Field SLOT of register CFG_CHK. -/
def LPA.CFG_CHK_SLOT : Fld := ⟨0x390, 0x0, 13, 8, .ro⟩
/-- Field CAUSE of register CFG_CHK. -/
def LPA.CFG_CHK_CAUSE : Fld := ⟨0x390, 0x0, 3, 0, .ro⟩
/-- Field OWNER of register PG_CTRL. -/
def PRF.PG_CTRL_OWNER : Fld := ⟨0x100, 0x10, 31, 27, .rwd⟩
/-- Field INITSEL of register PG_CTRL. -/
def PRF.PG_CTRL_INITSEL : Fld := ⟨0x100, 0x10, 4, 4, .rwd⟩
/-- Field MODE of register PG_CTRL. -/
def PRF.PG_CTRL_MODE : Fld := ⟨0x100, 0x10, 1, 0, .rwd⟩
/-- Field LATE of register PG_STAT. -/
def PRF.PG_STAT_LATE : Fld := ⟨0x10c, 0x10, 30, 30, .ro⟩
/-- Field AT of register PG_STAT. -/
def PRF.PG_STAT_AT : Fld := ⟨0x10c, 0x10, 29, 29, .ro⟩
/-- Field REV of register PG_STAT. -/
def PRF.PG_STAT_REV : Fld := ⟨0x10c, 0x10, 28, 28, .ro⟩
/-- Field TCLAMP of register PG_STAT. -/
def PRF.PG_STAT_TCLAMP : Fld := ⟨0x10c, 0x10, 27, 27, .ro⟩
/-- Field PCLAMP of register PG_STAT. -/
def PRF.PG_STAT_PCLAMP : Fld := ⟨0x10c, 0x10, 26, 26, .ro⟩
/-- Field TGT_AGE of register PG_STAT. -/
def PRF.PG_STAT_TGT_AGE : Fld := ⟨0x10c, 0x10, 7, 0, .ro⟩
/-- Field AINC of register WIN_ADDR. -/
def PRF.WIN_ADDR_AINC : Fld := ⟨0x300, 0x0, 16, 16, .rw⟩
/-- Field AREA of register WIN_ADDR. -/
def PRF.WIN_ADDR_AREA : Fld := ⟨0x300, 0x0, 14, 12, .rw⟩
/-- Field WORD of register WIN_ADDR. -/
def PRF.WIN_ADDR_WORD : Fld := ⟨0x300, 0x0, 11, 0, .rw⟩
/-- Field DIV of register U_CFG. -/
def TRC.U_CFG_DIV : Fld := ⟨0x100, 0x40, 27, 24, .rw⟩
/-- Field SPH of register U_CFG. -/
def TRC.U_CFG_SPH : Fld := ⟨0x100, 0x40, 22, 16, .rw⟩
/-- Field NCH of register U_CFG. -/
def TRC.U_CFG_NCH : Fld := ⟨0x100, 0x40, 9, 8, .rw⟩
/-- Field PRE of register U_PRE. -/
def TRC.U_PRE_PRE : Fld := ⟨0x104, 0x40, 12, 0, .rw⟩
/-- Field XMASK of register U_TRIG. -/
def TRC.U_TRIG_XMASK : Fld := ⟨0x118, 0x40, 27, 24, .rw⟩
/-- Field FSEV of register U_TRIG. -/
def TRC.U_TRIG_FSEV : Fld := ⟨0x118, 0x40, 18, 16, .rw⟩
/-- Field FLT_EN of register U_TRIG. -/
def TRC.U_TRIG_FLT_EN : Fld := ⟨0x118, 0x40, 13, 13, .rw⟩
/-- Field CMP_EN of register U_TRIG. -/
def TRC.U_TRIG_CMP_EN : Fld := ⟨0x118, 0x40, 12, 12, .rw⟩
/-- Field FMT of register U_TRIG. -/
def TRC.U_TRIG_FMT : Fld := ⟨0x118, 0x40, 9, 8, .rw⟩
/-- Field COND of register U_TRIG. -/
def TRC.U_TRIG_COND : Fld := ⟨0x118, 0x40, 2, 0, .rw⟩
/-- Field VALUE of register U_LEVEL. -/
def TRC.U_LEVEL_VALUE : Fld := ⟨0x11c, 0x40, 31, 0, .rw⟩
/-- Field VALUE of register U_MASK. -/
def TRC.U_MASK_VALUE : Fld := ⟨0x120, 0x40, 31, 0, .rw⟩
/-- Field TICK_LO of register U_TTICK_LO. -/
def TRC.U_TTICK_LO_TICK_LO : Fld := ⟨0x12c, 0x40, 31, 0, .ro⟩
/-- Field CAUSE of register U_TTICK_HI. -/
def TRC.U_TTICK_HI_CAUSE : Fld := ⟨0x130, 0x40, 26, 24, .ro⟩
/-- Field PHASE of register U_TTICK_HI. -/
def TRC.U_TTICK_HI_PHASE : Fld := ⟨0x130, 0x40, 22, 16, .ro⟩
/-- Field TICK_HI of register U_TTICK_HI. -/
def TRC.U_TTICK_HI_TICK_HI : Fld := ⟨0x130, 0x40, 15, 0, .ro⟩
/-- Field OWNER of register COL_CTRL. -/
def LDG.COL_CTRL_OWNER : Fld := ⟨0x100, 0x40, 31, 27, .rwd⟩
/-- Field SMODE of register COL_CTRL. -/
def LDG.COL_CTRL_SMODE : Fld := ⟨0x100, 0x40, 12, 12, .rwd⟩
/-- Field PREC of register COL_CTRL. -/
def LDG.COL_CTRL_PREC : Fld := ⟨0x100, 0x40, 8, 8, .rwd⟩
/-- Field RUNIT of register COL_CTRL. -/
def LDG.COL_CTRL_RUNIT : Fld := ⟨0x100, 0x40, 5, 5, .rwd⟩
/-- Field LAYDIR of register COL_CTRL. -/
def LDG.COL_CTRL_LAYDIR : Fld := ⟨0x100, 0x40, 4, 4, .rwd⟩
/-- Field MODE of register COL_CTRL. -/
def LDG.COL_CTRL_MODE : Fld := ⟨0x100, 0x40, 1, 0, .rwd⟩
/-- Field SLIP of register COL_SLIP. -/
def LDG.COL_SLIP_SLIP : Fld := ⟨0x108, 0x40, 15, 0, .rwd⟩
/-- Field LATE of register COL_STAT. -/
def LDG.COL_STAT_LATE : Fld := ⟨0x11c, 0x40, 30, 30, .ro⟩
/-- Field SAT_LO of register COL_STAT. -/
def LDG.COL_STAT_SAT_LO : Fld := ⟨0x11c, 0x40, 29, 29, .ro⟩
/-- Field SAT_HI of register COL_STAT. -/
def LDG.COL_STAT_SAT_HI : Fld := ⟨0x11c, 0x40, 28, 28, .ro⟩
/-- Field METER_STALE of register COL_STAT. -/
def LDG.COL_STAT_METER_STALE : Fld := ⟨0x11c, 0x40, 27, 27, .ro⟩
/-- Field BIAS_LIM of register COL_STAT. -/
def LDG.COL_STAT_BIAS_LIM : Fld := ⟨0x11c, 0x40, 23, 23, .ro⟩
/-- Field SLIP_LIM of register COL_STAT. -/
def LDG.COL_STAT_SLIP_LIM : Fld := ⟨0x11c, 0x40, 22, 22, .ro⟩
/-- Field HEAD of register COL_PTR. -/
def LDG.COL_PTR_HEAD : Fld := ⟨0x120, 0x40, 21, 11, .rw⟩
/-- Field BOT of register COL_PTR. -/
def LDG.COL_PTR_BOT : Fld := ⟨0x120, 0x40, 10, 0, .rw⟩
/-- Field TAIL of register COL_TAIL. -/
def LDG.COL_TAIL_TAIL : Fld := ⟨0x124, 0x40, 10, 0, .rw⟩
/-- Field RING of register COL_LOST. -/
def LDG.COL_LOST_RING : Fld := ⟨0x128, 0x40, 31, 16, .ro⟩
/-- Field NOOUT of register COL_LOST. -/
def LDG.COL_LOST_NOOUT : Fld := ⟨0x128, 0x40, 15, 0, .ro⟩
/-- Field AINC of register WIN_ADDR. -/
def LDG.WIN_ADDR_AINC : Fld := ⟨0x200, 0x0, 16, 16, .rw⟩
/-- Field VIEW of register WIN_ADDR. -/
def LDG.WIN_ADDR_VIEW : Fld := ⟨0x200, 0x0, 15, 15, .rw⟩
/-- Field AREA of register WIN_ADDR. -/
def LDG.WIN_ADDR_AREA : Fld := ⟨0x200, 0x0, 14, 12, .rw⟩
/-- Field WORD of register WIN_ADDR. -/
def LDG.WIN_ADDR_WORD : Fld := ⟨0x200, 0x0, 11, 0, .rw⟩
/-- Field VALID of register CFG_CHK. -/
def LDG.CFG_CHK_VALID : Fld := ⟨0x208, 0x0, 15, 15, .ro⟩
/-- Field COL of register CFG_CHK. -/
def LDG.CFG_CHK_COL : Fld := ⟨0x208, 0x0, 9, 8, .ro⟩
/-- Field CAUSE of register CFG_CHK. -/
def LDG.CFG_CHK_CAUSE : Fld := ⟨0x208, 0x0, 3, 0, .ro⟩
/-- Field COUNT of register PASS. -/
def LDG.PASS_COUNT : Fld := ⟨0x20c, 0x0, 31, 0, .ro⟩
/-- Field BG_EN of register CFG. -/
def ENG.CFG_BG_EN : Fld := ⟨0x100, 0x0, 1, 1, .rwd⟩
/-- Field DL_EN of register CFG. -/
def ENG.CFG_DL_EN : Fld := ⟨0x100, 0x0, 0, 0, .rwd⟩
/-- Field CAUSE of register PROB. -/
def ENG.PROB_CAUSE : Fld := ⟨0x104, 0x0, 14, 12, .ro⟩
/-- Field PROB_LEN of register PROB. -/
def ENG.PROB_PROB_LEN : Fld := ⟨0x104, 0x0, 7, 0, .rw⟩
/-- Field DLAYOUT of register HDR. -/
def ENG.HDR_DLAYOUT : Fld := ⟨0x108, 0x0, 31, 16, .ro⟩
/-- Field DL_WCET of register HDR. -/
def ENG.HDR_DL_WCET : Fld := ⟨0x108, 0x0, 15, 0, .ro⟩
/-- Field TOOL of register TOOL. -/
def ENG.TOOL_TOOL : Fld := ⟨0x10c, 0x0, 31, 0, .ro⟩
/-- Field MAX of register DLCYC. -/
def ENG.DLCYC_MAX : Fld := ⟨0x110, 0x0, 31, 16, .ro⟩
/-- Field LAST of register DLCYC. -/
def ENG.DLCYC_LAST : Fld := ⟨0x110, 0x0, 15, 0, .ro⟩
/-- Field PASSES of register BGCYC. -/
def ENG.BGCYC_PASSES : Fld := ⟨0x114, 0x0, 31, 16, .ro⟩
/-- Field LAST of register BGCYC. -/
def ENG.BGCYC_LAST : Fld := ⟨0x114, 0x0, 15, 0, .ro⟩
/-- Field COUNT of register TRAP. -/
def ENG.TRAP_COUNT : Fld := ⟨0x11c, 0x0, 31, 24, .ro⟩
/-- Field CAUSE of register TRAP. -/
def ENG.TRAP_CAUSE : Fld := ⟨0x11c, 0x0, 18, 16, .ro⟩
/-- Field LANE of register TRAP. -/
def ENG.TRAP_LANE : Fld := ⟨0x11c, 0x0, 15, 15, .ro⟩
/-- Field PC of register TRAP. -/
def ENG.TRAP_PC : Fld := ⟨0x11c, 0x0, 13, 0, .ro⟩
/-- Field VALID of register SWAP_CHK. -/
def ENG.SWAP_CHK_VALID : Fld := ⟨0x120, 0x0, 15, 15, .ro⟩
/-- Field CAUSE of register SWAP_CHK. -/
def ENG.SWAP_CHK_CAUSE : Fld := ⟨0x120, 0x0, 3, 0, .ro⟩
/-- Field LAST of register DMWIN. -/
def ENG.DMWIN_LAST : Fld := ⟨0x124, 0x0, 28, 16, .rwd⟩
/-- Field FIRST of register DMWIN. -/
def ENG.DMWIN_FIRST : Fld := ⟨0x124, 0x0, 12, 0, .rwd⟩
/-- Field DISCARD of register POST. -/
def ENG.POST_DISCARD : Fld := ⟨0x128, 0x0, 31, 16, .ro⟩
/-- Field COLLIDE of register COUNT. -/
def ENG.COUNT_COLLIDE : Fld := ⟨0x12c, 0x0, 31, 16, .ro⟩
/-- Field REFUSE of register COUNT. -/
def ENG.COUNT_REFUSE : Fld := ⟨0x12c, 0x0, 15, 0, .ro⟩
/-- Field NOPROG of register STAT. -/
def ENG.STAT_NOPROG : Fld := ⟨0xc, 0x0, 20, 20, .ro⟩
/-- Field DL_BUSY of register STAT. -/
def ENG.STAT_DL_BUSY : Fld := ⟨0xc, 0x0, 19, 19, .ro⟩
/-- Field BG_BUSY of register STAT. -/
def ENG.STAT_BG_BUSY : Fld := ⟨0xc, 0x0, 18, 18, .ro⟩
/-- Field SWAP_RET of register STAT. -/
def ENG.STAT_SWAP_RET : Fld := ⟨0xc, 0x0, 17, 17, .ro⟩
/-- Field PROB of register STAT. -/
def ENG.STAT_PROB : Fld := ⟨0xc, 0x0, 16, 16, .ro⟩
/-- Field OWNER of register LG_CTRL. -/
def VLV.LG_CTRL_OWNER : Fld := ⟨0x100, 0x20, 31, 27, .rwd⟩
/-- Field EN of register LG_CTRL. -/
def VLV.LG_CTRL_EN : Fld := ⟨0x100, 0x20, 0, 0, .rwd⟩
/-- Field I_PULL of register LG_CUR. -/
def VLV.LG_CUR_I_PULL : Fld := ⟨0x108, 0x20, 25, 16, .rwd⟩
/-- Field I_HOLD of register LG_CUR. -/
def VLV.LG_CUR_I_HOLD : Fld := ⟨0x108, 0x20, 9, 0, .rwd⟩
/-- Field DIP_TH of register LG_TIME. -/
def VLV.LG_TIME_DIP_TH : Fld := ⟨0x10c, 0x20, 31, 24, .rwd⟩
/-- Field T_PULL of register LG_TIME. -/
def VLV.LG_TIME_T_PULL : Fld := ⟨0x10c, 0x20, 16, 0, .rwd⟩
/-- Field DK_OFF of register LG_DECAY. -/
def VLV.LG_DECAY_DK_OFF : Fld := ⟨0x110, 0x20, 31, 30, .rwd⟩
/-- Field DK_HOLD of register LG_DECAY. -/
def VLV.LG_DECAY_DK_HOLD : Fld := ⟨0x110, 0x20, 29, 28, .rwd⟩
/-- Field DK_P2H of register LG_DECAY. -/
def VLV.LG_DECAY_DK_P2H : Fld := ⟨0x110, 0x20, 27, 26, .rwd⟩
/-- Field DK_PULL of register LG_DECAY. -/
def VLV.LG_DECAY_DK_PULL : Fld := ⟨0x110, 0x20, 25, 24, .rwd⟩
/-- Field MIXT of register LG_DECAY. -/
def VLV.LG_DECAY_MIXT : Fld := ⟨0x110, 0x20, 5, 0, .rwd⟩
/-- Field DWIN of register LG_DUTY. -/
def VLV.LG_DUTY_DWIN : Fld := ⟨0x114, 0x20, 22, 16, .rws⟩
/-- Field DLIM of register LG_DUTY. -/
def VLV.LG_DUTY_DLIM : Fld := ⟨0x114, 0x20, 6, 0, .rwd⟩
/-- Field ISENSE of register LG_STAT. -/
def VLV.LG_STAT_ISENSE : Fld := ⟨0x118, 0x20, 31, 22, .ro⟩
/-- Field TRIP of register LG_STAT. -/
def VLV.LG_STAT_TRIP : Fld := ⟨0x118, 0x20, 15, 15, .ro⟩
/-- Field DUTY_EP of register LG_STAT. -/
def VLV.LG_STAT_DUTY_EP : Fld := ⟨0x118, 0x20, 14, 14, .ro⟩
/-- Field SUBST of register LG_STAT. -/
def VLV.LG_STAT_SUBST : Fld := ⟨0x118, 0x20, 12, 12, .ro⟩
/-- Field PREEMPT of register LG_STAT. -/
def VLV.LG_STAT_PREEMPT : Fld := ⟨0x118, 0x20, 11, 11, .ro⟩
/-- Field OVERWR of register LG_STAT. -/
def VLV.LG_STAT_OVERWR : Fld := ⟨0x118, 0x20, 10, 10, .ro⟩
/-- Field DLY_EXP of register LG_STAT. -/
def VLV.LG_STAT_DLY_EXP : Fld := ⟨0x118, 0x20, 9, 9, .ro⟩
/-- Field BLOCKED of register LG_STAT. -/
def VLV.LG_STAT_BLOCKED : Fld := ⟨0x118, 0x20, 8, 8, .ro⟩
/-- Field EXT of register LG_STAT. -/
def VLV.LG_STAT_EXT : Fld := ⟨0x118, 0x20, 7, 7, .ro⟩
/-- Field REACH of register LG_STAT. -/
def VLV.LG_STAT_REACH : Fld := ⟨0x118, 0x20, 6, 6, .ro⟩
/-- Field MOVE_T of register LG_MOVE. -/
def VLV.LG_MOVE_MOVE_T : Fld := ⟨0x11c, 0x20, 31, 16, .ro⟩
/-- Field MSTAT of register LG_MOVE. -/
def VLV.LG_MOVE_MSTAT : Fld := ⟨0x11c, 0x20, 15, 14, .ro⟩
/-- Field MOVE_I of register LG_MOVE. -/
def VLV.LG_MOVE_MOVE_I : Fld := ⟨0x11c, 0x20, 9, 0, .ro⟩
/-- Field DMAX of register PR_CFG. -/
def VLV.PR_CFG_DMAX : Fld := ⟨0x200, 0x8, 24, 8, .rwd⟩
/-- Field PRI of register PR_CFG. -/
def VLV.PR_CFG_PRI : Fld := ⟨0x200, 0x8, 4, 4, .rwd⟩
/-- Field OVL of register PR_CFG. -/
def VLV.PR_CFG_OVL : Fld := ⟨0x200, 0x8, 1, 0, .rwd⟩
/-- Field LAST_WAIT of register PR_STAT. -/
def VLV.PR_STAT_LAST_WAIT : Fld := ⟨0x204, 0x8, 31, 16, .ro⟩
/-- Field IHS of register PR_STAT. -/
def VLV.PR_STAT_IHS : Fld := ⟨0x204, 0x8, 15, 6, .ro⟩
/-- Field HS_TRIP of register PR_STAT. -/
def VLV.PR_STAT_HS_TRIP : Fld := ⟨0x204, 0x8, 1, 1, .ro⟩
/-- Field BLOCK of register LG_CNT. -/
def VLV.LG_CNT_BLOCK : Fld := ⟨0x230, 0x4, 31, 24, .ro⟩
/-- Field OVW of register LG_CNT. -/
def VLV.LG_CNT_OVW : Fld := ⟨0x230, 0x4, 23, 16, .ro⟩
/-- Field SUBST of register LG_CNT. -/
def VLV.LG_CNT_SUBST : Fld := ⟨0x230, 0x4, 15, 8, .ro⟩
/-- Field EXT of register LG_CNT. -/
def VLV.LG_CNT_EXT : Fld := ⟨0x230, 0x4, 7, 0, .ro⟩
/-- Field VALID of register CFG_CHK. -/
def VLV.CFG_CHK_VALID : Fld := ⟨0x250, 0x0, 15, 15, .ro⟩
/-- Field PAIR of register CFG_CHK. -/
def VLV.CFG_CHK_PAIR : Fld := ⟨0x250, 0x0, 9, 8, .ro⟩
/-- Field CAUSE of register CFG_CHK. -/
def VLV.CFG_CHK_CAUSE : Fld := ⟨0x250, 0x0, 3, 0, .ro⟩
/-- Field OWNER of register CH_CTRL. -/
def FAN.CH_CTRL_OWNER : Fld := ⟨0x100, 0x20, 31, 27, .rwd⟩
/-- Field LEARN of register CH_CTRL. -/
def FAN.CH_CTRL_LEARN : Fld := ⟨0x100, 0x20, 12, 12, .rw⟩
/-- Field VFD of register CH_CTRL. -/
def FAN.CH_CTRL_VFD : Fld := ⟨0x100, 0x20, 4, 4, .rw⟩
/-- Field PPR of register CH_CFG. -/
def FAN.CH_CFG_PPR : Fld := ⟨0x104, 0x20, 14, 12, .rwd⟩
/-- Field KICK_TO of register CH_CFG. -/
def FAN.CH_CFG_KICK_TO : Fld := ⟨0x104, 0x20, 11, 4, .rwd⟩
/-- Field NPTM1 of register CH_CFG. -/
def FAN.CH_CFG_NPTM1 : Fld := ⟨0x104, 0x20, 2, 0, .rwd⟩
/-- Field SAFE of register CH_DUTY. -/
def FAN.CH_DUTY_SAFE : Fld := ⟨0x108, 0x20, 9, 0, .rwd⟩
/-- Field LPIN of register CH_LPIN. -/
def FAN.CH_LPIN_LPIN : Fld := ⟨0x10c, 0x20, 31, 0, .rw⟩
/-- Field RUN_RPM of register CH_SPD. -/
def FAN.CH_SPD_RUN_RPM : Fld := ⟨0x110, 0x20, 31, 16, .rwd⟩
/-- Field STALL_RPM of register CH_SPD. -/
def FAN.CH_SPD_STALL_RPM : Fld := ⟨0x110, 0x20, 15, 0, .rwd⟩
/-- Field IBAND_HI of register CH_EVID. -/
def FAN.CH_EVID_IBAND_HI : Fld := ⟨0x114, 0x20, 31, 24, .rwd⟩
/-- Field IBAND_LO of register CH_EVID. -/
def FAN.CH_EVID_IBAND_LO : Fld := ⟨0x114, 0x20, 23, 16, .rwd⟩
/-- Field RUNDI_EN of register CH_EVID. -/
def FAN.CH_EVID_RUNDI_EN : Fld := ⟨0x114, 0x20, 13, 13, .rwd⟩
/-- Field RUNDI of register CH_EVID. -/
def FAN.CH_EVID_RUNDI : Fld := ⟨0x114, 0x20, 12, 8, .rwd⟩
/-- Field BACKOFF of register CH_EVID. -/
def FAN.CH_EVID_BACKOFF : Fld := ⟨0x114, 0x20, 7, 0, .rwd⟩
/-- Field SRC0 of register CH_TSRC01. -/
def FAN.CH_TSRC01_SRC0 : Fld := ⟨0x118, 0x20, 31, 16, .rwd⟩
/-- Field SRC1 of register CH_TSRC01. -/
def FAN.CH_TSRC01_SRC1 : Fld := ⟨0x118, 0x20, 15, 0, .rwd⟩
/-- Field SRC2 of register CH_TSRC23. -/
def FAN.CH_TSRC23_SRC2 : Fld := ⟨0x11c, 0x20, 31, 16, .rwd⟩
/-- Field SRC3 of register CH_TSRC23. -/
def FAN.CH_TSRC23_SRC3 : Fld := ⟨0x11c, 0x20, 15, 0, .rwd⟩
/-- Field AINC of register WIN_ADDR. -/
def FAN.WIN_ADDR_AINC : Fld := ⟨0x340, 0x0, 16, 16, .rw⟩
/-- Field AREA of register WIN_ADDR. -/
def FAN.WIN_ADDR_AREA : Fld := ⟨0x340, 0x0, 14, 12, .rw⟩
/-- Field WORD of register WIN_ADDR. -/
def FAN.WIN_ADDR_WORD : Fld := ⟨0x340, 0x0, 11, 0, .rw⟩
/-- Field INV of register IN_CFG. -/
def DIN.IN_CFG_INV : Fld := ⟨0x110, 0x4, 31, 31, .rwd⟩
/-- Field DEB of register IN_CFG. -/
def DIN.IN_CFG_DEB : Fld := ⟨0x110, 0x4, 19, 0, .rwd⟩
/-- Field GATE of register CNT_CFG. -/
def DIN.CNT_CFG_GATE : Fld := ⟨0x200, 0x10, 19, 16, .rwd⟩
/-- Field EDGE of register CNT_CFG. -/
def DIN.CNT_CFG_EDGE : Fld := ⟨0x200, 0x10, 9, 8, .rwd⟩
/-- Field CFILT of register CNT_CFG. -/
def DIN.CNT_CFG_CFILT : Fld := ⟨0x200, 0x10, 5, 0, .rwd⟩
/-- Field OWNER of register CH_CTRL. -/
def DOU.CH_CTRL_OWNER : Fld := ⟨0x100, 0x8, 31, 27, .rwd⟩
/-- Field GATE_DI of register CH_CTRL. -/
def DOU.CH_CTRL_GATE_DI : Fld := ⟨0x100, 0x8, 26, 22, .rwd⟩
/-- Field GATE_EN of register CH_CTRL. -/
def DOU.CH_CTRL_GATE_EN : Fld := ⟨0x100, 0x8, 21, 21, .rwd⟩
/-- Field TPER of register CH_CTRL. -/
def DOU.CH_CTRL_TPER : Fld := ⟨0x100, 0x8, 19, 4, .rwd⟩
/-- Field SAFE of register CH_CTRL. -/
def DOU.CH_CTRL_SAFE : Fld := ⟨0x100, 0x8, 3, 3, .rwd⟩
/-- Field LPIN of register CH_LPIN. -/
def DOU.CH_LPIN_LPIN : Fld := ⟨0x104, 0x8, 31, 0, .rw⟩
/-- Field ISENSE of register CH_STAT. -/
def DOU.CH_STAT_ISENSE : Fld := ⟨0x200, 0x4, 31, 24, .ro⟩
/-- Field ILT of register ILT. -/
def DOU.ILT_ILT : Fld := ⟨0x280, 0x0, 7, 0, .rwd⟩
/-- Field OWNER of register CH_CTRL. -/
def AOU.CH_CTRL_OWNER : Fld := ⟨0x100, 0x20, 31, 27, .rwd⟩
/-- Field GATE_DI of register CH_CTRL. -/
def AOU.CH_CTRL_GATE_DI : Fld := ⟨0x100, 0x20, 26, 22, .rwd⟩
/-- Field GATE_EN of register CH_CTRL. -/
def AOU.CH_CTRL_GATE_EN : Fld := ⟨0x100, 0x20, 21, 21, .rwd⟩
/-- Field RB_TOL of register CH_CTRL. -/
def AOU.CH_CTRL_RB_TOL : Fld := ⟨0x100, 0x20, 15, 8, .rwd⟩
/-- Field MODE of register CH_CTRL. -/
def AOU.CH_CTRL_MODE : Fld := ⟨0x100, 0x20, 1, 0, .rw⟩
/-- Field VALUE of register CH_VAL. -/
def AOU.CH_VAL_VALUE : Fld := ⟨0x104, 0x20, 31, 0, .rw⟩
/-- Field QUIET of register RECOV. -/
def FLT.RECOV_QUIET : Fld := ⟨0x108, 0x0, 31, 20, .rwd⟩
/-- Field REC_LIM of register RECOV. -/
def FLT.RECOV_REC_LIM : Fld := ⟨0x108, 0x0, 19, 16, .rwd⟩
/-- Field FF_MIN of register RECOV. -/
def FLT.RECOV_FF_MIN : Fld := ⟨0x108, 0x0, 10, 8, .rwd⟩
/-- Field MASK of register S4_ENGSTOP. -/
def FLT.S4_ENGSTOP_MASK : Fld := ⟨0x118, 0x0, 15, 0, .rwd⟩
/-- Field KIND of register SEV_ADDR. -/
def FLT.SEV_ADDR_KIND : Fld := ⟨0x160, 0x0, 15, 0, .rw⟩
/-- Field CYCLES of register SCRUB. -/
def FLT.SCRUB_CYCLES : Fld := ⟨0x170, 0x0, 31, 16, .ro⟩
/-- Field LAST_LEN of register SCRUB. -/
def FLT.SCRUB_LAST_LEN : Fld := ⟨0x170, 0x0, 8, 0, .ro⟩
/-- Field PAGE of register INJ. -/
def FLT.INJ_PAGE : Fld := ⟨0x174, 0x0, 31, 24, .ro⟩
/-- Field CHECKER of register INJ. -/
def FLT.INJ_CHECKER : Fld := ⟨0x174, 0x0, 23, 16, .ro⟩
/-- Field OUTCOME of register INJ. -/
def FLT.INJ_OUTCOME : Fld := ⟨0x174, 0x0, 2, 0, .ro⟩
/-- Field MASK of register GRP_VLV. -/
def FLT.GRP_VLV_MASK : Fld := ⟨0x200, 0x10, 15, 0, .rwd⟩
/-- Field MASK of register GRP_FAN. -/
def FLT.GRP_FAN_MASK : Fld := ⟨0x204, 0x10, 11, 0, .rwd⟩
/-- Field MASK of register GRP_DOU. -/
def FLT.GRP_DOU_MASK : Fld := ⟨0x208, 0x10, 23, 0, .rwd⟩
/-- Field MASK of register GRP_AOU. -/
def FLT.GRP_AOU_MASK : Fld := ⟨0x20c, 0x10, 7, 0, .rwd⟩
/-- Field SEQ of register NEXT. -/
def REC.NEXT_SEQ : Fld := ⟨0x100, 0x0, 31, 0, .ro⟩
/-- Field COUNT of register SVC. -/
def REC.SVC_COUNT : Fld := ⟨0x104, 0x0, 31, 16, .ro⟩
/-- Field NEWEST of register SVC. -/
def REC.SVC_NEWEST : Fld := ⟨0x104, 0x0, 14, 0, .ro⟩
/-- Field COUNT of register CMS. -/
def REC.CMS_COUNT : Fld := ⟨0x108, 0x0, 31, 16, .ro⟩
/-- Field NEWEST of register CMS. -/
def REC.CMS_NEWEST : Fld := ⟨0x108, 0x0, 10, 0, .ro⟩
/-- Field COUNT of register SEV. -/
def REC.SEV_COUNT : Fld := ⟨0x110, 0x4, 15, 0, .ro⟩
/-- Field COUNT of register DROP. -/
def REC.DROP_COUNT : Fld := ⟨0x130, 0x4, 15, 0, .ro⟩
/-- Field QFULL of register QUEUE. -/
def REC.QUEUE_QFULL : Fld := ⟨0x148, 0x0, 31, 16, .ro⟩
/-- Field MAX of register QUEUE. -/
def REC.QUEUE_MAX : Fld := ⟨0x148, 0x0, 15, 8, .ro⟩
/-- Field DEPTH of register QUEUE. -/
def REC.QUEUE_DEPTH : Fld := ⟨0x148, 0x0, 7, 0, .ro⟩
/-- Field WATCH of register RSEV. -/
def REC.RSEV_WATCH : Fld := ⟨0x14c, 0x0, 14, 12, .rwd⟩
/-- Field BATCH of register RSEV. -/
def REC.RSEV_BATCH : Fld := ⟨0x14c, 0x0, 10, 8, .rwd⟩
/-- Field PARCEL of register RSEV. -/
def REC.RSEV_PARCEL : Fld := ⟨0x14c, 0x0, 6, 4, .rwd⟩
/-- Field INTERVAL of register RSEV. -/
def REC.RSEV_INTERVAL : Fld := ⟨0x14c, 0x0, 2, 0, .rwd⟩
/-- Field COUNT of register BAD. -/
def REC.BAD_COUNT : Fld := ⟨0x150, 0x0, 15, 0, .ro⟩
/-- Field COMM of register CTRL. -/
def REC.CTRL_COMM : Fld := ⟨0x8, 0x0, 16, 16, .rw⟩
/-- Field CLEARING of register STAT. -/
def REC.STAT_CLEARING : Fld := ⟨0xc, 0x0, 19, 19, .ro⟩
/-- Field KEEP_FULL of register STAT. -/
def REC.STAT_KEEP_FULL : Fld := ⟨0xc, 0x0, 17, 17, .ro⟩
/-- Field DROP_EP of register STAT. -/
def REC.STAT_DROP_EP : Fld := ⟨0xc, 0x0, 16, 16, .ro⟩
/-- Field TRIM of register TRIM. -/
def CLK.TRIM_TRIM : Fld := ⟨0x110, 0x0, 8, 0, .rw⟩
/-- Field LINK_PWR of register STAT. -/
def CLK.STAT_LINK_PWR : Fld := ⟨0x114, 0x0, 4, 4, .ro⟩
/-- Field VBAT_PWR of register STAT. -/
def CLK.STAT_VBAT_PWR : Fld := ⟨0x114, 0x0, 3, 3, .ro⟩
/-- Field VBAT_LOW of register STAT. -/
def CLK.STAT_VBAT_LOW : Fld := ⟨0x114, 0x0, 2, 2, .ro⟩
/-- Field OSC_FAIL of register STAT. -/
def CLK.STAT_OSC_FAIL : Fld := ⟨0x114, 0x0, 1, 1, .w1c⟩
/-- Field VALID of register STAT. -/
def CLK.STAT_VALID : Fld := ⟨0x114, 0x0, 0, 0, .ro⟩
/-- Field MV of register VBAT. -/
def CLK.VBAT_MV : Fld := ⟨0x118, 0x0, 15, 0, .ro⟩
/-- Field HIST_N of register CFG. -/
def WCH.CFG_HIST_N : Fld := ⟨0x100, 0x0, 31, 24, .rw⟩
/-- Field PERIOD of register CFG. -/
def WCH.CFG_PERIOD : Fld := ⟨0x100, 0x0, 23, 12, .rw⟩
/-- Field BANK of register CFG. -/
def WCH.CFG_BANK : Fld := ⟨0x100, 0x0, 6, 4, .rw⟩
/-- Field EN of register CFG. -/
def WCH.CFG_EN : Fld := ⟨0x100, 0x0, 0, 0, .rw⟩
/-- Field HBASE of register HIST. -/
def WCH.HIST_HBASE : Fld := ⟨0x140, 0x0, 31, 16, .rw⟩
/-- Field HSTEP of register HIST. -/
def WCH.HIST_HSTEP : Fld := ⟨0x140, 0x0, 15, 8, .rw⟩
/-- Field AINC of register COEF_ADDR. -/
def WCH.COEF_ADDR_AINC : Fld := ⟨0x148, 0x0, 16, 16, .rw⟩
/-- Field SET of register COEF_ADDR. -/
def WCH.COEF_ADDR_SET : Fld := ⟨0x148, 0x0, 6, 4, .rw⟩
/-- Field WORD of register COEF_ADDR. -/
def WCH.COEF_ADDR_WORD : Fld := ⟨0x148, 0x0, 3, 0, .rw⟩
/-- Field HELD of register STAT. -/
def WCH.STAT_HELD : Fld := ⟨0x150, 0x0, 26, 16, .ro⟩
/-- Field LOST of register STAT. -/
def WCH.STAT_LOST : Fld := ⟨0x150, 0x0, 15, 8, .ro⟩
/-- Field SCANNING of register STAT. -/
def WCH.STAT_SCANNING : Fld := ⟨0x150, 0x0, 2, 2, .ro⟩
/-- Field ABANDON of register STAT. -/
def WCH.STAT_ABANDON : Fld := ⟨0x150, 0x0, 1, 0, .ro⟩
/-- Field WSER of register LAST. -/
def WCH.LAST_WSER : Fld := ⟨0x154, 0x0, 31, 16, .ro⟩
/-- Field BAD of register LAST. -/
def WCH.LAST_BAD : Fld := ⟨0x154, 0x0, 15, 8, .ro⟩
/-- Field GOOD of register LAST. -/
def WCH.LAST_GOOD : Fld := ⟨0x154, 0x0, 7, 0, .ro⟩
/-- Field BROWNOUT of register XFER. -/
def WCH.XFER_BROWNOUT : Fld := ⟨0x158, 0x0, 31, 16, .ro⟩
/-- Field COUNT of register XFER. -/
def WCH.XFER_COUNT : Fld := ⟨0x158, 0x0, 15, 0, .ro⟩
/-- Field EN of register SIL. -/
def HST.SIL_EN : Fld := ⟨0x104, 0x0, 31, 31, .rwd⟩
/-- Field TO of register SIL. -/
def HST.SIL_TO : Fld := ⟨0x104, 0x0, 13, 0, .rwd⟩
/-- Field EPISODES of register SILSTAT. -/
def HST.SILSTAT_EPISODES : Fld := ⟨0x108, 0x0, 31, 16, .ro⟩
/-- Field SILENT of register SILSTAT. -/
def HST.SILSTAT_SILENT : Fld := ⟨0x108, 0x0, 0, 0, .ro⟩
/-- Field CRC of register ERR. -/
def HST.ERR_CRC : Fld := ⟨0x140, 0x0, 31, 24, .ro⟩
/-- Field FORMAT of register ERR. -/
def HST.ERR_FORMAT : Fld := ⟨0x140, 0x0, 23, 16, .ro⟩
/-- Field TRUNC of register ERR. -/
def HST.ERR_TRUNC : Fld := ⟨0x140, 0x0, 15, 8, .ro⟩
/-- Field BUSY of register ERR. -/
def HST.ERR_BUSY : Fld := ⟨0x140, 0x0, 7, 0, .ro⟩
/-- Field TEC of register ERR. -/
def CAN.ERR_TEC : Fld := ⟨0x10c, 0x0, 31, 24, .ro⟩
/-- Field REC of register ERR. -/
def CAN.ERR_REC : Fld := ⟨0x10c, 0x0, 22, 16, .ro⟩
/-- Field RP of register ERR. -/
def CAN.ERR_RP : Fld := ⟨0x10c, 0x0, 15, 15, .ro⟩
/-- Field LEC of register ERR. -/
def CAN.ERR_LEC : Fld := ⟨0x10c, 0x0, 10, 8, .ro⟩
/-- Field AINC of register MO_ADDR. -/
def CAN.MO_ADDR_AINC : Fld := ⟨0x140, 0x0, 16, 16, .rw⟩
/-- Field OBJ of register MO_ADDR. -/
def CAN.MO_ADDR_OBJ : Fld := ⟨0x140, 0x0, 10, 5, .rw⟩
/-- Field WORD of register MO_ADDR. -/
def CAN.MO_ADDR_WORD : Fld := ⟨0x140, 0x0, 4, 0, .rw⟩
/-- Field RXOK of register CNT. -/
def CAN.CNT_RXOK : Fld := ⟨0x148, 0x0, 31, 16, .ro⟩
/-- Field NOMATCH of register CNT. -/
def CAN.CNT_NOMATCH : Fld := ⟨0x148, 0x0, 15, 8, .ro⟩
/-- Field REMOTE of register CNT. -/
def CAN.CNT_REMOTE : Fld := ⟨0x148, 0x0, 7, 0, .ro⟩
/-- Field ONESHOT of register CTRL. -/
def CAN.CTRL_ONESHOT : Fld := ⟨0x8, 0x0, 22, 22, .rws⟩
/-- Field ABR of register CTRL. -/
def CAN.CTRL_ABR : Fld := ⟨0x8, 0x0, 20, 20, .rws⟩
/-- Field LBK of register CTRL. -/
def CAN.CTRL_LBK : Fld := ⟨0x8, 0x0, 19, 19, .rws⟩
/-- Field MON of register CTRL. -/
def CAN.CTRL_MON : Fld := ⟨0x8, 0x0, 18, 18, .rws⟩
/-- Field BRSE of register CTRL. -/
def CAN.CTRL_BRSE : Fld := ⟨0x8, 0x0, 17, 17, .rws⟩
/-- Field FDOE of register CTRL. -/
def CAN.CTRL_FDOE : Fld := ⟨0x8, 0x0, 16, 16, .rws⟩
/-- Field ESTATE of register STAT. -/
def CAN.STAT_ESTATE : Fld := ⟨0xc, 0x0, 17, 16, .ro⟩
/-- Field EN of register PCFG. -/
def LNK.PCFG_EN : Fld := ⟨0x100, 0x0, 0, 0, .rws⟩
/-- Field PDELAY of register PSTAT. -/
def LNK.PSTAT_PDELAY : Fld := ⟨0x104, 0x0, 31, 16, .ro⟩
/-- Field SQI of register PSTAT. -/
def LNK.PSTAT_SQI : Fld := ⟨0x104, 0x0, 10, 8, .ro⟩
/-- Field LPWR of register PSTAT. -/
def LNK.PSTAT_LPWR : Fld := ⟨0x104, 0x0, 4, 4, .ro⟩
/-- Field ANEG_DONE of register PSTAT. -/
def LNK.PSTAT_ANEG_DONE : Fld := ⟨0x104, 0x0, 1, 1, .ro⟩
/-- Field UP of register PSTAT. -/
def LNK.PSTAT_UP : Fld := ⟨0x104, 0x0, 0, 0, .ro⟩
/-- Field RXOK of register PCNT0. -/
def LNK.PCNT0_RXOK : Fld := ⟨0x108, 0x0, 31, 16, .ro⟩
/-- Field FCS of register PCNT0. -/
def LNK.PCNT0_FCS : Fld := ⟨0x108, 0x0, 15, 0, .ro⟩
/-- Field DISCARD of register PCNT1. -/
def LNK.PCNT1_DISCARD : Fld := ⟨0x10c, 0x0, 31, 16, .ro⟩
/-- Field DUP of register PCNT1. -/
def LNK.PCNT1_DUP : Fld := ⟨0x10c, 0x0, 15, 0, .ro⟩
/-- Field MAX of register PLOAD. -/
def LNK.PLOAD_MAX : Fld := ⟨0x110, 0x0, 15, 8, .ro⟩
/-- Field LOAD of register PLOAD. -/
def LNK.PLOAD_LOAD : Fld := ⟨0x110, 0x0, 7, 0, .ro⟩
/-- Field ADDR of register CFG. -/
def LNK.CFG_ADDR : Fld := ⟨0x120, 0x0, 20, 16, .rws⟩
/-- Field MPRIO of register CFG. -/
def LNK.CFG_MPRIO : Fld := ⟨0x120, 0x0, 11, 8, .rwd⟩
/-- Field CPER of register CFG. -/
def LNK.CFG_CPER : Fld := ⟨0x120, 0x0, 7, 0, .rwd⟩
/-- Field FB_MIN of register FCFG. -/
def LNK.FCFG_FB_MIN : Fld := ⟨0x124, 0x0, 10, 8, .rwd⟩
/-- Field RF_MIN of register FCFG. -/
def LNK.FCFG_RF_MIN : Fld := ⟨0x124, 0x0, 6, 4, .rwd⟩
/-- Field MASK of register RFMASK. -/
def LNK.RFMASK_MASK : Fld := ⟨0x128, 0x0, 31, 0, .rwd⟩
/-- Field MASK of register PMASK. -/
def LNK.PMASK_MASK : Fld := ⟨0x12c, 0x0, 31, 0, .rwd⟩
/-- Field LOST_T of register LOST. -/
def LNK.LOST_LOST_T : Fld := ⟨0x130, 0x0, 7, 0, .rwd⟩
/-- Field FB_OVF of register STAT2. -/
def LNK.STAT2_FB_OVF : Fld := ⟨0x138, 0x0, 15, 8, .ro⟩
/-- Field ADDR_DUP of register STAT2. -/
def LNK.STAT2_ADDR_DUP : Fld := ⟨0x138, 0x0, 0, 0, .ro⟩
/-- Field STATE of register DQ_STAT. -/
def LNK.DQ_STAT_STATE : Fld := ⟨0x174, 0x0, 2, 0, .ro⟩
/-- Field ARM of register CMT_ARM_LO. -/
def LNK.CMT_ARM_LO_ARM : Fld := ⟨0x184, 0x0, 31, 0, .rw⟩
/-- Field ARM of register CMT_ARM_HI. -/
def LNK.CMT_ARM_HI_ARM : Fld := ⟨0x188, 0x0, 15, 0, .rw⟩
/-- Field MASK of register CMT_TMASK. -/
def LNK.CMT_TMASK_MASK : Fld := ⟨0x18c, 0x0, 31, 0, .rw⟩
/-- Field NW of register CMT_NW. -/
def LNK.CMT_NW_NW : Fld := ⟨0x190, 0x0, 5, 0, .rw⟩
/-- Field STATE of register CMT_STAT. -/
def LNK.CMT_STAT_STATE : Fld := ⟨0x194, 0x0, 2, 0, .ro⟩
/-- Field MASK of register CMT_YES. -/
def LNK.CMT_YES_MASK : Fld := ⟨0x198, 0x0, 31, 0, .ro⟩
/-- Field MASK of register CMT_DONE. -/
def LNK.CMT_DONE_MASK : Fld := ⟨0x19c, 0x0, 31, 0, .ro⟩
/-- Field CID of register TGT_STAT. -/
def LNK.TGT_STAT_CID : Fld := ⟨0x1a4, 0x0, 31, 16, .ro⟩
/-- Field CAUSE of register TGT_STAT. -/
def LNK.TGT_STAT_CAUSE : Fld := ⟨0x1a4, 0x0, 11, 8, .ro⟩
/-- Field STATE of register TGT_STAT. -/
def LNK.TGT_STAT_STATE : Fld := ⟨0x1a4, 0x0, 2, 0, .ro⟩
/-- Field KIND of register RF_LAST. -/
def LNK.RF_LAST_KIND : Fld := ⟨0x1b0, 0x0, 31, 16, .ro⟩
/-- Field ORIGIN of register RF_LAST. -/
def LNK.RF_LAST_ORIGIN : Fld := ⟨0x1b0, 0x0, 12, 8, .ro⟩
/-- Field SEV of register RF_LAST. -/
def LNK.RF_LAST_SEV : Fld := ⟨0x1b0, 0x0, 2, 0, .ro⟩
/-- Field CMD of register CSTAT. -/
def NVS.CSTAT_CMD : Fld := ⟨0x10c, 0x0, 7, 4, .ro⟩
/-- Field RESULT of register CSTAT. -/
def NVS.CSTAT_RESULT : Fld := ⟨0x10c, 0x0, 3, 0, .ro⟩
/-- Field CAUSE of register SLIP. -/
def NVS.SLIP_CAUSE : Fld := ⟨0x110, 0x0, 11, 8, .ro⟩
/-- Field FB_CAUSE of register IMG. -/
def NVS.IMG_FB_CAUSE : Fld := ⟨0x114, 0x0, 7, 4, .ro⟩
/-- Field NONE of register PROF. -/
def NVS.PROF_NONE : Fld := ⟨0x120, 0x0, 3, 3, .ro⟩
/-- Field VALID_B of register PROF. -/
def NVS.PROF_VALID_B : Fld := ⟨0x120, 0x0, 2, 2, .ro⟩
/-- Field VALID_A of register PROF. -/
def NVS.PROF_VALID_A : Fld := ⟨0x120, 0x0, 1, 1, .ro⟩
/-- Field IN_FORCE of register PROF. -/
def NVS.PROF_IN_FORCE : Fld := ⟨0x120, 0x0, 0, 0, .ro⟩
/-- Field GEN of register GEN. -/
def NVS.GEN_GEN : Fld := ⟨0x124, 0x0, 31, 0, .ro⟩
/-- Field FACT_BAD of register LOAD. -/
def NVS.LOAD_FACT_BAD : Fld := ⟨0x128, 0x0, 31, 31, .ro⟩
/-- Field SWAP_PAGE of register LOAD. -/
def NVS.LOAD_SWAP_PAGE : Fld := ⟨0x128, 0x0, 30, 24, .ro⟩
/-- Field REJ of register LOAD. -/
def NVS.LOAD_REJ : Fld := ⟨0x128, 0x0, 23, 16, .ro⟩
/-- Field FIRST of register LOAD. -/
def NVS.LOAD_FIRST : Fld := ⟨0x128, 0x0, 15, 0, .ro⟩
/-- Field SUPSTART of register STAT. -/
def NVS.STAT_SUPSTART : Fld := ⟨0xc, 0x0, 17, 17, .ro⟩
/-- Field BUSY of register STAT. -/
def NVS.STAT_BUSY : Fld := ⟨0xc, 0x0, 16, 16, .ro⟩
/-- Field MASK of register CMPMASK. -/
def DIG.CMPMASK_MASK : Fld := ⟨0x120, 0x0, 31, 0, .rwd⟩
/-- Field MASK of register MM. -/
def DIG.MM_MASK : Fld := ⟨0x124, 0x0, 31, 0, .ro⟩
/-- Field EPISODES of register MMSTAT. -/
def DIG.MMSTAT_EPISODES : Fld := ⟨0x128, 0x0, 31, 16, .ro⟩
/-- Field EP of register MMSTAT. -/
def DIG.MMSTAT_EP : Fld := ⟨0x128, 0x0, 0, 0, .ro⟩
/-- Field STATE of register SHD_STAT. -/
def DIG.SHD_STAT_STATE : Fld := ⟨0x134, 0x0, 2, 0, .ro⟩
/-- Field STARTS of register RSTCAUSE. -/
def DEV.RSTCAUSE_STARTS : Fld := ⟨0x10c, 0x0, 31, 16, .ro⟩
/-- Field CAUSE of register RSTCAUSE. -/
def DEV.RSTCAUSE_CAUSE : Fld := ⟨0x10c, 0x0, 11, 0, .ro⟩
/-- Field START_MS of register BOOT. -/
def DEV.BOOT_START_MS : Fld := ⟨0x114, 0x0, 31, 16, .ro⟩
/-- Field NOIMG of register BOOT. -/
def DEV.BOOT_NOIMG : Fld := ⟨0x114, 0x0, 15, 15, .ro⟩
/-- Field COPY of register BOOT. -/
def DEV.BOOT_COPY : Fld := ⟨0x114, 0x0, 14, 14, .ro⟩
/-- Field STRAP of register BOOT. -/
def DEV.BOOT_STRAP : Fld := ⟨0x114, 0x0, 13, 12, .ro⟩
/-- Field STRAP_BAD of register BOOT. -/
def DEV.BOOT_STRAP_BAD : Fld := ⟨0x114, 0x0, 11, 11, .ro⟩
/-- Field STEP of register BOOT. -/
def DEV.BOOT_STEP : Fld := ⟨0x114, 0x0, 2, 0, .ro⟩
/-- Field CA_RETRY of register BRIDGE. -/
def DEV.BRIDGE_CA_RETRY : Fld := ⟨0x118, 0x0, 31, 24, .ro⟩
/-- Field CA_FAIL of register BRIDGE. -/
def DEV.BRIDGE_CA_FAIL : Fld := ⟨0x118, 0x0, 23, 16, .ro⟩
/-- Field CP_RETRY of register BRIDGE. -/
def DEV.BRIDGE_CP_RETRY : Fld := ⟨0x118, 0x0, 15, 8, .ro⟩
/-- Field CP_FAIL of register BRIDGE. -/
def DEV.BRIDGE_CP_FAIL : Fld := ⟨0x118, 0x0, 7, 0, .ro⟩
/-- Field EN of register DBG. -/
def DEV.DBG_EN : Fld := ⟨0x124, 0x0, 0, 0, .rw⟩
/-- Field IO33 of register STAT. -/
def PWR.STAT_IO33 : Fld := ⟨0x104, 0x0, 12, 12, .ro⟩
/-- Field DRIVE_ON of register STAT. -/
def PWR.STAT_DRIVE_ON : Fld := ⟨0x104, 0x0, 11, 11, .ro⟩
/-- Field SENSE_ON of register STAT. -/
def PWR.STAT_SENSE_ON : Fld := ⟨0x104, 0x0, 10, 10, .ro⟩
/-- Field VF_OV of register STAT. -/
def PWR.STAT_VF_OV : Fld := ⟨0x104, 0x0, 9, 9, .ro⟩
/-- Field VF_UV of register STAT. -/
def PWR.STAT_VF_UV : Fld := ⟨0x104, 0x0, 8, 8, .ro⟩
/-- Field TWARN_EP of register STAT. -/
def PWR.STAT_TWARN_EP : Fld := ⟨0x104, 0x0, 4, 4, .ro⟩
/-- Field MODE of register STAT. -/
def PWR.STAT_MODE : Fld := ⟨0x104, 0x0, 2, 0, .ro⟩
/-- Field A_DIE of register TEMP0. -/
def PWR.TEMP0_A_DIE : Fld := ⟨0x110, 0x0, 31, 16, .ro⟩
/-- Field C_DIE of register TEMP0. -/
def PWR.TEMP0_C_DIE : Fld := ⟨0x110, 0x0, 15, 0, .ro⟩
/-- Field MAX of register TEMP1. -/
def PWR.TEMP1_MAX : Fld := ⟨0x114, 0x0, 31, 16, .ro⟩
/-- Field P_DIE of register TEMP1. -/
def PWR.TEMP1_P_DIE : Fld := ⟨0x114, 0x0, 15, 0, .ro⟩
/-- Field TWARN of register TWARN. -/
def PWR.TWARN_TWARN : Fld := ⟨0x11c, 0x0, 15, 0, .rw⟩
/-- Field SEC_LO of register WAKE_LO. -/
def PWR.WAKE_LO_SEC_LO : Fld := ⟨0x120, 0x0, 31, 0, .rw⟩
/-- Field EN of register WAKE_HI. -/
def PWR.WAKE_HI_EN : Fld := ⟨0x124, 0x0, 31, 31, .rw⟩
/-- Field SEC_HI of register WAKE_HI. -/
def PWR.WAKE_HI_SEC_HI : Fld := ⟨0x124, 0x0, 7, 0, .rw⟩

end Sys2Proof.Machine
end

