-- ==== Sys2Proof/Machine/State.lean ====
section
/-!
DEFINITION. The state of the device as plain data: registers as last written and in force, window words, byte stores,
the records of every unit that its registers do not show, and the queue of waiting commands.
-/
namespace Sys2Proof.Machine

/-- Why a command can stop the model. No command of this block does: every row has an effect that the spec gives. -/
inductive Fault
  /-- A command that names a unit which the device does not have; the operands' types leave none, so no meaning raises it (safe). -/
  | noSuchUnit
  deriving DecidableEq, Repr

/-- Why the model refuses a command. -/
inductive Refusal
  /-- The command has no meaning yet; raised by the dispatch alone (safe). -/
  | notModelled (mnemonic : String)
  deriving DecidableEq, Repr

/-! ### Numbers and published values -/

/-- A number of the 48-bit format: `m × 2^e`, with `2^47 ≤ |m| < 2^48`, or `m = 0`. -/
structure F48 where
  m : Int
  e : Int
  deriving DecidableEq, Repr

/-- A published value of source types 3 to 8 (R174): the value, its full production tick (none while it has never existed),
its stale flag, and for cargo its status byte (R47 to R49). -/
structure Pub where
  value : Word
  tick : Option Nat
  stale : Bool
  status : Nat
  deriving DecidableEq, Repr

/-- A value that has never existed (R49). -/
def Pub.never : Pub := ⟨0, none, true, 0⟩

/-! ### Fault collector (chapter 12) -/

/-- A fault message in the cycle of its arrival (R348): source, kind, address, stamp of detection (tick and phase), cycle and elapsed µs
of the arrival, and elapsed µs of the stamp.
`inj`: 0 a plain message, 1 an injected syndrome, 2 a real fault during an injection (R368). -/
structure Msg where
  src : Nat
  kind : Nat
  addr : Nat
  tick : Nat
  phase : Nat
  cycle : Nat
  us : Nat
  seen : Nat
  inj : Nat
  deriving DecidableEq, Repr

/-- A history entry (R361) with the full tick count of its stamp. -/
structure HistEntry where
  seq : Nat
  tick : Nat
  phase : Nat
  src : Nat
  kind : Nat
  addr : Nat
  sev : Nat
  flags : Nat
  deriving DecidableEq, Repr

/-- An active episode fault (R351): the message that opened it, its scope (9 for none) and the elapsed tick of its start. -/
structure Episode where
  src : Nat
  kind : Nat
  addr : Nat
  sev : Nat
  scope : Nat
  seq : Nat
  ticks : Nat
  deriving DecidableEq, Repr

/-- An active event fault (R351): until its scope ends at S3 and S4, otherwise for the tick of its reception; `old` if it came
before a clear that waits for its boundary. -/
structure ActEvent where
  page : Nat
  sev : Nat
  scope : Nat
  ticks : Nat
  old : Bool
  deriving DecidableEq, Repr

/-- A reaction scope (R364 to R366): groups 0 to 7 and 8 for the device. `quiet` is the running window's start and length
in elapsed µs, `recov` the stamps of the last recoveries, `engs` the engines stopped, `named` the outputs named by
messages as page × 64 + unit, `clr` a clear waiting for the boundary, `again` a reaction after that clear and `relatch` a latch after
it, `from_` the instant in elapsed µs from which a quiet window counts;
`first`, `last`, `count`, `start` describe the scope episode for its SCOPE record. -/
structure Scope where
  react : Bool
  latched : Bool
  quiet : Option (Nat × Nat)
  recov : List Nat
  total : Nat
  engs : List Nat
  named : List Nat
  clr : Bool
  again : Bool
  relatch : Bool
  from_ : Nat
  first : Nat
  last : Nat
  count : Nat
  start : Nat
  deriving DecidableEq, Repr

/-- A scope at reset. -/
def Scope.idle : Scope := ⟨false, false, none, [], 0, [], [], false, false, false, 0, 0, 0, 0, 0⟩

/-- The collector: next sequence number, history newest first, first fault, active faults, scopes, the open clear sequences (party × 16 + scope),
the severity table as written and in force, flashing fault, filtered SAFE_IN_N, the elapsed tick at which the scrub cycle
began, the start instants of armed injections by page, for each severity of
the severity table 1 + the stamp of the last message received (R215), the entries waiting for a link FAULT frame (R438), the reaction writes of CTRL.RUN that lost a
collision and are to be presented again (engine, RUN and the clock of the collision, R277), and the messages of the present command. -/
structure FltState where
  seq : Nat
  hist : List HistEntry
  ff : Option HistEntry
  ffNow : Option (Nat × HistEntry)
  eps : List Episode
  evts : List ActEvent
  scopes : Tab Scope
  clrSeq : List Nat
  sevTab : Tab Word
  sevForce : Tab Word
  flash : Bool
  safeIn : Bool
  scrubStart : Nat
  injStart : Tab Nat
  since : List (Nat × Nat)
  fbOut : List HistEntry
  retry : List (Nat × Bool × Nat)
  outbox : List Msg
  deriving DecidableEq, Repr

/-! ### Register access -/

/-- How long a hold lasts (R34, R65, R121 and their like): until any other access of the party, until any other access of
the party to the page, or until it is made anew. -/
inductive HoldScope
  | anyAccess
  | onPage (page : Nat)
  | lasting
  deriving DecidableEq, Repr

/-- Register values held for a party: `words` by host address; `once` if a read of the hold ends it. -/
structure Hold where
  party : Nat
  words : Tab Word
  scope : HoldScope
  once : Bool
  deriving DecidableEq, Repr

/-- The report of one access of the present command (R26). -/
structure Report where
  party : Party
  addr : Nat
  res : Res
  deriving DecidableEq, Repr

/-- Register access state: holds, registers that belong to each party, open unlock sequences (party × 64 + page), the
reports and the words read of the present command. -/
structure BusState where
  holds : List Hold
  pregs : Tab Word
  unlock : List Nat
  reports : List Report
  readData : List Word
  deriving DecidableEq, Repr

/-- What has happened in one cycle, for the rules that speak of a same cycle: its clock, the W1C bits that events set in it and the lowest bits of the
counters that counted in it (register address and bit, R28, R403, R499), the pages that sent a message (R29), what the registers and words that it wrote held before (R43, R266), the writes of
CTRL.RUN applied to engines (rank of the writer and engine, R275, R355), and the reports of the engines'
writes that were settled among those of another command of the cycle (R277). What an earlier cycle left here counts no longer. -/
structure Cycle where
  at_ : Nat
  set : List (Nat × Nat)
  sent : List Nat
  was : Tab Word
  runs : List (Nat × Nat)
  settled : List Report
  deriving DecidableEq, Repr

/-- A cycle in which nothing has happened. -/
def Cycle.empty (t : Nat) : Cycle := ⟨t, [], [], [], [], []⟩

/-! ### Time base (chapter 2) -/

/-- The tick generator and the alignment to the time master: tick count (48 bits), phase, cycle, ticks elapsed since reset
(never adopted), the correction of the present tick's phase 39 in clocks, the elapsed ticks
whose tide and long tide have been processed, a pending adoption (Δ, and the elapsed tick of the frame that asked for it), run of sync frames
within 1 µs, the elapsed µs of the last sync frame, the elapsed ticks at which the alignment state was entered, and the late
bookkeeping by page. -/
structure TimeState where
  tick : Nat
  phase : Nat
  cycle : Nat
  ticks : Nat
  corr : Int
  tideDone : Option Nat
  longDone : Option Nat
  adopt : Option (Int × Nat)
  goodSync : Nat
  lastSync : Option Nat
  since : Nat
  lateSent : List Nat
  lateUnit : Tab Nat
  lateNow : List Nat
  monClr : Bool
  deriving DecidableEq, Repr

/-! ### Recorder, calendar clock and watch island (chapter 13) -/

/-- A record waiting to be written: kind, severity, subject, payload words W2 to W13 by word index, its place in the
order of one cycle, and 1 + the clock of its arrival (R386). -/
structure RecReq where
  kind : Nat
  sev : Nat
  subj : Nat
  body : Tab Word
  cls : Nat
  key : Nat
  at_ : Nat
  deriving DecidableEq, Repr

/-- The recorder: queue, records of the present cycle, stored records by area (16 words a slot; an unlisted slot is 16 zero
words), greatest severity since the previous anchor and its sequence number, the last hourly multiple, a clock set
waiting for its anchor (the seconds before it), the open clear sequences (party × 2 + area), a running clear (area, next slot), the
sequence number of the last INTERVAL_H record (0 where it was dropped), and 1 + the elapsed tick of the last write from the queue. -/
structure RecState where
  queue : List RecReq
  inbox : List RecReq
  svc : Tab (List Word)
  cms : Tab (List Word)
  sevMax : Nat
  anchorSeq : Nat
  hourly : Nat
  setFrom : Option Nat
  clrSeq : List Nat
  clearing : Option (Nat × Nat)
  hSeq : Nat
  lastWrite : Nat
  deriving DecidableEq, Repr

/-- The calendar clock: seconds (40 bits), the elapsed µs at the last whole second, the TRIM of the present 64 s window, and an
oscillator failure still to be reported. -/
structure ClkState where
  secs : Nat
  secUs : Int
  trim : Int
  oscPend : Bool
  deriving DecidableEq, Repr

/-- The readings a watch interval has of one point, in Q16.16 °C: greatest, least, last good one. -/
structure WatchPoint where
  hi : Int
  lo : Int
  last : Option Int
  deriving DecidableEq, Repr

/-- An open watch interval (R400): WSER, HIST_N, HBASE, HSTEP, bank and points at its start, scans and bad scans, readings by point,
histogram, largest rise with its point, and its anchor. -/
structure WatchInterval where
  wser : Nat
  histN : Nat
  hbase : Int
  hstep : Nat
  bank : Nat
  scans : Nat
  bad : Nat
  points : Tab WatchPoint
  bins : List Nat
  rise : Option (Int × Nat)
  anchor : List Word
  ptList : List Nat
  deriving DecidableEq, Repr

/-- The settings of a running scan: bank, WCH_SCAN, the WCH_CHc and WCH_EXCj registers and the words of the coefficient sets. -/
structure WatchScan where
  bank : Nat
  scan : Word
  chans : List Word
  excs : List Word
  coefs : List Word
  deriving DecidableEq, Repr

/-- The watch island: running scan, calendar second of the last scan start, last WSER used, open interval, and the retained
intervals, oldest first, as lists of records of 16 words. -/
structure WchState where
  scan : Option WatchScan
  started : Option Nat
  wser : Nat
  open_ : Option WatchInterval
  kept : List (List (List Word))
  deriving DecidableEq, Repr

/-! ### Sense (chapters 3 and 4) -/

/-- One frame of a channel as stage A keeps it: elapsed tick, frame value, whether it is left out, its conditions, and whether it makes its
conversion late (a bad reference, R73, or a modulator parity failure, R370). -/
structure SnsFrame where
  t : Nat
  v : Int
  out : Bool
  brk : Bool
  clip : Bool
  clamp : Bool
  compl : Bool
  settle : Bool
  sensor : Bool
  badRef : Bool
  deriving DecidableEq, Repr

/-- A result record (R105) with its full production tick (R47; none while it has never existed) and whether a failing CRC
has been reported (R111). -/
structure SnsRec where
  value : Word
  status : Nat
  tick : Option Nat
  crc : Nat
  reported : Bool
  deriving DecidableEq, Repr

/-- A record that has never existed (R110). Its stamp and CRC are formed when it is read. -/
def SnsRec.none : SnsRec := ⟨0, 0x80, Option.none, 0, false⟩

/-- A conversion on its way to the result RAM: channel 0–47, point, whether it is published, value, status, whether all its
frames were break frames, raw code, range, and the conditions that CHi_STAT shows: frames left out, and the clip condition of R81,
which STATUS merges with a saturation. -/
structure SnsLand where
  ch : Nat
  pt : Nat
  ok : Bool
  value : Word
  status : Nat
  allBrk : Bool
  raw : Int
  range : Nat
  discard : Bool
  clip : Bool
  deriving DecidableEq, Repr

/-- One channel: notch sections (x1, x2, e1, e2 each, in 2^−32 of a code; empty before the preset of R86), last tick value
not from a break frame, low_count (R91), range of the conversion in progress, a RANGE write with its instant in elapsed
µs, the range that takes effect at the next boundary with the mark of an auto-range decision, elapsed tick at which the settle
period ends, frames newest first, first tick count at which a result is due, elapsed tick at which EN took effect,
whether the next frame is left out, the two last settle-tick values, whether the dwell's settle check failed, the last
point published, and the start of a conversion that an adoption cut (R61). -/
structure SnsCh where
  notch : List (Int × Int × Int × Int)
  lastT : Option Int
  low : Nat
  range : Nat
  req : Option (Nat × Nat)
  next : Option (Nat × Bool)
  settleEnd : Nat
  frames : List SnsFrame
  notBefore : Nat
  enTick : Nat
  skip : Bool
  settle2 : List Int
  tolFail : Bool
  lastPt : Nat
  cut : Option Nat
  deriving DecidableEq, Repr

/-- A channel at reset. -/
def SnsCh.idle : SnsCh := ⟨[], none, 0, 2, none, none, 0, [], 0, 0, false, [], false, 0, none⟩

/-- Episode state of one channel and point: break, degradation and common-mode episodes, counts of consecutive verdicts and
frames, the tone sums of even and odd frames (in 2^−32 V × 2.5·10^6) with their counts, whether the break episode ends with the
conversion that ends at the next boundary, and whether the common-mode episode begins or ends with the frame in progress. -/
structure SnsLoc where
  brkEp : Bool
  degEp : Bool
  cmEp : Bool
  degRun : Nat
  cmRun : Nat
  sumE : Int
  numE : Nat
  sumO : Int
  numO : Nat
  brkEnd : Bool
  cmFlip : Bool
  deriving DecidableEq, Repr

/-- Episode state at reset. -/
def SnsLoc.idle : SnsLoc := ⟨false, false, false, 0, 0, 0, 0, 0, 0, false, false⟩

/-- One bank 0–5: sequencer running, point and position in the dwell, restart requested, clamp episode with the elapsed tick
of the last detection, bad-reference episode and whether it ends with the frame in progress, VREFP − VREFN of the last frame in µV,
cold-junction readings newest first with the run of readings in range during an episode. -/
structure SnsBank where
  seq : Bool
  point : Nat
  pos : Nat
  restart : Bool
  clampEp : Bool
  clampTick : Nat
  refEp : Bool
  refEnd : Bool
  refUv : Int
  cj : List Int
  cjEp : Bool
  cjRun : Nat
  deriving DecidableEq, Repr

/-- A bank at reset. -/
def SnsBank.idle : SnsBank := ⟨false, 0, 0, false, false, 0, false, false, 2500000, [], false, 0⟩

/-- The sense system: channels 0–47, banks 0–5, episode state and records by location (channel × 16 + point), conversions
on their way to the result RAM, results due at the present tick (channel, point), words lost on the bridge, the last
tone window processed by page, the elapsed tick of the first due instant that each value of a stopped schedule misses (R49), and the
tone settings of the window that ends at the present boundary: channel, current in nA, and bounds of the band (R128). -/
structure SnsState where
  chs : Tab SnsCh
  banks : Tab SnsBank
  locs : Tab SnsLoc
  recs : Tab SnsRec
  land : List SnsLand
  due : List (Nat × Nat)
  missed : List (Nat × Nat)
  lost : List Nat
  toneDone : Tab Nat
  owed : Tab Nat
  toneSet : List (Nat × Nat × Nat × Nat)
  deriving DecidableEq, Repr

/-- One repeater output (R133 to R136): the value waiting for the next rising edge or period start and whether it is SAFE, the
instant in elapsed µs at which the period in progress began (none while no period has begun), the level that the ball is driven to, and
consecutive readback mismatches. -/
structure RptOut where
  next : Option (Nat × Bool)
  start : Option Nat
  level : Bool
  miss : Nat
  deriving DecidableEq, Repr

/-- A repeater output at reset: low, with no period begun. -/
def RptOut.idle : RptOut := ⟨none, none, false, 0⟩

/-! ### Moisture analyser (chapter 5) -/

/-- A moisture record (R161): MOIST, DENS, EPSR, EPSI, XVAL, TUSED, its status, its full production tick (none while it has
never existed), its CRC, and whether a failing CRC has been reported. -/
structure MoiRec where
  words : List Word
  status : Nat
  tick : Option Nat
  crc : Nat
  reported : Bool
  deriving DecidableEq, Repr

/-- A record that has never existed (R163). -/
def MoiRec.none : MoiRec := ⟨[0, 0, 0, 0, 0, 0], 0x80, Option.none, 0, false⟩

/-- What a period runs with (R158): start in elapsed ticks and length, the five CHm registers, and the programme,
calibration and grain table words of the active set. -/
structure MoiPeriod where
  start : Nat
  len : Nat
  cfg : List Word
  prog : List Word
  cal : List Word
  tbl : List Word
  deriving DecidableEq, Repr

/-- A moisture channel: the running period, whether its sweep is in progress and whether it has completed, the µs by which
repeats moved the sweep, points repeated, readings (C, L, limit) by point of the completed sweep, the readings that area 3
shows, whether the sweep overlapped a clamp episode, whether a calibration ran, whether a swap brought a new calibration,
the record formed, whether its bridge transfer failed, the due instants of abandoned periods, consecutive fouled checks, and the
episodes. -/
structure MoiCh where
  per : Option MoiPeriod
  sweep : Bool
  done : Bool
  shift : Nat
  reps : Nat
  pts : List (Nat × Int × Int × Bool)
  reads : Tab (Word × Word)
  clamped : Bool
  calPer : Bool
  calNew : Bool
  result : Option MoiRec
  lost : Bool
  miss : List Nat
  foulCnt : Nat
  foulEp : Bool
  openEp : Bool
  overEp : Bool
  recd : MoiRec
  deriving DecidableEq, Repr

/-- A moisture channel at reset. -/
def MoiCh.idle : MoiCh := ⟨none, false, false, 0, 0, [], [], false, false, false, none, false, [], 0, false, false, false, MoiRec.none⟩

/-- A calibration (R152): channel, sweeps asked for, whether its first period has begun, and the readings of its sweeps. -/
structure MoiCal where
  ch : Nat
  navg : Nat
  begun : Bool
  sweeps : List (List (Nat × Int × Int × Bool))
  deriving DecidableEq, Repr

/-- The analyser: channels, running calibration, start of the unlock episode in elapsed µs, clamp episodes by bank as
1 + the elapsed tick of the last detection. -/
structure MoiState where
  chs : Tab MoiCh
  cal : Option MoiCal
  unlock : Option Nat
  clamp : Tab Nat
  deriving DecidableEq, Repr

/-! ### Loop array (chapter 6) -/

/-- A loop slot: I, D, x_prev, u_prev, w and e in the internal format, region, whether the next execution is a resume, whether
it is the first after a swap, whether the region is taken without hysteresis, a preload, the last fit r and v, unfit and
not-applied episodes, tracking, and the output computed in this tick. -/
structure LpaSlot where
  i : F48
  d : F48
  xp : F48
  up : F48
  w : F48
  e : F48
  region : Nat
  resume : Bool
  swapped : Bool
  regInit : Bool
  preload : Option Word
  rFit : Word
  vFit : Word
  unfitEp : Bool
  destEp : Bool
  track : Bool
  out : Option Word
  deriving DecidableEq, Repr

/-- A slot at reset. -/
def LpaSlot.idle : LpaSlot :=
  ⟨⟨0, 0⟩, ⟨0, 0⟩, ⟨0, 0⟩, ⟨0, 0⟩, ⟨0, 0⟩, ⟨0, 0⟩, 0, true, false, false, none, 0, 0, false, false, false, none⟩

/-- The loop array: slots 0–63, cycles used in this tick, a LOADMAX clear waiting for the boundary, slots due in this tick,
destinations released (by DEST code), slots whose output was lost on the bridge. -/
structure LpaState where
  slots : Tab LpaSlot
  used : Nat
  clr : Bool
  due : List Nat
  released : List Nat
  lost : List Nat
  deriving DecidableEq, Repr

/-! ### Profile generators and trace (chapter 7) -/

/-- A profile generator: p, v, a and the clamped target in the internal format, whether its state is to be initialised, the
last fit target, unfit episode, and whether it was due and completed its step in this tick. -/
structure PrfGen where
  p : F48
  v : F48
  a : F48
  t : F48
  init : Bool
  fit : Option Word
  unfitEp : Bool
  due : Bool
  done : Bool
  deriving DecidableEq, Repr

/-- A generator at reset. -/
def PrfGen.idle : PrfGen := ⟨⟨0, 0⟩, ⟨0, 0⟩, ⟨0, 0⟩, ⟨0, 0⟩, true, none, false, false, false⟩

/-- A trace unit: state of R214, node count of the capture, samples newest first, samples before the trigger sample, the
previous sample of node 0 in the capture, a force command waiting, the instant of the last recognised trigger and of the last sample (1 + instant in cycles). -/
structure TrcUnit where
  state : Nat
  nc : Nat
  samples : List (List Word)
  pre : Nat
  prev : Option Word
  force : Bool
  trig : Nat
  last : Nat
  deriving DecidableEq, Repr

/-- A trace unit at reset. -/
def TrcUnit.idle : TrcUnit := ⟨0, 1, [], 0, none, false, 0, 0⟩

/-! ### Column ledger (chapter 8) -/

/-- A parcel slot (R222): VOL, MIN, TIN, HEAT, MNOW, MPRED, AGE, ZONE, FLAGS, SERIAL and CRC as the window shows them, the
volume at its close, the elapsed tick at which it was opened, the full tick counts of DEND and of the start of its discharge
window (R233), and whether a failing CRC has been reported. -/
structure Parcel where
  vol : Nat
  minM : Int
  tin : Int
  heat : Nat
  mnow : Int
  mpred : Int
  age : Nat
  zone : Nat
  flags : Nat
  serial : Nat
  crc : Nat
  closed : Nat
  opened : Nat
  dend : Nat
  wstart : Nat
  reported : Bool
  deriving DecidableEq, Repr

/-- Sums of a column's interval summary (R251): volume, volume without a measurement, volumes by histogram bin, and the sums
of VOL × MIN, Mm, MPRED, AGE and HEAT. -/
structure LdgSums where
  vol : Nat
  none : Nat
  bins : List Nat
  minM : Int
  mm : Int
  mpred : Int
  age : Int
  heat : Int
  deriving DecidableEq, Repr

/-- Empty sums. -/
def LdgSums.empty : LdgSums := ⟨0, 0, [0, 0, 0, 0, 0, 0, 0, 0, 0, 0, 0, 0, 0, 0, 0, 0], 0, 0, 0, 0, 0⟩

/-- A column: count_prev, pending volume q and metered volume of the long tide in units of 2^−30 L, entry sums of the open
parcel, sample rings newest first for SRC_MIN, SRC_TIN, SRC_OUT and SRC_REF with fit flags, fit sum, fit number and number
of the SRC_REF samples of the long tide, the outlet accumulator, the start of the discharge window of the parcel that leaves
next, residuals gathered,
metered volumes and reference sums of past long tides newest first, last fit source values and unfit episodes by source
number, stall and ring episodes, final values of the last closed parcel, next serial number, bias clear waiting, sums of
the interval, SRC_OUT samples of the long tide (layer mode), t_end of the last pass, and 1 + the elapsed tick of the last
interval summary handed over. -/
structure LdgCol where
  count : Option Nat
  q : Nat
  met : Nat
  mSum : Int
  mNum : Nat
  tSum : Int
  tNum : Nat
  rings : List (List (Int × Bool))
  refSum : Int
  refFit : Nat
  refNum : Nat
  outSum : Int
  outNum : Nat
  winStart : Nat
  resSum : Int
  resNum : Nat
  mets : List Nat
  refs : List (Int × Nat × Nat)
  fits : Tab Int
  unfit : List Nat
  stallCnt : Nat
  runOn : Bool
  pulsed : Bool
  stallEp : Bool
  ringEp : Bool
  lastMin : Int
  lastTin : Int
  serial : Nat
  biasClr : Bool
  sums : LdgSums
  layerSum : Int
  layerNum : Nat
  tEnd : Int
  handed : Nat
  deriving DecidableEq, Repr

/-- A column at reset. -/
def LdgCol.idle : LdgCol :=
  ⟨none, 0, 0, 0, 0, 0, 0, [[], [], [], []], 0, 0, 0, 0, 0, 0, 0, 0, [], [], [], [], 0, true, false, false, false, 0, 0, 0, false,
   LdgSums.empty, 0, 0, 0, 0⟩

/-- A zone at the snapshot: ZTOP, T and H (none where never fit), and the words of its rate table (R238). -/
structure LdgZone where
  top : Nat
  air : Option (Int × Int)
  table : List Word
  deriving DecidableEq, Repr

/-- The snapshot of one column (R236): mode, LAYDIR, the parcels from the inlet with their locations, the open parcel's volume,
column words, zones, bias, QMEAS, SLIP and RUNIT. -/
structure LdgSnap where
  col : Nat
  mode : Nat
  laydir : Bool
  parcels : List (Nat × Parcel)
  openVol : Nat
  words : List Word
  zones : List LdgZone
  bias : Int
  qmeas : Int
  slip : Nat
  runit : Bool
  deriving DecidableEq, Repr

/-- What a pass computes for one parcel: its location and serial number, MNOW, HEAT and whether it saturated, MPRED, ZONE, and
whether its air was estimated. -/
structure LdgItem where
  loc : Nat
  serial : Nat
  mnow : Int
  heat : Nat
  heatSat : Bool
  mpred : Int
  zone : Nat
  airEst : Bool
  deriving DecidableEq, Repr

/-- What a pass computes for one column: its parcels, QSUG and in layer mode PEXIT (none where not published), SAT_LO, SAT_HI
and t_end. -/
structure LdgResult where
  col : Nat
  items : List LdgItem
  qsug : Option Int
  pexit : Option Int
  satLo : Bool
  satHi : Bool
  tEnd : Int
  deriving DecidableEq, Repr

/-- A pass in progress: the elapsed tick of its snapshot, the snapshots, and its results once it is complete. -/
structure LdgPass where
  start : Nat
  snaps : List LdgSnap
  results : Option (List LdgResult)
  deriving DecidableEq, Repr

/-- The ledger: columns, parcels by location, the pass in progress, and 1 + the elapsed tick of the last sampling. -/
structure LdgState where
  cols : Tab LdgCol
  parcels : Tab Parcel
  pass : Option LdgPass
  sampled : Nat
  deriving DecidableEq, Repr

/-! ### Control engines (chapter 9) -/

/-- A context of an engine (R254): general registers g0–g31 by number, word index of the next instruction, whether it runs in the
present lane, whether a pass is in progress, cycles used since its lane began, registers with a result in flight and the cycle
at which each can be read (R260), FSTAT, PCOND, SAGE and SSTAT. -/
structure EngCtx where
  regs : Tab Word
  pc : Nat
  act : Bool
  pass : Bool
  used : Nat
  flight : List (Nat × Nat)
  fstat : Nat
  pcond : Nat
  sage : Nat
  sstat : Nat
  deriving DecidableEq, Repr

/-- A context at reset. -/
def EngCtx.idle : EngCtx := ⟨[], 0, false, false, 0, [], 0, 0, 0, 0⟩

/-- A posted write that is outstanding (R269): address, data, and whether a swap or return came after its issue. -/
structure EngPost where
  addr : Nat
  data : Word
  old : Bool
  deriving DecidableEq, Repr

/-- A swap request of an engine (R280, R281): elapsed tick of the boundary at which it takes effect, DATA_CLR and PROB_LEN at
the request, and whether the CRC-32 has been checked. -/
structure EngReq where
  due : Nat
  dataClr : Bool
  len : Nat
  checked : Bool
  deriving DecidableEq, Repr

/-- A probation (R284): start and length of its window in elapsed µs, DATA_CLR of its swap, and whether work of the new
program has ended with END. -/
structure EngProb where
  start : Nat
  len : Nat
  dataClr : Bool
  ended : Bool
  deriving DecidableEq, Repr

/-- A control engine: number of the running program bank, background and deadline contexts, staging words by number, whether deadline
work began in this tick and whether it executed END, outstanding posted writes and queued outcomes (oldest first),
swap request, probation, return pending with the DATA_CLR of the failed swap, WCET episode with its address, and a
clear of DLCYC.MAX waiting for the boundary. -/
structure EngState where
  bank : Nat
  bg : EngCtx
  dl : EngCtx
  staging : Tab Word
  started : Bool
  ended : Bool
  posts : List EngPost
  outs : List Word
  req : Option EngReq
  prob : Option EngProb
  ret : Option Bool
  wcetEp : Option Nat
  clr : Bool
  deriving DecidableEq, Repr

/-- An engine at reset. -/
def EngState.idle : EngState :=
  ⟨0, EngCtx.idle, EngCtx.idle, [], false, false, [], [], none, none, none, none, false⟩

/-! ### DRIVE outputs and inputs (chapters 10 and 11) -/

/-- Switch states of a valve leg (R293). -/
inductive LegSw
  | on | slow | fast | clamp | idle
  deriving DecidableEq, Repr

/-- A command of a leg (R296): operation, ON_T, and the elapsed tick of its write or the elapsed µs from which it waits. -/
structure LegCmd where
  op : Nat
  onT : Nat
  at_ : Nat
  deriving DecidableEq, Repr

/-- A valve leg: profile state of R300, switch state, the command for the next start instant and the one for the start instant after
it (a write in phases 0 to 39 finds the command of the tick before still waiting), the command waiting under a pair policy, start s and
s + T_PULL in elapsed µs, end instant E (none: never), the running decay interval (method, start, whether a substitution took place in
it; none while no decay runs), whether the current is chopped, whether the unchopped ramp is watched for a dip, the instant
from which on-time is still to be counted, on-time of the bin in progress and of the complete bins (newest first), a
TRIP_CLR waiting, an OFF by a change of OWNER waiting, a profile to be ended by a duty episode. -/
structure LegState where
  st : Nat
  sw : LegSw
  cmd : Option LegCmd
  next : Option LegCmd
  wait : Option LegCmd
  start : Nat
  pullEnd : Nat
  endAt : Option Nat
  decay : Option (Nat × Nat × Bool)
  chop : Bool
  ramp : Bool
  onSince : Option Nat
  cur : Nat
  bins : List Nat
  tripClr : Bool
  ownOff : Bool
  dutyOff : Bool
  deriving DecidableEq, Repr

/-- A leg at reset. -/
def LegState.idle : LegState :=
  ⟨0, .idle, none, none, none, 0, 0, none, none, false, false, none, 0, [], false, false, false⟩

/-- What governs an output channel (R320 to R324): whether row 2, row 3 or row 5 applied at the last look, whether row 4 holds until
the next phase 40, whether the channel is released, the elapsed tick in which its owner wrote a command while it
was released, whether OWNER has changed, the duty that a fan holds, and whether the last landing was limited. -/
structure ChanGov where
  row2 : Bool
  row3 : Bool
  row5 : Bool
  gated : Bool
  released : Bool
  cmdAt : Option Nat
  hold : Nat
  clip : Bool
  deriving DecidableEq, Repr

/-- A channel's governance at reset: MODE is 0. -/
def ChanGov.idle : ChanGov := ⟨false, false, true, false, false, none, 0, false⟩

/-- A fan channel: governance, MODE, MAN and LPIN in force, duty in force in 0.1 %, governed duty, STATE of R330, end of the kick
or back-off in elapsed µs, retry count, whether a retry waits for demand, whether the episode's first failed kick has been
reported, region, whether the region is to be taken anew, last complete tach period in 40 ns, elapsed µs of the last
edge, the tick from which the tach is doubtful, whether the tide has been steady so far, ageing index A, clears
waiting (stall, trip), unfit episode and ageing episode. -/
structure FanState where
  gov : ChanGov
  mode : Nat
  man : Nat
  lpin : Word
  out : Nat
  duty : Nat
  st : Nat
  due : Nat
  retry : Nat
  pend : Bool
  told : Bool
  region : Nat
  anew : Bool
  tp : Option Nat
  edge : Nat
  doubt : Option Nat
  steady : Bool
  age : F48
  stallClr : Bool
  tripClr : Bool
  unfit : Bool
  ageEp : Bool
  deriving DecidableEq, Repr

/-- A fan at reset; A is 100 (R333). -/
def FanState.idle : FanState :=
  ⟨ChanGov.idle, 0, 0, 0, 0, 0, 0, 0, 0, false, false, 0, false, none, 0, none, false, ⟨219902325555200, -41⟩, false, false, false, false⟩

/-- A digital output: governance, MODE, LEVEL and LPIN in force, output state, TRIP and whether it was thermal, a TRIP_CLR waiting,
current limiting, elapsed tick at which the next time-proportioning period starts, start, length and on-time of the
present period in ticks, whether its on-time still runs, and the readback episode. -/
structure DoState where
  gov : ChanGov
  mode : Nat
  level : Bool
  lpin : Word
  out : Bool
  trip : Bool
  therm : Bool
  tripClr : Bool
  lim : Bool
  next : Nat
  start : Nat
  per : Nat
  onT : Nat
  tpOn : Bool
  rbEp : Bool
  deriving DecidableEq, Repr

/-- A digital output at reset. -/
def DoState.idle : DoState :=
  ⟨ChanGov.idle, 0, false, 0, false, false, false, false, false, 0, 0, 0, 0, false, false⟩

/-- An analog output: governance, MODE and VAL in force, output value, whether it has changed since the last comparison, a MODE
change on its way through MODE 0, readback measured in this tick, consecutive mismatch ticks, readback episode, limiting, lost
compliance. -/
structure AoState where
  gov : ChanGov
  mode : Nat
  val : Word
  out : Word
  changed : Bool
  rb : Option Word
  miss : Nat
  rbEp : Bool
  limit : Bool
  open_ : Bool
  deriving DecidableEq, Repr

/-- An analog output at reset. -/
def AoState.idle : AoState := ⟨ChanGov.idle, 0, 0, 0, false, none, 0, false, false, false⟩

/-- A counter: count, the counts at the last two boundaries of its gate, the elapsed tick of the last one, whether a tick
adoption came since, the ticks between the two where one did (R61), the level after the filter, and whether the word of the last
gate boundary was lost on the bridge (R336). -/
structure CntState where
  count : Nat
  gate0 : Nat
  gate1 : Nat
  gateAt : Nat
  adopted : Bool
  span : Option Nat
  level : Bool
  rateLost : Bool
  deriving DecidableEq, Repr

/-- A counter at reset. -/
def CntState.idle : CntState := ⟨0, 0, 0, 0, false, none, false, false⟩

/-- The P-die: bridge loss with the address of its message, legs 0–15, fans, digital outputs, analog outputs, counters, HS_CLR
waiting by switch, input levels before INV, ends of the debounce windows in elapsed µs by input, and words lost
on the bridge (page × 64 + unit). -/
structure DrvState where
  loss : Option Nat
  legs : Tab LegState
  fans : Tab FanState
  dos : Tab DoState
  aos : Tab AoState
  cnts : Tab CntState
  hsClr : List Nat
  pins : Nat
  debs : Tab Nat
  lost : List Nat
  deriving DecidableEq, Repr

/-! ### Host interface, CAN and link (chapter 14) -/

/-- The host interface: whether a frame is being applied or its reply is not yet ready, whether HCS_N has risen meanwhile, the bytes of its
reply, what HST_LAST and the words of HST_WRESk will show when it ends, and the instants, in elapsed µs, at which EN took effect and at which
the last keep-alive was applied. -/
structure HstState where
  busy : Bool
  risen : Bool
  reply : List Nat
  last : Option (Word × Option (List Word))
  enAt : Nat
  kaAt : Option Nat
  deriving DecidableEq, Repr

/-- A CAN controller: error counters, whether bus-off recovery runs, the objects whose data came with a received frame, the objects whose
request was aborted and whose frame may still be on the bus, and the objects that have been the one to offer since the last frame ended, one
of which is the one on the bus (R420). -/
structure CanState where
  tec : Nat
  rec_ : Nat
  recov : Bool
  rx : List Nat
  aborted : List Nat
  won : List Nat
  deriving DecidableEq, Repr

/-- A controller at reset. -/
def CanState.idle : CanState := ⟨0, 0, false, [], [], []⟩

/-- An entry of a received cargo frame (R430). -/
structure CargoEntry where
  slot : Nat
  status : Nat
  stamp : Nat
  value : Word
  deriving DecidableEq, Repr

/-- A cargo frame received in this tick (R431): origin, CPER, header TICK, whether both states were LOCKED or MASTER, tick count at
its reception, and its entries. -/
structure CargoIn where
  origin : Nat
  cper : Nat
  tick : Nat
  aligned : Bool
  at_ : Nat
  entries : List CargoEntry
  deriving DecidableEq, Repr

/-- What the device keeps of a partner: SEQ of the last accepted frame, elapsed ticks + 1 of the last accepted frame (0: none),
CPER of the last cargo frame, the elapsed tick of the next due instant, whether its cargo is late, its ridge, elapsed
ticks + 1 of the ridge's arrival (0: none), and the partner-lost episode. -/
structure Partner where
  seq : Nat
  heard : Nat
  cper : Nat
  due : Option Nat
  late : Bool
  ridge : Nat
  ridgeAt : Nat
  lost : Bool
  deriving DecidableEq, Repr

/-- A partner never heard. -/
def Partner.none : Partner := ⟨0, 0, 0, Option.none, false, 0, 0, false⟩

/-- A running commit of the coordinator: CID, elapsed tick of its start, arm tick, targets, writes, those whose vote has come, and
the elapsed tick of its first DECIDE. -/
structure Commit where
  cid : Nat
  start : Nat
  arm : Nat
  targets : Nat
  writes : List (Word × Word)
  voted : Nat
  decided : Option Nat
  deriving DecidableEq, Repr

/-- The commit that a target holds: CID, coordinator, arm tick, writes, results of the writes, outcome, and the elapsed tick of the event
whose DONE is still to be sent. -/
structure Target where
  cid : Nat
  coord : Nat
  arm : Nat
  writes : List (Word × Word)
  results : List Nat
  outcome : Nat
  due : Option Nat
  deriving DecidableEq, Repr

/-- A digest query that waits for its answer: asker, level, index, query id, elapsed tick of its arrival. -/
structure QueryIn where
  origin : Nat
  level : Nat
  index : Nat
  qid : Nat
  at_ : Nat
  deriving DecidableEq, Repr

/-- The link: number of the next own frame, partners, rank of the master followed and 1 + the elapsed tick of its last SYNC, frames sent
by the present command with their ports, bytes sent by each port in the present long tide, egress of the last path-delay request
by port in ns + 1 (0: none), received cargo frames not yet visible, entries marked UNALIGNED, production ticks + 1 of CVAL words
(0: none), violation causes already reported in this long tide, own query (id, target, start in elapsed ticks) and its next id, queries
to answer, own commit, held commit, the last vote given to each coordinator (coordinator, CID, cause), and the elapsed tick of the last FAULT frame. -/
structure LnkState where
  seq : Nat
  partners : Tab Partner
  rank : Option Nat
  rankAt : Nat
  out : List (Nat × EtherFrame)
  sent : List Nat
  pdT1 : List Nat
  cargoIn : List CargoIn
  unaligned : List Nat
  cvalTick : Tab Nat
  told : List Nat
  query : Option (Nat × Nat × Nat)
  qid : Nat
  queries : List QueryIn
  commit : Option Commit
  target : Option Target
  voted : List (Nat × Nat × Nat)
  fbSent : Option Nat
  deriving DecidableEq, Repr

/-! ### NV store and digests (chapter 15) -/

/-- A command of the NVS page that runs: its code, engine, the words that it writes (none before SAVE_PROFILE has captured them). -/
structure NvsCmd where
  code : Nat
  eng : Nat
  image : Option (List Word)
  deriving DecidableEq, Repr

/-- The NVS page's work: the running command, a supervisor start asked for with its cause (0 SUP_RESTART, 1 and 4 after a
probation failure), start and length of the supervisor probation in elapsed µs, whether a supervisor image runs, and within one command where
its word writes stop and whether they have stopped. -/
structure NvsState where
  cmd : Option NvsCmd
  ask : Option Nat
  prob : Option (Nat × Nat)
  image : Bool
  stop : Option NvStop
  ended : Bool
  deriving DecidableEq, Repr

/-- A shadow digest in progress (R465): page, its result, and whether the shadow was written meanwhile. -/
structure ShadowDigest where
  page : Nat
  value : Nat
  disturbed : Bool
  deriving DecidableEq, Repr

/-- The digests: the rafters of the last boundary and the running shadow digest. -/
structure DigState where
  rafters : List Nat
  shd : Option ShadowDigest
  deriving DecidableEq, Repr

/-! ### Power, start-up and test access port (chapter 16) -/

/-- Power and start-up: whether the device is held in reset, whether it is in DEEP, the causes gathered for the next start, whether
the SENSE and DRIVE domains are off, a requested mode with the elapsed tick of its request, whether the boundary of that request
has passed, a clear of MAX waiting, the parties with an open software reset sequence, a debug start waiting for its release,
the wake alarm copied into the WATCH domain, and whether the WATCH domain has powered up since the last start. -/
structure PwrState where
  held : Bool
  deep : Bool
  causes : Nat
  standby : Bool
  req : Option (Nat × Nat)
  begun : Bool
  tclr : Bool
  swrst : List Nat
  debugWait : Bool
  alarm : Option Nat
  watchFresh : Bool
  deriving DecidableEq, Repr

/-- The test access port: the instruction in force and the data register that it selects. -/
structure TapState where
  ir : TapIr
  dr : Word
  deriving DecidableEq, Repr

/-- The receiver of one direction of a die bridge (R17): the next sequence number, and whether a repetition has been requested. -/
structure BridgeRx where
  seq : Nat
  again : Bool
  deriving DecidableEq, Repr

/-! ### The whole state -/

/-- The device. Registers lie in `regs` by host address as last written; `force` holds what double-buffered (RWD) fields
have in force. Window words lie under the keys of R460, `act` the copy in force and `win` the shadow copy. `mem` holds every
byte store at one model address space (log entry 5): host windows at their host addresses, program banks and the NV
store above them. `pubs` holds the published values by source word (R174), and
`landOut` the output values of the destinations at the last landing by DEST code (R182). `bridges` holds the receivers of C–A from
and to the A-die and of C–P from and to the P-die. The other fields are the units' own states. `cyc` holds what has happened in the present cycle. `fresh` numbers the free values drawn so far: it is the
model's own, no state of the device (log entry 4). -/
structure State where
  pending : List Instr
  regs : Tab Word
  force : Tab Word
  win : Tab Word
  act : Tab Word
  mem : List Host.Cell
  time : TimeState
  bus : BusState
  flt : FltState
  recd : RecState
  clk : ClkState
  wch : WchState
  sns : SnsState
  rpt : Tab RptOut
  moi : MoiState
  pubs : Tab Pub
  lpa : LpaState
  landOut : Tab Word
  prf : Tab PrfGen
  trc : Tab TrcUnit
  ldg : LdgState
  eng : Tab EngState
  drv : DrvState
  hst : HstState
  can : Tab CanState
  lnk : LnkState
  nvs : NvsState
  dig : DigState
  pwr : PwrState
  tap : TapState
  bridges : Tab BridgeRx
  cyc : Cycle
  fresh : Nat
  deriving DecidableEq, Repr

/-- The device right after a cold reset: no command waits, every register reads its Reset column, every store is empty. -/
def State.reset : State where
  pending := []
  regs := []
  force := []
  win := []
  act := []
  mem := []
  time := ⟨0, 0, 0, 0, 0, none, none, none, 0, none, 0, [], [], [], false⟩
  bus := ⟨[], [], [], [], []⟩
  flt := ⟨0, [], none, none, [], [], [], [], [], [], false, false, 0, [], [(0, 0), (0, 0), (0, 0), (0, 0), (0, 0)], [], [], []⟩
  recd := ⟨[], [], [], [], 0, 0, 0, none, [], none, 0, 0⟩
  clk := ⟨0, 0, 0, false⟩
  wch := ⟨none, none, 0, none, []⟩
  sns := ⟨[], [], [], [], [], [], [], [], [], [], []⟩
  rpt := []
  moi := ⟨[], none, none, []⟩
  pubs := []
  lpa := ⟨[], 0, false, [], [], []⟩
  landOut := []
  prf := []
  trc := []
  ldg := ⟨[], [], none, 0⟩
  eng := []
  drv := ⟨none, [], [], [], [], [], [], 0, [], []⟩
  hst := ⟨false, false, [], none, 0, none⟩
  can := []
  lnk := ⟨0, [], none, 0, [], [0, 0], [0, 0], [], [], [], [], none, 0, [], none, none, [], none⟩
  nvs := ⟨none, none, none, false, none, false⟩
  dig := ⟨[0, 0, 0, 0], none⟩
  pwr := ⟨false, false, 0, false, none, false, false, [], false, none, true⟩
  tap := ⟨.bypass, 0⟩
  bridges := []
  cyc := Cycle.empty 0
  fresh := 0

end Sys2Proof.Machine
end

