-- ==== Sys2Proof/Machine/Tab.lean ====
section
/-!
DEFINITION. The two operations over sparse stores, and the canonical form that they keep.
`d` gives what an unlisted key reads as; writing that value removes the entry, so equal stores are equal data.
-/
namespace Sys2Proof.Machine

/-- Reads key `k`; an unlisted key reads as `d k`. -/
def tabGet {α : Type} (d : Nat → α) : Tab α → Nat → α
  | [], k => d k
  | (j, v) :: t, k => if j = k then v else tabGet d t k

/-- Removes key `k` from a store. -/
def tabDel {α : Type} (t : Tab α) (k : Nat) : Tab α :=
  t.filter fun e => e.1 != k

/-- Inserts a pair in key order in front of the first larger key, replacing an equal one. -/
def tabIns {α : Type} (k : Nat) (v : α) : Tab α → Tab α
  | [] => [(k, v)]
  | (j, u) :: t =>
    if k < j then (k, v) :: (j, u) :: t
    else if k = j then (k, v) :: t
    else (j, u) :: tabIns k v t

/-- Writes `v` at `k`, keeping the canonical form. -/
def tabSet {α : Type} [DecidableEq α] (d : Nat → α) (t : Tab α) (k : Nat) (v : α) : Tab α :=
  if v = d k then tabDel t k else tabIns k v t

/-- The canonical form: keys strictly rising, no entry at its unlisted value. -/
def tabWf {α : Type} [DecidableEq α] (d : Nat → α) (t : Tab α) : Bool :=
  decide (t.Pairwise fun a b => a.1 < b.1) && t.all fun e => decide (e.2 ≠ d e.1)

/-- Entries of a store whose keys lie in `[lo, hi)`. -/
def tabRange {α : Type} (t : Tab α) (lo hi : Nat) : Tab α :=
  t.filter fun e => decide (lo ≤ e.1) && decide (e.1 < hi)

/-- Entries of a store whose keys lie outside `[lo, hi)`. -/
def tabDrop {α : Type} (t : Tab α) (lo hi : Nat) : Tab α :=
  t.filter fun e => decide (e.1 < lo) || decide (hi ≤ e.1)

/-- Replaces the keys `[lo, hi)` of `t` by those of `u`, entry by entry, keeping the canonical form. -/
def tabCopy {α : Type} [DecidableEq α] (d : Nat → α) (u t : Tab α) (lo hi : Nat) : Tab α :=
  (tabRange u lo hi).foldl (fun acc e => tabSet d acc e.1 e.2) (tabDrop t lo hi)

end Sys2Proof.Machine
end

