-- ==== Sys2Proof/Machine/WinMap.lean ====
section
/-!
DEFINITION. What window words read before anything wrote them, by the key of R460.
-/
namespace Sys2Proof.Machine

/-- The reset value of a window word: bit 7 of QMASK reads 1 in configuration word 2 of every loop slot (R186) and in word 6 of every ledger column (R253); VMAX, AMAX and
JMAX are 1.0 and the position clamps are open in every profile generator (R219). -/
def winReset (k : Nat) : Word :=
  let p := (k - 0x01000000) / 0x10000
  let area := k % 0x10000 / 0x1000
  let w := k % 0x1000
  if (p = 0x18 ∨ p = 0x19) ∧ area = 1 ∧ w < 512 ∧ w % 16 = 2 then 0x80000000
  else if p = 0x1C ∧ area = 1 ∧ w < 128 ∧ w % 32 = 6 then 0x80000000
  else if p = 0x1A ∧ area = 0 ∧ w < 256 then
    if w % 8 = 1 ∨ w % 8 = 2 ∨ w % 8 = 3 then 0x3F800000
    else if w % 8 = 4 then 0x80000000
    else if w % 8 = 5 then 0x7FFFFFFF else 0
  else 0

end Sys2Proof.Machine
end

