-- ==== Sys2Proof/Machine/Ops.lean ====
section
/-!
DEFINITION. The named operations over registers, window words, bytes and time that every meaning uses.
-/
namespace Sys2Proof.Machine

/-! ### Words and numbers -/

/-- Bits [hi:lo] of a word. -/
def bitsOf (w : Word) (hi lo : Nat) : Nat := (w.toNat >>> lo) % 2 ^ (hi - lo + 1)

/-- A word with bits [hi:lo] replaced by the low bits of `v`. -/
def setBits (w : Word) (hi lo v : Nat) : Word :=
  let m := 2 ^ (hi - lo + 1)
  BitVec.ofNat 32 (w.toNat - (w.toNat >>> lo) % m * 2 ^ lo + v % m * 2 ^ lo)

/-- A number of `n` bits read as two's complement. -/
def signed (n v : Nat) : Int := if v < 2 ^ (n - 1) then (v : Int) else (v : Int) - 2 ^ n

/-- A word from an integer, modulo 2^32. -/
def ofI (i : Int) : Word := BitVec.ofInt 32 i

/-- A word from a natural number, modulo 2^32. -/
def ofN (n : Nat) : Word := BitVec.ofNat 32 n

/-- An integer limited to the range of a signed 32-bit word, and whether it had to be limited (R115). -/
def sat32 (i : Int) : Int × Bool :=
  if i < -2147483648 then (-2147483648, true)
  else if i > 2147483647 then (2147483647, true) else (i, false)

/-- An integer limited to `[lo, hi]`. -/
def clampI (lo hi i : Int) : Int := if i < lo then lo else if hi < i then hi else i

/-- A number that saturates at `m`. -/
def satN (m n : Nat) : Nat := if m < n then m else n

/-- 1 for true and 0 for false. -/
def b2n (b : Bool) : Nat := if b then 1 else 0

/-- Whether bit `i` of a number is set. -/
def bitAt (n i : Nat) : Bool := decide ((n >>> i) % 2 = 1)

/-- A number with bit `i` set or cleared. -/
def putBit (n i : Nat) (b : Bool) : Nat :=
  if bitAt n i then (if b then n else n - 2 ^ i) else (if b then n + 2 ^ i else n)

/-- The mask whose bit `i` is `f i`, for `i < n`. -/
def maskOf (n : Nat) (f : Nat → Bool) : Nat :=
  (List.range n).foldl (fun a i => if f i then a + 2 ^ i else a) 0

/-- A list with element `i` replaced; unchanged where it has no element `i`. -/
def listSet {α : Type} (l : List α) (i : Nat) (v : α) : List α := l.set i v

/-- Element `i` of a list of numbers, 0 beyond its end. -/
def nthN (l : List Nat) (i : Nat) : Nat := l.getD i 0

/-- Element `i` of a list of integers, 0 beyond its end. -/
def nthI (l : List Int) (i : Nat) : Int := l.getD i 0

/-- Element `i` of a list of words, 0 beyond its end. -/
def nthW (l : List Word) (i : Nat) : Word := l.getD i 0

/-- Inserts an element before the first one of a larger key. -/
def insertBy {α : Type} (key : α → Nat) (x : α) : List α → List α
  | [] => [x]
  | y :: t => if key x < key y then x :: y :: t else y :: insertBy key x t

/-- A stable sort by key, ascending. -/
def sortBy {α : Type} (key : α → Nat) (l : List α) : List α :=
  l.foldl (fun acc x => insertBy key x acc) []

/-! ### Registers -/

/-- Host address of an offset of a page (R23). -/
def pageAddr (p off : Nat) : Nat := p * 0x400 + off

/-- A register as last written. -/
def rdReg (s : State) (a : Nat) : Word := tabGet resetWord s.regs a

/-- A register as in force for its double-buffered fields. -/
def rdForce (s : State) (a : Nat) : Word := tabGet resetWord s.force a

/-- Puts a register's value. -/
def wrReg (s : State) (a : Nat) (v : Word) : State := { s with regs := tabSet resetWord s.regs a v }

/-- Puts the value in force. -/
def wrForce (s : State) (a : Nat) (v : Word) : State := { s with force := tabSet resetWord s.force a v }

/-- Host address of the register of a field, for page `p` and unit `u`. -/
def fldAddr (f : Fld) (p u : Nat) : Nat := pageAddr p (f.off + f.stride * u)

/-- A field as last written. -/
def getW (f : Fld) (p u : Nat) (s : State) : Nat := bitsOf (rdReg s (fldAddr f p u)) f.hi f.lo

/-- A field as its reader inside the device sees it: in force where it is double-buffered, else as it stands. -/
def getF (f : Fld) (p u : Nat) (s : State) : Nat :=
  if f.acc = .rwd then bitsOf (rdForce s (fldAddr f p u)) f.hi f.lo else getW f p u s

/-- A one-bit field as a truth value. -/
def getB (f : Fld) (p u : Nat) (s : State) : Bool := decide (getF f p u s ≠ 0)

/-- A field read as two's complement. -/
def getI (f : Fld) (p u : Nat) (s : State) : Int := signed (f.hi - f.lo + 1) (getF f p u s)

/-- Puts a field (hardware's own update: no judging, no write generation). -/
def setF (f : Fld) (p u v : Nat) (s : State) : State :=
  let a := fldAddr f p u
  wrReg s a (setBits (rdReg s a) f.hi f.lo v)

/-- Puts a field as last written and in force. -/
def setFF (f : Fld) (p u v : Nat) (s : State) : State :=
  let a := fldAddr f p u
  let s := wrReg s a (setBits (rdReg s a) f.hi f.lo v)
  wrForce s a (setBits (rdForce s a) f.hi f.lo v)

/-- Puts a one-bit field. -/
def setB (f : Fld) (p u : Nat) (b : Bool) (s : State) : State := setF f p u (b2n b) s

/-- Adds 1 to a field, holding it at its greatest value. -/
def incSat (f : Fld) (p u : Nat) (s : State) : State :=
  setF f p u (satN (2 ^ (f.hi - f.lo + 1) - 1) (getW f p u s + 1)) s

/-- Adds 1 to a field modulo its width. -/
def incMod (f : Fld) (p u : Nat) (s : State) : State := setF f p u (getW f p u s + 1) s

/-- Elapsed µs since reset, the measure of every window (R57). -/
def usNow (s : State) : Nat := s.time.ticks * 125 + s.time.phase

/-- The clock of the present cycle: elapsed µs and the cycle within the phase. -/
def cycleNow (s : State) : Nat := usNow s * 512 + s.time.cycle

/-- What has happened in the present cycle. -/
def thisCycle (s : State) : Cycle := if s.cyc.at_ = cycleNow s then s.cyc else Cycle.empty (cycleNow s)

/-- Notes something that happens in the present cycle. -/
def noteCycle (f : Cycle → Cycle) (s : State) : State := { s with cyc := f (thisCycle s) }

/-- Notes that an event has set bit `n` of the register at `a` in this cycle. -/
def noteBit (a n : Nat) (s : State) : State := noteCycle (fun c => { c with set := (a, n) :: c.set }) s

/-- The bits of a register that events have set in this cycle: a W1C write of the same cycle leaves them set (R28, R104). -/
def freshBits (a : Nat) (s : State) : Nat := maskOf 32 fun n => (thisCycle s).set.contains (a, n)

/-- Sets bit `n` of a page's IRQ_STAT (R28). -/
def setIrq (p n : Nat) (s : State) : State :=
  let a := pageAddr p 0x10
  noteBit a n (wrReg s a (ofN (putBit (rdReg s a).toNat n true)))

/-- Counts an event, and notes it for a clear of the same cycle. -/
def noteCount (f : Fld) (p u : Nat) (s : State) : State := noteBit (fldAddr f p u) f.lo (incSat f p u s)

/-- What a counter reads after a clear in this cycle: 1 where it counted in it, else 0 (R403, R499). -/
def clearCount (f : Fld) (p u : Nat) (s : State) : State := setF f p u (b2n (bitAt (freshBits (fldAddr f p u) s) f.lo)) s

/-- An event sets a one-bit W1C field (R104). -/
def setSeen (f : Fld) (p u : Nat) (s : State) : State := noteBit (fldAddr f p u) f.lo (setB f p u true s)

/-- A register or word as it stood before the writes of the present cycle. -/
def wordBefore (a : Nat) (now : Word) (s : State) : Word := tabGet (fun _ => now) (thisCycle s).was a

/-- A field that is not double-buffered, as it stood before the writes of the present cycle. -/
def getBefore (f : Fld) (p u : Nat) (s : State) : Nat :=
  let a := fldAddr f p u
  bitsOf (wordBefore a (rdReg s a) s) f.hi f.lo

/-- Whether a page runs in this tick: until the boundary after CTRL.RUN changed (R27). -/
def running (p : Nat) (s : State) : Bool := getB CMN.STAT_RUNNING p 0 s

/-- Whether a page runs from reset, with CTRL.RUN fixed at 1 (R64, R374, R403, R404, R415, R440, R466, R468, R500, R501). -/
def alwaysRun (p : Nat) : Bool :=
  match pageKind p with
  | some .dev | some .tick | some .flt | some .recd | some .clk | some .nvs | some .dig | some .hst | some .lnk | some .pwr => true
  | _ => false

/-- Whether a page is stopped for its RWS fields: STAT.STOPPED reads 1, which it does not from CTRL.RUN changing to the next
boundary. The RWS fields of a page that runs from reset are open until step 5 of the start-up sequence has loaded them
(log entry 43). -/
def stopped (p : Nat) (s : State) : Bool :=
  (getB CMN.STAT_STOPPED p 0 s && !getB CMN.CTRL_RUN p 0 s) || (alwaysRun p && decide (getW DEV.BOOT_STEP 0 0 s < 6))

/-- WRITE_GEN counts an applied write that changed the batten (R35). -/
def bumpWriteGen (p : Nat) (s : State) : State := incMod CMN.GEN_WRITE_GEN p 0 s

/-- Writes CTRL.RUN of a page without touching its other fields (R355). -/
def putRun (p : Nat) (run : Bool) (s : State) : State :=
  if getB CMN.CTRL_RUN p 0 s = run then s
  else bumpWriteGen p (setB CMN.CTRL_RUN p 0 run s)

/-! ### Window words -/

/-- The key of a window word (R460). -/
def winKey (p area word : Nat) : Nat := 0x01000000 + p * 0x10000 + area * 0x1000 + word

/-- A window word in force. -/
def getAct (p area word : Nat) (s : State) : Word := tabGet winReset s.act (winKey p area word)

/-- A window word of the shadow copy. -/
def getShd (p area word : Nat) (s : State) : Word := tabGet winReset s.win (winKey p area word)

/-- Puts a window word in force. -/
def setAct (p area word : Nat) (v : Word) (s : State) : State :=
  { s with act := tabSet winReset s.act (winKey p area word) v }

/-- Puts a window word of the shadow copy. -/
def setShd (p area word : Nat) (v : Word) (s : State) : State :=
  { s with win := tabSet winReset s.win (winKey p area word) v }

/-- Exchanges the two copies of the areas `[lo, hi)` of a page. -/
def swapAreas (p lo hi : Nat) (s : State) : State :=
  let a := winKey p lo 0
  let b := winKey p hi 0
  { s with act := tabCopy winReset s.win s.act a b, win := tabCopy winReset s.act s.win a b }

/-- Takes the areas `[lo, hi)` of a page as written into force, for windows whose words behave as RWD fields. -/
def takeAreas (p lo hi : Nat) (s : State) : State :=
  { s with act := tabCopy winReset s.win s.act (winKey p lo 0) (winKey p hi 0) }

/-! ### Bytes -/

/-- What a byte that nothing has written reads as (log entry 6). -/
def byteReset (_ : Nat) : Byte := 0

/-- The canonical form of the memory: addresses strictly rising, no byte at what an unlisted address reads as. -/
def Memory.wf (m : List Host.Cell) : Bool := tabWf byteReset m

/-- One byte of the model address space. -/
def rdByte (s : State) (a : Nat) : Byte := tabGet byteReset s.mem a

/-- Puts one byte. -/
def wrByte (s : State) (a : Nat) (v : Byte) : State := { s with mem := tabSet byteReset s.mem a v }

/-- A word, most significant byte first. -/
def rdWord (s : State) (a : Nat) : Word :=
  ofN ((rdByte s a).toNat * 16777216 + (rdByte s (a + 1)).toNat * 65536
    + (rdByte s (a + 2)).toNat * 256 + (rdByte s (a + 3)).toNat)

/-- Puts a word, most significant byte first. -/
def wrWord (s : State) (a : Nat) (v : Word) : State :=
  let n := v.toNat
  let b (k : Nat) : Byte := BitVec.ofNat 8 (n / 2 ^ k)
  wrByte (wrByte (wrByte (wrByte s a (b 24)) (a + 1) (b 16)) (a + 2) (b 8)) (a + 3) (b 0)

/-- `n` words from `a` upward. -/
def rdWords (s : State) (a n : Nat) : List Word := (List.range n).map fun i => rdWord s (a + 4 * i)

/-- Puts words from `a` upward. -/
def wrWords (s : State) (a : Nat) : List Word → State
  | [] => s
  | w :: t => wrWords (wrWord s a w) (a + 4) t

/-- Model address of the NV store (log entry 5). -/
def nvBase : Nat := 0x1000000

/-- Model address of a program bank of an engine (log entry 5). -/
def bankBase (eng bank : Nat) : Nat := 0x4000000 + eng * 0x20000 + bank * 0x10000

/-- Model address of an engine's data memory, which is its host address (R22). -/
def dataBase (eng : Nat) : Nat := 0x100000 + eng * 0x20000 + 0x10000

/-- Sets `[a, b)` to zero bytes. -/
def zeroRange (a b : Nat) (s : State) : State := { s with mem := tabDrop s.mem a b }

/-- Copies `n` bytes from `a` to `b`, replacing what stood there. -/
def copyRange (a b n : Nat) (s : State) : State :=
  let moved := (tabRange s.mem a (a + n)).map fun e => (e.1 - a + b, e.2)
  { s with mem := (s.mem.filter fun e => e.1 < b) ++ moved ++ s.mem.filter fun e => b + n ≤ e.1 }

/-- Fills `[b, b + n)` with bytes. -/
def fillRange (b n : Nat) (f : Nat → Byte) (s : State) : State :=
  let new := ((List.range n).map fun i => (b + i, f (b + i))).filter fun e => e.2 ≠ byteReset e.1
  { s with mem := (s.mem.filter fun e => e.1 < b) ++ new ++ s.mem.filter fun e => b + n ≤ e.1 }

/-- The bytes of the words of a list, most significant first. -/
def wordBytes (l : List Word) : List Nat :=
  l.flatMap fun w =>
    let n := w.toNat
    [n / 16777216, n / 65536 % 256, n / 256 % 256, n % 256]

/-! ### Time -/

/-- 2^48, where the tick count would wrap (R37). -/
def tickMod : Nat := 281474976710656

/-- Moves to a fixed phase and cycle of the present tick, unless that instant has passed (log entry 2). -/
def atPhase (p c : Nat) (s : State) : State :=
  if s.time.phase < p ∨ (s.time.phase = p ∧ s.time.cycle < c) then
    { s with time := { s.time with phase := p, cycle := c } }
  else s

/-- The instant of an event at `t` elapsed µs: none while it lies in a later tick, else the state moved to its phase. -/
def reachUs (t : Nat) (s : State) : Option State :=
  if s.time.ticks < t / 125 then none
  else if s.time.ticks = t / 125 then some (atPhase (t % 125) 0 s)
  else some s

/-- Clocks of a phase of the present tick: 400, and phase 39 with its correction (R36, R58). -/
def phaseLen (s : State) (p : Nat) : Nat :=
  if p = 39 then (400 + s.time.corr).toNat else 400

/-- One system clock passes; the last cycle of phase 124 stands until the boundary (log entry 1). -/
def nextClock (s : State) : State :=
  if s.time.cycle + 1 < phaseLen s s.time.phase then
    { s with time := { s.time with cycle := s.time.cycle + 1 } }
  else if s.time.phase < 124 then
    { s with time := { s.time with phase := s.time.phase + 1, cycle := 0 } }
  else s

/-- The tick count that the next boundary opens: one more, or the adopted count (R60). -/
def nextTick (s : State) : Nat :=
  match s.time.adopt with
  | some (d, _) => ((s.time.tick + 1 : Nat) + d).toNat
  | none => s.time.tick + 1

/-- Whether the present tick is the one whose boundary adopts a count and the adoption is still to be carried out. -/
def adopting (s : State) : Bool :=
  match s.time.adopt with
  | some (_, e) => decide (e < s.time.ticks)
  | none => false

/-- A production tick, or a tick-based instant, moved by Δ on the 48-bit circle, so that ages and the low bits that a stamp shows move
with it (R61). -/
def shiftTick (d : Int) (t : Nat) : Nat := (((t : Int) + d) % (tickMod : Int)).toNat

/-- The tick count that the grid of the present tick follows: the adopted one at an adopting boundary (R61). -/
def gridTick (s : State) : Nat :=
  match s.time.adopt with
  | some (d, e) => if e < s.time.ticks then shiftTick d s.time.tick else s.time.tick
  | none => s.time.tick

/-- The age of a production tick, on the 48-bit circle of the tick count (R46, R61). -/
def ageOf (s : State) (t : Nat) : Nat := (s.time.tick + (tickMod - t % tickMod)) % tickMod

/-- A production tick that may be absent, as a 16-bit age (R47, R49). -/
def age16 (s : State) : Option Nat → Nat
  | none => 0xFFFF
  | some t => satN 0xFFFF (ageOf s t)

/-- Draws the number of the next free value. -/
def draw (s : State) : Nat × State := (s.fresh, { s with fresh := s.fresh + 1 })

/-- A free word. -/
def drawWord (s : State) : Word × State := (Config.freeWord s.fresh, { s with fresh := s.fresh + 1 })

/-- Folds an operation over the numbers below `n`. -/
def forN (n : Nat) (f : Nat → State → State) (s : State) : State :=
  (List.range n).foldl (fun a i => f i a) s

end Sys2Proof.Machine
end

