-- ==== Sys2Proof/Machine/Kinds.lean ====
section
/-!
DEFINITION. The fault kinds of R353: names, codes, floors, default severities, types and latching floors.
-/
namespace Sys2Proof.Machine

/-- One row of the kinds table: code, floor, default severity, whether it is an episode kind, whether its floor latches. -/
structure KindRow where
  code : Nat
  floor : Nat
  dflt : Nat
  episode : Bool
  latch : Bool
  deriving DecidableEq, Repr

/-- Kind code of R353. -/
def kDevBridgeCrc : Nat := 0x0010
/-- Kind code of R353. -/
def kDevBridgeLoss : Nat := 0x0011
/-- Kind code of R353. -/
def kDevLockstep : Nat := 0x0012
/-- Kind code of R353. -/
def kDevFlashing : Nat := 0x0013
/-- Kind code of R353. -/
def kDevImageFallback : Nat := 0x0014
/-- Kind code of R353. -/
def kTickClockFail : Nat := 0x0110
/-- Kind code of R353. -/
def kTickCountMismatch : Nat := 0x0111
/-- Kind code of R353. -/
def kTickAlignLost : Nat := 0x0112
/-- Kind code of R353. -/
def kTickSyncLost : Nat := 0x0113
/-- Kind code of R353. -/
def kFltSafeIn : Nat := 0x0210
/-- Kind code of R353. -/
def kFltEccCorr : Nat := 0x0211
/-- Kind code of R353. -/
def kFltEccUncorr : Nat := 0x0212
/-- Kind code of R353. -/
def kFltCfgParity : Nat := 0x0213
/-- Kind code of R353. -/
def kFltCheckerFail : Nat := 0x0214
/-- Kind code of R353. -/
def kFltInjTimeout : Nat := 0x0215
/-- Kind code of R353. -/
def kRecDropped : Nat := 0x0310
/-- Kind code of R353. -/
def kClkOscFail : Nat := 0x0410
/-- Kind code of R353. -/
def kWchBrownout : Nat := 0x0510
/-- Kind code of R353. -/
def kNvsWriteFail : Nat := 0x0610
/-- Kind code of R353. -/
def kDigMismatch : Nat := 0x0710
/-- Kind code of R353. -/
def kHstSilence : Nat := 0x0810
/-- Kind code of R353. -/
def kHstProtocol : Nat := 0x0811
/-- Kind code of R353. -/
def kCanBusOff : Nat := 0x0910
/-- Kind code of R353. -/
def kCanProtocol : Nat := 0x0911
/-- Kind code of R353. -/
def kLnkLate : Nat := 0x0B01
/-- Kind code of R353. -/
def kLnkPartnerLost : Nat := 0x0B10
/-- Kind code of R353. -/
def kLnkProtocol : Nat := 0x0B11
/-- Kind code of R353. -/
def kLnkCommitFail : Nat := 0x0B12
/-- Kind code of R353. -/
def kLnkRemoteFault : Nat := 0x0B13
/-- Kind code of R353. -/
def kSnsLate : Nat := 0x1001
/-- Kind code of R353. -/
def kSnsRefRange : Nat := 0x1010
/-- Kind code of R353. -/
def kSnsClamp : Nat := 0x1011
/-- Kind code of R353. -/
def kSnsResultCrc : Nat := 0x1012
/-- Kind code of R353. -/
def kSnsWireBreak : Nat := 0x1013
/-- Kind code of R353. -/
def kSnsSensorDegraded : Nat := 0x1014
/-- Kind code of R353. -/
def kSnsCmWindow : Nat := 0x1015
/-- Kind code of R353. -/
def kSnsCjSensor : Nat := 0x1016
/-- Kind code of R353. -/
def kMoiLate : Nat := 0x1401
/-- Kind code of R353. -/
def kMoiCellOpen : Nat := 0x1410
/-- Kind code of R353. -/
def kMoiCellOver : Nat := 0x1411
/-- Kind code of R353. -/
def kMoiCellFouled : Nat := 0x1412
/-- Kind code of R353. -/
def kMoiClamp : Nat := 0x1413
/-- Kind code of R353. -/
def kMoiPllUnlock : Nat := 0x1414
/-- Kind code of R353. -/
def kMoiResultCrc : Nat := 0x1415
/-- Kind code of R353. -/
def kLpaLate : Nat := 0x1801
/-- Kind code of R353. -/
def kLpaInputUnfit : Nat := 0x1810
/-- Kind code of R353. -/
def kLpaDest : Nat := 0x1811
/-- Kind code of R353. -/
def kPrfLate : Nat := 0x1A01
/-- Kind code of R353. -/
def kPrfTargetUnfit : Nat := 0x1A10
/-- Kind code of R353. -/
def kPrfPosClamp : Nat := 0x1A11
/-- Kind code of R353. -/
def kLdgLate : Nat := 0x1C01
/-- Kind code of R353. -/
def kLdgRecordCrc : Nat := 0x1C10
/-- Kind code of R353. -/
def kLdgMeterJump : Nat := 0x1C11
/-- Kind code of R353. -/
def kLdgMeterStall : Nat := 0x1C12
/-- Kind code of R353. -/
def kLdgRingFull : Nat := 0x1C13
/-- Kind code of R353. -/
def kLdgSlipLimit : Nat := 0x1C14
/-- Kind code of R353. -/
def kLdgBiasLimit : Nat := 0x1C15
/-- Kind code of R353. -/
def kLdgSourceUnfit : Nat := 0x1C16
/-- Kind code of R353. -/
def kEngLate : Nat := 0x2001
/-- Kind code of R353. -/
def kEngTrap : Nat := 0x2010
/-- Kind code of R353. -/
def kEngWcet : Nat := 0x2011
/-- Kind code of R353. -/
def kEngProbationFail : Nat := 0x2012
/-- Kind code of R353. -/
def kEngUser : Nat := 0x2013
/-- Kind code of R353. -/
def kVlvOvercurrent : Nat := 0x3010
/-- Kind code of R353. -/
def kFanLate : Nat := 0x3201
/-- Kind code of R353. -/
def kFanStallStart : Nat := 0x3210
/-- Kind code of R353. -/
def kFanStallLockout : Nat := 0x3211
/-- Kind code of R353. -/
def kFanStall : Nat := 0x3212
/-- Kind code of R353. -/
def kFanTachLost : Nat := 0x3213
/-- Kind code of R353. -/
def kFanOutput : Nat := 0x3214
/-- Kind code of R353. -/
def kFanAgeing : Nat := 0x3215
/-- Kind code of R353. -/
def kFanTempUnfit : Nat := 0x3216
/-- Kind code of R353. -/
def kDinLate : Nat := 0x3301
/-- Kind code of R353. -/
def kDouOverload : Nat := 0x3410
/-- Kind code of R353. -/
def kDouThermal : Nat := 0x3411
/-- Kind code of R353. -/
def kDouReadback : Nat := 0x3412
/-- Kind code of R353. -/
def kAouReadback : Nat := 0x3510
/-- Kind code of R353. -/
def kRptReadback : Nat := 0x3810

/-- Rows of the kinds table (R353). -/
def kindRows0 : List KindRow := [
  ⟨kDevBridgeCrc, 2, 2, false, false⟩,
  ⟨kDevBridgeLoss, 4, 4, true, false⟩,
  ⟨kDevLockstep, 4, 4, false, true⟩,
  ⟨kDevFlashing, 4, 4, false, true⟩,
  ⟨kDevImageFallback, 2, 2, false, false⟩,
  ⟨kTickClockFail, 4, 4, false, true⟩,
  ⟨kTickCountMismatch, 1, 1, false, false⟩,
  ⟨kTickAlignLost, 1, 1, false, false⟩,
  ⟨kTickSyncLost, 1, 2, false, false⟩,
  ⟨kFltSafeIn, 4, 4, true, false⟩,
  ⟨kFltEccCorr, 0, 0, false, false⟩,
  ⟨kFltEccUncorr, 3, 4, false, false⟩,
  ⟨kFltCfgParity, 3, 4, false, false⟩,
  ⟨kFltCheckerFail, 4, 4, false, true⟩,
  ⟨kFltInjTimeout, 1, 1, false, false⟩,
  ⟨kRecDropped, 0, 1, false, false⟩,
  ⟨kClkOscFail, 1, 1, false, false⟩,
  ⟨kWchBrownout, 1, 1, false, false⟩,
  ⟨kNvsWriteFail, 2, 2, false, false⟩,
  ⟨kDigMismatch, 1, 1, false, false⟩,
  ⟨kHstSilence, 1, 1, true, false⟩,
  ⟨kHstProtocol, 0, 0, false, false⟩,
  ⟨kCanBusOff, 1, 2, true, false⟩,
  ⟨kCanProtocol, 0, 0, false, false⟩]

/-- Rows of the kinds table (R353). -/
def kindRows1 : List KindRow := [
  ⟨kLnkLate, 1, 1, true, false⟩,
  ⟨kLnkPartnerLost, 1, 2, true, false⟩,
  ⟨kLnkProtocol, 0, 0, false, false⟩,
  ⟨kLnkCommitFail, 2, 2, false, false⟩,
  ⟨kLnkRemoteFault, 0, 1, false, false⟩,
  ⟨kSnsLate, 1, 1, true, false⟩,
  ⟨kSnsRefRange, 2, 2, true, false⟩,
  ⟨kSnsClamp, 2, 2, true, false⟩,
  ⟨kSnsResultCrc, 2, 2, false, false⟩,
  ⟨kSnsWireBreak, 1, 1, true, false⟩,
  ⟨kSnsSensorDegraded, 1, 1, true, false⟩,
  ⟨kSnsCmWindow, 1, 1, true, false⟩,
  ⟨kSnsCjSensor, 2, 2, true, false⟩,
  ⟨kMoiLate, 1, 1, true, false⟩,
  ⟨kMoiCellOpen, 1, 1, true, false⟩,
  ⟨kMoiCellOver, 1, 1, true, false⟩,
  ⟨kMoiCellFouled, 1, 1, true, false⟩,
  ⟨kMoiClamp, 2, 2, true, false⟩,
  ⟨kMoiPllUnlock, 1, 1, true, false⟩,
  ⟨kMoiResultCrc, 2, 2, false, false⟩,
  ⟨kLpaLate, 2, 2, true, false⟩,
  ⟨kLpaInputUnfit, 1, 1, true, false⟩,
  ⟨kLpaDest, 1, 1, true, false⟩,
  ⟨kPrfLate, 2, 2, true, false⟩]

/-- Rows of the kinds table (R353). -/
def kindRows2 : List KindRow := [
  ⟨kPrfTargetUnfit, 1, 1, true, false⟩,
  ⟨kPrfPosClamp, 1, 1, false, false⟩,
  ⟨kLdgLate, 1, 1, true, false⟩,
  ⟨kLdgRecordCrc, 2, 2, false, false⟩,
  ⟨kLdgMeterJump, 1, 1, false, false⟩,
  ⟨kLdgMeterStall, 1, 1, true, false⟩,
  ⟨kLdgRingFull, 1, 1, true, false⟩,
  ⟨kLdgSlipLimit, 1, 1, true, false⟩,
  ⟨kLdgBiasLimit, 1, 1, true, false⟩,
  ⟨kLdgSourceUnfit, 1, 1, true, false⟩,
  ⟨kEngLate, 2, 3, true, false⟩,
  ⟨kEngTrap, 2, 3, false, false⟩,
  ⟨kEngWcet, 1, 1, true, false⟩,
  ⟨kEngProbationFail, 2, 2, false, false⟩,
  ⟨kEngUser, 0, 0, false, false⟩,
  ⟨kVlvOvercurrent, 3, 3, true, false⟩,
  ⟨kFanLate, 1, 1, true, false⟩,
  ⟨kFanStallStart, 1, 1, false, false⟩,
  ⟨kFanStallLockout, 2, 2, true, false⟩,
  ⟨kFanStall, 1, 1, false, false⟩,
  ⟨kFanTachLost, 1, 1, true, false⟩,
  ⟨kFanOutput, 2, 2, true, false⟩,
  ⟨kFanAgeing, 0, 0, true, false⟩,
  ⟨kFanTempUnfit, 1, 1, true, false⟩]

/-- Rows of the kinds table (R353). -/
def kindRows3 : List KindRow := [
  ⟨kDinLate, 1, 1, true, false⟩,
  ⟨kDouOverload, 2, 2, true, false⟩,
  ⟨kDouThermal, 2, 2, true, false⟩,
  ⟨kDouReadback, 2, 2, true, false⟩,
  ⟨kAouReadback, 2, 2, true, false⟩,
  ⟨kRptReadback, 1, 1, true, false⟩]

/-- The kinds table (R353). -/
def kindRows : List KindRow := kindRows0 ++ kindRows1 ++ kindRows2 ++ kindRows3

/-- The row of a kind code; none for a code that does not exist. -/
def kindRow (k : Nat) : Option KindRow := kindRows.find? fun r => r.code = k

/-- The severity-table word of a kind at reset (FLT_SEV_DATA, R375): default, floors, latch and severity at default. -/
def sevReset (k : Nat) : Word :=
  match kindRow k with
  | none => 0
  | some r =>
    ofN (r.dflt * 4096 + b2n r.latch * 2048 + r.floor * 256 + b2n r.latch * 128 + r.dflt)

/-- The severity-table word of a kind in force. -/
def sevEntry (k : Nat) (s : State) : Word := tabGet sevReset s.flt.sevForce k

end Sys2Proof.Machine
end

