-- ==== Sys2Proof/Machine/Fault.lean ====
section
/-!
DEFINITION. The fault collector (chapter 12): sending messages, ordering a same-cycle group, first fault and history,
reactions, episodes, quiet windows, recovery, latching and clearing; and the late counting of R50 to R52.
-/
namespace Sys2Proof.Machine

/-! ### Records for the recorder -/

/-- Hands a record to the recorder; `cls` and `key` place it among the records of one cycle (R386). -/
def recPush (kind sev subj : Nat) (body : List (Nat × Word)) (cls key : Nat) (s : State) : State :=
  { s with recd := { s.recd with inbox := s.recd.inbox ++ [⟨kind, sev, subj, body, cls, key, cycleNow s + 1⟩] } }

/-! ### Sending -/

/-- Sends a fault message stamped with the present instant (R348): page, checker instance, kind, address. -/
def raise (page inst kind addr : Nat) (s : State) : State :=
  let m : Msg := ⟨page * 256 + inst, kind, addr % 65536, s.time.tick, s.time.phase, s.time.cycle, usNow s, usNow s, 0⟩
  { s with flt := { s.flt with outbox := s.flt.outbox ++ [m] } }

/-- Sends a message only where a condition holds. -/
def raiseIf (b : Bool) (page inst kind addr : Nat) (s : State) : State :=
  if b then raise page inst kind addr s else s

/-! ### Scopes -/

/-- A reaction scope: groups 0 to 7, 8 the device. -/
def scopeAt (s : State) (k : Nat) : Scope := tabGet (fun _ => Scope.idle) s.flt.scopes k

/-- Puts a reaction scope. -/
def putScope (k : Nat) (c : Scope) (s : State) : State :=
  { s with flt := { s.flt with scopes := tabSet (fun _ => Scope.idle) s.flt.scopes k c } }

/-- The applied severity of a message: that of the kind's entry in force, 0 for an injected pass (R368). -/
def msgSev (s : State) (m : Msg) : Nat := if m.inj = 1 then 0 else bitsOf (sevEntry m.kind s) 2 0

/-- The outputs that a message names (R355), as page × 64 + unit; legs and switches carry global numbers (R292). -/
def namedOutputs (src kind addr : Nat) : List Nat :=
  let p := src / 256
  if p = 0x30 ∨ p = 0x31 then
    let leg (l : Nat) : Nat := (0x30 + l / 8) * 64 + l % 8
    if kind = kVlvOvercurrent ∧ 0x10 ≤ addr ∧ addr < 0x18 then [leg (2 * (addr - 0x10)), leg (2 * (addr - 0x10) + 1)]
    else if addr < 16 then [leg addr] else []
  else if p = 0x32 ∨ p = 0x34 ∨ p = 0x35 then (if addr < 64 then [p * 64 + addr] else [])
  else []

/-- The engines that a reaction stops: the sending engine at S3, those of FLT_S4_ENGSTOP at S4 (R355, R356). -/
def stoppedEngines (s : State) (sev src : Nat) : List Nat :=
  if sev = 4 then (List.range 16).filter fun n => bitAt (getF FLT.S4_ENGSTOP_MASK 2 0 s) n
  else if 0x20 ≤ src / 256 ∧ src / 256 ≤ 0x2F then [src / 256 - 0x20] else []

/-- Whether an engine is held stopped by some scope. -/
def heldByScope (s : State) (e : Nat) : Bool :=
  (List.range 9).any fun k => (scopeAt s k).react && (scopeAt s k).engs.contains e

/-- A reaction write of the collector to CTRL.RUN of an engine (R355): among the writes of its cycle it yields to one of SUP alone, and
is then presented again in the next cycle (R275, R277). -/
def reactionRun (e : Nat) (run : Bool) (s : State) : State :=
  if (thisCycle s).runs.contains (0, e) then
    { s with flt := { s.flt with retry := s.flt.retry ++ [(e, run, cycleNow s)] } }
  else if getB CMN.CTRL_RUN (0x20 + e) 0 s = run then s
  else noteCycle (fun c => { c with runs := (1, e) :: c.runs }) (putRun (0x20 + e) run s)

/-- Reaction writes that lost a collision in an earlier cycle are presented again (R277). -/
def retryRuns (s : State) : State :=
  let due := s.flt.retry.filter fun r => decide (r.2.2 < cycleNow s)
  if due = [] then s
  else
    due.foldl (fun a r => reactionRun r.1 r.2.1 a)
      { s with flt := { s.flt with retry := s.flt.retry.filter fun r => !decide (r.2.2 < cycleNow s) } }

/-- What an empty queue lets happen: one system clock passes, and reaction writes that lost a collision are presented again (R277, log
entry 1). -/
def idle (s : State) : State := retryRuns (nextClock s)

/-- Stops one engine for scope `k` with a reaction write of CTRL.RUN = 0; an engine that no reaction stopped and that
does not run is left alone (R355). -/
def stopEngine (k e : Nat) (s : State) : State :=
  if getB CMN.CTRL_RUN (0x20 + e) 0 s || heldByScope s e then
    let c := scopeAt s k
    reactionRun e false (putScope k { c with engs := if c.engs.contains e then c.engs else c.engs ++ [e] } s)
  else s

/-- Restarts the engines of an ended scope that no remaining scope holds stopped (R355). -/
def restartEngines (es : List Nat) (s : State) : State :=
  es.foldl (fun a e => if heldByScope a e then a else reactionRun e true a) s

/-- The recoveries of a scope within the 24 h before elapsed µs `t` (R365). -/
def recentRecov (c : Scope) (t : Nat) : Nat :=
  (c.recov.filter fun r => decide (r < t ∧ t ≤ r + 86400000000)).length

/-- Whether an S3 or S4 episode fault of scope `k` is active. -/
def scopeEpisode (s : State) (k : Nat) : Bool := s.flt.eps.any fun e => decide (e.scope = k ∧ 3 ≤ e.sev)

/-- Length of a quiet window that starts now, in µs: QUIET in force (R364). -/
def quietLen (s : State) : Nat := getF FLT.RECOV_QUIET 2 0 s * 1000000

/-- The SCOPE record of a scope (R378): outcome 1 recovered, 2 latched, 3 cleared. -/
def scopeRecord (k outcome : Nat) (s : State) : State :=
  let c := scopeAt s k
  recPush 0x04 (if k = 8 then 4 else 3) k
    [(2, ofN outcome), (3, ofN c.first), (4, ofN c.last), (5, ofN (satN 0xFFFFFFFF c.count)),
     (6, ofN (satN 0xFFFFFFFF (s.time.ticks - c.start))), (7, ofN (satN 15 (recentRecov c (usNow s))))] 1 (0x0200 + k) s

/-- Starts the quiet window of a scope in reaction at elapsed µs `t`, unless it is latched or has an active episode. -/
def startQuiet (k t : Nat) (s : State) : State :=
  let c := scopeAt s k
  if c.react then
    putScope k { c with from_ := t, quiet := if c.latched || scopeEpisode s k then none else some (t, quietLen s) } s
  else s

/-- Whether a latch of a scope is still to come: it is not latched, or its latch is cleared at the next boundary (R365, R366). -/
def latchable (k : Nat) (s : State) : Bool :=
  let c := scopeAt s k
  !c.latched || (c.clr && !c.relatch)

/-- Latches a scope (R365). A latch that a clear is about to end is followed by one that outlives it (R366). -/
def latchScope (k : Nat) (s : State) : State :=
  let c := scopeAt s k
  if !latchable k s then s
  else if c.latched then setIrq 2 18 (scopeRecord k 2 (putScope k { c with relatch := true } s))
  else setIrq 2 18 (scopeRecord k 2 (putScope k { c with latched := true, quiet := none } s))

/-- A reaction in scope `k` to message number `q` of severity `sev` with stamp `t` (R355, R356, R364, R365). -/
def reactScope (k sev q t : Nat) (m : Msg) (latch : Bool) (s : State) : State :=
  let c := scopeAt s k
  let begins := !c.react
  let c := { c with
    react := true
    named := (namedOutputs m.src m.kind m.addr).foldl (fun l n => if l.contains n then l else l ++ [n]) c.named
    again := c.again || c.clr
    first := if begins || (c.clr && !c.again) then q else c.first
    last := q
    count := if begins || (c.clr && !c.again) then 1 else c.count + 1
    start := if begins || (c.clr && !c.again) then s.time.ticks else c.start }
  let s := putScope k c s
  let s := if begins then setIrq 2 (if sev = 4 then 16 else 17) s else s
  let s := (stoppedEngines s sev m.src).foldl (fun a e => stopEngine k e a) s
  let s := startQuiet k t s
  let s := if sev = 4 then forN 8 (fun g a => startQuiet g t a) s else s
  if latch then latchScope k s else s

/-! ### Receiving -/

/-- The first message at or above FF_MIN that arrived in a cycle: a clear of the first-fault register in that cycle keeps it
(R362). -/
def keptFf (cycle : Nat) (s : State) : Option HistEntry :=
  match s.flt.ffNow with
  | some (c, h) => if c = cycle then some h else none
  | none => none

/-- Notes the instant of a receipt at a severity of the severity table: the last instant, and the last one before it (R215). -/
def noteReceipt (sev now : Nat) (l : List (Nat × Nat)) : List (Nat × Nat) :=
  let e := l.getD sev (0, 0)
  l.set sev (if e.1 = now then e else (now, e.1))

/-- One message of a group: sequence number, history, first fault, page state, reactions, records (R354, R360 to R362). -/
def receive (grp : Bool) (m : Msg) (s : State) : State :=
  let e := sevEntry m.kind s
  let sev := msgSev s m
  let k := if sev = 4 then 8 else if sev = 3 then bitsOf e 6 4 else 9
  let latch := decide (3 ≤ sev) && decide (bitsOf e 7 7 = 1)
  let latches := latch && latchable k s
  let flags := b2n grp + (if m.inj = 1 then 2 else if m.inj = 2 then 4 else 0) + (if latches then 8 else 0)
  let q := s.flt.seq
  let h : HistEntry := ⟨q, m.tick, m.phase, m.src, m.kind, m.addr, sev, flags⟩
  let page := m.src / 256
  let high := decide (getF FLT.RECOV_FF_MIN 2 0 s ≤ sev)
  let epis := ((kindRow m.kind).map fun r => r.episode) = some true
  let s := { s with flt := { s.flt with
    seq := (q + 1) % 4294967296
    hist := (h :: s.flt.hist).take 32
    ff := if high && s.flt.ff.isNone then some h else s.flt.ff
    ffNow := if high && (keptFf (m.us * 512 + m.cycle) s).isNone then some (m.us * 512 + m.cycle, h) else s.flt.ffNow
    since := noteReceipt (bitsOf e 2 0) (cycleNow s + 1) s.flt.since
    eps := if epis ∧ m.inj ≠ 1 then s.flt.eps ++ [⟨m.src, m.kind, m.addr, sev, k, q, s.time.ticks⟩] else s.flt.eps
    evts := if epis ∨ m.inj = 1 then s.flt.evts else s.flt.evts ++ [⟨page, sev, k, s.time.ticks, false⟩] } }
  let s := setF CMN.FLT_STAT_LAST_KIND page 0 m.kind s
  let s := noteCycle (fun c => { c with sent := page :: c.sent }) (incSat CMN.FLT_STAT_COUNT page 0 s)
  let s := if 1 ≤ sev then setIrq page 0 s else s
  let s := if 3 ≤ sev then reactScope k sev q m.seen m latch s else s
  let s := recPush 0x02 sev m.src
    [(2, ofN q), (3, ofN (m.src * 65536 + m.kind)), (4, ofN (m.addr * 65536 + sev * 32 + flags))] 0 0 s
  if getF LNK.FCFG_FB_MIN 0x0B 0 s ≤ sev then
    if s.flt.fbOut.length < 32 then { s with flt := { s.flt with fbOut := s.flt.fbOut ++ [h] } }
    else incSat LNK.STAT2_FB_OVF 0x0B 0 s
  else s

/-- The place of a message in its group (R360): severity highest first, then source, then kind. -/
def groupKey (s : State) (m : Msg) : Nat := (4 - msgSev s m) * 4294967296 + m.src * 65536 + m.kind

/-- The instant of a message's arrival down to the cycle. -/
def stampOf (m : Msg) : Nat := m.us * 512 + m.cycle

/-- The messages of one cycle, in the order of R360. -/
def receiveGroup (ms : List Msg) (s : State) : State :=
  (sortBy (groupKey s) ms).foldl (fun a m => receive (decide (2 ≤ ms.length)) m a) s

/-- The distinct stamps of a list of messages, ascending. -/
def stamps (ms : List Msg) : List Nat :=
  sortBy id (ms.foldl (fun l m => if l.contains (stampOf m) then l else l ++ [stampOf m]) [])

/-- The place of a history entry in the group of its cycle (R360). -/
def entryKey (h : HistEntry) : Nat := (4 - h.sev) * 4294967296 + h.src * 65536 + h.kind

/-- The entries of a group in the order of R360, with consecutive sequence numbers from `base` and the GRP flag. -/
def renumber (base : Nat) (hs : List HistEntry) : List HistEntry :=
  (sortBy entryKey hs).zipIdx.map fun e => { e.1 with seq := (base + e.2) % 4294967296, flags := e.1.flags ||| 1 }

/-- What a sequence number became. -/
def newSeq (ps : List (HistEntry × HistEntry)) (q : Nat) : Nat := ((ps.find? fun p => p.1.seq = q).map fun p => p.2.seq).getD q

/-- The reaction scope of an entry; 9 for none. -/
def entryScope (s : State) (h : HistEntry) : Nat :=
  if h.sev = 4 then 8 else if h.sev = 3 then bitsOf (sevEntry h.kind s) 6 4 else 9

/-- A FAULT record of a message whose entry was renumbered. -/
def renumberRecord (ps : List (HistEntry × HistEntry)) (r : RecReq) : RecReq :=
  match ps.find? fun p => decide (r.kind = 0x02 ∧ tabGet (fun _ => (0 : Word)) r.body 2 = ofN p.1.seq) with
  | some (_, h) =>
    let b := tabSet (fun _ => (0 : Word)) r.body 2 (ofN h.seq)
    { r with body := tabSet (fun _ => (0 : Word)) b 4 (ofN (h.addr * 65536 + h.sev * 32 + h.flags)) }
  | none => r

/-- Puts the renumbered entries of a group wherever the old ones stand. -/
def regroupInto (ps : List (HistEntry × HistEntry)) (s : State) : State :=
  let new := ps.map Prod.snd
  let mine (h : HistEntry) : Bool := ps.any fun p => decide (p.1 = h)
  let first : Option HistEntry := new.find? fun h => decide (getF FLT.RECOV_FF_MIN 2 0 s ≤ h.sev)
  let scope (k : Nat) (c : Scope) : Scope :=
    let l := new.filter fun h => decide (entryScope s h = k)
    let old (q : Nat) : Bool := ps.any fun p => decide (p.1.seq = q)
    { c with
      first := if old c.first then ((l.head?).map HistEntry.seq).getD c.first else c.first
      last := if old c.last then ((l.getLast?).map HistEntry.seq).getD c.last else c.last }
  let rs := s.recd
  { s with
    flt := { s.flt with
      hist := new.reverse ++ s.flt.hist.drop ps.length
      ff := match s.flt.ff with
        | some h => if mine h then first else some h
        | none => none
      ffNow := match s.flt.ffNow with
        | some (c, h) => if mine h then first.map fun g => (c, g) else some (c, h)
        | none => none
      eps := s.flt.eps.map fun e => { e with seq := newSeq ps e.seq }
      scopes := s.flt.scopes.map fun e => (e.1, scope e.1 e.2)
      fbOut := s.flt.fbOut.filter (fun h => !mine h)
        ++ (ps.filter fun p => s.flt.fbOut.contains p.1).map Prod.snd }
    recd := { rs with queue := rs.queue.map (renumberRecord ps), inbox := rs.inbox.map (renumberRecord ps) } }

/-- All messages of one cycle form one group, whichever commands of the cycle sent them: those received so far are put in the order of R360,
with consecutive sequence numbers and the GRP flag. -/
def regroup (s : State) : State :=
  let mine := s.flt.hist.take (Nat.min 32 (thisCycle s).sent.length)
  let order := sortBy entryKey mine.reverse
  let new := renumber ((s.flt.seq + 4294967296 - mine.length) % 4294967296) mine.reverse
  if mine.length ≤ 1 ∨ new = mine.reverse then s else regroupInto (order.zip new) s

/-- The collector takes every message sent so far, cycle by cycle. -/
def collect (s : State) : State :=
  let ms := s.flt.outbox
  let s := { s with flt := { s.flt with outbox := [] } }
  regroup ((stamps ms).foldl (fun a t => receiveGroup (ms.filter fun m => stampOf m = t) a) s)

/-! ### Ends -/

/-- The episodes that a page's kind and address name. -/
def epMatch (page kind addr : Nat) (e : Episode) : Bool :=
  decide (e.src / 256 = page ∧ e.kind = kind ∧ e.addr = addr % 65536)

/-- Whether such an episode is active, or its message is on its way. -/
def epActive (page kind addr : Nat) (s : State) : Bool :=
  s.flt.eps.any (epMatch page kind addr)
    || s.flt.outbox.any fun m => decide (m.src / 256 = page ∧ m.kind = kind ∧ m.addr = addr % 65536)

/-- The FAULT_END record of an ended episode (R378). -/
def endRecord (e : Episode) (s : State) : State :=
  recPush 0x03 e.sev e.src
    [(2, ofN e.seq), (3, ofN (e.src * 65536 + e.kind)), (4, ofN (e.addr * 65536)),
     (5, ofN (satN 0xFFFFFFFF (s.time.ticks - e.ticks)))] 1 e.src s

/-- Ends the episodes of a page, kind and address; the quiet windows of their scopes start (R351, R364). -/
def endEp (page kind addr : Nat) (s : State) : State :=
  let s := if s.flt.outbox.any (fun m => decide (m.src / 256 = page ∧ m.kind = kind ∧ m.addr = addr % 65536))
    then collect s else s
  let gone := s.flt.eps.filter (epMatch page kind addr)
  let s := { s with flt := { s.flt with eps := s.flt.eps.filter fun e => !epMatch page kind addr e } }
  let s := gone.foldl (fun a e => endRecord e a) s
  gone.foldl (fun a e => if 3 ≤ e.sev then startQuiet e.scope (usNow a) a else a) s

/-- Begins an episode unless it is active already. -/
def beginEp (page inst kind addr : Nat) (s : State) : State :=
  if epActive page kind addr s then s else raise page inst kind addr s

/-- Brings an episode in line with its condition: begins it, ends it, or leaves it. -/
def setEp (on : Bool) (page inst kind addr : Nat) (s : State) : State :=
  if on then beginEp page inst kind addr s
  else if epActive page kind addr s then endEp page kind addr s else s

/-- Ends the reaction of a scope: its events are no longer active and its engines restart; the outputs follow (R364). -/
def leaveScope (k : Nat) (s : State) : State :=
  let c := scopeAt s k
  let s := putScope k { c with
    react := false, latched := false, quiet := none, named := [], engs := [], clr := false, again := false, relatch := false } s
  let s := { s with flt := { s.flt with evts := s.flt.evts.filter fun e => decide (e.sev ≤ 2 ∨ e.scope ≠ k) } }
  restartEngines c.engs s

/-- The end of a quiet window (R364, R365): the scope recovers, or latches under the recovery limit. -/
def quietEnd (k : Nat) (s : State) : State :=
  let c := scopeAt s k
  let t := usNow s
  match c.quiet with
  | none => s
  | some (a, len) =>
    if c.react && !c.latched && decide (a + len ≤ t) then
      if getF FLT.RECOV_REC_LIM 2 0 s ≤ recentRecov c t + 1 then latchScope k s
      else
        let s := putScope k { c with recov := (t :: c.recov).take 15, total := satN 0xFFFF (c.total + 1) } s
        let s := scopeRecord k 1 s
        setIrq 2 19 (leaveScope k s)
    else s

/-- Whether a latched scope may be cleared (R366). -/
def clearable (k : Nat) (s : State) : Bool := (scopeAt s k).latched && !scopeEpisode s k

/-- An applied clear: the latch ends at the next tick boundary (R366), and with it the event faults that were active then (R351). -/
def applyClear (k : Nat) (s : State) : State :=
  let s := scopeRecord k 3 s
  let s := { s with flt := { s.flt with evts := s.flt.evts.map fun e => { e with old := e.old || decide (3 ≤ e.sev ∧ e.scope = k) } } }
  let c := scopeAt s k
  putScope k { c with clr := true, again := false, relatch := false } s

/-- The boundary that ends a cleared latch; a reaction that began after the clear goes on, with its own quiet window or its own latch
(R364, R366). -/
def settleClear (k : Nat) (s : State) : State :=
  let c := scopeAt s k
  if c.clr then
    if c.again then
      let s := { s with flt := { s.flt with evts := s.flt.evts.filter fun e => !(e.old && decide (e.scope = k)) } }
      let s := putScope k { c with latched := c.relatch, clr := false, again := false, relatch := false, recov := [] } s
      startQuiet k c.from_ s
    else leaveScope k (putScope k { c with recov := [] } s)
  else s

/-! ### What the registers show -/

/-- Whether an event fault is still active (R351). -/
def evtActive (s : State) (e : ActEvent) : Bool := decide (3 ≤ e.sev ∨ e.ticks = s.time.ticks)

/-- Severities and scopes of the active faults that satisfy a test on their page. -/
def activeFaults (s : State) (onPage : Nat → Bool) : List (Nat × Nat) :=
  (s.flt.eps.filter fun e => onPage (e.src / 256)).map (fun e => (e.sev, e.scope))
    ++ (s.flt.evts.filter fun e => onPage e.page && evtActive s e).map fun e => (e.sev, e.scope)

/-- Highest severity of a list of active faults. -/
def highest (l : List (Nat × Nat)) : Nat := l.foldl (fun a e => Nat.max a e.1) 0

/-- FLT_STAT of a page: LAST_KIND and COUNT as stored, SEV, LATCHED and ACTIVE from the collector (R29). -/
def fltStatWord (p : Nat) (s : State) : Word :=
  let l := activeFaults s fun q => decide (q = p)
  let latched := l.any fun e => decide (3 ≤ e.1) && (scopeAt s e.2).latched
  let w := rdReg s (pageAddr p 0x18)
  ofN (bitsOf w 31 16 * 65536 + bitsOf w 15 8 * 256 + highest l * 4 + b2n latched * 2 + b2n (!l.isEmpty))

/-- Whether the device scope drives SAFE_OUT_N low: in reaction or latched (R359). -/
def scopeSafeOut (s : State) : Bool := (scopeAt s 8).react

/-- FLT_STATE without its SAFE_OUT bit, which the power-up state also drives (R359, R375). -/
def fltStateWord (safeOut : Bool) (s : State) : Word :=
  let l := activeFaults s fun _ => true
  let d := scopeAt s 8
  ofN (satN 0xFFFF l.length * 65536 + b2n d.quiet.isSome * 512 + b2n s.flt.flash * 256 + b2n safeOut * 128
    + b2n s.flt.safeIn * 64 + b2n (l.any fun e => decide (e.1 = 2)) * 32 + b2n d.latched * 16 + b2n d.react * 8
    + highest l)

/-- FLT_GRP_STAT (R375). -/
def grpStatWord (s : State) : Word :=
  ofN (maskOf 8 (fun g => (scopeAt s g).quiet.isSome) * 65536 + maskOf 8 (fun g => (scopeAt s g).latched) * 256
    + maskOf 8 fun g => (scopeAt s g).react)

/-- The words of a history entry, and the fifth word of the first-fault register (R361, R362). -/
def histWord (h : HistEntry) (i : Nat) : Word :=
  if i = 0 then ofN h.seq
  else if i = 1 then ofN h.tick
  else if i = 2 then ofN (h.src * 65536 + h.kind)
  else if i = 3 then ofN (h.addr * 65536 + h.phase * 256 + h.sev * 32 + h.flags)
  else ofN (65536 + h.tick / 4294967296 % 65536)

/-! ### Forced outputs -/

/-- Whether unit `u` of an output page is a member of group `g` (FLT_GRPg in force on the P-die, R357). -/
def inGroup (g p u : Nat) (s : State) : Bool :=
  if p = 0x30 then bitAt (getF FLT.GRP_VLV_MASK 2 g s) u
  else if p = 0x31 then bitAt (getF FLT.GRP_VLV_MASK 2 g s) (8 + u)
  else if p = 0x32 then bitAt (getF FLT.GRP_FAN_MASK 2 g s) u
  else if p = 0x34 then bitAt (getF FLT.GRP_DOU_MASK 2 g s) u
  else if p = 0x35 then bitAt (getF FLT.GRP_AOU_MASK 2 g s) u
  else false

/-- Whether a reaction, a flashing fault or SAFE_IN_N forces an output (R355 to R358). -/
def reactionCovers (p u : Nat) (s : State) : Bool :=
  s.flt.flash || s.flt.safeIn || (scopeAt s 8).react ||
    (List.range 9).any fun k =>
      let c := scopeAt s k
      c.react && (c.named.contains (p * 64 + u) || (decide (k < 8) && inGroup k p u s))

/-! ### Lateness -/

/-- The _LATE kind of a page (R51). -/
def lateKind (p : Nat) : Nat :=
  match pageKind p with
  | none => 0
  | some k => blockType k * 256 + 1

/-- Least element of a list of unit numbers. -/
def leastOf : List Nat → Nat
  | [] => 0
  | [a] => a
  | a :: t => Nat.min a (leastOf t)

/-- A due instant of a block (R50 to R52): `anyDue` if one of its units is due, `late` the units late there. -/
def dueInstant (p : Nat) (anyDue : Bool) (late : List Nat) (s : State) : State :=
  let s :=
    if late ≠ [] then
      let s := incSat CMN.STAT_LATE_CNT p 0 (setIrq p 2 s)
      { s with time := { s.time with
        lateUnit := tabSet (fun _ => 0) s.time.lateUnit p (leastOf late)
        lateNow := if s.time.lateNow.contains p then s.time.lateNow else s.time.lateNow ++ [p] } }
    else if anyDue then
      let sent := s.time.lateSent.contains p
      let s := setF CMN.STAT_LATE_CNT p 0 0 s
      let s := { s with time := { s.time with lateSent := s.time.lateSent.erase p } }
      if sent then
        (s.flt.eps.filter fun e => decide (e.src / 256 = p ∧ e.kind = lateKind p)).foldl
          (fun a e => endEp p e.kind e.addr a) s
      else s
    else s
  let cnt := getF CMN.STAT_LATE_CNT p 0 s
  if 0 < cnt ∧ getF CMN.CTRL_LATE_LIMIT p 0 s ≤ cnt ∧ ¬ s.time.lateSent.contains p then
    let s := { s with time := { s.time with lateSent := s.time.lateSent ++ [p] } }
    raise p 0xFF (lateKind p) (if late ≠ [] then leastOf late else tabGet (fun _ => 0) s.time.lateUnit p) s
  else s

/-- A due instant that lies at the boundary just passed: the late maps of that boundary show it (R66). -/
def dueBoundary (p : Nat) (anyDue : Bool) (late : List Nat) (s : State) : State :=
  let s := dueInstant p anyDue late s
  if late ≠ [] then
    let a := pageAddr 0x01 (if p < 32 then 0x130 else 0x134)
    let s := wrReg s a (ofN (putBit (rdReg s a).toNat (p % 32) true))
    { s with time := { s.time with lateNow := s.time.lateNow.erase p } }
  else s

end Sys2Proof.Machine
end

