-- ==== Sys2Proof/Machine/Judge.lean ====
section
/-!
DEFINITION. The judging of a register write, field by field (R502): which fields it writes, and whether access code, lock and
ownership permit them. The checks of a block's own chapter stand with the block.
-/
namespace Sys2Proof.Machine

/-- A write on its way to a register: party, page, offset, unit of the register row, the row, the word written, what the
register reads, and the fields that it writes. -/
structure WriteCx where
  party : Party
  page : Nat
  off : Nat
  unit : Nat
  desc : RegDesc
  data : Word
  old : Word
  fields : List FieldDesc
  deriving DecidableEq, Repr

/-- Whether the write writes the field whose low bit is `lo`. -/
def cxHas (cx : WriteCx) (lo : Nat) : Bool := cx.fields.any fun f => f.lo = lo

/-- Bits of the written word. -/
def cxBits (cx : WriteCx) (hi lo : Nat) : Nat := bitsOf cx.data hi lo

/-- What a register will read after the write: written RW, RWS and RWD fields take the word's bits, written W1C fields lose
the bits that carry 1, and everything else stays. -/
def cxMerged (cx : WriteCx) : Word :=
  cx.fields.foldl (fun w f =>
    match f.acc with
    | .rw | .rws | .rwd => setBits w f.hi f.lo (bitsOf cx.data f.hi f.lo)
    | .w1c => setBits w f.hi f.lo (bitsOf w f.hi f.lo - (bitsOf w f.hi f.lo &&& bitsOf cx.data f.hi f.lo))
    | .wo | .ro => w) cx.old

/-- Bits of the register as it will read. -/
def cxNew (cx : WriteCx) (hi lo : Nat) : Nat := bitsOf (cxMerged cx) hi lo

/-- Host address of the register. -/
def cxAddr (cx : WriteCx) : Nat := pageAddr cx.page cx.off

/-- Whether a write writes a field (R502). -/
def writesField (data old : Word) (f : FieldDesc) : Bool :=
  match f.acc with
  | .ro => false
  | .w1c | .wo => decide (bitsOf data f.hi f.lo ≠ 0)
  | .rw | .rws | .rwd => f.win || decide (bitsOf data f.hi f.lo ≠ bitsOf old f.hi f.lo)

/-- Whether every field of a register is RO (R502). -/
def allRo (d : RegDesc) : Bool := d.fields.all fun f => decide (f.acc = .ro)

/-- The owner field of a unit, in force: LPA, PRF, LDG, VLV, FAN, DOU and AOU units have one (R196, R210, R253, R316, R317). -/
def unitOwner (p u : Nat) (s : State) : Nat :=
  match pageKind p with
  | some .lpa => getF LPA.SL_CTRL_OWNER p u s
  | some .prf => getF PRF.PG_CTRL_OWNER p u s
  | some .ldg => getF LDG.COL_CTRL_OWNER p u s
  | some .vlv => getF VLV.LG_CTRL_OWNER p u s
  | some .fan => getF FAN.CH_CTRL_OWNER p u s
  | some .dou => getF DOU.CH_CTRL_OWNER p u s
  | some .aou => getF AOU.CH_CTRL_OWNER p u s
  | _ => getF CMN.OWN_OWNER p 0 s

/-- Whether a party may write what the page's OWN governs (R31). -/
def pageOwns (p : Nat) (party : Party) (s : State) : Bool :=
  decide (party = .sup ∨ party = .flt) || decide (getF CMN.OWN_OWNER p 0 s = party.code)
    || getB CMN.OWN_SHARED p 0 s

/-- Whether a party may write what a unit's owner governs (R31). -/
def unitOwns (p u : Nat) (party : Party) (s : State) : Bool :=
  decide (party = .sup ∨ party = .flt) || decide (unitOwner p u s = party.code)

/-- Whether ownership permits one written field (R31). -/
def ownerPermits (cx : WriteCx) (s : State) (f : FieldDesc) : Bool :=
  match f.gov with
  | .party => true
  | .supHost => decide (cx.party = .sup ∨ cx.party = .flt ∨ cx.party = .host)
  | .unit => unitOwns cx.page cx.unit cx.party s
  | .page => f.win || pageOwns cx.page cx.party s

/-- Whether a page is locked (R33). -/
def locked (p : Nat) (s : State) : Bool := getB CMN.LOCK_LOCKED p 0 s

/-- Whether access code, lock and ownership permit every written field (R27, R31, R33). -/
def fieldsPermitted (cx : WriteCx) (s : State) : Bool :=
  cx.fields.all fun f =>
    ownerPermits cx s f
      && (f.oper || !locked cx.page s || decide (cx.party = .sup ∨ cx.party = .flt))
      && (decide (f.acc ≠ .rws) || stopped cx.page s)

/-! ### Registers of a party -/

/-- Key of a register that belongs to a party. -/
def pregKey (party : Party) (a : Nat) : Nat := party.code * 16777216 + a

/-- What a party's own register reads before that party wrote it. -/
def pregReset (k : Nat) : Word := resetWord (k % 16777216)

/-- A party's own copy of a register. -/
def rdParty (party : Party) (a : Nat) (s : State) : Word := tabGet pregReset s.bus.pregs (pregKey party a)

/-- Puts a party's own copy of a register. -/
def wrParty (party : Party) (a : Nat) (v : Word) (s : State) : State :=
  { s with bus := { s.bus with pregs := tabSet pregReset s.bus.pregs (pregKey party a) v } }

/-- Whether a register belongs to each party. -/
def partyReg (d : RegDesc) : Bool := d.fields.any fun f => f.gov = .party

/-- Stores the written fields; a register of a party is stored in that party's own copy, and a configuration field that changes is
counted in WRITE_GEN (R35, R122, R460). W1C bits that an event set in this cycle stay set (R28, R104). -/
def storeFields (cx : WriteCx) (s : State) : State :=
  if partyReg cx.desc then wrParty cx.party (cxAddr cx) (cxMerged cx) s
  else
    let cur := rdReg s (cxAddr cx)
    let v := cxMerged { cx with old := cur } ||| (cur &&& ofN (freshBits (cxAddr cx) s))
    let s' := wrReg s (cxAddr cx) v
    if cx.fields.any (fun f => f.cfg && decide (bitsOf v f.hi f.lo ≠ bitsOf cur f.hi f.lo)) then bumpWriteGen cx.page s'
    else s'

/-- The outcome of a block's own handling of a permitted write; `refuseTo` is a refusal that a status register records. -/
inductive WrOut
  | ok (s : State)
  | refuse
  | refuseTo (s : State)
  | held
  deriving DecidableEq, Repr

/-- Refuses where a condition holds, and stores otherwise. -/
def storeUnless (bad : Bool) (cx : WriteCx) (s : State) : WrOut :=
  if bad then .refuse else .ok (storeFields cx s)

/-- A field value outside `[lo, hi]`, where the write writes the field at `b`. -/
def cxOutside (cx : WriteCx) (h b lo hi : Nat) : Bool :=
  cxHas cx b && (decide (cxBits cx h b < lo) || decide (hi < cxBits cx h b))

/-! ### Holds -/

/-- Makes a hold, replacing an older hold of the party over the same registers. -/
def makeHold (party : Party) (words : List (Nat × Word)) (scope : HoldScope) (once : Bool) (s : State) : State :=
  let old := s.bus.holds.filter fun h => !(decide (h.party = party.code)
    && h.words.any fun w => words.any fun v => v.1 = w.1)
  { s with bus := { s.bus with holds := ⟨party.code, words, scope, once⟩ :: old } }

/-- The value that a party holds of a register. -/
def heldWord (party : Party) (a : Nat) (s : State) : Option Word :=
  (s.bus.holds.find? fun h => decide (h.party = party.code) && h.words.any fun w => w.1 = a).map fun h =>
    tabGet (fun _ => 0) h.words a

/-- What an access of a party to address `a` leaves of its holds: a read of a held register, which lies under key `k`, keeps or uses
up the hold, any other access discards it within its scope (R34, R121, R363, R388). -/
def touchHolds (party : Party) (a k : Nat) (read : Bool) (s : State) : State :=
  let keep (h : Hold) : Bool :=
    if h.party ≠ party.code then true
    else if read && h.words.any (fun w => w.1 = k) then !h.once
    else match h.scope with
      | .lasting => true
      | .anyAccess => false
      | .onPage p => decide (a / 0x400 ≠ p)
  { s with bus := { s.bus with holds := s.bus.holds.filter keep } }

end Sys2Proof.Machine
end

