-- ==== Sys2Proof/Machine/CanPort.lean ====
section
/-!
DEFINITION. The CAN controllers (R416 to R422): message objects, reception, transmission, error states and the CAN pages.
-/
namespace Sys2Proof.Machine

/-- Page of a controller. -/
def canPg (c : Nat) : Nat := 0x09 + c

/-- A controller by its page. -/
def canSt (s : State) (p : Nat) : CanState := tabGet (fun _ => CanState.idle) s.can p

/-- Puts a controller. -/
def putCan (p : Nat) (v : CanState) (s : State) : State :=
  { s with can := tabSet (fun _ => CanState.idle) s.can p v }

/-- Word `w` of message object `o` (R418). -/
def moWord (p o w : Nat) (s : State) : Word := getAct p 0 (o * 20 + w) s

/-- Puts a word of a message object. -/
def putMo (p o w : Nat) (v : Word) (s : State) : State := setAct p 0 (o * 20 + w) v s

/-- Bit `o` of a pair of registers of 32 objects each. -/
def moBit (p off o : Nat) (s : State) : Bool := bitAt (rdReg s (pageAddr p (off + 4 * (o / 32)))).toNat (o % 32)

/-- Sets or clears bit `o` of a pair of registers. -/
def putMoBit (p off o : Nat) (b : Bool) (s : State) : State :=
  let a := pageAddr p (off + 4 * (o / 32))
  wrReg s a (ofN (putBit (rdReg s a).toNat (o % 32) b))

/-- An event sets bit `o` of a pair of W1C registers: a clear of the same cycle leaves it set (R104, R422). -/
def seeMoBit (p off o : Nat) (s : State) : State :=
  noteBit (pageAddr p (off + 4 * (o / 32))) (o % 32) (putMoBit p off o true s)

/-- Offset of the NEW bits. -/
def canNew : Nat := 0x110
/-- Offset of the LOST bits. -/
def canLost : Nat := 0x118
/-- Offset of the TXREQ bits. -/
def canTxReqOff : Nat := 0x120
/-- Offset of the TXDONE bits. -/
def canTxDoneOff : Nat := 0x130

/-! ### Error states -/

/-- TEC, REC and RP show the counters (R422). -/
def showCounters (p : Nat) (s : State) : State :=
  let c := canSt s p
  setF CAN.ERR_TEC p 0 (satN 255 c.tec) (setF CAN.ERR_REC p 0 (satN 127 c.rec_)
    (setB CAN.ERR_RP p 0 (decide (128 ≤ c.rec_)) s))

/-- The error state follows the counters; entry to error-passive and to bus-off send their messages (R421). -/
def errorState (p : Nat) (s : State) : State :=
  let s := showCounters p s
  let c := canSt s p
  let was := getW CAN.STAT_ESTATE p 0 s
  let now := if was = 2 then 2 else if 256 ≤ c.tec then 2 else if 128 ≤ c.tec ∨ 128 ≤ c.rec_ then 1 else 0
  if now = was then s
  else
    let s := setIrq p 19 (setF CAN.STAT_ESTATE p 0 now s)
    if now = 2 then
      let s := putCan p { c with recov := getB CAN.CTRL_ABR p 0 s } s
      beginEp p 0xFF kCanBusOff 0 s
    else if now = 1 then raise p 0xFF kCanProtocol (getW CAN.ERR_LEC p 0 s) s
    else s

/-- Whether the controller takes part on the bus (R417, R421). -/
def canLive (p : Nat) (s : State) : Bool := running p s && decide (getW CAN.STAT_ESTATE p 0 s ≠ 2)

/-! ### What is offered to the bus (R420) -/

/-- Whether an object may be sent: requested, enabled, and a transmit object. -/
def moPending (p o : Nat) (s : State) : Bool := moBit p canTxReqOff o s && decide (bitsOf (moWord p o 0 s) 31 30 = 3)

/-- The place of a frame in arbitration: the base identifier, then the 11-bit frame before the 29-bit one, then the extension. -/
def arbKey (w0 : Word) : Nat :=
  bitsOf w0 28 18 * 524288 + (if bitsOf w0 29 29 = 1 then 262144 + bitsOf w0 17 0 else 0)

/-- The object that the controller offers: the one whose frame wins arbitration, the lowest number among equal identifiers. -/
def canOffer (p : Nat) (s : State) : Option Nat :=
  (List.range 64).foldl (fun best o =>
    if moPending p o s then
      match best with
      | none => some o
      | some b => if arbKey (moWord p o 0 s) < arbKey (moWord p b 0 s) then some o else some b
    else best) none

/-- The offered object joins those that may be on the bus. -/
def noteOffer (p : Nat) (s : State) : State :=
  let c := canSt s p
  match canOffer p s with
  | some o => if c.won.contains o then s else putCan p { c with won := c.won ++ [o] } s
  | none => s

/-- A frame on the bus has ended: what is offered is chosen anew. -/
def frameOver (p : Nat) (s : State) : State := putCan p { canSt s p with won := (canOffer p s).toList } s

/-- CAN_ERROR_DETECTED: the counters of ISO 11898-1 (R421); with ONESHOT the frame is not repeated (R420). -/
def canError (p : Nat) (count : CanCount) (lec : Nat) (sending : Option Nat) (s : State) : State :=
  if canLive p s then
    let c := canSt s p
    let s := putCan p (match count with
      | .transmitter => { c with tec := c.tec + 8 }
      | .transmitterExempt => c
      | .receiver => { c with rec_ := satN 255 (c.rec_ + 1) }
      | .receiverDominant => { c with rec_ := satN 255 (c.rec_ + 8) }) s
    let s := if lec = 0 then s else setF CAN.ERR_LEC p 0 lec s
    let s := match sending with
      | some o => if getB CAN.CTRL_ONESHOT p 0 s then putMoBit p canTxReqOff o false s else s
      | none => s
    errorState p (frameOver p s)
  else s

/-- CAN_BUS_OFF_RECOVERED: back to error-active, the episode ends (R421). -/
def canRecovered (p : Nat) (s : State) : State :=
  let c := canSt s p
  if getW CAN.STAT_ESTATE p 0 s = 2 ∧ c.recov = true then
    let s := putCan p { c with tec := 0, rec_ := 0, recov := false } s
    let s := setIrq p 19 (setF CAN.STAT_ESTATE p 0 0 (showCounters p s))
    endEp p kCanBusOff 0 s
  else s

/-- CTRL.RECOVER starts bus-off recovery when ABR = 0 (R421). -/
def canRecoverNow (p : Nat) (s : State) : State :=
  if getW CAN.STAT_ESTATE p 0 s = 2 ∧ getB CAN.CTRL_ABR p 0 s = false then putCan p { canSt s p with recov := true } s else s

/-! ### Frames -/

/-- Data bytes of a length code (ISO 11898-1). -/
def dlcLen (fdf : Bool) (dlc : Nat) : Nat :=
  if dlc ≤ 8 then dlc
  else if !fdf then 8
  else nthN [12, 16, 20, 24, 32, 48, 64] (dlc - 9)

/-- Whether a frame matches a receive object (R419). -/
def moMatches (p o : Nat) (f : CanFrame) (s : State) : Bool :=
  let w0 := moWord p o 0 s
  let w1 := moWord p o 1 s
  decide (bitsOf w0 31 31 = 1 ∧ bitsOf w0 30 30 = 0)
    && decide ((f.ident.toNat ^^^ bitsOf w0 28 0) &&& bitsOf w1 28 0 = 0)
    && (decide (bitsOf w1 31 31 = 0) || decide (bitsOf w0 29 29 = b2n f.ide))

/-- Puts data byte `i` of an object. -/
def putMoByte (p o i : Nat) (b : Byte) (s : State) : State :=
  let k := 24 - 8 * (i % 4)
  putMo p o (4 + i / 4) (setBits (moWord p o (4 + i / 4) s) (k + 7) k b.toNat) s

/-- W3 takes the stamp of the frame's end (R418). -/
def moStamp (p o : Nat) (s : State) : State :=
  putMo p o 3 (ofN (s.time.tick % 65536 * 65536 + s.time.phase * 256)) s

/-- Stores a received frame in an object (R419). -/
def moStore (p o : Nat) (f : CanFrame) (s : State) : State :=
  let w2 := b2n f.esi * 8388608 + b2n f.brs * 4194304 + b2n f.fdf * 2097152 + f.dlc.toNat * 65536
  let s := moStamp p o (putMo p o 2 (ofN w2) s)
  let s := forN (dlcLen f.fdf f.dlc.toNat) (fun i a => putMoByte p o i (f.data.getD i 0) a) s
  let c := canSt s p
  let s := putCan p { c with rx := if c.rx.contains o then c.rx else c.rx ++ [o] } s
  setIrq p 16 (seeMoBit p canNew o (incMod CAN.CNT_RXOK p 0 s))

/-- A frame is compared with the receive objects, and the first that matches takes it (R416, R419). -/
def canTake (p : Nat) (f : CanFrame) (s : State) : State :=
  if f.rtr then incSat CAN.CNT_REMOTE p 0 s
  else
    match (List.range 64).find? fun o => moMatches p o f s with
    | none => incSat CAN.CNT_NOMATCH p 0 s
    | some o =>
      if moBit p canNew o s then
        let s := setIrq p 18 (seeMoBit p canLost o s)
        if bitsOf (moWord p o 1 s) 30 30 = 1 then s else moStore p o f s
      else moStore p o f s

/-- A frame received without error: REC falls, and the first matching object takes it (R416, R419, R421). With LBK the controller hears its own
frames alone (R417). -/
def canReceive (p : Nat) (f : CanFrame) (s : State) : State :=
  if canLive p s && !getB CAN.CTRL_LBK p 0 s then
    let c := canSt s p
    let s :=
      if c.rec_ = 0 then s
      else if c.rec_ < 128 then putCan p { c with rec_ := c.rec_ - 1 } s
      else
        let (w, s) := drawWord s
        putCan p { c with rec_ := 119 + w.toNat % 9 } s
    canTake p f (errorState p (frameOver p s))
  else s

/-- The frame that an object sends (R417, R418): a bit rate switch takes BRSE, and ESI shows an error-passive controller. -/
def sentFrame (p o : Nat) (s : State) : CanFrame :=
  let w0 := moWord p o 0 s
  let w2 := moWord p o 2 s
  let fdf := decide (bitsOf w2 21 21 = 1)
  { ide := decide (bitsOf w0 29 29 = 1), ident := BitVec.ofNat 29 (bitsOf w0 28 0), rtr := false, fdf := fdf
    brs := fdf && decide (bitsOf w2 22 22 = 1) && getB CAN.CTRL_BRSE p 0 s
    esi := fdf && decide (getW CAN.STAT_ESTATE p 0 s = 1)
    dlc := BitVec.ofNat 4 (bitsOf w2 19 16)
    data := (List.range (dlcLen fdf (bitsOf w2 19 16))).map fun i =>
      BitVec.ofNat 8 (bitsOf (moWord p o (4 + i / 4) s) (31 - 8 * (i % 4)) (24 - 8 * (i % 4))) }

/-- CAN_TX_DONE: the transmission of a requested object succeeds (R420); with LBK its frame loops back to the receive objects (R417). -/
def canSent (p o : Nat) (s : State) : State :=
  let c := canSt s p
  if canLive p s && !getB CAN.CTRL_MON p 0 s && decide (bitsOf (moWord p o 0 s) 31 30 = 3) && c.won.contains o
      && (moBit p canTxReqOff o s || c.aborted.contains o) then
    let f := sentFrame p o s
    let s := putCan p { c with tec := c.tec - 1, aborted := c.aborted.erase o } s
    let s := moStamp p o (seeMoBit p canTxDoneOff o (putMoBit p canTxReqOff o false s))
    let s := errorState p (setIrq p 17 (frameOver p s))
    if getB CAN.CTRL_LBK p 0 s then canTake p f s else s
  else s

/-! ### The CAN pages -/

/-- Whether a transmission request of an object is refused (R420). -/
def txBad (p o : Nat) (s : State) : Bool :=
  let w0 := moWord p o 0 s
  let w2 := moWord p o 2 s
  let fdf := decide (bitsOf w2 21 21 = 1)
  decide (bitsOf w0 30 30 = 1) &&
    ((!fdf && (decide (8 < bitsOf w2 19 16) || decide (bitsOf w2 22 22 = 1))) || (fdf && !getB CAN.CTRL_FDOE p 0 s))

/-- A write of TXREQ: a 1 requests, a 0 has no effect (R420). -/
def txRequest (cx : WriteCx) (s : State) : WrOut :=
  let base := if cx.off = canTxReqOff then 0 else 32
  let asks (i : Nat) : Bool := bitAt cx.data.toNat i
  if (List.range 32).any fun i => asks i && txBad cx.page (base + i) s then .refuse
  else .ok (noteOffer cx.page (forN 32 (fun i a => if asks i then putMoBit cx.page canTxReqOff (base + i) true a else a) s))

/-- A write of TXABORT clears pending requests; an object on the bus finishes its frame (R420). -/
def txAbort (cx : WriteCx) (s : State) : State :=
  let base := if cx.off = 0x128 then 0 else 32
  noteOffer cx.page (forN 32 (fun i a =>
    let o := base + i
    if bitAt cx.data.toNat i && moBit cx.page canTxReqOff o a then
      let c := canSt a cx.page
      putMoBit cx.page canTxReqOff o false
        (putCan cx.page { c with aborted := if c.aborted.contains o || !c.won.contains o then c.aborted else c.aborted ++ [o] } a)
    else a) s)

/-- A message object word as it is stored: reserved bits read 0 (R12, R418). -/
def moStored (w : Nat) (v : Word) : Word :=
  if w = 1 then v &&& 0xDFFFFFFF else if w = 2 then v &&& 0x00EF0000 else v

/-- A write of MO_DATA (R418). -/
def moWrite (cx : WriteCx) (s : State) : WrOut :=
  let p := cx.page
  let o := getW CAN.MO_ADDR_OBJ p 0 s
  let w := getW CAN.MO_ADDR_WORD p 0 s
  if w = 3 ∨ pageOwns p cx.party s = false ∨ moBit p canTxReqOff o s = true then .refuse
  else
    let v := moStored w cx.data
    let s' := putMo p o w v s
    .ok (if w < 2 ∧ moWord p o w s ≠ v then bumpWriteGen p s' else s')

/-- The checks and effects of a write to a CAN page's block registers. -/
def canWrite (cx : WriteCx) (s : State) : WrOut :=
  let off := cx.off
  if off = 0x100 then
    storeUnless (cxOutside cx 22 16 1 127 || cxOutside cx 15 8 1 255
      || ((cxHas cx 16 || cxHas cx 8 || cxHas cx 0)
          && decide ((cxNew cx 7 0 + 1) * (cxNew cx 15 8 + cxNew cx 22 16 + 3) < 80))) cx s
  else if off = 0x104 then
    storeUnless ((cxHas cx 16 || cxHas cx 8 || cxHas cx 0)
      && decide ((cxNew cx 4 0 + 1) * (cxNew cx 12 8 + cxNew cx 19 16 + 3) < 16)) cx s
  else if off = 0x120 ∨ off = 0x124 then txRequest cx s
  else if off = 0x128 ∨ off = 0x12C then .ok (txAbort cx s)
  else if off = 0x140 then storeUnless (cxOutside cx 4 0 0 19) cx s
  else if off = 0x144 then moWrite cx s
  else .ok (storeFields cx s)

/-- CTRL.RECOVER (R421). -/
def canCtrl (cx : WriteCx) (s : State) : WrOut := .ok (if cxHas cx 21 then canRecoverNow cx.page s else s)

/-- What MO_DATA reads. -/
def canRead (p off : Nat) (s : State) : Option Word :=
  if off = 0x144 then some (moWord p (getW CAN.MO_ADDR_OBJ p 0 s) (getW CAN.MO_ADDR_WORD p 0 s) s) else none

/-- The key under which a word of an object is held: above every host address. -/
def moHoldKey (p o w : Nat) : Nat := 0x1000000 * (1 + o * 20 + w) + pageAddr p 0x144

/-- The key under which a read of a CAN page looks for a held word. -/
def canHoldKey (p off : Nat) (s : State) : Nat :=
  if off = 0x144 then moHoldKey p (getW CAN.MO_ADDR_OBJ p 0 s) (getW CAN.MO_ADDR_WORD p 0 s) else pageAddr p off

/-- A read of word 0 holds the other words of the object until any other access of the party (R418). -/
def canReadHold (party : Party) (p off : Nat) (s : State) : State :=
  let o := getW CAN.MO_ADDR_OBJ p 0 s
  if off = 0x144 ∧ getW CAN.MO_ADDR_WORD p 0 s = 0 then
    makeHold party ((List.range 19).map fun i => (moHoldKey p o (i + 1), moWord p o (i + 1) s)) .anyAccess false s
  else s

/-- WORD advances after an access to MO_DATA with AINC = 1, wrapping at 20 (R504). -/
def canAdvance (p : Nat) (s : State) : State :=
  if getB CAN.MO_ADDR_AINC p 0 s then
    setF CAN.MO_ADDR_WORD p 0 ((getW CAN.MO_ADDR_WORD p 0 s + 1) % 20) s
  else s

/-- SOFT_RST resets the protocol state and the error counters and clears TXREQ, NEW and LOST; the objects stay (R422). -/
def canSoftRst (p : Nat) (s : State) : State :=
  let c := canSt s p
  let s := if getW CAN.STAT_ESTATE p 0 s = 2 then endEp p kCanBusOff 0 s else s
  let s := if getW CAN.STAT_ESTATE p 0 s = 0 then s else setIrq p 19 s
  let s := putCan p { CanState.idle with rx := c.rx } s
  let s := setF CAN.STAT_ESTATE p 0 0 (wrReg s (pageAddr p 0x10C) 0)
  [0x110, 0x114, 0x118, 0x11C, 0x120, 0x124].foldl (fun a off => wrReg a (pageAddr p off) 0) s

end Sys2Proof.Machine
end

