-- ==== Sys2Proof/Machine/Codes.lean ====
section
/-!
DEFINITION. Check codes and digests: the CRCs of R17, R106, R279 and R408, and the mixing function of the digests.
-/
namespace Sys2Proof.Machine

/-- One step of a CRC of `n` bits, most significant bit first. -/
def crcBit (n poly : Nat) (c : Nat) (bit : Bool) : Nat :=
  let top := decide (c / 2 ^ (n - 1) % 2 = 1)
  let c := c * 2 % 2 ^ n
  if top = bit then c else c ^^^ poly

/-- One byte of a CRC without reflection. -/
def crcByte (n poly : Nat) (c b : Nat) : Nat :=
  [7, 6, 5, 4, 3, 2, 1, 0].foldl (fun a i => crcBit n poly a (bitAt b i)) c

/-- A CRC without reflection over bytes. -/
def crcOf (n poly init : Nat) (bytes : List Nat) : Nat := bytes.foldl (crcByte n poly) init

/-- The record CRC-8 of R106. -/
def crc8 (bytes : List Nat) : Nat := crcOf 8 0x2F 0xFF bytes ^^^ 0xFF

/-- The bridge CRC-16 of R17. -/
def crcBridge (bytes : List Nat) : Nat := crcOf 16 0x8BB7 0xFFFF bytes

/-- The host frame CRC-16 of R408. -/
def crcHost (bytes : List Nat) : Nat := crcOf 16 0x1021 0xFFFF bytes

/-- One byte of the reflected CRC-32 of R279. -/
def crc32Byte (c b : Nat) : Nat :=
  (List.range 8).foldl (fun a _ => if a % 2 = 1 then (a / 2) ^^^ 0xEDB88320 else a / 2) (c ^^^ b)

/-- The CRC-32 of R279: polynomial 0x04C11DB7, reflected, initial value and final XOR all ones. -/
def crc32 (bytes : List Nat) : Nat := bytes.foldl crc32Byte 0xFFFFFFFF ^^^ 0xFFFFFFFF

/-- The bytes of a number of `n` bytes, most significant first. -/
def bytesOf : Nat → Nat → List Nat
  | 0, _ => []
  | n + 1, v => v / 256 ^ n % 256 :: bytesOf n v

end Sys2Proof.Machine
end

