-- ==== Sys2Proof/Machine/Float48.lean ====
section
/-!
DEFINITION. Exact rounding: to the nearest integer with ties away from 0, and the device's own 48-bit floating format of R114.
-/
namespace Sys2Proof.Machine

/-- `n / d` rounded to the nearest integer, ties away from 0. -/
def divAway (n : Int) (d : Nat) : Int :=
  if 0 ≤ n then ((2 * n.toNat + d) / (2 * d) : Nat) else -(((2 * (-n).toNat + d) / (2 * d) : Nat) : Int)

/-- Zero. -/
def F48.zero : F48 := ⟨0, 0⟩

/-- `q / 2^t` rounded to nearest, ties to even; `sticky` tells that a non-zero part below `q` was cut off. -/
def roundDrop (q t : Nat) (sticky : Bool) : Nat :=
  if t = 0 then q
  else
    let base := q / 2 ^ t
    let rem := q % 2 ^ t
    let half := 2 ^ (t - 1)
    if rem > half || (rem = half && (sticky || base % 2 = 1)) then base + 1 else base

/-- Packs a magnitude `q × 2^e` with sticky information into the format: rounding, then the bounds of R114. -/
def f48Pack (neg : Bool) (q : Nat) (e : Int) (sticky : Bool) : F48 :=
  if q = 0 then F48.zero
  else
    let bits := q.log2 + 1
    let t := bits - 48
    let r := if bits ≤ 48 then q * 2 ^ (48 - bits) else roundDrop q t sticky
    let e := e + (bits : Int) - 48
    let (r, e) := if r = 2 ^ 48 then (2 ^ 47, e + 1) else (r, e)
    let x := e + 47
    if x < -32768 then F48.zero
    else
      let (r, e) := if 32767 < x then (2 ^ 48 - 1, (32720 : Int)) else (r, e)
      ⟨if neg then -(r : Int) else r, e⟩

/-- The rational `n / d × 2^e` in the format. -/
def f48OfRat (n : Int) (d : Nat) (e : Int) : F48 :=
  let a := n.natAbs
  if a = 0 ∨ d = 0 then F48.zero
  else
    let s : Int := 52 + (d.log2 : Int) - (a.log2 : Int)
    let (p, q) := if 0 ≤ s then (a * 2 ^ s.toNat, d) else (a, d * 2 ^ (-s).toNat)
    f48Pack (decide (n < 0)) (p / q) (e - s) (decide (p % q ≠ 0))

/-- An integer in the format. -/
def f48OfInt (n : Int) : F48 := f48OfRat n 1 0

/-- A Q16.16 code in the format. -/
def f48OfQ16 (w : Word) : F48 := f48OfRat w.toInt 1 (-16)

/-- Sum. -/
def F48.add (a b : F48) : F48 :=
  if a.m = 0 then b
  else if b.m = 0 then a
  else
    let e := min a.e b.e
    f48OfRat (a.m * 2 ^ (a.e - e).toNat + b.m * 2 ^ (b.e - e).toNat) 1 e

/-- Negation. -/
def F48.neg (a : F48) : F48 := ⟨-a.m, a.e⟩

/-- Difference. -/
def F48.sub (a b : F48) : F48 := a.add b.neg

/-- Product. -/
def F48.mul (a b : F48) : F48 := f48OfRat (a.m * b.m) 1 (a.e + b.e)

/-- Quotient; division by 0 gives 0, which no computation of the spec performs. -/
def F48.div (a b : F48) : F48 :=
  if b.m = 0 then F48.zero
  else f48OfRat (if b.m < 0 then -a.m else a.m) b.m.natAbs (a.e - b.e)

/-- Comparison a < b. -/
def F48.lt (a b : F48) : Bool :=
  let e := min a.e b.e
  decide (a.m * 2 ^ (a.e - e).toNat < b.m * 2 ^ (b.e - e).toNat)

/-- Comparison a ≤ b. -/
def F48.le (a b : F48) : Bool := !b.lt a

/-- Integer square root by bisection on the bits. -/
def isqrtBits (n : Nat) : Nat → Nat → Nat
  | 0, r => r
  | k + 1, r => let c := r + 2 ^ k; isqrtBits n k (if c * c ≤ n then c else r)

/-- Integer square root, rounded down. -/
def isqrt (n : Nat) : Nat := isqrtBits n (n.log2 / 2 + 1) 0

/-- Integer cube root by bisection on the bits. -/
def icbrtBits (n : Nat) : Nat → Nat → Nat
  | 0, r => r
  | k + 1, r => let c := r + 2 ^ k; icbrtBits n k (if c * c * c ≤ n then c else r)

/-- Integer cube root, rounded down. -/
def icbrt (n : Nat) : Nat := icbrtBits n (n.log2 / 3 + 1) 0

/-- Square root; 0 for a negative argument, which no computation of the spec takes. -/
def F48.sqrt (a : F48) : F48 :=
  if a.m ≤ 0 then F48.zero
  else
    let odd := a.e % 2 ≠ 0
    let n := a.m.toNat * 2 ^ (if odd then 61 else 60)
    let e := (a.e - (if odd then 61 else 60)) / 2
    let r := isqrt n
    f48Pack false r e (decide (r * r ≠ n))

/-- Cube root. -/
def F48.cbrt (a : F48) : F48 :=
  if a.m = 0 then F48.zero
  else
    let k := (a.e % 3).toNat
    let n := a.m.natAbs * 2 ^ (120 + k)
    let e := (a.e - (120 + k)) / 3
    let r := icbrt n
    f48Pack (decide (a.m < 0)) r e (decide (r * r * r ≠ n))

/-- Terms of the exponential series at 2^−256 resolution: sum of `x^k / k!` for the scaled argument `x / 2^256`. -/
def expTerms (x : Int) : Nat → Nat → Int → Int → Int
  | 0, _, _, acc => acc
  | n + 1, k, term, acc =>
    let t := term * x / (2 ^ 256 * (k : Int))
    expTerms x n (k + 1) t (acc + t)

/-- ln 2 × 2^256, rounded down. -/
def ln2Scaled : Int := 80260960185991308862233904206310070533990667611589946606122867505419956976171

/-- The exponential, rounded once to the format (log entry 12). -/
def F48.exp (a : F48) : F48 :=
  if F48.lt a (f48OfInt (-22713)) then F48.zero
  else
    let x : Int := if 0 ≤ a.e then a.m * 2 ^ (a.e.toNat + 256) else
      (if a.e < -400 then 0 else a.m * 2 ^ 256 / 2 ^ (-a.e).toNat)
    let k := x / ln2Scaled
    let r := x - k * ln2Scaled
    let s := expTerms r 64 1 (2 ^ 256) (2 ^ 256)
    f48Pack false s.toNat (k - 256) true

/-- A number of the format as the exact product `m × 2^s` for a shift `s`, rounded to nearest with ties away from 0. -/
def F48.toFixed (a : F48) (s : Int) : Int :=
  let e := a.e + s
  if 0 ≤ e then a.m * 2 ^ e.toNat
  else if e < -100 then 0
  else divAway a.m (2 ^ (-e).toNat)

/-- The nearest Q16.16 code, saturated, and whether it saturated (R115). -/
def F48.toQ16 (a : F48) : Int × Bool :=
  if 40 < a.e then (if a.m < 0 then -2147483648 else 2147483647, true) else sat32 (a.toFixed 16)

/-- Larger of two numbers. -/
def F48.max (a b : F48) : F48 := if a.lt b then b else a

/-- Smaller of two numbers. -/
def F48.min (a b : F48) : F48 := if b.lt a then b else a

end Sys2Proof.Machine
end

