-- ==== Sys2Proof/Machine/SensePort.lean ====
section
/-!
DEFINITION. The sense pages' registers and records (chapters 3 and 4): result records and their checks, what the registers
read, the checks of register writes, the coefficient window, and the repeater page's checks.
-/
namespace Sys2Proof.Machine

/-! ### Units -/

/-- A channel's state. -/
def snsCh (s : State) (c : Nat) : SnsCh := tabGet (fun _ => SnsCh.idle) s.sns.chs c

/-- Puts a channel's state. -/
def putCh (c : Nat) (v : SnsCh) (s : State) : State :=
  { s with sns := { s.sns with chs := tabSet (fun _ => SnsCh.idle) s.sns.chs c v } }

/-- A bank's state. -/
def snsBank (s : State) (b : Nat) : SnsBank := tabGet (fun _ => SnsBank.idle) s.sns.banks b

/-- Puts a bank's state. -/
def putBank (b : Nat) (v : SnsBank) (s : State) : State :=
  { s with sns := { s.sns with banks := tabSet (fun _ => SnsBank.idle) s.sns.banks b v } }

/-- Episode state of a location. -/
def snsLoc (s : State) (l : Nat) : SnsLoc := tabGet (fun _ => SnsLoc.idle) s.sns.locs l

/-- Puts the episode state of a location. -/
def putLoc (l : Nat) (v : SnsLoc) (s : State) : State :=
  { s with sns := { s.sns with locs := tabSet (fun _ => SnsLoc.idle) s.sns.locs l v } }

/-- Page of a channel (R67). -/
def snsPage (c : Nat) : Nat := 0x10 + c / 16

/-- Whether a bank scans points: MUX_EN of its local bank. -/
def muxEn (b : Nat) (s : State) : Bool := getB SNS.BK_MUX_MUX_EN (0x10 + b / 2) (b % 2) s

/-- The effective rate code of a channel (R85), with a RATE and a MUX setting given. -/
def effRate (mux : Bool) (muxRate rate : Nat) : Nat := if mux then muxRate else rate

/-- The effective rate code in force (R85). -/
def rateOf (c : Nat) (s : State) : Nat :=
  let b := c / 8
  effRate (muxEn b s) (getF SNS.BK_MUX_MUX_RATE (0x10 + b / 2) (b % 2) s) (getF SNS.CH_CFG_RATE (snsPage c) (c % 16) s)

/-! ### Records -/

/-- A record of the result RAM (R105). -/
def snsRec (s : State) (loc : Nat) : SnsRec := tabGet (fun _ => SnsRec.none) s.sns.recs loc

/-- Puts a record. -/
def putRec (loc : Nat) (r : SnsRec) (s : State) : State :=
  { s with sns := { s.sns with recs := tabSet (fun _ => SnsRec.none) s.sns.recs loc r } }

/-- STAMP of a record: its production tick, or for a record that never existed one tick ahead of the count (R110). -/
def recStamp (s : State) (r : SnsRec) : Nat :=
  match r.tick with
  | some t => t % 65536
  | none => (s.time.tick + 1) % 65536

/-- The CRC-8 of R106 over location, VALUE, STATUS and STAMP. -/
def recCrc (loc : Nat) (value : Word) (status stamp : Nat) : Nat :=
  crc8 (bytesOf 2 loc ++ bytesOf 4 value.toNat ++ [status] ++ bytesOf 2 stamp)

/-- The CRC field of a record as it stands (R110 for one that never existed). -/
def recCrcNow (s : State) (loc : Nat) (r : SnsRec) : Nat :=
  match r.tick with
  | some _ => r.crc
  | none => recCrc loc r.value r.status (recStamp s r)

/-- Whether a record passes its CRC-8 (R111). -/
def recOk (s : State) (loc : Nat) : Bool :=
  let r := snsRec s loc
  decide (recCrcNow s loc r = recCrc loc r.value r.status (recStamp s r))

/-- The second word of a record: STATUS, STAMP, CRC. -/
def recMeta (s : State) (loc : Nat) : Word :=
  let r := snsRec s loc
  ofN (r.status * 16777216 + recStamp s r * 256 + recCrcNow s loc r)

/-- A reader's verification: one message for each failing record until a new one lands (R111). -/
def verifyRec (loc : Nat) (s : State) : State :=
  let r := snsRec s loc
  if recOk s loc || r.reported then s
  else raise (snsPage (loc / 16)) 0x10 kSnsResultCrc loc (putRec loc { r with reported := true } s)

/-- Sets status bits on a record in place under the overlapping-check rule; a record that fails its check stays (R108). -/
def markRec (loc bits : Nat) (s : State) : State :=
  let r := snsRec s loc
  let st := r.status ||| bits
  if recOk s loc then
    putRec loc { r with
      status := st
      crc := match r.tick with
        | some t => recCrc loc r.value st (t % 65536)
        | none => 0 } s
  else verifyRec loc s

/-- Lands a new record (R108). -/
def landRec (loc : Nat) (value : Word) (status : Nat) (s : State) : State :=
  putRec loc ⟨value, status, some s.time.tick, recCrc loc value status (s.time.tick % 65536), false⟩ s

/-- The location that RESi shows: the record of the channel, in mux mode of the last point published (R121). -/
def resLoc (c : Nat) (s : State) : Nat := c * 16 + (if muxEn (c / 8) s then (snsCh s c).lastPt else 0)

/-- The location that a party's PTSEL selects, and whether it names a point that does not exist (R122). -/
def ptLoc (party : Party) (p : Nat) (s : State) : Nat × Bool :=
  let w := rdParty party (pageAddr p 0x300) s
  let c := (p - 0x10) * 16 + bitsOf w 7 4
  let q := bitsOf w 3 0
  (c * 16 + q, !muxEn (c / 8) s && decide (q ≠ 0))

/-- The words of the never-existed record of a location (R110, R122). -/
def neverWords (s : State) (loc : Nat) : Word × Word :=
  let st := (s.time.tick + 1) % 65536
  (0, ofN (0x80 * 16777216 + st * 256 + recCrc loc 0 0x80 st))

/-- Whether a published output of an enabled channel of the page is stale (R49). -/
def snsStale (p : Nat) (s : State) : Bool :=
  (List.range 16).any fun i =>
    let c := (p - 0x10) * 16 + i
    getB SNS.CH_CFG_EN p i s &&
      if muxEn (c / 8) s then
        (List.range 16).any fun q =>
          bitAt (getF SNS.BK_PTS_MASK p (i / 8) s) q && bitAt (snsRec s (c * 16 + q)).status 7
      else bitAt (snsRec s (c * 16)).status 7

/-! ### Cold junctions -/

/-- BKl_CJT: the mean of the last 64 readings, nearest code (R132). -/
def cjtOf (b : Nat) (s : State) : Int :=
  let l := (snsBank s b).cj
  if l = [] then 0 else divAway (l.foldl (· + ·) 0) l.length

/-! ### Linearisation -/

/-- A coefficient word as a number: M × 2^E (R117). -/
def coefNum (w : Word) : F48 := f48OfRat (signed 24 (bitsOf w 31 8)) 1 (signed 8 (bitsOf w 7 0))

/-- Numerator and binary exponent of the input quantity in mV or mA, to be divided by 2 500 000 where the bank reference
scales FS (R69, R70, R112). -/
def inputNum (raw : Int) (range : Nat) (refUv : Int) (refSel : Bool) : Int × Nat × Int :=
  if range = 10 then (raw * 25, 1, -23)
  else if refSel then (raw * 10000 * refUv, 2500000, -23 - (range : Int))
  else (raw * 10000, 1, -23 - (range : Int))

/-- The polynomial of R113 over a coefficient set, in the order written, each step rounded (R114). -/
def linPoly (coef : Nat → Word) (x t : F48) : F48 :=
  let a (i : Nat) := coefNum (coef (1 + i))
  let b (i : Nat) := coefNum (coef (6 + i))
  let p := (((((b 3).mul t).add (b 2)).mul t).add (b 1)).mul t
  let horner (z : F48) :=
    (((((((((a 5).mul z).add (a 4)).mul z).add (a 3)).mul z).add (a 2)).mul z).add (a 1)).mul z |>.add (a 0)
  let form := bitsOf (coef 0) 1 0
  if form = 0 then (horner x).add p
  else if form = 1 then horner (x.add p)
  else (horner x).mul ((f48OfInt 1).add p)

/-- The Q16.16 code of the input quantity itself, exact before its one rounding (R112, R115). -/
def inputQ16 (n : Int) (d : Nat) (e : Int) : Int × Bool :=
  sat32 (if 0 ≤ e + 16 then divAway (n * 2 ^ (e + 16).toNat) d else divAway n (d * 2 ^ (-(e + 16)).toNat))

/-- Value, CLIP and TEMP of a conversion of channel `c` (R112 to R120). Where the bank's reference scales FS, it is VREFP − VREFN of the
conversion's last frame, in the positive half-cycle (log entry 93). -/
def linearise (c : Nat) (raw : Int) (range : Nat) (s : State) : Int × Bool × Bool :=
  let p := snsPage c
  let i := c % 16
  let (n, d, e) := inputNum raw range (snsBank s (c / 8)).refUv (getB SNS.CH_CFG_REF_SEL p i s)
  let tsrc := getF SNS.CH_LIN_TSRC p i s
  let srcLoc := getF SNS.CH_LIN_TCH p i s * 16 + getF SNS.CH_LIN_TPT p i s
  let t : F48 :=
    if tsrc = 1 then f48OfRat (cjtOf (c / 8) s) 1 (-16)
    else if tsrc = 2 then f48OfQ16 (snsRec s srcLoc).value else F48.zero
  let doubt :=
    if tsrc = 1 then (snsBank s (c / 8)).cjEp
    else if tsrc = 2 then !recOk s srcLoc || decide ((snsRec s srcLoc).status &&& 0xBB ≠ 0) else false
  if getB SNS.CH_LIN_LIN_EN p i s then
    let set := getF SNS.CH_LIN_SET p i s
    let y := linPoly (fun w => getAct p 0 (set * 16 + w) s) (f48OfRat n d e) t
    let (v, clip) := y.toQ16
    (v, clip, doubt)
  else
    let (v, clip) := inputQ16 n d e
    (v, clip, doubt)

/-! ### Coefficient window -/

/-- The word index that COEF_ADDR selects: set × 16 + word. -/
def coefIx (p : Nat) (s : State) : Nat := getW SNS.COEF_ADDR_SET p 0 s * 16 + getW SNS.COEF_ADDR_WORD p 0 s

/-- What COEF_DATA reads: the shadow copy, or the active copy with VIEW = 1 (R118). -/
def coefRead (p : Nat) (s : State) : Word :=
  if getB SNS.COEF_ADDR_VIEW p 0 s then getAct p 0 (coefIx p s) s else getShd p 0 (coefIx p s) s

/-- Writes COEF_DATA: refused with VIEW = 1, FORM 3 or a reserved word that is not 0 (R116, R118). -/
def coefWrite (cx : WriteCx) (s : State) : WrOut :=
  let p := cx.page
  let w := getW SNS.COEF_ADDR_WORD p 0 s
  let bad := getB SNS.COEF_ADDR_VIEW p 0 s || !pageOwns p cx.party s
    || (decide (w = 0) && decide (cxBits cx 1 0 = 3)) || (decide (12 ≤ w) && decide (cx.data ≠ 0))
  if bad then .refuse
  else .ok (setShd p 0 (coefIx p s) (if w = 0 then ofN (cxBits cx 1 0) else cx.data) s)

/-- Advances WORD after an access to COEF_DATA with AINC = 1 (R504). -/
def coefAdvance (p : Nat) (s : State) : State :=
  if getB SNS.COEF_ADDR_AINC p 0 s then incMod SNS.COEF_ADDR_WORD p 0 s else s

/-! ### Register writes -/

/-- Whether a write leaves a channel with NOTCH_EN = 1 and an effective rate code below 7 (R85). -/
def notchBad (notch mux : Bool) (muxRate rate : Nat) : Bool := notch && decide (effRate mux muxRate rate < 7)

/-- The effective rate code as last written: TONE_EN takes effect at the boundary at which it does (R42, R126). -/
def rateWritten (p i : Nat) (s : State) : Nat :=
  effRate (decide (getW SNS.BK_MUX_MUX_EN p (i / 8) s = 1)) (getW SNS.BK_MUX_MUX_RATE p (i / 8) s) (getW SNS.CH_CFG_RATE p i s)

/-- The checks and effects of a write to a sense page's block registers. A RANGE write is held against WIDE and NARROW as written, and
against AUTO as in force (log entry 94). -/
def snsWrite (cx : WriteCx) (s : State) : WrOut :=
  let p := cx.page
  let off := cx.off
  let i := cx.unit
  if off < 0x200 then
    let c := (p - 0x10) * 16 + i
    let b := i / 8
    if off % 0x10 = 0 then
      storeUnless (cxOutside cx 11 8 0 10 || cxOutside cx 23 20 1 15
        || ((cxHas cx 4 || cxHas cx 8) && notchBad (decide (cxNew cx 4 4 = 1)) (getB SNS.BK_MUX_MUX_EN p b s)
            (getF SNS.BK_MUX_MUX_RATE p b s) (cxNew cx 11 8))) cx s
    else if off % 0x10 = 4 then
      let rangeW := cxHas cx 0
      let bad := (rangeW && decide (10 < cxBits cx 3 0))
        || (rangeW && getB SNS.CH_CFG_AUTO p i s
            && (decide (cxBits cx 3 0 < cxNew cx 11 8) || decide (cxNew cx 19 16 < cxBits cx 3 0)))
        || ((cxHas cx 8 || cxHas cx 16)
            && (decide (9 < cxNew cx 11 8) || decide (9 < cxNew cx 19 16) || decide (cxNew cx 19 16 < cxNew cx 11 8)))
      if bad then .refuse
      else
        let s := storeFields cx s
        .ok (if rangeW then putCh c { snsCh s c with req := some (cxBits cx 3 0, usNow s) } s else s)
    else .ok (storeFields cx s)
  else if off < 0x220 then storeUnless (cxOutside cx 1 0 0 2 || cxOutside cx 6 4 0 6) cx s
  else if 0x240 ≤ off ∧ off < 0x280 then
    if off % 0x20 = 0 then
      let clash := (List.range 8).any fun j =>
        notchBad (decide (getW SNS.CH_CFG_NOTCH_EN p (8 * i + j) s = 1)) (decide (cxNew cx 0 0 = 1)) (cxNew cx 11 8)
          (getW SNS.CH_CFG_RATE p (8 * i + j) s)
      storeUnless (cxOutside cx 20 16 1 16 || cxOutside cx 11 8 0 10 || ((cxHas cx 0 || cxHas cx 8) && clash)) cx s
    else if off % 0x20 = 4 then storeUnless (cxOutside cx 15 0 1 0xFFFF) cx s
    else .ok (storeFields cx s)
  else if 0x320 ≤ off ∧ off < 0x360 then
    storeUnless (cxOutside cx 13 12 0 2 || cxOutside cx 21 16 0 47
      || ((cxHas cx 12 || cxHas cx 16) && decide (cxNew cx 13 12 = 2 ∧ cxNew cx 21 16 = (p - 0x10) * 16 + i))) cx s
  else if 0x360 ≤ off ∧ off < 0x3A0 then
    storeUnless (cxOutside cx 5 4 0 2
      || (cxHas cx 0 && decide (cxBits cx 0 0 = 1) && decide (rateWritten p i s = 0))) cx s
  else if off = 0x3F4 then coefWrite cx s
  else .ok (storeFields cx s)

/-- CTRL.SEQ_RESTART: refused if neither bank has MUX_EN = 1 (R102). -/
def snsCtrl (cx : WriteCx) (s : State) : WrOut :=
  let b0 := (cx.page - 0x10) * 2
  if cxHas cx 16 then
    if muxEn b0 s || muxEn (b0 + 1) s then
      let mark (b : Nat) (s : State) : State := if muxEn b s then putBank b { snsBank s b with restart := true } s else s
      .ok (mark (b0 + 1) (mark b0 s))
    else .refuse
  else .ok s

/-! ### Register reads -/

/-- What a sense page's registers read where they show computed state; none where the stored word stands. -/
def snsRead (party : Party) (p off : Nat) (s : State) : Option Word :=
  if 0x100 ≤ off ∧ off < 0x200 ∧ off % 0x10 = 8 then
    let c := (p - 0x10) * 16 + (off - 0x100) / 0x10
    let ch := snsCh s c
    let w := rdReg s (pageAddr p off)
    some (setBits (setBits w 31 16 (satN 0xFFFF (ch.settleEnd - s.time.ticks))) 7 4 ch.range)
  else if 0x280 ≤ off ∧ off < 0x300 then
    let loc := resLoc ((p - 0x10) * 16 + (off - 0x280) / 8) s
    some (if off % 8 = 0 then (snsRec s loc).value else recMeta s loc)
  else if off = 0x304 ∨ off = 0x308 then
    let (loc, never) := ptLoc party p s
    let words := if never then neverWords s loc else ((snsRec s loc).value, recMeta s loc)
    some (if off = 0x304 then words.1 else words.2)
  else if off = 0x310 ∨ off = 0x314 then some (ofI (cjtOf ((p - 0x10) * 2 + (off - 0x310) / 4) s))
  else if 0x360 ≤ off ∧ off < 0x3A0 then
    let c := (p - 0x10) * 16 + (off - 0x360) / 4
    let b := snsBank s (c / 8)
    let l := snsLoc s (c * 16 + (if muxEn (c / 8) s then b.point else 0))
    let w := rdReg s (pageAddr p off)
    some (setBits w 12 10 (b2n l.cmEp * 4 + b2n l.degEp * 2 + b2n l.brkEp))
  else if off = 0x3F4 then some (coefRead p s)
  else none

/-- The hold that a read of RESi_VAL or PT_VAL makes (R121, R122). -/
def snsReadHold (party : Party) (p off : Nat) (s : State) : State :=
  if (0x280 ≤ off ∧ off < 0x300 ∧ off % 8 = 0) ∨ off = 0x304 then
    match snsRead party p (off + 4) s with
    | some m => makeHold party [(pageAddr p (off + 4), m)] (.onPage p) true s
    | none => s
  else s

/-! ### Repeater page -/

/-- A repeater output's state. -/
def rptOut (s : State) (n : Nat) : RptOut := tabGet (fun _ => RptOut.idle) s.rpt n

/-- Puts a repeater output's state. -/
def putRpt (n : Nat) (v : RptOut) (s : State) : State :=
  { s with rpt := tabSet (fun _ => RptOut.idle) s.rpt n v }

/-- Greatest and least output value of a mode: mHz for MODE 1, 0.01 % for MODE 2 (R135). -/
def rptLimits (mode : Nat) : Nat × Nat := if mode = 2 then (0, 10000) else (1000, 10000000)

/-- Whether edges come on an output: a frequency, or a duty between 0 and 100 % (R135). -/
def rptEdges (n : Nat) (s : State) : Bool :=
  let out := getF RPT.OUT_STAT_OUT 0x38 n s
  decide (0 < out) && !(decide (getF RPT.OUT_CFG_MODE 0x38 n s = 2) && decide (10000 ≤ out))

/-- The value waiting for a period start that has come, and that instant (R135). -/
def rptDue (n : Nat) (s : State) : Option ((Nat × Bool) × Nat) :=
  let r := rptOut s n
  match r.next, r.start with
  | some v, some t =>
    let at_ := t + getF RPT.OUT_PERIOD_PERIOD 0x38 n s
    if !rptEdges n s && decide (at_ ≤ usNow s) then some (v, at_) else none
  | _, _ => none

/-- What the RPT page's registers read where they show computed state: OUT and FB of a value whose period start has come. -/
def rptRead (off : Nat) (s : State) : Option Word :=
  if 0x100 ≤ off ∧ off < 0x180 ∧ (off - 0x100) % 0x20 = 0x1C then
    let n := (off - 0x100) / 0x20
    (rptDue n s).map fun (v, _) =>
      setBits (setBits (rdReg s (pageAddr 0x38 off)) 30 30 (b2n v.2)) 23 0 (satN 0xFFFFFF v.1)
  else none

/-- The checks of a write to the RPT page (R134, R135, R138). A limit is checked for the mode last written. -/
def rptWrite (cx : WriteCx) (s : State) : WrOut :=
  let n := cx.unit
  let k := (cx.off - 0x100) % 0x20
  let (lo, hi) := rptLimits (getW RPT.OUT_CFG_MODE cx.page n s)
  if k = 0 then storeUnless (cxOutside cx 1 0 0 2 || cxOutside cx 21 16 0 47) cx s
  else if k = 4 then storeUnless (cxHas cx 0 && decide (cx.data.toNat = getW RPT.OUT_VHI_V cx.page n s)) cx s
  else if k = 8 then storeUnless (cxHas cx 0 && decide (cx.data.toNat = getW RPT.OUT_VLO_V cx.page n s)) cx s
  else if k = 0xC ∨ k = 0x10 ∨ k = 0x14 then
    storeUnless (if getW RPT.OUT_CFG_MODE cx.page n s = 0 then cxOutside cx 31 0 0 10000000 else cxOutside cx 31 0 lo hi) cx s
  else if k = 0x18 then storeUnless (cxOutside cx 19 0 100 1000000) cx s
  else .ok (storeFields cx s)

end Sys2Proof.Machine
end

