-- ==== Sys2Proof/Machine/MoiPort.lean ====
section
/-!
DEFINITION. The moisture page's registers and records (chapter 5): records and their check, the consistency check of R160,
the table window, what the registers read, and the checks of register writes.
-/
namespace Sys2Proof.Machine

/-- Page index of MOI. -/
def moiPg : Nat := 0x14

/-- A channel's state. -/
def moiCh (s : State) (m : Nat) : MoiCh := tabGet (fun _ => MoiCh.idle) s.moi.chs m

/-- Puts a channel's state. -/
def putMoi (m : Nat) (v : MoiCh) (s : State) : State :=
  { s with moi := { s.moi with chs := tabSet (fun _ => MoiCh.idle) s.moi.chs m v } }

/-! ### Records -/

/-- STAMP of a record (R161, R163). -/
def moiStamp (s : State) (r : MoiRec) : Nat :=
  match r.tick with
  | some t => t % 65536
  | none => (s.time.tick + 1) % 65536

/-- The CRC-8 over the 28 bytes of R161. -/
def moiCrc (m : Nat) (r : MoiRec) (stamp : Nat) : Nat :=
  crc8 ([m] ++ wordBytes r.words ++ [r.status] ++ bytesOf 2 stamp)

/-- The CRC field of a record as it stands. -/
def moiCrcNow (s : State) (m : Nat) : Nat :=
  let r := (moiCh s m).recd
  match r.tick with
  | some _ => r.crc
  | none => moiCrc m r (moiStamp s r)

/-- Whether a record passes its CRC-8. -/
def moiOk (s : State) (m : Nat) : Bool :=
  let r := (moiCh s m).recd
  decide (moiCrcNow s m = moiCrc m r (moiStamp s r))

/-- The META word of a record. -/
def moiMeta (s : State) (m : Nat) : Word :=
  let r := (moiCh s m).recd
  ofN (r.status * 16777216 + moiStamp s r * 256 + moiCrcNow s m)

/-- Word `k` of a record, 6 for META. -/
def moiWord (s : State) (m k : Nat) : Word := if k = 6 then moiMeta s m else nthW (moiCh s m).recd.words k

/-- A reader's verification: one message for each failing record until a new one is published (R111, R164). -/
def verifyMoi (m : Nat) (s : State) : State :=
  let c := moiCh s m
  if moiOk s m || c.recd.reported then s
  else raise moiPg 0x02 kMoiResultCrc m (putMoi m { c with recd := { c.recd with reported := true } } s)

/-- Sets STALE under the overlapping-check rule; a record that fails its check stays (R108, R163). -/
def staleMoi (m : Nat) (s : State) : State :=
  let c := moiCh s m
  let r := { c.recd with status := c.recd.status ||| 0x80 }
  if moiOk s m then
    putMoi m { c with recd := { r with
      crc := match r.tick with
        | some t => moiCrc m r (t % 65536)
        | none => 0 } } s
  else verifyMoi m s

/-- Whether the record of an enabled channel is stale (R49). -/
def moiStale (s : State) : Bool :=
  (List.range 8).any fun m => getB MOI.CH_CFG_EN moiPg m s && bitAt (moiCh s m).recd.status 7

/-! ### Programmes and the consistency check -/

/-- The active points of a programme of 32 words, in ascending order (R142). -/
def activePoints (prog : List Word) : List Nat := (List.range 16).filter fun q => bitsOf (nthW prog (2 * q)) 31 31 = 1

/-- FREQ of a point in kHz. -/
def pointFreq (prog : List Word) (q : Nat) : Nat := bitsOf (nthW prog (2 * q)) 15 0

/-- SETTLE + INT of a point in µs. -/
def pointUs (prog : List Word) (q : Nat) : Nat :=
  bitsOf (nthW prog (2 * q + 1)) 7 0 + bitsOf (nthW prog (2 * q + 1)) 27 16

/-- The nominal sweep length L in µs (R143). -/
def sweepLen (prog : List Word) : Nat := (activePoints prog).foldl (fun a q => a + pointUs prog q) 5

/-- The sweep window W in µs (R144). -/
def sweepWindow (period : Nat) : Nat := (period - 1) * 125 + 100

/-- The words of an area of the set, from a reader of one copy. -/
def areaWords (get : Nat → Nat → Word) (area base n : Nat) : List Word := (List.range n).map fun i => get area (base + i)

/-- The cause by which channel `m` breaks R160 with a CFG word and a copy of the set; none where it is consistent. -/
def moiCause (m : Nat) (cfg : Word) (get : Nat → Nat → Word) : Option Nat :=
  let prog := areaWords get 1 (m * 32) 32
  let t := bitsOf cfg 12 8 * 32
  let hasFreq (f : Word) : Bool := (activePoints prog).any fun q => pointFreq prog q = f.toNat
  if bitsOf cfg 0 0 = 0 then none
  else if activePoints prog = [] then some 6
  else if bitsOf (get 0 t) 0 0 = 0 then some 1
  else if !hasFreq (get 0 (t + 1)) then some 2
  else if !hasFreq (get 0 (t + 2)) then some 3
  else if sweepWindow (bitsOf cfg 29 16) < sweepLen prog then some 4
  else none

/-- The copy of the set that will be in force at the next boundary: the shadow copy with a swap pending. -/
def moiNextSet (swap : Bool) (s : State) (area w : Nat) : Word :=
  if swap then getShd moiPg area w s else getAct moiPg area w s

/-- SWAP_CHK records a refusal under R160. -/
def swapChk (m cause : Nat) (s : State) : State :=
  setF MOI.SWAP_CHK_CAUSE moiPg 0 cause (setF MOI.SWAP_CHK_CH moiPg 0 m (setB MOI.SWAP_CHK_VALID moiPg 0 true s))

/-- The first channel whose combination breaks R160, with its cause. -/
def moiBroken (swap : Bool) (s : State) : Option (Nat × Nat) :=
  (List.range 8).findSome? fun m =>
    (moiCause m (rdReg s (pageAddr moiPg (0x100 + 0x20 * m))) (moiNextSet swap s)).map fun c => (m, c)

/-- The check of a SWAP_REQ (R153, R160): refused while a calibration runs or where it would break a channel. -/
def moiSwapCheck (s : State) : WrOut :=
  match s.moi.cal, moiBroken true s with
  | some c, _ => .refuseTo (swapChk c.ch 5 s)
  | none, some (m, c) => .refuseTo (swapChk m c s)
  | none, none => .ok s

/-- The swap of the set at step 2 (R158); marks the channels whose calibration it changes (R165). -/
def moiSwap (s : State) : State :=
  let fresh (m : Nat) : Bool := (List.range 32).any fun i => getAct moiPg 2 (m * 32 + i) s ≠ getShd moiPg 2 (m * 32 + i) s
  let s := forN 8 (fun m a => if fresh m then putMoi m { moiCh a m with calNew := true } a else a) s
  takeAreas moiPg 0 3 s

/-! ### Table window -/

/-- Words of an area. -/
def moiAreaLen (area : Nat) : Nat := if area = 0 then 1024 else 256

/-- What TBL_DATA reads (R149, R158). -/
def tblRead (s : State) : Word :=
  let area := getW MOI.TBL_ADDR_AREA moiPg 0 s
  let w := getW MOI.TBL_ADDR_WORD moiPg 0 s
  if area = 3 then
    let r := tabGet (fun _ => ((0x80000000 : Word), (0x80000000 : Word))) (moiCh s (w / 32)).reads (w % 32 / 2)
    if w % 2 = 0 then r.1 else r.2
  else if getB MOI.TBL_ADDR_VIEW moiPg 0 s then getAct moiPg area w s else getShd moiPg area w s

/-- Whether a word breaks the format or the range of a grain table word (R157). -/
def grainBad (get : Nat → Word) (w : Nat) (v : Word) : Bool :=
  if w = 1 ∨ w = 2 then decide (v.toNat < 500 ∨ 50000 < v.toNat)
  else if w = 10 then decide ((get 11).toInt ≤ v.toInt)
  else if w = 11 then decide (v.toInt ≤ (get 10).toInt)
  else if w = 12 then decide (v.toInt < 0 ∨ (get 13).toInt ≤ v.toInt)
  else if w = 13 then decide (v.toInt ≤ (get 12).toInt)
  else decide (18 ≤ w ∧ v ≠ 0)

/-- Whether a word breaks R142: ranges, reserved bits, and equal FREQ of two active points. -/
def progBad (prog : List Word) (w : Nat) (v : Word) : Bool :=
  if w % 2 = 0 then
    decide (bitsOf v 30 18 ≠ 0 ∨ bitsOf v 15 0 < 500 ∨ 50000 < bitsOf v 15 0)
      || (decide (bitsOf v 31 31 = 1)
        && (activePoints prog).any fun q => decide (q ≠ w / 2 ∧ pointFreq prog q = bitsOf v 15 0))
  else
    decide (bitsOf v 31 28 ≠ 0 ∨ bitsOf v 15 8 ≠ 0 ∨ bitsOf v 27 16 < 10 ∨ 4000 < bitsOf v 27 16 ∨ bitsOf v 7 0 < 2)

/-- A write of TBL_DATA. -/
def tblWrite (cx : WriteCx) (s : State) : WrOut :=
  let area := getW MOI.TBL_ADDR_AREA moiPg 0 s
  let w := getW MOI.TBL_ADDR_WORD moiPg 0 s
  let shd (i : Nat) : Word := getShd moiPg area i s
  let bad := getB MOI.TBL_ADDR_VIEW moiPg 0 s || decide (area = 3) || getB CMN.STAT_SWAP_PEND moiPg 0 s
    || !pageOwns moiPg cx.party s
    || (decide (area = 0) && grainBad (fun i => shd (w / 32 * 32 + i)) (w % 32) cx.data)
    || (decide (area = 1) && progBad ((List.range 32).map fun i => shd (w / 32 * 32 + i)) (w % 32) cx.data)
  let v := if area = 0 ∧ w % 32 = 0 then cx.data &&& 0xFF01 else cx.data
  if bad then .refuse else .ok (setShd moiPg area w v s)

/-- Advances WORD after an access to TBL_DATA with AINC = 1, wrapping within the area (R504). -/
def tblAdvance (s : State) : State :=
  if getB MOI.TBL_ADDR_AINC moiPg 0 s then
    setF MOI.TBL_ADDR_WORD moiPg 0
      ((getW MOI.TBL_ADDR_WORD moiPg 0 s + 1) % moiAreaLen (getW MOI.TBL_ADDR_AREA moiPg 0 s)) s
  else s

/-! ### Calibration -/

/-- Ends a running calibration with a RESULT code (R152, R153). -/
def endCal (result : Nat) (s : State) : State :=
  match s.moi.cal with
  | none => s
  | some c =>
    let s := { s with moi := { s.moi with cal := none } }
    let s := setF MOI.CAL_STAT_RESULT moiPg 0 result (setB MOI.CAL_STAT_BUSY moiPg 0 false s)
    setIrq moiPg 16 (setB MOI.STAT_CAL_BUSY moiPg 0 false (setB MOI.CH_STAT_CAL moiPg c.ch false s))

/-- A write of CAL_CTRL (R152, R153). SWAP_CHK records a start that R160 refuses. An abort with no calibration running changes nothing. -/
def calWrite (cx : WriteCx) (s : State) : WrOut :=
  let cmd := cxBits cx 1 0
  let ch := cxNew cx 10 8
  let busy := s.moi.cal.isSome
  let startBad := decide (cmd = 1) && (busy || getB CMN.STAT_SWAP_PEND moiPg 0 s || !running moiPg s
    || !getB MOI.CH_CFG_EN moiPg ch s)
  match decide (cmd = 1), moiBroken (getB CMN.STAT_SWAP_PEND moiPg 0 s) s with
  | true, some (m, c) => .refuseTo (swapChk m c s)
  | _, _ =>
  if cmd = 3 ∨ startBad ∨ cxOutside cx 21 16 1 63 ∨ (cxHas cx 8 && busy) then .refuse
  else
    let s := storeFields cx s
    if cmd = 1 then
      let navg := getW MOI.CAL_CTRL_NAVG moiPg 0 s
      let s := { s with moi := { s.moi with cal := some ⟨ch, navg, false, []⟩ } }
      let s := setF MOI.CAL_STAT_DONE_CNT moiPg 0 0 (setF MOI.CAL_STAT_CH moiPg 0 ch s)
      let s := setB MOI.CAL_STAT_BUSY moiPg 0 true (setF MOI.CAL_STAT_RESULT moiPg 0 0 s)
      .ok (setB MOI.STAT_CAL_BUSY moiPg 0 true (setB MOI.CH_STAT_CAL moiPg ch true s))
    else if cmd = 2 then .ok (endCal 4 s)
    else .ok s

/-! ### Register writes and reads -/

/-- The checks of a write to the MOI page's block registers. -/
def moiWrite (cx : WriteCx) (s : State) : WrOut :=
  let off := cx.off
  if off < 0x200 then
    let m := cx.unit
    let k := (off - 0x100) % 0x20
    if k = 0 then
      if cxOutside cx 29 16 160 8192 then .refuse
      else match moiCause m (cxMerged cx) (moiNextSet (getB CMN.STAT_SWAP_PEND moiPg 0 s) s) with
        | some c => .refuseTo (swapChk m c s)
        | none => .ok (storeFields cx s)
    else if k = 4 then storeUnless (cxOutside cx 21 16 0 47 || cxOutside cx 13 12 0 1) cx s
    else if k = 8 then
      storeUnless (cxOutside cx 31 24 1 255 || cxOutside cx 23 16 1 255 || cxOutside cx 15 8 1 255 || cxOutside cx 7 0 1 255)
        cx s
    else if k = 0xC then
      storeUnless (cxHas cx 0 && decide (cx.data.toInt < -5 * 65536 ∨ 5 * 65536 < cx.data.toInt)) cx s
    else if k = 0x10 then storeUnless (cxOutside cx 31 0 65536 (500 * 65536)) cx s
    else .ok (storeFields cx s)
  else if off = 0x300 then calWrite cx s
  else if off = 0x308 then storeUnless (cxOutside cx 15 0 1 65535) cx s
  else if off = 0x310 then
    storeUnless (decide (3 < cxNew cx 14 12)
      || ((cxHas cx 0 || cxHas cx 12) && decide (moiAreaLen (cxNew cx 14 12) ≤ cxNew cx 11 0))) cx s
  else if off = 0x314 then tblWrite cx s
  else .ok (storeFields cx s)

/-- The point of a programme in progress `us` after the first point began, and the µs at which it began. -/
def pointAt (prog : List Word) (us : Nat) : List Nat → Nat → Option (Nat × Nat)
  | [], _ => none
  | q :: qs, begun => if us < begun + pointUs prog q then some (q, begun) else pointAt prog us qs (begun + pointUs prog q)

/-- The µs from the start of a period to the present, or to the start of an unlock episode, which holds the sweep (R148). -/
def perUs (s : State) (p : MoiPeriod) : Nat := Nat.min (usNow s) (s.moi.unlock.getD (usNow s)) - p.start * 125

/-- The point that a channel's sweep is at: none between sweeps and in the 5 µs of a sweep's start (R143). -/
def moiPoint (m : Nat) (s : State) : Option Nat :=
  let c := moiCh s m
  match c.per with
  | some p => if c.sweep then (pointAt p.prog (perUs s p - 5 - c.shift) (activePoints p.prog) 0).map Prod.fst else none
  | none => none

/-- What MDRV[m] and MGRD[m] carry around 1.65 V (R140): nothing in the safe state, else the frequency in kHz and the peak amplitude of
MDRV in mV of the point in progress. -/
def moiDrive (m : Nat) (s : State) : Option (Nat × Nat) :=
  if s.pwr.standby then none
  else match (moiCh s m).per, moiPoint m s with
    | some p, some q => some (pointFreq p.prog q, 125 * 2 ^ bitsOf (nthW p.prog (2 * q)) 17 16)
    | _, _ => none

/-- What the MOI page's registers read where they show computed state. -/
def moiRead (off : Nat) (s : State) : Option Word :=
  if 0x114 ≤ off ∧ off < 0x200 ∧ (off - 0x114) % 0x20 = 0 then
    let m := (off - 0x114) / 0x20
    let c := moiCh s m
    let w := setBits (rdReg s (pageAddr moiPg off)) 15 12 ((moiPoint m s).getD 0)
    let w := setBits w 6 3 (b2n (tabGet (fun _ => 0) s.moi.clamp (m / 4) ≠ 0) * 8 + b2n c.overEp * 4 + b2n c.openEp * 2
      + b2n c.foulEp)
    some (setBits w 0 0 (b2n c.sweep))
  else if 0x200 ≤ off ∧ off < 0x300 ∧ off % 0x20 < 0x1C then some (moiWord s ((off - 0x200) / 0x20) (off % 0x20 / 4))
  else if off = 0x314 then some (tblRead s)
  else none

/-- The hold that a read of CHm_MOIST makes (R164). -/
def moiReadHold (party : Party) (off : Nat) (s : State) : State :=
  if 0x200 ≤ off ∧ off < 0x300 ∧ off % 0x20 = 0 then
    let m := (off - 0x200) / 0x20
    makeHold party ((List.range 6).map fun k => (pageAddr moiPg (off + 4 * (k + 1)), moiWord s m (k + 1)))
      (.onPage moiPg) false s
  else s

end Sys2Proof.Machine
end

