-- ==== Sys2Proof/Machine/Sources.lean ====
section
/-!
DEFINITION. Published values and source words (R46 to R49, R174 to R176): what a reader inside the device sees of a source.
-/
namespace Sys2Proof.Machine

/-- The published value of a source word of type 3 to 8. -/
def getPub (k : Nat) (s : State) : Pub := tabGet (fun _ => Pub.never) s.pubs k

/-- Puts a published value. -/
def putPub (k : Nat) (p : Pub) (s : State) : State := { s with pubs := tabSet (fun _ => Pub.never) s.pubs k p }

/-- Publishes a value with the present tick as its production tick (R46). -/
def publish (k : Nat) (v : Word) (s : State) : State := putPub k ⟨v, some s.time.tick, false, 0⟩ s

/-- Marks a published value stale (R48). -/
def stalePub (k : Nat) (s : State) : State := putPub k { getPub k s with stale := true } s

/-- Whether a source word has a defined type and an index in its range (R174); `q` is the slot that a type-5 source must not
name, and `zero` whether type 0 is allowed. -/
def srcValid (w : Nat) (q : Option Nat) (zero : Bool) : Bool :=
  let i := w % 4096
  match w / 4096 with
  | 0 => zero && decide (i = 0)
  | 1 => decide (i < 768)
  | 2 => decide (i < 64 ∧ i / 8 < 6)
  | 3 => decide (i < 64)
  | 4 => decide (i < 256)
  | 5 => decide (i < 64 ∧ q ≠ some i)
  | 6 => decide (i < 8)
  | 7 => decide (i < 2048)
  | 8 => decide (i % 256 < (if i / 256 = 0 then 12 else 8) ∧ i / 256 < 3)
  | _ => false

/-- What a reader sees of a source: value, age, whether it is stale, status byte (types 1, 2 and 7), and whether its record
passes its CRC-8. -/
structure SrcRead where
  value : Word
  age : Nat
  stale : Bool
  status : Nat
  ok : Bool
  deriving DecidableEq, Repr

/-- Reads a source word (R174, R175). -/
def readSrc (w : Nat) (s : State) : SrcRead :=
  let i := w % 4096
  if w / 4096 = 0 then ⟨0, 0, false, 0, true⟩
  else if w / 4096 = 1 then
    let r := snsRec s i
    ⟨r.value, age16 s r.tick, bitAt r.status 7, r.status, recOk s i⟩
  else if w / 4096 = 2 then
    let r := (moiCh s (i % 8)).recd
    ⟨nthW r.words (i / 8), age16 s r.tick, bitAt r.status 7, r.status, moiOk s (i % 8)⟩
  else
    let p := getPub w s
    ⟨p.value, age16 s p.tick, p.stale, p.status, true⟩

/-- A reader's check of a source's record: a failing CRC-8 is reported once (R111, R164). -/
def verifySrc (w : Nat) (s : State) : State :=
  if w / 4096 = 1 then verifyRec (w % 4096) s
  else if w / 4096 = 2 then verifyMoi (w % 8) s
  else s

/-- Whether an input is unfit (R176). -/
def srcUnfit (w ageMax qmask : Nat) (r : SrcRead) : Bool :=
  decide (w / 4096 ≠ 0) && (r.stale || !r.ok || decide (ageMax ≠ 0 ∧ ageMax < r.age)
    || (decide (w / 4096 = 1 ∨ w / 4096 = 2) && decide (r.status &&& (qmask ||| 0x80) ≠ 0)))

end Sys2Proof.Machine
end

