-- ==== Sys2Proof/Machine/EngPort.lean ====
section
/-!
DEFINITION. The control engines' pages (chapter 9): image headers and their checks, the swap request, windows, what the
registers read, and the checks of register writes.
-/
namespace Sys2Proof.Machine

/-- Page index of an engine. -/
def engPg (e : Nat) : Nat := 0x20 + e

/-- An engine's state. -/
def engSt (s : State) (e : Nat) : EngState := tabGet (fun _ => EngState.idle) s.eng e

/-- Puts an engine's state. -/
def putEng (e : Nat) (v : EngState) (s : State) : State := { s with eng := tabSet (fun _ => EngState.idle) s.eng e v }

/-- Source word of publication word `k` of an engine. -/
def engSrc (e k : Nat) : Nat := 4 * 4096 + 16 * e + k

/-! ### Banks and images -/

/-- Model address of the running bank. -/
def runBank (e : Nat) (s : State) : Nat := bankBase e (engSt s e).bank

/-- Model address of the shadow bank. -/
def shadowBank (e : Nat) (s : State) : Nat := bankBase e (1 - (engSt s e).bank)

/-- LEN of the image at a bank. -/
def imgLen (base : Nat) (s : State) : Nat := (rdWord s (base + 4)).toNat

/-- BG_ENTRY of the image at a bank. -/
def imgBg (base : Nat) (s : State) : Nat := bitsOf (rdWord s (base + 8)) 29 16

/-- DL_ENTRY of the image at a bank. -/
def imgDl (base : Nat) (s : State) : Nat := bitsOf (rdWord s (base + 8)) 13 0

/-- DL_WCET of the image at a bank. -/
def imgWcet (base : Nat) (s : State) : Nat := bitsOf (rdWord s (base + 12)) 15 0

/-- DLAYOUT of the image at a bank. -/
def imgLayout (base : Nat) (s : State) : Nat := bitsOf (rdWord s (base + 12)) 31 16

/-- The first of the causes 1 to 4 of R280 that a header meets; 0 for a sound header. -/
def hdrCause (base : Nat) (s : State) : Nat :=
  let n := imgLen base s
  let bad (x : Nat) : Bool := decide (x < 8 ∨ n / 4 ≤ x)
  if rdWord s base ≠ 0x554D0001 ∨ rdWord s (base + 20) ≠ 0 ∨ rdWord s (base + 24) ≠ 0 then 1
  else if n % 4 ≠ 0 ∨ n < 64 ∨ 65536 < n then 2
  else if bad (imgBg base s) || bad (imgDl base s) then 3
  else if imgWcet base s = 0 ∨ 34000 < imgWcet base s then 4
  else 0

/-- The bytes of the model address space from `a`, `n` of them. -/
def memBytes (s : State) (a n : Nat) : List Nat := (List.range n).map fun i => (rdByte s (a + i)).toNat

/-- Whether the CRC-32 of the image at a bank is right (R279). -/
def imgCrcOk (base : Nat) (s : State) : Bool :=
  decide (crc32 (memBytes s base 28 ++ memBytes s (base + 32) (imgLen base s - 32)) = (rdWord s (base + 28)).toNat)

/-- Whether a bank holds an image that passes the checks of R280. -/
def imgValid (base : Nat) (s : State) : Bool := decide (hdrCause base s = 0) && imgCrcOk base s

/-- STAT.NOPROG, ENGn_HDR and ENGn_TOOL follow the running bank (R279). -/
def showImage (e : Nat) (s : State) : State :=
  let p := engPg e
  let base := runBank e s
  if imgValid base s then
    setB ENG.STAT_NOPROG p 0 false (setF ENG.HDR_DLAYOUT p 0 (imgLayout base s)
      (setF ENG.HDR_DL_WCET p 0 (imgWcet base s) (setF ENG.TOOL_TOOL p 0 (rdWord s (base + 16)).toNat s)))
  else setB ENG.STAT_NOPROG p 0 true s

/-! ### Swap requests -/

/-- SWAP_CHK records a refusal or a cancellation. -/
def engRecord (e cause : Nat) (s : State) : State :=
  setF ENG.SWAP_CHK_CAUSE (engPg e) 0 cause (setB ENG.SWAP_CHK_VALID (engPg e) 0 true s)

/-- The cause for which a SWAP_REQ is refused (R280); 0 where it is accepted. -/
def engSwapCause (e : Nat) (dataClr : Bool) (s : State) : Nat :=
  let x := engSt s e
  let base := shadowBank e s
  let h := hdrCause base s
  if h ≠ 0 then h
  else if !dataClr && !getB ENG.STAT_NOPROG (engPg e) 0 s && decide (imgLayout base s ≠ imgLayout (runBank e s) s) then 6
  else if x.prob.isSome || x.ret.isSome then 7
  else 0

/-- A SWAP_REQ of an engine page (R280, R281). A second request while one is pending adds nothing. -/
def engSwapReq (e : Nat) (dataClr : Bool) (s : State) : WrOut :=
  let p := engPg e
  let x := engSt s e
  let c := engSwapCause e dataClr s
  if c ≠ 0 then .refuseTo (engRecord e c s)
  else if x.req.isSome then .ok s
  else
      let due := s.time.ticks + (if s.time.phase ≤ 113 then 1 else 2)
      .ok (setB CMN.STAT_SWAP_PEND p 0 true
        (putEng e { x with req := some ⟨due, dataClr, getF ENG.PROB_PROB_LEN p 0 s, false⟩ } s))

/-- The CRC-32 check of a pending request concludes (R280). -/
def engCrcCheck (e : Nat) (s : State) : State :=
  let p := engPg e
  let x := engSt s e
  match x.req with
  | none => s
  | some r =>
    if r.checked then s
    else if imgCrcOk (shadowBank e s) s then putEng e { x with req := some { r with checked := true } } s
    else
      setIrq p 16 (engRecord e 5 (setB CMN.STAT_SWAP_PEND p 0 false (putEng e { x with req := none } s)))

/-! ### Windows -/

/-- Whether a party may write an engine's window at all: SUP, or the page's OWNER when that is HOST or LINK (R290, R291). -/
def engWinParty (e : Nat) (party : Party) (s : State) : Bool :=
  decide (party = .sup) || (decide (party = .host ∨ party = .link) && decide (getF CMN.OWN_OWNER (engPg e) 0 s = party.code))

/-- Whether a write at a window offset is permitted (R265, R283, R288, R290, R291). -/
def engWinPermits (e off : Nat) (party : Party) (s : State) : Bool :=
  let p := engPg e
  let x := engSt s e
  engWinParty e party s &&
  (if off < 0x10000 then
    (!locked p s || decide (party = .sup)) && x.req.isNone && x.prob.isNone && x.ret.isNone
  else
    let w := (off - 0x10000) / 4
    decide (getF ENG.DMWIN_FIRST p 0 s ≤ w ∧ w ≤ getF ENG.DMWIN_LAST p 0 s))

/-- Model address of a window offset. -/
def engWinAddr (e off : Nat) (s : State) : Nat :=
  if off < 0x10000 then shadowBank e s + off else dataBase e + (off - 0x10000)

/-! ### Registers -/

/-- The checks of a write to an ENG page's block registers. -/
def engWrite (cx : WriteCx) (s : State) : WrOut :=
  let e := cx.page - 0x20
  if cx.off = 0x104 then storeUnless (cxOutside cx 7 0 1 255) cx s
  else if cx.off = 0x118 then
    .ok (if cxBits cx 0 0 = 1 then putEng e { engSt s e with clr := true } s else s)
  else .ok (storeFields cx s)

/-- Whole tides left in a probation window (R284, ENGn_PROB). -/
def probLeft (x : EngState) (s : State) : Nat :=
  match x.prob with
  | none => 0
  | some q => (q.start + q.len - usNow s) / 8000

/-- What an ENG page's registers read where they show computed state. -/
def engRead (p off : Nat) (s : State) : Option Word :=
  let e := p - 0x20
  let x := engSt s e
  if off = 0x104 then
    let st := if x.ret.isSome then 2 else if x.prob.isSome then 1 else 0
    some (setBits (setBits (rdReg s (pageAddr p off)) 31 16 (probLeft x s)) 10 8 st)
  else if off = 0x128 then
    some (setBits (setBits (rdReg s (pageAddr p off)) 12 8 x.outs.length) 4 0 x.posts.length)
  else if 0x180 ≤ off ∧ off < 0x1C0 then some (getPub (engSrc e ((off - 0x180) / 4)) s).value
  else if off = 0x1C0 then
    let b := getPub (engSrc e 0) s
    some (ofN (b2n b.stale * 2147483648 + age16 s b.tick))
  else none

/-- Whether the publication words of a page with DL_EN = 1 are stale (R49). -/
def engStale (p : Nat) (s : State) : Bool :=
  getB ENG.CFG_DL_EN p 0 s && (getPub (engSrc (p - 0x20) 0) s).stale

end Sys2Proof.Machine
end

