-- ==== Sys2Proof/Machine/EngCore.lean ====
section
/-!
DEFINITION. The control engines at work, but for their instructions (chapter 9): contexts, traps, lanes, budgets, probation,
swaps and returns, and publication.
-/
namespace Sys2Proof.Machine

/-! ### Contexts -/

/-- The context of a lane. -/
def ctxOf (x : EngState) : Lane → EngCtx
  | .deadline => x.dl
  | .background => x.bg

/-- A context of an engine. -/
def engCtx (s : State) (e : Nat) (l : Lane) : EngCtx := ctxOf (engSt s e) l

/-- Puts a context. -/
def putCtx (e : Nat) (l : Lane) (c : EngCtx) (s : State) : State :=
  match l with
  | .deadline => putEng e { engSt s e with dl := c } s
  | .background => putEng e { engSt s e with bg := c } s

/-- A general register; g0 reads 0 (R254). -/
def getG (s : State) (e : Nat) (l : Lane) (r : Nat) : Word := if r = 0 then 0 else tabGet (fun _ => (0 : Word)) (engCtx s e l).regs r

/-- Puts a general register; writes to g0 are discarded (R254). -/
def setG (e : Nat) (l : Lane) (r : Nat) (v : Word) (s : State) : State :=
  if r = 0 then s else putCtx e l { engCtx s e l with regs := tabSet (fun _ => (0 : Word)) (engCtx s e l).regs r v } s

/-- Sets both contexts' registers to 0; the next lane starts them at their entries (R257, R281, R288). -/
def clearContexts (e : Nat) (s : State) : State :=
  let x := engSt s e
  let z (c : EngCtx) : EngCtx := { c with regs := [], act := false, pass := false, flight := [] }
  let s := putEng e { x with bg := z x.bg, dl := z x.dl } s
  setB ENG.STAT_BG_BUSY (engPg e) 0 false (setB ENG.STAT_DL_BUSY (engPg e) 0 false s)

/-! ### Probation -/

/-- Probation fails with a cause; the return follows at the next boundary (R285, R286). -/
def probFail (e cause : Nat) (s : State) : State :=
  let p := engPg e
  let x := engSt s e
  match x.prob with
  | none => s
  | some q =>
    let s := putEng e { x with prob := none, ret := some q.dataClr } s
    let s := setB ENG.STAT_PROB p 0 false (setF ENG.PROB_CAUSE p 0 cause s)
    raise p 0xFF kEngProbationFail cause (setIrq p 17 s)

/-- Whether the probation window is open now (R54, R284). -/
def probOpen (x : EngState) (s : State) : Bool :=
  match x.prob with
  | none => false
  | some q => decide (usNow s < q.start + q.len)

/-- CNF (R284): confirms probation inside the window after work of the new program has ended with END. -/
def probConfirm (e : Nat) (s : State) : State :=
  let p := engPg e
  let x := engSt s e
  match x.prob with
  | none => s
  | some q =>
    if probOpen x s && q.ended then
      setIrq p 18 (setB ENG.STAT_PROB p 0 false (putEng e { x with prob := none } s))
    else s

/-- Marks that work which counts for R284 has ended with END. -/
def probEnded (e : Nat) (s : State) : State :=
  let x := engSt s e
  match x.prob with
  | none => s
  | some q => putEng e { x with prob := some { q with ended := true } } s

/-! ### Traps and budgets -/

/-- FINJ checker that reports a trap cause (R287, R349); 0xFF where none does. -/
def trapInst (cause : Nat) : Nat := if cause = 5 then 1 else if cause = 6 then 2 else if cause = 7 then 3 else 0xFF

/-- A context rests: it neither runs nor is in the midst of a pass (R274). -/
def restCtx (e : Nat) (l : Lane) (s : State) : State :=
  let s := putCtx e l { engCtx s e l with act := false, pass := false, flight := [] } s
  match l with
  | .deadline => setB ENG.STAT_DL_BUSY (engPg e) 0 false s
  | .background => setB ENG.STAT_BG_BUSY (engPg e) 0 false s

/-- TRAP holds the last trap, and counts it (R274). -/
def noteTrap (p lane cause pc : Nat) (s : State) : State :=
  incSat ENG.TRAP_COUNT p 0 (setF ENG.TRAP_CAUSE p 0 cause (setF ENG.TRAP_LANE p 0 lane (setF ENG.TRAP_PC p 0 (pc % 16384) s)))

/-- The number of a lane in TRAP and in the ENG_TRAP message (R274). -/
def laneNum : Lane → Nat
  | .deadline => 1
  | .background => 0

/-- A trap at word index `pc` (R274). -/
def engTrap (e : Nat) (l : Lane) (cause pc : Nat) (s : State) : State :=
  let s := setIrq (engPg e) 19 (noteTrap (engPg e) (laneNum l) cause pc (restCtx e l s))
  probFail e 3 (raise (engPg e) (trapInst cause) kEngTrap (laneNum l * 32768 + pc % 16384) s)

/-- The deadline cycles of a tick (R273): DLCYC and the WCET episode. -/
def deadlineCount (e n : Nat) (s : State) : State :=
  let p := engPg e
  let s := setF ENG.DLCYC_LAST p 0 n s
  let s := if getF ENG.DLCYC_MAX p 0 s < n then setF ENG.DLCYC_MAX p 0 n s else s
  let x := engSt s e
  let isOver := decide (getF ENG.HDR_DL_WCET p 0 s < n)
  match x.wcetEp with
  | none =>
    if isOver then
      let a := satN 0xFFFF n
      probFail e 4 (raise p 0x04 kEngWcet a (setIrq p 20 (putEng e { x with wcetEp := some a } s)))
    else s
  | some a => if isOver then s else endEp p kEngWcet a (putEng e { x with wcetEp := none } s)

/-! ### Lanes -/

/-- Cycles of a lane (R256, R272): phases 40 to 124, or phases 0 to 39 with the correction of R58. -/
def laneLen (s : State) : Lane → Nat
  | .deadline => 34000
  | .background => 39 * 400 + phaseLen s 39

/-- Phase in which a lane's cycle lies. -/
def lanePhase (l : Lane) (n : Nat) : Nat :=
  match l with
  | .deadline => 40 + n / 400
  | .background => Nat.min 39 (n / 400)

/-- Moves to a cycle of a lane. -/
def atLane (l : Lane) (n : Nat) (s : State) : State :=
  match l with
  | .deadline => atPhase (40 + n / 400) (n % 400) s
  | .background => if n < 15600 then atPhase (n / 400) (n % 400) s else atPhase 39 (n - 15600) s

/-- Whether an engine's deadline work is due in this tick (R256). -/
def dlDue (s : State) (e : Nat) : Bool := running (engPg e) s && getB ENG.CFG_DL_EN (engPg e) 0 s

/-- Whether an engine's background lane runs in this tick (R256). -/
def bgDue (s : State) (e : Nat) : Bool := running (engPg e) s && getB ENG.CFG_BG_EN (engPg e) 0 s

/-- One engine's deadline context starts at DL_ENTRY (R256), once a tick. -/
def startDeadline (e : Nat) (s : State) : State :=
  let x := engSt s e
  if dlDue s e && !x.started then
    setB ENG.STAT_DL_BUSY (engPg e) 0 true (putEng e { x with
      started := true
      dl := { x.dl with pc := imgDl (runBank e s) s, act := true, pass := true, used := 0, flight := [] } } s)
  else s

/-- One engine's background context resumes, or starts a pass at BG_ENTRY (R256). -/
def resumeBackground (e : Nat) (s : State) : State :=
  let x := engSt s e
  if bgDue s e then
    let pc := if x.bg.pass then x.bg.pc else imgBg (runBank e s) s
    setB ENG.STAT_BG_BUSY (engPg e) 0 true
      (putEng e { x with bg := { x.bg with pc := pc, act := true, pass := true, used := 0, flight := [] } } s)
  else s

/-- BACKGROUND_SUSPEND: after the last cycle of phase 39 (R256). -/
def backgroundSuspend (s : State) : State :=
  let s := atPhase 39 (phaseLen s 39 - 1) s
  forN 16 (fun e a => putEng e { engSt a e with bg := { (engSt a e).bg with act := false } } a) s

/-- One engine at the end of phase 124 (R272, R274, R285). -/
def cutoffEngine (e : Nat) (s : State) : State :=
  let p := engPg e
  let late := dlDue s e && !(engSt s e).ended
  let x := engSt s e
  let s := putEng e { x with dl := { x.dl with act := false, pass := false } } (setB ENG.STAT_DL_BUSY p 0 false s)
  let s := dueInstant p (dlDue s e) (if late then [e] else []) s
  let s := if late && decide (getF CMN.CTRL_LATE_LIMIT p 0 s ≤ getF CMN.STAT_LATE_CNT p 0 s) then probFail e 2 s else s
  if late then forN 16 (fun k a => stalePub (engSrc e k) a) (deadlineCount e 34000 s) else s

/-- DEADLINE_CUTOFF: the end of phase 124 (R272). -/
def deadlineCutoff (s : State) : State := forN 16 cutoffEngine (atPhase 124 399 s)

/-! ### Boundaries -/

/-- The publication words of an engine as its staging copy starts from them (R271). -/
def published (e : Nat) (s : State) : Tab Word :=
  ((List.range 16).map fun k => (k, (getPub (engSrc e k) s).value)).filter fun w => decide (w.2 ≠ 0)

/-- Publication of one engine at step 1 (R271). -/
def publishEngine (e : Nat) (s : State) : State :=
  let x := engSt s e
  if x.ended then forN 16 (fun k a => publish (engSrc e k) (tabGet (fun _ => (0 : Word)) x.staging k) a) s
  else
    let s := forN 16 (fun k a => stalePub (engSrc e k) a) s
    putEng e { x with staging := published e s } s

/-- The exchange of the banks: registers 0, data memory cleared where asked, later outcomes marked OLD (R269, R281). -/
def exchangeBanks (e : Nat) (dataClr : Bool) (s : State) : State :=
  let p := engPg e
  let x := engSt s e
  let s := putEng e { x with
    bank := 1 - x.bank
    posts := x.posts.map fun q => { q with old := true }
    outs := x.outs.map fun w => w ||| 0x200 } s
  let s := clearContexts e s
  let s := if dataClr then zeroRange (dataBase e) (dataBase e + 0x8000) s else s
  showImage e (incMod CMN.GEN_SWAP_GEN p 0 s)

/-- The return after a failed probation (R286). -/
def engReturn (e : Nat) (s : State) : State :=
  let x := engSt s e
  match x.ret with
  | none => s
  | some d => setB ENG.STAT_SWAP_RET (engPg e) 0 true (exchangeBanks e d (putEng e { x with ret := none } s))

/-- A pending swap whose boundary has come (R281, R282); `wasStopped`: STAT.STOPPED read 1 before the boundary. -/
def engSwap (wasStopped : Bool) (e : Nat) (s : State) : State :=
  let p := engPg e
  match (engSt s e).req with
  | none => s
  | some r =>
    if r.due ≤ s.time.ticks then
      let s := engCrcCheck e s
      if (engSt s e).req.isNone then s
      else
        let s := exchangeBanks e r.dataClr (putEng e { engSt s e with req := none } s)
        let s := setIrq p 1 (setB CMN.STAT_SWAP_PEND p 0 false (setB ENG.STAT_SWAP_RET p 0 false s))
        if wasStopped then s
        else
          setB ENG.STAT_PROB p 0 true
            (putEng e { engSt s e with prob := some ⟨usNow s, r.len * 1024000, r.dataClr, false⟩ } s)
    else s

/-- One engine at a boundary: publication, BGCYC.LAST of the tick that ends, return or swap, start, and the clear of DLCYC.MAX. -/
def engBoundary (o : State) (e : Nat) (s : State) : State :=
  let p := engPg e
  let used := if bgDue o e then (engSt o e).bg.used else 0
  let s := setF ENG.BGCYC_LAST p 0 (Nat.min used 0xFFFF) (publishEngine e s)
  let s := engSwap (stopped p o) e (engReturn e s)
  let s := if running p s && !running p o then clearContexts e s else s
  let x := engSt s e
  let s := putEng e { x with started := false, ended := false, clr := false } s
  if x.clr then setF ENG.DLCYC_MAX p 0 0 s else s

/-- SOFT_RST of an ENG page (R288). -/
def engSoftRst (p : Nat) (s : State) : State :=
  let e := p - 0x20
  let s := clearContexts e s
  let x := engSt s e
  let s := setF ENG.POST_DISCARD p 0 (satN 0xFFFF (getW ENG.POST_DISCARD p 0 s + x.outs.length)) s
  putEng e { x with outs := [], staging := published e s } s

end Sys2Proof.Machine
end

