-- ==== Sys2Proof/Machine/Float32.lean ====
section
/-!
DEFINITION. The IEEE 754 binary32 format: exact values of words, and rounding of an exact value to nearest, ties to even.
-/
namespace Sys2Proof.Machine

/-- Sign bit of a binary32 word. -/
def f32Neg (w : Word) : Bool := decide (bitsOf w 31 31 = 1)

/-- Whether a word is a NaN. -/
def f32Nan (w : Word) : Bool := decide (bitsOf w 30 23 = 255 ∧ bitsOf w 22 0 ≠ 0)

/-- Whether a word is an infinity. -/
def f32Inf (w : Word) : Bool := decide (bitsOf w 30 0 = 0x7F800000)

/-- Whether a word is a finite number. -/
def f32Finite (w : Word) : Bool := decide (bitsOf w 30 23 ≠ 255)

/-- Whether a word is a zero of either sign. -/
def f32Zero (w : Word) : Bool := decide (bitsOf w 30 0 = 0)

/-- Magnitude of a finite word: the number is ± `fst × 2^snd`. -/
def f32Mag (w : Word) : Nat × Int :=
  let x := bitsOf w 30 23
  if x = 0 then (bitsOf w 22 0, -149) else (bitsOf w 22 0 + 8388608, (x : Int) - 150)

/-- A finite word as an integer in units of 2^−149. -/
def f32Int (w : Word) : Int :=
  let (q, e) := f32Mag w
  let n : Int := (q * 2 ^ (e + 149).toNat : Nat)
  if f32Neg w then -n else n

/-- A word from sign, exponent field and fraction. -/
def f32Word (neg : Bool) (body : Nat) : Word := ofN (b2n neg * 2147483648 + body)

/-- The infinity of a sign. -/
def f32InfOf (neg : Bool) : Word := f32Word neg 0x7F800000

/-- Rounds ± `q × 2^e`, with a non-zero part cut off below `q` where `sticky`, to binary32 with subnormal numbers; an
overflow gives infinity. -/
def f32Round (neg : Bool) (q : Nat) (e : Int) (sticky : Bool) : Word :=
  if q = 0 then f32Word neg 0
  else
    let bits : Int := (q.log2 : Int) + 1
    let e' := max (e + bits - 24) (-149)
    let r := if e' ≤ e then q * 2 ^ (e - e').toNat else roundDrop q (e' - e).toNat sticky
    if r < 8388608 then f32Word neg r
    else
      let (r, e') := if r = 16777216 then (8388608, e' + 1) else (r, e')
      let x := e' + 150
      if 255 ≤ x then f32InfOf neg else f32Word neg (x.toNat * 8388608 + (r - 8388608))

/-- Rounds the rational `n / d` × 2^`e` to binary32. -/
def f32OfRat (neg : Bool) (n d : Nat) (e : Int) : Word :=
  if n = 0 ∨ d = 0 then f32Word neg 0
  else
    let s : Int := 40 + (d.log2 : Int) - (n.log2 : Int)
    let (p, q) := if 0 ≤ s then (n * 2 ^ s.toNat, d) else (n, d * 2 ^ (-s).toNat)
    f32Round neg (p / q) (e - s) (decide (p % q ≠ 0))

/-- A finite binary32 word in the 48-bit format, exactly (R180). -/
def f48OfF32 (w : Word) : F48 :=
  let (q, e) := f32Mag w
  f48OfRat (if f32Neg w then -(q : Int) else q) 1 e

/-- A number of the 48-bit format rounded to binary32 (R197). -/
def f32OfF48 (a : F48) : Word := f32Round (decide (a.m < 0)) a.m.natAbs a.e false

end Sys2Proof.Machine
end

