-- ==== Sys2Proof/Machine/LpaPort.lean ====
section
/-!
DEFINITION. The loop array's registers (chapter 6): slots and their words, the checked load, the checks of R189, the window,
what the registers read, and the checks of register writes.
-/
namespace Sys2Proof.Machine

/-- A slot's state. -/
def lpaSlot (s : State) (q : Nat) : LpaSlot := tabGet (fun _ => LpaSlot.idle) s.lpa.slots q

/-- Puts a slot's state. -/
def putSlot (q : Nat) (v : LpaSlot) (s : State) : State :=
  { s with lpa := { s.lpa with slots := tabSet (fun _ => LpaSlot.idle) s.lpa.slots q v } }

/-- Page of a slot (R168). -/
def lpaPage (q : Nat) : Nat := 0x18 + q / 32

/-- Host address of a slot's SLk_CTRL. -/
def slCtrlAddr (q : Nat) : Nat := pageAddr (lpaPage q) (0x100 + 0x10 * (q % 32))

/-- Source word of a slot's output. -/
def slotSrc (q : Nat) : Nat := 5 * 4096 + q

/-! ### Configuration that a slot will have -/

/-- A combination: the SLk_CTRL word of each slot, and the copy of the set by page, area and word. -/
structure LpaComb where
  ctrl : Nat → Word
  word : Nat → Nat → Nat → Word

/-- The combination in force. -/
def lpaInForce (s : State) : LpaComb :=
  ⟨fun q => rdForce s (slCtrlAddr q), fun p area w => getAct p area w s⟩

/-- The combination that will be in force at the next boundary: registers as last written, with pending swaps and with
those of the pages that `also` names (R189). -/
def lpaNext (also : Nat → Bool) (s : State) : LpaComb :=
  ⟨fun q => rdReg s (slCtrlAddr q),
   fun p area w => if getB CMN.STAT_SWAP_PEND p 0 s || also p then getShd p area w s else getAct p area w s⟩

/-- A configuration word of a slot in a combination. -/
def LpaComb.cfg (c : LpaComb) (q w : Nat) : Word := c.word (lpaPage q) 1 (q % 32 * 16 + w)

/-- A gain word of a slot in a combination. -/
def LpaComb.gain (c : LpaComb) (q set w : Nat) : Word := c.word (lpaPage q) 0 (q % 32 * 128 + set * 16 + w)

/-- MODE of a slot in a combination. -/
def LpaComb.mode (c : LpaComb) (q : Nat) : Nat := bitsOf (c.ctrl q) 1 0

/-- NREGM1 of a slot in a combination. -/
def LpaComb.nreg (c : LpaComb) (q : Nat) : Nat := bitsOf (c.cfg q 2) 18 16

/-- Cost of a slot without corrections (R171). -/
def LpaComb.cost (c : LpaComb) (q : Nat) : Nat :=
  136 + (if 0 < c.nreg q then 40 else 0) + (if bitsOf (c.cfg q 1) 31 28 ≠ 0 then 24 else 0)

/-- Whether a slot is due at a tick count (R169). -/
def LpaComb.due (c : LpaComb) (q n : Nat) : Bool :=
  decide (c.mode q ≠ 0 ∧ n % 2 ^ bitsOf (c.ctrl q) 5 3 = bitsOf (c.ctrl q) 11 6)

/-- The checked load of a combination (R172). -/
def LpaComb.load (c : LpaComb) : Nat :=
  let on := (List.range 64).filter fun q => decide (c.mode q ≠ 0)
  (List.range 64).foldl (fun m n =>
    Nat.max m (on.foldl (fun a q => if c.due q n then a + c.cost q else a) 0)) 0

/-- Whether a condition of R189 on one slot is broken, by its cause code 1 to 6. -/
def LpaComb.broken (c : LpaComb) (cause q : Nat) : Bool :=
  let sets := List.range (c.nreg q + 1)
  let f (w : Word) : Int := f32Int w
  decide (c.mode q ≠ 0) &&
  (if cause = 1 then
    !(srcValid (bitsOf (c.cfg q 0) 31 16) (some q) false && srcValid (bitsOf (c.cfg q 0) 15 0) (some q) true
      && srcValid (bitsOf (c.cfg q 1) 31 16) (some q) true && srcValid (bitsOf (c.cfg q 1) 15 0) (some q) true)
  else if cause = 2 then sets.any fun j => decide (f (c.gain q j 7) ≤ f (c.gain q j 6))
  else if cause = 3 then
    sets.any fun j => decide (f (c.gain q j 10) < f (c.gain q j 6) ∨ f (c.gain q j 7) < f (c.gain q j 10))
  else if cause = 4 then
    (List.range (c.nreg q - 1)).any fun j => decide (f (c.cfg q (4 + j + 2)) ≤ f (c.cfg q (4 + j + 1)))
  else if cause = 5 then decide (2 ^ bitsOf (c.ctrl q) 5 3 ≤ bitsOf (c.ctrl q) 11 6)
  else
    let d := bitsOf (c.ctrl q) 23 16
    decide (d ≠ 0) && (List.range 64).any fun r =>
      decide (r ≠ q ∧ c.mode r ≠ 0 ∧ bitsOf (c.ctrl r) 23 16 = d))

/-- The first condition of R189 that a combination breaks, with the lowest-numbered slot that breaks it (R198). -/
def LpaComb.check (c : LpaComb) : Option (Nat × Nat) :=
  match [1, 2, 3, 4, 5, 6].findSome? fun k => ((List.range 64).find? fun q => c.broken k q).map fun q => (k, q) with
  | some r => some r
  | none => if 10768 < c.load then some (7, 64) else none

/-- CFG_CHK of a page records a refusal (R198). -/
def lpaRecord (p cause slot : Nat) (s : State) : State :=
  setF LPA.CFG_CHK_CAUSE p 0 cause (setF LPA.CFG_CHK_SLOT p 0 slot (setB LPA.CFG_CHK_VALID p 0 true s))

/-- The check of a SWAP_REQ (R189). -/
def lpaSwapCheck (p : Nat) (s : State) : WrOut :=
  match (lpaNext (fun r => decide (r = p)) s).check with
  | none => .ok s
  | some (k, q) => .refuseTo (lpaRecord p k (if k = 7 then (p - 0x18) * 32 else q) s)

/-- The swap of a page's set at step 2 (R187, R188). -/
def lpaSwap (p : Nat) (s : State) : State :=
  let s := takeAreas p 0 2 s
  forN 32 (fun k a => let q := (p - 0x18) * 32 + k; putSlot q { lpaSlot a q with swapped := true } a) s

/-! ### Window -/

/-- Words of a window area. -/
def lpaAreaLen (area : Nat) : Nat := if area = 0 then 4096 else if area = 1 then 512 else 256

/-- Local slot of the addressed word. -/
def lpaWinSlot (area w : Nat) : Nat := if area = 0 then w / 128 else if area = 1 then w / 16 else w / 8

/-- A slot state word of area 2 (R197). -/
def slotWord (x : LpaSlot) (w : Nat) : Word :=
  if w = 0 then f32OfF48 x.i else if w = 1 then f32OfF48 x.d else if w = 2 then f32OfF48 x.xp
  else if w = 3 then f32OfF48 x.up else if w = 4 then f32OfF48 x.w else if w = 5 then f32OfF48 x.e else 0

/-- What WIN_DATA reads. -/
def lpaWinRead (p : Nat) (s : State) : Word :=
  let area := getW LPA.WIN_ADDR_AREA p 0 s
  let w := getW LPA.WIN_ADDR_WORD p 0 s
  if area = 2 then slotWord (lpaSlot s ((p - 0x18) * 32 + w / 8)) (w % 8)
  else if getB LPA.WIN_ADDR_VIEW p 0 s then getAct p area w s else getShd p area w s

/-- Whether a gain set word is refused (R185). -/
def gainBad (w : Nat) (v : Word) : Bool :=
  if 11 ≤ w then decide (v ≠ 0)
  else !f32Finite v || (decide (w = 3 ∨ w = 8 ∨ w = 9) && decide (f32Int v < 0))

/-- Whether a configuration word is refused (R174, R186). -/
def slotCfgBad (q w : Nat) (v : Word) : Bool :=
  if w = 0 then !(srcValid (bitsOf v 31 16) (some q) false && srcValid (bitsOf v 15 0) (some q) true)
  else if w = 1 then !(srcValid (bitsOf v 31 16) (some q) true && srcValid (bitsOf v 15 0) (some q) true)
  else if w = 2 then decide (bitsOf v 11 10 = 3 ∨ bitsOf v 9 8 = 3)
  else if w = 3 then false
  else if w = 4 then !f32Finite v || decide (f32Int v < 0)
  else if w < 12 then !f32Finite v
  else decide (v ≠ 0)

/-- A configuration word as it is stored: reserved bits read 0, bit 7 of QMASK reads 1 (R12, R186). -/
def slotCfgStored (w : Nat) (v : Word) : Word :=
  if w = 2 then (v &&& 0x7F070F03) ||| 0x80000000
  else if w = 3 then v &&& 0xFFFF else v

/-- A write of WIN_DATA. -/
def lpaWinWrite (cx : WriteCx) (s : State) : WrOut :=
  let p := cx.page
  let area := getW LPA.WIN_ADDR_AREA p 0 s
  let w := getW LPA.WIN_ADDR_WORD p 0 s
  let k := lpaWinSlot area w
  let q := (p - 0x18) * 32 + k
  let v := cx.data
  if !unitOwns p k cx.party s then .refuse
  else if area = 2 then
    if w % 8 ≠ 0 ∨ f32Finite v = false then .refuse
    else .ok (putSlot q { lpaSlot s q with preload := some v, resume := true } s)
  else if getB LPA.WIN_ADDR_VIEW p 0 s || getB CMN.STAT_SWAP_PEND p 0 s then .refuse
  else if area = 0 then
    if gainBad (w % 16) v then .refuse else .ok (setShd p 0 w v s)
  else if slotCfgBad q (w % 16) v then .refuse
  else .ok (setShd p 1 w (slotCfgStored (w % 16) v) s)

/-- Advances WORD after an access to WIN_DATA with AINC = 1, wrapping within the area (R504). -/
def lpaWinAdvance (p : Nat) (s : State) : State :=
  if getB LPA.WIN_ADDR_AINC p 0 s then
    setF LPA.WIN_ADDR_WORD p 0 ((getW LPA.WIN_ADDR_WORD p 0 s + 1) % lpaAreaLen (getW LPA.WIN_ADDR_AREA p 0 s)) s
  else s

/-! ### Register writes and reads -/

/-- Whether a DEST code is defined (R191). -/
def destValid (d : Nat) : Bool :=
  decide (d % 32 < (if d / 32 = 0 then 1 else if d / 32 = 1 then 8 else if d / 32 = 2 then 12 else if d / 32 = 3 then 24 else 0))

/-- Whether an owner code is defined (owner codes table). -/
def ownerValid (c : Nat) : Bool := decide (c ≤ 3 ∨ 16 ≤ c)

/-- The checks of a write to an LPA page's block registers. -/
def lpaWrite (cx : WriteCx) (s : State) : WrOut :=
  let p := cx.page
  if cx.off < 0x300 then
    if cx.off % 0x10 = 0 then
      let q := (p - 0x18) * 32 + cx.unit
      if cxOutside cx 1 0 0 2 || cxOutside cx 5 3 0 6 || (cxHas cx 16 && !destValid (cxBits cx 23 16))
        || (cxHas cx 27 && !ownerValid (cxBits cx 31 27)) then .refuse
      else
        let c := lpaNext (fun _ => false) s
        match ({ c with ctrl := fun r => if r = q then cxMerged cx else c.ctrl r } : LpaComb).check with
        | some (k, _) => .refuseTo (lpaRecord p k q s)
        | none => .ok (storeFields cx s)
    else .ok (storeFields cx s)
  else if cx.off = 0x384 then
    .ok (if cxBits cx 31 31 = 1 then { s with lpa := { s.lpa with clr := true } } else s)
  else if cx.off = 0x388 then
    storeUnless (decide (2 < cxNew cx 14 12)
      || ((cxHas cx 0 || cxHas cx 12) && decide (lpaAreaLen (cxNew cx 14 12) ≤ cxNew cx 11 0))) cx s
  else if cx.off = 0x38C then lpaWinWrite cx s
  else .ok (storeFields cx s)

/-- What an LPA page's registers read where they show computed state. -/
def lpaRead (p off : Nat) (s : State) : Option Word :=
  if 0x100 ≤ off ∧ off < 0x300 ∧ off % 0x10 = 0xC then
    some (getPub (slotSrc ((p - 0x18) * 32 + (off - 0x100) / 0x10)) s).value
  else if 0x300 ≤ off ∧ off < 0x380 then
    let q := (p - 0x18) * 32 + (off - 0x300) / 4
    let b := getPub (slotSrc q) s
    let x := lpaSlot s q
    let w := setBits (rdReg s (pageAddr p off)) 31 31 (b2n b.stale)
    let w := setBits w 25 24 (b2n x.track * 2 + b2n x.unfitEp)
    some (setBits (setBits w 19 16 x.region) 7 0 (satN 0xFF (age16 s b.tick)))
  else if off = 0x380 then some (setBits (rdReg s (pageAddr p off)) 15 0 (lpaInForce s).load)
  else if off = 0x38C then some (lpaWinRead p s)
  else none

/-- Whether the output of a slot with MODE ≠ 0 of the page is stale (R49). -/
def lpaStale (p : Nat) (s : State) : Bool :=
  (List.range 32).any fun k =>
    decide (getF LPA.SL_CTRL_MODE p k s ≠ 0) && (getPub (slotSrc ((p - 0x18) * 32 + k)) s).stale

end Sys2Proof.Machine
end

