-- ==== Sys2Proof/Machine/OutGov.lean ====
section
/-!
DEFINITION. Who governs an output (R312, R320 to R324): forced states, host silence, gates, release, and the governing row.
-/
namespace Sys2Proof.Machine

/-- Page index of FAN. -/
def fanPg : Nat := 0x32
/-- Page index of DIN. -/
def dinPg : Nat := 0x33
/-- Page index of DOU. -/
def douPg : Nat := 0x34
/-- Page index of AOU. -/
def aouPg : Nat := 0x35

/-- Whether the host is silent (HST_SILSTAT.SILENT). -/
def hostSilent (s : State) : Bool := getB HST.SILSTAT_SILENT 8 0 s

/-- Whether a reaction, SAFE_IN_N, a flashing fault or bridge loss covers an output: row 2 of R320, R312, R322. -/
def covered (p u : Nat) (s : State) : Bool := reactionCovers p u s || s.drv.loss.isSome

/-- Whether the host-silence rule applies to an output: its owner is HOST (R321). -/
def silenced (p u : Nat) (s : State) : Bool := hostSilent s && decide (unitOwner p u s = Party.host.code)

/-- The debounced state of a digital input. -/
def dinState (j : Nat) (s : State) : Bool := bitAt (rdReg s (pageAddr dinPg 0x190)).toNat j

/-! ### Channels -/

/-- A fan channel. -/
def fanSt (s : State) (n : Nat) : FanState := tabGet (fun _ => FanState.idle) s.drv.fans n

/-- Puts a fan channel. -/
def putFan (n : Nat) (v : FanState) (s : State) : State :=
  { s with drv := { s.drv with fans := tabSet (fun _ => FanState.idle) s.drv.fans n v } }

/-- A digital output. -/
def doSt (s : State) (j : Nat) : DoState := tabGet (fun _ => DoState.idle) s.drv.dos j

/-- Puts a digital output. -/
def putDo (j : Nat) (v : DoState) (s : State) : State :=
  { s with drv := { s.drv with dos := tabSet (fun _ => DoState.idle) s.drv.dos j v } }

/-- An analog output. -/
def aoSt (s : State) (k : Nat) : AoState := tabGet (fun _ => AoState.idle) s.drv.aos k

/-- Puts an analog output. -/
def putAo (k : Nat) (v : AoState) (s : State) : State :=
  { s with drv := { s.drv with aos := tabSet (fun _ => AoState.idle) s.drv.aos k v } }

/-- The governance of a channel of FAN, DOU or AOU. -/
def govOf (p u : Nat) (s : State) : ChanGov :=
  if p = fanPg then (fanSt s u).gov else if p = douPg then (doSt s u).gov else (aoSt s u).gov

/-- Puts the governance of a channel. -/
def putGov (p u : Nat) (g : ChanGov) (s : State) : State :=
  if p = fanPg then putFan u { fanSt s u with gov := g } s
  else if p = douPg then putDo u { doSt s u with gov := g } s
  else putAo u { aoSt s u with gov := g } s

/-- MODE in force of a channel (R318). -/
def modeOf (p u : Nat) (s : State) : Nat :=
  if p = fanPg then (fanSt s u).mode else if p = douPg then (doSt s u).mode else (aoSt s u).mode

/-- Whether a VFIELD window is active, while which every field switch is off (R473). -/
def fieldWindow (s : State) : Bool := getB PWR.STAT_VF_OV 0x36 0 s || getB PWR.STAT_VF_UV 0x36 0 s

/-- Whether protection switches a channel off: a trip, for a fan BACKOFF or LOCKOUT, or a VFIELD window (R320, R473). -/
def switchedOff (p u : Nat) (s : State) : Bool :=
  fieldWindow s ||
  if p = fanPg then decide (3 ≤ (fanSt s u).st ∧ (fanSt s u).st ≤ 5) else if p = douPg then (doSt s u).trip else false

/-- Whether a channel limits its current (R320, R338, R341). -/
def limiting (p u : Nat) (s : State) : Bool :=
  if p = douPg then (doSt s u).lim else if p = aouPg then (aoSt s u).limit else false

/-- Whether protection governs a channel: row 1 of R320. -/
def row1 (p u : Nat) (s : State) : Bool := switchedOff p u s || limiting p u s

/-- Whether a channel's gate input is off (R342). -/
def gateOff (p u : Nat) (s : State) : Bool :=
  if p = douPg then getB DOU.CH_CTRL_GATE_EN p u s && !dinState (getF DOU.CH_CTRL_GATE_DI p u s) s
  else if p = aouPg then getB AOU.CH_CTRL_GATE_EN p u s && !dinState (getF AOU.CH_CTRL_GATE_DI p u s) s
  else false

/-- Whether row 5 applies: the page is stopped, or MODE in force is 0. -/
def row5 (p u : Nat) (s : State) : Bool := !running p s || decide (modeOf p u s = 0)

/-- The first of rows 2 to 7 that applies (R320). A fan in MODE 1 is not held by a release (R323). -/
def govBelow (p u : Nat) (s : State) : Nat :=
  let g := govOf p u s
  if covered p u s then 2
  else if silenced p u s then 3
  else if g.gated || gateOff p u s then 4
  else if row5 p u s then 5
  else if g.released && !(decide (p = fanPg) && decide (modeOf p u s = 1)) then 6
  else 7

/-- The governing row of a channel, 1 to 7 (R320). -/
def govRow (p u : Nat) (s : State) : Nat := if row1 p u s then 1 else govBelow p u s

/-- Whether rows 2 to 5 govern a channel (STAT.HELD, R324). -/
def chanHeld (p u : Nat) (s : State) : Bool := decide (2 ≤ govRow p u s ∧ govRow p u s ≤ 5)

/-- Whether a channel is at its safe state: rows 2, 3, 4 or 6 govern a DOU or AOU channel (STAT.SAFE_ST). -/
def atSafe (p u : Nat) (s : State) : Bool :=
  let r := govRow p u s
  decide (r = 2 ∨ r = 3 ∨ r = 4 ∨ r = 6)

/-- Notes what a governed channel's conditions are now: the end of a row 2, 3 or 5 condition releases it, a gate that
goes off holds until the next phase 40 (R323). -/
def govNote (p u : Nat) (s : State) : State :=
  let g := govOf p u s
  let r2 := covered p u s
  let r3 := silenced p u s
  let r5 := row5 p u s
  let ends := (g.row2 && !r2) || (g.row3 && !r3) || (g.row5 && !r5)
  let g' : ChanGov := { g with
    row2 := r2, row3 := r3, row5 := r5
    gated := g.gated || gateOff p u s
    released := g.released || ends
    cmdAt := if ends then none else g.cmdAt }
  if g' = g then s else putGov p u g' s

/-- Releases a channel (R323). -/
def releaseChan (p u : Nat) (s : State) : State :=
  putGov p u { govOf p u s with released := true, cmdAt := none } s

/-- A channel's owner has written a command field; the release ends when the command takes effect (R318, R323). -/
def noteCommand (p u : Nat) (party : Party) (s : State) : State :=
  let g := govOf p u s
  if g.released && decide (unitOwner p u s = party.code) && g.cmdAt.isNone then
    putGov p u { g with cmdAt := some s.time.ticks } s
  else s

/-- At phase 40 the command of an earlier tick takes effect and ends the release; a gate that is on again ends row 4
(R318, R323). -/
def govPhase40 (p u : Nat) (s : State) : State :=
  let g := govOf p u s
  let isOver := match g.cmdAt with | some t => decide (t < s.time.ticks) | none => false
  let g' : ChanGov := { g with
    gated := gateOff p u s
    released := g.released && !isOver
    cmdAt := if isOver then none else g.cmdAt }
  if g' = g then s else putGov p u g' s

/-- The limit of a VAL or SAFE value by MODE (R319): 10.5 V or 24 mA in Q16.16. -/
def aoLimit (mode : Nat) : Int := if mode = 1 then 688128 else 1572864

end Sys2Proof.Machine
end

