-- ==== Sys2Proof/Machine/IoPort.lean ====
section
/-!
DEFINITION. The registers of FAN, DIN, DOU and AOU (chapter 11): the fan window, what the registers read, and the checks of
register writes.
-/
namespace Sys2Proof.Machine

/-- Percent in Q16.16. -/
def pct100 : Int := 6553600

/-! ### The fan window -/

/-- Words of an area of the fan window. -/
def fanAreaLen (area : Nat) : Nat := if area = 0 then 192 else if area = 1 then 384 else 24

/-- Fan channel of a window word. -/
def fanWinUnit (area w : Nat) : Nat := if area = 0 then w / 16 else if area = 1 then w / 32 else w / 2

/-- Whether a table temperature keeps T_1 to T_NPTM1 strictly ascending among its neighbours as last written (R344). -/
def fanAscends (n j : Nat) (v : Word) (s : State) : Bool :=
  let top := getW FAN.CH_CFG_NPTM1 fanPg n s
  let t (i : Nat) : Int := (getShd fanPg 0 (n * 16 + i * 2) s).toInt
  decide (j = 0 ∨ top < j) ||
    ((decide (j = 1) || decide (t (j - 1) < v.toInt)) && (decide (j = top) || decide (v.toInt < t (j + 1))))

/-- Whether a window word is refused (R344). -/
def fanWordBad (area w : Nat) (v : Word) (s : State) : Bool :=
  if area = 0 then
    if w % 2 = 0 then !fanAscends (w / 16) (w % 16 / 2) v s else decide (1000 < bitsOf v 25 16)
  else if area = 1 then decide (w % 2 = 1) && decide (64 < bitsOf v 6 0)
  else if w % 2 = 0 then decide (bitsOf v 31 16 = 0 ∨ bitsOf v 15 8 < 101)
  else decide (v ≠ 0)

/-- A window word as it is stored: reserved bits read 0 (R12). -/
def fanStored (area w : Nat) (v : Word) : Word :=
  if area = 0 ∧ w % 2 = 1 then v &&& 0x03FFFFFF
  else if area = 1 ∧ w % 2 = 1 then v &&& 0x7F
  else if area = 2 then v &&& 0xFFFFFF0F else v

/-- A write of FAN_WIN_DATA; the word takes effect at the next boundary. -/
def fanWinWrite (cx : WriteCx) (s : State) : WrOut :=
  let area := getW FAN.WIN_ADDR_AREA fanPg 0 s
  let w := getW FAN.WIN_ADDR_WORD fanPg 0 s
  let v := cx.data
  if !unitOwns fanPg (fanWinUnit area w) cx.party s || fanWordBad area w v s then .refuse
  else
    let v := fanStored area w v
    let changed := decide (area ≠ 1) && decide (getShd fanPg area w s ≠ v)
    let s := setShd fanPg area w v s
    .ok (if changed then bumpWriteGen fanPg s else s)

/-- Advances WORD after an access to WIN_DATA with AINC = 1, wrapping within the area (R504). -/
def fanWinAdvance (s : State) : State :=
  if getB FAN.WIN_ADDR_AINC fanPg 0 s then
    setF FAN.WIN_ADDR_WORD fanPg 0
      ((getW FAN.WIN_ADDR_WORD fanPg 0 s + 1) % fanAreaLen (getW FAN.WIN_ADDR_AREA fanPg 0 s)) s
  else s

/-! ### FAN -/

/-- Whether a temperature source word is allowed (R328). -/
def fanSrcOk (w : Nat) : Bool :=
  decide (w / 4096 = 0 ∨ w / 4096 = 1 ∨ w / 4096 = 4 ∨ w / 4096 = 5 ∨ w / 4096 = 7) && srcValid w none true

/-- A command write: held in rows 2 to 5, else stored, and the end of a release noted (R323, R324). -/
def commandStore (command bad : Bool) (cx : WriteCx) (s : State) : WrOut :=
  if bad then .refuse
  else if command && chanHeld cx.page cx.unit s then .held
  else .ok (let s := storeFields cx s; if command then noteCommand cx.page cx.unit cx.party s else s)

/-- A Q16.16 value outside `[0, hi]`. -/
def qOutside (v : Word) (hi : Int) : Bool := decide (v.toInt < 0) || decide (hi < v.toInt)

/-- LEARN is cleared: A is 100, and an ageing episode ends where that lies below AGE_LIM − 5 (R333). -/
def fanAgeReset (n : Nat) (s : State) : State :=
  let x := fanSt s n
  let ends := x.ageEp && decide (105 < bitsOf (getAct fanPg 2 (n * 2) s) 15 8)
  let s := putFan n { x with age := FanState.idle.age, ageEp := x.ageEp && !ends } s
  if ends then endEp fanPg kFanAgeing n s else s

/-- The checks of a write to the FAN page's block registers. -/
def fanWrite (cx : WriteCx) (s : State) : WrOut :=
  let n := cx.unit
  let k := cx.off % 0x20
  if cx.off = 0x340 then
    storeUnless (decide (2 < cxNew cx 14 12)
      || ((cxHas cx 0 || cxHas cx 12) && decide (fanAreaLen (cxNew cx 14 12) ≤ cxNew cx 11 0))) cx s
  else if cx.off = 0x344 then fanWinWrite cx s
  else if cx.off < 0x280 then
    if k = 0 then
      let none4 := decide (rdReg s (pageAddr fanPg (0x118 + 0x20 * n)) = 0 ∧ rdReg s (pageAddr fanPg (0x11C + 0x20 * n)) = 0)
      if (cxHas cx 27 && !ownerValid (cxBits cx 31 27)) || (cxHas cx 0 && decide (cxBits cx 1 0 = 1) && none4) then .refuse
      else
        let s := storeFields cx s
        let x := fanSt s n
        let x : FanState := { x with
          stallClr := x.stallClr || decide (cxBits cx 9 9 = 1)
          tripClr := x.tripClr || decide (cxBits cx 8 8 = 1) }
        let s := putFan n x s
        .ok (if cxHas cx 12 && decide (cxBits cx 12 12 = 0) then fanAgeReset n s else s)
    else if k = 4 then
      storeUnless (cxOutside cx 31 16 20 25000 || cxOutside cx 14 12 1 7 || cxOutside cx 11 4 5 100) cx s
    else if k = 8 then commandStore (cxHas cx 16) (cxOutside cx 25 16 0 1000 || cxOutside cx 9 0 0 1000) cx s
    else if k = 0xC then commandStore (cxHas cx 0) (cxHas cx 0 && qOutside cx.data pct100) cx s
    else if k = 0x10 then
      storeUnless (decide (cx.fields ≠ []) && decide (cxNew cx 15 0 = 0 ∨ cxNew cx 31 16 ≤ cxNew cx 15 0)) cx s
    else if k = 0x14 then
      storeUnless (cxOutside cx 7 0 1 255
        || ((cxHas cx 24 || cxHas cx 16) && decide (cxNew cx 31 24 ≤ cxNew cx 23 16))) cx s
    else
      storeUnless ((cxHas cx 16 && !fanSrcOk (cxBits cx 31 16)) || (cxHas cx 0 && !fanSrcOk (cxBits cx 15 0))) cx s
  else .ok (storeFields cx s)

/-- Source word of a fan's speed. -/
def fanSrc (n : Nat) : Nat := 8 * 4096 + n

/-- What the FAN page's registers read where they show computed state. -/
def fanRead (off : Nat) (s : State) : Option Word :=
  if 0x280 ≤ off ∧ off < 0x2E0 then
    let n := (off - 0x280) / 8
    let x := fanSt s n
    if off % 8 = 4 then some (getPub (fanSrc n) s).value
    else
      some (ofN (x.out * 2 ^ 22 + x.region * 2 ^ 18 + x.retry * 2 ^ 16 + satN 255 (x.age.toFixed 0).toNat * 256
        + b2n x.unfit * 128 + b2n x.ageEp * 64 + b2n (chanHeld fanPg n s) * 32 + b2n x.gov.clip * 16 + x.st))
  else if off = 0x344 then some (getShd fanPg (getW FAN.WIN_ADDR_AREA fanPg 0 s) (getW FAN.WIN_ADDR_WORD fanPg 0 s) s)
  else none

/-- Whether the speed of a channel with MODE ≠ 0 is stale (R49). -/
def fanStale (s : State) : Bool :=
  (List.range 12).any fun n => decide ((fanSt s n).mode ≠ 0) && (getPub (fanSrc n) s).stale

/-! ### DIN -/

/-- A counter. -/
def cntSt (s : State) (c : Nat) : CntState := tabGet (fun _ => CntState.idle) s.drv.cnts c

/-- Puts a counter. -/
def putCnt (c : Nat) (v : CntState) (s : State) : State :=
  { s with drv := { s.drv with cnts := tabSet (fun _ => CntState.idle) s.drv.cnts c v } }

/-- Key of a published count; it is no source word. -/
def countKey (c : Nat) : Nat := 8 * 4096 + 3 * 256 + c

/-- Source word of a published rate. -/
def rateSrc (c : Nat) : Nat := 8 * 4096 + 2 * 256 + c

/-- The checks of a write to the DIN page's block registers. -/
def dinWrite (cx : WriteCx) (s : State) : WrOut :=
  if 0x110 ≤ cx.off ∧ cx.off < 0x190 then storeUnless (cxOutside cx 19 0 0 1000000) cx s
  else if 0x200 ≤ cx.off then
    storeUnless (cxOutside cx 19 16 3 13 || cxOutside cx 9 8 0 2 || cxOutside cx 5 0 0 40) cx s
  else .ok (storeFields cx s)

/-- What the DIN page's registers read where they show computed state. -/
def dinRead (off : Nat) (s : State) : Option Word :=
  if 0x200 ≤ off ∧ off < 0x280 then
    let c := (off - 0x200) / 0x10
    let b := getPub (countKey c) s
    if off % 0x10 = 4 then some b.value
    else if off % 0x10 = 8 then some (getPub (rateSrc c) s).value
    else if off % 0x10 = 0xC then some (ofN (b2n b.stale * 2147483648 + age16 s b.tick))
    else none
  else none

/-- Whether a published count or rate is stale (R49). -/
def dinStale (s : State) : Bool :=
  (List.range 8).any fun c => (getPub (countKey c) s).stale || (getPub (rateSrc c) s).stale

/-! ### DOU and AOU -/

/-- The checks of a write to the DOU page's block registers. -/
def douWrite (cx : WriteCx) (s : State) : WrOut :=
  let j := cx.unit
  if cx.off = 0x280 then storeUnless (cxOutside cx 7 0 1 255) cx s
  else if cx.off < 0x200 then
    if cx.off % 8 = 0 then
      match commandStore (cxHas cx 2)
        ((cxHas cx 27 && !ownerValid (cxBits cx 31 27)) || cxOutside cx 19 4 8 65535 || cxOutside cx 1 0 0 2) cx s with
      | .ok s => .ok (if cxBits cx 20 20 = 1 then putDo j { doSt s j with tripClr := true } s else s)
      | r => r
    else commandStore (cxHas cx 0) (cxHas cx 0 && qOutside cx.data pct100) cx s
  else .ok (storeFields cx s)

/-- What the DOU page's registers read where they show computed state. -/
def douRead (off : Nat) (s : State) : Option Word :=
  if 0x200 ≤ off ∧ off < 0x260 then
    let j := (off - 0x200) / 4
    let x := doSt s j
    some (ofN (bitsOf (rdReg s (pageAddr douPg off)) 31 24 * 2 ^ 24 + b2n x.therm * 256 + b2n x.rbEp * 128
      + b2n (x.gov.gated || gateOff douPg j s) * 64 + b2n (chanHeld douPg j s) * 32 + b2n (atSafe douPg j s) * 16
      + b2n x.gov.clip * 8 + b2n x.lim * 4 + b2n x.trip * 2 + b2n x.out))
  else none

/-- The checks of a write to the AOU page's block registers. -/
def aouWrite (cx : WriteCx) (s : State) : WrOut :=
  let k := cx.unit
  let o := (cx.off - 0x100) % 0x20
  let mode := getW AOU.CH_CTRL_MODE aouPg k s
  if o = 0 then
    storeUnless ((cxHas cx 27 && !ownerValid (cxBits cx 31 27)) || cxOutside cx 15 8 1 255 || cxOutside cx 1 0 0 2) cx s
  else if o = 4 then commandStore (cxHas cx 0) (cxHas cx 0 && qOutside cx.data (aoLimit mode)) cx s
  else if o = 8 then storeUnless (cxHas cx 0 && qOutside cx.data (aoLimit mode)) cx s
  else .ok (storeFields cx s)

/-- Source word of an analog readback. -/
def rbSrc (k : Nat) : Nat := 8 * 4096 + 256 + k

/-- What the AOU page's registers read where they show computed state. -/
def aouRead (off : Nat) (s : State) : Option Word :=
  if 0x100 ≤ off ∧ off < 0x200 then
    let k := (off - 0x100) / 0x20
    let x := aoSt s k
    let b := getPub (rbSrc k) s
    if off % 0x20 = 0xC then some b.value
    else if off % 0x20 = 0x10 then
      some (ofN (b2n x.rbEp * 128 + b2n (x.gov.gated || gateOff aouPg k s) * 64 + b2n (chanHeld aouPg k s) * 32
        + b2n (atSafe aouPg k s) * 16 + b2n x.gov.clip * 8 + b2n x.open_ * 4 + b2n x.limit * 2 + b2n b.stale))
    else none
  else none

/-- Whether the readback of a channel with MODE ≠ 0 is stale (R49). -/
def aouStale (s : State) : Bool :=
  (List.range 8).any fun k => decide ((aoSt s k).mode ≠ 0) && (getPub (rbSrc k) s).stale

end Sys2Proof.Machine
end

