-- ==== Sys2Proof/Machine/VlvPort.lean ====
section
/-!
DEFINITION. The valve pages' registers (chapter 10): legs, pairs, the condition of R305, what the registers read, and the
checks of register writes.
-/
namespace Sys2Proof.Machine

/-- A valve leg, by its global number (R292). -/
def legSt (s : State) (l : Nat) : LegState := tabGet (fun _ => LegState.idle) s.drv.legs l

/-- Puts a valve leg. -/
def putLeg (l : Nat) (v : LegState) (s : State) : State :=
  { s with drv := { s.drv with legs := tabSet (fun _ => LegState.idle) s.drv.legs l v } }

/-- Page of a leg. -/
def legPg (l : Nat) : Nat := 0x30 + l / 8

/-- A field of a leg in force. -/
def legF (f : Fld) (l : Nat) (s : State) : Nat := getF f (legPg l) (l % 8) s

/-- Puts a field of a leg's registers. -/
def setLegF (f : Fld) (l v : Nat) (s : State) : State := setF f (legPg l) (l % 8) v s

/-- Puts a one-bit field of a leg's registers. -/
def setLegB (f : Fld) (l : Nat) (b : Bool) (s : State) : State := setLegF f l (b2n b) s

/-- The partner of a leg (R292). -/
def partnerOf (l : Nat) : Nat := if l % 2 = 0 then l + 1 else l - 1

/-- A field of a leg's pair in force. -/
def pairF (f : Fld) (l : Nat) (s : State) : Nat := getF f (legPg l) (l % 8 / 2) s

/-- Whether a forced state acts on a leg (R312). -/
def legForced (l : Nat) (s : State) : Bool := covered (legPg l) (l % 8) s || silenced (legPg l) (l % 8) s

/-- Whether the safe state applies to a leg: a VFIELD window, forced, page stopped, or EN = 0 (R311, R473). -/
def legSafe (l : Nat) (s : State) : Bool :=
  fieldWindow s || legForced l s || !running (legPg l) s || decide (legF VLV.LG_CTRL_EN l s = 0)

/-- Whether the high-side switch of a leg's pair is tripped. -/
def hsTripped (l : Nat) (s : State) : Bool := decide (pairF VLV.PR_STAT_HS_TRIP l s ≠ 0)

/-- Whether the high-side switch of a pair is on (R294). -/
def hsOn (l : Nat) (s : State) : Bool :=
  let need (x : LegState) : Bool := decide (x.sw = .on ∨ x.sw = .clamp)
  !hsTripped l s && (need (legSt s l) || need (legSt s (partnerOf l)))

/-- The first condition of R305 that a pair would break, by its cause; 0 for none. -/
def pairCause (ovl pullA holdA pullB holdB : Nat) : Nat :=
  if ovl = 2 ∧ 1000 < pullA + pullB then 1
  else if ovl = 1 ∧ (1000 < pullA + holdB ∨ 1000 < pullB + holdA) then 2
  else if pullA < holdA ∨ pullB < holdB then 3
  else 0

/-- The checks of a write to LGi_CUR or PRk_CFG against the configuration that will be in force (R305). -/
def pairCheck (p k ovl : Nat) (cur : Nat → Word) (cx : WriteCx) (s : State) : WrOut :=
  let c := pairCause ovl (bitsOf (cur (2 * k)) 25 16) (bitsOf (cur (2 * k)) 9 0)
    (bitsOf (cur (2 * k + 1)) 25 16) (bitsOf (cur (2 * k + 1)) 9 0)
  if c ≠ 0 then
    .refuseTo (setF VLV.CFG_CHK_CAUSE p 0 c (setF VLV.CFG_CHK_PAIR p 0 k (setB VLV.CFG_CHK_VALID p 0 true s)))
  else .ok (storeFields cx s)

/-- LGi_CUR of a local leg as last written. -/
def curWord (p : Nat) (s : State) (i : Nat) : Word := rdReg s (pageAddr p (0x108 + 0x20 * i))

/-- A command write (R296, R297, R312). A later command of the same tick replaces the earlier one. -/
def legCommand (l op onT : Nat) (s : State) : WrOut :=
  let p := legPg l
  if stopped p s || decide (legF VLV.LG_CTRL_EN l s = 0) || (decide (op = 1) && decide (onT = 0)) then .refuse
  else if legForced l s then .held
  else if op = 0 then .ok s
  else
    let x := legSt s l
    let old (c : Option LegCmd) : Bool := match c with | some c => decide (c.at_ < s.time.ticks) | none => false
    let new : LegCmd := ⟨op, onT, s.time.ticks⟩
    let again := if old x.cmd then x.next.isSome && !old x.next else x.cmd.isSome
    let s := if again then
        setIrq p 18 (incSat VLV.LG_CNT_OVW p (l % 8) (setLegB VLV.LG_STAT_OVERWR l true s)) else s
    .ok (putLeg l (if old x.cmd then { x with next := some new } else { x with cmd := some new }) s)

/-- The checks of a write to a VLV page's block registers. -/
def vlvWrite (cx : WriteCx) (s : State) : WrOut :=
  let p := cx.page
  let i := cx.unit
  let l := (p - 0x30) * 8 + i
  if cx.off < 0x200 then
    let k := cx.off % 0x20
    if k = 0 then
      if (cxHas cx 27 && !ownerValid (cxBits cx 31 27)) || (decide (cxBits cx 8 8 = 1) && hsTripped l s) then .refuse
      else
        let s := storeFields cx s
        let s := if cxBits cx 9 9 = 1 then wrReg s (pageAddr p (0x230 + 4 * i)) 0 else s
        .ok (if cxBits cx 8 8 = 1 then putLeg l { legSt s l with tripClr := true } s else s)
    else if k = 4 then
      if cx.fields = [] then .ok s else legCommand l (cxBits cx 31 30) (cxBits cx 23 0) s
    else if k = 8 then
      if cxOutside cx 25 16 0 800 || cxOutside cx 9 0 0 300 then .refuse
      else
        let cur (j : Nat) : Word := if j = i then cxMerged cx else curWord p s j
        pairCheck p (i / 2) (getW VLV.PR_CFG_OVL p (i / 2) s) cur cx s
    else if k = 0xC then storeUnless (cxOutside cx 31 24 1 255 || cxOutside cx 16 0 100 100000) cx s
    else if k = 0x10 then
      storeUnless (cxOutside cx 31 30 0 2 || cxOutside cx 29 28 0 2 || cxOutside cx 27 26 0 2 || cxOutside cx 25 24 0 2
        || cxOutside cx 5 0 1 63) cx s
    else if k = 0x14 then storeUnless (cxOutside cx 22 16 1 120 || cxOutside cx 6 0 1 100) cx s
    else .ok (storeFields cx s)
  else if cx.off < 0x220 ∧ cx.off % 8 = 0 then
    if cxOutside cx 24 8 0 100000 || cxOutside cx 1 0 0 2 then .refuse
    else
      match pairCheck p i (cxNew cx 1 0) (curWord p s) cx s with
      | .ok s => .ok (if cxBits cx 31 31 = 1 then
          { s with drv := { s.drv with hsClr := ((p - 0x30) * 4 + i) :: s.drv.hsClr } } else s)
      | r => r
  else if 0x220 ≤ cx.off ∧ cx.off < 0x228 then storeUnless (cxOutside cx 11 0 500 2500) cx s
  else .ok (storeFields cx s)

/-- What a VLV page's registers read where they show computed state. -/
def vlvRead (p off : Nat) (s : State) : Option Word :=
  if 0x100 ≤ off ∧ off < 0x200 ∧ off % 0x20 = 0x18 then
    let l := (p - 0x30) * 8 + (off - 0x100) / 0x20
    let x := legSt s l
    let w := setBits (rdReg s (pageAddr p off)) 13 13 (b2n (legForced l s))
    some (setBits (setBits w 5 5 (b2n x.wait.isSome)) 2 0 x.st)
  else if 0x200 ≤ off ∧ off < 0x220 ∧ off % 8 = 4 then
    let l := (p - 0x30) * 8 + 2 * ((off - 0x200) / 8)
    some (setBits (rdReg s (pageAddr p off)) 0 0 (b2n (hsOn l s)))
  else none

end Sys2Proof.Machine
end

