-- ==== Sys2Proof/Machine/VlvCore.lean ====
section
/-!
DEFINITION. The valve drive at work (chapter 10): profiles, decay and substitution, pair policies, duty, trips and forced states.
-/
namespace Sys2Proof.Machine

/-! ### Decay -/

/-- The switch state that a leg's decay calls for now, before substitution (R293). -/
def decaySw (l : Nat) (m t : Nat) (s : State) : LegSw :=
  if m = 0 then .slow else if m = 1 then .fast
  else if usNow s < t + legF VLV.LG_DECAY_MIXT l s then .fast else .slow

/-- Brings a leg's decay in line with its partner: FAST is run as CLAMP while the partner is in ON (R295). A tripped high-side
switch lets the current decay through its freewheel diode (R309). -/
def refreshLeg (l : Nat) (s : State) : State :=
  let x := legSt s l
  match x.decay with
  | none => s
  | some (m, t, sub) =>
    if x.sw = .fast ∨ x.sw = .clamp then
      if (legSt s (partnerOf l)).sw = .on ∧ hsTripped l s = false then
        let s := if sub then s
          else incSat VLV.LG_CNT_SUBST (legPg l) (l % 8) (setLegB VLV.LG_STAT_SUBST l true s)
        putLeg l { x with sw := .clamp, decay := some (m, t, true) } s
      else putLeg l { x with sw := .fast } s
    else s

/-- Both legs of a pair. -/
def refreshPair (l : Nat) (s : State) : State := refreshLeg (partnerOf l) (refreshLeg l s)

/-- A decay interval of a leg begins by a method (R293). -/
def beginDecay (l m : Nat) (s : State) : State :=
  let t := usNow s
  refreshPair l (putLeg l { legSt s l with sw := decaySw l m t s, decay := some (m, t, false) } s)

/-- LS turns on: a running decay is abandoned (R300). -/
def legOn (l : Nat) (s : State) : State :=
  refreshPair l (putLeg l { legSt s l with sw := .on, decay := none } s)

/-! ### Profiles -/

/-- Adds the time in PULL or HOLD up to now to the bin in progress (R306). -/
def countOn (l : Nat) (s : State) : State :=
  let x := legSt s l
  match x.onSince with
  | none => s
  | some t => putLeg l { x with cur := x.cur + (usNow s - t), onSince := some (usNow s) } s

/-- Whether a leg is in PULL or HOLD. -/
def inProfile (x : LegState) : Bool := decide (x.st = 1 ∨ x.st = 2)

/-- The unchopped ramp ends without a confirmed dip (R302). -/
def endRamp (l : Nat) (s : State) : State :=
  let x := legSt s l
  if x.ramp then setLegF VLV.LG_MOVE_MSTAT l 2 (putLeg l { x with ramp := false } s) else s

/-- A profile ends: the leg enters a state of R300 with a decay by a method. -/
def endProfile (l st m : Nat) (s : State) : State :=
  let s := endRamp l (countOn l s)
  beginDecay l m (putLeg l { legSt s l with st := st, onSince := none, chop := false } s)

/-- DK_OFF of a leg. -/
def dkOff (l : Nat) (s : State) : Nat := legF VLV.LG_DECAY_DK_OFF l s

/-- A PULL starts now (R298, R300); `amp` is the present current in 5 mA. I_ZERO is 20 mA. -/
def startPull (l : Nat) (c : LegCmd) (amp : Nat) (s : State) : State :=
  let t := usNow s
  let hot := decide (4 ≤ amp)
  let pe := t + legF VLV.LG_TIME_T_PULL l s
  let s := putLeg l { legSt s l with
    st := 1, start := t, pullEnd := pe, endAt := if c.op = 1 then some (Nat.max (t + c.onT) pe) else none
    chop := false, ramp := !hot, onSince := some t, wait := none } s
  let z (f : Fld) (a : State) : State := setLegB f l false a
  let s := z VLV.LG_STAT_SUBST (z VLV.LG_STAT_PREEMPT (z VLV.LG_STAT_EXT (z VLV.LG_STAT_REACH s)))
  let s := z VLV.LG_STAT_BLOCKED (z VLV.LG_STAT_OVERWR s)
  legOn l (if hot then setLegF VLV.LG_MOVE_MSTAT l 3 s else s)

/-- A command is not executed (R298). -/
def blockCmd (l : Nat) (s : State) : State :=
  setIrq (legPg l) 18 (incSat VLV.LG_CNT_BLOCK (legPg l) (l % 8) (setLegB VLV.LG_STAT_BLOCKED l true s))

/-- Whether a leg is in PULL or on its way from I_PULL to I_HOLD. -/
def inTransition (x : LegState) : Bool := decide (x.st = 1) || (decide (x.st = 2) && !x.chop)

/-- Whether a PULL of a leg may start beside its partner, at the partner's current in 5 mA (R303). -/
def pullPermitted (l partnerAmp : Nat) (s : State) : Bool :=
  let ovl := pairF VLV.PR_CFG_OVL l s
  let y := legSt s (partnerOf l)
  if ovl = 0 then decide (partnerAmp + legF VLV.LG_CUR_I_PULL l s ≤ 1000)
  else if ovl = 1 then !inTransition y
  else true

/-- A start of PULL under the pair's overlap policy (R303); `both` if the partner starts at the same instant (R304). -/
def policyStart (l : Nat) (c : LegCmd) (both : Bool) (amps : Nat → Nat) (s : State) : State :=
  let q := partnerOf l
  let y := legSt s q
  let ovl := pairF VLV.PR_CFG_OVL l s
  let prio := decide (pairF VLV.PR_CFG_PRI l s = l % 2)
  let busy := inProfile y || y.wait.isSome
  let waiting (a : State) : State := putLeg l { legSt a l with wait := some { c with at_ := usNow a } } a
  if ovl = 0 && !prio && (busy || both) then blockCmd l s
  else if ovl = 0 && prio && busy then
    let s := if inProfile y then setLegB VLV.LG_STAT_PREEMPT q true (endProfile q 3 1 s)
      else putLeg q { y with wait := none } s
    if pullPermitted l (amps q) s then startPull l c (amps l) s else waiting s
  else if ovl = 1 && inTransition y then waiting s
  else startPull l c (amps l) s

/-- A command acts at its start instant by the state of the leg (R298, R299). One that replaces a waiting command waits in its place,
from its own start instant. -/
def actCommand (l : Nat) (c : LegCmd) (both : Bool) (amps : Nat → Nat) (s : State) : State :=
  let t := usNow s
  let x := legSt s l
  let s := match x.endAt with
    | some e => if inProfile x && decide (e ≤ t) then endProfile l 3 (dkOff l s) s else s
    | none => s
  let x := legSt s l
  let clr (a : State) : State := setLegB VLV.LG_STAT_BLOCKED l false (setLegB VLV.LG_STAT_OVERWR l false a)
  if legSafe l s || decide (x.st = 4) || decide (legF VLV.LG_STAT_DUTY_EP l s = 1) then
    (if c.op = 3 then putLeg l { x with wait := none } s else blockCmd l s)
  else if x.wait.isSome then
    if c.op = 3 then clr (putLeg l { x with wait := none } s)
    else clr (putLeg l { x with wait := some { c with at_ := t } } s)
  else if inProfile x then
    if c.op = 3 then endProfile l 3 (dkOff l s) (clr s)
    else if c.op = 2 then clr (putLeg l { x with endAt := none } s)
    else
      let s := putLeg l { x with endAt := x.endAt.map fun e => Nat.max e (t + c.onT) } s
      clr (incSat VLV.LG_CNT_EXT (legPg l) (l % 8) (setLegB VLV.LG_STAT_EXT l true s))
  else if c.op = 3 then clr s
  else policyStart l c both amps s

/-- The command of a leg that is due at this phase 40 (R297). -/
def dueCmd (s : State) (l : Nat) : Option LegCmd :=
  match (legSt s l).cmd with
  | some c => if c.at_ < s.time.ticks then some c else none
  | none => none

/-- Whether a leg is about to start a PULL by a command at this instant (R304). -/
def startsPull (s : State) (l : Nat) : Bool :=
  let x := legSt s l
  match dueCmd s l with
  | some c => decide (c.op ≠ 3) && !inProfile x && decide (x.st ≠ 4) && !legSafe l s
      && decide (legF VLV.LG_STAT_DUTY_EP l s = 0)
  | none => false

/-- What a change of OWNER or a duty episode ends at phase 40 (R307, R316). -/
def legPhase40 (l : Nat) (s : State) : State :=
  let x := legSt s l
  if x.ownOff || x.dutyOff then
    let s := putLeg l { x with ownOff := false, dutyOff := false, wait := if x.ownOff then none else x.wait } s
    if inProfile x then endProfile l 3 (dkOff l s) s else s
  else s

/-- The command last written to a leg is lost on the bridge: it is not executed (R297). -/
def loseCommand (l : Nat) (s : State) : State :=
  let x := legSt s l
  if x.next.isSome then blockCmd l (putLeg l { x with next := none } s)
  else if x.cmd.isSome then blockCmd l (putLeg l { x with cmd := none } s)
  else s

/-- One leg at phase 40. -/
def startLeg (amps : Nat → Nat) (both : Nat → Bool) (l : Nat) (s : State) : State :=
  match dueCmd s l with
  | none => s
  | some c => actCommand l c (both l) amps (putLeg l { legSt s l with cmd := (legSt s l).next, next := none } s)

/-- COMMAND_START (R297, R298): every leg whose command is due acts on it; of a pair that starts together the priority leg,
or leg 2k, comes first (R304). -/
def commandStart (amps : List Nat) (s : State) : State :=
  let s := forN 16 legPhase40 (atPhase 40 0 s)
  let cur (l : Nat) : Nat := nthN amps l
  let start := (List.range 16).filter (startsPull s)
  let both (l : Nat) : Bool := start.contains l && start.contains (partnerOf l)
  forN 8 (fun k a =>
    let first := if pairF VLV.PR_CFG_OVL (2 * k) a = 0 then 2 * k + pairF VLV.PR_CFG_PRI (2 * k) a else 2 * k
    startLeg cur both (partnerOf first) (startLeg cur both first a)) s

/-- REACH (R300): chopping begins. -/
def legReach (l : Nat) (s : State) : State :=
  let x := legSt s l
  if x.st = 1 ∧ x.chop = false then
    let s := endRamp l (setLegB VLV.LG_STAT_REACH l true s)
    beginDecay l (legF VLV.LG_DECAY_DK_PULL l s) (putLeg l { legSt s l with chop := true } s)
  else s

/-- ARMATURE_DIP (R302): the dip is confirmed. -/
def legDip (l t imax imin amp : Nat) (s : State) : State :=
  let th := legF VLV.LG_TIME_DIP_TH l s
  let x := legSt s l
  if x.st = 1 ∧ x.ramp = true ∧ imin + th ≤ imax ∧ imin + th ≤ amp then
    let s := setLegF VLV.LG_MOVE_MOVE_T l (satN 0xFFFF t) (setLegF VLV.LG_MOVE_MOVE_I l (satN 0x3FF imin) s)
    setLegF VLV.LG_MOVE_MSTAT l 1 (putLeg l { x with ramp := false } s)
  else s

/-- PULL_END (R300): at s + T_PULL the leg goes to HOLD. -/
def legPullEnd (l : Nat) (s : State) : State :=
  let x := legSt s l
  let before := match x.endAt with | some e => decide (x.pullEnd < e) | none => true
  if x.st = 1 ∧ before = true then
    match reachUs x.pullEnd s with
    | none => s
    | some s =>
      let s := endRamp l s
      beginDecay l (legF VLV.LG_DECAY_DK_P2H l s) (putLeg l { legSt s l with st := 2, chop := false } s)
  else s

/-- HOLD_LEVEL_REACHED (R300): the current is chopped at I_HOLD. -/
def legHoldLevel (l : Nat) (s : State) : State :=
  let x := legSt s l
  if x.st = 2 ∧ x.chop = false then
    beginDecay l (legF VLV.LG_DECAY_DK_HOLD l s) (putLeg l { x with chop := true } s)
  else s

/-- PROFILE_END (R300): at E the leg goes to OFF. -/
def legProfileEnd (l : Nat) (s : State) : State :=
  let x := legSt s l
  match x.endAt with
  | none => s
  | some e =>
    if inProfile x then
      match reachUs e s with
      | none => s
      | some s => endProfile l 3 (dkOff l s) s
    else s

/-- DECAY_END (R300, R310): a leg in OFF enters IDLE; a tripped leg has no more current. -/
def legDecayEnd (l : Nat) (s : State) : State :=
  let x := legSt s l
  if x.st = 3 then putLeg l { x with st := 0, sw := .idle, decay := none } s
  else if x.st = 4 then putLeg l { x with sw := .idle, decay := none } s
  else s

/-- CHOP_PERIOD_START (R301): LS turns on if the current is below the target. -/
def legChopStart (l amp : Nat) (s : State) : State :=
  let x := legSt s l
  let target := if x.st = 1 then legF VLV.LG_CUR_I_PULL l s else legF VLV.LG_CUR_I_HOLD l s
  if inProfile x && x.chop && decide (amp < target) && !hsTripped l s then legOn l s else s

/-- CHOP_TARGET_REACHED (R301): the off-time runs in the phase's method. -/
def legChopTarget (l : Nat) (s : State) : State :=
  let x := legSt s l
  if inProfile x && x.chop && decide (x.sw = .on) then
    beginDecay l (if x.st = 1 then legF VLV.LG_DECAY_DK_PULL l s else legF VLV.LG_DECAY_DK_HOLD l s) s
  else s

/-- MIXED_FAST_END (R293): MIXT µs into a MIXED interval the leg changes to SLOW. -/
def legMixedEnd (l : Nat) (s : State) : State :=
  let x := legSt s l
  match x.decay with
  | some (m, t, _) =>
    if m = 2 ∧ (x.sw = .fast ∨ x.sw = .clamp) then
      match reachUs (t + legF VLV.LG_DECAY_MIXT l s) s with
      | none => s
      | some s => putLeg l { legSt s l with sw := .slow } s
    else s
  | none => s

/-- PRk_STAT.LAST_WAIT takes the wait of a leg (R303). -/
def lastWait (l since : Nat) (s : State) : State :=
  setF VLV.PR_STAT_LAST_WAIT (legPg l) (l % 8 / 2) (satN 0xFFFF (usNow s - since)) s

/-- WAITING_PULL_START (R303): a waiting leg starts its PULL once the policy permits. -/
def legWaitStart (l amp partnerAmp : Nat) (s : State) : State :=
  let x := legSt s l
  match x.wait with
  | none => s
  | some c =>
    let expired := decide (pairF VLV.PR_CFG_OVL l s = 1) && decide (c.at_ + pairF VLV.PR_CFG_DMAX l s ≤ usNow s)
    if !pullPermitted l partnerAmp s || expired then s
    else
      let s := lastWait l c.at_ (setLegB VLV.LG_STAT_DLY_EXP l false (putLeg l { x with wait := none } s))
      if legSafe l s || decide (legF VLV.LG_STAT_DUTY_EP l s = 1) then blockCmd l s else startPull l c amp s

/-- DELAY_EXPIRE (R303): at s + DMAX the waiting command is not executed. The wait is open at its end (R54), so this holds of a
partner that leaves its transition at that very instant too. -/
def legDelayExpire (l : Nat) (s : State) : State :=
  let x := legSt s l
  match x.wait with
  | none => s
  | some c =>
    if pairF VLV.PR_CFG_OVL l s = 1 then
      match reachUs (c.at_ + pairF VLV.PR_CFG_DMAX l s) s with
      | none => s
      | some s => blockCmd l (lastWait l c.at_ (setLegB VLV.LG_STAT_DLY_EXP l true (putLeg l { legSt s l with wait := none } s)))
    else s

/-! ### Trips and forced states -/

/-- A leg enters TRIP; its current, if any, decays in FAST or CLAMP (R308, R309). -/
def tripLeg (l : Nat) (s : State) : State :=
  let x := legSt s l
  let s := setLegB VLV.LG_STAT_TRIP l true (putLeg l { x with wait := none, tripClr := false } s)
  if x.sw = .idle then putLeg l { legSt s l with st := 4 } s else endProfile l 4 1 s

/-- LEG_OVERCURRENT (R308). -/
def legOvercurrent (l : Nat) (s : State) : State :=
  if (legSt s l).sw = .on then
    beginEp (legPg l) 0x01 kVlvOvercurrent l (setIrq (legPg l) 16 (tripLeg l s))
  else s

/-- HS_OVERCURRENT (R309). -/
def hsOvercurrent (k : Nat) (s : State) : State :=
  let p := 0x30 + k / 4
  if hsOn (2 * k) s then
    let s := setB VLV.PR_STAT_HS_TRIP p (k % 4) true s
    let s := refreshPair (2 * k) (tripLeg (2 * k + 1) (tripLeg (2 * k) s))
    beginEp p 0x02 kVlvOvercurrent (0x10 + k) (setIrq p 16 s)
  else s

/-- Whether a leg's decay has LS or FW on, now or later. -/
def recirculates (x : LegState) : Bool :=
  match x.decay with
  | some (m, _, _) => decide (m ≠ 1)
  | none => false

/-- The safe state of R311 to R313: a running profile gets a FAST decay, a waiting command is lost. A forced state and a VFIELD window
turn LS and FW off, also in a decay that is already running (R312, R473). -/
def legSettle (l : Nat) (s : State) : State :=
  if legSafe l s then
    let x := legSt s l
    let s := if x.wait.isSome then blockCmd l (putLeg l { x with wait := none } s) else s
    if inProfile x then endProfile l 3 1 s
    else if recirculates x && (legForced l s || fieldWindow s) then beginDecay l 1 s
    else s
  else s

/-! ### Boundaries -/

/-- The duty window of a leg at a boundary (R306, R307). -/
def legDuty (l : Nat) (s : State) : State :=
  let p := legPg l
  let s := countOn l s
  let x := legSt s l
  let win := legF VLV.LG_DUTY_DWIN l s
  let x := if gridTick s % (win * 64) = 0 ∨ adopting s = true then { x with bins := (x.cur :: x.bins).take 124, cur := 0 } else x
  let sum := x.cur + x.bins.sum
  let lim := legF VLV.LG_DUTY_DLIM l s * win * 10000
  let on := decide (legF VLV.LG_STAT_DUTY_EP l s = 1)
  let off := decide (legF VLV.LG_DUTY_DLIM l s = 100)
  let begins := !on && !off && decide (lim ≤ sum)
  let s := putLeg l { x with dutyOff := x.dutyOff || (begins && inProfile x) } s
  if begins then setIrq p 17 (setLegB VLV.LG_STAT_DUTY_EP l true s)
  else if on && (off || decide (10 * sum ≤ 9 * lim)) then setLegB VLV.LG_STAT_DUTY_EP l false s
  else s

/-- TRIP_CLR of a leg takes effect (R310): its episode ends, and it enters IDLE once its decay has ended. -/
def legTripClr (l : Nat) (s : State) : State :=
  let x := legSt s l
  if x.tripClr then
    let s := putLeg l { x with tripClr := false, st := if x.st = 4 then (if x.decay.isSome then 3 else 0) else x.st } s
    let s := setLegB VLV.LG_STAT_TRIP l false s
    if epActive (legPg l) kVlvOvercurrent l s then endEp (legPg l) kVlvOvercurrent l s else s
  else s

/-- HS_CLR of a switch takes effect (R310). -/
def hsClear (k : Nat) (s : State) : State :=
  let p := 0x30 + k / 4
  let s := setB VLV.PR_STAT_HS_TRIP p (k % 4) false s
  if epActive p kVlvOvercurrent (0x10 + k) s then endEp p kVlvOvercurrent (0x10 + k) s else s

/-- One leg at a boundary. -/
def legBoundary (o : State) (l : Nat) (s : State) : State :=
  let p := legPg l
  let x := legSt s l
  let starts := running p s && !running p o
  let s := if starts then putLeg l { x with bins := [], cur := 0 } s else s
  let s := if unitOwner p (l % 8) s = unitOwner p (l % 8) o then s
    else putLeg l { legSt s l with ownOff := true } s
  let s := legTripClr l s
  if running p s then legDuty l s else s

/-- The valve drive at a boundary. -/
def vlvBoundary (o s : State) : State :=
  let clr := s.drv.hsClr
  let s := clr.foldl (fun a k => hsClear k a) { s with drv := { s.drv with hsClr := [] } }
  forN 16 (legBoundary o) s

/-- SOFT_RST of a VLV page (R315). -/
def vlvSoftRst (p : Nat) (s : State) : State :=
  let s := forN 8 (fun i a =>
    let l := (p - 0x30) * 8 + i
    let x := legSt a l
    let a := if x.st = 4 then legTripClr l (putLeg l { x with tripClr := true } a) else a
    let a := putLeg l { legSt a l with cmd := none, next := none, wait := none, tripClr := false, ownOff := false, dutyOff := false } a
    wrReg (wrReg a (pageAddr p (0x230 + 4 * i)) 0) (pageAddr p (0x11C + 0x20 * i)) 0) s
  forN 4 (fun k a => hsClear ((p - 0x30) * 4 + k) a) s

end Sys2Proof.Machine
end

