-- ==== Sys2Proof/Machine/FanCore.lean ====
section
/-!
DEFINITION. The fan channels at work (chapter 11): temperature and region, governed duty, kicks, stalls, trips, speed, and ageing.
-/
namespace Sys2Proof.Machine

/-! ### Temperature and the duty table -/

/-- A table word of a fan in force: j-th point, word `w`. -/
def fanTab (n j w : Nat) (s : State) : Word := getAct fanPg 0 (n * 16 + j * 2 + w) s

/-- Duty D_j in 0.1 %. -/
def fanTabDuty (n j : Nat) (s : State) : Nat := bitsOf (fanTab n j 1 s) 25 16

/-- The source words of a fan in force. -/
def fanSources (n : Nat) (s : State) : List Nat :=
  [getF FAN.CH_TSRC01_SRC0 fanPg n s, getF FAN.CH_TSRC01_SRC1 fanPg n s,
   getF FAN.CH_TSRC23_SRC2 fanPg n s, getF FAN.CH_TSRC23_SRC3 fanPg n s].filter fun w => w / 4096 ≠ 0

/-- Whether a temperature source is unfit (R328). -/
def fanUnfit (w : Nat) (s : State) : Bool :=
  let r := readSrc w s
  r.stale || !r.ok || (decide (w / 4096 = 1) && decide (r.status &&& 0xBA ≠ 0))

/-- Whether T is at or above T_j, T given as none above every point, or a value. -/
def tAtLeast (t : Option Int) (p : Int) : Bool := match t with | none => true | some v => decide (p ≤ v)

/-- Regions upward (R328). -/
def fanUp (n : Nat) (t : Option Int) (top : Nat) (s : State) : Nat → Nat → Nat
  | 0, k => k
  | fuel + 1, k =>
    if k < top ∧ tAtLeast t (fanTab n (k + 1) 0 s).toInt = true then fanUp n t top s fuel (k + 1) else k

/-- Regions downward (R328); H_j is in 0.01 K. -/
def fanDown (n : Nat) (t : Option Int) (s : State) : Nat → Nat → Nat
  | 0, k => k
  | fuel + 1, k =>
    let below := match t with
      | none => false
      | some v => decide (100 * v < 100 * (fanTab n k 0 s).toInt - 65536 * (bitsOf (fanTab n k 1 s) 15 0 : Int))
    if 0 < k ∧ below = true then fanDown n t s fuel (k - 1) else k

/-- The largest j ≤ NPTM1 with T ≥ T_j, or 0 (R328). -/
def fanRegion (n : Nat) (t : Option Int) (s : State) : Nat → Nat
  | 0 => 0
  | j + 1 => if tAtLeast t (fanTab n (j + 1) 0 s).toInt then j + 1 else fanRegion n t s j

/-- A fan reads its temperature sources in phase 40 (R328). With no source used the tick has no unfit one. -/
def fanTemperature (n : Nat) (s : State) : State :=
  let ws := fanSources n s
  if running fanPg s && decide (ws = []) then
    if (fanSt s n).unfit then setEp false fanPg 0xFF kFanTempUnfit n (putFan n { fanSt s n with unfit := false } s) else s
  else if running fanPg s then
    let s := ws.foldl (fun a w => verifySrc w a) s
    let bad := ws.any fun w => fanUnfit w s
    let vals := ws.map fun w => (readSrc w s).value.toInt
    let t := if bad then none else some (vals.foldl (fun (a : Int) v => max a v) (nthI vals 0))
    let x := fanSt s n
    let top := getF FAN.CH_CFG_NPTM1 fanPg n s
    let k := if x.anew then fanRegion n t s top else fanDown n t s 8 (fanUp n t top s 8 x.region)
    let s := putFan n { x with region := k, anew := false, unfit := bad } s
    setEp bad fanPg 0xFF kFanTempUnfit n s
  else s

/-! ### Duty and states -/

/-- LPIN in 0.1 % steps, to the nearest, ties away from 0. -/
def lpinDuty (w : Word) : Nat := (divAway (10 * w.toInt) 65536).toNat

/-- The governed duty of a fan (R320, R325), protection aside. -/
def fanGoverned (n : Nat) (s : State) : Nat :=
  let x := fanSt s n
  let r := govBelow fanPg n s
  let table := fanTabDuty n x.region s
  if r = 2 ∨ r = 6 then getF FAN.CH_DUTY_SAFE fanPg n s
  else if r = 3 then (if x.mode = 1 then table else x.gov.hold)
  else if r = 5 then 0
  else if x.mode = 1 then table
  else if x.mode = 2 then x.man
  else lpinDuty x.lpin

/-- The published speed, in Q16.16 rpm. -/
def fanSpeed (n : Nat) (s : State) : Int := (getPub (fanSrc n) s).value.toInt

/-- Whether a speed is at or above a threshold in rpm. -/
def speedAt (v : Int) (rpm : Nat) : Bool := decide ((rpm : Int) * 65536 ≤ v)

/-- The speed from the last complete tach period (R327): 0 once no edge has come for two revolutions at STALL_RPM. -/
def fanMeasured (n : Nat) (s : State) : Int :=
  let x := fanSt s n
  match x.tp with
  | none => 0
  | some tp =>
    if 120000000 < (usNow s - x.edge) * getF FAN.CH_SPD_STALL_RPM fanPg n s then 0
    else (sat32 (divAway (1500000000 * 65536) (getF FAN.CH_CFG_PPR fanPg n s * tp))).1

/-- Ends the tach-loss episode of a fan that leaves TACHLOST. -/
def endTachLost (n : Nat) (s : State) : State :=
  if (fanSt s n).st = 6 then endEp fanPg kFanTachLost n s else s

/-- A kick ends with success where the published speed is at or above RUN_RPM inside its window: the governed duty `g` applies
(R329). -/
def fanKickCheck (n g : Nat) (s : State) : State :=
  let x := fanSt s n
  if x.st = 1 ∧ speedAt (fanSpeed n s) (getF FAN.CH_SPD_RUN_RPM fanPg n s) = true ∧ usNow s < x.due then
    putFan n { x with st := 2, out := g, retry := 0, told := false } s
  else s

/-- A kick begins (R329); a retry that waits for demand is counted (R330). The window is closed at its start, so the phase 40 at which
the kick begins is the first at which it may succeed. -/
def fanKick (n g : Nat) (s : State) : State :=
  let x := fanSt s n
  fanKickCheck n g (putFan n { x with
    st := 1, out := 1000, due := usNow s + getF FAN.CH_CFG_KICK_TO fanPg n s * 100000
    retry := if x.pend then x.retry + 1 else x.retry, pend := false } s)

/-- BACKOFF before retry `r` (R330). -/
def fanBackoff (n r : Nat) (s : State) : State :=
  let s := endTachLost n s
  putFan n { fanSt s n with
    st := 3, out := 0, retry := r - 1, doubt := none
    due := usNow s + getF FAN.CH_EVID_BACKOFF fanPg n s * 2 ^ (r - 1) * 1000000 } s

/-- A kick has failed (R330). -/
def fanKickFail (n : Nat) (s : State) : State :=
  let x := fanSt s n
  let s := setIrq fanPg 17 s
  if 3 ≤ x.retry then raise fanPg 0x02 kFanStallLockout n (putFan n { x with st := 4, out := 0 } s)
  else
    let s := raiseIf (!x.told) fanPg 0x02 kFanStallStart n (putFan n { x with told := true } s)
    fanBackoff n (x.retry + 1) s

/-- The fan has stalled (R331): off, and BACKOFF at retry 1. -/
def fanStall (n : Nat) (s : State) : State :=
  let s := putFan n { fanSt s n with told := false } s
  raise fanPg 0x02 kFanStall n (setIrq fanPg 17 (fanBackoff n 1 s))

/-- The second evidence of R331; `amp` is the mean output current of the last tide in 4 mA. -/
def fanEvidence (n amp : Nat) (s : State) : Bool :=
  if getB FAN.CH_CTRL_VFD fanPg n s then
    getB FAN.CH_EVID_RUNDI_EN fanPg n s && dinState (getF FAN.CH_EVID_RUNDI fanPg n s) s
  else decide (getF FAN.CH_EVID_IBAND_LO fanPg n s ≤ amp ∧ amp ≤ getF FAN.CH_EVID_IBAND_HI fanPg n s)

/-- The state of a fan at phase 40, with governed duty `g` (R329, R331). -/
def fanState (n g amp : Nat) (s : State) : State :=
  let x := fanSt s n
  let run := getF FAN.CH_SPD_RUN_RPM fanPg n s
  if x.st = 0 then (if 0 < g then fanKick n g s else putFan n { x with out := 0 } s)
  else if x.st = 1 then
    if g = 0 then putFan n { x with st := 0, out := 0 } s
    else fanKickCheck n g s
  else if x.st = 2 then
    if g = 0 then putFan n { x with st := 0, out := 0, doubt := none } s else putFan n { x with out := g } s
  else if x.st = 6 then
    if g = 0 then putFan n { x with st := 0, out := 0, doubt := none } (endTachLost n s)
    else if speedAt (fanMeasured n s) run then putFan n { x with st := 2, out := g, doubt := none } (endTachLost n s)
    else if fanEvidence n amp s then putFan n { x with out := g } s
    else fanStall n s
  else s

/-- One fan at phase 40: sources, governed duty, state, tach doubt and steadiness (R328 to R333). -/
def fanPhase40 (n amp : Nat) (s : State) : State :=
  let s := fanTemperature n s
  let g := fanGoverned n s
  let old := (fanSt s n).duty
  let s := fanState n g amp (putFan n { fanSt s n with duty := g } s)
  let x := fanSt s n
  let low := decide (x.st = 2 ∨ x.st = 6) && decide (0 < x.out)
    && !speedAt (fanSpeed n s) (getF FAN.CH_SPD_STALL_RPM fanPg n s)
  putFan n { x with
    doubt := if low then some (x.doubt.getD s.time.ticks) else none
    steady := x.steady && decide (x.st = 2 ∧ g = old) && !(getPub (fanSrc n) s).stale } s

/-- KICK_TIMEOUT: the kick window ends without success (R329). -/
def fanKickTimeout (n : Nat) (s : State) : State :=
  if (fanSt s n).st = 1 then
    match reachUs (fanSt s n).due s with
    | none => s
    | some s => fanKickFail n s
  else s

/-- BACKOFF_END (R330): the retry kicks, or waits in OFF for demand. -/
def fanBackoffEnd (n : Nat) (s : State) : State :=
  if (fanSt s n).st = 3 then
    match reachUs (fanSt s n).due s with
    | none => s
    | some s =>
      let s := putFan n { fanSt s n with st := 0, pend := true } s
      if 0 < fanGoverned n s then fanKick n (fanGoverned n s) s else s
  else s

/-- TACH_DOUBT (R331): the speed has stayed below STALL_RPM for one long tide. -/
def fanTachDoubt (n amp : Nat) (s : State) : State :=
  let x := fanSt s n
  match x.doubt with
  | none => s
  | some t =>
    if s.time.ticks < t + 8192 then s
    else if !fanEvidence n amp s then fanStall n s
    else if x.st = 2 then
      raise fanPg 0x02 kFanTachLost n (setIrq fanPg 18 (putFan n { x with st := 6, doubt := some s.time.ticks, steady := false } s))
    else putFan n { x with doubt := some s.time.ticks } s

/-- FAN_TRIP (R332): from any other state; the episode of a lockout lasts until STALL_CLR (R353). The current limit is checker 0x01 of R344, and thermal
shutdown has none in that list (R349). -/
def fanTripped (n : Nat) (therm : Bool) (s : State) : State :=
  let x := fanSt s n
  if x.st = 5 then s
  else
    let s := endTachLost n s
    raise fanPg (if therm then 0xFF else 0x01) kFanOutput n (setIrq fanPg 16 (putFan n { x with st := 5, out := 0, doubt := none, steady := false } s))

/-- TACH_EDGE (R327). -/
def fanTach (n : Nat) (period : Option Nat) (s : State) : State :=
  putFan n { fanSt s n with tp := period, edge := usNow s } s

/-! ### Forced states -/

/-- What the governing row and the state of a fan demand of its output, in 0.1 % (R320, R329): off in OFF until a kick, 100 %
during one, else the duty in force. -/
def fanDemanded (n : Nat) (s : State) : Nat :=
  let x := fanSt s n
  let r := govRow fanPg n s
  if r = 1 ∨ r = 5 ∨ x.st = 0 ∨ x.duty = 0 then 0 else if x.st = 1 then 1000 else x.duty

/-- The duty in force of a fan at any instant (R320): a safe duty acts at once on a fan that is not in OFF, a stopped fan has
none; rows 3 and 7 act at phase 40. -/
def fanDutyNow (n : Nat) (s : State) : Nat :=
  let x := fanSt s n
  let r := govRow fanPg n s
  if (r = 2 ∨ r = 6) ∧ x.st ≠ 0 then getF FAN.CH_DUTY_SAFE fanPg n s else if r = 5 then 0 else x.duty

/-- A fan's duty in force follows its governing row; a tide in which it changes is not steady (R333). -/
def fanDuty (n : Nat) (s : State) : State :=
  if (fanSt s n).duty = fanDutyNow n s then s else putFan n { fanSt s n with duty := fanDutyNow n s, steady := false } s

/-- A fan's output takes what its governing row and its state demand. -/
def fanDrive (n : Nat) (s : State) : State :=
  if (fanSt s n).out = fanDemanded n s then s else putFan n { fanSt s n with out := fanDemanded n s } s

/-- What every instant makes of a fan: the duty held in host silence (R321), the governing row, duty and output. -/
def fanSettle (n : Nat) (s : State) : State :=
  let x := fanSt s n
  let s := if silenced fanPg n s && !x.gov.row3 then putFan n { x with gov := { x.gov with hold := x.duty } } s else s
  fanDrive n (fanDuty n (govNote fanPg n s))

/-! ### Boundaries and tides -/

/-- The published speed of one fan at a boundary (R327, R49); `o` is the state before the boundary. -/
def fanPublish (o : State) (n : Nat) (s : State) : State :=
  let x := fanSt s n
  if running fanPg o && decide (x.mode ≠ 0) && decide (x.st ≠ 6) && !s.drv.lost.contains (fanPg * 64 + n) then
    publish (fanSrc n) (ofI (fanMeasured n o)) s
  else stalePub (fanSrc n) s

/-- One fan at a boundary: STALL_CLR, TRIP_CLR, and a change of OWNER (R323, R330, R332). -/
def fanBoundaryOne (o : State) (n : Nat) (s : State) : State :=
  let s := fanPublish o n s
  let s := if unitOwner fanPg n s = unitOwner fanPg n o then s else releaseChan fanPg n s
  let x := fanSt s n
  let s := if x.stallClr then
      let a := putFan n { x with stallClr := false, retry := 0, pend := false, told := false
                                 st := if x.st = 4 then 0 else x.st } s
      if epActive fanPg kFanStallLockout n a then endEp fanPg kFanStallLockout n a else a
    else s
  let x := fanSt s n
  if x.tripClr then
    let a := putFan n { x with tripClr := false, st := if x.st = 5 then 0 else x.st } s
    if x.st = 5 then endEp fanPg kFanOutput n a else a
  else s

/-- The fans at a boundary; window words take effect (R344). -/
def fanBoundary (o s : State) : State :=
  let s := takeAreas fanPg 0 3 s
  let lost := (List.range 12).filter fun n => s.drv.lost.contains (fanPg * 64 + n)
  let due := running fanPg o && (List.range 12).any fun n => decide ((fanSt s n).mode ≠ 0)
  let s := forN 12 (fanBoundaryOne o) s
  dueBoundary fanPg due (if due then lost else []) s

/-- A number of Q16.16 percent, to the nearest code. -/
def pctCode (num : Int) (den : Nat) : Int := (sat32 (divAway (num * 65536) den)).1

/-- A steady tide of one fan (R333): the baseline, or the ageing index. -/
def fanSteadyTide (n : Nat) (s : State) : State :=
  let x := fanSt s n
  let set := getAct fanPg 2 (n * 2) s
  let spmax := bitsOf set 31 16
  if spmax = 0 then s
  else
    let b := Nat.min 15 (16 * (fanSpeed n s).toNat / (65536 * spmax))
    let wB := n * 32 + b * 2
    let num := bitsOf (getShd fanPg 1 (wB + 1) s) 6 0
    let base := (getShd fanPg 1 wB s).toInt
    if getB FAN.CH_CTRL_LEARN fanPg n s then
      if num < 64 then
        let d : Int := x.duty
        let nb := base + divAway (d * 65536 - 10 * base) (10 * (num + 1))
        let both (w : Nat) (v : Word) (a : State) : State := setAct fanPg 1 w v (setShd fanPg 1 w v a)
        both (wB + 1) (ofN (num + 1)) (both wB (ofI nb) s)
      else s
    else if 16 ≤ num ∧ 0 < base then
      let q := f48OfRat (100 * (x.duty : Int) * 65536) (10 * base.toNat) 0
      let a := x.age.add ((q.sub x.age).mul (f48OfRat 1 1 (-(bitsOf set 3 0 : Int))))
      let lim := bitsOf set 15 8
      let begins := !x.ageEp && (f48OfInt lim).le a
      let ends := x.ageEp && a.lt (f48OfInt ((lim : Int) - 5))
      let s := putFan n { x with age := a, ageEp := (x.ageEp || begins) && !ends } s
      if begins then raise fanPg 0xFF kFanAgeing n (setIrq fanPg 19 s)
      else if ends then endEp fanPg kFanAgeing n s else s
    else s

/-- The fans at a tide boundary (R333). -/
def fanTide (s : State) : State :=
  forN 12 (fun n a =>
    let a := if (fanSt a n).steady then fanSteadyTide n a else a
    let x := fanSt a n
    if x.steady then a else putFan n { x with steady := decide (x.st = 2) } a) s

/-- SOFT_RST of the FAN page (R344). -/
def fanSoftRst (s : State) : State :=
  forN 12 (fun n a =>
    let x := fanSt a n
    let a := endTachLost n a
    let a := if epActive fanPg kFanStallLockout n a then endEp fanPg kFanStallLockout n a else a
    let a := if x.unfit then setEp false fanPg 0xFF kFanTempUnfit n a else a
    let a := if x.ageEp then setEp false fanPg 0xFF kFanAgeing n a else a
    putFan n { x with
      st := if x.st = 5 then 5 else 0, out := 0, retry := 0, pend := false, told := false, doubt := none
      unfit := false, ageEp := false } a) s

end Sys2Proof.Machine
end

