-- ==== Sys2Proof/Machine/FltPort.lean ====
section
/-!
DEFINITION. The FLT page (chapter 12): recovery settings, the clear sequence, the first-fault register, history reads, the
severity table, and the injection registers.
-/
namespace Sys2Proof.Machine

/-- Page index of FLT. -/
def fltPg : Nat := 0x02

/-- The severity-table word of a kind as last written. -/
def sevWritten (k : Nat) (s : State) : Word := tabGet sevReset s.flt.sevTab k

/-- Clears the latched scopes among `ks` that meet the conditions of R366; whether all latched ones were cleared, and whether
there was one. -/
def clearScopes (ks : List Nat) (s : State) : WrOut :=
  let latched := ks.filter fun k => (scopeAt s k).latched
  let good := latched.filter fun k => clearable k s
  let s := good.foldl (fun a k => applyClear k a) s
  if latched = [] ∨ good ≠ latched then .refuseTo s else .ok s

/-- A write of FLT_CLR (R366): the first key starts the sequence, the second, as the party's next write with the same SCOPE,
clears. -/
def fltClr (party : Party) (key scope : Nat) (s : State) : WrOut :=
  let mine := party.code * 16 + scope
  let open_ := s.flt.clrSeq.contains mine
  let off : State := { s with flt := { s.flt with clrSeq := s.flt.clrSeq.filter fun k => k / 16 ≠ party.code } }
  if 9 ≤ scope ∧ scope ≤ 14 then .refuseTo off
  else if key = 0x6C61 then .ok { s with flt := { s.flt with clrSeq := mine :: off.flt.clrSeq } }
  else if key = 0x7463 ∧ open_ = true then
    if scope = 15 then clearScopes (List.range 9) off
    else if clearable scope off then .ok (applyClear scope off) else .refuseTo off
  else .refuseTo off

/-- A write of FLT_SEV_DATA (R31, R352): the entry as last written takes the written fields. -/
def sevWrite (cx : WriteCx) (s : State) : WrOut :=
  let k := getW FLT.SEV_ADDR_KIND fltPg 0 s
  let v := cxMerged cx
  if !pageOwns fltPg cx.party s || decide (4 < bitsOf v 2 0) || decide (bitsOf v 2 0 < bitsOf v 10 8) || decide (bitsOf v 11 11 = 1 ∧ bitsOf v 7 7 = 0) then
    .refuse
  else
    let changed := decide (sevWritten k s ≠ v)
    let s := { s with flt := { s.flt with sevTab := tabSet sevReset s.flt.sevTab k v } }
    .ok (if changed then bumpWriteGen fltPg s else s)

/-- The checks of a write to the FLT page's block registers. -/
def fltWrite (cx : WriteCx) (s : State) : WrOut :=
  if cx.off = 0x108 then
    storeUnless (cxOutside cx 31 20 1 3600 || cxOutside cx 19 16 1 15 || cxOutside cx 10 8 0 4) cx s
  else if cx.off = 0x114 then
    if cx.fields = [] then .ok { s with flt := { s.flt with clrSeq := s.flt.clrSeq.filter fun k => k / 16 ≠ cx.party.code } }
    else fltClr cx.party (cxBits cx 31 16) (cxBits cx 3 0) s
  else if cx.off = 0x134 then .ok (if cxBits cx 0 0 = 1 then { s with flt := { s.flt with ff := keptFf (usNow s * 512 + s.time.cycle) s } } else s)
  else if cx.off = 0x160 then storeUnless (cxHas cx 0 && (kindRow (cxBits cx 15 0)).isNone) cx s
  else if cx.off = 0x164 then sevWrite cx s
  else .ok (storeFields cx s)

/-- A history entry by its age (R363): the word, 0 where there is no such entry. -/
def histAt (i w : Nat) (s : State) : Word :=
  match s.flt.hist[i]? with
  | some h => histWord h w
  | none => 0

/-- Offset of FLT_HIST_SEL. -/
def histSelOff : Nat := 0x140

/-- The age that a party's FLT_HIST_SEL names (R363). -/
def histSel (party : Party) (s : State) : Nat := bitsOf (rdParty party (pageAddr fltPg histSelOff) s) 4 0

/-- What the FLT page's registers read where they show computed state, FLT_STATE apart. -/
def fltRead (party : Party) (off : Nat) (s : State) : Option Word :=
  let day (k : Nat) : Nat := satN 15 (recentRecov (scopeAt s k) (usNow s))
  if off = 0x104 then some (grpStatWord s)
  else if off = 0x10C then some (ofN ((scopeAt s 8).total * 65536 + day 8))
  else if off = 0x110 then some (ofN ((List.range 8).foldl (fun a g => a + day g * 16 ^ g) 0))
  else if off = 0x11C then some (ofN s.flt.seq)
  else if 0x120 ≤ off ∧ off < 0x134 then
    some (match s.flt.ff with | some h => histWord h ((off - 0x120) / 4) | none => 0)
  else if 0x144 ≤ off ∧ off < 0x154 then some (histAt (histSel party s) ((off - 0x144) / 4) s)
  else if off = 0x164 then some (sevWritten (getW FLT.SEV_ADDR_KIND fltPg 0 s) s)
  else none

/-- The hold that a read of FLT_HIST_W0 makes (R363): W1 to W3 until any other access of the party. -/
def fltReadHold (party : Party) (off : Nat) (s : State) : State :=
  if off = 0x144 then
    let i := histSel party s
    makeHold party ((List.range 3).map fun k => (pageAddr fltPg (0x148 + 4 * k), histAt i (k + 1) s)) .anyAccess false s
  else s

/-! ### Injection -/

/-- Concludes a page's injection (R368): FINJ.ARM clears, FLT_INJ and IRQ_STAT.INJ show the outcome. -/
def injEnd (p outcome : Nat) (s : State) : State :=
  let c := getW CMN.FINJ_CHECKER p 0 s
  let s := setB CMN.FINJ_PASSED p 0 (decide (outcome = 1)) (setB CMN.FINJ_ARM p 0 false s)
  let s := setF FLT.INJ_PAGE fltPg 0 p (setF FLT.INJ_CHECKER fltPg 0 c (setF FLT.INJ_OUTCOME fltPg 0 outcome s))
  setIrq fltPg 20 s

/-- Whether an injection of a page is armed with its window open (R367). -/
def injOpen (p : Nat) (s : State) : Bool :=
  getB CMN.FINJ_ARM p 0 s && decide (usNow s < tabGet (fun _ => (0 : Nat)) s.flt.injStart p + 2048000)

/-- A message with a mark of R368: 1 an injected syndrome, 2 a real fault during an injection. -/
def raiseInj (inj page inst kind addr : Nat) (s : State) : State :=
  let m : Msg := ⟨page * 256 + inst, kind, addr % 65536, s.time.tick, s.time.phase, s.time.cycle, usNow s, usNow s, inj⟩
  { s with flt := { s.flt with outbox := s.flt.outbox ++ [m] } }

/-- What the checkers of a kind of page compare (R367), read from the names in its FINJ list. -/
def checkerClass : PageKind → Nat → CheckerClass
  | .lpa, 1 | .lpa, 2 | .prf, 1 | .prf, 2 | .trc, 1 | .ldg, 1 | .ldg, 2 | .eng, 1 | .eng, 2 | .flt, 1 | .flt, 2
  | .recd, 2 | .recd, 3 | .wch, 1 | .hst, 2 | .can, 1 | .lnk, 3 | .nvs, 1 => .secded
  | .sns, 2 | .sns, 18 | .sns, 19 | .sns, 20 | .sns, 21 | .rpt, 1 | .moi, 3 | .moi, 4 | .moi, 5 | .moi, 6 | .lpa, 3 | .lpa, 4
  | .prf, 3 | .ldg, 4 | .eng, 4 | .vlv, 1 | .vlv, 2 | .fan, 1 | .fan, 2 | .fan, 3 | .dou, 1 | .dou, 2 | .dou, 3 | .aou, 1
  | .flt, 3 | .flt, 4 | .clk, 1 | .wch, 3 | .can, 3 | .lnk, 4 | .nvs, 2 | .nvs, 4 | .dig, 2 | .dev, 3 | .dev, 4
  | .pwr, 1 | .pwr, 2 | .pwr, 3 | .pwr, 4 | .pwr, 5 => .compare
  | _, _ => .check

/-- The syndrome that a checker computes for INV_MASK on correct data (R367). -/
def expectedShown (c : CheckerClass) (mask : Nat) : Shown :=
  match c, (List.range 8).filter fun i => bitAt mask i with
  | .secded, [b] => .single b
  | .secded, _ => .uncorrectable
  | .check, _ => .mismatch
  | .compare, _ => .tripped

/-- The syndrome that concludes an armed injection of a page as a pass. -/
def injExpected (p : Nat) (s : State) : Option Shown :=
  (pageKind p).map fun k => expectedShown (checkerClass k (getW CMN.FINJ_CHECKER p 0 s)) (getW CMN.FINJ_INV_MASK p 0 s)

/-- INJECTION_TIMEOUT (R368): no access within 2 long tides. The address of the message is not given. -/
def injTimeout (p : Nat) (s : State) : State :=
  if getB CMN.FINJ_ARM p 0 s && !injOpen p s then
    let (w, s) := drawWord s
    injEnd p 4 (raise p 0xFF kFltInjTimeout w.toNat s)
  else s

end Sys2Proof.Machine
end

