-- ==== Sys2Proof/Machine/HstPort.lean ====
section
/-!
DEFINITION. The HST page and host silence (R413 to R415).
-/
namespace Sys2Proof.Machine

/-- Page index of HST. -/
def hstPg : Nat := 0x08

/-- Whether a page requests an interrupt (R28). -/
def pageIrq (p : Nat) (s : State) : Bool :=
  decide ((rdReg s (pageAddr p 0x10)).toNat &&& (rdReg s (pageAddr p 0x14)).toNat ≠ 0)

/-- HST_IRQPG0 and HST_IRQPG1 (R413). -/
def irqPages (half : Nat) (s : State) : Word :=
  ofN (maskOf 32 fun i => (pageKind (half * 32 + i)).isSome && pageIrq (half * 32 + i) s)

/-- Whether HIRQ_N is asserted (R407). -/
def hirq (s : State) : Bool := decide (irqPages 0 s ≠ 0) || decide (irqPages 1 s ≠ 0)

/-- Ends host silence. -/
def endSilence (s : State) : State :=
  if getB HST.SILSTAT_SILENT hstPg 0 s then endEp hstPg kHstSilence 0 (setB HST.SILSTAT_SILENT hstPg 0 false s) else s

/-- A keep-alive is applied: the window restarts and a silence ends (R414). -/
def keepAliveNow (s : State) : State :=
  endSilence { s with hst := { s.hst with kaAt := some (usNow s) } }

/-- The elapsed µs at which the present silence window started (R414). -/
def silenceStart (s : State) : Nat := Nat.max s.hst.enAt (s.hst.kaAt.getD 0)

/-- HOST_SILENCE_BEGIN: the window has ended without a keep-alive (R414). -/
def silenceBegin (s : State) : State :=
  if getB HST.SIL_EN hstPg 0 s && !getB HST.SILSTAT_SILENT hstPg 0 s then
    match reachUs (silenceStart s + getF HST.SIL_TO hstPg 0 s * 1000) s with
    | none => s
    | some s =>
      let s := setB HST.SILSTAT_SILENT hstPg 0 true (incSat HST.SILSTAT_EPISODES hstPg 0 s)
      beginEp hstPg 0xFF kHstSilence 0 (setIrq hstPg 17 s)
  else s

/-- The boundary: EN takes effect, and with EN = 0 a silence ends; `o` is the state before the boundary (R414). -/
def hstBoundary (o s : State) : State :=
  if getB HST.SIL_EN hstPg 0 s then
    if getB HST.SIL_EN hstPg 0 o then s else { s with hst := { s.hst with enAt := usNow s } }
  else endSilence s

/-- The checks and effects of a write to the HST page's block registers. -/
def hstWrite (cx : WriteCx) (s : State) : WrOut :=
  if cx.off = 0x100 then
    if cx.party = .host ∧ cxBits cx 15 0 = 0x4B41 then .ok (keepAliveNow s) else .refuse
  else if cx.off = 0x104 then storeUnless (cxOutside cx 13 0 10 10000) cx s
  else .ok (storeFields cx s)

/-- What the HST page's registers read where they show computed state. -/
def hstRead (off : Nat) (s : State) : Option Word :=
  if off = 0x10C then
    some (match s.hst.kaAt with
      | none => 0xFFFFFFFF
      | some t => ofN (satN 0xFFFFFFFF (s.time.ticks - t / 125)))
  else if off = 0x110 then some (irqPages 0 s)
  else if off = 0x114 then some (irqPages 1 s)
  else none

end Sys2Proof.Machine
end

