-- ==== Sys2Proof/Machine/IoCore.lean ====
section
/-!
DEFINITION. Digital inputs, counters, digital and analog outputs at work (chapter 11), and the outputs at every instant.
-/
namespace Sys2Proof.Machine

/-! ### Digital inputs -/

/-- Puts a bit of DIN_STATE, with RISE or FALL at a change (R335), which a clear of the same cycle leaves set. -/
def dinTake (j : Nat) (v : Bool) (s : State) : State :=
  if dinState j s = v then s
  else
    let put (off : Nat) (b : Bool) (a : State) : State :=
      wrReg a (pageAddr dinPg off) (ofN (putBit (rdReg a (pageAddr dinPg off)).toNat j b))
    let off := if v then 0x198 else 0x19C
    noteBit (pageAddr dinPg off) j (put off true (put 0x190 v s))

/-- IRQ_STAT.EDGE is set while an enabled RISE or FALL bit is set (R335). -/
def dinEdge (s : State) : State :=
  let r (off : Nat) : Word := rdReg s (pageAddr dinPg off)
  if (r 0x198 &&& r 0x1A0) ||| (r 0x19C &&& r 0x1A4) = 0 then s else setIrq dinPg 16 s

/-- The raw level of an input after INV (R334). -/
def dinRaw (j : Nat) (s : State) : Bool := bitAt (rdReg s (pageAddr dinPg 0x194)).toNat j

/-- End of an input's debounce window in elapsed µs; 0 where none runs. -/
def debEnd (s : State) (j : Nat) : Nat := tabGet (fun _ => (0 : Nat)) s.drv.debs j

/-- Puts the end of a debounce window. -/
def putDeb (j t : Nat) (s : State) : State :=
  { s with drv := { s.drv with debs := tabSet (fun _ => (0 : Nat)) s.drv.debs j t } }

/-- The raw level of an input changes: a window starts or restarts (R335). -/
def dinRawChange (j : Nat) (v : Bool) (s : State) : State :=
  if dinRaw j s = v then s
  else
    let s := if 0 < debEnd s j ∧ debEnd s j ≤ usNow s then dinTake j (dinRaw j s) (putDeb j 0 s) else s
    let a := pageAddr dinPg 0x194
    let s := wrReg s a (ofN (putBit (rdReg s a).toNat j v))
    let deb := getF DIN.IN_CFG_DEB dinPg j s
    if !running dinPg s then s
    else if deb = 0 then dinTake j v (putDeb j 0 s)
    else putDeb j (usNow s + deb) s

/-- DI_CHANGE (R334). -/
def dinChange (j : Nat) (level : Bool) (s : State) : State :=
  let s := { s with drv := { s.drv with pins := putBit s.drv.pins j level } }
  dinRawChange j (level != getB DIN.IN_CFG_INV dinPg j s) s

/-- DEBOUNCE_END (R335). -/
def dinDebounceEnd (j : Nat) (s : State) : State :=
  if debEnd s j = 0 ∨ running dinPg s = false then s
  else
    match reachUs (debEnd s j) s with
    | none => s
    | some s => dinTake j (dinRaw j s) (putDeb j 0 s)

/-- COUNTER_EDGE (R336): a level that holds CFILT µs passes the filter, and the counter counts the edges of the filtered level. -/
def counterEdge (c : Nat) (rising : Bool) (held : Nat) (s : State) : State :=
  let x := cntSt s c
  if getF DIN.CNT_CFG_CFILT dinPg c s ≤ held ∧ x.level ≠ rising then
    let e := getF DIN.CNT_CFG_EDGE dinPg c s
    let counts := decide (e = 2) || (decide (e = 0) && rising) || (decide (e = 1) && !rising)
    putCnt c { x with
      level := rising
      count := if running dinPg s && counts then (x.count + 1) % 4294967296 else x.count } s
  else s

/-- One counter at a boundary (R336): the count is published, and the counts at its gate boundaries move on. -/
def counterBoundary (o : State) (c : Nat) (s : State) : State :=
  let x := cntSt s c
  let lost := s.drv.lost.contains (dinPg * 64 + c)
  let s :=
    if running dinPg o && !lost then publish (countKey c) (ofN x.count) s
    else stalePub (countKey c) s
  let gate := getF DIN.CNT_CFG_GATE dinPg c s
  let x := { x with adopted := x.adopted || adopting s }
  if gridTick s % 2 ^ gate = 0 then
    let s := if running dinPg o then s else stalePub (rateSrc c) s
    putCnt c { x with
      gate0 := x.gate1, gate1 := x.count, gateAt := s.time.ticks, adopted := false, rateLost := lost
      span := if x.adopted then some (s.time.ticks - x.gateAt) else none } s
  else putCnt c x s

/-- DI_RATE_GATE (R336); the first rate after a tick adoption is over the ticks elapsed (R61). A rate whose word was lost on the bridge
is missed: the last one goes stale (R48). -/
def counterRate (c : Nat) (s : State) : State :=
  let gate := getF DIN.CNT_CFG_GATE dinPg c s
  if s.time.tick % 2 ^ gate = 0 ∧ running dinPg s = true then
    let x := cntSt s c
    let d := (x.gate1 + 4294967296 - x.gate0) % 4294967296
    if x.rateLost then stalePub (rateSrc c) s
    else publish (rateSrc c) (ofI (sat32 (divAway ((d * 8000 * 65536 : Nat) : Int) (x.span.getD (2 ^ gate)))).1) s
  else s

/-- The digital inputs at a boundary: a change of INV is a raw change; a page that starts debounces what it finds. -/
def dinBoundary (o s : State) : State :=
  let lost := (List.range 8).filter fun c => s.drv.lost.contains (dinPg * 64 + c)
  let s := forN 8 (counterBoundary o) s
  let s := dueBoundary dinPg (running dinPg o) (if running dinPg o then lost else []) s
  let s := forN 32 (fun j a => dinRawChange j (bitAt a.drv.pins j != getB DIN.IN_CFG_INV dinPg j a) a) s
  if running dinPg s && !running dinPg o then
    forN 32 (fun j a =>
      if dinRaw j a = dinState j a then a
      else
        let deb := getF DIN.IN_CFG_DEB dinPg j a
        if deb = 0 then dinTake j (dinRaw j a) a else putDeb j (usNow a + deb) a) s
  else s

/-- SOFT_RST of the DIN page (R345). -/
def dinSoftRst (s : State) : State :=
  let s := wrReg s (pageAddr dinPg 0x190) (rdReg s (pageAddr dinPg 0x194))
  let s := wrReg (wrReg s (pageAddr dinPg 0x198) 0) (pageAddr dinPg 0x19C) 0
  { s with drv := { s.drv with debs := [] } }

/-! ### Digital outputs -/

/-- What MODE makes of a digital output in row 7 (R337). -/
def doDemand (x : DoState) : Bool :=
  if x.mode = 1 then x.level else if x.mode = 2 then x.tpOn else false

/-- What the governing row demands of a digital output (R320): one that limits its current stays as it is. -/
def doDemanded (j : Nat) (s : State) : Bool :=
  let r := govRow douPg j s
  if r = 1 then !switchedOff douPg j s && (doSt s j).out else if r = 5 then false else if r = 7 then doDemand (doSt s j) else getB DOU.CH_CTRL_SAFE douPg j s

/-- A digital output takes what its governing row demands (R320). -/
def doDrive (j : Nat) (s : State) : State :=
  if (doSt s j).out = doDemanded j s then s else putDo j { doSt s j with out := doDemanded j s } s

/-- DO_PERIOD_START (R337): the period takes the LPIN in force, rounded to whole ticks with ties up. -/
def doPeriodStart (j : Nat) (s : State) : State :=
  let x := doSt s j
  if x.mode = 2 ∧ running douPg s = true ∧ x.next ≤ s.time.ticks then
    let s := atPhase 40 0 s
    let per := getF DOU.CH_CTRL_TPER douPg j s
    let onT := (2 * (x.lpin.toInt.toNat * per) + 6553600) / 13107200
    let s := putDo j { x with start := s.time.ticks, per := per, onT := onT, next := s.time.ticks + per, tpOn := decide (0 < onT) } s
    doDrive j s
  else s

/-- DO_ONTIME_END (R337). -/
def doOntimeEnd (j : Nat) (s : State) : State :=
  let x := doSt s j
  if x.mode = 2 ∧ x.tpOn = true ∧ x.start + x.onT ≤ s.time.ticks ∧ x.onT < x.per then
    doDrive j (putDo j { x with tpOn := false } (atPhase 40 0 s))
  else s

/-- A digital output enters TRIP (R338). -/
def doTrip (therm : Bool) (j : Nat) (s : State) : State :=
  let x := doSt s j
  if x.trip then s
  else
    let s := setIrq douPg 16 (doDrive j (putDo j { x with trip := true, therm := therm, lim := false } s))
    if therm then beginEp douPg 0x02 kDouThermal j s else beginEp douPg 0x01 kDouOverload j s

/-- DO_LIMIT_TRIP (R338). -/
def doLimitTrip (j ms : Nat) (s : State) : State :=
  if getF DOU.ILT_ILT douPg 0 s ≤ ms then doTrip false j s else s

/-- DO_READBACK_EPISODE (R339): the ball is contrary to the output state. -/
def doReadback (j : Nat) (high : Bool) (s : State) : State :=
  let x := doSt s j
  if !x.rbEp && ((!x.out && high) || (x.out && !x.lim && !high)) then
    beginEp douPg 0x03 kDouReadback j (setIrq douPg 17 (putDo j { x with rbEp := true } s))
  else s

/-- DO_READBACK_END (R339). -/
def doReadbackEnd (j : Nat) (s : State) : State :=
  let x := doSt s j
  if x.rbEp then endEp douPg kDouReadback j (putDo j { x with rbEp := false } s) else s

/-- TRIP ends, with the episodes of both kinds (R338). -/
def doTripEnd (j : Nat) (s : State) : State :=
  let s := putDo j { doSt s j with trip := false, tripClr := false } s
  let s := if epActive douPg kDouOverload j s then endEp douPg kDouOverload j s else s
  if epActive douPg kDouThermal j s then endEp douPg kDouThermal j s else s

/-- One digital output at a boundary. -/
def doBoundary (o : State) (j : Nat) (s : State) : State :=
  let s := if unitOwner douPg j s = unitOwner douPg j o then s else releaseChan douPg j s
  let x := doSt s j
  if x.tripClr then (if x.trip then doTripEnd j s else putDo j { x with tripClr := false } s) else s

/-- SOFT_RST of the DOU page (R346). -/
def douSoftRst (s : State) : State :=
  forN 24 (fun j a =>
    let a := doReadbackEnd j a
    let a := if (doSt a j).trip then doTripEnd j a else a
    putDo j { doSt a j with next := 0, tpOn := false } a) s

/-! ### Analog outputs -/

/-- What the governing row demands of an analog output (R320): one that limits its current keeps the value it is set to. -/
def aoDemanded (k : Nat) (s : State) : Word :=
  let r := govRow aouPg k s
  if r = 1 ∧ switchedOff aouPg k s = false then (aoSt s k).out else if r = 1 ∨ r = 5 then 0 else if r = 7 then (aoSt s k).val else rdForce s (pageAddr aouPg (0x108 + 0x20 * k))

/-- An analog output takes what its governing row demands (R320). -/
def aoDrive (k : Nat) (s : State) : State :=
  if (aoSt s k).out = aoDemanded k s then s
  else putAo k { aoSt s k with out := aoDemanded k s, changed := true } s

/-- Whether a readback differs from the value in force by more than the tolerance (R341): the span is 10.5 V or 24 mA. -/
def aoMismatch (mode tol : Nat) (rb out : Word) : Bool :=
  let d := (rb.toInt - out.toInt).natAbs
  let span := if mode = 1 then 21 else 48
  decide (tol * span * 65536 < 2000 * d)

/-- One analog output measures its readback at phase 100 (R341). -/
def aoMeasure (k : Nat) (m : AoReading) (s : State) : State :=
  let x := aoSt s k
  if !running aouPg s || decide (x.mode = 0) then putAo k { x with limit := false, open_ := false } s
  else
    let x : AoState := { x with rb := some m.rb, limit := decide (x.mode = 1) && m.limit, open_ := decide (x.mode = 2) && m.open_ }
    if x.changed then putAo k { x with changed := false } s
    else if aoMismatch x.mode (getF AOU.CH_CTRL_RB_TOL aouPg k s) m.rb x.out then
      let begins := !x.rbEp && decide (3 ≤ x.miss + 1)
      let s := putAo k { x with miss := satN 3 (x.miss + 1), rbEp := x.rbEp || begins } s
      if begins then beginEp aouPg 0x01 kAouReadback k (setIrq aouPg 16 s) else s
    else
      let s := putAo k { x with miss := 0, rbEp := false } s
      if x.rbEp then endEp aouPg kAouReadback k s else s

/-- AO_READBACK_MEASURE (R341): phase 100. -/
def aoReadbackMeasure (ms : List AoReading) (s : State) : State :=
  forN 8 (fun k a => match ms[k]? with | some m => aoMeasure k m a | none => a) (atPhase 100 0 s)

/-- One analog output at a boundary: its readback is published (R341). -/
def aoBoundary (o : State) (k : Nat) (s : State) : State :=
  let x := aoSt s k
  let s := match x.rb with
    | some v =>
      if running aouPg o && decide (x.mode ≠ 0) && !s.drv.lost.contains (aouPg * 64 + k) then publish (rbSrc k) v s
      else stalePub (rbSrc k) s
    | none => stalePub (rbSrc k) s
  let s := putAo k { aoSt s k with rb := none } s
  if unitOwner aouPg k s = unitOwner aouPg k o then s else releaseChan aouPg k s

/-- SOFT_RST of the AOU page (R347). -/
def aouSoftRst (s : State) : State :=
  forN 8 (fun k a =>
    let x := aoSt a k
    let a := putAo k { x with miss := 0, rbEp := false } a
    if x.rbEp then endEp aouPg kAouReadback k a else a) s

/-! ### Outputs at every instant -/

/-- What every instant makes of the valve legs, and of the interrupt of the digital inputs (R311, R312, R335). -/
def settleLegs (s : State) : State := dinEdge (forN 16 legSettle s)

/-- What every instant makes of the outputs: forced states, gates and releases act at once, commands at phase 40 (R318, R320). -/
def settleOutputs (s : State) : State :=
  let s := forN 12 fanSettle s
  let s := forN 24 (fun j a => doDrive j (govNote douPg j a)) s
  forN 8 (fun k a => aoDrive k (govNote aouPg k a)) s

/-- Legs and outputs at every instant. -/
def settleDrive (s : State) : State := settleOutputs (settleLegs s)

/-- The DRIVE pages at a boundary. -/
def driveBoundary (o s : State) : State :=
  let s := vlvBoundary o s
  let s := fanBoundary o s
  let s := dinBoundary o s
  let s := forN 24 (doBoundary o) s
  let s := forN 8 (aoBoundary o) s
  { s with drv := { s.drv with lost := [] } }

/-! ### Phase 40 -/

/-- The commands of earlier ticks take effect on one fan (R318); in MODE 1 a release only takes the region anew (R323, R328). -/
def fanCommands (n : Nat) (s : State) : State :=
  let x := fanSt s n
  let f (off : Nat) : Word := rdForce s (pageAddr fanPg (off + 0x20 * n))
  let mode := bitsOf (f 0x100) 1 0
  let s := putFan n { x with
    mode := mode, man := bitsOf (f 0x108) 25 16, lpin := f 0x10C
    anew := x.anew || decide (mode = 1 ∧ x.mode ≠ 1) } s
  let s := govPhase40 fanPg n (govNote fanPg n s)
  let x := fanSt s n
  if x.mode = 1 ∧ x.gov.released = true then
    putFan n { x with anew := true, gov := { x.gov with released := false, cmdAt := none } } s
  else s

/-- The commands of earlier ticks take effect on one digital output; MODE 2 starts its periods here (R318, R337). -/
def doCommands (j : Nat) (s : State) : State :=
  let x := doSt s j
  let w := rdForce s (pageAddr douPg (0x100 + 8 * j))
  let mode := bitsOf w 1 0
  let fresh := decide (mode = 2 ∧ x.mode ≠ 2)
  let s := putDo j { x with
    mode := mode, level := bitAt w.toNat 2, lpin := rdForce s (pageAddr douPg (0x104 + 8 * j))
    next := if fresh then s.time.ticks else x.next, tpOn := x.tpOn && decide (mode = 2) && !fresh } s
  govPhase40 douPg j (govNote douPg j s)

/-- The commands of earlier ticks take effect on one analog output; a change of MODE passes through MODE 0 for one tick
(R318, R340). -/
def aoCommands (k : Nat) (s : State) : State :=
  let x := aoSt s k
  let mode := bitsOf (rdForce s (pageAddr aouPg (0x100 + 0x20 * k))) 1 0
  let mode := if x.mode ≠ 0 ∧ mode ≠ x.mode then 0 else mode
  let s := putAo k { x with mode := mode, val := rdForce s (pageAddr aouPg (0x104 + 0x20 * k)) } s
  govPhase40 aouPg k (govNote aouPg k s)

/-- The output value of a destination in the unit of its loop input, by DEST code (R182): of an analog output that limits its
current, the limited value that its readback shows. -/
def destOutput (d : Nat) (s : State) : Word :=
  let u := d % 32
  if d / 32 = 1 then (if limiting aouPg u s && !switchedOff aouPg u s then (getPub (rbSrc u) s).value else (aoSt s u).out)
  else if d / 32 = 2 then
    let x := fanSt s u
    if govRow fanPg u s = 7 ∧ x.mode = 3 ∧ x.st ≠ 1 then x.lpin else ofI (divAway ((x.out : Int) * 65536) 10)
  else if d / 32 = 3 then
    let x := doSt s u
    if govRow douPg u s = 7 ∧ x.mode = 2 ∧ 0 < x.per then ofI (pctCode (100 * (x.onT : Int)) x.per)
    else if x.out then ofI pct100 else 0
  else 0

/-- The currents that the P-die senses at phase 40 (R315, R346). -/
def takeSense (m : LandSense) (s : State) : State :=
  let s := forN 16 (fun l a => setLegF VLV.LG_STAT_ISENSE l (satN 1023 (nthN m.legs l)) a) s
  let s := forN 8 (fun k a => setF VLV.PR_STAT_IHS (0x30 + k / 4) (k % 4) (satN 1023 (nthN m.sides k)) a) s
  forN 24 (fun j a =>
    let a := setF DOU.CH_STAT_ISENSE douPg j (satN 255 (nthN m.outs j)) a
    let lim := m.limits.getD j false && (doSt a j).out
    if (doSt a j).lim = lim then a else putDo j { doSt a j with lim := lim } a) s

/-- Every channel computes its output after the landing (R318); the destinations' output values are noted (R182). -/
def computeOutputs (m : LandSense) (s : State) : State :=
  let s := forN 12 (fun n a => fanPhase40 n (nthN m.fans n) a) s
  let s := forN 24 doDrive s
  let s := forN 8 aoDrive s
  let s := takeSense m s
  let codes := (List.range 8).map (fun k => 32 + k) ++ (List.range 12).map (fun n => 64 + n) ++ (List.range 24).map fun j => 96 + j
  codes.foldl (fun a d => { a with landOut := tabSet (fun _ => (0 : Word)) a.landOut d (destOutput d a) }) s

end Sys2Proof.Machine
end

