-- ==== Sys2Proof/Machine/LdgPort.lean ====
section
/-!
DEFINITION. The column ledger's registers and parcel memory (chapter 8): parcels and their check, the window, the checks of
R249 and R250, what the registers read, and the checks of register writes.
-/
namespace Sys2Proof.Machine

/-- Page index of LDG. -/
def ldgPg : Nat := 0x1C

/-! ### Parcels -/

/-- Word `w` of a parcel, 0 to 6, as the window shows it (R222). -/
def parcelBody (p : Parcel) (w : Nat) : Word :=
  if w = 0 then ofN p.vol else if w = 1 then ofI p.minM else if w = 2 then ofI p.tin
  else if w = 3 then ofN p.heat
  else if w = 4 then (if bitAt p.flags 5 then ofN p.dend else ofI p.mnow)
  else if w = 5 then ofI p.mpred else ofN p.age

/-- The CRC-8 of a parcel over its location and bytes 0x00 to 0x1E (R222). -/
def parcelCrc (loc : Nat) (p : Parcel) : Nat :=
  crc8 (bytesOf 2 loc ++ wordBytes ((List.range 7).map (parcelBody p)) ++ [p.zone, p.flags, p.serial])

/-- A free slot (R223). -/
def freeParcel (loc : Nat) : Parcel :=
  let p : Parcel := ⟨0, 0, 0, 0, 0, 0, 0, 0, 0, 0, 0, 0, 0, 0, 0, false⟩
  { p with crc := parcelCrc loc p }

/-- A parcel slot. -/
def parcelAt (s : State) (loc : Nat) : Parcel := tabGet freeParcel s.ldg.parcels loc

/-- Puts a parcel slot as it stands. -/
def putParcel (loc : Nat) (p : Parcel) (s : State) : State :=
  { s with ldg := { s.ldg with parcels := tabSet freeParcel s.ldg.parcels loc p } }

/-- Whether a parcel passes its CRC-8. -/
def parcelOk (s : State) (loc : Nat) : Bool := decide ((parcelAt s loc).crc = parcelCrc loc (parcelAt s loc))

/-- A reader's verification of a parcel: one message for each failing record until it changes (R223). -/
def verifyParcel (loc : Nat) (s : State) : State :=
  if parcelOk s loc || (parcelAt s loc).reported then s
  else raise ldgPg 0x03 kLdgRecordCrc loc (putParcel loc { parcelAt s loc with reported := true } s)

/-- Changes a parcel under the overlapping-check rule: the old record is verified before the new one replaces it (R223). -/
def setParcel (loc : Nat) (p : Parcel) (s : State) : State :=
  if parcelOk s loc then putParcel loc { p with crc := parcelCrc loc p, reported := false } s else verifyParcel loc s

/-- Puts a whole new record into a slot: nothing of the old record is carried, so a failing one ends here (R223). -/
def newParcel (loc : Nat) (p : Parcel) (s : State) : State :=
  putParcel loc { p with crc := parcelCrc loc p, reported := false } (verifyParcel loc s)

/-- Verifies the parcels at some locations, and answers those that pass: a reader does not use the others (R223). -/
def usable (locs : List Nat) (s : State) : State × List Nat :=
  (locs.foldl (fun a l => verifyParcel l a) s, locs.filter fun l => parcelOk s l)

/-- Word `w` of a slot as the window reads it. -/
def parcelWord (s : State) (loc w : Nat) : Word :=
  let p := parcelAt s loc
  if w = 7 then ofN (p.zone * 16777216 + p.flags * 65536 + p.serial * 256 + p.crc) else parcelBody p w

/-! ### Columns -/

/-- A column's state. -/
def ldgCol (s : State) (c : Nat) : LdgCol := tabGet (fun _ => LdgCol.idle) s.ldg.cols c

/-- Puts a column's state. -/
def putCol (c : Nat) (v : LdgCol) (s : State) : State :=
  { s with ldg := { s.ldg with cols := tabSet (fun _ => LdgCol.idle) s.ldg.cols c v } }

/-- Source word of a column's output: 0 predicted exit moisture, 1 suggested meter rate (R174). -/
def ldgSrc (k c : Nat) : Nat := 6 * 4096 + 4 * k + c

/-- A column word in force. -/
def colWord (c w : Nat) (s : State) : Word := getAct ldgPg 1 (c * 32 + w) s

/-- MODE of a column in force. -/
def colMode (c : Nat) (s : State) : Nat := getF LDG.COL_CTRL_MODE ldgPg c s

/-- ⌈CVOL / PVOL⌉; CVOL in 2^−8 L, PVOL in 2^−16 L. -/
def parcelCount (cvol pvol : Nat) : Nat := (cvol * 256 + pvol - 1) / pvol

/-- The locations of the slots of a column from `lo` up to but not including `hi`, in ring order. -/
def ringLocs (c lo hi : Nat) : List Nat := (List.range ((hi + 2048 - lo) % 2048)).map fun i => c * 2048 + (lo + i) % 2048

/-- Volume in 2^−16 L of the slots from BOT up to but not including HEAD, and whether the slots from TAIL are LIVE. A record
that fails its CRC-8 gives neither (R223). -/
def ringSum (s : State) (c : Nat) : Nat × Bool :=
  let head := getW LDG.COL_PTR_HEAD ldgPg c s
  let sum := ((ringLocs c (getW LDG.COL_PTR_BOT ldgPg c s) head).filter fun l => parcelOk s l).foldl
    (fun a l => a + (parcelAt s l).vol) 0
  (sum, (ringLocs c (getW LDG.COL_TAIL_TAIL ldgPg c s) head).all fun l => parcelOk s l && bitAt (parcelAt s l).flags 7)

/-- The slots that a start in a mode reads (R249): from TAIL to HEAD, or the layers of the set `get`. -/
def startLocs (c new : Nat) (get : Nat → Nat → Word) (s : State) : List Nat :=
  if new = 1 then ringLocs c (getW LDG.COL_TAIL_TAIL ldgPg c s) (getW LDG.COL_PTR_HEAD ldgPg c s)
  else if new = 2 then (List.range (bitsOf (get 1 (c * 32 + 15)) 5 0 + 1)).map fun i => c * 2048 + i
  else []

/-! ### Checks -/

/-- The copy of the set that will be in force at the next boundary. -/
def ldgNextSet (swap : Bool) (s : State) (area w : Nat) : Word :=
  if swap then getShd ldgPg area w s else getAct ldgPg area w s

/-- Whether a ledger source word is valid (R225). -/
def ldgSrcOk (w : Nat) : Bool := srcValid w none true && decide (w / 4096 ≠ 6)

/-- The first cause by which a column breaks R250 with a CTRL word and a copy of the set; none for MODE 0. -/
def ldgCause (c : Nat) (ctrl : Word) (get : Nat → Nat → Word) : Option Nat :=
  let w (i : Nat) : Word := get 1 (c * 32 + i)
  let nz := bitsOf (w 6) 22 20 + 1
  let z (k i : Nat) : Word := get 2 (c * 32 + k * 4 + i)
  let zs := List.range nz
  let vpp := (w 0).toNat
  let pvol := (w 1).toNat
  let cvol := (w 2).toNat
  let qmin := bitsOf (w 8) 15 0
  let qmax := bitsOf (w 8) 31 16
  if bitsOf ctrl 1 0 = 0 then none
  else if !(ldgSrcOk (bitsOf (w 3) 31 16) && ldgSrcOk (bitsOf (w 3) 15 0) && ldgSrcOk (bitsOf (w 4) 31 16)
      && ldgSrcOk (bitsOf (w 4) 15 0)
      && zs.all fun k => ldgSrcOk (bitsOf (z k 1) 31 16) && ldgSrcOk (bitsOf (z k 1) 15 0)) then some 1
  else if vpp = 0 ∨ pvol < 2 * vpp then some 2
  else if 2000 < parcelCount cvol pvol then some 3
  else if z 0 0 ≠ 0 ∨ (zs.any fun k => decide (cvol ≤ (z k 0).toNat ∨ (0 < k ∧ (z k 0).toNat ≤ (z (k - 1) 0).toNat))) = true
    then some 4
  else if qmin = 0 ∨ qmax ≤ qmin then some 5
  else if (zs.any fun k => decide (bitsOf (get 0 (bitsOf (z k 2) 3 0 * 128)) 0 0 = 0)) = true then some 6
  else if bitsOf ctrl 12 12 = 1 ∧ bitsOf (w 4) 15 12 = 0 then some 8
  else none

/-- Whether a start is refused under R249: the modes in force and asked for, and the column's content. -/
def startBad (c old new : Nat) (get : Nat → Nat → Word) (s : State) : Bool :=
  if new = 0 ∨ new = old then false
  else if old ≠ 0 then true
  else if new = 1 then
    let (sum, live) := ringSum s c
    let pvol := (get 1 (c * 32 + 1)).toNat
    let cvol := (get 1 (c * 32 + 2)).toNat * 256
    !live || decide (sum + pvol < cvol ∨ cvol + pvol < sum)
  else
    !(startLocs c new get s).all fun l => parcelOk s l && bitAt (parcelAt s l).flags 7

/-- CFG_CHK records a refusal (R250). -/
def ldgRecord (c cause : Nat) (s : State) : State :=
  setF LDG.CFG_CHK_CAUSE ldgPg 0 cause (setF LDG.CFG_CHK_COL ldgPg 0 c (setB LDG.CFG_CHK_VALID ldgPg 0 true s))

/-- The check of a SWAP_REQ (R250). -/
def ldgSwapCheck (s : State) : WrOut :=
  match (List.range 4).findSome? fun c =>
    (ldgCause c (rdReg s (pageAddr ldgPg (0x100 + 0x40 * c))) (ldgNextSet true s)).map fun k => (c, k) with
  | some (c, k) => .refuseTo (ldgRecord c k s)
  | none => .ok s

/-! ### Window -/

/-- Words of a window area. -/
def ldgAreaLen (area : Nat) : Nat := if area = 0 then 2048 else 128

/-- Whether a rate table word is refused. -/
def rateBad (get : Nat → Word) (w : Nat) (v : Word) : Bool :=
  let asc (lo hi : Nat) : Bool :=
    decide (lo < w ∧ v.toInt ≤ (get (w - 1)).toInt) || decide (w < hi ∧ (get (w + 1)).toInt ≤ v.toInt)
  if w = 0 then false
  else if w ≤ 8 then asc 1 8
  else if w ≤ 12 then asc 9 12
  else if w ≤ 15 then decide (v ≠ 0)
  else if w < 48 then !f32Finite v || decide (f32Int v < 0)
  else if w < 80 then false
  else decide (v ≠ 0)

/-- Whether a column word is refused. -/
def colWordBad (w : Nat) (v : Word) : Bool :=
  if w = 3 ∨ w = 4 then !(ldgSrcOk (bitsOf v 31 16) && ldgSrcOk (bitsOf v 15 0))
  else if w = 10 then decide (bitsOf v 7 0 = 0)
  else if w = 11 then decide (bitsOf v 31 16 = 0 ∨ bitsOf v 7 0 = 0)
  else if w = 13 ∨ w = 14 then !f32Finite v || decide (f32Int v < 0)
  else if w = 15 then decide (bitsOf v 31 16 = 0 ∨ 32767 < bitsOf v 31 16 ∨ bitsOf v 5 0 < bitsOf v 13 8)
  else if w = 16 then decide (bitsOf v 7 0 = 0)
  else decide (19 ≤ w ∧ v ≠ 0)

/-- The defined bits of a column word: reserved bits are ignored (R12). -/
def colWordMask (w : Nat) : Word :=
  if w = 5 then 0x0FFF0FFF else if w = 6 then 0xFF77FFFF else if w = 11 then 0xFFFFFFFF
  else if w = 15 then 0xFFFF3F3F else if w = 16 then 0x9F0000FF else 0xFFFFFFFF

/-- A write of WIN_DATA (R252, R253). -/
def ldgWinWrite (cx : WriteCx) (s : State) : WrOut :=
  let area := getW LDG.WIN_ADDR_AREA ldgPg 0 s
  let w := getW LDG.WIN_ADDR_WORD ldgPg 0 s
  let v := cx.data
  let own := if area = 0 then pageOwns ldgPg cx.party s else unitOwns ldgPg (w / 32) cx.party s
  let shd (i : Nat) : Word := getShd ldgPg area i s
  let bad := getB LDG.WIN_ADDR_VIEW ldgPg 0 s || getB CMN.STAT_SWAP_PEND ldgPg 0 s || !own
    || (if area = 0 then rateBad (fun i => shd (w / 128 * 128 + i)) (w % 128) v
        else if area = 1 then colWordBad (w % 32) v
        else if w % 4 = 1 then !(ldgSrcOk (bitsOf v 31 16) && ldgSrcOk (bitsOf v 15 0))
        else decide (w % 4 = 3 ∧ v ≠ 0))
  let v :=
    if area = 0 ∧ w % 128 = 0 then v &&& 1
    else if area = 1 then (v &&& colWordMask (w % 32)) ||| (if w % 32 = 6 then 0x80000000 else 0)
    else if area = 2 ∧ w % 4 = 2 then v &&& 0xF else v
  if bad then .refuse else .ok (setShd ldgPg area w v s)

/-- What WIN_DATA reads. -/
def ldgWinRead (s : State) : Word :=
  let area := getW LDG.WIN_ADDR_AREA ldgPg 0 s
  let w := getW LDG.WIN_ADDR_WORD ldgPg 0 s
  if getB LDG.WIN_ADDR_VIEW ldgPg 0 s then getAct ldgPg area w s else getShd ldgPg area w s

/-- Advances WORD after an access to WIN_DATA with AINC = 1, wrapping within the area (R504). -/
def ldgWinAdvance (s : State) : State :=
  if getB LDG.WIN_ADDR_AINC ldgPg 0 s then
    setF LDG.WIN_ADDR_WORD ldgPg 0 ((getW LDG.WIN_ADDR_WORD ldgPg 0 s + 1) % ldgAreaLen (getW LDG.WIN_ADDR_AREA ldgPg 0 s)) s
  else s

/-! ### Loading -/

/-- A loaded parcel: MNOW and MPRED take MIN, HEAT, AGE and ZONE are 0 (R248). -/
def loaded (p : Parcel) (now : Nat) : Parcel :=
  { p with heat := 0, mnow := p.minM, mpred := p.minM, age := 0, zone := 0, flags := 0x84, closed := p.vol, opened := now }

/-- A window write of a parcel slot (R248). -/
def parcelWrite (party : Party) (loc w : Nat) (v : Word) (s : State) : WrOut :=
  let c := loc / 2048
  if colMode c s ≠ 0 ∨ 2 < w ∨ unitOwns ldgPg c party s = false ∨ (locked ldgPg s = true ∧ party ≠ .sup ∧ party ≠ .flt)
  then .refuse
  else
    let p := parcelAt s loc
    if w = 0 ∧ v = 0 then .ok (newParcel loc (freeParcel loc) s)
    else
      let p := if w = 0 then { p with vol := v.toNat } else if w = 1 then { p with minM := v.toInt } else { p with tin := v.toInt }
      .ok (setParcel loc (loaded p s.time.ticks) s)

/-- CMD = 1: fills slots 0 to n − 1 (R248). Refused where the volumes give no number of parcels (PVOL = 0) or more than the
ring holds. -/
def ldgInit (c : Nat) (s : State) : WrOut :=
  let pvol := (colWord c 1 s).toNat
  let cvol := (colWord c 2 s).toNat
  let n := parcelCount cvol pvol
  if colMode c s ≠ 0 ∨ getW LDG.COL_CTRL_MODE ldgPg c s ≠ 0 ∨ pvol = 0 ∨ 2047 < n then .refuse
  else
    let m := (colWord c 17 s).toInt
    let t := (colWord c 18 s).toInt
    let s := forN n (fun i a =>
      let vol := if i + 1 = n then cvol * 256 - (n - 1) * pvol else pvol
      let p := { freeParcel (c * 2048 + i) with vol := vol, minM := m, tin := t, serial := (ldgCol a c).serial % 256 }
      putCol c { ldgCol a c with serial := (ldgCol a c).serial + 1 }
        (newParcel (c * 2048 + i) (loaded p a.time.ticks) a)) s
    .ok (setF LDG.COL_TAIL_TAIL ldgPg c 0 (setF LDG.COL_PTR_BOT ldgPg c 0 (setF LDG.COL_PTR_HEAD ldgPg c n s)))

/-- The BATCH record of a column in layer mode (R251, R378), over the layers whose records pass their CRC-8 (R223). Where none
does, the spec gives the words no value. -/
def batchRecord (c : Nat) (s : State) : State :=
  let n := bitsOf (colWord c 15 s) 5 0 + 1
  let (s, locs) := usable ((List.range n).map fun i => c * 2048 + i) s
  let ps := locs.map fun l => parcelAt s l
  let (free, s) := drawWord s
  let given (g : Parcel → Int) : Word := (ps.head?.map fun p => ofI (g p)).getD free
  let mean (f : Parcel → Int) : Word := given fun _ => divAway (ps.foldl (fun a p => a + f p) 0) ps.length
  let least (f : Parcel → Int) : Word := given fun p => ps.foldl (fun a q => min a (f q)) (f p)
  let great (f : Parcel → Int) : Word := given fun p => ps.foldl (fun a q => max a (f q)) (f p)
  let heat (p : Parcel) : Int := p.heat
  recPush 0x13 (getF REC.RSEV_BATCH 0x03 0 s) c
    [(2, ofN (n - 1)), (3, mean Parcel.minM), (4, least Parcel.minM), (5, great Parcel.minM),
     (6, mean Parcel.mnow), (7, least Parcel.mnow), (8, great Parcel.mnow), (9, mean heat), (10, great heat),
     (11, ofI (ldgCol s c).tEnd), (12, rdReg s (pageAddr ldgPg (0x10C + 0x40 * c)))] 2 (ldgPg * 16 + c) s

/-- A write of COLc_CMD (R242, R248, R249). -/
def ldgCmd (c cmd : Nat) (s : State) : WrOut :=
  if cmd = 1 then ldgInit c s
  else if cmd = 2 then .ok (putCol c { ldgCol s c with biasClr := true } s)
  else if cmd = 3 then (if colMode c s = 2 then .ok (batchRecord c s) else .refuse)
  else .ok s

/-! ### Register writes and reads -/

/-- The checks of a write to the LDG page's block registers. -/
def ldgWrite (cx : WriteCx) (s : State) : WrOut :=
  if cx.off < 0x200 then
    let c := cx.unit
    let k := (cx.off - 0x100) % 0x40
    let stopped := decide (colMode c s = 0 ∧ getW LDG.COL_CTRL_MODE ldgPg c s = 0)
    if k = 0 then
      if cxOutside cx 1 0 0 2 || (cxHas cx 27 && decide (4 ≤ cxBits cx 31 27 ∧ cxBits cx 31 27 < 16)) then .refuse
      else
        let get := ldgNextSet (getB CMN.STAT_SWAP_PEND ldgPg 0 s) s
        match ldgCause c (cxMerged cx) get with
        | some cause => .refuseTo (ldgRecord c cause s)
        | none =>
          let new := cxNew cx 1 0
          let read := colMode c s ≠ new
          let t := if read then (usable (startLocs c new get s) s).1 else s
          if startBad c (colMode c s) new get s then .refuseTo (ldgRecord c 7 t) else .ok (storeFields cx t)
    else if k = 4 then ldgCmd c (cxBits cx 1 0) s
    else if k = 8 then
      storeUnless (cxOutside cx 15 0 0x2000 0x6000 || (cxHas cx 0 && decide (getW LDG.COL_CTRL_SMODE ldgPg c s = 1))) cx s
    else storeUnless (decide (cx.fields ≠ []) && !stopped || (decide (k = 0x20) && cxOutside cx 21 11 0 2047)) cx s
  else if cx.off = 0x200 then
    storeUnless (decide (2 < cxNew cx 14 12)
      || ((cxHas cx 0 || cxHas cx 12) && decide (ldgAreaLen (cxNew cx 14 12) ≤ cxNew cx 11 0))) cx s
  else if cx.off = 0x204 then ldgWinWrite cx s
  else .ok (storeFields cx s)

/-- What the LDG page's registers read where they show computed state. -/
def ldgRead (off : Nat) (s : State) : Option Word :=
  let c := (off - 0x100) / 0x40
  let k := (off - 0x100) % 0x40
  if 0x100 ≤ off ∧ off < 0x200 ∧ k = 0x10 then some (getPub (ldgSrc 0 c) s).value
  else if 0x100 ≤ off ∧ off < 0x200 ∧ k = 0x14 then some (getPub (ldgSrc 1 c) s).value
  else if 0x100 ≤ off ∧ off < 0x200 ∧ k = 0x1C then
    let a := getPub (ldgSrc 0 c) s
    let b := getPub (ldgSrc 1 c) s
    let x := ldgCol s c
    let w := setBits (rdReg s (pageAddr ldgPg off)) 31 31 (b2n (a.stale || b.stale))
    some (setBits (setBits w 26 24 (b2n x.stallEp * 4 + b2n x.ringEp * 2 + b2n (decide (x.unfit ≠ [])))) 15 0 (age16 s a.tick))
  else if 0x100 ≤ off ∧ off < 0x200 ∧ k = 0x24 then
    let bot := getW LDG.COL_PTR_BOT ldgPg c s
    let tail := getW LDG.COL_TAIL_TAIL ldgPg c s
    some (setBits (rdReg s (pageAddr ldgPg off)) 26 16 ((bot + 2048 - tail) % 2048))
  else if off = 0x204 then some (ldgWinRead s)
  else none

/-- Whether an output of a column with MODE ≠ 0 is stale (R49). -/
def ldgStale (s : State) : Bool :=
  (List.range 4).any fun c =>
    decide (colMode c s ≠ 0) && ((getPub (ldgSrc 0 c) s).stale || (getPub (ldgSrc 1 c) s).stale)

end Sys2Proof.Machine
end

