-- ==== Sys2Proof/Machine/LdgPass.lean ====
section
/-!
DEFINITION. The ledger's evaluator (chapter 8): what one pass computes from its snapshot in tower and layer mode (R239 to R247).
-/
namespace Sys2Proof.Machine

/-- A Q16.16 code in the internal format. -/
def f48Q (v : Int) : F48 := f48OfRat v 1 (-16)

/-- A Q24.8 word in the internal format. -/
def f48Q8 (n : Nat) : F48 := f48OfRat (n : Int) 1 (-8)

/-- A number rounded to Q16.16 with saturation (R115). -/
def q16Of (x : F48) : Int := x.toQ16.1

/-! ### Rates -/

/-- K and ME of a rate table at T and H (R239). -/
def ratesAt (table : List Word) (t h : F48) : F48 × F48 :=
  let ta (i : Nat) : Int := (nthW table i).toInt
  let ha (j : Nat) : Int := (nthW table (8 + j)).toInt
  let tc := (t.max (f48Q (ta 1))).min (f48Q (ta 8))
  let hc := (h.max (f48Q (ha 1))).min (f48Q (ha 4))
  let ixT := ((List.range 7).reverse.find? fun i => (f48Q (ta (i + 1))).le tc).getD 0 + 1
  let ixH := ((List.range 3).reverse.find? fun j => (f48Q (ha (j + 1))).le hc).getD 0 + 1
  let one := f48OfInt 1
  let fT := (tc.sub (f48Q (ta ixT))).div ((f48Q (ta (ixT + 1))).sub (f48Q (ta ixT)))
  let fH := (hc.sub (f48Q (ha ixH))).div ((f48Q (ha (ixH + 1))).sub (f48Q (ha ixH)))
  let gT := one.sub fT
  let gH := one.sub fH
  let q (x : Nat → Nat → F48) : F48 :=
    ((((gT.mul gH).mul (x ixT ixH)).add ((fT.mul gH).mul (x (ixT + 1) ixH))).add
      ((gT.mul fH).mul (x ixT (ixH + 1)))).add ((fT.mul fH).mul (x (ixT + 1) (ixH + 1)))
  (q fun i j => f48OfF32 (nthW table (16 + 4 * (i - 1) + (j - 1))),
   q fun i j => f48Q (nthW table (48 + 4 * (i - 1) + (j - 1))).toInt)

/-- A zone as the pass uses it: end depth, and T, k and Me where its air is known. -/
structure PassZone where
  top : F48
  bot : F48
  air : Option (F48 × F48 × F48)

/-- The zones of a snapshot (R238 to R240). -/
def passZones (x : LdgSnap) : List PassZone :=
  let tops := x.zones.map fun z => z.top
  let ends := tops.drop 1 ++ [(nthW x.words 2).toNat]
  (x.zones.zip ends).map fun (z, e) =>
    ⟨f48Q8 z.top, f48Q8 e, z.air.map fun (t, h) => let (k, me) := ratesAt z.table (f48Q t) (f48Q h); (f48Q t, k, me)⟩

/-! ### Tower mode -/

/-- One stretch of drying: `me + (m − me) × exp(arg)`. -/
def dryTo (me m arg : F48) : F48 := me.add ((m.sub me).mul arg.exp)

/-- E(Q) of R240 over the zones from the parcel's own, before the bias is added. -/
def predict (q : F48) : List PassZone → F48 → F48 → F48
  | [], m, _ => m
  | z :: zs, m, d =>
    let m' := match z.air with
      | none => m
      | some (_, k, me) => dryTo me m (((k.mul (z.bot.sub d)).div (q.mul (f48OfInt 3600))).neg)
    predict q zs m' z.bot

/-- `n` halvings (R243): the lower half is taken where `above mid = up`. -/
def bisect (above : F48 → Bool) (up : Bool) : Nat → F48 → F48 → F48 × F48
  | 0, lo, hi => (lo, hi)
  | n + 1, lo, hi =>
    let mid := (lo.add hi).div (f48OfInt 2)
    if above mid = up then bisect above up n lo mid else bisect above up n mid hi

/-- Flow in 0.1 L/s units. -/
def flowOf (n : Nat) : F48 := f48OfRat (n : Int) 10 0

/-- One parcel of a tower pass, with its zone list, M and depth for the horizon (R240). -/
structure TowerItem where
  item : LdgItem
  rest : List PassZone
  m : F48
  dc : F48
  top : Nat
  vol : Nat

/-- HEAT after a pass, and whether it saturated (R240). -/
def heatAfter (heat : Nat) (t tBase dt : F48) : Nat × Bool :=
  let add := (((t.sub tBase).max F48.zero).mul dt).div (f48OfInt 60)
  let h := ((f48Q heat).add add).toFixed 16
  if 4294967295 < h then (4294967295, true) else (h.toNat, false)

/-- One parcel of a tower pass: `top` is the volume above it (R240). -/
def towerParcel (x : LdgSnap) (zones : List PassZone) (dt qu : F48) (loc : Nat) (p : Parcel) (top : Nat) : TowerItem :=
  let dc := f48OfRat ((2 * top + p.vol : Nat) : Int) 1 (-17)
  let z := ((List.range zones.length).reverse.find? fun i =>
    match zones[i]? with
    | some y => y.top.le dc
    | none => false).getD 0
  let rest := zones.drop z
  let m0 := f48Q p.mnow
  let air := (rest.head?).bind fun y => y.air
  let m := match air with
    | none => m0
    | some (_, k, me) => dryTo me m0 (((k.mul dt).div (f48OfInt 3600)).neg)
  let (heat, sat) := match air with
    | none => (p.heat, false)
    | some (t, _, _) => heatAfter p.heat t (f48Q (nthW x.words 12).toInt) dt
  let pred := (predict qu rest m dc).add (f48Q x.bias)
  ⟨⟨loc, p.serial, q16Of m, heat, sat, q16Of pred, z, air.isNone⟩, rest, m, dc, top, p.vol⟩

/-- The parcels of a tower pass from the inlet down. -/
def towerParcels (x : LdgSnap) (zones : List PassZone) (dt qu : F48) : List (Nat × Parcel) → Nat → List TowerItem
  | [], _ => []
  | (loc, p) :: ps, top => towerParcel x zones dt qu loc p top :: towerParcels x zones dt qu ps (top + p.vol)

/-- The suggested rate of the horizon parcel (R243): QSUG, SAT_LO and SAT_HI. -/
def suggest (x : LdgSnap) (h : TowerItem) : Int × Bool × Bool :=
  let b := f48Q x.bias
  let tgt := f48Q (nthW x.words 7).toInt
  let above (q : F48) : Bool := tgt.lt ((predict q h.rest h.m h.dc).add b)
  let qmin := flowOf (bitsOf (nthW x.words 8) 15 0)
  let qmax := flowOf (bitsOf (nthW x.words 8) 31 16)
  let lo := above qmin
  let hi := !lo && !above qmax
  let qs := if lo then qmin else if hi then qmax else (bisect above true 16 qmin qmax).1
  let unit := (f48Q ((nthW x.words 0).toNat : Int)).mul (f48OfRat (x.slip : Int) 1 (-14))
  (q16Of (if x.runit then qs.div unit else qs), lo, hi)

/-- A tower pass (R240, R243). -/
def towerPass (x : LdgSnap) (dt : F48) : LdgResult :=
  let zones := passZones x
  let qu := (f48Q x.qmeas).max (flowOf (bitsOf (nthW x.words 8) 15 0))
  let items := towerParcels x zones dt qu x.parcels x.openVol
  let hd := (nthW x.words 9).toNat * 256
  match items.find? fun i => decide (i.top ≤ hd ∧ hd < i.top + i.vol) with
  | none => ⟨x.col, items.map fun i => i.item, none, none, false, false, 0⟩
  | some h =>
    let (q, lo, hi) := suggest x h
    ⟨x.col, items.map fun i => i.item, some q, none, lo, hi, 0⟩

/-! ### Layer mode -/

/-- One pass over the layers in air order (R245): moistures and heats, with whether HEAT saturated. -/
def layerStep (table : List Word) (cevap chum tBase dt : F48) : List (F48 × Nat) → F48 → F48 → List (F48 × Nat × Bool)
  | [], _, _ => []
  | (m, heat) :: ls, t, h =>
    let (k, me) := ratesAt table t h
    let mn := dryTo me m (((k.mul dt).div (f48OfInt 3600)).neg)
    let dM := m.sub mn
    let (heat', sat) := heatAfter heat t tBase dt
    let t' := t.sub (cevap.mul dM)
    let h' := ((h.add (chum.mul dM)).max F48.zero).min (f48OfInt 100)
    (mn, heat', sat) :: layerStep table cevap chum tBase dt ls t' h'

/-- `n` equal steps from given moistures. -/
def layerSteps (table : List Word) (cevap chum tBase dt t h : F48) : Nat → List F48 → List F48
  | 0, ms => ms
  | n + 1, ms =>
    layerSteps table cevap chum tBase dt t h n
      ((layerStep table cevap chum tBase dt (ms.map fun m => (m, 0)) t h).map Prod.fst)

/-- A layer pass (R245, R247); without known air the layers keep their values. -/
def layerPass (x : LdgSnap) (dt : F48) : LdgResult :=
  let order := if x.laydir then x.parcels.reverse else x.parcels
  let f (w : Nat) : F48 := f48OfF32 (nthW x.words w)
  let tBase := f48Q (nthW x.words 12).toInt
  let b := f48Q x.bias
  let tgt := f48Q (nthW x.words 7).toInt
  let tmax := f48OfInt (bitsOf (nthW x.words 15) 31 16 : Nat)
  let air := (x.zones.head?).bind fun z => z.air.map fun (t, h) => (f48Q t, f48Q h, z.table)
  let after : List (F48 × Nat × Bool) := match air with
    | none => order.map fun (_, p) => (f48Q p.mnow, p.heat, false)
    | some (t, h, tab) => layerStep tab (f 13) (f 14) tBase dt (order.map fun (_, p) => (f48Q p.mnow, p.heat)) t h
  let ms := after.map Prod.fst
  let trial (mins : F48) : List F48 := match air with
    | none => ms
    | some (t, h, tab) =>
      layerSteps tab (f 13) (f 14) tBase ((mins.mul (f48OfInt 60)).div (f48OfInt 16)) t h 16 ms
  let above (mins : F48) : Bool := (trial mins).any fun m => tgt.lt (m.add b)
  let lo := !(ms.any fun m => tgt.lt (m.add b))
  let hi := !lo && above tmax
  let tEnd := if lo then F48.zero else if hi then tmax else (bisect above false 16 F48.zero tmax).2
  let ends := if lo then ms else trial tEnd
  let items := (order.zip (after.zip ends)).map fun ((loc, p), (m, heat, sat), e) =>
    (⟨loc, p.serial, q16Of m, heat, sat, q16Of (e.add b), 0, air.isNone⟩ : LdgItem)
  let vol := order.foldl (fun a (_, p) => a + p.vol) 0
  let sum := (order.zip items).foldl (fun (a : Int) ((_, p), i) => a + p.vol * i.mpred) 0
  ⟨x.col, items, some (q16Of tEnd), if vol = 0 then none else some (divAway sum vol), lo, hi, q16Of tEnd⟩

/-- The results of a pass whose Δt is `ticks` ticks (R240, R245, R61). -/
def passResults (snaps : List LdgSnap) (ticks : Nat) : List LdgResult :=
  let dt := f48OfRat (ticks : Int) 8000 0
  snaps.map fun x => if x.mode = 2 then layerPass x dt else towerPass x dt

end Sys2Proof.Machine
end

