-- ==== Sys2Proof/Machine/LdgCore.lean ====
section
/-!
DEFINITION. The column ledger at work (chapter 8): sampling, advance, outlet matching, pass snapshot and publication, bias, slip
and interval summaries.
-/
namespace Sys2Proof.Machine

/-! ### Sources -/

/-- Model source word of a DI counter's published count (R336). -/
def cntSrc (c : Nat) : Nat := 8 * 4096 + 3 * 256 + c

/-- Whether a column runs. -/
def colOn (c : Nat) (s : State) : Bool := running ldgPg s && decide (colMode c s ≠ 0)

/-- Reads source number `x` of a column: keeps the last fit value and the unfit episode, and answers the value and whether
it is fit (R225, R238). -/
def ldgSource (c x w : Nat) (s : State) : State × Int × Bool :=
  let s := verifySrc w s
  let w6 := colWord c 6 s
  let r := readSrc w s
  let unfit := srcUnfit w (bitsOf w6 15 0) (bitsOf w6 31 24) r
  let col := ldgCol s c
  let was := col.unfit.contains x
  let col := { col with
    unfit := if unfit then (if was then col.unfit else col.unfit ++ [x]) else col.unfit.erase x
    fits := if unfit then col.fits else tabIns x r.value.toInt col.fits }
  let s := putCol c col s
  let s := if unfit && !was then raise ldgPg 0xFF kLdgSourceUnfit (c * 32 + x) (setIrq ldgPg 20 s)
    else if !unfit && was then endEp ldgPg kLdgSourceUnfit (c * 32 + x) s else s
  (s, r.value.toInt, !unfit)

/-! ### Retirement -/

/-- Histogram bin of a moisture (R251): HBASE in % w.b., HSTEP in 0.1 % w.b. -/
def moistBin (hbase hstep : Nat) (v : Int) : Nat :=
  let d := (v - hbase * 65536) * 10
  if d < hstep * 65536 then 0 else Nat.min 15 (d / (Nat.max 1 hstep * 65536 : Nat)).toNat

/-- Adds a retired parcel to the interval sums (R251). -/
def addSums (words11 : Word) (p : Parcel) (mm : Option Int) (a : LdgSums) : LdgSums :=
  let exit := mm.getD p.mpred
  let b := moistBin (bitsOf words11 15 8) (bitsOf words11 7 0) exit
  { vol := a.vol + p.vol
    none := if mm.isNone then a.none + p.vol else a.none
    bins := a.bins.set b (nthN a.bins b + p.vol)
    minM := a.minM + p.vol * p.minM
    mm := a.mm + p.vol * mm.getD 0
    mpred := a.mpred + p.vol * p.mpred
    age := a.age + (p.vol * p.age : Nat)
    heat := a.heat + (p.vol * p.heat : Nat) }

/-- The PARCEL record (R378). -/
def parcelRecord (c : Nat) (p : Parcel) (mm : Option Int) (s : State) : State :=
  if getB LDG.COL_CTRL_PREC ldgPg c s then
    recPush 0x12 (getF REC.RSEV_PARCEL 0x03 0 s) c
      [(2, ofN (p.serial * 256 + p.flags)), (3, ofN p.vol), (4, ofI p.minM), (5, ofI p.tin), (6, ofN p.heat), (7, ofI p.mpred),
       (8, match mm with
         | some m => ofI m
         | none => 0x80000000), (9, ofN p.age), (10, ofN p.dend)] 2 (ldgPg * 16 + c) s
  else s

/-- Retires the parcel at TAIL, matched with its measured moisture or unmatched (R235). A record that fails its CRC-8 is not
used: it contributes nothing (R223). -/
def retire (c : Nat) (mm : Option Int) (s : State) : State :=
  let tail := getW LDG.COL_TAIL_TAIL ldgPg c s
  let loc := c * 2048 + tail
  let p := parcelAt s loc
  let ok := parcelOk s loc
  let mm := if ok then mm else none
  let col := ldgCol s c
  let s := if ok then parcelRecord c p mm s else s
  let s := putCol c { col with
    sums := if ok then addSums (colWord c 11 s) p mm col.sums else col.sums
    outSum := 0, outNum := 0
    resSum := match mm with
      | some m => col.resSum + (m - p.mpred)
      | none => col.resSum
    resNum := if mm.isSome then col.resNum + 1 else col.resNum } s
  let s := newParcel loc (freeParcel loc) s
  setF LDG.COL_TAIL_TAIL ldgPg c ((tail + 1) % 2048) s

/-! ### Advance -/

/-- Opens a parcel at a slot (R227, R229). -/
def openParcel (c slot vol : Nat) (s : State) : State :=
  let col := ldgCol s c
  let loc := c * 2048 + slot
  let s := putCol c { col with serial := col.serial + 1, mSum := 0, mNum := 0, tSum := 0, tNum := 0 } s
  newParcel loc { freeParcel loc with vol := vol, flags := 0xC0, serial := col.serial % 256, opened := s.time.ticks } s

/-- Discharges the parcel at BOT (R227). -/
def discharge (c : Nat) (s : State) : State :=
  let bot := getW LDG.COL_PTR_BOT ldgPg c s
  let loc := c * 2048 + bot
  let p := parcelAt s loc
  let s := setParcel loc { p with
    flags := p.flags ||| 0x20, dend := s.time.tick, wstart := (ldgCol s c).winStart
    age := satN 0xFFFFFFFF (s.time.ticks - p.opened), vol := p.closed } s
  let s := putCol c { ldgCol s c with winStart := s.time.tick } s
  setF LDG.COL_PTR_BOT ldgPg c ((bot + 1) % 2048) s

/-- Closes the parcel at HEAD and opens the next with the excess volume; a ring without a free slot retires TAIL first
(R227, R229, R230). -/
def closeHead (c pvol : Nat) (s : State) : State :=
  let head := getW LDG.COL_PTR_HEAD ldgPg c s
  let loc := c * 2048 + head
  let p := parcelAt s loc
  let col := ldgCol s c
  let m := if col.mNum = 0 then col.lastMin else p.minM
  let t := if col.tNum = 0 then col.lastTin else p.tin
  let est := decide (col.mNum = 0 ∨ col.tNum = 0)
  let s := setParcel loc { p with
    vol := pvol, closed := pvol, minM := m, tin := t, mnow := m, mpred := m
    flags := (p.flags &&& 0xBF) ||| (if est then 0x10 else 0) } s
  let s := putCol c { ldgCol s c with lastMin := m, lastTin := t } s
  let next := (head + 1) % 2048
  let full := decide (next = getW LDG.COL_TAIL_TAIL ldgPg c s)
  let s :=
    if full then
      let s := incSat LDG.COL_LOST_RING ldgPg c (retire c none s)
      if (ldgCol s c).ringEp then s
      else raise ldgPg 0xFF kLdgRingFull c (setIrq ldgPg 17 (putCol c { ldgCol s c with ringEp := true } s))
    else if (ldgCol s c).ringEp then endEp ldgPg kLdgRingFull c (putCol c { ldgCol s c with ringEp := false } s)
    else s
  setF LDG.COL_PTR_HEAD ldgPg c next (openParcel c next (p.vol - pvol) s)

/-- The moves of one tick: whole codes of the pending volume, at most 8 discharges or closes (R227). Where the record at BOT or
HEAD fails its CRC-8 its VOL is not used, and the volume stays pending (R223). -/
def moveVolume (c pvol : Nat) : Nat → Nat → State → State
  | 0, _, s => s
  | fuel + 1, n, s =>
    let col := ldgCol s c
    let bot := getW LDG.COL_PTR_BOT ldgPg c s
    let head := getW LDG.COL_PTR_HEAD ldgPg c s
    let lb := c * 2048 + bot
    let lh := c * 2048 + head
    let q := col.q / 16384
    if q = 0 ∨ 8 ≤ n ∨ bot = head then s
    else if !(parcelOk s lb && parcelOk s lh) then (usable [lb, lh] s).1
    else
      let take := Nat.min q (parcelAt s lb).vol
      let s := putCol c { col with q := col.q - take * 16384 } s
      let s := setParcel lb { parcelAt s lb with vol := (parcelAt s lb).vol - take } s
      let s := setParcel lh { parcelAt s lh with vol := (parcelAt s lh).vol + take } s
      let empty := decide ((parcelAt s lb).vol = 0)
      let s := if empty then discharge c s else s
      let full := decide (pvol ≤ (parcelAt s lh).vol)
      let s := if full then closeHead c pvol s else s
      moveVolume c pvol fuel (n + b2n empty + b2n full) s

/-- Whether a column's meter counter is fit (R225, R227). -/
def meterFit (c : Nat) (s : State) : Bool :=
  let w6 := colWord c 6 s
  let k := cntSrc (bitsOf w6 18 16)
  !srcUnfit k (bitsOf w6 15 0) (bitsOf w6 31 24) (readSrc k s)

/-- The meter's part of an advance: the count difference as volume (R227, R228, R231). -/
def takeCount (c : Nat) (s : State) : State :=
  let fit := meterFit c s
  let now := (getPub (cntSrc (bitsOf (colWord c 6 s) 18 16)) s).value.toNat
  let s := setB LDG.COL_STAT_METER_STALE ldgPg c (!fit) s
  if !fit then s
  else
    let col := ldgCol s c
    let d := match col.count with
      | none => 0
      | some prev => (now + 4294967296 - prev) % 4294967296
    let jump := decide (65535 < d)
    let dq := if jump then 0 else d * (colWord c 0 s).toNat * getF LDG.COL_SLIP_SLIP ldgPg c s
    let s := putCol c { col with
      count := some now, q := col.q + dq, met := col.met + dq
      pulsed := col.pulsed || decide (0 < d), stallEp := col.stallEp && decide (d = 0) } s
    let s := if col.stallEp && decide (0 < d) then endEp ldgPg kLdgMeterStall c s else s
    raiseIf jump ldgPg 0xFF kLdgMeterJump c s

/-- One column's advance: none while its counter is not fit (R228). -/
def advanceCol (c : Nat) (s : State) : State :=
  if running ldgPg s && decide (colMode c s = 1) then
    let w16 := colWord c 16 s
    let on := bitAt (rdReg s (pageAddr 0x33 0x190)).toNat (bitsOf w16 28 24)
    let s := putCol c { ldgCol s c with runOn := (ldgCol s c).runOn && on } s
    let t := takeCount c s
    if meterFit c s then moveVolume c (colWord c 1 s).toNat 20 0 t else t
  else s

/-- LEDGER_ADVANCE (R227). -/
def ledgerAdvance (s : State) : State := forN 4 advanceCol (atPhase 30 0 s)

/-! ### Sampling -/

/-- The sample of a ring stored `d` intervals ago. -/
def ringAt (l : List (Int × Bool)) (d : Nat) : Int × Bool := l.getD d (0, false)

/-- The open parcel takes the entry samples stored D_IN intervals earlier (R229). -/
def entrySample (c : Nat) (s : State) : State :=
  let head := getW LDG.COL_PTR_HEAD ldgPg c s
  let loc := c * 2048 + head
  let p := parcelAt s loc
  if !parcelOk s loc then verifyParcel loc s
  else if bitAt p.flags 6 then
    let col := ldgCol s c
    let din := bitsOf (colWord c 5 s) 11 0
    let m := ringAt (col.rings.getD 0 []) din
    let t := ringAt (col.rings.getD 1 []) din
    let col := { col with
      mSum := if m.2 then col.mSum + m.1 else col.mSum
      mNum := if m.2 then col.mNum + 1 else col.mNum
      tSum := if t.2 then col.tSum + t.1 else col.tSum
      tNum := if t.2 then col.tNum + 1 else col.tNum }
    let mean (sum : Int) (n : Nat) : Int := if n = 0 then 0 else divAway sum n
    let mv := mean col.mSum col.mNum
    setParcel loc { p with minM := mv, tin := mean col.tSum col.tNum, mnow := mv, mpred := mv } (putCol c col s)
  else s

/-- Maturing of the parcels at TAIL at a sampling instant (R234, R235). A parcel whose record fails its CRC-8 has no DEND that may
be used (R223): it is retired unmatched at the first sampling instant that finds it so. -/
def matureAll (c : Nat) : Nat → State → State
  | 0, s => s
  | fuel + 1, s =>
    let tail := getW LDG.COL_TAIL_TAIL ldgPg c s
    let shifted : Int := (s.time.tick : Int) - 512 * bitsOf (colWord c 5 s) 27 16
    let loc := c * 2048 + tail
    if tail = getW LDG.COL_PTR_BOT ldgPg c s ∨ (parcelOk s loc = true ∧ shifted < (parcelAt s loc).dend) then s
    else
      let col := ldgCol s c
      let off := decide (bitsOf (colWord c 4 s) 31 28 = 0)
      if col.outNum = 0 ∨ off = true ∨ parcelOk s loc = false then
        matureAll c fuel (retire c none (if off then s else incSat LDG.COL_LOST_NOOUT ldgPg c s))
      else matureAll c fuel (retire c (some (divAway col.outSum col.outNum)) s)

/-- The outlet sample joins the accumulator of the parcel at TAIL (R233). -/
def outletSample (c : Nat) (v : Int) (fit : Bool) (s : State) : State :=
  let col := ldgCol s c
  let tail := getW LDG.COL_TAIL_TAIL ldgPg c s
  let shifted : Int := (s.time.tick : Int) - 512 * bitsOf (colWord c 5 s) 27 16
  let p := parcelAt s (c * 2048 + tail)
  let inside := if tail = getW LDG.COL_PTR_BOT ldgPg c s then decide ((col.winStart : Int) ≤ shifted)
    else decide ((p.wstart : Int) ≤ shifted ∧ shifted < p.dend)
  if fit && inside then putCol c { col with outSum := col.outSum + v, outNum := col.outNum + 1 } s else s

/-- The stall count of a sampling interval (R231). -/
def stallSample (c : Nat) (s : State) : State :=
  let col := ldgCol s c
  let w16 := colWord c 16 s
  let cnt := if bitsOf w16 31 31 = 1 ∧ col.runOn = true ∧ col.pulsed = false then col.stallCnt + 1 else 0
  let begins := !col.stallEp && decide (0 < cnt ∧ bitsOf w16 7 0 ≤ cnt)
  let s := putCol c { col with stallCnt := cnt, runOn := true, pulsed := false, stallEp := col.stallEp || begins } s
  if begins then raise ldgPg 0xFF kLdgMeterStall c (setIrq ldgPg 18 s) else s

/-- One column's sampling instant (R226, R229, R231 to R234). -/
def sampleCol (c : Nat) (s : State) : State :=
  if colOn c s then
    let w3 := colWord c 3 s
    let w4 := colWord c 4 s
    let (s, mv, mf) := ldgSource c 0 (bitsOf w3 31 16) s
    let (s, tv, tf) := ldgSource c 1 (bitsOf w3 15 0) s
    let (s, ov, of') := ldgSource c 2 (bitsOf w4 31 16) s
    let (s, rv, rf) := ldgSource c 3 (bitsOf w4 15 0) s
    let col := ldgCol s c
    let push (k : Nat) (v : Int) (f : Bool) : List (Int × Bool) := ((v, f) :: col.rings.getD k []).take 4096
    let s := putCol c { col with
      rings := [push 0 mv mf, push 1 tv tf, push 2 ov of', push 3 rv rf]
      refSum := if rf then col.refSum + rv else col.refSum
      refFit := if rf then col.refFit + 1 else col.refFit
      refNum := col.refNum + 1
      layerSum := if of' then col.layerSum + ov else col.layerSum
      layerNum := if of' then col.layerNum + 1 else col.layerNum } s
    if colMode c s = 1 then stallSample c (outletSample c ov of' (matureAll c 2048 (entrySample c s))) else s
  else s

/-- LEDGER_SAMPLE: phase 30 of a tick whose count is a multiple of 512, once (R226). -/
def ledgerSample (s : State) : State :=
  let s := atPhase 30 0 s
  if s.time.tick % 512 = 0 ∧ s.ldg.sampled ≠ s.time.ticks + 1 then
    forN 4 sampleCol { s with ldg := { s.ldg with sampled := s.time.ticks + 1 } }
  else s

/-! ### Passes -/

/-- Reads the air of the zones of a column at a snapshot (R238). -/
def snapZones (c : Nat) : Nat → Nat → State → State × List LdgZone
  | 0, _, s => (s, [])
  | n + 1, z, s =>
    let w (i : Nat) : Word := getAct ldgPg 2 (c * 32 + z * 4 + i) s
    let (s, _, _) := ldgSource c (4 + 2 * z) (bitsOf (w 1) 31 16) s
    let (s, _, _) := ldgSource c (5 + 2 * z) (bitsOf (w 1) 15 0) s
    let fits := (ldgCol s c).fits
    let get (x : Nat) : Option Int := (fits.find? fun e => e.1 = x).map Prod.snd
    let air := match get (4 + 2 * z), get (5 + 2 * z) with
      | some t, some h => some (t, h)
      | _, _ => none
    let tab := bitsOf (w 2) 3 0
    let (s, rest) := snapZones c n (z + 1) s
    (s, ⟨(w 0).toNat, air, (List.range 80).map fun i => getAct ldgPg 0 (tab * 128 + i) s⟩ :: rest)

/-- The snapshot of one running column (R236). A record that fails its CRC-8 is left out (R223). -/
def snapCol (c : Nat) (s : State) : State × LdgSnap :=
  let words := (List.range 32).map fun w => colWord c w s
  let mode := colMode c s
  let (s, zones) := snapZones c (if mode = 2 then 1 else bitsOf (nthW words 6) 22 20 + 1) 0 s
  let head := getW LDG.COL_PTR_HEAD ldgPg c s
  let bot := getW LDG.COL_PTR_BOT ldgPg c s
  let locs := if mode = 2 then (List.range (bitsOf (nthW words 15) 5 0 + 1)).map fun i => c * 2048 + i
    else (ringLocs c bot head).reverse
  let (s, ok) := usable locs s
  let open' := c * 2048 + head
  let s := if mode = 2 then s else verifyParcel open' s
  let s := putCol c { ldgCol s c with layerSum := 0, layerNum := 0 } s
  (s, { col := c, mode := mode, laydir := getB LDG.COL_CTRL_LAYDIR ldgPg c s
        parcels := ok.map fun l => (l, parcelAt s l)
        openVol := if mode = 2 ∨ parcelOk s open' = false then 0 else (parcelAt s open').vol
        words := words, zones := zones
        bias := (rdReg s (pageAddr ldgPg (0x10C + 0x40 * c))).toInt
        qmeas := (rdReg s (pageAddr ldgPg (0x118 + 0x40 * c))).toInt
        slip := getF LDG.COL_SLIP_SLIP ldgPg c s
        runit := getB LDG.COL_CTRL_RUNIT ldgPg c s })

/-- The snapshots of the running columns. -/
def snapCols : List Nat → State → State × List LdgSnap
  | [], s => (s, [])
  | c :: cs, s =>
    if colOn c s then
      let (s, x) := snapCol c s
      let (s, xs) := snapCols cs s
      (s, x :: xs)
    else snapCols cs s

/-- LEDGER_PASS_COMPLETE: the evaluator finishes (R236). -/
def passComplete (s : State) : State :=
  match s.ldg.pass with
  | none => s
  | some p => { s with ldg := { s.ldg with pass := some { p with results := some (passResults p.snaps 8192) } } }

/-- Writes a pass result to a parcel still in the column (R240, R241). -/
def writeItem (layer : Bool) (i : LdgItem) (s : State) : State :=
  let p := parcelAt s i.loc
  if !parcelOk s i.loc then verifyParcel i.loc s
  else if bitAt p.flags 7 && !bitAt p.flags 6 && !bitAt p.flags 5 && decide (p.serial = i.serial) then
    setParcel i.loc { p with
      mnow := i.mnow, heat := i.heat, mpred := i.mpred, zone := if layer then 0 else i.zone
      age := satN 0xFFFFFFFF (s.time.ticks - p.opened)
      flags := p.flags ||| (if i.heatSat then 2 else 0) ||| (if i.airEst then 8 else 0) } s
  else s

/-- The bias of a column, with its limit episode (R242). -/
def putBias (c : Nat) (b : Int) (s : State) : State :=
  let bmax : Int := divAway ((bitsOf (colWord c 10 s) 23 16 : Nat) * 65536 : Nat) 10
  let lim := decide (bmax ≤ b.natAbs)
  let was := getB LDG.COL_STAT_BIAS_LIM ldgPg c s
  let s := wrReg s (pageAddr ldgPg (0x10C + 0x40 * c)) (ofI b)
  let s := setB LDG.COL_STAT_BIAS_LIM ldgPg c lim s
  if lim && !was then raise ldgPg 0xFF kLdgBiasLimit c (setIrq ldgPg 19 s)
  else if was && !lim then endEp ldgPg kLdgBiasLimit c s
  else s

/-- The residual of a pass in layer mode joins the residuals gathered (R246): a late pass carries it into the next (R237). -/
def layerResidual (x : LdgSnap) (s : State) : State :=
  let c := x.col
  let col := ldgCol s c
  let probe := bitsOf (nthW x.words 15) 13 8
  match x.parcels.find? fun e => decide (e.1 = c * 2048 + probe) with
  | some (_, p) =>
    if x.mode = 2 ∧ 0 < col.layerNum then
      putCol c { col with
        resSum := col.resSum + (divAway col.layerSum col.layerNum - (p.mnow + x.bias)), resNum := col.resNum + 1
        layerSum := 0, layerNum := 0 } s
    else s
  | none => s

/-- The bias update at a pass end (R242). -/
def biasUpdate (c : Nat) (s : State) : State :=
  let col := ldgCol s c
  if col.resNum = 0 then s
  else
    let w10 := colWord c 10 s
    let b := f48Q (rdReg s (pageAddr ldgPg (0x10C + 0x40 * c))).toInt
    let r := f48OfRat col.resSum col.resNum (-16)
    let bmax := f48OfRat (bitsOf w10 23 16 : Nat) 10 0
    let nb := ((b.add ((f48OfRat (bitsOf w10 31 24 : Nat) 256 0).mul r)).max bmax.neg).min bmax
    putBias c (q16Of nb) (putCol c { col with resSum := 0, resNum := 0 } s)

/-- The trimmed slip factor of a column over the last QWIN long tides; none where the volumes give no trim (R232). -/
def slipTrimmed (c : Nat) (s : State) : Option Nat :=
  let col := ldgCol s c
  let w10 := colWord c 10 s
  let qwin := bitsOf w10 7 0
  let met : Nat := (col.mets.take qwin).sum
  let refs := col.refs.take qwin
  let sum : Int := refs.foldl (fun (a : Int) r => a + r.1) 0
  let fit : Nat := refs.foldl (fun (a : Nat) r => a + r.2.1) 0
  let num : Nat := refs.foldl (fun (a : Nat) r => a + r.2.2) 0
  if 2 ^ 30 ≤ met ∧ 0 < fit ∧ num ≤ 2 * fit then
    let span := (f48OfInt qwin).mul (f48OfRat 1024 1000 0)
    let vref := (f48OfRat sum fit (-16)).mul span
    let vmet := f48OfRat (met : Int) 1 (-30)
    let slip := f48OfRat (getF LDG.COL_SLIP_SLIP ldgPg c s : Nat) 1 (-14)
    let k := f48OfRat (bitsOf w10 15 8 : Nat) 256 0
    let f := (f48OfInt 1).add ((k.mul (vref.sub vmet)).div vmet)
    some ((((slip.mul f).max (f48OfRat 1 2 0)).min (f48OfRat 3 2 0)).toFixed 14).toNat
  else none

/-- The slip trim at a pass end (R232): SLIP moves with SMODE = 1 only, and SLIP_LIM clears at the first pass end at which SLIP
lies within the bounds in either mode. A SLIP written in the ending tick, with SMODE cleared before it, stands. -/
def slipTrim (c : Nat) (s : State) : State :=
  let on := getB LDG.COL_CTRL_SMODE ldgPg c s
  let kept := decide (getW LDG.COL_SLIP_SLIP ldgPg c s = getF LDG.COL_SLIP_SLIP ldgPg c s)
  let s := match slipTrimmed c s with
    | some v => if on && kept then setFF LDG.COL_SLIP_SLIP ldgPg c v s else s
    | none => s
  let v := getF LDG.COL_SLIP_SLIP ldgPg c s
  let lim := decide (v ≤ 0x2000 ∨ 0x6000 ≤ v) && (on || getB LDG.COL_STAT_SLIP_LIM ldgPg c s)
  setEp lim ldgPg 0xFF kLdgSlipLimit c (setB LDG.COL_STAT_SLIP_LIM ldgPg c lim s)

/-- The metered volume of a long tide joins the history, and QMEAS of a running column is computed (R240). A column whose QWIN
was never written measures over no time: its QMEAS is a free value. -/
def qmeasUpdate (c : Nat) (s : State) : State :=
  let col := ldgCol s c
  let qwin := bitsOf (colWord c 10 s) 7 0
  let mets := (col.met :: col.mets).take 255
  let s := putCol c { col with
    mets := mets, met := 0, refs := ((col.refSum, col.refFit, col.refNum) :: col.refs).take 255
    refSum := 0, refFit := 0, refNum := 0 } s
  let a := pageAddr ldgPg (0x118 + 0x40 * c)
  if colOn c s = false then s
  else if qwin = 0 then
    let (w, s) := drawWord s
    wrReg s a w
  else
    let v : Nat := (mets.take qwin).sum
    wrReg s a (ofI (q16Of ((f48OfRat (v : Int) 1 (-30)).div ((f48OfInt qwin).mul (f48OfRat 1024 1000 0)))))

/-- Publishes one output of a column, or marks it stale. -/
def ldgPublish (k c : Nat) (v : Option Int) (s : State) : State :=
  match v with
  | some x => publish (ldgSrc k c) (ofI x) s
  | none => stalePub (ldgSrc k c) s

/-- The result of one column is published (R241 to R243, R247). -/
def publishCol (x : LdgSnap) (r : LdgResult) (s : State) : State :=
  let c := x.col
  let s := r.items.foldl (fun a i => writeItem (decide (x.mode = 2)) i a) s
  let bot := c * 2048 + getW LDG.COL_PTR_BOT ldgPg c s
  let s := if x.mode = 2 then s else verifyParcel bot s
  let pb := parcelAt s bot
  let pexit := if x.mode = 2 then r.pexit
    else if (r.items.any fun i => decide (i.loc = bot ∧ i.serial = pb.serial)) && !bitAt pb.flags 6 && parcelOk s bot then some pb.mpred
    else none
  let s := ldgPublish 1 c r.qsug (ldgPublish 0 c pexit s)
  let s := setB LDG.COL_STAT_LATE ldgPg c false s
  let s := setB LDG.COL_STAT_SAT_LO ldgPg c r.satLo (setB LDG.COL_STAT_SAT_HI ldgPg c r.satHi s)
  biasUpdate c (layerResidual x (putCol c { ldgCol s c with tEnd := r.tEnd } s))

/-- A late pass: the outputs of the columns it served go stale, and what it gathered is kept (R237). -/
def lateCol (x : LdgSnap) (s : State) : State :=
  layerResidual x (setB LDG.COL_STAT_LATE ldgPg x.col true (stalePub (ldgSrc 1 x.col) (stalePub (ldgSrc 0 x.col) s)))

/-- What a column does at every long tide boundary: its metered volume joins the history, and the outputs of a column that no
pass serves go stale, as they miss this due instant (R49, R240). -/
def colLongTide (served : List Nat) (c : Nat) (s : State) : State :=
  let s := if colMode c s = 0 then s else qmeasUpdate c s
  if served.contains c then s else stalePub (ldgSrc 1 c) (stalePub (ldgSrc 0 c) s)

/-- Step 1 of R41 at a boundary that ends a long tide: the pass in progress publishes with the settings of the ending tick, or is
late (R236, R237, R243). A pass that an adoption shortened goes on (R61). A pass serves the columns that have run since its
snapshot; one that serves none any more has no due instant. -/
def ledgerDue (s : State) : State :=
  let short := match s.ldg.pass with
    | some p => decide (s.time.ticks < p.start + 1024)
    | none => false
  if gridTick s % 8192 ≠ 0 ∨ short = true then s
  else
    let snaps := match s.ldg.pass with
      | some p => p.snaps
      | none => []
    let s := forN 4 (colLongTide (snaps.map fun x => x.col)) s
    let s := match s.ldg.pass with
      | none => s
      | some p =>
        match p.results with
        | some rs =>
          let len := s.time.ticks - p.start
          let rs := if len = 8192 then rs else passResults p.snaps len
          let s := (p.snaps.zip rs).foldl
            (fun (a : State) (e : LdgSnap × LdgResult) => slipTrim e.1.col (publishCol e.1 e.2 a)) s
          dueBoundary ldgPg true [] (incMod LDG.PASS_COUNT ldgPg 0 (setIrq ldgPg 16 s))
        | none => dueBoundary ldgPg true [0] (p.snaps.foldl (fun (a : State) (x : LdgSnap) => slipTrim x.col (lateCol x a)) s)
    { s with ldg := { s.ldg with pass := none } }

/-- The next pass takes its snapshot at the long tide boundary just passed, after the actions of R41 (R236). -/
def ledgerSnapshot (s : State) : State :=
  if s.ldg.pass.isSome then s
  else
    let (s, snaps) := snapCols [0, 1, 2, 3] s
    if snaps = [] then s else { s with ldg := { s.ldg with pass := some ⟨s.time.ticks, snaps, none⟩ } }

/-- A column that stops takes its part of the pass in progress with it (R249). -/
def dropSnap (c : Nat) (s : State) : State :=
  let left (p : LdgPass) : Option LdgPass :=
    let keep := p.snaps.filter fun x => decide (x.col ≠ c)
    if keep = [] then none else some ⟨p.start, keep, p.results.map fun rs => rs.filter fun r => decide (r.col ≠ c)⟩
  { s with ldg := { s.ldg with pass := s.ldg.pass.bind left } }

/-! ### Interval summaries -/

/-- A VOL-weighted mean as a code; none where there is no volume. -/
def weighted (sum : Int) (vol : Nat) : Option Word := if vol = 0 then none else some (ofI (divAway sum vol))

/-- LEDGER_INTERVAL_END: the long tide boundary just passed ends the interval of a column, running or stopped, once (R251, R378).
Means over no volume are values the spec leaves open. -/
def intervalEnd (c : Nat) (s : State) : State :=
  let w11 := colWord c 11 s
  let nlt := bitsOf w11 31 16
  if s.time.tick % 8192 = 0 ∧ nlt ≠ 0 ∧ s.time.tick / 8192 % nlt = 0 ∧ (ldgCol s c).handed ≠ s.time.ticks + 1 then
    let a := (ldgCol s c).sums
    let q8 (v : Nat) : Word := ofN (satN 0xFFFFFFFF (divAway (v : Int) 256).toNat)
    let frac (i : Nat) : Nat := if a.vol = 0 then 0 else satN 0xFFFF (divAway ((nthN a.bins i * 65536 : Nat) : Int) a.vol).toNat
    let bins := (List.range 8).map fun i => (5 + i, ofN (frac (2 * i) * 65536 + frac (2 * i + 1)))
    let sev := getF REC.RSEV_INTERVAL 0x03 0 s
    let key := ldgPg * 16 + c
    let s := recPush 0x10 sev c ([(2, w11), (3, q8 a.vol), (4, q8 a.none)] ++ bins) 2 key s
    let (w1, s) := drawWord s
    let (w2, s) := drawWord s
    let (w3, s) := drawWord s
    let (w4, s) := drawWord s
    let s := recPush 0x11 sev c
      [(2, (weighted a.minM a.vol).getD w1), (3, (weighted a.mm (a.vol - a.none)).getD 0x80000000),
       (4, (weighted a.mpred a.vol).getD w2), (5, (weighted a.age a.vol).getD w3), (6, (weighted a.heat a.vol).getD w4),
       (7, rdReg s (pageAddr ldgPg (0x10C + 0x40 * c))), (8, ofN (getF LDG.COL_SLIP_SLIP ldgPg c s))] 2 key s
    setIrq ldgPg 21 (putCol c { ldgCol s c with sums := LdgSums.empty, handed := s.time.ticks + 1 } s)
  else s

/-! ### Boundaries -/

/-- Stops a column: its pass, the pending volume, the sample rings and the accumulators clear (R249). -/
def stopCol (c : Nat) (s : State) : State :=
  dropSnap c (putCol c { ldgCol s c with
    q := 0, met := 0, mSum := 0, mNum := 0, tSum := 0, tNum := 0, refSum := 0, refFit := 0, refNum := 0, outSum := 0,
    outNum := 0, resSum := 0, resNum := 0, layerSum := 0, layerNum := 0, count := none, rings := [[], [], [], []]
    mets := [], refs := [] } s)

/-- A stop of the page ends the passes, and the sampling that the rings count by (R226, R249). -/
def pauseCol (c : Nat) (s : State) : State :=
  dropSnap c (putCol c { ldgCol s c with rings := [[], [], [], []] } s)

/-- Tower mode starts (R249): the slot at HEAD opens empty, and the final values of the parcel before it are those that a close
without a fit sample takes (R229). A record there that fails its CRC-8 gives none: they are values the spec leaves open. -/
def startTower (c : Nat) (s : State) : State :=
  let head := getW LDG.COL_PTR_HEAD ldgPg c s
  let prev := c * 2048 + (head + 2047) % 2048
  let s := verifyParcel prev s
  let (m, s) := drawWord s
  let (t, s) := drawWord s
  let p := parcelAt s prev
  let ok := parcelOk s prev
  let s := putCol c { ldgCol s c with
    count := none, winStart := s.time.tick, stallCnt := 0, pulsed := false
    lastMin := if ok then p.minM else m.toInt, lastTin := if ok then p.tin else t.toInt } s
  openParcel c head 0 s

/-- One column at a boundary (R242, R249); `o` is the state before it. A column that begins to run has no whole sampling
interval behind it (R231). -/
def colBoundary (o : State) (c : Nat) (s : State) : State :=
  let old := colMode c o
  let new := colMode c s
  let s :=
    if old = 0 ∧ new = 1 then startTower c s
    else if old = 0 ∧ new = 2 then
      forN (bitsOf (colWord c 15 s) 5 0 + 1) (fun i a =>
        let l := c * 2048 + i
        setParcel l { parcelAt a l with flags := (parcelAt a l).flags ||| 1 } a) s
    else if old ≠ 0 ∧ new = 0 then stopCol c s
    else if colOn c o && !colOn c s then pauseCol c s
    else s
  let s := if colOn c s && !colOn c o then putCol c { ldgCol s c with runOn := false, stallCnt := 0 } s else s
  if (ldgCol s c).biasClr then putBias c 0 (putCol c { ldgCol s c with biasClr := false } s) else s

/-- The ledger at a boundary. -/
def ldgBoundary (o s : State) : State := forN 4 (colBoundary o) s

/-- SOFT_RST (R252). -/
def ldgSoftRst (s : State) : State :=
  let s := forN 4 (fun c a => putBias c 0 (stopCol c a)) s
  { s with ldg := { s.ldg with pass := none } }

end Sys2Proof.Machine
end

