-- ==== Sys2Proof/Machine/LpaCore.lean ====
section
/-!
DEFINITION. The loop array at work (chapter 6): snapshot, region update, control law, policies, publication and boundaries.
-/
namespace Sys2Proof.Machine

/-- Whether a slot is due and its page runs (R169). -/
def slotDue (s : State) (q : Nat) : Bool :=
  running (lpaPage q) s && (lpaInForce s).due q s.time.tick

/-- The destination's output value at the last landing (R182). -/
def landOutput (d : Nat) (s : State) : Word := tabGet (fun _ => (0 : Word)) s.landOut d

/-- u_prev at a resume (R182): the destination's output value, or the slot's last published output. -/
def resumeOutput (q : Nat) (s : State) : F48 :=
  let d := bitsOf (rdForce s (slCtrlAddr q)) 23 16
  f48OfQ16 (if d = 0 then (getPub (slotSrc q) s).value else landOutput d s)

/-! ### Regions -/

/-- Regions upward with hysteresis (R184): at most `fuel` steps. -/
def regionUp (b : Nat → F48) (h sv : F48) (n : Nat) : Nat → Nat → Nat
  | 0, k => k
  | fuel + 1, k => if k < n ∧ ((b (k + 1)).add h).le sv = true then regionUp b h sv n fuel (k + 1) else k

/-- Regions downward with hysteresis (R184). -/
def regionDown (b : Nat → F48) (h sv : F48) : Nat → Nat → Nat
  | 0, k => k
  | fuel + 1, k => if 0 < k ∧ sv.lt ((b k).sub h) = true then regionDown b h sv fuel (k - 1) else k

/-- The region without hysteresis (R184): the largest j ≤ n with s ≥ B_j, or 0. -/
def regionOf (b : Nat → F48) (sv : F48) : Nat → Nat
  | 0 => 0
  | n + 1 => if (b (n + 1)).le sv then n + 1 else regionOf b sv n

/-- The region of an execution (R184): `fresh` takes it without hysteresis, and an unfit s then gives 0. -/
def regionNext (b : Nat → F48) (h : F48) (n old : Nat) (sv : Option F48) (fresh : Bool) : Nat :=
  if n = 0 then 0
  else
    let k := Nat.min old n
    match sv with
    | none => if fresh then 0 else k
    | some v => if fresh then regionOf b v n else regionDown b h v 8 (regionUp b h v n 8 k)

/-! ### The control law -/

/-- A gain set in the internal format. -/
structure Gains where
  kp : F48
  ki : F48
  kd : F48
  tf : F48
  kff : F48
  u0 : F48
  umin : F48
  umax : F48
  rate : F48
  db : F48
  safe : F48

/-- The rate window of R181. -/
def rateWindow (g : Gains) (h up : F48) : F48 × F48 :=
  let rho := g.rate.mul h
  let dn := up.sub rho
  let hi := up.add rho
  if g.rate = F48.zero then (g.umin, g.umax)
  else if g.umax.lt dn then (dn, dn)
  else if hi.lt g.umin then (hi, hi)
  else (g.umin.max dn, g.umax.min hi)

/-- LIM of a value against a window: 1 above, 2 below, 0 within. -/
def limOf (w lo hi : F48) : Nat := if hi.lt w then 1 else if w.lt lo then 2 else 0

/-- What an execution leaves: I, D, x_prev, w, e, u and LIM. -/
structure LawOut where
  i : F48
  d : F48
  xp : F48
  w : F48
  e : F48
  u : F48
  lim : Nat

/-- What one execution of R179 runs on. -/
structure LawIn where
  g : Gains
  h : F48
  y : F48
  r : F48
  v : F48
  dir : Bool
  dsrc : Bool
  resume : Bool
  transfer : Bool
  preload : Option F48
  i : F48
  d : F48
  xp : F48
  up : F48

/-- R179 in the order written. -/
def pidLaw (a : LawIn) : LawOut :=
  let g := a.g
  let e := if a.dir then a.y.sub a.r else a.r.sub a.y
  let mag : F48 := ⟨e.m.natAbs, e.e⟩
  let e := if mag.lt g.db then F48.zero else e
  let x := if a.dsrc then e else if a.dir then a.y else a.y.neg
  let p := g.kp.mul e
  let f := (g.kff.mul a.v).add g.u0
  let tfh := g.tf.add a.h
  let beta := g.tf.div tfh
  let gamma := g.kd.div tfh
  let xp := if a.resume then x else a.xp
  let d0 := if a.resume then F48.zero else a.d
  let d := (beta.mul d0).add (gamma.mul (x.sub xp))
  let i := match a.preload with
    | some i => i
    | none => if a.resume || a.transfer then a.up.sub ((p.add d).add f) else a.i
  let clampI (z : F48) : F48 := (z.max g.umin).min g.umax
  let i := clampI i
  let (lo, hi) := rateWindow g a.h a.up
  let dI := (g.ki.mul a.h).mul e
  let wc := ((p.add (i.add dI)).add d).add f
  let stop := (hi.lt wc && F48.zero.lt dI) || (wc.lt lo && dI.lt F48.zero)
  let i := if stop then i else clampI (i.add dI)
  let w := ((p.add i).add d).add f
  ⟨i, d, x, w, e, (w.max lo).min hi, limOf w lo hi⟩

/-! ### One execution -/

/-- The gain set in force of a region. -/
def gainsOf (q k : Nat) (s : State) : Gains :=
  let f (w : Nat) : F48 := f48OfF32 ((lpaInForce s).gain q k w)
  ⟨f 0, f 1, f 2, f 3, f 4, f 5, f 6, f 7, f 8, f 9, f 10⟩

/-- What a slot's input reads (R170, R174, R175): a lower-numbered slot computed in this tick, SLk_SP for r, or the
snapshot. `sp` gives the word of type 0. -/
def slotInput (q w : Nat) (sp : Word) (s : State) : SrcRead :=
  if w / 4096 = 0 then ⟨sp, 0, false, 0, true⟩
  else if w / 4096 = 5 ∧ w % 64 < q then
    match (lpaSlot s (w % 64)).out with
    | some u => ⟨u, 0, false, 0, true⟩
    | none => readSrc w s
  else readSrc w s

/-- The inputs of an execution: the four reads and whether each is unfit (R176). -/
structure SlotInputs where
  y : Word
  r : Word
  v : Word
  sv : Word
  yBad : Bool
  rBad : Bool
  vBad : Bool
  sBad : Bool
  deriving DecidableEq, Repr

/-- A slot's register as the snapshot takes it: without the writes of the snapshot's own cycle (R43). -/
def slotReg (q off : Nat) (s : State) : Word := wordBefore (slCtrlAddr q + off) (rdReg s (slCtrlAddr q + off)) s

/-- Reads a slot's inputs. -/
def slotInputs (q : Nat) (s : State) : SlotInputs :=
  let c := lpaInForce s
  let wy := bitsOf (c.cfg q 0) 31 16
  let wr := bitsOf (c.cfg q 0) 15 0
  let wv := bitsOf (c.cfg q 1) 31 16
  let ws := if c.nreg q = 0 then 0 else bitsOf (c.cfg q 1) 15 0
  let qm := bitsOf (c.cfg q 2) 31 24
  let am := bitsOf (c.cfg q 3) 15 0
  let sp := slotReg q 4 s
  let ry := slotInput q wy 0 s
  let rr := slotInput q wr sp s
  let rv := slotInput q wv 0 s
  let rs := slotInput q ws 0 s
  ⟨ry.value, rr.value, rv.value, rs.value, srcUnfit wy am qm ry, srcUnfit wr am qm rr, srcUnfit wv am qm rv,
    srcUnfit ws am qm rs⟩

/-- The unfit episode of a slot (R178). -/
def slotEpisode (q : Nat) (on : Bool) (s : State) : State :=
  let x := lpaSlot s q
  let p := lpaPage q
  if on = x.unfitEp then s
  else
    let s := putSlot q { x with unfitEp := on } s
    if on then raise p 0xFF kLpaInputUnfit q (setIrq p 17 s) else endEp p kLpaInputUnfit q s

/-- One execution of a due slot (R177 to R184, R190). -/
def executeSlot (q : Nat) (s : State) : State :=
  let p := lpaPage q
  let k := q % 32
  let c := lpaInForce s
  let ctrl := c.ctrl q
  let w2 := c.cfg q 2
  let manual := decide (c.mode q = 2)
  let inp := slotInputs q s
  let mpol := bitsOf w2 11 10
  let rpol := bitsOf w2 9 8
  let s := slotEpisode q ((inp.yBad && decide (mpol ≠ 2)) || (inp.rBad && decide (rpol = 1))) s
  let x := lpaSlot s q
  let h := f48OfRat (2 ^ bitsOf ctrl 5 3 : Nat) 8000 0
  let safe := !manual && inp.yBad && decide (mpol = 1)
  let hold := !manual && !safe && ((inp.yBad && decide (mpol = 0)) || (inp.rBad && decide (rpol = 1)))
  let resume := x.resume && !manual && !safe && !hold
  let up := if resume || x.track then resumeOutput q s else x.up
  let rFit := if inp.rBad then x.rFit else inp.r
  let vFit := if inp.vBad then x.vFit else inp.v
  let bnd (j : Nat) : F48 := f48OfF32 (c.cfg q (4 + j))
  let region := regionNext bnd (f48OfF32 (c.cfg q 4)) (c.nreg q) x.region
    (if inp.sBad then none else some (f48OfQ16 inp.sv)) (resume || x.regInit)
  let changed := decide (region ≠ x.region)
  let s := if changed then setIrq p 18 s else s
  let g := gainsOf q region s
  let pre := x.preload.map f48OfF32
  let i0 := pre.getD x.i
  let (lo, hi) := rateWindow g h up
  let out : LawOut :=
    if manual then
      let m := f48OfQ16 (slotReg q 8 s)
      ⟨i0, x.d, x.xp, x.w, x.e, (m.max lo).min hi, limOf m lo hi⟩
    else if safe then ⟨i0, x.d, x.xp, x.w, x.e, (g.safe.max lo).min hi, limOf g.safe lo hi⟩
    else if hold then ⟨i0, x.d, x.xp, x.w, x.e, up, getW LPA.SL_STAT_LIM p k s⟩
    else pidLaw {
      g := g, h := h
      y := f48OfQ16 inp.y
      r := f48OfQ16 (if inp.rBad && decide (rpol = 0) then rFit else inp.r)
      v := f48OfQ16 vFit
      dir := decide (bitsOf w2 0 0 = 1)
      dsrc := decide (bitsOf w2 1 1 = 1)
      resume := resume
      transfer := (x.swapped || changed) && decide (bitsOf ctrl 2 2 = 1)
      preload := pre
      i := x.i, d := x.d, xp := x.xp, up := up }
  let (code, sat) := out.u.toQ16
  let lim := if sat then (if code < 0 then 2 else 1) else out.lim
  let incond := b2n inp.sBad * 8 + b2n inp.vBad * 4 + b2n inp.rBad * 2 + b2n inp.yBad
  let s := setF LPA.SL_STAT_LIM p k lim (setF LPA.SL_STAT_INCOND p k incond s)
  putSlot q { x with
    i := out.i, d := out.d, xp := out.xp, w := out.w, e := out.e, up := out.u
    region := region, resume := manual || safe || hold
    swapped := false, regInit := false, preload := none
    rFit := rFit, vFit := vFit
    out := some (ofI code) } s

/-! ### The pass -/

/-- Verification of the records that a slot reads, at the snapshot (R175). -/
def verifySlot (q : Nat) (s : State) : State :=
  let c := lpaInForce s
  if running (lpaPage q) s && decide (c.mode q ≠ 0) then
    let s := verifySrc (bitsOf (c.cfg q 0) 31 16) s
    let s := verifySrc (bitsOf (c.cfg q 0) 15 0) s
    let s := verifySrc (bitsOf (c.cfg q 1) 31 16) s
    if c.nreg q = 0 then s else verifySrc (bitsOf (c.cfg q 1) 15 0) s
  else s

/-- Corrections of one slot in this tick. -/
def slotCorrections (l : List (Fin 64 × Nat)) (q : Nat) : Nat :=
  l.foldl (fun a e => if e.1.val = q then a + e.2 else a) 0

/-- Computes the due slots in ascending order while the budget of 10 768 cycles lasts (R170 to R173). -/
def runSlots (corr : List (Fin 64 × Nat)) : List Nat → Nat → State → State
  | [], used, s => { s with lpa := { s.lpa with used := Nat.min used 10768 } }
  | q :: qs, used, s =>
    let used := used + (lpaInForce s).cost q + 4 * slotCorrections corr q
    runSlots corr qs used (if used ≤ 10768 then executeSlot q s else s)

/-- LOOP_ARRAY_PASS (R170). -/
def loopArrayPass (corr : List (Fin 64 × Nat)) (s : State) : State :=
  let s := atPhase 2 0 s
  let s := forN 64 verifySlot s
  let due := (List.range 64).filter (slotDue s)
  let s := forN 64 (fun q a => if (lpaSlot a q).out.isSome then putSlot q { lpaSlot a q with out := none } a else a) s
  runSlots corr due 0 { s with lpa := { s.lpa with due := due } }

/-- One slot at the end of phase 28 (R173, R53, R49). -/
def publishSlot (q : Nat) (s : State) : State :=
  let p := lpaPage q
  let k := q % 32
  if s.lpa.due.contains q then
    match (lpaSlot s q).out with
    | some u => setB LPA.SL_STAT_LATE p k false (publish (slotSrc q) u s)
    | none => setB LPA.SL_STAT_LATE p k true (stalePub (slotSrc q) s)
  else
    let ctrl := rdForce s (slCtrlAddr q)
    if (!running p s || decide (bitsOf ctrl 1 0 = 0)) && decide (s.time.tick % 2 ^ bitsOf ctrl 5 3 = bitsOf ctrl 11 6) then
      stalePub (slotSrc q) s
    else s

/-- LOOP_DEADLINE: the end of phase 28 (R173). -/
def loopDeadline (s : State) : State :=
  let s := atPhase 28 399 s
  let s := forN 64 publishSlot s
  forN 2 (fun k a =>
    let mine := s.lpa.due.filter fun q => decide (q / 32 = k)
    dueInstant (0x18 + k) (decide (mine ≠ [])) (mine.filter fun q => (lpaSlot s q).out.isNone) a) s

/-! ### Boundaries -/

/-- Whether a slot drives a destination: its page runs, MODE ≠ 0 and DEST ≠ 0; with its DEST and OWNER. -/
def slotDrives (s : State) (q : Nat) : Option (Nat × Nat) :=
  let w := rdForce s (slCtrlAddr q)
  if running (lpaPage q) s && decide (bitsOf w 1 0 ≠ 0 ∧ bitsOf w 23 16 ≠ 0) then some (bitsOf w 23 16, bitsOf w 31 27) else none

/-- One slot at a boundary (R182, R195). -/
def slotBoundary (o : State) (q : Nat) (s : State) : State :=
  let was := slotDrives o q
  let now := slotDrives s q
  let s := match was with
    | some (d, _) =>
      if now = was then s
      else putSlot q { lpaSlot s q with track := false } { s with lpa := { s.lpa with released := s.lpa.released ++ [d] } }
    | none => s
  let mode (a : State) : Nat := bitsOf (rdForce a (slCtrlAddr q)) 1 0
  let started := running (lpaPage q) s && !running (lpaPage q) o
  if started || (decide (mode o = 0) && decide (mode s ≠ 0)) then putSlot q { lpaSlot s q with resume := true } s else s

/-- The loop array at a boundary: LOAD and LOADMAX take the ended tick (R173), released destinations are noted. -/
def lpaBoundary (o s : State) : State :=
  let s := forN 64 (slotBoundary o) s
  let used := s.lpa.used
  let max := if s.lpa.clr then 0 else Nat.max used (getW LPA.LOADMAX_MAX 0x18 0 s)
  let s := forN 2 (fun k a => setF LPA.LOADMAX_MAX (0x18 + k) 0 max (setF LPA.LOAD_LAST (0x18 + k) 0 used a)) s
  { s with lpa := { s.lpa with used := 0, clr := false, due := [] } }

/-- SOFT_RST of an LPA page (R197). -/
def lpaSoftRst (p : Nat) (s : State) : State :=
  forN 32 (fun k a =>
    let q := (p - 0x18) * 32 + k
    putSlot q { lpaSlot a q with
      i := F48.zero, d := F48.zero, xp := F48.zero, region := 0, resume := true, regInit := true } a) s

end Sys2Proof.Machine
end

