-- ==== Sys2Proof/Machine/MoiCore.lean ====
section
/-!
DEFINITION. The moisture analyser at work (chapter 5): periods and sweeps, PLL unlock, readings, the evaluator, fouling and
cell episodes, calibration and publication.
-/
namespace Sys2Proof.Machine

/-! ### Periods and sweeps -/

/-- Starts a period at a boundary with the settings in force there (R144, R145, R158). -/
def startPeriod (m start : Nat) (s : State) : State :=
  let cfg := (List.range 5).map fun k => rdForce s (pageAddr moiPg (0x100 + 0x20 * m + 4 * k))
  let get (area i : Nat) : Word := getAct moiPg area i s
  let c := moiCh s m
  let p : MoiPeriod := {
    start := start, len := bitsOf (nthW cfg 0) 29 16, cfg := cfg
    prog := areaWords get 1 (m * 32) 32
    cal := areaWords get 2 (m * 32) 32
    tbl := areaWords get 0 (bitsOf (nthW cfg 0) 12 8 * 32) 32 }
  let s := if c.calNew && c.foulEp then endEp moiPg kMoiCellFouled m s else s
  let calHere := match s.moi.cal with
    | some k => decide (k.ch = m ∧ k.sweeps.length < k.navg)
    | none => false
  let s := match s.moi.cal with
    | some k => if calHere then { s with moi := { s.moi with cal := some { k with begun := true } } } else s
    | none => s
  putMoi m { c with
    per := some p, sweep := true, done := false, shift := 0, reps := 0, pts := []
    clamped := decide (tabGet (fun _ => 0) s.moi.clamp (m / 4) ≠ 0)
    calPer := calHere, calNew := false
    foulEp := c.foulEp && !c.calNew
    foulCnt := if c.calNew && c.foulEp then 0 else c.foulCnt
    result := none, lost := false } s

/-- Whether the present tick is the last of a channel's period. -/
def lastTick (s : State) (c : MoiCh) : Bool :=
  match c.per with
  | some p => decide (s.time.ticks + 1 = p.start + p.len)
  | none => false

/-- π as a rational, to 50 digits. -/
def piNum : Int := 31415926535897932384626433832795028841971693993751

/-- The denominator of `piNum`. -/
def piDen : Nat := 10 ^ 49

/-- A capacitance in Q16.16 pF: an amplitude in pA over drive amplitude and angular frequency (R149), rounded once. -/
def capQ16 (pa : Int) (amp freq : Nat) : Int :=
  (sat32 (divAway (pa * 8 * 65536 * piDen) ((2 ^ amp) * 2 * piNum * (freq * 1000)).toNat)).1

/-- The readings of the active points: point, C, L and whether the drive current reached its limit. -/
def readPoints (prog : List Word) : List Nat → List CellPoint → List (Nat × Int × Int × Bool)
  | q :: qs, x :: xs =>
    let amp := bitsOf (nthW prog (2 * q)) 17 16
    (q, capQ16 x.q amp (pointFreq prog q), capQ16 x.i amp (pointFreq prog q), x.limit) :: readPoints prog qs xs
  | _, _ => []

/-- The open condition of a reading (R150). -/
def ptOpen (r : Nat × Int × Int × Bool) : Bool := decide (r.2.1 < 5 * 65536)

/-- The over condition of a reading (R150). -/
def ptOver (r : Nat × Int × Int × Bool) : Bool :=
  r.2.2.2 || decide (500 * 65536 < r.2.1 ∨ 500 * 65536 < r.2.2.1)

/-- What area 3 shows of a sweep (R149). -/
def shownReads (pts : List (Nat × Int × Int × Bool)) : Tab (Word × Word) :=
  pts.foldl (fun t r =>
    tabSet (fun _ => ((0x80000000 : Word), (0x80000000 : Word))) t r.1
      (if ptOpen r || ptOver r then (0x80000000, 0x80000000) else (ofI r.2.1, ofI r.2.2.1))) []

/-- MOI_SWEEP_COMPLETE (R143): the sweep in progress completes, unless the PLL lost lock before its last point was done or
a reading is missing. -/
def sweepComplete (m : Nat) (points : List CellPoint) (s : State) : State :=
  let c := moiCh s m
  match c.per with
  | none => s
  | some p =>
    let len := sweepLen p.prog + c.shift
    let stuck := match s.moi.unlock with
      | some u => decide (u < p.start * 125 + len)
      | none => false
    if c.sweep && !stuck && decide (points.length = (activePoints p.prog).length) then
      let pts := readPoints p.prog (activePoints p.prog) points
      let s := putMoi m { c with sweep := false, done := true, pts := pts, reads := shownReads pts } s
      setF MOI.CH_STAT_LAST_LEN moiPg m (satN 0xFFFF len) (setF MOI.CH_STAT_REPEATS moiPg m (satN 15 c.reps) s)
    else s

/-- A late sweep of a calibration of channel `m` ends the calibration (R153). -/
def calLate (m : Nat) (s : State) : State :=
  match s.moi.cal with
  | some k => if k.ch = m ∧ k.begun = true then endCal 5 s else s
  | none => s

/-- A sweep that misses its deadline: cut off, and a calibration of the channel ends (R146, R153). -/
def cutOff (m : Nat) (s : State) : State :=
  let c := moiCh s m
  if lastTick s c && c.sweep then
    calLate m (setF MOI.CH_STAT_REPEATS moiPg m (satN 15 c.reps) (putMoi m { c with sweep := false, done := false, pts := [] } s))
  else s

/-- MOI_SWEEP_DEADLINE: the end of phase 99 (R146). -/
def sweepDeadline (s : State) : State := forN 8 cutOff (atPhase 99 399 s)

/-! ### Unlock -/

/-- MOI_PLL_UNLOCK (R148). -/
def pllUnlock (s : State) : State :=
  if s.moi.unlock.isSome then s
  else
    let s := { s with moi := { s.moi with unlock := some (usNow s) } }
    let s := setB MOI.STAT_PLL_LOCK moiPg 0 false (setB MOI.PLL_STAT_LOCK moiPg 0 false s)
    raise moiPg 0x03 kMoiPllUnlock 0 (setIrq moiPg 19 (incSat MOI.PLL_STAT_UNLOCK_CNT moiPg 0 s))

/-- The point that an ended unlock episode overlaps is repeated from the start of its SETTLE (R148). -/
def repeatPoint (u m : Nat) (s : State) : State :=
  let c := moiCh s m
  match c.per with
  | none => s
  | some p =>
    let first := p.start * 125 + 5 + c.shift
    let t0 := Nat.max u first
    if c.sweep && decide (first < usNow s) then
      match pointAt p.prog (t0 - first) (activePoints p.prog) 0 with
      | none => s
      | some (_, b) =>
        setF MOI.CH_STAT_REPEATS moiPg m (satN 15 (c.reps + 1))
          (putMoi m { c with shift := c.shift + (usNow s - (first + b)), reps := c.reps + 1 } s)
    else s

/-- MOI_PLL_RELOCK: lock has held for 20 µs (R148). -/
def pllRelock (s : State) : State :=
  let s := setB MOI.STAT_PLL_LOCK moiPg 0 true (setB MOI.PLL_STAT_LOCK moiPg 0 true s)
  match s.moi.unlock with
  | none => s
  | some u =>
    let s := forN 8 (repeatPoint u) s
    endEp moiPg kMoiPllUnlock 0 { s with moi := { s.moi with unlock := none } }

/-! ### Clamps -/

/-- MOI_CLAMP_DETECT (R141): pin 3n is MDRV, 3n + 1 MSNS, 3n + 2 MGRD of the bank's channel n. -/
def moiClampDetect (b pin : Nat) (s : State) : State :=
  let was := tabGet (fun _ => 0) s.moi.clamp b
  let s := { s with moi := { s.moi with clamp := tabSet (fun _ => 0) s.moi.clamp b (s.time.ticks + 1) } }
  let s := noteBit (fldAddr MOI.BK_STAT_PIN moiPg b) (16 + pin)
    (setF MOI.BK_STAT_PIN moiPg b (putBit (getW MOI.BK_STAT_PIN moiPg b s) pin true) s)
  let s := forN 4 (fun n a =>
    let c := moiCh a (4 * b + n)
    if c.sweep then putMoi (4 * b + n) { c with clamped := true } a else a) s
  if was ≠ 0 then s
  else
    let s := setB MOI.BK_STAT_CLAMP moiPg b true (setSeen MOI.BK_STAT_CLAMP_SEEN moiPg b s)
    raise moiPg 0x06 kMoiClamp b (setIrq moiPg 20 s)

/-- The end of a clamp episode at a boundary: the tick that ended was a complete frame without detection (R95, R141). -/
def moiClampBoundary (ended b : Nat) (s : State) : State :=
  let t := tabGet (fun _ => 0) s.moi.clamp b
  if t ≠ 0 ∧ t ≤ ended then
    let s := { s with moi := { s.moi with clamp := tabSet (fun _ => 0) s.moi.clamp b 0 } }
    endEp moiPg kMoiClamp b (setB MOI.BK_STAT_CLAMP moiPg b false s)
  else s

/-! ### The evaluator -/

/-- What the evaluator computes of one sweep: MOIST, DENS, EPSR, EPSI, XVAL, TUSED and the bits EMPTY, RANGE, DENSITY. -/
structure MoiEval where
  words : List Word
  empty : Bool
  range : Bool
  density : Bool
  deriving DecidableEq, Repr

/-- A value as a record word (R155). -/
def q16Word (x : F48) : Word := ofI x.toQ16.1

/-- The nearest multiple of 0.01, ties away from 0 (R155). -/
def round100 (m : F48) : F48 :=
  let k := if 0 ≤ m.e then m.m * 2 ^ m.e.toNat * 100 else divAway (m.m * 100) (2 ^ (-m.e).toNat)
  f48OfRat k 100 0

/-- The pseudocode of R154 in the floating format, in the order written. -/
def evalMoist (p : MoiPeriod) (cs ls ces les : Int) (cell : Bool) (t : F48) : MoiEval :=
  let w (i : Nat) : Word := nthW p.tbl i
  let one := f48OfInt 1
  let q (v : Int) : F48 := f48OfRat v 1 (-16)
  let ca := f48OfRat ((nthW p.cfg 4).toNat : Int) 1 (-16)
  let epsr := one.add (((q cs).sub (q ces)).div ca)
  let epsi := ((q ls).sub (q les)).div ca
  let e1 := epsr.sub one
  let th := f48OfRat (bitsOf (nthW p.cfg 2) 7 0 : Nat) 100 0
  if cell then ⟨[0, 0, q16Word epsr, q16Word epsi, 0, q16Word t], false, false, false⟩
  else if e1.lt th then ⟨[0, 0, q16Word epsr, q16Word epsi, 0, q16Word t], true, false, false⟩
  else
    let x := epsi.div e1
    let xc := (x.max (f48OfQ16 (w 12))).min (f48OfQ16 (w 13))
    let tc := (t.max (f48OfQ16 (w 10))).min (f48OfQ16 (w 11))
    let moved (a b : F48) : Bool := a.lt b || b.lt a
    let range := moved xc x || moved tc t
    let dt := tc.sub (f48OfQ16 (w 9))
    let a (i : Nat) : F48 := coefNum (w (3 + i))
    let poly := ((((((a 3).mul xc).add (a 2)).mul xc).add (a 1)).mul xc).add (a 0)
    let m := (poly.add (((coefNum (w 7)).add ((coefNum (w 8)).mul xc)).mul dt)).add (f48OfQ16 (nthW p.cfg 3))
    let m := round100 m
    let low := m.lt (f48OfInt 8)
    let high := (f48OfInt 40).lt m
    let m := if low then f48OfInt 8 else if high then f48OfInt 40 else m
    let den := (coefNum (w 14)).add ((coefNum (w 15)).mul m)
    let bad := den.le F48.zero
    let dens := if bad then F48.zero else e1.div den
    let out := dens.lt (f48OfQ16 (w 16)) || (f48OfQ16 (w 17)).lt dens
    ⟨[q16Word m, q16Word dens, q16Word epsr, q16Word epsi, q16Word x, q16Word tc], false, range || low || high, bad || out⟩

/-- A difference of capacitances in 0.01 pF, as CHm_FOUL shows it. -/
def foulShow (d : Int) : Nat := (clampI (-32768) 32767 (divAway (d * 100) 65536) % 65536).toNat

/-- The fouling check of an empty result (R165). -/
def foulCheck (m : Nat) (dc dl : Int) (s : State) : State :=
  let c := moiCh s m
  match c.per with
  | none => s
  | some p =>
    let diag := nthW p.cfg 2
    let fouled := decide ((bitsOf diag 15 8 : Int) * 65536 < dc * 10 ∨ (bitsOf diag 23 16 : Int) * 65536 < dl * 10)
    let cnt := if fouled then c.foulCnt + 1 else 0
    let begins := fouled && !c.foulEp && decide (bitsOf diag 31 24 ≤ cnt)
    let s := setF MOI.CH_FOUL_DL moiPg m (foulShow dl) (setF MOI.CH_FOUL_DC moiPg m (foulShow dc) s)
    let s := putMoi m { c with foulCnt := cnt, foulEp := fouled && (c.foulEp || begins) } s
    if begins then raise moiPg 0xFF kMoiCellFouled m (setIrq moiPg 18 s)
    else if c.foulEp && !fouled then endEp moiPg kMoiCellFouled m s
    else s

/-- The open and over episodes of a result (R166); the instance is the checker that reported the condition (R349). -/
def cellEpisodes (m : Nat) (opens overs : Bool) (inst : Nat) (s : State) : State :=
  let c := moiCh s m
  let s := putMoi m { c with openEp := opens, overEp := overs } s
  let s := if (opens && !c.openEp) || (overs && !c.overEp) then setIrq moiPg 17 s else s
  let s := setEp opens moiPg 0x04 kMoiCellOpen m s
  setEp overs moiPg inst kMoiCellOver m s

/-- MOI_EVALUATE of one channel (R154 to R156, R165, R166). -/
def evaluateCh (m : Nat) (s : State) : State :=
  let c := moiCh s m
  match c.per with
  | none => s
  | some p =>
    if lastTick s c && c.done && c.result.isNone then
      let pointOf (k : Nat) : Nat :=
        ((activePoints p.prog).find? fun q => decide (pointFreq p.prog q = (nthW p.tbl k).toNat)).getD 0
      let sp := pointOf 1
      let lp := pointOf 2
      let rd (q : Nat) : Nat × Int × Int × Bool := (c.pts.find? fun r => decide (r.1 = q)).getD (q, 0, 0, false)
      let rs := rd sp
      let rl := rd lp
      let opens := ptOpen rs || ptOpen rl
      let overs := ptOver rs || ptOver rl
      let ces := (nthW p.cal (2 * sp)).toInt
      let les := (nthW p.cal (2 * lp + 1)).toInt
      let tmp := nthW p.cfg 1
      let loc := bitsOf tmp 21 16 * 16 + bitsOf tmp 31 28
      let ext := decide (bitsOf tmp 13 12 = 1)
      let ok := recOk s loc
      let t := if ext && ok then f48OfQ16 (snsRec s loc).value else f48OfQ16 (nthW p.tbl 9)
      let temp := ext && (!ok || decide ((snsRec s loc).status &&& 0xBB ≠ 0))
      let s := if ext then verifyRec loc s else s
      let cell := opens || overs || c.clamped
      let e := evalMoist p rs.2.1 rl.2.2.1 ces les cell t
      let s := cellEpisodes m opens overs
        (if 500 * 65536 < rs.2.1 ∨ 500 * 65536 < rs.2.2.1 ∨ 500 * 65536 < rl.2.1 ∨ 500 * 65536 < rl.2.2.1 then 0x04 else 0x05) s
      let dc := rs.2.1 - ces
      let dl := rl.2.2.1 - les
      let s := if e.empty then foulCheck m dc dl s else s
      let s := setB MOI.CH_STAT_EMPTY moiPg m e.empty s
      let c := moiCh s m
      let status := b2n e.empty * 64 + b2n e.range * 32 + b2n e.density * 16 + b2n cell * 8 + b2n c.calPer * 4
        + b2n c.foulEp * 2 + b2n temp
      putMoi m { c with result := some ⟨e.words, status, none, 0, false⟩ } s
    else s

/-- MOI_EVALUATE: the temperature input is read at the first cycle of phase 100 (R145). -/
def moiEvaluate (s : State) : State := forN 8 evaluateCh (atPhase 100 0 s)

/-! ### Publication -/

/-- Whether a channel's period ends at the boundary just passed. -/
def periodEnded (s : State) (m : Nat) : Bool :=
  match (moiCh s m).per with
  | some p => decide (p.start + p.len = s.time.ticks)
  | none => false

/-- Whether a channel runs. -/
def moiOn (m : Nat) (s : State) : Bool := running moiPg s && getB MOI.CH_CFG_EN moiPg m s

/-- A sweep of a running calibration is counted (R152). -/
def calSweep (m : Nat) (s : State) : State :=
  let c := moiCh s m
  match s.moi.cal with
  | some k =>
    if k.ch = m ∧ k.begun = true ∧ k.sweeps.length < k.navg then
      let s := { s with moi := { s.moi with cal := some { k with sweeps := k.sweeps ++ [c.pts] } } }
      setF MOI.CAL_STAT_DONE_CNT moiPg 0 (k.sweeps.length + 1) s
    else s
  | none => s

/-- A calibration of a channel that has stopped ends aborted, unless its last period was complete (R152, R153). -/
def calStopped (m : Nat) (s : State) : State :=
  match s.moi.cal with
  | some k => if k.ch = m ∧ (k.sweeps.length < k.navg ∨ k.sweeps = []) then endCal 4 s else s
  | none => s

/-- One ended period: the record is published, or goes stale; the next period starts (R145, R146). -/
def endPeriod (m : Nat) (s : State) : State :=
  let c := moiCh s m
  let s := match c.result, c.lost with
    | some r, false =>
      let r := { r with tick := some s.time.tick }
      calSweep m (putMoi m { c with recd := { r with crc := moiCrc m r (s.time.tick % 65536) }, miss := [] } s)
    | _, _ => calLate m (staleMoi m s)
  if moiOn m s then startPeriod m s.time.ticks s
  else calStopped m (putMoi m { moiCh s m with per := none, sweep := false, done := false, result := none } s)

/-- The due instant of an abandoned period makes the record stale (R147). -/
def missDue (m : Nat) (s : State) : State :=
  let c := moiCh s m
  if c.miss.any fun t => decide (t ≤ s.time.ticks) then
    staleMoi m (putMoi m { c with miss := c.miss.filter fun t => decide (s.time.ticks < t) } s)
  else s

/-- A channel whose period is abandoned: nothing is published, and its due instant is missed (R147). -/
def abandon (c : MoiCh) : MoiCh :=
  { c with per := none, sweep := false, done := false, pts := [], result := none
           miss := match c.per with
             | some p => c.miss ++ [p.start + p.len]
             | none => c.miss }

/-- MOI_PERIOD_END (R145): publication at the boundary just passed, lateness, and the next period starts. The pages late
are shown by the late maps of this boundary. -/
def moiPeriodEnd (s : State) : State :=
  let ends := (List.range 8).filter (periodEnded s)
  let late := ends.filter fun m => (moiCh s m).result.isNone || (moiCh s m).lost
  let s := ends.foldl (fun a m => endPeriod m a) s
  dueBoundary moiPg (decide (ends ≠ [])) late s

/-- CAL_END (R152): the checks of the sweeps, and the mean pairs into the shadow copy. -/
def calFinish (s : State) : State :=
  match s.moi.cal with
  | none => s
  | some k =>
    if k.sweeps.length < k.navg ∨ k.sweeps = [] then s
    else
      let all := k.sweeps.flatMap id
      let qs := (List.range 16).filter fun q => all.any fun r => r.1 = q
      let of (q : Nat) : List (Nat × Int × Int × Bool) := all.filter fun r => r.1 = q
      let spread (f : (Nat × Int × Int × Bool) → Int) (q : Nat) : Int :=
        match of q with
        | [] => 0
        | r :: rs => rs.foldl (fun a x => max a (f x)) (f r) - rs.foldl (fun a x => min a (f x)) (f r)
      let tol : Int := getF MOI.CAL_TOL_TOL moiPg 0 s * 65536
      let fC (r : Nat × Int × Int × Bool) : Int := r.2.1
      let fL (r : Nat × Int × Int × Bool) : Int := r.2.2.1
      if all.any fun r => ptOpen r || ptOver r then endCal 2 s
      else if qs.any fun q => decide (tol < spread fC q * 100 ∨ tol < spread fL q * 100) then endCal 3 s
      else
        let mean (f : (Nat × Int × Int × Bool) → Int) (q : Nat) : Word :=
          ofI (divAway ((of q).foldl (fun a r => a + f r) 0) (of q).length)
        let s := qs.foldl (fun a q =>
          setShd moiPg 2 (k.ch * 32 + 2 * q + 1) (mean fL q) (setShd moiPg 2 (k.ch * 32 + 2 * q) (mean fC q) a)) s
        endCal 1 s

/-! ### Boundaries -/

/-- One channel at a boundary: enabling starts a period, disabling or stopping abandons it (R144, R147, R153). A period that ends at the
boundary is left to MOI_PERIOD_END, which publishes before it stops. -/
def moiChBoundary (o : State) (m : Nat) (s : State) : State :=
  let c := moiCh s m
  if moiOn m s then
    if c.per.isNone then startPeriod m s.time.ticks s else s
  else
    match c.per with
    | none => calStopped m s
    | some p =>
      if p.start + p.len = s.time.ticks ∧ moiOn m o = true then s
      else calStopped m (putMoi m (abandon c) s)

/-- The analyser at a boundary. -/
def moiBoundary (o s : State) : State :=
  forN 8 missDue (forN 8 (moiChBoundary o) (forN 2 (moiClampBoundary o.time.ticks) s))

/-- The SENSE domain loses its power: every record goes stale at the due instant of the period that the loss cuts off (R49, R485). -/
def moiPowerOff (s : State) : State := forN 8 (fun m a => putMoi m (abandon (moiCh a m)) a) s

/-- SOFT_RST (R167): periods and calibrations are abandoned, episodes and latches cleared. The lock bits follow the PLL. -/
def moiSoftRst (s : State) : State :=
  let s := endEp moiPg kMoiPllUnlock 0 { endCal 4 s with moi := { (endCal 4 s).moi with unlock := none } }
  let s := forN 8 (fun m a =>
    let c := moiCh a m
    let a := putMoi m { abandon c with foulCnt := 0, foulEp := false, openEp := false, overEp := false } a
    endEp moiPg kMoiCellOpen m (endEp moiPg kMoiCellOver m (endEp moiPg kMoiCellFouled m a))) s
  forN 2 (fun b a =>
    let a := { a with moi := { a.moi with clamp := tabSet (fun _ => 0) a.moi.clamp b 0 } }
    let a := setF MOI.BK_STAT_PIN moiPg b 0 (setB MOI.BK_STAT_CLAMP_SEEN moiPg b false a)
    endEp moiPg kMoiClamp b (setB MOI.BK_STAT_CLAMP moiPg b false a)) s

end Sys2Proof.Machine
end

