-- ==== Sys2Proof/Machine/PrfPort.lean ====
section
/-!
DEFINITION. The profile generators' registers (chapter 7): the window, what the registers read, and the checks of writes.
-/
namespace Sys2Proof.Machine

/-- Page index of PRF. -/
def prfPg : Nat := 0x1A

/-- A generator's state. -/
def prfGen (s : State) (g : Nat) : PrfGen := tabGet (fun _ => PrfGen.idle) s.prf g

/-- Puts a generator's state. -/
def putGen (g : Nat) (v : PrfGen) (s : State) : State :=
  { s with prf := tabSet (fun _ => PrfGen.idle) s.prf g v }

/-- Source word of a generator's output: 0 position, 1 velocity (R174). -/
def prfSrc (k g : Nat) : Nat := 3 * 4096 + 32 * k + g

/-- A parameter word in force. -/
def prfParam (g w : Nat) (s : State) : Word := getAct prfPg 0 (g * 8 + w) s

/-- A number of the internal format as a Q16.16 word. -/
def f48Word (x : F48) : Word := ofI x.toQ16.1

/-- A state word of area 1 (R219). -/
def genWord (x : PrfGen) (w : Nat) : Word :=
  if w = 0 then f48Word x.p else if w = 1 then f48Word x.v else if w = 2 then f48Word x.a
  else if w = 3 then f48Word x.t else 0

/-- Whether a parameter word is refused (R201, R219). -/
def paramBad (g w : Nat) (v : Word) (s : State) : Bool :=
  if w = 0 then !(srcValid (bitsOf v 31 16) none true) || decide (bitsOf v 31 28 = 3 ∨ bitsOf v 31 28 = 8)
  else if w = 1 ∨ w = 2 ∨ w = 3 then !f32Finite v || decide (f32Int v ≤ 0)
  else if w = 4 then decide ((getShd prfPg 0 (g * 8 + 5) s).toInt ≤ v.toInt)
  else if w = 5 then decide (v.toInt ≤ (getShd prfPg 0 (g * 8 + 4) s).toInt)
  else if w = 6 then false
  else decide (v ≠ 0)

/-- A write of WIN_DATA: parameter words take effect at the next boundary (R219). -/
def prfWinWrite (cx : WriteCx) (s : State) : WrOut :=
  let w := getW PRF.WIN_ADDR_WORD prfPg 0 s
  if decide (getW PRF.WIN_ADDR_AREA prfPg 0 s = 1) || !unitOwns prfPg (w / 8) cx.party s || paramBad (w / 8) (w % 8) cx.data s
  then .refuse
  else
    let changed := decide (getShd prfPg 0 w s ≠ cx.data)
    let s := setShd prfPg 0 w cx.data s
    .ok (if changed then bumpWriteGen prfPg s else s)

/-- What WIN_DATA reads: parameters as last written, or state. -/
def prfWinRead (s : State) : Word :=
  let w := getW PRF.WIN_ADDR_WORD prfPg 0 s
  if getW PRF.WIN_ADDR_AREA prfPg 0 s = 1 then genWord (prfGen s (w / 8)) (w % 8) else getShd prfPg 0 w s

/-- Advances WORD after an access to WIN_DATA with AINC = 1, wrapping within the area (R504). -/
def prfWinAdvance (s : State) : State :=
  if getB PRF.WIN_ADDR_AINC prfPg 0 s then
    setF PRF.WIN_ADDR_WORD prfPg 0 ((getW PRF.WIN_ADDR_WORD prfPg 0 s + 1) % 256) s
  else s

/-- The checks of a write to the PRF page's block registers. -/
def prfWrite (cx : WriteCx) (s : State) : WrOut :=
  if cx.off < 0x300 ∧ cx.off % 0x10 = 0 then
    storeUnless (cxOutside cx 1 0 0 2 || (cxHas cx 27 && decide (4 ≤ cxBits cx 31 27 ∧ cxBits cx 31 27 < 16))) cx s
  else if cx.off = 0x300 then storeUnless (cxOutside cx 14 12 0 1 || cxOutside cx 11 0 0 255) cx s
  else if cx.off = 0x304 then prfWinWrite cx s
  else .ok (storeFields cx s)

/-- What the PRF page's registers read where they show computed state. -/
def prfRead (off : Nat) (s : State) : Option Word :=
  let g := (off - 0x100) / 0x10
  if 0x100 ≤ off ∧ off < 0x300 ∧ off % 0x10 = 8 then some (getPub (prfSrc 0 g) s).value
  else if 0x100 ≤ off ∧ off < 0x300 ∧ off % 0x10 = 0xC then
    some (setBits (setBits (rdReg s (pageAddr prfPg off)) 31 31 (b2n (getPub (prfSrc 0 g) s).stale)) 25 25
      (b2n (prfGen s g).unfitEp))
  else if off = 0x304 then some (prfWinRead s)
  else none

/-- Whether the outputs of a generator with MODE ≠ 0 are stale (R49). -/
def prfStale (s : State) : Bool :=
  (List.range 32).any fun g => decide (getF PRF.PG_CTRL_MODE prfPg g s ≠ 0) && (getPub (prfSrc 0 g) s).stale

end Sys2Proof.Machine
end

