-- ==== Sys2Proof/Machine/PrfCore.lean ====
section
/-!
DEFINITION. The profile generators at work (chapter 7): target, step, snaps and clamps, publication.
-/
namespace Sys2Proof.Machine

/-! ### The step -/

/-- Magnitude. -/
def F48.abs (a : F48) : F48 := ⟨a.m.natAbs, a.e⟩

/-- A value with the sign of another; sign(0) is 0 (R203). -/
def F48.signed (s a : F48) : F48 := if s.m < 0 then a.neg else if s.m = 0 then F48.zero else a

/-- The step time of 125 µs in s. -/
def tickH : F48 := f48OfRat 1 8000 0

/-- vlim of R203. -/
def vlim (amax jmax x : F48) : F48 :=
  let two := f48OfInt 2
  let a2 := amax.mul amax
  let a3 := a2.mul amax
  let j2 := jmax.mul jmax
  if x.le (a3.div j2) then (jmax.mul (x.mul x)).cbrt
  else
    (((a3.mul amax).div ((f48OfInt 4).mul j2)).add ((two.mul amax).mul x)).sqrt.sub (a2.div (two.mul jmax))

/-- A new motion state, with REV. -/
structure Motion where
  p : F48
  v : F48
  a : F48
  rev : Bool

/-- R203 after the target is clamped: MODE 1 runs toward `t`, MODE 2 brings the generator to rest. -/
def motionStep (run : Bool) (vmax amax jmax p v a t : F48) : Motion :=
  let two := f48OfInt 2
  let e := t.sub p
  let rev := run && decide (v.m ≠ 0) && (e.mul v).lt F48.zero
  let ar :=
    if rev then (F48.signed v amax).neg
    else
      let vr := if run then F48.signed e (vmax.min (vlim amax jmax e.abs)) else F48.zero
      let dv := vr.sub v
      F48.signed dv (amax.min ((two.mul jmax).mul dv.abs).sqrt)
  let jh := jmax.mul tickH
  let a' := a.add (((ar.sub a).max jh.neg).min jh)
  let v' := v.add (((a.add a').mul tickH).div two)
  let p' := (p.add (v.mul tickH)).add ((((two.mul a).add a').mul (tickH.mul tickH)).div (f48OfInt 6))
  ⟨p', v', a', rev⟩

/-- 2^−16. -/
def oneCode : F48 := f48OfRat 1 1 (-16)

/-- The snaps of R205. -/
def motionSnap (run : Bool) (jmax t : F48) (m : Motion) : Motion :=
  if run && (t.sub m.p).abs.lt oneCode && m.v.abs.lt oneCode then { m with p := t, v := F48.zero, a := F48.zero }
  else if !run && m.v.abs.lt oneCode && m.a.abs.le (jmax.mul tickH) then { m with v := F48.zero, a := F48.zero }
  else m

/-- One step of a generator (R201 to R207). PGg_TGT is read without the writes of the step's own cycle, as R43 has it of the snapshot. -/
def stepGen (g : Nat) (s : State) : State :=
  let w0 := prfParam g 0 s
  let src := bitsOf w0 31 16
  let s := verifySrc src s
  let rd := if src / 4096 = 0 then (⟨wordBefore (pageAddr prfPg (0x104 + 0x10 * g)) (rdReg s (pageAddr prfPg (0x104 + 0x10 * g))) s, 0, false, 0, true⟩ : SrcRead)
    else readSrc src s
  let unfit := srcUnfit src (bitsOf w0 15 0) 0x80 rd
  let x := prfGen s g
  let s := if unfit && !x.unfitEp then raise prfPg 0xFF kPrfTargetUnfit g (setIrq prfPg 16 s)
    else if !unfit && x.unfitEp then endEp prfPg kPrfTargetUnfit g s else s
  let fit := if unfit then x.fit else some rd.value
  let q (w : Nat) : F48 := f48OfQ16 (prfParam g w s)
  let f (w : Nat) : F48 := f48OfF32 (prfParam g w s)
  let use := match fit with
    | some t => f48OfQ16 t
    | none => q 6
  let t := (use.max (q 4)).min (q 5)
  let tclamp := t.lt use || use.lt t
  let run := decide (getF PRF.PG_CTRL_MODE prfPg g s = 1)
  let p0 := if x.init then (if getB PRF.PG_CTRL_INITSEL prfPg g s then t else q 6) else x.p
  let v0 := if x.init then F48.zero else x.v
  let a0 := if x.init then F48.zero else x.a
  let m := motionStep run (f 1) (f 2) (f 3) p0 v0 a0 t
  let inside := (q 4).le p0 && p0.le (q 5)
  let low := inside && m.p.lt (q 4)
  let high := inside && (q 5).lt m.p
  let m := if low then { m with p := q 4, v := F48.zero, a := F48.zero }
    else if high then { m with p := q 5, v := F48.zero, a := F48.zero } else m
  let snap := motionSnap run (f 3) t m
  let rest := decide (snap.p = t ∧ snap.v = F48.zero ∧ snap.a = F48.zero)
  let at' := rest && (run || getB PRF.PG_STAT_AT prfPg g s)
  let s := if low || high then raise prfPg 0xFF kPrfPosClamp g (setIrq prfPg 17 s) else s
  let s := setB PRF.PG_STAT_PCLAMP prfPg g (low || high) (setB PRF.PG_STAT_TCLAMP prfPg g tclamp s)
  let s := setB PRF.PG_STAT_REV prfPg g m.rev (setB PRF.PG_STAT_AT prfPg g at' s)
  let s := setF PRF.PG_STAT_TGT_AGE prfPg g (satN 0xFF rd.age) s
  putGen g ⟨snap.p, snap.v, snap.a, t, false, fit, unfit, true, true⟩ s

/-- Whether a generator steps (R199). -/
def genDue (s : State) (g : Nat) : Bool := running prfPg s && decide (getF PRF.PG_CTRL_MODE prfPg g s ≠ 0)

/-- The steps in ascending order while the 400 clocks of phase 1 last (R200). -/
def runGens (corr : List (Fin 32 × Nat)) : List Nat → Nat → State → State
  | [], _, s => s
  | g :: gs, used, s =>
    let used := used + 10 + 4 * corr.foldl (fun a e => if e.1.val = g then a + e.2 else a) 0
    runGens corr gs used (if used ≤ 400 then stepGen g s else putGen g { prfGen s g with due := true, done := false } s)

/-- PROFILE_STEP: the targets are read in the first cycle of phase 1 (R199, R201). -/
def profileStep (corr : List (Fin 32 × Nat)) (s : State) : State :=
  let s := atPhase 1 0 s
  let s := forN 32 (fun g a => let x := prfGen a g; if x.due then putGen g { x with due := false, done := false } a else a) s
  runGens corr ((List.range 32).filter (genDue s)) 0 s

/-- One generator at the end of phase 1 (R199, R200, R49). -/
def publishGen (g : Nat) (s : State) : State :=
  let x := prfGen s g
  if x.due && x.done then
    setB PRF.PG_STAT_LATE prfPg g false (publish (prfSrc 1 g) (f48Word x.v) (publish (prfSrc 0 g) (f48Word x.p) s))
  else
    let s := if x.due then setB PRF.PG_STAT_LATE prfPg g true s else s
    if (getPub (prfSrc 0 g) s).stale then s else stalePub (prfSrc 1 g) (stalePub (prfSrc 0 g) s)

/-- PROFILE_DEADLINE: the end of phase 1 (R200). -/
def profileDeadline (s : State) : State :=
  let s := atPhase 1 399 s
  let s := forN 32 publishGen s
  let due := (List.range 32).filter fun g => (prfGen s g).due
  dueInstant prfPg (decide (due ≠ [])) (due.filter fun g => !(prfGen s g).done) s

/-- The generators at a boundary: parameter words take effect, starts are noted (R207, R219). -/
def prfBoundary (o s : State) : State :=
  forN 32 (fun g a =>
    let started := running prfPg a && !running prfPg o
    let left := decide (getF PRF.PG_CTRL_MODE prfPg g o = 0) && decide (getF PRF.PG_CTRL_MODE prfPg g a ≠ 0)
    let x := prfGen a g
    putGen g { x with init := x.init || started || left, due := false, done := false } a) s

/-- SOFT_RST (R219). -/
def prfSoftRst (s : State) : State :=
  forN 32 (fun g a =>
    if getF PRF.PG_CTRL_MODE prfPg g a ≠ 0 then putGen g { prfGen a g with init := true } a else a) s

end Sys2Proof.Machine
end

