-- ==== Sys2Proof/Machine/Crypto.lean ====
section
/-!
DEFINITION. SHA-256 and the verification of an ECDSA signature on curve P-256, as R444 names them (PRESUMED from FIPS 180-4 and
FIPS 186-4, log entry 40), and the mixing function of the digests (R459).
-/
namespace Sys2Proof.Machine

/-! ### SHA-256 -/

/-- 2^32: SHA-256 computes in words of 32 bits. -/
def shaMod : Nat := 4294967296

/-- The primes below 312, the 64 that SHA-256 takes its constants from: no smaller number of the list divides them. -/
def shaPrimes : List Nat :=
  (List.range 312).filter fun n => Nat.ble 2 n && [2, 3, 5, 7, 11, 13, 17].all fun d => n == d || n % d != 0

/-- The greatest r' ≥ r with r'^k ≤ n that differs from r in its low `b` bits alone. -/
def rootFrom (k n : Nat) : Nat → Nat → Nat
  | 0, r => r
  | b + 1, r => rootFrom k n b (bif Nat.ble ((r + 2 ^ b) ^ k) n then r + 2 ^ b else r)

/-- The first 32 bits of the fraction of the k-th root of p, for a root below 32. -/
def rootFraction (k p : Nat) : Nat := rootFrom k (p * shaMod ^ k) 37 0 % shaMod

/-- The constant of each round: from the cube roots of the primes. -/
def shaConsts : List Nat := shaPrimes.map (rootFraction 3)

/-- The hash value before the first block: from the square roots of the first eight primes. -/
def shaStart : List Nat := (shaPrimes.take 8).map (rootFraction 2)

/-- A word rotated right by each of some amounts, the results added bit by bit. -/
def rotations (x : Nat) (by_ : List Nat) : Nat :=
  by_.foldl (fun acc n => acc ^^^ (x * (shaMod + 1) / 2 ^ n) % shaMod) 0

/-- The word that follows 16 words of the schedule, oldest first. -/
def shaNext (w : List Nat) : Nat :=
  let old := nthN w 1
  let late := nthN w 14
  (nthN w 0 + (rotations old [7, 18] ^^^ old / 2 ^ 3) + nthN w 9 + (rotations late [17, 19] ^^^ late / 2 ^ 10)) % shaMod

/-- One round: the eight working words, with the sum of the round's constant and its schedule word. -/
def shaRound (v : List Nat) (kw : Nat) : List Nat :=
  match v with
  | [a, b, c, d, e, f, g, h] =>
    let x := h + kw + rotations e [6, 11, 25] + (g ^^^ (e &&& (f ^^^ g)))
    let y := rotations a [2, 13, 22] + ((a &&& (b ||| c)) ||| (b &&& c))
    [(x + y) % shaMod, a, b, c, (d + x) % shaMod, e, f, g]
  | _ => v

/-- The rounds of some constants; `w` holds the schedule's next 16 words, of which each round uses the first and makes one more. -/
def shaRounds : List Nat → List Nat → List Nat → List Nat
  | [], _, v => v
  | k :: ks, w, v => shaRounds ks (w.drop 1 ++ [shaNext w]) (shaRound v (k + nthN w 0))

/-- One block of 16 words. -/
def shaBlock (h block : List Nat) : List Nat :=
  (h.zip (shaRounds shaConsts block h)).map fun e => (e.1 + e.2) % shaMod

/-- `n` blocks of a list of words. -/
def shaBlocks : Nat → List Nat → List Nat → List Nat
  | 0, h, _ => h
  | n + 1, h, ws => shaBlocks n (shaBlock h (ws.take 16)) (ws.drop 16)

/-- SHA-256 of whole words, as a 256-bit number. -/
def sha256 (ws : List Word) : Nat :=
  let n := ws.length
  let zeros := List.replicate ((29 - n % 16) % 16) 0
  let padded := ws.map (·.toNat) ++ 2 ^ 31 :: (zeros ++ [n * 32 / shaMod, n * 32 % shaMod])
  (shaBlocks (padded.length / 16) shaStart padded).foldl (fun acc x => acc * shaMod + x) 0

/-! ### P-256 -/

/-- The prime of the field. -/
def p256P : Nat := 0xffffffff00000001000000000000000000000000ffffffffffffffffffffffff
/-- The order of the base point. -/
def p256N : Nat := 0xffffffff00000000ffffffffffffffffbce6faada7179e84f3b9cac2fc632551
/-- The coefficient b of the curve. -/
def p256B : Nat := 0x5ac635d8aa3a93e7b3ebbd55769886bc651d06b0cc53b0f63bce3c3e27d2604b
/-- The base point. -/
def p256G : Nat × Nat :=
  (0x6b17d1f2e12c4247f8bce6e563a440f277037d812deb33a0f4a13945d898c296,
   0x4fe342e2fe1a7f9b8ee7eb4a7c0f9e162bce33576b315ececbb6406837bf51f5)

/-- x^e mod m, by the low `k` bits of the exponent. -/
def powMod (m : Nat) : Nat → Nat → Nat → Nat
  | 0, _, _ => 1 % m
  | k + 1, x, e => (if e % 2 = 1 then x else 1) * powMod m k (x * x % m) (e / 2) % m

/-- The inverse modulo a prime of 256 bits. -/
def invMod (m x : Nat) : Nat := powMod m 256 (x % m) (m - 2)

/-- The sum of two points; none is the point at infinity. -/
def ecAdd (a b : Option (Nat × Nat)) : Option (Nat × Nat) :=
  match a, b with
  | none, _ => b
  | _, none => a
  | some (x1, y1), some (x2, y2) =>
    if x1 = x2 ∧ (y1 + y2) % p256P = 0 then none
    else
      let l := if x1 = x2 then (3 * x1 * x1 + (p256P - 3)) * invMod p256P (2 * y1) % p256P
        else (y2 + p256P - y1) * invMod p256P (x2 + p256P - x1) % p256P
      let x := (l * l + 2 * p256P - x1 - x2) % p256P
      some (x, (l * (x1 + p256P - x) + p256P - y1) % p256P)

/-- A multiple of a point, by the low `k` bits of the factor. -/
def ecMul : Nat → Nat → Option (Nat × Nat) → Option (Nat × Nat)
  | 0, _, _ => none
  | k + 1, n, q => ecAdd (if n % 2 = 1 then q else none) (ecMul k (n / 2) (ecAdd q q))

/-- Whether a pair is a point of the curve. -/
def onCurve (x y : Nat) : Bool :=
  decide (x < p256P ∧ y < p256P) && decide (y * y % p256P = (x * x * x + (p256P - 3) * x + p256B) % p256P)

/-- Whether (r, s) is a signature of the hash `e` under the key (x, y) (R444). -/
def ecdsaValid (x y e r s : Nat) : Bool :=
  if r = 0 ∨ p256N ≤ r ∨ s = 0 ∨ p256N ≤ s ∨ onCurve x y = false then false
  else
    let w := invMod p256N s
    match ecAdd (ecMul 256 (e * w % p256N) (some p256G)) (ecMul 256 (r * w % p256N) (some (x, y))) with
    | none => false
    | some (v, _) => decide (v % p256N = r)

/-! ### Digests -/

/-- The mixing function of the digests (R459). -/
def mix64 (x : Nat) : Nat :=
  let x := (x ^^^ x / 2 ^ 30) * 0xBF58476D1CE4E5B9 % 18446744073709551616
  let x := (x ^^^ x / 2 ^ 27) * 0x94D049BB133111EB % 18446744073709551616
  x ^^^ x / 2 ^ 31

end Sys2Proof.Machine
end

