-- ==== Sys2Proof/Machine/DigPort.lean ====
section
/-!
DEFINITION. Digests (R459 to R465): battens, rafters, the ridge, image digests, mismatch episodes, shadow digests, and the DIG page.
-/
namespace Sys2Proof.Machine

/-- Page index of DIG. -/
def digPg : Nat := 0x07

/-- A sum of digests (R460). -/
def addMod64 (a b : Nat) : Nat := (a + b) % 18446744073709551616

/-- The term of one batten element (R460). -/
def battenTerm (key : Nat) (v : Word) : Nat := mix64 (key * 4294967296 + v.toNat)

/-- The mask of a register's configuration fields (R460). -/
def cfgMask (d : RegDesc) : Nat :=
  d.fields.foldl (fun a f => if f.cfg then a + (2 ^ (f.hi - f.lo + 1) - 1) * 2 ^ f.lo else a) 0

/-- Registers of a page: the common ones and its own. -/
def pageRegs (p : Nat) : List RegDesc :=
  match pageKind p with
  | none => []
  | some k => commonRegs k ++ blockRegs k

/-- The sum over the configuration registers of a page, RWD fields as last written (R460). -/
def regSum (p : Nat) (s : State) : Nat :=
  (pageRegs p).foldl (fun a d =>
    let m := cfgMask d
    if m = 0 ∨ !onPage p d.base then a
    else (List.range d.count).foldl (fun a i =>
      let addr := pageAddr p (d.base + d.stride * i)
      addMod64 a (battenTerm addr (ofN ((rdReg s addr).toNat &&& m)))) a) 0

/-- The window words of a page's batten, as area and word index (R460). -/
def battenWords (p : Nat) : List (Nat × Nat) :=
  let area (a n : Nat) : List (Nat × Nat) := (List.range n).map fun w => (a, w)
  match pageKind p with
  | some .sns => area 0 256
  | some .moi => area 0 1024 ++ area 1 256 ++ area 2 256
  | some .lpa => area 0 4096 ++ area 1 512
  | some .ldg => area 0 2048 ++ area 1 128 ++ area 2 128
  | some .prf => area 0 256
  | some .fan => area 0 192 ++ area 2 24
  | some .can => (List.range 128).map fun i => (0, i / 2 * 20 + i % 2)
  | some .lnk => if p = 0x0B then area 0 64 else []
  | some .wch => (List.range 80).map fun i => (0, i / 10 * 16 + i % 10)
  | _ => []

/-- A window word as the batten takes it; `shadow` takes the shadow copy of a double-buffered page (R460, R465). -/
def battenWord (shadow : Bool) (p a w : Nat) (s : State) : Word :=
  match pageKind p with
  | some .prf | some .fan => getShd p a w s
  | _ => if shadow then getShd p a w s else getAct p a w s

/-- The sum over the severity table (R460). -/
def sevSum (s : State) : Nat :=
  kindRows.foldl (fun a r =>
    addMod64 a (battenTerm (0x01020000 + r.code) (ofN ((tabGet sevReset s.flt.sevTab r.code).toNat &&& 0xF7)))) 0

/-- The batten of a page (R460), or the one it would have with its shadow copy (R465). -/
def battenOf (shadow : Bool) (p : Nat) (s : State) : Nat :=
  let w := (battenWords p).foldl (fun a e =>
    addMod64 a (battenTerm (winKey p e.1 e.2) (battenWord shadow p e.1 e.2 s))) 0
  addMod64 (addMod64 (regSum p s) w) (if p = 0x02 then sevSum s else 0)

/-- The batten of a page as it stands. -/
def batten (p : Nat) (s : State) : Nat := battenOf false p s

/-- The digest of an engine program image at a bank (R461). -/
def imageDigest (base : Nat) (s : State) : Nat :=
  (List.range (imgLen base s / 4)).foldl (fun a i => addMod64 a (mix64 (i * 4294967296 + (rdWord s (base + 4 * i)).toNat))) 0

/-- The digest of an engine's running image; 0 with NOPROG = 1 (R461). -/
def runDigest (e : Nat) (s : State) : Nat :=
  if getB ENG.STAT_NOPROG (engPg e) 0 s then 0 else imageDigest (runBank e s) s

/-- The supervisor digest: header bytes 0x020 to 0x027 of the running image (R445). -/
def supDigest (s : State) : Nat :=
  (rdWord s (nvBase + 0x20)).toNat * 4294967296 + (rdWord s (nvBase + 0x24)).toNat

/-- The pages of a domain, ascending (R19, R23): 0 SENSE, 1 COMPUTE, 2 DRIVE, 3 WATCH. -/
def domainPages (d : Nat) : List Nat :=
  if d = 0 then [0x10, 0x11, 0x12, 0x14, 0x38]
  else if d = 1 then
    [0x00, 0x01, 0x02, 0x03, 0x06, 0x07, 0x08, 0x09, 0x0A, 0x0B, 0x0C, 0x18, 0x19, 0x1A, 0x1B, 0x1C] ++
      ((List.range 16).map (0x20 + ·)) ++ [0x36]
  else if d = 2 then [0x30, 0x31, 0x32, 0x33, 0x34, 0x35]
  else [0x04, 0x05]

/-- The rafter of a domain (R462). -/
def rafter (d : Nat) (s : State) : Nat :=
  (domainPages d).foldl (fun r p => mix64 (r ^^^ batten p s)) (mix64 d)

/-- The ridge over given rafters (R462). -/
def ridgeOf (rafters : List Nat) (s : State) : Nat :=
  let g := rafters.foldl (fun g r => mix64 (g ^^^ r)) 0
  let g := (List.range 16).foldl (fun g n => mix64 (g ^^^ runDigest n s)) g
  mix64 (g ^^^ supDigest s)

/-- A 64-bit register pair: HI at `off`, LO four bytes above. -/
def putPair (p off v : Nat) (s : State) : State :=
  wrReg (wrReg s (pageAddr p off) (ofN (v / 4294967296))) (pageAddr p (off + 4)) (ofN v)

/-- The value of a register pair. -/
def getPair (p off : Nat) (s : State) : Nat :=
  (rdReg s (pageAddr p off)).toNat * 4294967296 + (rdReg s (pageAddr p (off + 4))).toNat

/-- The boundary's digests (R462). -/
def digBoundary (s : State) : State :=
  let rs := (List.range 4).map fun d => rafter d s
  let s := { s with dig := { s.dig with rafters := rs } }
  putPair digPg 0x100 (ridgeOf rs s) s

/-- The published ridge of the long tide that begins (R462). -/
def digPublish (s : State) : State := putPair digPg 0x108 (getPair digPg 0x100 s) s

/-- A digest by level and index (R434, R468): 0 ridge, 1 rafter, 2 batten, 3 image; none for an index that does not exist. -/
def digestAt (level index : Nat) (s : State) : Option Nat :=
  if level = 0 then some (getPair digPg 0x100 s)
  else if level = 1 then (if index < 4 then some (nthN s.dig.rafters index) else none)
  else if level = 2 then (if (pageKind index).isSome then some (batten index s) else none)
  else if index < 16 then some (runDigest index s)
  else if index = 16 then some (supDigest s) else none

/-- Offset of DIG_SEL. -/
def digSelOff : Nat := 0x110

/-- The digest that a party's DIG_SEL names. -/
def digSelected (party : Party) (s : State) : Nat :=
  let w := rdParty party (pageAddr digPg digSelOff) s
  (digestAt (bitsOf w 17 16) (bitsOf w 7 0) s).getD 0

/-! ### Mismatch -/

/-- Marks or clears a partner in DIG_MM; an episode begins or ends (R463). -/
def digCompare (partner : Nat) (differs : Bool) (s : State) : State :=
  let was := getW DIG.MM_MASK digPg 0 s
  let now := putBit was partner differs
  let s := setF DIG.MM_MASK digPg 0 now s
  if was = 0 ∧ now ≠ 0 then
    let low := ((List.range 32).find? fun i => bitAt now i).getD 0
    let s := setB DIG.MMSTAT_EP digPg 0 true (incSat DIG.MMSTAT_EPISODES digPg 0 s)
    raise digPg 0x02 kDigMismatch low (setIrq digPg 16 s)
  else if was ≠ 0 ∧ now = 0 then setB DIG.MMSTAT_EP digPg 0 false s
  else s

/-! ### Shadow digests -/

/-- Whether a page has a shadow copy whose digest can be asked for (R465). -/
def shadowable (p : Nat) : Bool :=
  match pageKind p with
  | some .sns | some .moi | some .lpa | some .ldg | some .eng => true
  | _ => false

/-- A write of DIG_SHD_CMD (R465). -/
def shadowStart (p : Nat) (s : State) : WrOut :=
  if s.dig.shd.isSome || !shadowable p then .refuse
  else
    let v := match pageKind p with
      | some .eng => imageDigest (shadowBank (p - 0x20) s) s
      | _ => battenOf true p s
    .ok (setF DIG.SHD_STAT_STATE digPg 0 1 { s with dig := { s.dig with shd := some ⟨p, v, false⟩ } })

/-- A write to a page's shadow disturbs its running shadow digest (R465). -/
def shadowTouched (p : Nat) (s : State) : State :=
  match s.dig.shd with
  | some d => if d.page = p then { s with dig := { s.dig with shd := some { d with disturbed := true } } } else s
  | none => s

/-- SHADOW_DIGEST_DONE (R465). -/
def shadowDone (s : State) : State :=
  match s.dig.shd with
  | none => s
  | some d =>
    let s := setIrq digPg 17 { s with dig := { s.dig with shd := none } }
    if d.disturbed then setF DIG.SHD_STAT_STATE digPg 0 3 s
    else setF DIG.SHD_STAT_STATE digPg 0 2 (putPair digPg 0x138 d.value s)

/-! ### The DIG page -/

/-- The checks and effects of a write to the DIG page's block registers. -/
def digWrite (cx : WriteCx) (s : State) : WrOut :=
  if cx.off = digSelOff then
    storeUnless (decide (cxNew cx 17 16 ≠ 0) && (digestAt (cxNew cx 17 16) (cxNew cx 7 0) s).isNone) cx s
  else if cx.off = 0x130 then (if cxBits cx 31 31 = 1 then shadowStart (cxBits cx 7 0) s else .ok s)
  else .ok (storeFields cx s)

/-- What the DIG page's registers read where they show computed state. -/
def digRead (party : Party) (off : Nat) (s : State) : Option Word :=
  if off = 0x114 then some (ofN (digSelected party s / 4294967296))
  else if off = 0x118 then some (ofN (digSelected party s))
  else none

/-- The hold that a read of a HI register makes of its LO partner (R468). -/
def digReadHold (party : Party) (off : Nat) (s : State) : State :=
  let lo : Option Word :=
    if off = 0x100 ∨ off = 0x108 ∨ off = 0x138 then some (rdReg s (pageAddr digPg (off + 4)))
    else if off = 0x114 then some (ofN (digSelected party s)) else none
  match lo with
  | some w => makeHold party [(pageAddr digPg (off + 4), w)] (.onPage digPg) true s
  | none => s

end Sys2Proof.Machine
end

