-- ==== Sys2Proof/Machine/TickPort.lean ====
section
/-!
DEFINITION. The TICK page and the alignment states (R58 to R66): captures, sync status, tick lengths and the late maps.
-/
namespace Sys2Proof.Machine

/-- Page index of TICK. -/
def tickPg : Nat := 0x01

/-- The alignment state (R59): 0 FREE, 1 ACQUIRE, 2 LOCKED, 3 HOLDOVER, 4 MASTER. -/
def alignSt (s : State) : Nat := getW TICK.SYNC_STAT_STATE tickPg 0 s

/-- Whether the device is in LOCKED or MASTER (R63). -/
def aligned (s : State) : Bool := decide (alignSt s = 2 ∨ alignSt s = 4)

/-- The link address of the master last followed. -/
def masterAddr (s : State) : Nat := getW TICK.SYNC_STAT_MASTER_ADDR tickPg 0 s

/-- Enters an alignment state (R59, R62); FREE and MASTER show no offset. -/
def setAlign (st : Nat) (s : State) : State :=
  let was := alignSt s
  if was = st then s
  else
    let s := setIrq tickPg 18 (setF TICK.SYNC_STAT_STATE tickPg 0 st s)
    let s := { s with time := { s.time with since := s.time.ticks, goodSync := 0 } }
    let s := if st = 0 ∨ st = 4 then setF TICK.OFFSET_OFFSET tickPg 0 0 s else s
    let s := raiseIf (decide (was = 2 ∧ st = 1)) tickPg 0xFF kTickAlignLost (masterAddr s) s
    raiseIf (decide (was = 3 ∧ st = 0)) tickPg 0xFF kTickSyncLost (masterAddr s) s

/-- An integer rounded to the nearest multiple of `d`, counted in multiples; halves go up. -/
def nearest (i : Int) (d : Nat) : Int := (2 * i + d) / (2 * d)

/-- One sync frame of the followed master (R59, R60): `half` is its offset in half-nanoseconds, `first` whether it is the first from
this master. TICK_OFFSET shows the phase part with the sign of its table, and RATE is free within its limits. -/
def alignFrame (first : Bool) (half : Int) (s : State) : State :=
  let s := { s with time := { s.time with lastSync := some (usNow s) } }
  let d := nearest half 250000
  let phaseOff := half - 250000 * d
  let st := alignSt s
  let good := decide (-2000 ≤ half ∧ half ≤ 2000)
  let ask (s : State) : State := { s with time := { s.time with adopt := some (-d, s.time.ticks) } }
  let s :=
    if st = 2 ∨ st = 3 then
      if d ≠ 0 then setAlign 1 (ask (raise tickPg 0xFF kTickCountMismatch 0 s))
      else setAlign (if good then 2 else 1) s
    else
      let s := setAlign 1 s
      let s := if first ∧ d ≠ 0 then ask s else s
      let n := if good then s.time.goodSync + 1 else 0
      let s := { s with time := { s.time with goodSync := n } }
      if 8 ≤ n then setAlign 2 s else s
  let rate := clampI (-200000) 200000 (Config.freeInt s.fresh)
  let s := { s with fresh := s.fresh + 1 }
  wrReg (wrReg s (pageAddr tickPg 0x118) (ofI (nearest (-phaseOff) 2))) (pageAddr tickPg 0x11C) (ofI rate)

/-- SYNC_TIMEOUT: a LOCKED device has had no sync frame for one tide (R59). -/
def syncTimeout (s : State) : State :=
  match s.time.lastSync with
  | some t =>
    if alignSt s = 2 then
      match reachUs (t + 8000) s with
      | none => s
      | some s => setAlign 3 s
    else s
  | none => s

/-- HOLDOVER_EXPIRE: HOLD_LIMIT tides without a frame (R59). -/
def holdoverExpire (s : State) : State :=
  if alignSt s = 3 ∧ s.time.since + 64 * getF TICK.SYNC_CTRL_HOLD_LIMIT tickPg 0 s ≤ s.time.ticks then
    setAlign 0 { s with lnk := { s.lnk with rank := none } }
  else s

/-- MASTER_CLAIM: a device with ROLE = 1 in FREE that has heard no SYNC frame for 16 + 8 × RANK ticks (R429). -/
def masterClaim (rank : Nat) (s : State) : State :=
  let heard := Nat.max s.time.since ((s.time.lastSync.getD 0) / 125)
  if alignSt s = 0 ∧ getF TICK.SYNC_CTRL_ROLE tickPg 0 s = 1 ∧ heard + 16 + 8 * rank ≤ s.time.ticks then setAlign 4 s else s

/-- Clocks by which the rate correction of TICK_RATE changes one tick, rounded down: 50,000 clocks by RATE parts in 10^9. -/
def rateClocks (s : State) : Int := getI TICK.RATE_RATE tickPg 0 s / 20000

/-- The correction of a tick's phase 39 (R36, R58, R59): free within ±40 clocks for a follower that hears its master; the last learned
rate in HOLDOVER, whole clocks being free between its two neighbours; 0 for any other device (log entry 22). -/
def drawCorr (s : State) : State :=
  if alignSt s = 3 then
    { s with time := { s.time with corr := rateClocks s + (Config.freeNat s.fresh % 2 : Nat) }, fresh := s.fresh + 1 }
  else if 1 ≤ alignSt s ∧ alignSt s ≤ 2 then
    { s with time := { s.time with corr := clampI (-40) 40 (Config.freeInt s.fresh) }, fresh := s.fresh + 1 }
  else { s with time := { s.time with corr := 0 } }

/-- The length of the tick that ends is shown (R64). -/
def tickLength (s : State) : State :=
  let len := (50000 + s.time.corr).toNat
  let s := setF TICK.LEN_LAST_LEN tickPg 0 len s
  if s.time.monClr then
      setF TICK.MON_MAX_LEN tickPg 0 0 (setF TICK.MON_MIN_LEN tickPg 0 0xFFFF { s with time := { s.time with monClr := false } })
    else
      setF TICK.MON_MAX_LEN tickPg 0 (Nat.max len (getW TICK.MON_MAX_LEN tickPg 0 s))
        (setF TICK.MON_MIN_LEN tickPg 0 (Nat.min len (getW TICK.MON_MIN_LEN tickPg 0 s)) s)

/-- The check of the ended tick, whose message is sent within the tick that follows (R39); `oscLen` is its length by the independent
oscillator, in 10 ns. -/
def clockCheck (oscLen : Nat) (s : State) : State :=
  raiseIf (decide (oscLen < 12250 ∨ 12750 < oscLen)) tickPg 0xFF kTickClockFail (satN 0xFFFF oscLen) s

/-- The late maps of the tick that ends (R66). -/
def lateMaps (s : State) : State :=
  let map (h : Nat) : Word := ofN (maskOf 32 fun i => s.time.lateNow.contains (32 * h + i))
  let s := wrReg (wrReg s (pageAddr tickPg 0x130) (map 0)) (pageAddr tickPg 0x134) (map 1)
  { s with time := { s.time with lateNow := [] } }

/-- The checks and effects of a write to the TICK page's block registers. -/
def tickWrite (cx : WriteCx) (s : State) : WrOut :=
  if cx.off = 0x110 then
    storeUnless ((cxHas cx 8 && decide (cxBits cx 15 8 = 0)) || (cxHas cx 0 && decide (cxBits cx 1 0 = 3))) cx s
  else if cx.off = 0x12C then
    .ok (if cxBits cx 0 0 = 1 then { s with time := { s.time with monClr := true } } else s)
  else .ok (storeFields cx s)

/-- What the TICK page's registers read where they show computed state (R65). -/
def tickRead (party : Party) (off : Nat) (s : State) : Option Word :=
  if off = 0x100 then some (ofN s.time.tick)
  else if off = 0x104 ∨ off = 0x108 then some (rdParty party (pageAddr tickPg off) s)
  else if off = 0x114 then
    let age := match s.time.lastSync with
      | none => 0xFFFF
      | some t => satN 0xFFFF (s.time.ticks - t / 125)
    some (setBits (rdReg s (pageAddr tickPg off)) 31 16 age)
  else none

/-- The capture that a read of TICK_CNT_LO makes (R65). -/
def tickReadHold (party : Party) (off : Nat) (s : State) : State :=
  if off = 0x100 then
    wrParty party (pageAddr tickPg 0x104) (ofN (s.time.tick / 4294967296 % 65536))
      (wrParty party (pageAddr tickPg 0x108) (ofN (s.time.phase * 65536 + s.time.cycle)) s)
  else s

end Sys2Proof.Machine
end

