-- ==== Sys2Proof/Machine/LnkPort.lean ====
section
/-!
DEFINITION. The Linron link's pages (R440): frames as they stand on the wire, partners, cargo entries, the window, queries and the
coordinator's registers.
-/
namespace Sys2Proof.Machine

/-- Page index of LNK0, which holds every link function. -/
def lnkPg : Nat := 0x0B

/-- Page of a port. -/
def portPg (port : Nat) : Nat := 0x0B + port

/-- The device's link address. -/
def linkAddr (s : State) : Nat := getW LNK.CFG_ADDR lnkPg 0 s

/-- The device's RANK (R429). -/
def linkRank (s : State) : Nat := getF LNK.CFG_MPRIO lnkPg 0 s * 32 + linkAddr s

/-- The cargo period in force, in tides. -/
def cargoPeriod (s : State) : Nat := getF LNK.CFG_CPER lnkPg 0 s

/-- Whether a port is up. -/
def portUp (port : Nat) (s : State) : Bool := getB LNK.PSTAT_UP (portPg port) 0 s && getB LNK.PCFG_EN (portPg port) 0 s

/-- A partner's record. -/
def partnerAt (s : State) (a : Nat) : Partner := tabGet (fun _ => Partner.none) s.lnk.partners a

/-- Puts a partner's record. -/
def putPartner (a : Nat) (p : Partner) (s : State) : State :=
  { s with lnk := { s.lnk with partners := tabSet (fun _ => Partner.none) s.lnk.partners a p } }

/-! ### Frames -/

/-- A number as `n` bytes, most significant first (log entry 42). -/
def natBytes (n v : Nat) : List Byte := (List.range n).map fun i => BitVec.ofNat 8 (v / 256 ^ (n - 1 - i))

/-- The number in `n` bytes of a body from byte `off`; bytes beyond its end count as 0. -/
def bodyN (f : LinkFrame) (off n : Nat) : Nat :=
  (List.range n).foldl (fun a i => a * 256 + (f.body.getD (off + i) 0).toNat) 0

/-- The LCRC of a frame: over the header with HOPS and CORR taken as 0, then the body (R424). -/
def frameCrc (f : LinkFrame) : Nat :=
  crc32 (([f.ver, f.typ, f.origin, 0] ++ natBytes 2 f.seq.toNat ++ natBytes 2 f.blen.toNat ++ natBytes 6 f.tick.toNat
    ++ [f.state, f.dest, 0, 0, 0, 0] ++ f.body).map fun b => b.toNat)

/-- The EtherType of the link (R424). -/
def linkType : BitVec 16 := 0x88B5

/-- The Ethernet frame of a Linron frame (R424): to all, from the address of its origin, padded to 46 bytes of payload. -/
def etherFrame (f : LinkFrame) : EtherFrame :=
  ⟨0xFFFFFFFFFFFF, BitVec.ofNat 48 (0x024C4E000000 + f.origin.toNat), linkType, f, 22 - f.body.length⟩

/-- Bytes that a frame takes on the wire (R433). -/
def wireBytes (f : LinkFrame) : Nat := Nat.max 84 (62 + f.body.length)

/-- Sends a frame out of a port that is up. -/
def sendOut (port : Nat) (f : LinkFrame) (s : State) : State :=
  if portUp port s then
    { s with lnk := { s.lnk with
      out := s.lnk.out ++ [(port, etherFrame f)], sent := listSet s.lnk.sent port (nthN s.lnk.sent port + wireBytes f) } }
  else s

/-- Sends an own frame out of the ports given (R424). -/
def sendFrame (ports : List Nat) (typ dest : Nat) (body : List Byte) (s : State) : State :=
  let f : LinkFrame := {
    ver := 1, typ := BitVec.ofNat 8 typ, origin := BitVec.ofNat 8 (linkAddr s), hops := 0
    seq := BitVec.ofNat 16 s.lnk.seq, blen := BitVec.ofNat 16 body.length, tick := BitVec.ofNat 48 s.time.tick
    state := BitVec.ofNat 8 (alignSt s), dest := BitVec.ofNat 8 dest, corr := 0, body := body, lcrc := 0 }
  let f := { f with lcrc := ofN (frameCrc f) }
  ports.foldl (fun a p => sendOut p f a) { s with lnk := { s.lnk with seq := (s.lnk.seq + 1) % 65536 } }

/-! ### Cargo entries -/

/-- Source word of a partner's cargo entry (R174). -/
def cargoKey (addr slot : Nat) : Nat := 7 * 4096 + addr * 64 + slot

/-- The entry that a party's PC_SEL names. -/
def pcKey (party : Party) (s : State) : Nat :=
  let w := rdParty party (pageAddr lnkPg 0x150) s
  cargoKey (bitsOf w 12 8) (bitsOf w 5 0)

/-- PC_META of an entry (R431, R432). -/
def pcMeta (k : Nat) (s : State) : Word :=
  let p := getPub k s
  if p.tick.isNone then ofN (0x80000000 + 0x80 * 65536 + 0xFFFF)
  else ofN (b2n p.stale * 2147483648 + b2n (s.lnk.unaligned.contains k) * 1073741824 + p.status * 65536 + age16 s p.tick)

/-- The partner that a party's RG_SEL names. -/
def rgSel (party : Party) (s : State) : Nat := bitsOf (rdParty party (pageAddr lnkPg 0x160) s) 4 0

/-- RG_META of a partner (R434). -/
def rgMeta (a : Nat) (s : State) : Word :=
  let p := partnerAt s a
  if p.ridgeAt = 0 then 0xFFFF0000 else ofN (satN 0xFFFF ((s.time.ticks + 1 - p.ridgeAt) / 8192) * 65536 + 1)

/-- Whether a partner has been heard within LOST_T (R440). -/
def partnerHeard (a : Nat) (s : State) : Bool :=
  let p := partnerAt s a
  decide (p.heard ≠ 0 ∧ s.time.ticks + 1 < p.heard + 8192 * getF LNK.LOST_LOST_T lnkPg 0 s)

/-- The block's STALE bit: an entry of an expected partner that has sent cargo is stale (R49). -/
def lnkStale (s : State) : Bool :=
  (List.range 32).any fun a =>
    bitAt (getF LNK.PMASK_MASK lnkPg 0 s) a && (partnerAt s a).due.isSome
      && (List.range 64).any fun k => let p := getPub (cargoKey a k) s; p.tick.isSome && p.stale

/-! ### The window -/

/-- Area and word that a party's LNK0_WIN_ADDR names. -/
def lnkWin (party : Party) (s : State) : Nat × Nat :=
  let w := rdParty party (pageAddr lnkPg 0x140) s
  (bitsOf w 13 12, bitsOf w 7 0)

/-- Whether the coordinator runs (R440). -/
def cmtBusy (s : State) : Bool :=
  let st := getW LNK.CMT_STAT_STATE lnkPg 0 s
  decide (1 ≤ st ∧ st ≤ 3)

/-- A write of LNK0_WIN_DATA (R430, R440). -/
def lnkWinWrite (cx : WriteCx) (s : State) : WrOut :=
  let (area, word) := lnkWin cx.party s
  if 64 ≤ word ∨ area = 3 ∨ (area = 2 ∧ cmtBusy s = true) ∨ pageOwns lnkPg cx.party s = false then .refuse
  else if area = 0 then
    let src := bitsOf cx.data 31 16
    if src / 4096 = 7 || !srcValid src none true then .refuse
    else
      let v := setBits 0 31 16 src
      let v := setBits v 0 0 (bitsOf cx.data 0 0)
      .ok ((if getAct lnkPg 0 word s = v then id else bumpWriteGen lnkPg) (setAct lnkPg 0 word v s))
  else if area = 1 then
    .ok { setAct lnkPg 1 word cx.data s with
      lnk := { s.lnk with cvalTick := tabSet (fun _ => 0) s.lnk.cvalTick word (s.time.tick + 1) } }
  else .ok (setAct lnkPg 2 word cx.data s)

/-- The word that a party's window shows. -/
def lnkWinRead (party : Party) (s : State) : Word :=
  let (area, word) := lnkWin party s
  if word < 64 then getAct lnkPg area word s else 0

/-- WORD advances within its area after an access with AINC = 1 (R504). -/
def lnkAdvance (party : Party) (off : Nat) (s : State) : State :=
  let a := pageAddr lnkPg 0x140
  let w := rdParty party a s
  if off = 0x144 ∧ bitsOf w 16 16 = 1 then wrParty party a (setBits w 7 0 ((bitsOf w 7 0 + 1) % 64)) s else s

/-! ### Register writes and reads -/

/-- DQ_CMD with GO = 1 starts a query (R434). -/
def dqueryStart (target level index : Nat) (s : State) : WrOut :=
  if s.lnk.query.isSome then .refuse
  else
    let q := s.lnk.qid
    let s := { s with lnk := { s.lnk with query := some (q, target, s.time.ticks), qid := (q + 1) % 65536 } }
    let s := setF LNK.DQ_STAT_STATE lnkPg 0 1 s
    .ok (sendFrame [0, 1] 0x21 target (natBytes 1 level ++ natBytes 1 index ++ natBytes 2 q) s)

/-- The arm tick that the registers give. -/
def armTick (s : State) : Nat := getW LNK.CMT_ARM_HI_ARM lnkPg 0 s * 4294967296 + getW LNK.CMT_ARM_LO_ARM lnkPg 0 s

/-- A start of the coordinator (R435). -/
def commitStart (cid : Nat) (s : State) : WrOut :=
  let nw := getW LNK.CMT_NW_NW lnkPg 0 s
  if !aligned s || decide (armTick s < s.time.tick + 256) || decide (nw = 0 ∨ 32 < nw) || cmtBusy s then .refuse
  else
    let ws := (List.range nw).map fun k => (getAct lnkPg 2 (2 * k) s, getAct lnkPg 2 (2 * k + 1) s)
    let c : Commit := ⟨cid, s.time.ticks, armTick s, getW LNK.CMT_TMASK_MASK lnkPg 0 s, ws, 0, none⟩
    let z (off : Nat) (s : State) : State := wrReg s (pageAddr lnkPg off) 0
    .ok (setF LNK.CMT_STAT_STATE lnkPg 0 1 (z 0x198 (z 0x19C (z 0x1A0 { s with lnk := { s.lnk with commit := some c } }))))

/-- A write of CMT_CTRL (R435): CMD 1 starts, CMD 2 aborts before DECIDE. -/
def cmtCtrl (cx : WriteCx) (s : State) : WrOut :=
  let cmd := cxBits cx 31 30
  let s' := storeFields cx s
  if cmd = 0 then .ok s'
  else if cmd = 1 then commitStart (cxBits cx 15 0) s'
  else if cmd = 2 ∧ getW LNK.CMT_STAT_STATE lnkPg 0 s = 1 then .ok (setF LNK.CMT_STAT_STATE lnkPg 0 3 s')
  else .refuse

/-- The checks and effects of a write to a LNK page's block registers. -/
def lnkWrite (cx : WriteCx) (s : State) : WrOut :=
  if cx.page ≠ lnkPg then .ok (storeFields cx s)
  else if cx.off = 0x120 then storeUnless (cxOutside cx 7 0 1 128) cx s
  else if cx.off = 0x124 then storeUnless (cxOutside cx 10 8 0 4 || cxOutside cx 6 4 0 4) cx s
  else if cx.off = 0x130 then storeUnless (cxOutside cx 7 0 1 255) cx s
  else if cx.off = 0x144 then lnkWinWrite cx s
  else if cx.off = 0x170 then
    if cxBits cx 31 31 = 1 then dqueryStart (cxBits cx 28 24) (cxBits cx 17 16) (cxBits cx 7 0) s else .ok s
  else if cx.off = 0x180 then cmtCtrl cx s
  else if cx.off = 0x184 ∨ cx.off = 0x188 ∨ cx.off = 0x18C then storeUnless (decide (cx.fields ≠ []) && cmtBusy s) cx s
  else if cx.off = 0x190 then storeUnless ((decide (cx.fields ≠ []) && cmtBusy s) || cxOutside cx 5 0 1 32) cx s
  else .ok (storeFields cx s)

/-- What LNK0's registers read where they show computed state. -/
def lnkRead (party : Party) (off : Nat) (s : State) : Option Word :=
  if off = 0x134 then some (ofN (maskOf 32 fun a => partnerHeard a s))
  else if off = 0x144 then some (lnkWinRead party s)
  else if off = 0x154 then some (getPub (pcKey party s) s).value
  else if off = 0x158 then some (pcMeta (pcKey party s) s)
  else if off = 0x164 then some (ofN ((partnerAt s (rgSel party s)).ridge / 4294967296))
  else if off = 0x168 then some (ofN (partnerAt s (rgSel party s)).ridge)
  else if off = 0x16C then some (rgMeta (rgSel party s) s)
  else none

/-- The holds of PC_VAL and RG_HI (R121, R432, R440). -/
def lnkReadHold (party : Party) (off : Nat) (s : State) : State :=
  if off = 0x154 then makeHold party [(pageAddr lnkPg 0x158, pcMeta (pcKey party s) s)] (.onPage lnkPg) true s
  else if off = 0x164 then
    makeHold party [(pageAddr lnkPg 0x168, ofN (partnerAt s (rgSel party s)).ridge)] (.onPage lnkPg) true s
  else s

/-- LOAD and MAX of a port at the end of a long tide (R433): per cent of 10 Mbit/s over 1.024 s. -/
def portLoad (port : Nat) (s : State) : State :=
  let l := satN 255 (nthN s.lnk.sent port / 12800)
  let p := portPg port
  let s := setF LNK.PLOAD_LOAD p 0 l (setF LNK.PLOAD_MAX p 0 (Nat.max l (getW LNK.PLOAD_MAX p 0 s)) s)
  { s with lnk := { s.lnk with sent := listSet s.lnk.sent port 0 } }

/-- The long tide boundary of the link: loads, and the violations reported once per long tide (R433, R439). -/
def lnkLongTide (s : State) : State :=
  let s := portLoad 1 (portLoad 0 s)
  { s with lnk := { s.lnk with told := [] } }

end Sys2Proof.Machine
end

