-- ==== Sys2Proof/Machine/RecPort.lean ====
section
/-!
DEFINITION. The recorder's store (R376 to R389): records, slots, placement, drops, and the REC page.
-/
namespace Sys2Proof.Machine

/-- Page index of REC. -/
def recPg : Nat := 0x03

/-- The valid mark of a record (R376). -/
def recMark : Word := 0x52454331

/-- A slot that nothing was written to. -/
def emptySlot : List Word := List.replicate 16 0

/-- Slots of an area (R382): 0 service, 1 commissioning. -/
def areaSize (area : Nat) : Nat := if area = 0 then 24576 else 2048

/-- The stored slots of an area. -/
def areaTab (area : Nat) (s : State) : Tab (List Word) := if area = 0 then s.recd.svc else s.recd.cms

/-- Puts the stored slots of an area. -/
def putArea (area : Nat) (t : Tab (List Word)) (s : State) : State :=
  if area = 0 then { s with recd := { s.recd with svc := t } } else { s with recd := { s.recd with cms := t } }

/-- The 16 words of a slot. -/
def slotWords (area slot : Nat) (s : State) : List Word := tabGet (fun _ => emptySlot) (areaTab area s) slot

/-- Puts the words of a slot. -/
def putRecSlot (area slot : Nat) (ws : List Word) (s : State) : State :=
  putArea area (tabSet (fun _ => emptySlot) (areaTab area s) slot ws) s

/-- Whether a slot holds a record: the valid mark and a matching CRC (R377). -/
def isRecord (ws : List Word) : Bool :=
  decide (nthW ws 15 = recMark) && decide ((nthW ws 14).toNat = crc32 (wordBytes (ws.take 14)))

/-- SEV of a record (R376). -/
def recSev (ws : List Word) : Nat := bitsOf (nthW ws 1) 23 21

/-- SEQ of a record. -/
def recSeq (ws : List Word) : Nat := (nthW ws 0).toNat

/-- The slots of an area that hold records, by slot. -/
def records (area : Nat) (s : State) : Tab (List Word) := (areaTab area s).filter fun e => isRecord e.2

/-- The slot of the lowest or of the highest SEQ among some records. -/
def seqSlot (low : Bool) (l : Tab (List Word)) : Option Nat :=
  (l.foldl (fun (a : Option (Nat × List Word)) e =>
    match a with
    | none => some e
    | some b => if (if low then decide (recSeq e.2 < recSeq b.2) else decide (recSeq b.2 < recSeq e.2)) then some e else a)
    none).map (·.1)

/-- The first slot without a record among the `n` slots from `lo`, in ascending order from `start`, wrapping. -/
def freeSlot (l : Tab (List Word)) (lo n start : Nat) : Option Nat :=
  ((List.range n).map fun i => lo + (start + i) % n).find? fun k => !l.any fun e => e.1 = k

/-- REC_SVC, REC_CMS and REC_SEVk as the store stands (R403). -/
def recCount (s : State) : State :=
  let a := records 0 s
  let b := records 1 s
  let s := setF REC.SVC_COUNT recPg 0 a.length (setF REC.SVC_NEWEST recPg 0 ((seqSlot false a).getD 0) s)
  let s := setF REC.CMS_COUNT recPg 0 b.length (setF REC.CMS_NEWEST recPg 0 ((seqSlot false b).getD 0) s)
  forN 5 (fun k s => setF REC.SEV_COUNT recPg k (a.filter fun e => recSev e.2 = k).length s) s

/-- The slot of the service area for a record of severity `sev` (R383); none where it is dropped. -/
def serviceSlot (sev : Nat) (s : State) : Option Nat :=
  let l := records 0 s
  if l.length < 24576 then
    freeSlot l 0 24576 (if l = [] then 0 else ((seqSlot false l).getD 0) + 1)
  else
    let least := l.foldl (fun a e => Nat.min a (recSev e.2)) 7
    if least ≤ sev then seqSlot true (l.filter fun e => recSev e.2 = least) else none

/-- The slot of the commissioning area (R385): the lowest free slot of the kept part, then the circulating part. -/
def cmsSlot (s : State) : Nat :=
  let l := records 1 s
  match freeSlot l 0 1024 0 with
  | some k => k
  | none =>
    match freeSlot l 1024 1024 0 with
    | some k => k
    | none => (seqSlot true (l.filter fun e => 1024 ≤ e.1)).getD 1024

/-- Whether every slot of the kept part holds a record. -/
def keptFull (s : State) : Bool := (freeSlot (records 1 s) 0 1024 0).isNone

/-- The running image's STATE (R443), read from the NV store. -/
def imageState (s : State) : Nat := (rdWord s (nvBase + 0xF00)).toNat

/-- Commissioning mode (R382). -/
def commMode (s : State) : Bool :=
  decide (getW DEV.BOOT_STEP 0 0 s ≠ 7) || getB REC.CTRL_COMM recPg 0 s
    || (s.nvs.image && decide (imageState s = 2 ∨ imageState s = 4))

/-- The words of a record (R376), with SEQ, SEV and COMM filled in. -/
def recWords (seq sev : Nat) (comm : Bool) (r : RecReq) : List Word :=
  let ws := [ofN seq, ofN (r.kind * 16777216 + sev * 2097152 + b2n comm * 1048576 + r.subj % 65536)]
    ++ (List.range 12).map fun i => tabGet (fun _ => (0 : Word)) r.body (i + 2)
  ws ++ [ofN (crc32 (wordBytes ws)), recMark]

/-- A record's severity when it is written: an anchor takes the greatest since the previous one, and at least 1 (R381). -/
def writeSev (r : RecReq) (s : State) : Nat := if r.kind = 0x01 then Nat.max 1 s.recd.sevMax else r.sev

/-- A record's payload when it is written: an anchor names the previous anchor, an INTERVAL_M its INTERVAL_H. -/
def writeBody (r : RecReq) (s : State) : RecReq :=
  if r.kind = 0x01 then { r with body := tabSet (fun _ => (0 : Word)) r.body 9 (ofN s.recd.anchorSeq) }
  else if r.kind = 0x11 then { r with body := tabSet (fun _ => (0 : Word)) r.body 9 (ofN s.recd.hSeq) }
  else r

/-- Writes a record into a slot: it takes SEQ from REC_NEXT (R377, R379). -/
def storeRecord (area slot : Nat) (r : RecReq) (s : State) : State :=
  let seq := getW REC.NEXT_SEQ recPg 0 s
  let sev := writeSev r s
  let s := putRecSlot area slot (recWords seq sev (decide (area = 1)) (writeBody r s)) s
  let s := incMod REC.NEXT_SEQ recPg 0 s
  let s := { s with recd := { s.recd with
    sevMax := if r.kind = 0x01 then 0 else Nat.max s.recd.sevMax sev
    anchorSeq := if r.kind = 0x01 then seq else s.recd.anchorSeq
    hSeq := if r.kind = 0x10 then seq else s.recd.hSeq } }
  recCount s

/-- Drops a record: REC_DROPk, and a drop episode with its message (R383, R384). -/
def dropRecord (r : RecReq) (s : State) : State :=
  let sev := writeSev r s
  let s := noteCount REC.DROP_COUNT recPg (Nat.min 4 sev) s
  let s := if r.kind = 0x10 then { s with recd := { s.recd with hSeq := 0 } } else s
  if getB REC.STAT_DROP_EP recPg 0 s then s
  else raise recPg 0xFF kRecDropped sev (setIrq recPg 16 (setB REC.STAT_DROP_EP recPg 0 true s))

/-- NV offset of a slot (R382). -/
def slotOffset (area slot : Nat) : Nat := (if area = 0 then 0x680000 else 0x660000) + slot * 64

/-- An NV word that could not be written in two attempts (R442). -/
def nvWriteFail (off : Nat) (s : State) : State := raise 0x06 0xFF kNvsWriteFail (off / 256 % 65536) s

/-! ### Word writes to the NV store, and where they stop (R442, R472) -/

/-- How many of the next `n` word writes of the operation in progress are made; past its stop none is. -/
def nvTake (n : Nat) (s : State) : Nat × State :=
  if s.nvs.ended then (0, s)
  else
    match s.nvs.stop with
    | none => (n, s)
    | some x =>
      if n ≤ x.left then (n, { s with nvs := { s.nvs with stop := some { x with left := x.left - n } } })
      else (x.left, { s with nvs := { s.nvs with ended := true } })

/-- Whether the operation in progress was stopped by a falling rail. -/
def nvCut (s : State) : Bool := s.nvs.ended && s.nvs.stop.any (·.cut)

/-- An operation whose word writes stop where `x` says. -/
def withStop (x : Option NvStop) (f : State → State) (s : State) : State :=
  let t := f { s with nvs := { s.nvs with stop := x, ended := false } }
  { t with nvs := { t.nvs with stop := s.nvs.stop, ended := s.nvs.ended } }

/-- The words of a slot after the first `n` of the 17 writes of a record (R377): 0 to W15, W0 to W14, and W15 last. A word that neither
attempt could write is left open; W15 then stays without the mark. -/
def slotAfter (n : Nat) (fail : Bool) (open_ : Word) (new old : List Word) : List Word :=
  if n = 0 then (if fail then old.set 15 0 else old)
  else
    let ws := (new.take (n - 1) ++ old.drop (n - 1)).set 15 0
    if fail ∧ n < 16 then ws.set (n - 1) open_ else ws

/-- Writes a record into a slot, and says whether it was written and verified. A write that stops leaves the slot without a record (R377). -/
def writeSlot (area slot : Nat) (r : RecReq) (s : State) : State × Bool :=
  let (n, s) := nvTake 17 s
  if n = 17 then (storeRecord area slot r s, true)
  else
    let fail := s.nvs.ended && !nvCut s
    let new := recWords (getW REC.NEXT_SEQ recPg 0 s) (writeSev r s) (decide (area = 1)) (writeBody r s)
    let s := recCount (putRecSlot area slot (slotAfter n fail (Config.freeWord s.fresh) new (slotWords area slot s)) s)
    let s := { s with fresh := s.fresh + 1 }
    (if fail then nvWriteFail (slotOffset area slot) s else s, false)

/-- Places a record in the service area; the first one written ends a drop episode (R383, R384). -/
def placeService (r : RecReq) (s : State) : State × Bool :=
  match serviceSlot (writeSev r s) s with
  | some k =>
    let (s, ok) := writeSlot 0 k r s
    (if ok then setB REC.STAT_DROP_EP recPg 0 false s else s, ok)
  | none => (dropRecord r s, false)

/-- Places a record in the commissioning area (R385). -/
def placeCms (r : RecReq) (s : State) : State :=
  let was := getB REC.STAT_KEEP_FULL recPg 0 s
  let s := (writeSlot 1 (cmsSlot s) r s).1
  if keptFull s && !was then setIrq recPg 17 (setB REC.STAT_KEEP_FULL recPg 0 true s) else s

/-- DEPTH and MAX of the queue (R403). -/
def queueDepth (s : State) : State :=
  let n := s.recd.queue.length
  setF REC.QUEUE_MAX recPg 0 (Nat.max n (getW REC.QUEUE_MAX recPg 0 s)) (setF REC.QUEUE_DEPTH recPg 0 n s)

/-- A record arrives at the queue of 64 entries (R386). -/
def enqueue (r : RecReq) (s : State) : State :=
  if s.recd.queue.length < 64 then
    queueDepth { s with recd := { s.recd with queue := s.recd.queue ++ [r] } }
  else dropRecord r (incSat REC.QUEUE_QFULL recPg 0 s)

/-- The place of a record among those of its cycle (R386): fault messages in the order of R360, which their numbers follow. -/
def recOrder (r : RecReq) : Nat :=
  (r.cls * 4294967296 + r.key) * 4294967296 + (if r.kind = 0x02 then (tabGet (fun _ => (0 : Word)) r.body 2).toNat else 0)

/-- The records of one cycle enter the queue in the order of R386, those that entered it earlier in the cycle among them. -/
def intake (s : State) : State :=
  let now (r : RecReq) : Bool := decide (r.at_ = cycleNow s + 1)
  let l := sortBy recOrder (s.recd.queue.filter now ++ s.recd.inbox)
  if s.recd.inbox = [] then s
  else l.foldl (fun a r => enqueue r a) { s with recd := { s.recd with queue := s.recd.queue.filter fun r => !now r, inbox := [] } }

/-- RECORD_WRITE: at most one queued record per tick, none while a clear runs (R386, R389). A write that stops leaves its slot
without a record. -/
def recordWrite (s : State) : State :=
  match s.recd.queue with
  | [] => s
  | r :: rest =>
    if s.recd.clearing.isSome || decide (s.recd.lastWrite = s.time.ticks + 1) then s
    else
      let s := queueDepth { s with recd := { s.recd with queue := rest, lastWrite := s.time.ticks + 1 } }
      if commMode s then placeCms r s else (placeService r s).1

/-! ### Anchors -/

/-- The sub-second count of the calendar clock (R390), from the elapsed µs since its last whole second. -/
def subSecond (s : State) : Nat :=
  satN 32767 (((usNow s : Int) - s.clk.secUs) * 32768 / 1000000).toNat

/-- An anchor with what it captures (R380). -/
def pushAnchor (reason : Nat) (s : State) : State :=
  let c := s.clk
  let before := if reason = 1 then c.secs else 0
  let was := s.recd.setFrom.getD before
  recPush 0x01 1 reason
    ([(2, ofN (subSecond s * 65536 + c.secs / 4294967296)), (3, ofN c.secs), (4, ofN s.time.tick),
      (5, ofN (131072 + b2n (getB CLK.STAT_VALID 4 0 s) * 65536 + s.time.tick / 4294967296 % 65536))]
      ++ (if reason = 1 then [(6, ofN (was / 4294967296)), (7, ofN was)] else [])
      ++ [(8, ofI c.trim)]) 2 (recPg * 16) s

/-- The boundary's anchor after a clock set (R380, CLOCK_SET_ANCHOR). -/
def anchorAfterSet (s : State) : State :=
  match s.recd.setFrom with
  | none => s
  | some _ =>
    let s := pushAnchor 1 s
    { s with recd := { s.recd with setFrom := none, hourly := s.clk.secs / 3600 } }

/-- ANCHOR_HOURLY: the seconds have passed a multiple of 3600 since the previous hourly anchor (R380). -/
def anchorHourly (s : State) : State :=
  if s.clk.secs / 3600 = s.recd.hourly then s
  else
    let s := pushAnchor 0 s
    { s with recd := { s.recd with hourly := s.clk.secs / 3600 } }

/-! ### Clearing -/

/-- A write of REC_CLR (R389). -/
def recClr (party : Party) (key area : Nat) (s : State) : WrOut :=
  let mine := party.code * 2 + area
  let open_ := s.recd.clrSeq.contains mine
  let off : State := { s with recd := { s.recd with clrSeq := s.recd.clrSeq.filter fun k => k / 2 ≠ party.code } }
  if key = 0x5A17 then .ok { off with recd := { off.recd with clrSeq := mine :: off.recd.clrSeq } }
  else if key = 0xE8A5 ∧ open_ = true ∧ s.recd.clearing = none then
    .ok (setB REC.STAT_CLEARING recPg 0 true { off with recd := { off.recd with clearing := some (area, 0) } })
  else .refuseTo off

/-- One tick of a running clear: 64 slots lose their W15 (R389). -/
def clearTick (s : State) : State :=
  match s.recd.clearing with
  | none => s
  | some (area, n) =>
    let m := Nat.min (n + 64) (areaSize area)
    let t := (areaTab area s).map fun e => if n ≤ e.1 ∧ e.1 < m then (e.1, e.2.set 15 0) else e
    let s := recCount (putArea area (t.filter fun e => e.2 ≠ emptySlot) s)
    { s with recd := { s.recd with clearing := some (area, m) } }

/-- REC_CLEAR_DONE (R389): every slot has been cleared. -/
def clearDone (s : State) : State :=
  match s.recd.clearing with
  | none => s
  | some (area, n) =>
    if n < areaSize area then s
    else
      let s := { s with recd := { s.recd with clearing := none } }
      let s := setIrq recPg 18 (setB REC.STAT_CLEARING recPg 0 false s)
      let s := if area = 1 then setB REC.STAT_KEEP_FULL recPg 0 false s else s
      pushAnchor 3 s

/-! ### Start-up -/

/-- The newest anchor of both areas and the greatest severity of the records after it (R378, R381): what the store itself says of them,
taken up again at a start. -/
def recResume (s : State) : State :=
  let l := (records 0 s ++ records 1 s).map (·.2)
  let at_ := l.foldl (fun a ws => if bitsOf (nthW ws 1) 31 24 = 0x01 then Nat.max a (recSeq ws + 1) else a) 0
  let sev := l.foldl (fun a ws => if at_ ≤ recSeq ws then Nat.max a (recSev ws) else a) 0
  { s with recd := { s.recd with anchorSeq := at_ - 1, sevMax := sev } }

/-- The start-up scan (R387): slots with the mark and a wrong CRC lose their mark; REC_NEXT and the counts follow. -/
def recScan (s : State) : State :=
  let bad (e : Nat × List Word) : Bool := decide (nthW e.2 15 = recMark) && !isRecord e.2
  let scan (area : Nat) (s : State) : State :=
    let n := ((areaTab area s).filter bad).length
    let s := putArea area ((areaTab area s).map fun e => if bad e then (e.1, e.2.set 15 0) else e) s
    forN n (fun _ => incSat REC.BAD_COUNT recPg 0) s
  let s := scan 1 (scan 0 s)
  let top := (records 0 s ++ records 1 s).foldl (fun a e => Nat.max a (recSeq e.2 + 1)) (getW REC.NEXT_SEQ recPg 0 s)
  recResume (recCount (setB REC.STAT_KEEP_FULL recPg 0 (keptFull s) (setF REC.NEXT_SEQ recPg 0 top s)))

/-- One record of the watch transfer (R402), placed in the service area with the severity of its kind in force; whether it was copied. -/
def transferRecord (ws : List Word) (s : State) : State × Bool :=
  let kind := bitsOf (nthW ws 1) 31 24
  placeService ⟨kind, getF REC.RSEV_WATCH recPg 0 s, bitsOf (nthW ws 1) 15 0,
    ((List.range 12).map fun i => (i + 2, nthW ws (i + 2))).filter (fun e => e.2 ≠ 0), 2, 0, 0⟩ s

/-! ### The REC page -/

/-- Offset of REC_CUR. -/
def recCurOff : Nat := 0x160

/-- Area and slot under a party's cursor (R388). -/
def recCursor (party : Party) (s : State) : Nat × Nat :=
  let w := rdParty party (pageAddr recPg recCurOff) s
  (bitsOf w 16 16, bitsOf w 14 0)

/-- The checks of a write to the REC page's block registers. -/
def recWrite (cx : WriteCx) (s : State) : WrOut :=
  if cx.off = 0x144 then
    .ok (if cxBits cx 0 0 = 1 then forN 5 (fun k => clearCount REC.DROP_COUNT recPg k) s else s)
  else if cx.off = 0x14C then
    storeUnless (cxOutside cx 14 12 0 4 || cxOutside cx 10 8 0 4 || cxOutside cx 6 4 0 4 || cxOutside cx 2 0 0 4) cx s
  else if cx.off = recCurOff then storeUnless (decide (areaSize (cxNew cx 16 16) ≤ cxNew cx 14 0)) cx s
  else if cx.off = 0x1C0 then
    if cx.fields = [] then .ok { s with recd := { s.recd with clrSeq := s.recd.clrSeq.filter fun k => k / 2 ≠ cx.party.code } }
    else recClr cx.party (cxBits cx 31 16) (cxBits cx 0 0) s
  else .ok (storeFields cx s)

/-- What the REC page's windows read: the words of the slot under the party's cursor. -/
def recRead (party : Party) (off : Nat) (s : State) : Option Word :=
  if 0x180 ≤ off ∧ off < 0x1C0 then
    let (a, k) := recCursor party s
    some (nthW (slotWords a k s) ((off - 0x180) / 4))
  else none

/-- The hold that a read of REC_WIN0 makes (R388). -/
def recReadHold (party : Party) (off : Nat) (s : State) : State :=
  if off = 0x180 then
    let (a, k) := recCursor party s
    makeHold party ((List.range 15).map fun i => (pageAddr recPg (0x184 + 4 * i), nthW (slotWords a k s) (i + 1))) .anyAccess false s
  else s

/-- A read of REC_WIN15 moves the cursor with AINC = 1 (R388). -/
def recAdvance (party : Party) (off : Nat) (s : State) : State :=
  let a := pageAddr recPg recCurOff
  let w := rdParty party a s
  if off = 0x1BC ∧ bitsOf w 31 31 = 1 then
    let (area, k) := recCursor party s
    wrParty party a (setBits w 14 0 (if k + 1 < areaSize area then k + 1 else 0)) s
  else s

end Sys2Proof.Machine
end

