-- ==== Sys2Proof/Machine/NvsPort.lean ====
section
/-!
DEFINITION. The NV store (R441 to R458): regions, the device state block, image validity, the slipway, image selection at a
supervisor start, profile images, NVS commands, and the NVS page.
-/
namespace Sys2Proof.Machine

/-- Page index of NVS. -/
def nvsPg : Nat := 0x06

/-- NV offset of the running image region (R441). -/
def runImg : Nat := 0x000000
/-- NV offset of the slipway. -/
def slipImg : Nat := 0x200000
/-- NV offset of the fallback image. -/
def backImg : Nat := 0x400000
/-- NV offset of the factory defaults. -/
def factoryImg : Nat := 0x600000
/-- NV offset of the device state block. -/
def stateBlock : Nat := 0x61F000
/-- NV offset of a user profile image: 0 A, 1 B. -/
def profImg (slot : Nat) : Nat := 0x620000 + slot * 0x20000

/-- A word of the NV store by offset; the recorder's areas lie at its end (R441, R382). -/
def nvWord (off : Nat) (s : State) : Word :=
  if off < 0x660000 then rdWord s (nvBase + off)
  else if off < 0x680000 then nthW (slotWords 1 ((off - 0x660000) / 64) s) (off % 64 / 4)
  else nthW (slotWords 0 ((off - 0x680000) / 64) s) (off % 64 / 4)

/-- Puts a word of the NV store outside the recorder's areas. -/
def putNv (off : Nat) (v : Word) (s : State) : State := wrWord s (nvBase + off) v

/-- The word at which an operation's writes stopped (R442, R472): a word that neither attempt could write is left open, and its message is
sent; a falling rail leaves it as it was. -/
def nvStopped (off : Nat) (s : State) : State :=
  if nvCut s then s
  else
    let (v, s) := drawWord s
    nvWriteFail off (putNv off v s)

/-- One word write of an operation. -/
def nvPut (off : Nat) (v : Word) (s : State) : State :=
  if s.nvs.ended then s
  else
    let (k, s) := nvTake 1 s
    if k = 1 then putNv off v s else nvStopped off s

/-- The word writes of an operation, in their order. -/
def nvPuts (ws : List (Nat × Word)) (s : State) : State := ws.foldl (fun a w => nvPut w.1 w.2 a) s

/-- Copies `n` bytes, word by word in ascending order. -/
def nvCopy (src dst n : Nat) (s : State) : State :=
  if s.nvs.ended then s
  else
    let (k, s) := nvTake (n / 4) s
    let s := copyRange (nvBase + src) (nvBase + dst) (4 * k) s
    if k = n / 4 then s else nvStopped (dst + 4 * k) s

/-- Words of the NV store. -/
def nvWords (off n : Nat) (s : State) : List Word := (List.range n).map fun i => nvWord (off + 4 * i) s

/-! ### Device state block (its layout is the model's own, log entry 41) -/

/-- KEYPOL (R446). -/
def keyPol (s : State) : Nat := bitsOf (nvWord (stateBlock + 0x80) s) 0 0
/-- Whether a key slot is programmed: 0 vendor, 1 customer. -/
def keyProgrammed (slot : Nat) (s : State) : Bool := bitAt (nvWord (stateBlock + 0x84) s).toNat slot
/-- MIN_SVN (R447). -/
def minSvn (s : State) : Nat := bitsOf (nvWord (stateBlock + 0x88) s) 7 0
/-- The slipway's state (R448). -/
def slipState (s : State) : Nat := bitsOf (nvWord (stateBlock + 0x8C) s) 2 0
/-- A number of eight words of a key slot, X at 0 and Y at 32. -/
def keyNum (slot k : Nat) (s : State) : Nat :=
  (nvWords (stateBlock + slot * 0x40 + k) 8 s).foldl (fun a w => a * 4294967296 + w.toNat) 0
/-- Puts the slipway's state. -/
def putSlip (st : Nat) (s : State) : State := nvPut (stateBlock + 0x8C) (ofN st) s

/-! ### Supervisor images -/

/-- FWLEN of an image (R443). -/
def imgFwLen (base : Nat) (s : State) : Nat := (nvWord (base + 8 - 4) s).toNat

/-- Whether the header's fixed and zero fields are as they must be (R443, R444). -/
def headerOk (base : Nat) (s : State) : Bool :=
  let w (o : Nat) : Nat := (nvWord (base + o) s).toNat
  decide (w 0 = 0x53570001 ∧ w 4 % 4 = 0 ∧ 4 ≤ w 4 ∧ w 4 ≤ 1044480 ∧ w 0xC < 256 ∧ w 0x10 < 2 ∧ w 0x14 < 65536
    ∧ w 0x18 ≤ 3600 ∧ w 0x1C = 0)
    && (nvWords (base + 0x80) 0x3A0 s ++ nvWords (base + 0xF08) 62 s).all fun v => decide (v = 0)

/-- A 256-bit number of eight words. -/
def nvNum (off : Nat) (s : State) : Nat := (nvWords off 8 s).foldl (fun a w => a * 4294967296 + w.toNat) 0

/-- The first failed condition of an image (R444, NVS_SLIP.CAUSE); 0 for a valid one. -/
def imageCause (base : Nat) (s : State) : Nat :=
  let key := bitsOf (nvWord (base + 0x10) s) 0 0
  if !headerOk base s then 1
  else if nvNum (base + 0x20) s ≠ sha256 (nvWords (base + 0x1000) (imgFwLen base s / 4) s) then 2
  else if !keyProgrammed key s then 4
  else if !ecdsaValid (keyNum key 0 s) (keyNum key 32 s) (sha256 (nvWords base 16 s))
      (nvNum (base + 0x40) s) (nvNum (base + 0x60) s) then 3
  else if keyPol s = 1 ∧ key = 0 then 5
  else if bitsOf (nvWord (base + 0xC) s) 7 0 < minSvn s then 6 else 0

/-- STATE of a region (R443). -/
def regionState (base : Nat) (s : State) : Nat := (nvWord (base + 0xF00) s).toNat
/-- START_CNT of the running header. -/
def startCnt (s : State) : Nat := (nvWord (runImg + 0xF04) s).toNat
/-- Puts STATE of a region. -/
def putRegion (base st : Nat) (s : State) : State := nvPut (base + 0xF00) (ofN st) s

/-- Begins a copy into a region (R450): its STATE is COPYING until the copy's last write. -/
def beginCopy (dst : Nat) (s : State) : State := putRegion dst 1 s

/-- Copies a whole region but its STATE (R450). -/
def copyRegion (src dst : Nat) (s : State) : State :=
  nvCopy (src + 0xF04) (dst + 0xF04) 0x1FF0FC (nvCopy src dst 0xF00 (beginCopy dst s))

/-- Copies the slipway's header, firmware section and the engine slots of its ENGMASK into the running region, all but its state area (R450). -/
def copySlipway (s : State) : State :=
  let mask := bitsOf (nvWord (slipImg + 0x14) s) 15 0
  let part (off n : Nat) (s : State) : State := nvCopy (slipImg + off) (runImg + off) n s
  let s := part 0xF08 0xFF0F8 (part 0 0xF00 (beginCopy runImg s))
  forN 16 (fun n a => if bitAt mask n then part (0x100000 + n * 0x10000) 0x10000 a else a) s

/-- Where image selection ends (R450): the state, and whether an image runs. A write that stops ends the start without one. -/
def restoreImage (cause : Nat) (s : State) : State × Bool :=
  if regionState backImg s = 3 ∧ imageCause backImg s = 0 then
    let s := putRegion runImg 4 (copyRegion backImg runImg s)
    if s.nvs.ended then (s, false)
    else
      let s := setIrq nvsPg 17 (setF NVS.IMG_FB_CAUSE nvsPg 0 cause s)
      (raise 0x00 0xFF kDevImageFallback cause (setB DEV.BOOT_COPY 0 0 true s), true)
  else (s, false)

/-- Rows 2 to 6 of image selection; `fail` is the cause of a probation failure, 0 where none led to this start (R450). -/
def selectRunning (fail : Nat) (s : State) : State × Bool :=
  let st := regionState runImg s
  if fail ≠ 0 then restoreImage fail s
  else if st = 2 ∧ startCnt s = 2 then restoreImage 2 s
  else if st = 2 ∧ startCnt s = 1 ∧ imageCause runImg s = 0 then
    let s := nvPut (runImg + 0xF04) 2 s
    (s, !s.nvs.ended)
  else if (st = 3 ∨ st = 4) ∧ imageCause runImg s = 0 then (s, true)
  else restoreImage 3 s

/-- Image selection at a supervisor start (R450). -/
def selectImage (fail : Nat) (s : State) : State × Bool :=
  if slipState s = 3 then
    let c := imageCause slipImg s
    if c = 0 then
      let s := if regionState runImg s = 3 then putRegion backImg 3 (copyRegion runImg backImg s) else s
      let s := putSlip 5 (putRegion runImg 2 (nvPut (runImg + 0xF04) 1 (copySlipway s)))
      if s.nvs.ended then (s, false) else (setB DEV.BOOT_COPY 0 0 true s, true)
    else
      let s := putSlip 4 s
      if s.nvs.ended then (s, false) else selectRunning fail (setF NVS.SLIP_CAUSE nvsPg 0 c s)
  else selectRunning fail s

/-- PROB_TO of the running header, in s (R443). -/
def probTo (s : State) : Nat :=
  let n := bitsOf (nvWord (runImg + 0x18) s) 11 0
  if n = 0 then 300 else n

/-- A supervisor start: the image is chosen, and probation begins where it runs on probation (R449 to R451). -/
def supervisorRun (fail : Nat) (s : State) : State × Bool :=
  let s := setB DEV.BOOT_COPY 0 0 false s
  let (s, ok) := selectImage fail s
  let prob := if ok ∧ regionState runImg s = 2 then some (usNow s, probTo s * 1000000) else none
  ({ s with nvs := { s.nvs with image := ok, ask := none, prob := prob } }, ok)

/-- Whether the supervisor is on probation now (R451). -/
def onProbation (s : State) : Bool :=
  match s.nvs.prob with
  | some (a, len) => decide (usNow s < a + len)
  | none => false

/-- A confirmation (R447, R451); without probation and outside FALLBACK_RUN it changes nothing. STATE is written last. -/
def confirmImage (s : State) : State :=
  let st := regionState runImg s
  if (st = 2 ∧ onProbation s = true) ∨ st = 4 then
    let svn := bitsOf (nvWord (runImg + 0xC) s) 7 0
    let s := putRegion runImg 3 (nvPut (runImg + 0xF04) 0 (nvPut (stateBlock + 0x88) (ofN (Nat.max (minSvn s) svn)) s))
    if s.nvs.ended then s else setIrq nvsPg 18 { s with nvs := { s.nvs with prob := none } }
  else s

/-- SUP_PROBATION_TIMEOUT: the window ends, and a start with cause 1 is asked for (R451). -/
def supProbEnd (s : State) : State :=
  match s.nvs.prob with
  | none => s
  | some (a, len) =>
    match reachUs (a + len) s with
    | none => s
    | some s => { s with nvs := { s.nvs with prob := none, ask := some 1 } }

/-! ### Profile images -/

/-- Whether an image at an NV offset is valid (R454); `room` is its region's size. -/
def profileOk (base room : Nat) (s : State) : Bool :=
  let w (i : Nat) : Nat := (nvWord (base + 4 * i) s).toNat
  let len := w 2
  decide (w 0 = 0x50524F46 ∧ w 15 = 0x50524F31 ∧ len % 4 = 0 ∧ 64 ≤ len ∧ len ≤ room ∧ 1 ≤ w 1 ∧ w 1 ≤ 0xFFFFFFFE)
    && decide (crc32 (wordBytes (nvWords base 14 s ++ nvWords (base + 64) ((len - 64) / 4) s)) = w 14)

/-- Whether a user profile slot holds a valid image. -/
def slotOk (slot : Nat) (s : State) : Bool := profileOk (profImg slot) 131072 s

/-- GEN of a profile slot. -/
def slotGen (slot : Nat) (s : State) : Nat := (nvWord (profImg slot + 4) s).toNat

/-- Whether a slot holds the image loaded at the last device start (R457). -/
def slotInForce (slot : Nat) (s : State) : Bool :=
  !getB NVS.PROF_NONE nvsPg 0 s && decide (getW NVS.GEN_GEN nvsPg 0 s ≠ 0) && decide (getW NVS.PROF_IN_FORCE nvsPg 0 s = slot)

/-- The slot that is not in force (R457). -/
def otherSlot (s : State) : Nat := 1 - getW NVS.PROF_IN_FORCE nvsPg 0 s

/-- A register entry for every configuration register of a page (R455, R458). -/
def regEntries (p : Nat) (s : State) : List (List Word) :=
  (pageRegs p).flatMap fun d =>
    let m := cfgMask d
    if m = 0 ∨ !onPage p d.base then []
    else (List.range d.count).map fun i =>
      let a := pageAddr p (d.base + d.stride * i)
      let v := d.fields.foldl (fun v f => if f.acc = .rwd then setBits v f.hi f.lo (bitsOf (rdForce s a) f.hi f.lo) else v) (rdReg s a)
      [ofN a, ofN m, ofN (v.toNat &&& m)]

/-- Offset of a page's window data register, and the value of its address register for a word (R455). -/
def winAccess (p area word : Nat) : Option (Nat × Nat) :=
  match pageKind p with
  | some .sns => some (0x3F4, word)
  | some .moi => some (0x314, area * 4096 + word)
  | some .lpa => some (0x38C, area * 4096 + word)
  | some .ldg => some (0x204, area * 4096 + word)
  | some .prf => some (0x304, area * 4096 + word)
  | some .fan => some (0x344, area * 4096 + word)
  | some .can => some (0x144, word / 20 * 32 + word % 20)
  | some .lnk => some (0x144, area * 4096 + word)
  | some .wch => some (0x14C, word)
  | _ => none

/-- Runs of at most `m` consecutive words of one area: area, first word, number (R458). -/
def wordRuns (m : Nat) : List (Nat × Nat) → List (Nat × Nat × Nat) → List (Nat × Nat × Nat)
  | [], acc => acc.reverse
  | (a, w) :: t, [] => wordRuns m t [(a, w, 1)]
  | (a, w) :: t, (b, f, n) :: acc =>
    if a = b ∧ w = f + n ∧ n < m then wordRuns m t ((b, f, n + 1) :: acc) else wordRuns m t ((a, w, 1) :: (b, f, n) :: acc)

/-- The AINC bit of a page's window address register (R455). -/
def aincBit (p : Nat) (a : Nat) : Nat :=
  match pageKind p with
  | some .sns | some .moi | some .lpa | some .ldg | some .prf | some .fan | some .can | some .lnk | some .wch => putBit a 16 true
  | _ => a

/-- The window runs of a page (R458): the words in force. A run of a coefficient window stays within its set, since WORD
wraps there. -/
def winEntries (p : Nat) (s : State) : List (List Word) :=
  (wordRuns (if pageKind p = some .sns then 16 else 64) (battenWords p) []).filterMap fun (a, f, n) =>
    (winAccess p a f).map fun (off, addr) =>
      [ofN (0x40000000 + (n - 1) * 16777216 + pageAddr p off), ofN (aincBit p addr)]
        ++ (List.range n).map fun i => getAct p a (f + i) s

/-- The runs of one word of the severity table in force (R458). -/
def sevEntries (s : State) : List (List Word) :=
  kindRows.map fun r => [ofN (0x40000000 + pageAddr 0x02 0x164), ofN r.code, sevEntry r.code s]

/-- The LOCK entries of the locked pages (R458). -/
def lockEntries (s : State) : List (List Word) :=
  (List.range 64).filterMap fun p =>
    if (pageKind p).isSome ∧ getB CMN.LOCK_LOCKED p 0 s = true then
      some [ofN (pageAddr p 0x24), 0x0000FFFF, 0x00007A3C]
    else none

/-- The image of a capture (R454, R458). -/
def captureImage (gen : Nat) (s : State) : List Word :=
  let pages := (List.range 64).filter fun p => (pageKind p).isSome
  let es := pages.flatMap (fun p => regEntries p s) ++ pages.flatMap (fun p => winEntries p s) ++ sevEntries s ++ lockEntries s
  let body := es.flatten
  let ridge := getPair digPg 0x100 s
  let head := [0x50524F46, ofN gen, ofN (64 + 4 * body.length), ofN es.length, ofN (ridge / 4294967296), ofN ridge,
    ofN s.time.tick, 1, 0, 0, 0, 0, 0, 0]
  head ++ [ofN (crc32 (wordBytes (head ++ body))), 0x50524F31] ++ body

/-! ### Commands -/

/-- Whether the recovery state is in force (R481). -/
def inRecovery (s : State) : Bool := getB DEV.BOOT_NOIMG 0 0 s

/-- Whether a command's own condition fails (R446, R448, R453, R457, R481). -/
def nvsBad (cmd eng : Nat) (s : State) : Bool :=
  let p := engPg eng
  decide (cmd = 0 ∨ 10 < cmd)
    || (inRecovery s && !decide (cmd = 1 ∨ cmd = 2 ∨ cmd = 3 ∨ cmd = 6))
    || (decide (cmd = 2) && decide (slipState s ≠ 2))
    || (decide (cmd = 3) && decide (slipState s ≠ 3))
    || (decide (cmd = 5) && (getB ENG.STAT_NOPROG p 0 s || (engSt s eng).req.isSome || (engSt s eng).prob.isSome
        || (engSt s eng).ret.isSome || decide (regionState runImg s = 1)))
    || (decide (cmd = 8) && keyProgrammed 1 s)
    || (decide (cmd = 9) && !keyProgrammed 1 s)

/-- A write of NVS_CMD (R467). SUP_RESTART and PROB_REJECT ask for a supervisor start. -/
def nvsCommand (key cmd eng : Nat) (s : State) : WrOut :=
  if decide (key ≠ 0x4E56) || s.nvs.cmd.isSome || getB NVS.STAT_SUPSTART nvsPg 0 s || nvsBad cmd eng s then .refuse
  else
    let image : Option (List Word) :=
      if cmd = 5 then some (rdWords s (runBank eng s) (imgLen (runBank eng s) s / 4))
      else if cmd = 8 then some ((List.range 16).map fun w => rdReg s (pageAddr nvsPg (0x140 + 4 * w)))
      else none
    let ask := if cmd = 6 then some 0 else if cmd = 7 ∧ onProbation s = true then some 4 else s.nvs.ask
    let s := { s with nvs := { s.nvs with
      cmd := some ⟨cmd, eng, image⟩, ask := ask, prob := if cmd = 7 ∧ onProbation s = true then none else s.nvs.prob } }
    let s := if cmd = 4 ∨ cmd = 10 then putNv (profImg (otherSlot s) + 60) 0 s else s
    .ok (setB NVS.STAT_BUSY nvsPg 0 true (setF NVS.CSTAT_CMD nvsPg 0 cmd (setF NVS.CSTAT_RESULT nvsPg 0 0 s)))

/-- The capture of SAVE_PROFILE at a boundary, after step 2 of R41 (R458). -/
def nvsCapture (s : State) : State :=
  match s.nvs.cmd with
  | some c =>
    if c.code = 4 ∧ c.image = none then
      { s with nvs := { s.nvs with cmd := some { c with image := some (captureImage (getW NVS.GEN_GEN nvsPg 0 s + 1) s) } } }
    else s
  | none => s

/-- The end of a command (R467): its outcome in NVS_CSTAT. -/
def nvsOutcome (result : Nat) (s : State) : State :=
  let s := { s with nvs := { s.nvs with cmd := none } }
  setIrq nvsPg 16 (setB NVS.STAT_BUSY nvsPg 0 false (setF NVS.CSTAT_RESULT nvsPg 0 result s))

/-- The word writes of a command, in their order: a mark or state word comes last (R442, R446, R448, R453, R457, R458). -/
def nvsWrites (c : NvsCmd) (s : State) : List (Nat × Word) :=
  let at_ (base : Nat) (ws : List Word) : List (Nat × Word) := ws.zipIdx.map fun w => (base + 4 * w.2, w.1)
  let words := c.image.getD []
  let slip := stateBlock + 0x8C
  let prof := profImg (otherSlot s)
  if c.code = 1 then [(slip, if imageCause slipImg s = 0 then 2 else 4)]
  else if c.code = 2 then [(slip, 3)]
  else if c.code = 3 then [(slip, 2)]
  else if c.code = 4 then
    let ws := at_ prof words
    (ws.filter fun w => w.1 ≠ prof + 60) ++ ws.filter fun w => w.1 = prof + 60
  else if c.code = 5 then at_ (runImg + 0x100000 + c.eng * 0x10000) words
  else if c.code = 8 then
    at_ (stateBlock + 0x40) words ++ [(stateBlock + 0x84, ofN (putBit (nvWord (stateBlock + 0x84) s).toNat 1 true))]
  else if c.code = 9 then [(stateBlock + 0x80, 1)]
  else if c.code = 10 then [(prof + 60, 0)]
  else []

/-- What a command writes when it ends, and its outcome: VERIFY judges the slipway's image (R448). -/
def nvsFinish (c : NvsCmd) (s : State) : State :=
  let cause := if c.code = 1 then imageCause slipImg s else 0
  let s := nvPuts (nvsWrites c s) s
  if s.nvs.ended then nvsOutcome 2 s
  else if c.code = 1 then nvsOutcome (if cause = 0 then 1 else 3) (setF NVS.SLIP_CAUSE nvsPg 0 cause s)
  else nvsOutcome 1 s

/-- Where a command's writes stop for a word at an NV offset that neither attempt could write; nowhere if it writes no such word. -/
def stopAt (failed : Option Nat) (c : NvsCmd) (s : State) : Option NvStop :=
  failed.bind fun off => ((nvsWrites c s).findIdx? fun w => w.1 = off).map fun k => ⟨k, false⟩

/-- NVS_COMMAND_DONE (R442, R467): a word that could not be written ends the command failed, with the words before it written. A save ends only
once its capture was made; SUP_RESTART and PROB_REJECT of a supervisor on probation end with their supervisor start. -/
def nvsDone (failed : Option Nat) (s : State) : State :=
  match s.nvs.cmd with
  | none => s
  | some c =>
    if (c.code = 4 ∧ c.image = none) ∨ (s.nvs.ask.isSome ∧ (c.code = 6 ∨ c.code = 7)) ∨ getB NVS.STAT_SUPSTART nvsPg 0 s = true then s
    else withStop (stopAt failed c s) (nvsFinish c) s

/-! ### The NVS page -/

/-- Offset of NVS_ADDR. -/
def nvsAddrOff : Nat := 0x100

/-- The NV offset that a party's NVS_ADDR names. -/
def nvsOffset (party : Party) (s : State) : Nat := bitsOf (rdParty party (pageAddr nvsPg nvsAddrOff) s) 22 0

/-- Whether a window write of the NV store is applied (R441, R448, R457, R466). -/
def nvWritable (off : Nat) (party : Party) (s : State) : Bool :=
  (decide (party = .sup) || decide (getF CMN.OWN_OWNER nvsPg 0 s = party.code)) &&
  (if slipImg ≤ off ∧ off < backImg then decide (slipState s ≠ 3) && s.nvs.cmd.isNone
  else if profImg 0 ≤ off ∧ off < 0x660000 then !slotInForce ((off - profImg 0) / 0x20000) s
  else false)

/-- A write of NVS_DATA (R442, R448, R457). A write to the slipway makes it LOADED, whether or not its word could be written. -/
def nvDataWrite (party : Party) (v : Word) (s : State) : WrOut :=
  let off := nvsOffset party s
  if nvWritable off party s then
    let s := nvPut off v (if slipImg ≤ off ∧ off < backImg then putNv (stateBlock + 0x8C) 1 s else s)
    if s.nvs.ended then .refuseTo s else .ok s
  else .refuse

/-- The checks and effects of a write to the NVS page's block registers. -/
def nvsWrite (cx : WriteCx) (s : State) : WrOut :=
  if cx.off = nvsAddrOff then storeUnless (decide (cxNew cx 22 0 % 4 ≠ 0)) cx s
  else if cx.off = 0x104 then nvDataWrite cx.party cx.data s
  else if cx.off = 0x108 then
    if decide (cx.party = .sup) || decide (getF CMN.OWN_OWNER nvsPg 0 s = cx.party.code) then
      nvsCommand (cxBits cx 31 16) (cxBits cx 3 0) (cxBits cx 11 8) s
    else .refuse
  else if cx.off = 0x11C then
    if cxBits cx 31 31 = 0 then .ok s else if cx.party = .sup then
      let s := confirmImage s
      if s.nvs.ended then .refuseTo s else .ok s
    else .refuse
  else .ok (storeFields cx s)

/-- What the NVS page's registers read where they show computed state. -/
def nvsRead (party : Party) (off : Nat) (s : State) : Option Word :=
  if off = 0x104 then some (nvWord (nvsOffset party s) s)
  else if off = 0x110 then some (setBits (rdReg s (pageAddr nvsPg off)) 2 0 (slipState s))
  else if off = 0x114 then
    some (ofN (minSvn s * 16777216 + bitsOf (nvWord (runImg + 0xC) s) 7 0 * 65536
      + getW NVS.IMG_FB_CAUSE nvsPg 0 s * 16 + regionState runImg s % 16))
  else if off = 0x118 then some (nvWord (runImg + 8) s)
  else if off = 0x11C then
    let left := match s.nvs.prob with
      | some (a, len) => (a + len - usNow s) / 1000000
      | none => 0
    some (ofN (left * 65536 + startCnt s % 4))
  else if off = 0x120 then
    some (setBits (setBits (rdReg s (pageAddr nvsPg off)) 1 1 (b2n (slotOk 0 s))) 2 2 (b2n (slotOk 1 s)))
  else if off = 0x12C then some (ofN (keyPol s * 4 + b2n (keyProgrammed 1 s) * 2 + b2n (keyProgrammed 0 s)))
  else none

/-- OFFSET advances by 4 after an access to NVS_DATA with AINC = 1 (R504). -/
def nvsAdvance (party : Party) (s : State) : State :=
  let a := pageAddr nvsPg nvsAddrOff
  let w := rdParty party a s
  if bitsOf w 31 31 = 1 then wrParty party a (setBits w 22 0 (bitsOf w 22 0 + 4)) s else s

end Sys2Proof.Machine
end

