-- ==== Sys2Proof/Machine/PwrPort.lean ====
section
/-!
DEFINITION. The DEV and PWR pages (R469 to R501): software reset sequence, mode requests, rails, temperatures and VFIELD windows.
-/
namespace Sys2Proof.Machine

/-- Page index of PWR. -/
def pwrPg : Nat := 0x36

/-! ### DEV -/

/-- A write of DEV_SWRST (R500): the first key opens the party's sequence, the second, as its next write, asks for the reset, which
begins once the command that made the write has ended. -/
def swrstWrite (party : Party) (key : Nat) (s : State) : WrOut :=
  let open_ := s.pwr.swrst.contains party.code
  let s' : State := { s with pwr := { s.pwr with swrst := s.pwr.swrst.erase party.code } }
  if party ≠ .sup ∧ party ≠ .host then .refuse
  else if key = 0xA5C3 then .ok { s' with pwr := { s'.pwr with swrst := party.code :: s'.pwr.swrst } }
  else if key = 0x3C5A ∧ open_ = true then .ok { s' with pwr := { s'.pwr with causes := putBit s'.pwr.causes 4 true } }
  else .refuseTo s'

/-- The checks and effects of a write to the DEV page's block registers. -/
def devWrite (cx : WriteCx) (s : State) : WrOut :=
  if cx.off = 0x110 then
    if cx.fields = [] then .ok { s with pwr := { s.pwr with swrst := s.pwr.swrst.erase cx.party.code } }
    else swrstWrite cx.party (cxBits cx 31 16) s
  else if cx.off = 0x11C then 
    .ok (if cxBits cx 0 0 = 1 then
      clearCount DEV.BRIDGE_CA_RETRY 0 0 (clearCount DEV.BRIDGE_CA_FAIL 0 0
        (clearCount DEV.BRIDGE_CP_RETRY 0 0 (clearCount DEV.BRIDGE_CP_FAIL 0 0 s)))
    else s)
  else .ok (storeFields cx s)

/-- What the DEV page's registers read where the device itself fixes them. -/
def devRead (off : Nat) : Option Word :=
  if off = 0x104 then some (Config.uid 0) else if off = 0x108 then some (Config.uid 1) else none

/-- The hold of DEV_UID_LO (R499). -/
def devReadHold (party : Party) (off : Nat) (s : State) : State :=
  if off = 0x104 then makeHold party [(pageAddr 0 0x108, Config.uid 1)] (.onPage 0) true s else s

/-! ### Modes -/

/-- The mode that PWR_STAT shows. -/
def pwrMode (s : State) : Nat := getW PWR.STAT_MODE pwrPg 0 s

/-- Whether HALT holds CTRL.RUN of the pages that it stops (R484): in HALT and STANDBY, and until a change from them has ended. -/
def haltForce (s : State) : Bool :=
  let m := pwrMode s
  decide (m = 1 ∨ m = 2) ||
    (decide (m = 4) && (match s.pwr.req with
      | some (r, _) => decide (r = 2 ∨ r = 3) || s.pwr.standby
      | none => false))

/-- Whether HALT stops a page (R484). -/
def haltPage (p : Nat) : Bool :=
  match pageKind p with
  | none => false
  | some .can | some .wch => false
  | some _ => !alwaysRun p

/-- Whether a mode change is permitted (R483). -/
def modeChange (m r : Nat) : Bool :=
  decide ((m = 0 ∧ r = 1) ∨ (m = 1 ∧ r = 0) ∨ (m = 1 ∧ r = 2) ∨ (m = 2 ∧ r = 1) ∨ (m = 1 ∧ r = 3) ∨ (m = 2 ∧ r = 3))

/-- A mode request (R483). -/
def modeRequest (key req : Nat) (s : State) : WrOut :=
  if key ≠ 0x504D ∨ modeChange (pwrMode s) req = false ∨ s.pwr.req.isSome = true ∨ getB NVS.STAT_BUSY nvsPg 0 s = true then .refuse
  else .ok (setF PWR.STAT_MODE pwrPg 0 4 { s with pwr := { s.pwr with req := some (req, s.time.ticks), begun := false } })

/-- SUP records the running pages and stops them (R484). -/
def haltEntry (s : State) : State :=
  let on := (List.range 64).filter fun p => haltPage p && getB CMN.CTRL_RUN p 0 s
  let word (h : Nat) : Word := ofN (maskOf 32 fun i => on.contains (32 * h + i))
  let s := wrReg (wrReg s (pageAddr pwrPg 0x128) (word 0)) (pageAddr pwrPg 0x12C) (word 1)
  on.foldl (fun a p => putRun p false a) s

/-- Whether HALT stopped a page. -/
def haltRecorded (p : Nat) (s : State) : Bool :=
  bitAt (rdReg s (pageAddr pwrPg (0x128 + 4 * (p / 32)))).toNat (p % 32)

/-- SUP runs the recorded pages again (R484). -/
def haltReturn (s : State) : State :=
  let s := forN 64 (fun p a => if haltPage p && haltRecorded p a then putRun p true a else a) s
  wrReg (wrReg s (pageAddr pwrPg 0x128) 0) (pageAddr pwrPg 0x12C) 0

/-- The boundary at which a mode request takes effect (R483 to R485). -/
def modeBoundary (s : State) : State :=
  match s.pwr.req with
  | none => s
  | some (r, _) =>
    if s.pwr.begun then s
    else
      let s := { s with pwr := { s.pwr with begun := true } }
      if r = 1 ∧ s.pwr.standby = false then haltEntry s
      else if r = 0 then haltReturn s
      else s

/-- A requested mode is in force (R483). -/
def modeInForce (m : Nat) (s : State) : State :=
  setIrq pwrPg 18 (setF PWR.STAT_MODE pwrPg 0 m { s with pwr := { s.pwr with req := none, begun := false } })

/-! ### Rails, temperatures and VFIELD -/

/-- The rail readings of a tick (R501). -/
def railsUpdate (r : RailMv) (s : State) : State :=
  wrReg (wrReg s (pageAddr pwrPg 0x108) (ofN (r.vdda.toNat * 65536 + r.vddc.toNat)))
    (pageAddr pwrPg 0x10C) (ofN (r.vfield.toNat * 65536 + r.vddio.toNat))

/-- The boundary clears MAX where PWR_TCLR asked for it (R501). -/
def maxClear (s : State) : State :=
  if s.pwr.tclr then setF PWR.TEMP1_MAX pwrPg 0 0x8000 { s with pwr := { s.pwr with tclr := false } } else s

/-- The low 16 bits of a signed number. -/
def bits16 (i : Int) : Nat := (i % 65536).toNat

/-- The die temperatures of a tide and the warning episode (R490). -/
def tideTemps (t : DieTemps) (s : State) : State :=
  let s := setF PWR.TEMP0_A_DIE pwrPg 0 (bits16 t.aDie) (setF PWR.TEMP0_C_DIE pwrPg 0 (bits16 t.cDie)
    (setF PWR.TEMP1_P_DIE pwrPg 0 (bits16 t.pDie) s))
  let top := Max.max t.aDie (Max.max t.cDie t.pDie)
  let s := setF PWR.TEMP1_MAX pwrPg 0 (bits16 (Max.max top (getI PWR.TEMP1_MAX pwrPg 0 s))) s
  let warn := getI PWR.TWARN_TWARN pwrPg 0 s
  if getB PWR.STAT_TWARN_EP pwrPg 0 s then
    if top < warn - 500 then setB PWR.STAT_TWARN_EP pwrPg 0 false s else s
  else if warn ≤ top then setIrq pwrPg 16 (setB PWR.STAT_TWARN_EP pwrPg 0 true s)
  else s

/-- VFIELD_WINDOW (R473): the outputs follow through their governance. -/
def vfieldWindow (high active : Bool) (s : State) : State :=
  let was := if high then getB PWR.STAT_VF_OV pwrPg 0 s else getB PWR.STAT_VF_UV pwrPg 0 s
  let s := if high then setB PWR.STAT_VF_OV pwrPg 0 active s else setB PWR.STAT_VF_UV pwrPg 0 active s
  if active && !was then setIrq pwrPg 17 s else s

/-! ### PWR registers -/

/-- The checks and effects of a write to the PWR page's block registers. -/
def pwrWrite (cx : WriteCx) (s : State) : WrOut :=
  if cx.off = 0x100 then
    if cx.fields = [] then .ok s else modeRequest (cxBits cx 31 16) (cxBits cx 1 0) s
  else if cx.off = 0x118 then
    .ok (if cxBits cx 0 0 = 1 then { s with pwr := { s.pwr with tclr := true } } else s)
  else if cx.off = 0x11C then storeUnless (cxOutside cx 15 0 0 15000) cx s
  else .ok (storeFields cx s)

end Sys2Proof.Machine
end

