-- ==== Sys2Proof/Machine/SensePins.lean ====
section
/-!
DEFINITION. What the sense balls carry (R69 to R80, R94, R97, R126, R133): excitation, reference, pull current, bias, test tone, clamp
window, mux value and repeater level, each as the settings and the phase of the present tick make it.
-/
namespace Sys2Proof.Machine

/-- Whether a sense page converts: running, with its domain on. -/
def snsOn (p : Nat) (s : State) : Bool := running p s

/-- Whether a channel converts. -/
def chOn (c : Nat) (s : State) : Bool := snsOn (snsPage c) s && getB SNS.CH_CFG_EN (snsPage c) (c % 16) s

/-! ### Excitation -/

/-- Page and local number of excitation pair `j` (R67). -/
def excPage (j : Nat) : Nat := 0x10 + j / 8

/-- What an excitation pair drives (R75): nothing, a current in nA out of EXC[j], or EXC[j] and the return ball in mV. -/
inductive ExcDrive
  | highZ
  | current (nA : Int)
  | voltage (exc ret : Nat)
  deriving DecidableEq, Repr

/-- Level of a current excitation in nA (R75). -/
def excLevel (lvl : Nat) : Nat := nthN [10000, 25000, 50000, 100000, 250000, 500000, 1000000] lvl

/-- Whether the excitation of a pair alternates (R76). -/
def excAlternates (j : Nat) (s : State) : Bool :=
  snsOn (excPage j) s && decide (getF SNS.EXC_MODE (excPage j) (j % 8) s ≠ 0) && getB SNS.EXC_ALT (excPage j) (j % 8) s

/-- Whether the excitation of a pair is positive: always without alternation, else from gap A to gap B (R76, R79). -/
def excPositive (j : Nat) (s : State) : Bool := !excAlternates j s || decide (s.time.phase < 52)

/-- What a pair drives in a mode, at a LEVEL code and a polarity (R75, R76). -/
def excOf (mode lvl : Nat) (pos : Bool) : ExcDrive :=
  if mode = 0 then .highZ
  else if mode = 1 then .current (if pos then (excLevel lvl : Int) else -(excLevel lvl : Int))
  else if pos then .voltage 2900 400 else .voltage 400 2900

/-- What pair `j` drives now (R75, R76, R103). Its fields are RWS, so a level stands from one gap A to the next. -/
def excDrive (j : Nat) (s : State) : ExcDrive :=
  if snsOn (excPage j) s then
    excOf (getF SNS.EXC_MODE (excPage j) (j % 8) s) (getF SNS.EXC_LEVEL (excPage j) (j % 8) s) (excPositive j s)
  else .highZ

/-- The return ball of pair `j` (R74): its channel, and whether it is the ball AINP of that channel. -/
def excReturn (j : Nat) (s : State) : Nat × Bool :=
  let ret := getF SNS.EXC_RET (excPage j) (j % 8) s
  (2 * j + b2n (decide (ret = 1 ∨ ret = 2)), decide (ret = 1 ∨ ret = 3))

/-! ### Reference -/

/-- Whether a channel measures against the bank's reference (R69): REF_SEL = 1, which has no effect on range code 10. -/
def usesRef (c : Nat) (s : State) : Bool :=
  getB SNS.CH_CFG_REF_SEL (snsPage c) (c % 16) s && decide ((snsCh s c).range ≤ 9)

/-- The voltage in µV between a channel's reference inputs in the two half-cycles, of `pos` and `neg` between REFPb and REFNb: the
internal 2.5 V, or the bank's reference, whose inputs are swapped with an alternating excitation of the channel's own pair (R71). -/
def sliceRef (c : Nat) (pos neg : Int) (s : State) : Int × Int :=
  if usesRef c s then (pos, if excAlternates (c / 2) s then -neg else neg) else (2500000, 2500000)

/-- Whether the difference of a reference lies outside 0.4 V to 2.9 V in a frame (R73). The monitor sees the size of the difference, as
an alternating excitation gives it either sign (log entry 93). -/
def refBad (pos neg : Int) : Bool :=
  decide (pos < 400000 ∨ 2900000 < pos ∨ neg.natAbs < 400000 ∨ 2900000 < neg.natAbs)

/-! ### The balls of a channel -/

/-- Whether the pull current of 1 µA flows from VDDA into AINcP and out of AINcN (R80): in gaps A and B of an enabled slice. -/
def pullOn (c : Nat) (s : State) : Bool :=
  chOn c s && getB SNS.CH_CFG_BREAK_EN (snsPage c) (c % 16) s && [0, 1, 52, 53].contains s.time.phase

/-- Whether both inputs of a channel are tied to 1.65 V through 10 MΩ (R72). -/
def biasTied (c : Nat) (s : State) : Bool := getB SNS.CH_CFG_BIAS_EN (snsPage c) (c % 16) s

/-- Nominal tone current in nA (R126). -/
def toneNa (lvl : Nat) : Nat := if lvl = 0 then 10 else if lvl = 1 then 100 else 1000

/-- The tone current in nA into AINcP and out of AINcN: positive in frames of even tick count (R126). -/
def toneNow (c : Nat) (s : State) : Int :=
  let p := snsPage c
  let r := (snsCh s c).range
  if chOn c s && getB SNS.CH_DIAG_TONE_EN p (c % 16) s && decide (2 ≤ r ∧ r ≤ 9) then
    let i : Int := toneNa (getF SNS.CH_DIAG_TONE_LVL p (c % 16) s)
    if s.time.tick % 2 = 0 then i else -i
  else 0

/-- The clamp window of a channel's balls in mV, for VDDA in mV, whether or not the channel is enabled (R94). -/
def clampWindow (vdda : Int) (c : Nat) (s : State) : Int × Int :=
  if (snsCh s c).range ≤ 1 then (-12500, 12500) else (-300, vdda + 300)

/-! ### Outputs -/

/-- What a bank drives on MXS (R97, R98). -/
def mxsOut (b : Nat) (s : State) : Nat :=
  let p := 0x10 + b / 2
  if snsOn p s && muxEn b s then getF SNS.BK_STAT_MXS p (b % 2) s else 0

/-- The level of ball RPTn: low with MODE = 0, a stopped page or an unpowered domain (R133). -/
def rptLevel (n : Nat) (s : State) : Bool :=
  running 0x38 s && decide (getF RPT.OUT_CFG_MODE 0x38 n s ≠ 0) && (rptOut s n).level

end Sys2Proof.Machine
end

