-- ==== Sys2Proof/Machine/SenseCore.lean ====
section
/-!
DEFINITION. The sense slices at work (chapters 3 and 4): tick values, notch chain, conversions, range changes, mux
sequencers, episodes, landing of results, tone windows and repeater outputs.
-/
namespace Sys2Proof.Machine

/-! ### Stage D1, H and T -/

/-- `n (n + 1) / 2` for `0 ≤ n`, else 0. -/
def triNum (n : Int) : Int := if n < 0 then 0 else n * (n + 1) / 2

/-- Coefficient `j` of three cascaded boxcars of 25 samples (D1). -/
def sinc3 (j : Int) : Int := triNum (j + 1) - 3 * triNum (j - 24) + 3 * triNum (j - 49) - triNum (j - 74)

/-- Weight of sample `i` of a half-cycle: the sum of the kernels that end on samples 72, 97, …, 247 (R503). -/
def halfWeight (i : Nat) : Int :=
  (List.range 8).foldl (fun (a : Int) (m : Nat) =>
    let j : Int := 72 + 25 * (m : Int) - (i : Int)
    a + (if 0 ≤ j ∧ j ≤ 72 then sinc3 j else 0)) 0

/-- The weighted sum of a half-cycle's samples; the weights add up to 125 000. -/
def halfSum (l : List Int) : Int :=
  (List.range 250).foldl (fun a i => a + halfWeight i * nthI l i) 0

/-- The unclipped tick value: (H+ − H−) / 2, each half-cycle against its reference in µV, scaled to codes and rounded once (R69, R71,
R503). With 2.5 V in both half-cycles it is the difference of the half sums over 64 000 000. Against a reference of 0 the ratio does not
exist, and the value is `free`. -/
def rawTick (ref : Int × Int) (x : SliceIn) (free : Int) : Int :=
  let d := ref.1 * ref.2
  let n := (halfSum x.pos * ref.2 - halfSum x.neg * ref.1) * 2500000
  if d = 0 then free else divAway (if d < 0 then -n else n) (64000000 * d.natAbs)

/-- A code limited to ±8 388 607 (R81). -/
def clipCode (v : Int) : Int := clampI (-8388607) 8388607 v

/-- The tick value and whether the frame is clipped (R81). An overload clips by the sign of the value; where that is 0 the spec names no
sign, and the model takes +8 388 607 (log entry 94). -/
def tickValue (ref : Int × Int) (x : SliceIn) (free : Int) : Int × Bool :=
  let v := rawTick ref x free
  if x.ovlPos.isSome ∨ x.ovlNeg.isSome then (if v < 0 then -8388607 else 8388607, true)
  else (clipCode v, decide (clipCode v ≠ v))

/-! ### Stage N -/

/-- A, B, P, Q of the sixteen sections in units of 2^−32, each computed from its definition in R84 and rounded once. -/
def notchCoefs : List (Int × Int × Int × Int) := [
  (8454756587, 4167084645, 581533514, -1290949680),
  (8454627443, 4167084645, 568616291, -1265115233),
  (8454496996, 4167084645, 556082735, -1240048121),
  (8454365245, 4167084645, 543917801, -1215718252),
  (8451926022, 4167084645, 381913919, -891710490),
  (8451770807, 4167084645, 374476418, -876835488),
  (8451614288, 4167084645, 367223314, -862329279),
  (8451456466, 4167084645, 360148560, -848179772),
  (8435392446, 4167084645, 94694295, -317271241),
  (8435133054, 4167084645, 93103922, -314090496),
  (8434872361, 4167084645, 91537287, -310957225),
  (8434610367, 4167084645, 89993918, -307870487),
  (8424002549, 4167084645, 45821615, -219525882),
  (8423691158, 4167084645, 44903573, -217689798),
  (8423378468, 4167084645, 43996959, -215876569),
  (8423064480, 4167084645, 43101584, -214085819)]

/-- One section: new state and output, in units of 2^−32 of a code (R84). -/
def notchSection (k : Int × Int × Int × Int) (st : Int × Int × Int × Int) (x : Int) : (Int × Int × Int × Int) × Int :=
  let (a, b, p, q) := k
  let (x1, x2, e1, e2) := st
  let e := divAway (a * e1 - b * e2 + p * (x - x2) + q * (x1 - x2)) 4294967296
  ((x, x1, e, e1), x + e)

/-- The cascade of sections. -/
def notchChain : List (Int × Int × Int × Int) → List (Int × Int × Int × Int) → Int →
    List (Int × Int × Int × Int) × Int
  | k :: ks, st :: sts, x =>
    let (st', y) := notchSection k st x
    let (rest, out) := notchChain ks sts y
    (st' :: rest, out)
  | _, _, x => ([], x)

/-- A chain preset to a tick value: the steady state of a constant input (R86). -/
def notchPreset (v : Int) : List (Int × Int × Int × Int) :=
  List.replicate 16 (v * 4294967296, v * 4294967296, 0, 0)

/-- One tick of the chain: its state, its rounded, clipped output, and whether that was clipped; an empty state is preset first
(R84, R86). -/
def notchStep (st : List (Int × Int × Int × Int)) (v : Int) : List (Int × Int × Int × Int) × Int × Bool :=
  let st := if st = [] then notchPreset v else st
  let (st', y) := notchChain notchCoefs st (v * 4294967296)
  let y := divAway y 4294967296
  (st', clipCode y, decide (clipCode y ≠ y))

/-- Every stored value times FS_old / FS_new = 2^(new − old) (R92). -/
def notchRescale (old new : Nat) (st : List (Int × Int × Int × Int)) : List (Int × Int × Int × Int) :=
  let f (v : Int) : Int := if old ≤ new then v * 2 ^ (new - old) else divAway v (2 ^ (old - new))
  st.map fun (x1, x2, e1, e2) => (f x1, f x2, f e1, f e2)

/-! ### Sequencer -/

/-- The lowest set bit of a mask at or above `q`, searching `n` bits. -/
def bitFrom (mask : Nat) : Nat → Nat → Option Nat
  | 0, _ => none
  | n + 1, q => if bitAt mask q then some q else bitFrom mask n (q + 1)

/-- First point of a mask (R98). -/
def firstPoint (mask : Nat) : Nat := (bitFrom mask 16 0).getD 0

/-- The point after `q` in a mask, and whether the pass is complete (R98, R101). -/
def nextPoint (mask q : Nat) : Nat × Bool :=
  match bitFrom mask 16 (q + 1) with
  | some r => if r < 16 then (r, false) else (firstPoint mask, true)
  | none => (firstPoint mask, true)

/-- Length of a dwell in ticks (R98). -/
def dwellLen (b : Nat) (s : State) : Nat :=
  let p := 0x10 + b / 2
  let l := b % 2
  getF SNS.BK_MUX_SETTLE p l s + getF SNS.BK_MUX_CONV p l s * 2 ^ getF SNS.BK_MUX_MUX_RATE p l s

/-- The point that a channel converts now. -/
def pointNow (c : Nat) (s : State) : Nat := if muxEn (c / 8) s then (snsBank s (c / 8)).point else 0

/-- Whether a conversion of the channel ends with the present tick, at the boundary into tick count `n` (R82, R89, R99). -/
def endsAt (c n : Nat) (s : State) : Bool :=
  let b := c / 8
  let k := rateOf c s
  if muxEn b s then
    let bk := snsBank s b
    let settle := getF SNS.BK_MUX_SETTLE (0x10 + b / 2) (b % 2) s
    bk.seq && decide (settle ≤ bk.pos) && decide ((bk.pos + 1 - settle) % 2 ^ k = 0)
      && (!chOn c s || decide ((snsCh s c).enTick + 2 ^ k ≤ s.time.ticks + 1))
  else decide (n % 2 ^ k = 0) && (!chOn c s || decide ((snsCh s c).notBefore ≤ n ∨ s.time.adopt.isSome))

/-- Length of a settle period (R93). -/
def settleLen (c : Nat) (s : State) : Nat := if getB SNS.CH_CFG_NOTCH_EN (snsPage c) (c % 16) s then 1152 else 1

/-! ### The tick frame -/

/-- Sends a message stamped at an earlier phase of this tick (R55, R125). -/
def raiseAt (ph page inst kind addr : Nat) (s : State) : State :=
  let t := s.time
  let s := raise page inst kind addr { s with time := { t with phase := ph, cycle := 0 } }
  { s with time := t }

/-- The phase at which a frame is known to be a break frame (R123): the comparator trips at the end of a gap, and the half-cycle that follows
trips the overload detector. `en`: BREAK_EN. -/
def gapBreak (en : Bool) (range : Nat) (x : SliceIn) : Option Nat :=
  if en && decide (2 ≤ range ∧ range ≤ 9) then
    match x.brkA, x.ovlPos, x.brkB, x.ovlNeg with
    | true, some ph, _, _ => some ph
    | _, _, true, some ph => some ph
    | _, _, _, _ => none
  else none

/-- Break detection of one frame of a channel (R123). -/
def breakPhase (c : Nat) (range : Nat) (x : SliceIn) (s : State) : Option Nat :=
  gapBreak (getB SNS.CH_CFG_BREAK_EN (snsPage c) (c % 16) s) range x

/-- The first break frame of an episode (R125). -/
def beginBreak (c loc ph : Nat) (s : State) : State :=
  let l := snsLoc s loc
  if l.brkEp then s
  else
    let s := putLoc loc { l with brkEp := true } s
    let s := setIrq (snsPage c) 20 (setSeen SNS.CH_DIAG_BRK_SEEN (snsPage c) (c % 16) s)
    raiseAt ph (snsPage c) 0x12 kSnsWireBreak loc s

/-- Local CM index of a privileged channel (R130). -/
def cmIndex (c : Nat) : Option Nat :=
  if c < 32 ∧ c % 8 < 2 then some (2 * (c % 16 / 8) + c % 8) else none

/-- The common-mode window of one frame; an episode begins or ends with the end of the frame, at the next boundary (R130, R131). -/
def cmFrame (c loc : Nat) (x : SliceIn) (s : State) : State :=
  match cmIndex c with
  | none => s
  | some k =>
    let p := snsPage c
    let s := setF SNS.CH_DIAG_CM_MEAS p (c % 16) ((divAway (x.cm0 + x.cm1) 2) % 65536).toNat s
    let hi := signed 16 (getF SNS.CM_CM_HI p k s)
    let lo := signed 16 (getF SNS.CM_CM_LO p k s)
    let bad := decide (x.cm0 < lo ∨ hi < x.cm0 ∨ x.cm1 < lo ∨ hi < x.cm1)
    let l := snsLoc s loc
    let run := if bad = l.cmEp then 0 else l.cmRun + 1
    putLoc loc (if run < 8 then { l with cmRun := run } else { l with cmRun := 0, cmFlip := true }) s

/-- Tone sums of one used frame (R126, R128): the input quantity in volts × 2^32 × 2 500 000. The input quantity of a frame is that of
its clipped tick value, before the notch chain (log entry 94). -/
def toneFrame (c loc : Nat) (range : Nat) (v : Int) (s : State) : State :=
  let p := snsPage c
  if getB SNS.CH_DIAG_TONE_EN p (c % 16) s ∧ 2 ≤ range ∧ range ≤ 9 then
    let ref := if getB SNS.CH_CFG_REF_SEL p (c % 16) s then (snsBank s (c / 8)).refUv else 2500000
    let q := v * 10 * 2 ^ (9 - range) * ref
    let l := snsLoc s loc
    putLoc loc (if s.time.tick % 2 = 0 then { l with sumE := l.sumE + q, numE := l.numE + 1 }
      else { l with sumO := l.sumO + q, numO := l.numO + 1 }) s
  else s

/-- A modulator parity failure at the A-die's result store (R370): the receiver sends the kind of R17, with an address that the spec does not
give, and the conversion's record is late, as R44 has it. -/
def parityFail (s : State) : State :=
  let (k, s) := draw s
  raise 0 0x01 kDevBridgeCrc (Config.freeNat k % 65536) (noteCount DEV.BRIDGE_CA_FAIL 0 0 s)

/-- One slice's frame. At stage N a break frame has the last tick value that was not from a break frame, as it stood, whatever range
changes came between; where there is none since the channel was enabled, its own clipped value enters. A settle check that has one
tick value alone, of a channel enabled into the dwell's last settle tick, compares it with 0 (log entry 94). -/
def channelFrame (p : Nat) (inp : SenseIn) (i : Nat) (s : State) : State :=
  let c := (p - 0x10) * 16 + i
  if !chOn c s then s
  else
    let x := (inp.slices[i]?).getD ⟨[], [], none, none, false, false, 0, 0, false⟩
    let pos := nthI inp.refUv (i / 8)
    let neg := nthI inp.refNeg (i / 8)
    let ref := sliceRef c pos neg s
    let (n, s) := if ref.1 * ref.2 = 0 then draw s else (0, s)
    let b := c / 8
    let bk := snsBank s b
    let settling := muxEn b s && decide (bk.pos < getF SNS.BK_MUX_SETTLE p (b % 2) s)
    let loc := c * 16 + pointNow c s
    let ch := snsCh s c
    let (v, clip) := tickValue ref x (Config.freeInt n)
    let brkPh := breakPhase c ch.range x s
    let brk := brkPh.isSome
    let s := match brkPh with
      | some ph => beginBreak c loc ph s
      | none => s
    let s := cmFrame c loc x s
    let s := if x.parity then parityFail s else s
    let out := brk || ch.skip
    let s := if out || settling then s else toneFrame c loc ch.range v s
    let vin := if brk then ch.lastT.getD v else v
    let (notch, vout, sat) := if getB SNS.CH_CFG_NOTCH_EN p i s then notchStep ch.notch vin else ([], vin, false)
    let l := snsLoc s loc
    let fr : SnsFrame := {
      t := s.time.ticks, v := vout, out := out, brk := brk, clip := clip || sat
      clamp := bk.clampEp
      compl := (inp.compl[i / 2]?).getD false && decide (getF SNS.EXC_MODE p (i / 2) s = 1)
      settle := decide (s.time.ticks < ch.settleEnd)
      sensor := l.degEp || l.cmEp
      badRef := x.parity || (refBad pos neg && usesRef c s) }
    let settle2 := if settling then (v :: ch.settle2).take 2 else ch.settle2
    let tol := getF SNS.BK_TOL_SETTLE_TOL p (b % 2) s
    let lastSettle := settling && decide (bk.pos + 1 = getF SNS.BK_MUX_SETTLE p (b % 2) s)
    let fail := lastSettle && decide (2 ≤ getF SNS.BK_MUX_SETTLE p (b % 2) s ∧ tol ≠ 0)
      && decide ((tol : Int) < (nthI settle2 0 - nthI settle2 1).natAbs)
    let s := putCh c { ch with
      notch := notch
      lastT := if brk then ch.lastT else some v
      frames := if settling then ch.frames else (fr :: ch.frames).take 1024
      skip := false
      settle2 := settle2
      tolFail := if lastSettle then fail else ch.tolFail } s
    if lastSettle then
      let a := pageAddr p (0x254 + 0x20 * (b % 2))
      if fail then wrReg s a (ofN (putBit (rdReg s a).toNat bk.point true)) else s
    else s

/-- Whether some channel of a bank has a frame against the bank's reference (R73). A channel on range code 10 has none: REF_SEL has no
effect on it by R69 (log entry 93). -/
def refUsed (b : Nat) (s : State) : Bool := (List.range 8).any fun j => chOn (8 * b + j) s && usesRef (8 * b + j) s

/-- The bank's part of a frame: reference monitor and cold-junction reading (R73, R132). A bad-reference episode begins with the first
bad-reference frame of some channel, and ends with the end of a frame in range. -/
def bankFrame (p : Nat) (inp : SenseIn) (l : Nat) (s : State) : State :=
  let b := (p - 0x10) * 2 + l
  let bad := refBad (nthI inp.refUv l) (nthI inp.refNeg l)
  let bk := snsBank s b
  let begins := bad && !bk.refEp && refUsed b s
  let s := putBank b { bk with refUv := nthI inp.refUv l, refEp := bk.refEp || begins, refEnd := bk.refEp && !bad } s
  let s := if begins then raise p 0xFF kSnsRefRange b (setIrq p 19 (setB SNS.BK_STAT_REF_BAD p l true s)) else s
  let cj := nthI inp.cj l
  let out := decide (cj < -55 * 65536 ∨ 160 * 65536 < cj)
  let bk := snsBank s b
  let run := if out then 0 else bk.cjRun + 1
  let ends := bk.cjEp && decide (64 ≤ run)
  let s := putBank b { bk with
    cj := (cj :: bk.cj).take 64
    cjEp := out || (bk.cjEp && !ends)
    cjRun := if ends then 0 else run } s
  if out && !bk.cjEp then raise p 0x15 kSnsCjSensor b s
  else if ends then endEp p kSnsCjSensor b s else s

/-- Clears LATEPT of the point whose settle check begins anew. -/
def clearLatePt (p l : Nat) (s : State) : State :=
  let b := (p - 0x10) * 2 + l
  let bk := snsBank s b
  if muxEn b s ∧ bk.pos + 1 = getF SNS.BK_MUX_SETTLE p l s then
    let a := pageAddr p (0x254 + 0x20 * l)
    wrReg s a (ofN (putBit (rdReg s a).toNat bk.point false))
  else s

/-- SENSE_FRAME: one tick frame of a page, taken as complete at the end of phase 103 (R79). -/
def senseFrame (p : Nat) (inp : SenseIn) (s : State) : State :=
  let s := atPhase 103 399 s
  if snsOn p s then
    let s := forN 2 (bankFrame p inp) s
    let s := forN 2 (clearLatePt p) s
    let s := forN 8 (fun j a =>
      setB SNS.EXC_COMPL p j ((inp.compl[j]?).getD false && decide (getF SNS.EXC_MODE p j a = 1)) a) s
    forN 16 (channelFrame p inp) s
  else s

/-! ### Conversions -/

/-- The elapsed tick at which the conversion in progress of a channel began, where a tick adoption cuts it (R61). -/
def convCut (c : Nat) (s : State) : Option Nat :=
  match (snsCh s c).cut with
  | some t => some t
  | none =>
    if s.time.adopt.isSome && !muxEn (c / 8) s then some (s.time.ticks - s.time.tick % 2 ^ rateOf c s) else none

/-- The frames of the conversion that ends with this tick (R82, R88, R61). -/
def convFrames (c : Nat) (s : State) : List SnsFrame :=
  let ch := snsCh s c
  let n := 2 ^ rateOf c s
  let l := ch.frames.take n
  match convCut c s with
  | some t => l.filter fun f => decide (t ≤ f.t)
  | none => l.filter fun f => decide (s.time.ticks < f.t + n)

/-- Auto-ranging (R91): the next range and low_count. -/
def autoRange (c : Nat) (raw : Int) (clip : Bool) (s : State) : Nat × Nat :=
  let p := snsPage c
  let i := c % 16
  let ch := snsCh s c
  let wide := getF SNS.CH_RANGE_WIDE p i s
  let narrow := getF SNS.CH_RANGE_NARROW p i s
  let r := ch.range
  if clip && decide (wide < r) then (wide, 0)
  else if decide (7549746 < raw.natAbs) && decide (wide < r) then (r - 1, 0)
  else if raw.natAbs < 3355443 then
    let low := ch.low + 1
    if getF SNS.CH_CFG_DOWN_CNT p i s ≤ low ∧ r < narrow then (r + 1, 0) else (r, low)
  else (r, 0)

/-- The range that takes effect at the boundary ending this conversion (R90, R91). A RANGE write resets low_count where it replaces a
decision; without one, in mux mode or at a late conversion, low_count is held. -/
def decideRange (c : Nat) (ok : Bool) (raw : Int) (clip : Bool) (s : State) : State :=
  let ch := snsCh s c
  let decides := ok && getB SNS.CH_CFG_AUTO (snsPage c) (c % 16) s && !muxEn (c / 8) s && decide (ch.range ≠ 10)
  let ready := match ch.req with
    | some (_, us) => decide (us < s.time.ticks * 125 + 104)
    | none => false
  match ready, ch.req with
  | true, some (r, _) => putCh c { ch with req := none, next := some (r, false), low := if decides then 0 else ch.low } s
  | _, _ =>
    if decides then
      let (r, low) := autoRange c raw clip s
      putCh c { ch with next := if r = ch.range then none else some (r, true), low := low } s
    else s

/-- One conversion that ends with this tick: raw code, linearisation, record (R82, R105 to R120). A break episode whose location has a
conversion without a break frame ends with that conversion, at the next boundary (R125). -/
def convertChannel (c : Nat) (s : State) : State :=
  if chOn c s && endsAt c (nextTick s) s then
    let ch := snsCh s c
    let pt := pointNow c s
    let loc := c * 16 + pt
    let fs := convFrames c s
    let used := fs.filter fun f => !f.out
    let any (q : SnsFrame → Bool) : Bool := fs.any q
    let ok := decide (used ≠ []) && !any (·.badRef) && !ch.tolFail
    let raw := divAway (used.foldl (fun a f => a + f.v) 0) used.length
    let brk := any (·.brk)
    let allBrk := decide (fs ≠ []) && fs.all (·.brk)
    let (v, sat, temp) := linearise c raw ch.range s
    let settle := any (·.settle) || (convCut c s).isSome
    let status := b2n settle * 64 + b2n (any (·.clip) || sat) * 32 + b2n (any (·.clamp)) * 16 + b2n brk * 8
      + b2n (any (·.compl)) * 4 + b2n (any (·.sensor)) * 2 + b2n temp
    let p := snsPage c
    let srcLoc := getF SNS.CH_LIN_TCH p (c % 16) s * 16 + getF SNS.CH_LIN_TPT p (c % 16) s
    let s := if ok && decide (getF SNS.CH_LIN_TSRC p (c % 16) s = 2) then verifyRec srcLoc s else s
    let s := { s with sns := { s.sns with land := s.sns.land ++
      [⟨c, pt, ok, ofI v, status, allBrk, raw, ch.range, fs.any (·.out), any (·.clip)⟩] } }
    let l := snsLoc s loc
    let s := if l.brkEp && !brk then putLoc loc { l with brkEnd := true } s else s
    let s := putCh c { snsCh s c with cut := none } s
    decideRange c ok raw (any (·.clip)) s
  else s

/-- SENSE_CONVERSION_END: the conversions of a page that end with this tick are formed at phase 104 (R82). -/
def senseConversionEnd (p : Nat) (s : State) : State :=
  forN 16 (fun i a => convertChannel ((p - 0x10) * 16 + i) a) (atPhase 104 0 s)

/-! ### Clamps, mux -/

/-- CLAMP_DETECT (R95). -/
def clampDetect (b pin : Nat) (s : State) : State :=
  let p := 0x10 + b / 2
  let l := b % 2
  let bk := snsBank s b
  let s := putBank b { bk with clampEp := true, clampTick := s.time.ticks } s
  let a := pageAddr p (0x250 + 0x20 * l)
  let s := noteBit a pin (wrReg s a (ofN (putBit (rdReg s a).toNat pin true)))
  if bk.clampEp then s
  else
    let s := setB SNS.BK_STAT_CLAMP p l true (setSeen SNS.BK_STAT_CLAMP_SEEN p l s)
    let s := setB (if l = 0 then SNS.STAT_CLAMP0 else SNS.STAT_CLAMP1) p 0 true s
    raise p 0xFF kSnsClamp b (setIrq p 16 s)

/-- The end of a clamp episode at a boundary: the ended tick was a complete frame without detection (R95). -/
def clampBoundary (ended : Nat) (b : Nat) (s : State) : State :=
  let p := 0x10 + b / 2
  let l := b % 2
  let bk := snsBank s b
  if bk.clampEp && decide (bk.clampTick < ended) then
    let s := putBank b { bk with clampEp := false } s
    let s := setB SNS.BK_STAT_CLAMP p l false s
    let s := setB (if l = 0 then SNS.STAT_CLAMP0 else SNS.STAT_CLAMP1) p 0 false s
    endEp p kSnsClamp b s
  else s

/-- MUX_DWELL_END: at phase 110 of a dwell's last tick MXS takes the next point (R98). -/
def muxDwellEnd (b : Nat) (s : State) : State :=
  let s := atPhase 110 0 s
  let p := 0x10 + b / 2
  let l := b % 2
  let bk := snsBank s b
  if bk.seq && decide (bk.pos + 1 = dwellLen b s) then
    setF SNS.BK_STAT_MXS p l (nextPoint (getF SNS.BK_PTS_MASK p l s) bk.point).1 s
  else s

/-- A new point for every channel of a bank: notch chain and settle period start, checks start anew (R86, R93, R131). -/
def startPoint (b : Nat) (s : State) : State :=
  forN 8 (fun j a =>
    let c := 8 * b + j
    let ch := snsCh a c
    let a := putCh c { ch with
      notch := [], frames := [], settle2 := [], tolFail := false
      settleEnd := if getB SNS.CH_CFG_NOTCH_EN (snsPage c) (c % 16) a then
          Nat.max ch.settleEnd (a.time.ticks + settleLen c a) else ch.settleEnd } a
    let loc := c * 16 + (snsBank a b).point
    putLoc loc { snsLoc a loc with cmRun := 0 } a) s

/-- Elapsed ticks from tick `pos` of a dwell of point `q0` to the due instants that a bank's schedule would still have, by point (R49,
R98, R99): the next conversion of the dwell in progress, and the first one of every later dwell. -/
def nextDues (b q0 pos : Nat) (s : State) : List (Nat × Nat) :=
  let p := 0x10 + b / 2
  let settle := getF SNS.BK_MUX_SETTLE p (b % 2) s
  let n := 2 ^ getF SNS.BK_MUX_MUX_RATE p (b % 2) s
  let len := dwellLen b s
  let later := ((List.range 16).map fun j => (q0 + 1 + j) % 16).filter fun q =>
    bitAt (getF SNS.BK_PTS_MASK p (b % 2) s) q && decide (q ≠ q0)
  (q0, settle + n * ((pos - settle) / n + 1) - pos)
    :: (List.range later.length).map fun m => (nthN later m, len - pos + m * len + settle + n)

/-- The due instants that the values of a location miss from elapsed tick `t` on, unless it has one already (R49). -/
def oweAt (loc t : Nat) (s : State) : State :=
  if tabGet (fun _ => 0) s.sns.owed loc = 0 then
    { s with sns := { s.sns with owed := tabSet (fun _ => 0) s.sns.owed loc t } }
  else s

/-- A bank's schedule stops at tick `pos` of a dwell of point `q`, which began with elapsed tick `t`. -/
def oweBank (b q pos t : Nat) (s : State) : State :=
  (nextDues b q pos s).foldl (fun a e => forN 8 (fun j a => oweAt ((8 * b + j) * 16 + e.1) (t + e.2) a) a) s

/-- The SENSE domain loses its power (R49, R485): every value goes stale at the first due instant that its channel then misses. -/
def snsPowerOff (s : State) : State :=
  let t := s.time.ticks
  let s := forN 6 (fun b a => if (snsBank a b).seq then oweBank b (snsBank a b).point (snsBank a b).pos t a else a) s
  forN 48 (fun c a =>
    if muxEn (c / 8) a then a
    else oweAt (c * 16) (t + (2 ^ rateOf c a - a.time.tick % 2 ^ rateOf c a)) a) s

/-- A bank's schedule starts: its points have due instants again. -/
def oweNot (b : Nat) (s : State) : State :=
  let mask := getF SNS.BK_PTS_MASK (0x10 + b / 2) (b % 2) s
  { s with sns := { s.sns with owed := s.sns.owed.filter fun e => !(decide (e.1 / 128 = b) && bitAt mask (e.1 % 16)) } }

/-- A pass that is complete at the end of the tick that the boundary ends (R101), whatever the boundary does to the sequencer. -/
def scanDone (b : Nat) (s : State) : State :=
  let p := 0x10 + b / 2
  let bk := snsBank s b
  if bk.seq && decide (dwellLen b s ≤ bk.pos + 1) && (nextPoint (getF SNS.BK_PTS_MASK p (b % 2) s) bk.point).2 then
    setIrq p 17 (incMod SNS.BK_STAT_SCAN_CNT p (b % 2) s)
  else s

/-- A bank's sequencer at a boundary (R97 to R101). -/
def seqBoundary (b : Nat) (s : State) : State :=
  let p := 0x10 + b / 2
  let l := b % 2
  let bk := snsBank s b
  let mask := getF SNS.BK_PTS_MASK p l s
  let on := snsOn p s && muxEn b s
  let runF := if l = 0 then SNS.STAT_MUX_RUN0 else SNS.STAT_MUX_RUN1
  let s := scanDone b s
  if !on then
    if bk.seq then
      let s := if bk.pos + 1 < dwellLen b s then oweBank b bk.point (bk.pos + 1) s.time.ticks s
        else oweBank b (nextPoint mask bk.point).1 0 s.time.ticks s
      setB runF p 0 false (setF SNS.BK_STAT_MXS p l 0 (putBank b { bk with seq := false, pos := 0, restart := false } s))
    else s
  else if !bk.seq || bk.restart then
    let q := firstPoint mask
    let s := oweNot b s
    let s := putBank b { bk with seq := true, point := q, pos := 0, restart := false } s
    let s := setF SNS.BK_STAT_POINT p l q (setF SNS.BK_STAT_MXS p l q s)
    startPoint b (setB runF p 0 true s)
  else if bk.pos + 1 < dwellLen b s then putBank b { bk with pos := bk.pos + 1 } s
  else
    let q := (nextPoint mask bk.point).1
    let s := putBank b { bk with point := q, pos := 0 } s
    let s := setF SNS.BK_STAT_POINT p l q (setF SNS.BK_STAT_MXS p l q s)
    if q = bk.point then
      forN 8 (fun j a => let ch := snsCh a (8 * b + j); putCh (8 * b + j) { ch with settle2 := [], tolFail := false } a) s
    else startPoint b s

/-! ### Boundaries -/

/-- The tone settings of the window that ends with this tick (R128): those of the ending tick. -/
def toneSettings (s : State) : List (Nat × Nat × Nat × Nat) :=
  ((List.range 48).filter fun c => getB SNS.CH_DIAG_TONE_EN (snsPage c) (c % 16) s).map fun c =>
    let p := snsPage c
    let w := getF SNS.CH_LIN_SET p (c % 16) s * 16
    (c, toneNa (getF SNS.CH_DIAG_TONE_LVL p (c % 16) s), (getAct p 0 (w + 10) s).toNat, (getAct p 0 (w + 11) s).toNat)

/-- The results due at the boundary into the next tick: those of running channels, and the due instants that stopped or
disabled channels miss (R44, R49, R99). Evaluated with the settings of the ending tick. A channel whose schedule has stopped, or whose
domain is off, misses the first due instant that its schedule would have had. -/
def snsDue (s : State) : State :=
  let ends := (List.range 48).filter fun c => endsAt c (nextTick s) s
  let off := if s.pwr.standby then [] else (ends.filter fun c => !chOn c s).map fun c => (c, pointNow c s)
  let owes (loc : Nat) : Bool := decide (tabGet (fun _ => 0) s.sns.owed loc ≠ 0)
  let (now, later) := s.sns.owed.partition fun e => decide (e.2 ≤ s.time.ticks + 1)
  { s with sns := { s.sns with
    due := (ends.filter fun c => chOn c s).map fun c => (c, pointNow c s)
    missed := (off.filter fun e => !owes (e.1 * 16 + e.2)) ++ now.map fun e => (e.1 / 16, e.1 % 16)
    owed := later
    toneSet := if nextTick s % 2048 = 0 then toneSettings s else s.sns.toneSet } }

/-- A range change takes effect (R92, R93, R83). The last tick value that R123 keeps for break frames is not a stored value of the notch
chain, and stays in the unit of its range (log entry 94). -/
def changeRange (c new : Nat) (auto : Bool) (s : State) : State :=
  let ch := snsCh s c
  let old := ch.range
  if new = old then putCh c { ch with next := none } s
  else
    let code10 := decide (old = 10 ∨ new = 10)
    let notch := if code10 then [] else notchRescale old new ch.notch
    let s := putCh c { ch with
      range := new, next := none, notch := notch, frames := [], cut := none
      skip := decide ((old ≤ 1) ≠ (new ≤ 1))
      settleEnd := Nat.max ch.settleEnd (s.time.ticks + settleLen c s) } s
    if auto then setIrq (snsPage c) 18 s else s

/-- RANGE of a channel that did not convert in the ending tick: it takes effect at the boundary, with its attenuator (R83, R90). -/
def idleRange (c r : Nat) (s : State) : State :=
  let ch := snsCh s c
  putCh c { ch with req := none, range := r, skip := ch.skip || decide ((ch.range ≤ 1) ≠ (r ≤ 1)) } s

/-- One channel at a boundary, `o` being the state that the boundary found (R86 to R93). A start of the page is taken as enabling its
channels, so it starts a settle period with NOTCH_EN = 0 too. A change of RATE between EN and the first result puts R88's due instant in
the place of R89's (log entry 94). -/
def channelBoundary (o : State) (c : Nat) (s : State) : State :=
  let p := snsPage c
  let i := c % 16
  let was := chOn c o
  let now := chOn c s
  let s := match (snsCh s c).next, was, (snsCh s c).req with
    | some (r, auto), _, _ => changeRange c r auto s
    | none, false, some (r, _) => idleRange c r s
    | none, _, _ => s
  let ch := snsCh s c
  let extend := Nat.max ch.settleEnd (s.time.ticks + settleLen c s)
  if now && !was then
    putCh c { ch with
      notch := [], frames := [], lastT := none, enTick := s.time.ticks, cut := none
      settle2 := []
      notBefore := s.time.tick + 2 ^ rateOf c s, settleEnd := extend } s
  else if was && !now then putCh c { ch with notch := [], frames := [], lastT := none, cut := none } s
  else if now then
    let notchOn := getB SNS.CH_CFG_NOTCH_EN p i s && !getB SNS.CH_CFG_NOTCH_EN p i o
    let biasRef := decide (getF SNS.CH_CFG_REF_SEL p i s ≠ getF SNS.CH_CFG_REF_SEL p i o
      ∨ getF SNS.CH_CFG_BIAS_EN p i s ≠ getF SNS.CH_CFG_BIAS_EN p i o)
    let rate := decide (rateOf c s ≠ rateOf c o)
    putCh c { ch with
      notch := if notchOn then [] else ch.notch
      settleEnd := if notchOn || biasRef then extend else ch.settleEnd
      notBefore := if rate then s.time.tick + 1 else ch.notBefore } s
  else s

/-- The episodes that end, and the common-mode episodes that begin, with the frame or conversion that the boundary ends (R73, R125,
R131). -/
def frameEnds (s : State) : State :=
  let s := forN 6 (fun b a =>
    let bk := snsBank a b
    if bk.refEnd then
      endEp (0x10 + b / 2) kSnsRefRange b
        (setB SNS.BK_STAT_REF_BAD (0x10 + b / 2) (b % 2) false (putBank b { bk with refEp := false, refEnd := false } a))
    else a) s
  s.sns.locs.foldl (fun a e =>
    let p := snsPage (e.1 / 16)
    let a := if e.2.brkEnd then endEp p kSnsWireBreak e.1 (putLoc e.1 { snsLoc a e.1 with brkEp := false, brkEnd := false } a) else a
    if e.2.cmFlip then
      let a := putLoc e.1 { snsLoc a e.1 with cmEp := !e.2.cmEp, cmFlip := false } a
      if e.2.cmEp then endEp p kSnsCmWindow e.1 a else raise p 0x14 kSnsCmWindow e.1 (setIrq p 21 a)
    else a) s

/-- The sense system at a boundary, after the actions of R41; `o` is the state that the boundary found. -/
def snsBoundary (o s : State) : State :=
  let s := forN 6 (clampBoundary o.time.ticks) (frameEnds s)
  let s := forN 48 (channelBoundary o) s
  let s := forN 6 seqBoundary s
  forN 3 (fun k a =>
    if running (0x10 + k) a && !running (0x10 + k) o then
      forN 2 (fun l b => putBank (2 * k + l) { snsBank b (2 * k + l) with cj := [], cjRun := 0 } b) a
    else a) s

/-- SOFT_RST of a sense page (R103). -/
def snsSoftRst (p : Nat) (s : State) : State :=
  let s := forN 16 (fun i a =>
    let c := (p - 0x10) * 16 + i
    putCh c { snsCh a c with notch := [], frames := [], lastT := none, low := 0, cut := none } a) s
  forN 2 (fun l a =>
    let b := (p - 0x10) * 2 + l
    let a := setB SNS.BK_STAT_CLAMP_SEEN p l false (setF SNS.BK_CLPIN_PIN p l 0 a)
    let q := firstPoint (getF SNS.BK_PTS_MASK p l a)
    putBank b { snsBank a b with point := q, pos := 0 } (setF SNS.BK_STAT_POINT p l q a)) s

/-! ### Landing -/

/-- One published conversion lands (R108): the record, and what CHi_STAT and CHi_RAW show while the page has its power. -/
def landOne (x : SnsLand) (s : State) : State :=
  let p := snsPage x.ch
  let i := x.ch % 16
  let loc := x.ch * 16 + x.pt
  let s := landRec loc x.value x.status { s with sns := { s.sns with owed := s.sns.owed.filter fun e => e.1 ≠ loc } }
  let s := putCh x.ch { snsCh s x.ch with lastPt := x.pt } s
  if s.pwr.standby then s
  else
  let s := setF SNS.CH_STAT_CUR_RANGE p i x.range s
  let s := setB SNS.CH_STAT_SETTLE p i (bitAt x.status 6) (setB SNS.CH_STAT_CLIP p i x.clip s)
  let s := setB SNS.CH_STAT_CLAMP p i (bitAt x.status 4) (setB SNS.CH_STAT_COMPL p i (bitAt x.status 2) s)
  setB SNS.CH_STAT_DISCARD p i x.discard (setF SNS.CH_RAW_RAW p i (x.raw % 4294967296).toNat s)

/-- One due result: it lands, or the record in place goes stale (R109). -/
def landDue (cp : Nat × Nat) (s : State) : State :=
  let loc := cp.1 * 16 + cp.2
  match s.sns.land.find? (fun x => decide (x.ch = cp.1 ∧ x.pt = cp.2)) with
  | some x => if x.ok && !s.sns.lost.contains loc then landOne x s else markRec loc (if x.allBrk then 0x88 else 0x80) s
  | none => markRec loc 0x80 s

/-- Whether a due result is late. -/
def dueLate (s : State) (cp : Nat × Nat) : Bool :=
  match s.sns.land.find? (fun x => decide (x.ch = cp.1 ∧ x.pt = cp.2)) with
  | some x => !x.ok || s.sns.lost.contains (cp.1 * 16 + cp.2)
  | none => true

/-- The output value of a repeater for its source record, before the limit of the span: nearest unit (R134). -/
def rptValue (n : Nat) (v : Int) (s : State) : Int :=
  let q (f : Fld) : Int := getF f 0x38 n s
  let vlo := signed 32 (getF RPT.OUT_VLO_V 0x38 n s)
  let vhi := signed 32 (getF RPT.OUT_VHI_V 0x38 n s)
  let num := (v - vlo) * (q RPT.OUT_OHI_O - q RPT.OUT_OLO_O)
  let d := vhi - vlo
  let o := q RPT.OUT_OLO_O + (0 : Int)
  let y := divAway (o * d.natAbs + (if d < 0 then -num else num)) d.natAbs
  clampI (min (q RPT.OUT_OLO_O) (q RPT.OUT_OHI_O)) (max (q RPT.OUT_OLO_O) (q RPT.OUT_OHI_O)) y

/-- Puts a repeater's value in force at instant `at_` in elapsed µs (R135, R138): OUT, and FB where it is SAFE. -/
def rptTake (n : Nat) (v : Nat × Bool) (at_ : Nat) (s : State) : State :=
  putRpt n { rptOut s n with next := none, start := some at_ }
    (setB RPT.OUT_STAT_FB 0x38 n v.2 (setF RPT.OUT_STAT_OUT 0x38 n (satN 0xFFFFFF v.1) s))

/-- A value waiting for a period start that has come takes effect. -/
def rptCommit (n : Nat) (s : State) : State :=
  match rptDue n s with
  | some (v, t) => rptTake n v t s
  | none => s

/-- A repeater output recomputes its value (R134, R135). Limits written with MODE = 0 may lie outside the range of the mode chosen
later, so the value is held within that range (log entry 18). It takes effect at once where no period has begun, at the next rising edge
while edges come, and else at the next period start. -/
def rptUpdate (n : Nat) (s : State) : State :=
  let mode := getF RPT.OUT_CFG_MODE 0x38 n s
  if mode = 0 ∨ running 0x38 s = false then s
  else
    let s := rptCommit n s
    let loc := getF RPT.OUT_CFG_SRC_CH 0x38 n s * 16 + getF RPT.OUT_CFG_SRC_PT 0x38 n s
    let s := verifyRec loc s
    let r := snsRec s loc
    let fb := !recOk s loc || decide (r.status &&& getF RPT.OUT_CFG_FB_MASK 0x38 n s ≠ 0)
    let o := if fb then (getF RPT.OUT_SAFE_O 0x38 n s : Int) else rptValue n r.value.toInt s
    let v := ((clampI (rptLimits mode).1 (rptLimits mode).2 o).toNat, fb)
    let x := rptOut s n
    match x.start with
    | none => rptTake n v (usNow s) s
    | some t =>
      let per := getF RPT.OUT_PERIOD_PERIOD 0x38 n s
      if rptEdges n s then putRpt n { x with next := some v } s
      else if mode = 1 then rptTake n v (usNow s) s
      else putRpt n { x with next := some v, start := some (t + (usNow s - t + per - 1) / per * per - per) } s

/-- The repeaters of the records that changed (R134). -/
def rptFollow (locs : List Nat) (s : State) : State :=
  forN 4 (fun n a =>
    if locs.contains (getF RPT.OUT_CFG_SRC_CH 0x38 n a * 16 + getF RPT.OUT_CFG_SRC_PT 0x38 n a) then rptUpdate n a else a) s

/-- RESULT_LANDING: the first cycle of phase 0 (R108, R44, R49, R50). -/
def resultLanding (s : State) : State :=
  let s := atPhase 0 0 s
  let due := s.sns.due
  let late := due.filter (dueLate s)
  let s := due.foldl (fun a cp => landDue cp a) s
  let s := s.sns.missed.foldl (fun a cp =>
    if bitAt (snsRec a (cp.1 * 16 + cp.2)).status 7 then a else markRec (cp.1 * 16 + cp.2) 0x80 a) s
  let s := forN 3 (fun k a =>
    let mine (l : List (Nat × Nat)) := (l.filter fun cp => decide (cp.1 / 16 = k)).map fun cp => cp.1
    dueInstant (0x10 + k) (decide (mine due ≠ [])) (mine late) a) s
  let s := rptFollow ((due ++ s.sns.missed).map fun cp => cp.1 * 16 + cp.2) s
  { s with sns := { s.sns with land := [], due := [], missed := [], lost := [] } }

/-- The repeater outputs at a boundary: changed settings recompute the value (R134, R138); with MODE = 0 or a stopped page the ball is
low, and neither a value nor SAFE is output (R133). -/
def rptBoundary (o s : State) : State :=
  forN 4 (fun n a =>
    let mode := getF RPT.OUT_CFG_MODE 0x38 n a
    if mode = 0 ∨ running 0x38 a = false then
      putRpt n RptOut.idle (setB RPT.OUT_STAT_FB 0x38 n false (setF RPT.OUT_STAT_OUT 0x38 n 0 a))
    else
      let a := rptCommit n a
      let same := [0x100, 0x104, 0x108, 0x10C, 0x110, 0x114, 0x118].all fun k =>
        decide (rdForce a (pageAddr 0x38 (k + 0x20 * n)) = rdForce o (pageAddr 0x38 (k + 0x20 * n)))
      if same && running 0x38 o then a else rptUpdate n a) s

/-- RPT_EDGE_CHECK: an edge commanded 1 µs ago and its readback (R135, R136): the ball changes its level, and with a rising edge a period
begins and a waiting value takes effect. -/
def rptEdgeCheck (n : Nat) (agrees : Bool) (s : State) : State :=
  let s := rptCommit n s
  let r := rptOut s n
  let miss := if agrees then 0 else r.miss + 1
  let rises := r.start.isSome && !r.level
  let s := match rises, r.next with
    | true, some v => rptTake n v (usNow s - 1) s
    | true, none => putRpt n { r with start := some (usNow s - 1) } s
    | false, _ => s
  let s := putRpt n { rptOut s n with level := rises, miss := miss } s
  if agrees then endEp 0x38 kRptReadback n (setB RPT.OUT_STAT_RB_ERR 0x38 n false s)
  else if miss = 3 then raise 0x38 0x01 kRptReadback n (setB RPT.OUT_STAT_RB_ERR 0x38 n true s)
  else s

/-! ### Tone windows -/

/-- The verdict of one location at the end of a window, with the tone current in nA and the band of the window's end (R128, R129). Z is
judged as it is; ZMEAS shows it to the nearest code, 0 for a negative one. -/
def toneVerdict (c loc na lo hi : Nat) (s : State) : State :=
  let p := snsPage c
  let l := snsLoc s loc
  if 512 ≤ l.numE ∧ 512 ≤ l.numO then
    let num : Int := (l.sumE * l.numO - l.sumO * l.numE) * 1000000000 * 256
    let den : Nat := l.numE * l.numO * 2 * na * 2500000 * 4294967296
    let z := satN 0xFFFFFFFF (divAway num den).toNat
    let s := setB SNS.CH_DIAG_ZVALID p (c % 16) true (setF SNS.CH_ZMEAS_Z p (c % 16) z s)
    let bad := decide (num < (lo * den : Nat) ∨ ((hi * den : Nat) : Int) < num)
    let run := if bad = l.degEp then 0 else l.degRun + 1
    if run < 2 then putLoc loc { l with degRun := run } s
    else
      let s := putLoc loc { l with degRun := 0, degEp := !l.degEp } s
      if l.degEp then endEp p kSnsSensorDegraded loc s
      else raise p 0x13 kSnsSensorDegraded loc (setIrq p 21 s)
  else s

/-- A window's sums end with it, with a verdict or without one. -/
def toneClear (loc : Nat) (s : State) : State :=
  putLoc loc { snsLoc s loc with sumE := 0, numE := 0, sumO := 0, numO := 0 } s

/-- TONE_WINDOW_END: at a tick count that is a multiple of 2048, once per window (R128), with the settings that the ended window's last
tick had. -/
def toneWindowEnd (p : Nat) (s : State) : State :=
  if gridTick s % 2048 = 0 ∧ tabGet (fun _ => 0) s.sns.toneDone p ≠ s.time.ticks + 1 then
    let s := { s with sns := { s.sns with toneDone := tabSet (fun _ => 0) s.sns.toneDone p (s.time.ticks + 1) } }
    let s := (s.sns.toneSet.filter fun e => decide (snsPage e.1 = p)).foldl (fun a (c, na, lo, hi) =>
      forN 16 (fun q b => toneVerdict c (c * 16 + q) na lo hi b) a) s
    forN 256 (fun k a => toneClear ((p - 0x10) * 256 + k) a) s
  else s

end Sys2Proof.Machine
end

