-- ==== Sys2Proof/Machine/TrcPort.lean ====
section
/-!
DEFINITION. The trace units' registers (chapter 7): node words, commands, the trace window and the checks of writes.
-/
namespace Sys2Proof.Machine

/-- Page index of TRC. -/
def trcPg : Nat := 0x1B

/-- A trace unit's state. -/
def trcUnit (s : State) (u : Nat) : TrcUnit := tabGet (fun _ => TrcUnit.idle) s.trc u

/-- Puts a trace unit's state. -/
def putTrc (u : Nat) (v : TrcUnit) (s : State) : State := { s with trc := tabSet (fun _ => TrcUnit.idle) s.trc u v }

/-- NC of an NCH code (R211). -/
def ncOf (nch : Nat) : Nat := if nch = 0 then 1 else if nch = 1 then 2 else 4

/-- Sample instants that a unit holds: N. -/
def trcN (nc : Nat) : Nat := 8192 / nc

/-- Whether a node word is of an undefined class or outside its range (R213). -/
def nodeBad (cls i : Nat) : Bool :=
  if cls = 0 then decide (i % 4 ≠ 0 ∨ (0x340000 ≤ i ∧ i < 0x360000))
  else if cls = 1 then decide (i / 16384 ≠ 0 ∨ i % 256 > 5)
  else if cls = 2 then decide (i / 8192 ≠ 0 ∨ i % 256 > 3)
  else if cls = 3 then decide (47 < i)
  else if cls = 4 then decide (i ≠ 0)
  else true

/-- Whether a unit is in IDLE or DONE. -/
def trcQuiet (u : Nat) (s : State) : Bool := decide ((trcUnit s u).state = 0 ∨ (trcUnit s u).state = 4)

/-- ABORT: IDLE, without a record (R214). -/
def trcAbort (u : Nat) (s : State) : State :=
  let x := trcUnit s u
  putTrc u { x with state := 0, samples := [], pre := 0, prev := none, force := false } s

/-- FILL becomes WAIT when PRE_TAKEN = PRE (R214). -/
def trcFill (u : Nat) (s : State) : State :=
  let x := trcUnit s u
  if x.state = 1 ∧ x.pre = getF TRC.U_PRE_PRE trcPg u s then putTrc u { x with state := 2 } s else s

/-- A write of TRC_Uu_CMD (R214). -/
def trcCmd (u cmd : Nat) (s : State) : WrOut :=
  let x := trcUnit s u
  if cmd = 1 then
    if trcQuiet u s then
      let s := setF TRC.U_TTICK_HI_CAUSE trcPg u 0 s
      .ok (trcFill u (putTrc u { x with
        state := 1, nc := ncOf (getF TRC.U_CFG_NCH trcPg u s), samples := [], pre := 0, prev := none, force := false } s))
    else .refuse
  else if cmd = 2 then
    if x.state = 1 ∨ x.state = 2 then .ok (putTrc u { x with force := true } s) else .refuse
  else if cmd = 3 then .ok (trcAbort u s)
  else .ok s

/-- The checks of a write to the TRC page's block registers (R218, R220). -/
def trcWrite (cx : WriteCx) (s : State) : WrOut :=
  let u := cx.unit
  let k := (cx.off - 0x100) % 0x40
  if k = 0x24 then trcCmd u (cxBits cx 1 0) s
  else if cx.fields ≠ [] ∧ trcQuiet u s = false then .refuse
  else if k = 0 then
    storeUnless (cxOutside cx 27 24 0 13 || cxOutside cx 22 16 0 124 || cxOutside cx 9 8 0 2
      || (cxHas cx 8 && decide (trcN (ncOf (cxNew cx 9 8)) ≤ getW TRC.U_PRE_PRE trcPg u s))) cx s
  else if k = 4 then storeUnless (cxHas cx 0 && decide (trcN (ncOf (getW TRC.U_CFG_NCH trcPg u s)) ≤ cxBits cx 12 0)) cx s
  else if 8 ≤ k ∧ k < 0x18 then storeUnless (decide (cx.fields ≠ []) && nodeBad (cxNew cx 31 28) (cxNew cx 23 0)) cx s
  else if k = 0x18 then
    storeUnless ((cxHas cx 24 && bitAt (cxBits cx 27 24) u) || cxOutside cx 18 16 0 4 || cxOutside cx 9 8 0 2) cx s
  else .ok (storeFields cx s)

/-- What the TRC page's registers read where they show computed state. -/
def trcRead (off : Nat) (s : State) : Option Word :=
  if 0x100 ≤ off ∧ off < 0x200 ∧ off % 0x40 = 0x28 then
    let x := trcUnit s ((off - 0x100) / 0x40)
    some (ofN (x.state * 536870912 + x.samples.length * 32768 + x.pre))
  else none

/-- A word of the trace window (R217). -/
def trcWord (u i : Nat) (s : State) : Word :=
  let x := trcUnit s u
  if x.state = 4 then
    match x.samples.reverse[i / x.nc]? with
    | some l => nthW l (i % x.nc)
    | none => 0
  else 0

/-- The compare of R216: present and previous sample, masked, against the masked level. -/
def trcCompare (fmt cond : Nat) (c q l : Word) (first : Bool) : Bool :=
  let big : Int := 2 ^ 300
  let num (w : Word) : Int :=
    if fmt = 0 then w.toInt
    else if fmt = 1 then (w.toNat : Int)
    else if f32Inf w then (if f32Neg w then -big else big) else f32Int w
  let nan := decide (fmt = 2) && (f32Nan c || f32Nan l || (decide (1 ≤ cond ∧ cond ≤ 3) && f32Nan q))
  let c := num c
  let q := num q
  let l := num l
  let rising := decide (q < l ∧ l ≤ c)
  let falling := decide (q ≥ l ∧ l > c)
  if nan then false
  else if cond = 1 then !first && rising
  else if cond = 2 then !first && falling
  else if cond = 3 then !first && (rising || falling)
  else if cond = 4 then decide (c ≥ l)
  else if cond = 5 then decide (c < l)
  else if cond = 6 then decide (c = l)
  else if cond = 7 then decide (c ≠ l)
  else false

end Sys2Proof.Machine
end

