-- ==== Sys2Proof/Machine/WchPort.lean ====
section
/-!
DEFINITION. The calendar clock and the watch island (R390 to R402, R404, R405): their pages, scans, intervals and records.
-/
namespace Sys2Proof.Machine

/-- Page index of CLK. -/
def clkPg : Nat := 0x04
/-- Page index of WCH. -/
def wchPg : Nat := 0x05

/-! ### Calendar clock -/

/-- CALENDAR_SECOND: the seconds advance; a new TRIM applies from a second that is a multiple of 64 (R390, R393). -/
def calendarSecond (s : State) : State :=
  let n := (s.clk.secs + 1) % 1099511627776
  { s with clk := { s.clk with
    secs := n
    secUs := (usNow s : Int)
    trim := if n % 64 = 0 then signed 9 (getW CLK.TRIM_TRIM clkPg 0 s) else s.clk.trim } }

/-- A write of CLK_SET_LO: the clock is set, and an anchor follows at the next boundary (R392, R380). -/
def clockSetTo (party : Party) (lo : Nat) (s : State) : State :=
  let hi := bitsOf (rdParty party (pageAddr clkPg 0x108) s) 7 0
  let was := s.recd.setFrom.getD s.clk.secs
  let s := { s with clk := { s.clk with secs := hi * 4294967296 + lo, secUs := (usNow s : Int) } }
  let s := { s with recd := { s.recd with setFrom := some was } }
  setB CLK.STAT_OSC_FAIL clkPg 0 false (setB CLK.STAT_VALID clkPg 0 true s)

/-- Whether a party that may not set the clock writes a word of zeros to CLK_SET_HI or CLK_SET_LO: it writes no field, and what it carries is
no command of that party (R31, R33, R502, log entry 14). -/
def clkIdle (cx : WriteCx) (s : State) : Bool :=
  decide (cx.fields = []) && (!pageOwns clkPg cx.party s || (locked clkPg s && decide (cx.party ≠ .sup ∧ cx.party ≠ .flt)))

/-- The checks and effects of a write to the CLK page's block registers. SET_HI belongs to each party and reads 0. -/
def clkWrite (cx : WriteCx) (s : State) : WrOut :=
  if cx.off = 0x108 then .ok (if clkIdle cx s then s else wrParty cx.party (cxAddr cx) (ofN (cxBits cx 7 0)) s)
  else if cx.off = 0x10C then .ok (if clkIdle cx s then s else clockSetTo cx.party cx.data.toNat s)
  else if cx.off = 0x110 then storeUnless (cxHas cx 0 && decide (cxBits cx 8 0 = 0x100)) cx s
  else .ok (storeFields cx s)

/-- What the CLK page's registers read where they show computed state. -/
def clkRead (off : Nat) (s : State) : Option Word :=
  if off = 0x100 then some (ofN s.clk.secs) else none

/-- The capture that a read of CLK_SEC_LO makes (R391). -/
def clkReadHold (party : Party) (off : Nat) (s : State) : State :=
  if off = 0x100 then
    makeHold party [(pageAddr clkPg 0x104, ofN (subSecond s * 65536 + s.clk.secs / 4294967296))] .lasting false s
  else s

/-- OSC_FAIL (R394): with COMPUTE off the message waits for the next start-up. -/
def oscFailed (s : State) : State :=
  let s := setB CLK.STAT_VALID clkPg 0 false (setSeen CLK.STAT_OSC_FAIL clkPg 0 s)
  if s.pwr.held || s.pwr.deep then { s with clk := { s.clk with oscPend := true } }
  else raise clkPg 0x01 kClkOscFail 0 s

/-- The supply of the WATCH domain (R396). -/
def watchSupply (vdda link : Bool) (vbat : Nat) (s : State) : State :=
  let row3 := !vdda && !link && decide (1800 ≤ vbat ∧ vbat ≤ 3600)
  setB CLK.STAT_LINK_PWR clkPg 0 (!vdda && link) (setB CLK.STAT_VBAT_PWR clkPg 0 row3 s)

/-- The once-per-long-tide measurement of VBAT (R404). -/
def measureVbat (mv : Nat) (s : State) : State :=
  setF CLK.VBAT_MV clkPg 0 (satN 0xFFFF mv) (setB CLK.STAT_VBAT_LOW clkPg 0 (decide (mv < 2000)) s)

/-! ### The WCH page -/

/-- The word index that WCH_COEF_ADDR selects. -/
def wchCoefIx (s : State) : Nat := getW WCH.COEF_ADDR_SET wchPg 0 s * 16 + getW WCH.COEF_ADDR_WORD wchPg 0 s

/-- A write of WCH_COEF_DATA (R116, R405); the island has one copy of its sets. -/
def wchCoefWrite (cx : WriteCx) (s : State) : WrOut :=
  let ix := wchCoefIx s
  let v := if ix % 16 = 0 then ofN (cxBits cx 1 0) else cx.data
  if (decide (ix % 16 = 0) && decide (cxBits cx 1 0 = 3)) || !pageOwns wchPg cx.party s then .refuse
  else .ok (if getAct wchPg 0 ix s = v then s else bumpWriteGen wchPg (setAct wchPg 0 ix v s))

/-- The checks of a write to the WCH page's block registers. -/
def wchWrite (cx : WriteCx) (s : State) : WrOut :=
  if cx.off = 0x100 then storeUnless (cxOutside cx 31 24 1 255 || cxOutside cx 23 12 1 1440 || cxOutside cx 6 4 0 5) cx s
  else if cx.off = 0x104 then
    storeUnless (cxOutside cx 31 16 1 65535 || cxOutside cx 15 8 1 255 || cxOutside cx 7 4 3 7 || cxOutside cx 3 0 1 15) cx s
  else if 0x110 ≤ cx.off ∧ cx.off < 0x130 then storeUnless (cxOutside cx 11 8 0 10) cx s
  else if 0x130 ≤ cx.off ∧ cx.off < 0x140 then storeUnless (cxOutside cx 1 0 0 2 || cxOutside cx 6 4 0 6) cx s
  else if cx.off = 0x140 then storeUnless (cxOutside cx 15 8 1 255) cx s
  else if cx.off = 0x148 then storeUnless (cxOutside cx 3 0 0 9) cx s
  else if cx.off = 0x14C then wchCoefWrite cx s
  else .ok (storeFields cx s)

/-- What the WCH page's registers read where they show computed state. -/
def wchRead (off : Nat) (s : State) : Option Word :=
  if off = 0x14C then some (getAct wchPg 0 (wchCoefIx s) s) else none

/-- WORD advances after an access to WCH_COEF_DATA with AINC = 1, wrapping at 10 (R405). -/
def wchAdvance (s : State) : State :=
  if getB WCH.COEF_ADDR_AINC wchPg 0 s then
    let w := getW WCH.COEF_ADDR_WORD wchPg 0 s + 1
    setF WCH.COEF_ADDR_WORD wchPg 0 (if 10 ≤ w then 0 else w) s
  else s

/-! ### Intervals -/

/-- A record of the retained memory: SEQ 0 and a valid CRC (R400). -/
def keptRecord (kind sev subj : Nat) (body : Tab Word) : List Word := recWords 0 sev false ⟨kind, sev, subj, body, 0, 0, 0⟩

/-- HELD: records in the retained memory, the anchor of an open interval included. -/
def wchHeld (s : State) : State :=
  let n := s.wch.kept.foldl (fun a l => a + l.length) 0 + b2n s.wch.open_.isSome
  setF WCH.STAT_HELD wchPg 0 (satN 1024 n) s

/-- Records that an interval of `n` points leaves: an anchor, a WATCH_HIST and ⌈n / 11⌉ WATCH_EXT (R400). -/
def intervalRecords (n : Nat) : Nat := 2 + (n + 10) / 11

/-- Drops the oldest intervals until `need` more records fit into the 1024 of the retained memory (R401). -/
def makeRoom (need : Nat) : List (List (List Word)) → List (List (List Word)) × Nat
  | [] => ([], 0)
  | l :: t =>
    if (l :: t).foldl (fun a x => a + x.length) 0 + need ≤ 1024 then (l :: t, 0)
    else
      let (r, k) := makeRoom need t
      (r, k + 1)

/-- The points of PTMASK × CHMASK, ascending (R398). -/
def maskPoints (scan : Word) : List Nat :=
  (List.range 128).filter fun p => bitAt (bitsOf scan 15 8) (p / 16) && bitAt (bitsOf scan 31 16) (p % 16)

/-- Opens an interval at its first scan start (R400, R401). -/
def openInterval (s : State) : State :=
  let w := s.wch
  let wser := (w.wser + 1) % 65536
  let pts := maskPoints (rdReg s (pageAddr wchPg 0x104))
  let (kept, gone) := makeRoom (intervalRecords pts.length) w.kept
  let c := s.clk
  let anchor := keptRecord 0x01 1 4
    [(2, ofN (subSecond s * 65536 + c.secs / 4294967296)), (3, ofN c.secs), (5, ofN 65536), (8, ofI c.trim), (10, ofN wser)]
  let it : WatchInterval := {
    wser := wser, histN := getW WCH.CFG_HIST_N wchPg 0 s, hbase := getI WCH.HIST_HBASE wchPg 0 s
    hstep := getW WCH.HIST_HSTEP wchPg 0 s, bank := getW WCH.CFG_BANK wchPg 0 s, scans := 0, bad := 0, points := []
    bins := List.replicate 16 0, rise := none, anchor := anchor, ptList := pts }
  let s := { s with wch := { w with wser := wser, kept := kept, open_ := some it } }
  let s := forN gone (fun _ => incSat WCH.STAT_LOST wchPg 0) s
  wchHeld (setF WCH.LAST_WSER wchPg 0 wser s)

/-- Whether the SENSE domain is off. -/
def senseOff (s : State) : Bool := s.pwr.standby || s.pwr.deep || s.pwr.held

/-- WATCH_SCAN_START (R397): at a calendar second that is a multiple of 60 × PERIOD. -/
def scanStart (s : State) : State :=
  if getB WCH.CFG_EN wchPg 0 s && running wchPg s && getB CLK.STAT_VALID clkPg 0 s && senseOff s && s.wch.scan.isNone
      && decide (s.clk.secs % (60 * getW WCH.CFG_PERIOD wchPg 0 s) = 0 ∧ s.wch.started ≠ some s.clk.secs) then
    let s := if s.wch.open_.isNone then openInterval s else s
    let sc : WatchScan := {
      bank := getW WCH.CFG_BANK wchPg 0 s
      scan := rdReg s (pageAddr wchPg 0x104)
      chans := (List.range 8).map fun c => rdReg s (pageAddr wchPg (0x110 + 4 * c))
      excs := (List.range 4).map fun j => rdReg s (pageAddr wchPg (0x130 + 4 * j))
      coefs := (List.range 128).map fun i => getAct wchPg 0 i s }
    let s := { s with wch := { s.wch with
      scan := some sc, started := some s.clk.secs
      open_ := s.wch.open_.map fun it => { it with scans := it.scans + 1 } } }
    setB WCH.STAT_SCANNING wchPg 0 true s
  else s

/-! ### What a scan drives (R397) -/

/-- SETTLE and the frames of one conversion of a scan. -/
def WatchScan.settle (sc : WatchScan) : Nat := bitsOf sc.scan 3 0
/-- The 2^RATE frames of one conversion. -/
def WatchScan.conv (sc : WatchScan) : Nat := 2 ^ bitsOf sc.scan 7 4
/-- The mux values of a scan, in the order of its dwells. -/
def WatchScan.mux (sc : WatchScan) : List Nat := (List.range 16).filter fun q => bitAt (bitsOf sc.scan 31 16) q
/-- The channels that convert together in each dwell. -/
def WatchScan.channels (sc : WatchScan) : List Nat := (List.range 8).filter fun c => bitAt (bitsOf sc.scan 15 8) c
/-- The length of a dwell in µs: SETTLE settle frames and one conversion, 125 µs each. -/
def WatchScan.dwellUs (sc : WatchScan) : Nat := 125 * (sc.settle + sc.conv)
/-- The length of a scan in µs, from its rail's start, 5 ms before the first dwell, to the end of the last dwell. -/
def WatchScan.lengthUs (sc : WatchScan) : Nat := 5000 + sc.dwellUs * sc.mux.length

/-- Whether the 3.3 V watch rail powers the scan's bank `t` µs after the rail's start. -/
def WatchScan.railOn (sc : WatchScan) (t : Nat) : Bool := decide (t < sc.lengthUs)

/-- MXS of the scan's bank at that time: the point of the dwell in progress; none outside the dwells. -/
def WatchScan.mxsAt (sc : WatchScan) (t : Nat) : Option Nat :=
  if 5000 ≤ t ∧ t < sc.lengthUs then sc.mux[(t - 5000) / sc.dwellUs]? else none

/-- What excitation pair `j` of the bank drives at that time, under the modes of R75; it alternates in each frame as R76 has it. -/
def WatchScan.drive (sc : WatchScan) (j t : Nat) : ExcDrive :=
  let w := nthW sc.excs j
  if sc.railOn t then excOf (bitsOf w 1 0) (bitsOf w 6 4) (bitsOf w 12 12 = 0 ∨ t < 5000 ∨ (t - 5000) % 125 < 52) else .highZ

/-- Whether the pull current of R80 flows at a channel of the bank at that time: in gaps A and B of its frames, with BREAK_EN = 1. -/
def WatchScan.pull (sc : WatchScan) (c t : Nat) : Bool :=
  (sc.mxsAt t).isSome && sc.channels.contains c && decide (bitsOf (nthW sc.chans c) 1 1 = 1) && [0, 1, 52, 53].contains ((t - 5000) % 125)

/-! ### Readings (R398) -/

/-- The frames of a dwell that its conversion covers: the settle frames come first. -/
def dwellFrames (sc : WatchScan) (r : WatchReading) : List WatchFrame := (r.frames.drop sc.settle).take sc.conv

/-- Whether a frame of a channel is a break frame (R123). -/
def watchBreak (sc : WatchScan) (r : WatchReading) (f : WatchFrame) : Bool :=
  let w := nthW sc.chans r.ch
  (gapBreak (decide (bitsOf w 1 1 = 1)) (bitsOf w 11 8) f.slice).isSome

/-- Tick value and clip of a frame, against the internal reference (R69, R81). -/
def watchTick (f : WatchFrame) : Int × Bool := tickValue (2500000, 2500000) f.slice 0

/-- The raw code of a dwell: the mean of its used frames (R82, R83); none where it uses no frame. -/
def watchRaw (sc : WatchScan) (r : WatchReading) : Option Int :=
  let used := (dwellFrames sc r).filter fun f => !watchBreak sc r f
  if used = [] then none else some (divAway (used.foldl (fun a f => a + (watchTick f).1) 0) used.length)

/-- The Q16.16 value of a raw code and whether it saturated (R112 to R115). -/
def watchValue (sc : WatchScan) (r : WatchReading) (raw : Int) : Int × Bool :=
  let w := nthW sc.chans r.ch
  let (n, d, e) := inputNum raw (bitsOf w 11 8) 2500000 false
  if bitsOf w 0 0 = 1 then
    let t := if bitsOf w 12 12 = 1 then f48OfRat r.cjt 1 (-16) else F48.zero
    (linPoly (fun k => nthW sc.coefs (r.ch * 16 + k)) (f48OfRat n d e) t).toQ16
  else inputQ16 n d e

/-- Whether a conversion carries a clip, clamp, break or compliance condition; a lost compliance counts in MODE 1 (R78, R398). -/
def watchMarred (sc : WatchScan) (r : WatchReading) : Bool :=
  (dwellFrames sc r).any fun f =>
    (watchTick f).2 || f.clamp || watchBreak sc r f || (f.compl && decide (bitsOf (nthW sc.excs (r.ch / 2)) 1 0 = 1))

/-- The value of a good reading; a saturated value is no good one, as R115 gives it the clip condition. -/
def goodValue (sc : WatchScan) (r : WatchReading) : Option Int :=
  match watchRaw sc r with
  | none => none
  | some raw =>
    let (v, sat) := watchValue sc r raw
    if watchMarred sc r || sat then none else some v

/-- The good readings of a scan with their points, dwell by dwell, the channels of a dwell in ascending order. -/
def scanReadings (sc : WatchScan) (rs : List WatchReading) : List (Nat × Int) :=
  sc.mux.flatMap fun q => sc.channels.filterMap fun c =>
    (rs.find? fun r => r.ch = c ∧ r.mxs = q).bind fun r => (goodValue sc r).map fun v => (c * 16 + q, v)

/-- The histogram bin of a reading (R251). -/
def watchBin (it : WatchInterval) (v : Int) : Nat :=
  if it.hstep = 0 then 0
  else (clampI 0 15 ((v - it.hbase * 65536) * 10 / (it.hstep * 65536 : Nat))).toNat

/-- A reading that no point has. -/
def WatchPoint.none : WatchPoint := ⟨-2147483648, 2147483647, Option.none⟩

/-- One good reading of a point (R400). -/
def takeReading (p : Nat) (v : Int) (it : WatchInterval) : WatchInterval :=
  let pt := tabGet (fun _ => WatchPoint.none) it.points p
  let rise := match pt.last with
    | none => it.rise
    | some u =>
      match it.rise with
      | none => some (v - u, p)
      | some (b, q) => if b < v - u then some (v - u, p) else some (b, q)
  let b := watchBin it v
  { it with
    points := tabSet (fun _ => WatchPoint.none) it.points p
      ⟨if pt.hi < v then v else pt.hi, if v < pt.lo then v else pt.lo, some v⟩
    bins := it.bins.set b (satN 0xFFFF (nthN it.bins b + 1))
    rise := rise }

/-- A Q16.16 value in 0.01 units, within 16 bits and distinct from 0x8000. -/
def centi (v : Int) : Nat := ((clampI (-32767) 32767 (divAway (v * 100) 65536)) % 65536).toNat

/-- The WATCH_HIST record of an interval (R378). -/
def histRecord (it : WatchInterval) (hotTh : Int) (s : State) : List Word × State :=
  let best := it.points.foldl (fun (a : Option (Nat × Int)) e =>
    match a with
    | none => some (e.1, e.2.hi)
    | some b => if b.2 < e.2.hi then some (e.1, e.2.hi) else a) none
  let (w1, s) := drawWord s
  let (w2, s) := drawWord s
  let (w3, s) := drawWord s
  let (w4, s) := drawWord s
  let (hotPt, hotV) := match best with
    | some (p, v) => (p, ofI v)
    | none => (w1.toNat % 256, w2)
  let (riseV, risePt) := match it.rise with
    | some (v, p) => (centi v, p)
    | none => (w3.toNat % 65536, w4.toNat % 256)
  let hot := (it.points.filter fun e => hotTh ≤ e.2.hi).length
  let bins := (List.range 8).map fun i => (4 + i, ofN (nthN it.bins (2 * i) * 65536 + nthN it.bins (2 * i + 1)))
  (keptRecord 0x20 0 it.bank
    ([(2, ofN (it.wser * 65536 + satN 255 it.scans * 256 + satN 255 it.bad)),
      (3, ofN ((it.hbase % 65536).toNat * 65536 + it.hstep * 256 + hotPt))] ++ bins
      ++ [(12, hotV), (13, ofN (riseV * 65536 + risePt * 256 + satN 255 hot))]), s)

/-- The WATCH_EXT record of the points of an interval from place `k` on (R378). -/
def extRecord (it : WatchInterval) (k : Nat) : List Word :=
  let pts := (it.ptList.drop k).take 11
  let word (p : Nat) : Word :=
    let pt := tabGet (fun _ => WatchPoint.none) it.points p
    if pt.last.isNone then 0x80008000 else ofN (centi pt.hi * 65536 + centi pt.lo)
  keptRecord 0x21 0 (nthN pts 0)
    ((2, ofN (it.wser * 65536 + nthN pts 0 * 256 + pts.length))
      :: (List.range pts.length).map fun i => (3 + i, word (nthN pts i)))

/-- Closes the open interval: its records join the retained memory (R400). -/
def closeInterval (s : State) : State :=
  match s.wch.open_ with
  | none => s
  | some it =>
    let (h, s) := histRecord it (rdReg s (pageAddr wchPg 0x144)).toInt s
    let exts := (List.range ((it.ptList.length + 10) / 11)).map fun k => extRecord it (11 * k)
    wchHeld { s with wch := { s.wch with open_ := none, kept := s.wch.kept ++ [[it.anchor, h] ++ exts] } }

/-- The end of a scan: the interval closes at the end of its last one (R400). -/
def scanOver (abandon : Nat) (s : State) : State :=
  let s := { s with wch := { s.wch with scan := none } }
  let s := setF WCH.STAT_ABANDON wchPg 0 abandon (setB WCH.STAT_SCANNING wchPg 0 false s)
  match s.wch.open_ with
  | some it => if it.histN ≤ it.scans then closeInterval s else s
  | none => s

/-- WATCH_SCAN_END (R398, R400). -/
def scanEnd (readings : List WatchReading) (s : State) : State :=
  match s.wch.scan with
  | none => s
  | some sc =>
    let good := scanReadings sc readings
    let all := sc.mux.length * sc.channels.length
    let s := { s with wch := { s.wch with open_ := s.wch.open_.map fun it => good.foldl (fun a g => takeReading g.1 g.2 a) it } }
    let s := setF WCH.LAST_GOOD wchPg 0 (satN 255 good.length) (setF WCH.LAST_BAD wchPg 0 (satN 255 (all - good.length)) s)
    scanOver 0 s

/-- WATCH_SCAN_ABANDON (R399). -/
def scanAbandon (brownout : Bool) (s : State) : State :=
  if s.wch.scan.isNone then s
  else
    let s := { s with wch := { s.wch with open_ := s.wch.open_.map fun it => { it with bad := it.bad + 1 } } }
    let s := if brownout then incSat WCH.XFER_BROWNOUT wchPg 0 s else s
    scanOver (if brownout then 2 else 1) s

/-- Copies one retained record; whether it is marked transferred, which takes a verified copy. A falling rail can come between the two; a
word that could not be written ends its own record's copy alone. -/
def transferOne (ws : List Word) (s : State) : State × Bool :=
  let (s, ok) := transferRecord ws s
  let (m, s) := if ok ∧ s.nvs.stop.any (·.cut) then nvTake 1 s else (b2n ok, s)
  if ok ∧ m = 1 then
    (if decide (bitsOf (nthW ws 1) 31 24 = 0x20 ∧ bitsOf (nthW ws 13) 7 0 ≠ 0) then setIrq wchPg 17 s else s, true)
  else (if s.nvs.ended && !nvCut s then { s with nvs := { s.nvs with stop := none, ended := false } } else s, false)

/-- Copies the records of one retained interval: the number copied, and the records that stay retained. -/
def transferInterval (rs : List (List Word)) (s : State) : State × Nat × List (List Word) :=
  rs.foldl (fun a ws =>
    let (s, ok) := transferOne ws a.1
    (s, a.2.1 + b2n ok, if ok then a.2.2 else a.2.2 ++ [ws])) (s, 0, [])

/-- The transfer of a start-up (R402): an open interval is closed, every retained record is copied, oldest first. A record that was not copied,
as its write stopped or R383 dropped it, stays retained. -/
def watchTransfer (s : State) : State :=
  let s := closeInterval s
  let (s, n, left) := s.wch.kept.foldl (fun a it =>
    let (s, k, l) := transferInterval it a.1
    (s, a.2.1 + k, if l = [] then a.2.2 else a.2.2 ++ [l])) (s, 0, [])
  let s := setF WCH.XFER_COUNT wchPg 0 n (wchHeld { s with wch := { s.wch with kept := left } })
  if n = 0 then s else setIrq wchPg 16 s

/-- The messages that the unpowered period left (R394, R399). -/
def heldMessages (s : State) : State :=
  let b := getW WCH.XFER_BROWNOUT wchPg 0 s
  let s := if b = 0 then s else setF WCH.XFER_BROWNOUT wchPg 0 0 (raise wchPg 0x03 kWchBrownout b s)
  if s.clk.oscPend then raise clkPg 0x01 kClkOscFail 0 { s with clk := { s.clk with oscPend := false } } else s

end Sys2Proof.Machine
end

