-- ==== Sys2Proof/Machine/Bus.lean ====
section
/-!
DEFINITION. Accesses (R20 to R35, R275, R502, R504): where an address leads, what a read returns and leaves behind, the judging of
a write, the common registers of a page, and the settling of writes of one cycle.
-/
namespace Sys2Proof.Machine

/-! ### Where an address leads -/

/-- Where a host address leads (R21, R22). -/
inductive Place
  | register (page off : Nat) (desc : RegDesc)
  | engine (eng off : Nat)
  | parcel (loc word : Nat)
  | trace (unit word : Nat)
  | unpowered (page : Nat)
  | nowhere
  deriving DecidableEq, Repr

/-- Whether a page's domain is off: SENSE and DRIVE in STANDBY (R20, R485). -/
def pageOff (p : Nat) (s : State) : Bool :=
  s.pwr.standby && ((domainPages 0).contains p || (domainPages 2).contains p)

/-- The place of an address (R20 to R23). -/
def placeOf (a : Nat) (s : State) : Place :=
  if a % 4 ≠ 0 then .nowhere
  else if a < 0x10000 then
    if (pageKind (a / 0x400)).isNone then .nowhere
    else if pageOff (a / 0x400) s then .unpowered (a / 0x400)
    else match regAt (a / 0x400) (a % 0x400) with
      | some d => .register (a / 0x400) (a % 0x400) d
      | none => .nowhere
  else if a < 0x100000 then .nowhere
  else if a < 0x300000 then
    if (a - 0x100000) % 0x20000 < 0x18000 then .engine ((a - 0x100000) / 0x20000) ((a - 0x100000) % 0x20000) else .nowhere
  else if a < 0x340000 then .parcel ((a - 0x300000) / 32) ((a - 0x300000) % 32 / 4)
  else if a < 0x360000 then .trace ((a - 0x340000) / 0x8000) ((a - 0x340000) % 0x8000 / 4)
  else .nowhere

/-! ### Reads -/

/-- Whether a published output of an enabled unit of a page is stale (R49). -/
def blockStale (p : Nat) (s : State) : Bool :=
  match pageKind p with
  | some .sns => snsStale p s
  | some .moi => moiStale s
  | some .lpa => lpaStale p s
  | some .prf => prfStale s
  | some .ldg => ldgStale s
  | some .eng => engStale p s
  | some .fan => fanStale s
  | some .din => dinStale s
  | some .aou => aouStale s
  | some .lnk => decide (p = lnkPg) && lnkStale s
  | _ => false

/-- STAT of a page: RUNNING and STOPPED read 0 between a change of CTRL.RUN and the next boundary, FAULT and STALE show the
collector and the outputs (R27, R29, R49). -/
def statWord (p : Nat) (s : State) : Word :=
  let w := rdReg s (pageAddr p 0x0C)
  let run := getB CMN.CTRL_RUN p 0 s
  let w := if bitsOf w 0 0 = 1 ∧ run = false then setBits w 0 0 0 else w
  let w := if bitsOf w 1 1 = 1 ∧ run = true then setBits w 1 1 0 else w
  let w := setBits w 4 4 (bitsOf (fltStatWord p s) 0 0)
  let w := setBits w 3 3 (b2n (blockStale p s))
  if p = recPg then setBits w 18 18 (b2n (commMode s)) else w

/-- Whether SAFE_OUT_N is driven low: until RUN, and while the device scope is in reaction (R359, R479). -/
def safeOutLow (s : State) : Bool := scopeSafeOut s || decide (getW DEV.BOOT_STEP 0 0 s ≠ 7)

/-- What a block register shows where it shows computed state. -/
def blockRead (party : Party) (p off : Nat) (s : State) : Option Word :=
  match pageKind p with
  | some .dev => devRead off
  | some .tick => tickRead party off s
  | some .flt => if off = 0x100 then some (fltStateWord (safeOutLow s) s) else fltRead party off s
  | some .recd => recRead party off s
  | some .clk => clkRead off s
  | some .wch => wchRead off s
  | some .nvs => nvsRead party off s
  | some .dig => digRead party off s
  | some .hst => hstRead off s
  | some .can => canRead p off s
  | some .lnk => if p = lnkPg then lnkRead party off s else none
  | some .sns => snsRead party p off s
  | some .moi => moiRead off s
  | some .lpa => lpaRead p off s
  | some .prf => prfRead off s
  | some .trc => trcRead off s
  | some .ldg => ldgRead off s
  | some .eng => engRead p off s
  | some .vlv => vlvRead p off s
  | some .fan => fanRead off s
  | some .din => dinRead off s
  | some .dou => douRead off s
  | some .aou => aouRead off s
  | some .rpt => rptRead off s
  | some .pwr | none => none

/-- What a register reads to a party, holds apart. -/
def regWord (party : Party) (p off : Nat) (d : RegDesc) (s : State) : Word :=
  if off = 0x0C then statWord p s
  else if off = 0x18 then fltStatWord p s
  else if off = 0x28 then ofN (batten p s / 4294967296)
  else
    match (if off < 0x100 then none else blockRead party p off s) with
    | some w => w
    | none => if partyReg d then rdParty party (pageAddr p off) s else rdReg s (pageAddr p off)

/-- The key under which a read looks for a held word. -/
def holdKey (a : Nat) (s : State) : Nat :=
  match placeOf a s with
  | .register p off _ => if pageKind p = some .can then canHoldKey p off s else a
  | _ => a

/-- The holds and captures that a read of a register makes. -/
def regReadHold (party : Party) (p off : Nat) (s : State) : State :=
  if off = 0x28 then makeHold party [(pageAddr p off, ofN (batten p s))] (.onPage p) true s
  else
    match pageKind p with
    | some .dev => devReadHold party off s
    | some .tick => tickReadHold party off s
    | some .flt => fltReadHold party off s
    | some .recd => recReadHold party off s
    | some .clk => clkReadHold party off s
    | some .dig => digReadHold party off s
    | some .can => canReadHold party p off s
    | some .lnk => if p = lnkPg then lnkReadHold party off s else s
    | some .sns => snsReadHold party p off s
    | some .moi => moiReadHold party off s
    | _ => s

/-- The advance of a page's window address register after an access to its data register (R504). -/
def regAdvance (party : Party) (p off : Nat) (read : Bool) (s : State) : State :=
  match pageKind p with
  | some .recd => if read then recAdvance party off s else s
  | some .nvs => if off = 0x104 then nvsAdvance party s else s
  | some .can => if off = 0x144 then canAdvance p s else s
  | some .lnk => if p = lnkPg then lnkAdvance party off s else s
  | some .wch => if off = 0x14C then wchAdvance s else s
  | some .sns => if off = 0x3F4 then coefAdvance p s else s
  | some .moi => if off = 0x314 then tblAdvance s else s
  | some .lpa => if off = 0x38C then lpaWinAdvance p s else s
  | some .prf => if off = 0x304 then prfWinAdvance s else s
  | some .ldg => if off = 0x204 then ldgWinAdvance s else s
  | some .fan => if off = 0x344 then fanWinAdvance s else s
  | _ => s

/-- What a place reads, its report, and what the read leaves besides holds used up. -/
def placeRead (party : Party) (held : Option Word) (pl : Place) (s : State) : Word × Res × State :=
  match pl with
  | .nowhere => (0, .addrErr, s)
  | .unpowered _ => (0, .domainOff, s)
  | .register p off d =>
    match held with
    | some w => (w, .done, regAdvance party p off true s)
    | none => (regWord party p off d s, .done, regAdvance party p off true (regReadHold party p off s))
  | .engine e off => (rdWord s (engWinAddr e off s), .done, s)
  | .parcel loc w =>
    match held with
    | some v => (v, .done, s)
    | none =>
      let base := 0x300000 + loc * 32
      (parcelWord s loc w, .done,
        if w = 0 then makeHold party ((List.range 7).map fun i => (base + 4 * (i + 1), parcelWord s loc (i + 1))) .anyAccess false s
        else s)
  | .trace u i => (trcWord u i s, .done, s)

/-- One read access of a party: the word, its report, and the state. -/
def busRead (party : Party) (a : Nat) (s : State) : Word × Res × State :=
  let k := holdKey a s
  placeRead party (heldWord party k s) (placeOf a s) (touchHolds party a k true s)

/-! ### Writes to the common registers -/

/-- SOFT_RST of a block that has a running state to reset; the pages of the blocks that always run refuse it. -/
def softRst (p : Nat) (s : State) : State :=
  match pageKind p with
  | some .sns => snsSoftRst p s
  | some .moi => moiSoftRst s
  | some .lpa => lpaSoftRst p s
  | some .prf => prfSoftRst s
  | some .trc => forN 4 (fun u a => trcAbort u a) s
  | some .ldg => ldgSoftRst s
  | some .eng => engSoftRst p s
  | some .vlv => vlvSoftRst p s
  | some .fan => fanSoftRst s
  | some .din => dinSoftRst s
  | some .dou => douSoftRst s
  | some .aou => aouSoftRst s
  | some .can => canSoftRst p s
  | _ => s

/-- Whether a page has double buffers (CAP.DBUF). -/
def doubleBuffered (p : Nat) (s : State) : Bool := bitsOf (rdReg s (pageAddr p 4)) 23 23 = 1

/-- The check of a SWAP_REQ by the block's own rules (R160, R189, R250, R280); an accepted one is pending. -/
def swapRequest (p : Nat) (dataClr : Bool) (s : State) : WrOut :=
  let pend (r : WrOut) : WrOut := match r with
    | .ok s => .ok (setB CMN.STAT_SWAP_PEND p 0 true s)
    | r => r
  match pageKind p with
  | some .eng => engSwapReq (p - 0x20) dataClr s
  | some .moi => pend (moiSwapCheck s)
  | some .lpa => pend (lpaSwapCheck p s)
  | some .ldg => pend (ldgSwapCheck s)
  | some .sns => pend (.ok s)
  | _ => .ok s

/-- Whether a write of CTRL.RUN and SOFT_RST is refused (R27, R279, R484 and the pages that always run). -/
def runRefused (cx : WriteCx) (s : State) : Bool :=
  let p := cx.page
  let run := cxBits cx 0 0
  let sets := cxHas cx 0 && decide (run = 1)
  (alwaysRun p && (cxHas cx 0 || cxHas cx 1))
    || (cxHas cx 1 && getB CMN.CTRL_RUN p 0 s)
    || (sets && haltForce s && haltPage p)
    || (sets && decide (pageKind p = some .eng) && getB ENG.STAT_NOPROG p 0 s)

/-- What CTRL's block-specific commands do. -/
def ctrlBlock (cx : WriteCx) (s : State) : WrOut :=
  match pageKind cx.page with
  | some .sns => snsCtrl cx s
  | some .can => canCtrl cx s
  | some .eng => .ok (if cxHas cx 17 then probFail (cx.page - 0x20) 5 s else s)
  | _ => .ok s

/-- A write of CTRL: every part is judged before any has its effect. -/
def ctrlWrite (cx : WriteCx) (s : State) : WrOut :=
  let p := cx.page
  if runRefused cx s || cxOutside cx 15 8 1 255 then .refuse
  else
    match ctrlBlock cx s with
    | .ok s1 =>
      match (if cxHas cx 2 && doubleBuffered p s then swapRequest p (cxHas cx 16) s1 else .ok s1) with
      | .ok s2 =>
        let s3 := storeFields cx s2
        .ok (if cxHas cx 1 then softRst p s3 else s3)
      | .refuseTo _ =>
        -- a refusal that a status register records leaves everything else as it was
        match swapRequest p (cxHas cx 16) s with
        | .refuseTo s' => .refuseTo s'
        | _ => .refuse
      | r => r
    | r => r

/-- A write of FINJ (R30): the window of an armed injection starts with it. -/
def finjWrite (cx : WriteCx) (s : State) : WrOut :=
  let arms := cxHas cx 31 && decide (cxBits cx 31 31 = 1)
  if cx.fields = [] then .ok s
  else if bitsOf cx.old 31 31 = 1 then .refuse
  else if arms && (decide (cxNew cx 15 8 = 0) || !(pageCheckers cx.page).contains (cxNew cx 7 0)) then .refuse
  else
    let s := storeFields cx s
    .ok (if arms then { s with flt := { s.flt with
      injStart := tabSet (fun _ => (0 : Nat)) s.flt.injStart cx.page (usNow s) } } else s)

/-- A write of LOCK (lock codes table). A word without a key breaks the party's sequence. -/
def lockWrite (cx : WriteCx) (s : State) : WrOut :=
  let mine := cx.party.code * 64 + cx.page
  let key := cxBits cx 15 0
  let open_ := s.bus.unlock.contains mine
  let s' : State := { s with bus := { s.bus with unlock := s.bus.unlock.filter fun k => k ≠ mine } }
  if cx.fields = [] then .ok s'
  else if key = 0x7A3C then .ok (setB CMN.LOCK_LOCKED cx.page 0 true s')
  else if key = 0xF00F then .ok (setB CMN.LOCK_PERM cx.page 0 true (setB CMN.LOCK_LOCKED cx.page 0 true s'))
  else if key = 0xC3A7 then .ok { s' with bus := { s'.bus with unlock := mine :: s'.bus.unlock } }
  else if key = 0x5E61 ∧ open_ = true ∧ getB CMN.LOCK_PERM cx.page 0 s = false then
    .ok (setB CMN.LOCK_LOCKED cx.page 0 false s')
  else .refuseTo s'

/-- The effect of a permitted write to a common register. -/
def commonWrite (cx : WriteCx) (s : State) : WrOut :=
  if cx.off = 0x08 then ctrlWrite cx s
  else if cx.off = 0x10 ∧ cx.page = dinPg then .ok (dinEdge (storeFields cx s))
  else if cx.off = 0x18 then
    .ok (if cxHas cx 7 then setF CMN.FLT_STAT_COUNT cx.page 0 (b2n ((thisCycle s).sent.contains cx.page)) s else s)
  else if cx.off = 0x1C then finjWrite cx s
  else if cx.off = 0x20 then storeUnless (cxHas cx 0 && !ownerValid (cxBits cx 4 0)) cx s
  else if cx.off = 0x24 then lockWrite cx s
  else .ok (storeFields cx s)

/-- The effect of a permitted write to a block register. -/
def blockWrite (cx : WriteCx) (s : State) : WrOut :=
  match pageKind cx.page with
  | some .dev => devWrite cx s
  | some .tick => tickWrite cx s
  | some .flt => fltWrite cx s
  | some .recd => recWrite cx s
  | some .clk => clkWrite cx s
  | some .wch => wchWrite cx s
  | some .nvs => nvsWrite cx s
  | some .dig => digWrite cx s
  | some .hst => hstWrite cx s
  | some .can => canWrite cx s
  | some .lnk => lnkWrite cx s
  | some .sns => snsWrite cx s
  | some .moi => moiWrite cx s
  | some .lpa => lpaWrite cx s
  | some .prf => prfWrite cx s
  | some .trc => trcWrite cx s
  | some .ldg => ldgWrite cx s
  | some .eng => engWrite cx s
  | some .vlv => vlvWrite cx s
  | some .fan => fanWrite cx s
  | some .din => dinWrite cx s
  | some .dou => douWrite cx s
  | some .aou => aouWrite cx s
  | some .pwr => pwrWrite cx s
  | some .rpt => rptWrite cx s
  | none => .refuse

/-! ### Judging -/

/-- Whether a write of CHi_RANGE is a RANGE write although RANGE reads the value that it carries: NEXT_RANGE differs from it (R90). -/
def rangeWrite (data : Word) (p off : Nat) (f : FieldDesc) (s : State) : Bool :=
  decide (pageKind p = some .sns ∧ 0x100 ≤ off ∧ off < 0x200 ∧ off % 0x10 = 4 ∧ f.lo = 0)
    && decide (bitsOf data 3 0 ≠ (snsCh s ((p - 0x10) * 16 + (off - 0x100) / 0x10)).range)

/-- A write in its context: the register as the party reads it, and the fields that the write writes. -/
def writeCx (party : Party) (data : Word) (p off : Nat) (d : RegDesc) (s : State) : WriteCx :=
  let old := regWord party p off d s
  ⟨party, p, off, regUnit d off, d, data, old, d.fields.filter fun f => writesField data old f || rangeWrite data p off f s⟩

/-- Whether a party may write to a page at all now: host writes before RUN and in the recovery state, and SUP during a supervisor
start (R449, R480, R481). -/
def partyBarred (party : Party) (page : Option Nat) (s : State) : Bool :=
  match party with
  | .host =>
    if inRecovery s then !(page = some hstPg || page = some 0 || page = some pwrPg || page = some nvsPg)
    else decide (getW DEV.BOOT_STEP 0 0 s ≠ 7) && decide (page ≠ some hstPg)
  | .sup => getB NVS.STAT_SUPSTART nvsPg 0 s
  | _ => false

/-- Registers whose WO values are taken as a command although they write no field (R502): those of a sequence of keys, and CLK_SET_LO. -/
def keyRegister (p off : Nat) : Bool :=
  if off = 0x24 then true
  else match pageKind p with
    | some .flt => decide (off = 0x114)
    | some .recd => decide (off = 0x1C0)
    | some .dev => decide (off = 0x110)
    | some .clk => decide (off = 0x108 ∨ off = 0x10C)
    | _ => false

/-- A register write judged (R26, R502). A write that writes no field is done and changes nothing. -/
def judgeReg (cx : WriteCx) (s : State) : WrOut :=
  if partyBarred cx.party (some cx.page) s || allRo cx.desc || !fieldsPermitted cx s then .refuse
  else if cx.fields = [] ∧ keyRegister cx.page cx.off = false then .ok s
  else if cx.off < 0x100 then commonWrite cx s
  else blockWrite cx s

/-- Whether a register is the data register of a shadow copy (R465). -/
def shadowData (p off : Nat) : Bool :=
  match pageKind p with
  | some .sns => decide (off = 0x3F4)
  | some .moi => decide (off = 0x314)
  | some .lpa => decide (off = 0x38C)
  | some .ldg => decide (off = 0x204)
  | _ => false

/-- A write as it is judged among the writes of its cycle: the fields that it writes are those that it would change in `seen`, the state
before the cycle (R275), and the register reads what higher-ranking writes have left. -/
def cycleCx (seen : State) (party : Party) (data : Word) (p off : Nat) (d : RegDesc) (s : State) : WriteCx :=
  { writeCx party data p off d seen with old := regWord party p off d s }

/-- A write to a place, judged with the fields that it writes in the state `seen`. -/
def placeWriteSeen (seen : State) (party : Party) (data : Word) (pl : Place) (s : State) : Res × State :=
  let settle (r : WrOut) : Res × State := match r with
    | .ok s' => (.done, s')
    | .refuse => (.refused, s)
    | .refuseTo s' => (.refused, s')
    | .held => (.held, s)
  match pl with
  | .nowhere => (.addrErr, s)
  | .unpowered _ => (.domainOff, s)
  | .register p off d =>
    let (r, s') := settle (judgeReg (cycleCx seen party data p off d s) s)
    let s' := if r = .done ∧ shadowData p off = true then shadowTouched p s' else s'
    (r, regAdvance party p off false s')
  | .engine e off =>
    if partyBarred party none s || !engWinPermits e off party s then (.refused, s)
    else
      let s' := wrWord s (engWinAddr e off s) data
      (.done, if off < 0x10000 then shadowTouched (engPg e) s' else s')
  | .parcel loc w => if partyBarred party none s then (.refused, s) else settle (parcelWrite party loc w data s)
  | .trace _ _ => (.refused, s)

/-- A write to a place, judged. -/
def placeWrite (party : Party) (data : Word) (pl : Place) (s : State) : Res × State := placeWriteSeen s party data pl s

/-- What a place reads to a party, for the reads of the cycle that come before its writes (R266); none where each party has its own. -/
def placeWord (party : Party) (pl : Place) (s : State) : Option Word :=
  match pl with
  | .register p off d => if partyReg d then none else some (regWord party p off d s)
  | .engine e off => some (rdWord s (engWinAddr e off s))
  | .parcel loc w => some (parcelWord s loc w)
  | _ => none

/-- Notes what a register or word held before the first write of the cycle to it (R266). -/
def noteWas (a : Nat) (old : Option Word) (s : State) : State :=
  match old with
  | none => s
  | some w => noteCycle (fun c => if c.was.any (fun e => e.1 = a) then c else { c with was := tabIns a w c.was }) s

/-- The engine whose CTRL.RUN a write writes, if it is one. -/
def runTouched (seen : State) (r : BusReq) : Option Nat :=
  match placeOf r.addr seen with
  | .register p off d =>
    if decide (off = 0x08 ∧ pageKind p = some .eng) && cxHas (writeCx r.party r.data p off d seen) 0 then some (p - 0x20) else none
  | _ => none

/-- Whether a write of CTRL.RUN loses to a reaction write of its cycle (R275). -/
def losesToReaction (seen : State) (r : BusReq) (s : State) : Bool :=
  decide (Party.flt.rank < r.party.rank)
    && match runTouched seen r with
      | some e => (thisCycle s).runs.contains (1, e)
      | none => false

/-- An applied write of SUP to CTRL.RUN of an engine outranks the reaction writes of its cycle: one that came before it is to be presented
again with the RUN that it wrote (R275, R277). -/
def noteRun (seen : State) (r : BusReq) (old s : State) : State :=
  match (if r.party = .sup then runTouched seen r else none) with
  | none => s
  | some e =>
    let s := if (thisCycle s).runs.contains (1, e) then
        { s with flt := { s.flt with retry := s.flt.retry ++ [(e, getB CMN.CTRL_RUN (0x20 + e) 0 old, cycleNow s)] } }
      else s
    noteCycle (fun c => { c with runs := (0, e) :: c.runs }) s

/-- One write access of a party in a cycle whose state before it is `seen`. -/
def busWriteSeen (seen : State) (r : BusReq) (s : State) : Res × State :=
  let t := touchHolds r.party r.addr (holdKey r.addr s) false s
  let pl := placeOf r.addr s
  let (res, u) := placeWriteSeen seen r.party r.data pl t
  (res, if res = .done then noteRun seen r s (noteWas r.addr (placeWord r.party pl s) u) else u)

/-- The page whose IRQ_STAT.COLLIDE shows a lost write of the host (R277): that of the register, or that of the block whose window it is. -/
def pageOfAddr (a : Nat) : Nat :=
  if a < 0x10000 then a / 0x400
  else if a < 0x300000 then 0x20 + (a - 0x100000) / 0x20000
  else if a < 0x340000 then 0x1C else 0x1B

/-- A write that lost a collision leaves everything but what any access leaves: the party's holds (R34), an advance of the window (R504), and
for the host IRQ_STAT.COLLIDE (R277). -/
def loseWrite (r : BusReq) (s : State) : State :=
  let s := touchHolds r.party r.addr (holdKey r.addr s) false s
  let s := match placeOf r.addr s with
    | .register p off _ => regAdvance r.party p off false s
    | _ => s
  if r.party = .host then setIrq (pageOfAddr r.addr) 3 s else s

/-- One write access of a party, alone in its cycle but for reaction writes. -/
def busWrite (r : BusReq) (s : State) : Res × State :=
  if losesToReaction s r s then (.collided, loseWrite r s) else busWriteSeen s r s

/-- Notes the report of an access of the present command (R26). -/
def report (party : Party) (a : Nat) (res : Res) (s : State) : State :=
  { s with bus := { s.bus with reports := s.bus.reports ++ [⟨party, a, res⟩] } }

/-- A read by a party whose word and report are kept for the present command. -/
def readAccess (party : Party) (a : Nat) (s : State) : State :=
  let (w, r, t) := busRead party a s
  { t with bus := { t.bus with reports := s.bus.reports ++ [⟨party, a, r⟩], readData := s.bus.readData ++ [w] } }

/-- A write by a party whose report is kept for the present command. -/
def writeAccess (r : BusReq) (s : State) : State :=
  let (res, t) := busWrite r s
  { t with bus := { t.bus with reports := s.bus.reports ++ [⟨r.party, r.addr, res⟩] } }

/-! ### Writes of one cycle -/

/-- The units that a write touches (R275): fields by address and low bit, or a word. -/
def touched (r : BusReq) (s : State) : List (Nat × Nat) :=
  match placeOf r.addr s with
  | .register p off d => (writeCx r.party r.data p off d s).fields.map fun f => (r.addr, f.lo)
  | .nowhere | .unpowered _ => []
  | _ => [(r.addr, 0)]

/-- One write of a cycle: `s0` is the state before the cycle, `taken` the units of the writes applied before it in ranking order. A write that
would be refused takes no part in a collision. -/
def cycleWrite (s0 : State) (acc : List (Nat × Nat) × List Res × State) (r : BusReq) : List (Nat × Nat) × List Res × State :=
  let (taken, out, s) := acc
  let mine := touched r s0
  if (busWriteSeen s0 r s0).1 = .done ∧ (mine.any taken.contains = true ∨ losesToReaction s0 r s = true) then
    (taken, out ++ [.collided], report r.party r.addr .collided (loseWrite r s))
  else
    let (res, s) := busWriteSeen s0 r s
    (if res = .done then taken ++ mine else taken, out ++ [res], report r.party r.addr res s)

/-- COUNT counts an engine's refused and lost writes (R277). -/
def countWrite (e : Nat) (r : Res) (s : State) : State :=
  match r with
  | .refused => incSat ENG.COUNT_REFUSE (engPg e) 0 s
  | .collided => incSat ENG.COUNT_COLLIDE (engPg e) 0 s
  | _ => s

/-- The report of an engine's write that was settled among the writes of another command (R277): the outcome of its oldest posted write where
it is that write (R269), else PCOND of the context that runs; the engine's own command of the cycle finds it settled. -/
def tellEngine (n : Fin 16) (r : BusReq) (res : Res) (s : State) : State :=
  let x := engSt s n.val
  match x.posts with
  | q :: rest =>
    if q.addr / 4 * 4 = r.addr ∧ q.data = r.data then
      let w := ofN (q.addr / 4 * 4 * 256 + b2n q.old * 512 + 256 + res.code)
      countWrite n.val res (putEng n.val { x with posts := rest, outs := x.outs ++ [w] } s)
    else tell s
  | [] => tell s
where
  /-- PCOND of the running context, and the note for the engine's own command. -/
  tell (s : State) : State :=
    let s := countWrite n.val res s
    let l : Lane := if (engCtx s n.val .deadline).act then .deadline else .background
    let s := putCtx n.val l { engCtx s n.val l with pcond := res.code } s
    noteCycle (fun c => { c with settled := ⟨.eng n, r.addr, res⟩ :: c.settled }) s

/-- Reports to the engines among a list of writers. -/
def tellEngines (rs : List BusReq) (out : List Res) (s : State) : State :=
  (rs.zip out).foldl (fun a x => match x.1.party with
    | .eng n => tellEngine n x.1 x.2 a
    | _ => a) s

/-- The writes of one cycle in ranking order (R275, R277), with what each one's report says in that order. -/
def cycleWrites (rs : List BusReq) (s : State) : List Res × State :=
  let (_, out, s') := (sortBy (fun r => r.party.rank) rs).foldl (cycleWrite s) ([], [], s)
  (out, s')

/-- A command that is the writes of one cycle: each engine among the writers has its report (R277). -/
def cycleCommand (rs : List BusReq) (s : State) : State :=
  let (out, t) := cycleWrites rs s
  tellEngines (sortBy (fun r => r.party.rank) rs) out t

/-- The report of an engine's write that a command of this cycle has settled already. -/
def settledWrite (r : BusReq) (s : State) : Option Res :=
  match r.party with
  | .eng _ => ((thisCycle s).settled.find? fun x => decide (x.party = r.party ∧ x.addr = r.addr)).map fun x => x.res
  | _ => none

/-- One party's write among rivals of the same cycle: its own report, and the state. -/
def contestedWrite (r : BusReq) (rivals : List BusReq) (s : State) : Res × State :=
  match settledWrite r s with
  | some res => (res, s)
  | none =>
    let rs := rivals.filter fun x => x.party ≠ r.party
    let (out, t) := cycleWrites (r :: rs) s
    let order := sortBy (fun x => x.party.rank) (r :: rs)
    let place := (order.map fun x => decide (x = r)).findIdx id
    let others := (order.zip out).filter fun x => decide (x.1 ≠ r)
    (out.getD place .refused, tellEngines (others.map fun x => x.1) (others.map fun x => x.2) t)

end Sys2Proof.Machine
end

