-- ==== Sys2Proof/Machine/Bridge.lean ====
section
/-!
DEFINITION. Frames of the die bridges (R17, R18): the receiver's checks, the repetition, and what a lost word leaves.
-/
namespace Sys2Proof.Machine

/-- A receiver before its first frame. -/
def BridgeRx.fresh : BridgeRx := ⟨0, false⟩

/-- Whether a frame travels to the C-die. -/
def inward : Carried → Bool
  | .loopOutput _ | .legCommand _ _ => false
  | _ => true

/-- The key of a receiver: bridge and direction. -/
def rxKey (b : Bridge) (c : Carried) : Nat := (match b with | .ca => 0 | .cp => 2) + b2n (!inward c)

/-- Whether the CRC of a frame is right: over type, address, data and sequence number (R17). -/
def bridgeOk (f : BridgeFrameIn) : Bool :=
  decide (crcBridge ([f.ftype.toNat] ++ bytesOf 2 f.addr.toNat ++ bytesOf 4 f.data.toNat ++ [f.seq.toNat]) = f.crc.toNat)

/-- The word that a frame carried is late (R17): a sense record by page 0 to 2 and its place there (channel × 16 + point), a
moisture record, a loop output, a leg command, or a published value of the P-die. -/
def wordLost (c : Carried) (s : State) : State :=
  let drop (p u : Nat) : State := { s with drv := { s.drv with lost := s.drv.lost ++ [p * 64 + u] } }
  match c with
  | .other => s
  | .senseRecord p u => { s with sns := { s.sns with lost := s.sns.lost ++ [p * 256 + u] } }
  | .moistRecord m => putMoi m { moiCh s m with lost := true } s
  | .loopOutput q => { s with lpa := { s.lpa with lost := s.lpa.lost ++ [q] } }
  | .legCommand p l => loseCommand ((p - 0x30) * 8 + l) s
  | .fanSpeed n => drop fanPg n
  | .inputCount n => drop dinPg n
  | .analogReadback n => drop aouPg n

/-- BRIDGE_FRAME (R17): a frame with a wrong CRC or sequence number is requested again once; when the repetition is wrong too, the message
is sent and the word is lost. No frame crosses to a domain that is off (R485). -/
def bridgeFrame (b : Bridge) (f : BridgeFrameIn) (s : State) : State :=
  let k := rxKey b f.carried
  let rx := tabGet (fun _ => BridgeRx.fresh) s.bridges k
  let put (r : BridgeRx) (s : State) : State := { s with bridges := tabSet (fun _ => BridgeRx.fresh) s.bridges k r }
  let next := (rx.seq + 1) % 256
  if s.pwr.standby then s
  else if bridgeOk f && decide (f.seq.toNat = rx.seq) then put ⟨next, false⟩ s
  else if !rx.again then
    let s := setIrq 0 16 (put { rx with again := true } s)
    match b with
    | .ca => noteCount DEV.BRIDGE_CA_RETRY 0 0 s
    | .cp => noteCount DEV.BRIDGE_CP_RETRY 0 0 s
  else
    let s := wordLost f.carried (put ⟨next, false⟩ s)
    match b with
    | .ca => raise 0 0x01 kDevBridgeCrc f.addr.toNat (noteCount DEV.BRIDGE_CA_FAIL 0 0 s)
    | .cp => raise 0 0x02 kDevBridgeCrc f.addr.toNat (noteCount DEV.BRIDGE_CP_FAIL 0 0 s)

end Sys2Proof.Machine
end

