-- ==== Sys2Proof/Machine/LnkCore.lean ====
section
/-!
DEFINITION. What link frames do (R424 to R439): acceptance and violations, forwarding, path delay, synchronisation, cargo, digests,
commits and fault broadcast. The application of a commit's writes stands with the bus.
-/
namespace Sys2Proof.Machine

/-! ### Acceptance -/

/-- A violation (R439): counted on the port's page, and reported once per cause and long tide. -/
def linkViolation (port cause : Nat) (origin : Option Nat) (s : State) : State :=
  let p := portPg port
  let s := if cause = 1 then incSat LNK.PCNT0_FCS p 0 s else incSat LNK.PCNT1_DISCARD p 0 s
  let s := setIrq p 17 s
  let s := if cause = 5 then setB LNK.STAT2_ADDR_DUP lnkPg 0 true s else s
  if s.lnk.told.contains cause then s
  else
    let addr := (origin.getD 0) % 32 * 256 + cause
    let page := if cause = 1 then p else lnkPg
    let inst := if cause = 1 then 2 else if cause = 3 then 1 else 0xFF
    raise page inst kLnkProtocol addr { s with lnk := { s.lnk with told := s.lnk.told ++ [cause] } }

/-- Whether BLEN agrees with the body and with its TYPE (R424). -/
def lengthOk (f : LinkFrame) : Bool :=
  let n := f.body.length
  decide (f.blen.toNat = n) &&
    (match f.typ.toNat with
    | 0x01 => decide (n = 12)
    | 0x02 => decide (n = 0)
    | 0x03 => decide (n = 16)
    | 0x10 => decide (2 ≤ n)
    | 0x20 => decide (n = 8)
    | 0x21 => decide (n = 4)
    | 0x22 => decide (n = 16)
    | 0x30 => decide (16 ≤ n)
    | 0x31 | 0x32 => decide (n = 3)
    | 0x33 => decide (n = 20)
    | 0x40 => decide (1 ≤ n)
    | _ => false)

/-- Whether the body's fields are in range (cause 4 of R439). -/
def bodyOk (f : LinkFrame) : Bool :=
  let n := f.body.length
  match f.typ.toNat with
  | 0x10 => decide (n = 2 + 8 * bodyN f 1 1) && (List.range (bodyN f 1 1)).all fun i => decide (bodyN f (2 + 8 * i) 1 < 64)
  | 0x21 | 0x22 => decide (1 ≤ bodyN f 0 1 ∧ bodyN f 0 1 ≤ 3)
  | 0x30 => decide (bodyN f 12 1 ≤ 32 ∧ n = 16 + 8 * bodyN f 12 1)
  | 0x40 => decide (1 ≤ bodyN f 0 1 ∧ bodyN f 0 1 ≤ 8 ∧ n = 1 + 16 * bodyN f 0 1)
  | _ => true

/-- The sequence number `a` is ahead of `b` (R426). -/
def seqAhead (a b : Nat) : Bool :=
  let d := (a + 65536 - b) % 65536
  decide (1 ≤ d ∧ d ≤ 32767)

/-- Whether a frame's SEQ makes it new from its origin (R426). -/
def seqNew (f : LinkFrame) (s : State) : Bool :=
  let p := partnerAt s f.origin.toNat
  decide (p.heard = 0) || decide (p.heard + 512 ≤ s.time.ticks + 1) || seqAhead f.seq.toNat p.seq

/-- What acceptance answers of a frame. -/
inductive LinkVerdict
  | accepted
  | ownFrame
  | duplicate
  | violation (cause : Nat)
  deriving DecidableEq, Repr

/-- The judging of a frame whose FCS and EtherType are right (R424 to R426, R439). A master of a worse RANK is ignored within a tide of the last
SYNC of the one followed (R429). -/
def judgeFrame (f : LinkFrame) (s : State) : LinkVerdict :=
  let origin := f.origin.toNat
  if f.lcrc.toNat ≠ frameCrc f ∨ f.ver ≠ 1 ∨ lengthOk f = false ∨ 32 ≤ origin then .violation 3
  else if !bodyOk f then .violation 4
  else if origin = linkAddr s then
    if seqAhead f.seq.toNat ((s.lnk.seq + 65535) % 65536) then .violation 5 else .ownFrame
  else if !seqNew f s then .duplicate
  else
    let st := alignSt s
    match s.lnk.rank with
    | some r =>
      if f.typ = 1 ∧ (st = 1 ∨ st = 2) ∧ r < bodyN f 10 2 ∧ s.time.ticks < s.lnk.rankAt + 63 then .violation 7 else .accepted
    | none => .accepted

/-- An accepted frame leaves by the other port (R425, R428). -/
def forward (port residence : Nat) (f : LinkFrame) (s : State) : State :=
  if f.typ = 2 ∨ f.typ = 3 ∨ 31 ≤ f.hops.toNat then s
  else
    let more := if f.typ = 1 then residence + getW LNK.PSTAT_PDELAY (portPg port) 0 s else 0
    sendOut (1 - port) { f with hops := f.hops + 1, corr := f.corr + ofN more } s

/-- The bookkeeping of an accepted frame: SEQ, RXOK, the end of a partner-lost episode (R426, R440). -/
def acceptFrame (port : Nat) (f : LinkFrame) (s : State) : State :=
  let a := f.origin.toNat
  let p := partnerAt s a
  let s := if p.lost then endEp lnkPg kLnkPartnerLost a s else s
  incMod LNK.PCNT0_RXOK (portPg port) 0 (putPartner a { p with seq := f.seq.toNat, heard := s.time.ticks + 1, lost := false } s)

/-- A frame arrives at a port (R425, R426, R439): none unless it is accepted for use. -/
def takeFrame (port residence : Nat) (f : LinkFrame) (s : State) : State × Bool :=
  if !portUp port s then (s, false)
  else
    match judgeFrame f s with
    | .accepted => (forward port residence f (acceptFrame port f s), true)
    | .ownFrame => (s, false)
    | .duplicate => (incSat LNK.PCNT1_DUP (portPg port) 0 s, false)
    | .violation c => (linkViolation port c (if c = 3 then none else some f.origin.toNat) s, false)

/-- The reception of a frame of one TYPE: `use` acts on it once it is accepted. -/
def receiveFrame (port typ residence : Nat) (f : LinkFrame) (use : State → State) (s : State) : State :=
  if f.typ.toNat ≠ typ then s
  else
    let (s, ok) := takeFrame port residence f s
    if ok then use s else s

/-- Whether a frame is addressed to this device. -/
def forMe (f : LinkFrame) (s : State) : Bool := decide (f.dest.toNat = linkAddr s ∨ f.dest.toNat = 255)

/-- LINK_FRAME_DISCARD: a frame that is neither used nor forwarded (R425, R439). -/
def discardFrame (port : Nat) (fcsOk : Bool) (etype : BitVec 16) (f : LinkFrame) (s : State) : State :=
  if !portUp port s then s
  else if !fcsOk then linkViolation port 1 none s
  else if etype ≠ linkType then linkViolation port 2 none s
  else
    match judgeFrame f s with
    | .accepted => s
    | _ => (takeFrame port 0 f s).1

/-! ### Ports and path delay -/

/-- A port goes up or down (R423). -/
def portChange (port : Nat) (up aneg lpwr : Bool) (sqi : Nat) (s : State) : State :=
  let p := portPg port
  let s := if getB LNK.PSTAT_UP p 0 s = up then s else setIrq p 16 s
  setB LNK.PSTAT_UP p 0 up (setB LNK.PSTAT_ANEG_DONE p 0 aneg (setB LNK.PSTAT_LPWR p 0 lpwr (setF LNK.PSTAT_SQI p 0 sqi s)))

/-- A path-delay request leaves (R427). -/
def pdreqSend (port egress : Nat) (s : State) : State :=
  if portUp port s then
    sendFrame [port] 0x02 255 [] { s with lnk := { s.lnk with pdT1 := listSet s.lnk.pdT1 port (egress + 1) } }
  else s

/-- A path-delay request is answered on its port (R427). -/
def pdreqReceive (port : Nat) (f : LinkFrame) (ingress egress : Nat) (s : State) : State :=
  receiveFrame port 0x02 0 f (sendFrame [port] 0x03 f.origin.toNat (natBytes 8 ingress ++ natBytes 8 egress)) s

/-- The answer gives the path delay (R427). -/
def pdrespReceive (port : Nat) (f : LinkFrame) (ingress : Nat) (s : State) : State :=
  receiveFrame port 0x03 0 f (fun s =>
    let t1 := nthN s.lnk.pdT1 port
    if t1 = 0 then s
    else
      let d : Int := ((ingress : Int) - (t1 - 1 : Int)) - ((bodyN f 8 8 : Int) - (bodyN f 0 8 : Int))
      let s := { s with lnk := { s.lnk with pdT1 := listSet s.lnk.pdT1 port 0 } }
      setF LNK.PSTAT_PDELAY (portPg port) 0 (clampI 0 65535 (d / 2)).toNat s) s

/-! ### Time and mastership -/

/-- SYNC_SEND: a master sends its time (R428), `cycle` clocks after the start of phase 10. -/
def syncSend (cycle : Nat) (s : State) : State :=
  if alignSt s = 4 ∧ s.time.tick % 8 = 0 then
    let s := atPhase 10 0 s
    sendFrame [0, 1] 0x01 255
      (natBytes 6 s.time.tick ++ natBytes 1 (10 + cycle / 400) ++ [0] ++ natBytes 2 (cycle % 400) ++ natBytes 2 (linkRank s)) s
  else s

/-- The offset to the master in half-nanoseconds (R428); the ingress time is in system clocks. -/
def syncOffset (port ingress : Nat) (f : LinkFrame) (s : State) : Int :=
  let master : Nat := bodyN f 0 6 * 50000 + bodyN f 6 1 * 400 + bodyN f 8 2
  5 * ((ingress : Int) - (master : Int)) - 2 * (f.corr.toInt + (getW LNK.PSTAT_PDELAY (portPg port) 0 s : Int))

/-- An accepted SYNC frame is used where ROLE permits (R59, R429): a device follows the best RANK, and a master gives way only to a
better one. -/
def useSync (port ingress : Nat) (f : LinkFrame) (s : State) : State :=
  let rank := bodyN f 10 2
  let st := alignSt s
  if getF TICK.SYNC_CTRL_ROLE tickPg 0 s = 0 ∨ (st = 4 ∧ linkRank s ≤ rank) then s
  else
    let first := decide (s.lnk.rank ≠ some rank) || decide (st = 0 ∨ st = 4)
    let half := syncOffset port ingress f s
    let s := setF TICK.SYNC_STAT_MASTER_ADDR tickPg 0 f.origin.toNat (setF TICK.SYNC_STAT_PORT tickPg 0 port s)
    alignFrame first half { s with lnk := { s.lnk with rank := some rank, rankAt := s.time.ticks + 1 } }

/-- SYNC_RECEIVE (R428). -/
def syncReceive (port : Nat) (f : LinkFrame) (ingress residence : Nat) (s : State) : State :=
  receiveFrame port 0x01 residence f (useSync port ingress f) s

/-! ### Cargo -/

/-- The production tick of a source's value. -/
def srcTick (w : Nat) (s : State) : Option Nat :=
  let i := w % 4096
  if w / 4096 = 1 then (snsRec s i).tick
  else if w / 4096 = 2 then (moiCh s (i % 8)).recd.tick
  else (getPub w s).tick

/-- One entry of a cargo frame (R430); the stamp of a value that never existed gives the age 0xFFFF (log entry 44). -/
def cargoEntry (k : Nat) (s : State) : List Byte :=
  let src := bitsOf (getAct lnkPg 0 k s) 31 16
  let never := (s.time.tick + 1) % 65536
  let ent (status stamp : Nat) (v : Word) : List Byte :=
    natBytes 1 k ++ natBytes 1 status ++ natBytes 2 stamp ++ natBytes 4 v.toNat
  if src / 4096 = 0 then
    let t := tabGet (fun _ => 0) s.lnk.cvalTick k
    ent (if t = 0 then 0x80 else 0) (if t = 0 then never else (t - 1) % 65536) (getAct lnkPg 1 k s)
  else
    let r := readSrc src s
    let stamp := match srcTick src s with
      | some t => t % 65536
      | none => never
    ent (if src / 4096 = 1 ∨ src / 4096 = 2 then r.status else if r.stale || !r.ok then 0x80 else 0) stamp r.value

/-- CARGO_SEND: phase 42 of a cargo tick (R430). -/
def cargoSend (s : State) : State :=
  let per := 64 * cargoPeriod s
  if s.time.tick % per = 2 * linkAddr s then
    let s := atPhase 42 0 s
    let slots := (List.range 64).filter fun k => bitsOf (getAct lnkPg 0 k s) 0 0 = 1
    let body := natBytes 1 (cargoPeriod s) ++ natBytes 1 slots.length ++ slots.flatMap fun k => cargoEntry k s
    let s := slots.foldl (fun a k => verifySrc (bitsOf (getAct lnkPg 0 k a) 31 16) a) s
    sendFrame [0, 1] 0x10 255 body s
  else s

/-- CARGO_RECEIVE: the entries wait for the next boundary (R431). -/
def cargoReceive (port : Nat) (f : LinkFrame) (s : State) : State :=
  receiveFrame port 0x10 0 f (fun s =>
    let st := f.state.toNat % 8
    let entries := (List.range (bodyN f 1 1)).map fun i =>
      (⟨bodyN f (2 + 8 * i) 1, bodyN f (3 + 8 * i) 1, bodyN f (4 + 8 * i) 2, ofN (bodyN f (6 + 8 * i) 4)⟩ : CargoEntry)
    let c : CargoIn := ⟨f.origin.toNat, bodyN f 0 1, f.tick.toNat, decide (st = 2 ∨ st = 4) && aligned s, s.time.tick, entries⟩
    { s with lnk := { s.lnk with cargoIn := s.lnk.cargoIn ++ [c] } }) s

/-- A tick count `d` ticks before `t`, on the circle of 48 bits. -/
def tickBefore (t d : Nat) : Nat := (t + tickMod - d) % tickMod

/-- One entry becomes visible (R431). -/
def showEntry (c : CargoIn) (e : CargoEntry) (s : State) : State :=
  let k := cargoKey c.origin e.slot
  let back (now stamp : Nat) : Nat := (now % 65536 + 65536 - stamp) % 65536
  let t := tickBefore c.at_ (back (if c.aligned then c.at_ else c.tick) e.stamp)
  let s := putPub k ⟨e.value, some t, decide (128 ≤ e.status), e.status⟩ s
  let un := s.lnk.unaligned.erase k
  { s with lnk := { s.lnk with unaligned := if c.aligned then un else sortBy id (k :: un) } }

/-- The partners whose cargo is due at the present boundary and has not come (R432). -/
def cargoMissed (s : State) : List Nat :=
  (List.range 32).filter fun a =>
    match (partnerAt s a).due with
    | some d => decide (d ≤ s.time.ticks)
    | none => false

/-- The received cargo frames become visible at a boundary, before the tick count increases (R431, R432); `o` is the state that
received them. A boundary at which another partner is late is judged by CARGO_DUE. -/
def cargoVisible (s : State) : State :=
  let cs := s.lnk.cargoIn
  let s := { s with lnk := { s.lnk with cargoIn := [] } }
  cs.foldl (fun a c =>
    let a := c.entries.foldl (fun b e => showEntry c e b) a
    putPartner c.origin { partnerAt a c.origin with
      cper := c.cper, due := some (a.time.ticks + 64 * (c.cper + 1)), late := false } a) s

/-- The due instant of a boundary at which cargo became visible and no partner is late (R432). -/
def cargoPublished (some_ : Bool) (s : State) : State :=
  if some_ && (cargoMissed s).isEmpty then dueBoundary lnkPg true [] s else s

/-- CARGO_DUE: partners without a frame by their due instant (R432). -/
def cargoDue (s : State) : State :=
  let late := cargoMissed s
  if late = [] then s
  else
    let s := late.foldl (fun a p =>
      let q := partnerAt a p
      let a := forN 64 (fun k b => if (getPub (cargoKey p k) b).tick.isSome then stalePub (cargoKey p k) b else b) a
      putPartner p { q with due := q.due.map fun d => d + Nat.max 64 (64 * q.cper), late := true } a) s
    dueBoundary lnkPg true late s

/-- PARTNER_LOST: no accepted frame from an expected partner for LOST_T long tides (R440). -/
def partnerLost (a : Nat) (s : State) : State :=
  let p := partnerAt s a
  if bitAt (getF LNK.PMASK_MASK lnkPg 0 s) a && !p.lost
      && decide (p.heard - 1 + 8192 * getF LNK.LOST_LOST_T lnkPg 0 s ≤ s.time.ticks) then
    beginEp lnkPg 0xFF kLnkPartnerLost a (setIrq lnkPg 18 (putPartner a { p with lost := true } s))
  else s

/-! ### Digests -/

/-- DIGEST_SEND (R434). -/
def digestSend (s : State) : State :=
  if s.time.tick % 8192 = 64 + 2 * linkAddr s then sendFrame [0, 1] 0x20 255 (natBytes 8 (getPair digPg 0x108 s)) s else s

/-- DIGEST_RECEIVE (R434, R463). -/
def digestReceive (port : Nat) (f : LinkFrame) (s : State) : State :=
  receiveFrame port 0x20 0 f (fun s =>
    let a := f.origin.toNat
    let v := bodyN f 0 8
    let s := putPartner a { partnerAt s a with ridge := v, ridgeAt := s.time.ticks + 1 } s
    let st := f.state.toNat % 8
    if bitAt (getF DIG.CMPMASK_MASK digPg 0 s) a && decide (st = 2 ∨ st = 4) && aligned s then
      digCompare a (decide (v ≠ getPair digPg 0x108 s)) s
    else s) s

/-- DQUERY_RECEIVE: the answer leaves in the next tick (R434). -/
def dqueryReceive (port : Nat) (f : LinkFrame) (s : State) : State :=
  receiveFrame port 0x21 0 f (fun s =>
    if forMe f s then
      { s with lnk := { s.lnk with
        queries := s.lnk.queries ++ [⟨f.origin.toNat, bodyN f 0 1, bodyN f 1 1, bodyN f 2 2, s.time.ticks⟩] } }
    else s) s

/-- Whether a DQUERY's index exists (R434). -/
def queryDigest (level index : Nat) (s : State) : Option Nat :=
  if level = 3 ∧ 16 ≤ index then none else digestAt level index s

/-- DREPLY_SEND: the queries of earlier ticks are answered (R434). -/
def dreplySend (s : State) : State :=
  let qs := s.lnk.queries.filter fun q => decide (q.at_ < s.time.ticks)
  let s := { s with lnk := { s.lnk with queries := s.lnk.queries.filter fun q => !decide (q.at_ < s.time.ticks) } }
  qs.foldl (fun a q =>
    let d := queryDigest q.level q.index a
    sendFrame [0, 1] 0x22 q.origin (natBytes 1 q.level ++ natBytes 1 q.index ++ natBytes 2 q.qid
      ++ natBytes 1 (if d.isSome then 0 else 1) ++ [0, 0, 0] ++ natBytes 8 (d.getD 0)) a) s

/-- The query ends with a state (R434). -/
def queryEnd (st : Nat) (s : State) : State :=
  setIrq lnkPg 21 (setF LNK.DQ_STAT_STATE lnkPg 0 st { s with lnk := { s.lnk with query := none } })

/-- DREPLY_RECEIVE (R434). -/
def dreplyReceive (port : Nat) (f : LinkFrame) (s : State) : State :=
  receiveFrame port 0x22 0 f (fun s =>
    match s.lnk.query with
    | none => s
    | some (q, target, _) =>
      if decide (f.dest.toNat = linkAddr s) && decide (bodyN f 2 2 = q) && decide (f.origin.toNat = target) then
        if bodyN f 4 1 = 0 then queryEnd 2 (putPair lnkPg 0x178 (bodyN f 8 8) s) else queryEnd 4 s
      else s) s

/-- DQUERY_TIMEOUT: no reply within 8 tides (R434). -/
def dqueryTimeout (s : State) : State :=
  match s.lnk.query with
  | none => s
  | some (_, _, t) => if t + 512 ≤ s.time.ticks then queryEnd 3 s else s

/-! ### Commits: the target -/

/-- The state that TGT_STAT shows. -/
def tgtState (s : State) : Nat := getW LNK.TGT_STAT_STATE lnkPg 0 s

/-- The vote on a PREPARE (R436). -/
def voteOn (arm nw : Nat) (writes : List (Word × Word)) (s : State) : Nat :=
  if !aligned s then 1
  else if arm < s.time.tick + 128 then 2
  else if s.time.tick + 8388608 < arm then 3
  else if tgtState s = 1 ∨ tgtState s = 2 then 4
  else if nw = 0 ∨ 32 < nw ∨ writes.any (fun w => bitsOf w.1 1 0 ≠ 0) then 5
  else 0

/-- The vote that a coordinator's commit has had from this target (R436). -/
def votedFor (coord cid : Nat) (s : State) : Option Nat :=
  (s.lnk.voted.find? fun v => v.1 = coord ∧ v.2.1 = cid).map fun v => v.2.2

/-- The votes without those given to a coordinator. -/
def forgetVote (coord : Nat) (s : State) : List (Nat × Nat × Nat) := s.lnk.voted.filter fun v => v.1 ≠ coord

/-- A PREPARE reaches a target (R436): the state and its vote. A repeated PREPARE receives the same vote. -/
def targetPrepare (coord cid arm : Nat) (writes : List (Word × Word)) (s : State) : State × Nat :=
  match votedFor coord cid s with
  | some v => (s, v)
  | none =>
    let v := voteOn arm writes.length writes s
    let s := { s with lnk := { s.lnk with voted := (coord, cid, v) :: forgetVote coord s } }
    let s := setF LNK.TGT_STAT_CAUSE lnkPg 0 v s
    if v = 0 then
      (setF LNK.TGT_STAT_CID lnkPg 0 cid (setF LNK.TGT_STAT_STATE lnkPg 0 1
        { s with lnk := { s.lnk with target := some ⟨cid, coord, arm, writes, [], 0, none⟩ } }), 0)
    else (s, v)

/-- A target's commit ends with an outcome; its DONE is due in the next tick (R437). -/
def targetEnd (st outcome : Nat) (results : List Nat) (s : State) : State :=
  match s.lnk.target with
  | none => s
  | some t =>
    let s := { s with lnk := { s.lnk with
      voted := forgetVote t.coord s
      target := some { t with outcome := outcome, results := results, due := some s.time.ticks } } }
    let s := (List.range 4).foldl (fun a w =>
      setAct lnkPg 3 w (ofN ((List.range 8).foldl (fun n k => n * 16 + nthN results (8 * w + k)) 0)) a) s
    setF LNK.TGT_STAT_CAUSE lnkPg 0 outcome (setF LNK.TGT_STAT_STATE lnkPg 0 st s)

/-- TARGET_DISCARD: no DECIDE commit by tick A − 64 (R436). -/
def targetDiscard (s : State) : State :=
  match s.lnk.target with
  | some t =>
    if tgtState s = 1 ∧ t.arm ≤ s.time.tick + 64 then targetEnd 4 6 [] (raise lnkPg 0xFF kLnkCommitFail t.cid s) else s
  | none => s

/-- A DECIDE for a commit that the target does not hold: its vote has served. -/
def notHeld (coord cid : Nat) (s : State) : State × Bool :=
  (if (votedFor coord cid s).isSome then { s with lnk := { s.lnk with voted := forgetVote coord s } } else s, false)

/-- A DECIDE reaches a target that it names: the state, and whether the target holds the commit (R436, R437). A target that has ended
the commit sends its DONE once more. -/
def targetDecide (coord cid what : Nat) (s : State) : State × Bool :=
  let s := targetDiscard s
  match s.lnk.target with
  | none => notHeld coord cid s
  | some t =>
    if t.cid ≠ cid ∨ t.coord ≠ coord then notHeld coord cid s
    else if tgtState s = 1 then
      (if what = 1 then setF LNK.TGT_STAT_STATE lnkPg 0 2 s else targetEnd 4 7 [] s, true)
    else if tgtState s = 2 then (s, true)
    else ({ s with lnk := { s.lnk with target := some { t with due := some s.time.ticks } } }, true)

/-- The body of a DONE frame (R424, R437). -/
def doneBody (cid outcome : Nat) (results : List Nat) : List Byte :=
  natBytes 2 cid ++ natBytes 1 outcome ++ natBytes 1 (results.filter fun r => decide (r = 0)).length
    ++ (List.range 16).map fun i => BitVec.ofNat 8 (nthN results (2 * i) * 16 + nthN results (2 * i + 1))

/-! ### Commits: the coordinator -/

/-- The coordinator's state. -/
def cmtState (s : State) : Nat := getW LNK.CMT_STAT_STATE lnkPg 0 s

/-- Marks a partner in one of the coordinator's masks. -/
def cmtMark (off a : Nat) (s : State) : State :=
  let r := pageAddr lnkPg off
  wrReg s r (ofN (putBit (rdReg s r).toNat a true))

/-- The coordinator ends (R435). -/
def cmtFinal (st : Nat) (s : State) : State := setIrq lnkPg 20 (setF LNK.CMT_STAT_STATE lnkPg 0 st s)

/-- With every vote there the coordinator decides (R435). -/
def voteCheck (s : State) : State :=
  match s.lnk.commit with
  | none => s
  | some c =>
    if cmtState s = 1 ∧ c.voted = c.targets then
      setF LNK.CMT_STAT_STATE lnkPg 0 (if getW LNK.CMT_YES_MASK lnkPg 0 s = c.targets then 2 else 3) s
    else s

/-- With every DONE there the coordinator ends (R435). -/
def doneCheck (s : State) : State :=
  match s.lnk.commit with
  | none => s
  | some c =>
    let st := cmtState s
    if (st = 2 ∨ st = 3) ∧ getW LNK.CMT_DONE_MASK lnkPg 0 s = c.targets then cmtFinal (if st = 2 then 4 else 5) s else s

/-- A vote is counted; with the last one the coordinator decides (R435). -/
def countVote (a cause : Nat) (s : State) : State :=
  match s.lnk.commit with
  | none => s
  | some c =>
    if cmtState s = 1 ∧ bitAt c.targets a = true then
      let c := { c with voted := putBit c.voted a true }
      let s := { s with lnk := { s.lnk with commit := some c } }
      voteCheck (if cause = 0 then cmtMark 0x198 a s else s)
    else s

/-- A DONE is counted; with the last one the coordinator ends (R435). -/
def countDone (a outcome : Nat) (bad : Bool) (s : State) : State :=
  match s.lnk.commit with
  | none => s
  | some c =>
    let st := cmtState s
    if (st = 2 ∨ st = 3) ∧ bitAt c.targets a = true then
      let s := cmtMark 0x19C a s
      doneCheck (if outcome ≠ 0 || bad then cmtMark 0x1A0 a s else s)
    else s

/-- PREPARE_SEND: every 8 ticks until every target has voted, for at most 64 ticks (R435). With no target there is no vote to wait for. -/
def prepareSend (s : State) : State :=
  match s.lnk.commit with
  | none => s
  | some c =>
    let t := s.time.ticks - c.start
    if cmtState s = 1 ∧ c.voted = c.targets then voteCheck s
    else if cmtState s = 1 ∧ t % 8 = 0 ∧ t < 64 then
      let body := natBytes 2 c.cid ++ natBytes 6 c.arm ++ natBytes 4 c.targets ++ natBytes 1 c.writes.length ++ [0, 0, 0]
        ++ c.writes.flatMap fun w => natBytes 4 w.1.toNat ++ natBytes 4 w.2.toNat
      let s := sendFrame [0, 1] 0x30 255 body s
      if bitAt c.targets (linkAddr s) then
        let (s, v) := targetPrepare (linkAddr s) c.cid c.arm c.writes s
        countVote (linkAddr s) v s
      else s
    else s

/-- VOTE_TIMEOUT: a vote is missing after 64 ticks (R435). -/
def voteTimeout (s : State) : State :=
  match s.lnk.commit with
  | none => s
  | some c => if cmtState s = 1 ∧ c.start + 64 ≤ s.time.ticks then setF LNK.CMT_STAT_STATE lnkPg 0 3 s else s

/-- DECIDE_SEND: every 8 ticks from the first, one frame to each target, until every target has sent DONE or until tick
A + 128 (R435). The device's own target that does not hold the commit, as it voted no, answers outcome 8 as every target does (R437). -/
def decideSend (s : State) : State :=
  match s.lnk.commit with
  | none => s
  | some c =>
    let st := cmtState s
    let from_ := c.decided.getD s.time.ticks
    if (st = 2 ∨ st = 3) ∧ (s.time.ticks - from_) % 8 = 0 ∧ s.time.tick < c.arm + 128 then
      let s := { s with lnk := { s.lnk with commit := some { c with decided := some from_ } } }
      let body := natBytes 2 c.cid ++ natBytes 1 (if st = 2 then 1 else 2)
      let others := (List.range 32).filter fun a => bitAt c.targets a && decide (a ≠ linkAddr s)
      let s := others.foldl (fun b a => sendFrame [0, 1] 0x32 a body b) s
      if bitAt c.targets (linkAddr s) then
        let (s, known) := targetDecide (linkAddr s) c.cid (if st = 2 then 1 else 2) s
        if known then s else countDone (linkAddr s) 8 false s
      else doneCheck s
    else s

/-- COMMIT_TIMEOUT: tick A + 128 has come without every DONE (R435). -/
def commitTimeout (s : State) : State :=
  match s.lnk.commit with
  | none => s
  | some c => if (cmtState s = 2 ∨ cmtState s = 3) ∧ c.arm + 128 ≤ s.time.tick then cmtFinal 6 s else s

/-- The writes of a PREPARE frame. -/
def prepareWrites (f : LinkFrame) : List (Word × Word) :=
  (List.range (bodyN f 12 1)).map fun k => (ofN (bodyN f (16 + 8 * k) 4), ofN (bodyN f (20 + 8 * k) 4))

/-- PREPARE_RECEIVE (R436). -/
def prepareReceive (port : Nat) (f : LinkFrame) (s : State) : State :=
  receiveFrame port 0x30 0 f (fun s =>
    if bitAt (bodyN f 8 4) (linkAddr s) then
      let cid := bodyN f 0 2
      let (s, v) := targetPrepare f.origin.toNat cid (bodyN f 2 6) (prepareWrites f) s
      sendFrame [0, 1] 0x31 f.origin.toNat (natBytes 2 cid ++ natBytes 1 v) s
    else s) s

/-- VOTE_RECEIVE (R435). -/
def voteReceive (port : Nat) (f : LinkFrame) (s : State) : State :=
  receiveFrame port 0x31 0 f (fun s =>
    match s.lnk.commit with
    | some c => if forMe f s && decide (c.cid = bodyN f 0 2) then countVote f.origin.toNat (bodyN f 2 1) s else s
    | none => s) s

/-- DECIDE_RECEIVE (R437, R439): an unknown CID is answered with outcome 8. -/
def decideReceive (port : Nat) (f : LinkFrame) (s : State) : State :=
  receiveFrame port 0x32 0 f (fun s =>
    if forMe f s then
      let cid := bodyN f 0 2
      let (s, known) := targetDecide f.origin.toNat cid (bodyN f 2 1) s
      if known then s
      else
        let s := linkViolation port 6 (some f.origin.toNat) s
        sendFrame [0, 1] 0x33 f.origin.toNat (doneBody cid 8 []) s
    else s) s

/-- DONE_SEND: in the tick after the end of a target's commit (R437). -/
def doneSend (s : State) : State :=
  match s.lnk.target with
  | none => s
  | some t =>
    match t.due with
    | none => s
    | some d =>
      if d < s.time.ticks then
        let s := setIrq lnkPg 19 { s with lnk := { s.lnk with target := some { t with due := none } } }
        if t.coord = linkAddr s then countDone t.coord t.outcome (t.results.any fun r => decide (r ≠ 0)) s
        else sendFrame [0, 1] 0x33 t.coord (doneBody t.cid t.outcome t.results) s
      else s

/-- DONE_RECEIVE (R435). -/
def doneReceive (port : Nat) (f : LinkFrame) (s : State) : State :=
  receiveFrame port 0x33 0 f (fun s =>
    match s.lnk.commit with
    | some c =>
      if forMe f s && decide (c.cid = bodyN f 0 2) then
        countDone f.origin.toNat (bodyN f 2 1) (decide (bodyN f 4 16 ≠ 0)) s
      else s
    | none => s) s

/-! ### Fault broadcast -/

/-- FAULT_FRAME_SEND: at most one frame per tick, at most 8 entries (R438). -/
def faultSend (s : State) : State :=
  let es := s.flt.fbOut.take 8
  if es = [] ∨ s.lnk.fbSent = some s.time.ticks then s
  else
    let ent (h : HistEntry) : List Byte := natBytes 4 h.seq ++ natBytes 2 h.src ++ natBytes 2 h.kind ++ natBytes 2 h.addr
      ++ natBytes 1 h.sev ++ natBytes 1 h.phase ++ natBytes 4 h.tick
    let s := { s with flt := { s.flt with fbOut := s.flt.fbOut.drop 8 }, lnk := { s.lnk with fbSent := some s.time.ticks } }
    sendFrame [0, 1] 0x40 255 (natBytes 1 es.length ++ es.flatMap ent) s

/-- FAULT_FRAME_RECEIVE (R438). -/
def faultReceive (port : Nat) (f : LinkFrame) (s : State) : State :=
  receiveFrame port 0x40 0 f (fun s =>
    let a := f.origin.toNat
    forN (bodyN f 0 1) (fun i s =>
      let sev := bodyN f (11 + 16 * i) 1
      if bitAt (getF LNK.RFMASK_MASK lnkPg 0 s) a && decide (getF LNK.FCFG_RF_MIN lnkPg 0 s ≤ sev) then
        let s := setF LNK.RF_LAST_KIND lnkPg 0 (bodyN f (7 + 16 * i) 2) (setF LNK.RF_LAST_ORIGIN lnkPg 0 a
          (setF LNK.RF_LAST_SEV lnkPg 0 sev s))
        raise lnkPg 0xFF kLnkRemoteFault (a * 256 + sev % 8) (setIrq lnkPg 22 s)
      else s) s) s

end Sys2Proof.Machine
end

