-- ==== Sys2Proof/Machine/Commit.lean ====
section
/-!
DEFINITION. COMMIT_APPLY (R437): a target applies the writes of a commit at its arm tick.
-/
namespace Sys2Proof.Machine

/-- The writes of a commit in list order, one per arbiter access, each among the rivals of its cycle. -/
def commitWrites : List (Word × Word) → List (List BusReq) → List Nat → State → List Nat × State
  | [], _, out, s => (out, s)
  | (a, v) :: ws, rivals, out, s =>
    let (r, s) := contestedWrite ⟨.link, a.toNat, v⟩ (rivals.headD []) s
    commitWrites ws rivals.tail (out ++ [r.code]) s

/-- COMMIT_APPLY (R437): at tick A, from phase 42, a committed target that is aligned applies its writes. -/
def commitApply (rivals : List (List BusReq)) (s : State) : State :=
  match s.lnk.target with
  | none => s
  | some t =>
    if tgtState s = 2 ∧ t.arm ≤ s.time.tick then
      let s := atPhase 42 0 s
      if aligned s then
        let (rs, s) := commitWrites t.writes rivals [] s
        targetEnd 3 0 rs s
      else targetEnd 4 1 [] (raise lnkPg 0xFF kLnkCommitFail t.cid s)
    else s

end Sys2Proof.Machine
end

