-- ==== Sys2Proof/Machine/EngFloat.lean ====
section
/-!
DEFINITION. The engines' integer and binary32 operations (R260 to R262), with the flags of FSTAT: bit 0 inexact, 1 underflow,
2 overflow, 3 division by zero, 4 invalid.
-/
namespace Sys2Proof.Machine

/-! ### Integers -/

/-- A word from an integer, saturating at the signed range. -/
def satWord (i : Int) : Word := ofI (sat32 i).1

/-- Leading zeros of a word (CLZ). -/
def clzWord (a : Word) : Word := if a = 0 then 32 else ofN (31 - a.toNat.log2)

/-- SATQ: a limited to −2^s … 2^s − 1. -/
def satqWord (a : Word) (s : Nat) : Word :=
  if s = 31 then a else ofI (clampI (-((2 ^ s : Nat) : Int)) (((2 ^ s : Nat) : Int) - 1) a.toInt)

/-- QMUL: (a × b) / 2^s, rounded to nearest with ties away from 0, saturating. -/
def qmulWord (a b : Word) (s : Nat) : Word := satWord (divAway (a.toInt * b.toInt) (2 ^ s))

/-- Division by 0 of a signed operation (R261). -/
def divZero (a : Word) : Word := if a.toInt = 0 then 0 else if a.toInt < 0 then 0x80000000 else 0x7FFFFFFF

/-- DIV: quotient rounded toward 0. -/
def divWord (a b : Word) : Word := if b = 0 then divZero a else ofI (a.toInt.tdiv b.toInt)

/-- DIVU. -/
def divuWord (a b : Word) : Word := if b = 0 then 0xFFFFFFFF else ofN (a.toNat / b.toNat)

/-- REM, with the sign of a. -/
def remWord (a b : Word) : Word := if b = 0 then a else ofI (a.toInt.tmod b.toInt)

/-- QDIV: (a × 2^s) / b, rounded toward 0, saturating. -/
def qdivWord (a b : Word) (s : Nat) : Word :=
  if b = 0 then divZero a else satWord ((a.toInt * ((2 ^ s : Nat) : Int)).tdiv b.toInt)

/-! ### binary32 -/

/-- A float result: the word and the flags it raises. -/
abbrev FRes := Word × Nat

/-- The quiet NaN of every NaN result. -/
def qNaN : Word := 0x7FC00000

/-- Whether a word is a signaling NaN. -/
def f32Snan (w : Word) : Bool := f32Nan w && decide (bitsOf w 22 22 = 0)

/-- The NaN result of an operation on some operands: invalid for a signaling NaN. -/
def nanRes (ops : List Word) : FRes := (qNaN, if ops.any f32Snan then 16 else 0)

/-- The invalid result. -/
def invalidRes : FRes := (qNaN, 16)

/-- Rounds ± `q × 2^e`, `sticky` for a non-zero part below, with the flags of R262. -/
def f32Flags (neg : Bool) (q : Nat) (e : Int) (sticky : Bool) : FRes :=
  if q = 0 then (f32Word neg 0, 0)
  else
    let w := f32Round neg q e sticky
    let bits : Int := (q.log2 : Int) + 1
    let cut := max (e + bits - 24) (-149) - e
    let inexact := sticky || (decide (0 < cut) && decide (q % 2 ^ cut.toNat ≠ 0))
    let ut := (bits - 24)
    let u := if ut ≤ 0 then q * 2 ^ (-ut).toNat else roundDrop q ut.toNat sticky
    let ue := e + ut
    let top := if u = 16777216 then ue + 24 else ue + 23
    let tiny := decide (top < -126)
    let isOver := f32Inf w
    (w, b2n (inexact || isOver) + (if inexact && tiny then 2 else 0) + (if isOver then 4 else 0))

/-- Rounds an exact integer in units of 2^`e`; `zneg` is the sign of an exact zero. -/
def f32FlagsInt (v e : Int) (zneg : Bool) : FRes :=
  if v = 0 then (f32Word zneg 0, 0) else f32Flags (decide (v < 0)) v.natAbs e false

/-- Sum of two words (FADD). -/
def f32Add (a b : Word) : FRes :=
  if f32Nan a || f32Nan b then nanRes [a, b]
  else if f32Inf a then (if f32Inf b && (f32Neg a != f32Neg b) then invalidRes else (a, 0))
  else if f32Inf b then (b, 0)
  else f32FlagsInt (f32Int a + f32Int b) (-149) (f32Neg a && f32Neg b)

/-- The word with its sign inverted. -/
def f32Flip (w : Word) : Word := w ^^^ 0x80000000

/-- Difference (FSUB); the NaN rules see the operands as given. -/
def f32Sub (a b : Word) : FRes := if f32Nan a || f32Nan b then nanRes [a, b] else f32Add a (f32Flip b)

/-- Product (FMUL). -/
def f32Mul (a b : Word) : FRes :=
  let neg := f32Neg a != f32Neg b
  if f32Nan a || f32Nan b then nanRes [a, b]
  else if f32Inf a || f32Inf b then
    (if f32Zero a || f32Zero b then invalidRes else (f32InfOf neg, 0))
  else
    let (p, x) := f32Mag a
    let (q, y) := f32Mag b
    f32Flags neg (p * q) (x + y) false

/-- d + a × b with one rounding (FMAC). -/
def f32Mac (d a b : Word) : FRes :=
  let neg := f32Neg a != f32Neg b
  let zeroInf := (f32Zero a && f32Inf b) || (f32Inf a && f32Zero b)
  if zeroInf then invalidRes
  else if f32Nan d || f32Nan a || f32Nan b then nanRes [d, a, b]
  else if f32Inf a || f32Inf b then
    (if f32Inf d && (f32Neg d != neg) then invalidRes else (f32InfOf neg, 0))
  else if f32Inf d then (d, 0)
  else
    f32FlagsInt (f32Int d * 2 ^ 149 + f32Int a * f32Int b) (-298) (f32Neg d && neg)

/-- Order of two words that are no NaN, −0 below +0 where `zeros`. -/
def f32Less (zeros : Bool) (a b : Word) : Bool :=
  let v (w : Word) : Int := if f32Inf w then (if f32Neg w then -(2 ^ 300) else 2 ^ 300) else f32Int w
  decide (v a < v b) || (zeros && decide (v a = v b) && f32Neg a && !f32Neg b)

/-- FMIN (`low`) and FMAX (R262). -/
def f32MinMax (low : Bool) (a b : Word) : FRes :=
  let fl := if f32Snan a || f32Snan b then 16 else 0
  if f32Nan a && f32Nan b then (qNaN, fl)
  else if f32Nan a then (b, fl)
  else if f32Nan b then (a, fl)
  else if f32Less true a b = low then (a, 0) else (b, 0)

/-- FLT and FLE (`eq`): 0 and invalid for any NaN. -/
def f32Cmp (eq : Bool) (a b : Word) : FRes :=
  if f32Nan a || f32Nan b then (0, 16)
  else (ofN (b2n (f32Less false a b || (eq && !f32Less false b a))), 0)

/-- FEQ: invalid only for a signaling NaN. -/
def f32Eq (a b : Word) : FRes :=
  if f32Nan a || f32Nan b then (0, if f32Snan a || f32Snan b then 16 else 0)
  else (ofN (b2n (!f32Less false a b && !f32Less false b a)), 0)

/-- Quotient (FDIV). -/
def f32Div (a b : Word) : FRes :=
  let neg := f32Neg a != f32Neg b
  if f32Nan a || f32Nan b then nanRes [a, b]
  else if f32Inf a then (if f32Inf b then invalidRes else (f32InfOf neg, 0))
  else if f32Inf b then (f32Word neg 0, 0)
  else if f32Zero b then (if f32Zero a then invalidRes else (f32InfOf neg, 8))
  else
    let (p, x) := f32Mag a
    let (q, y) := f32Mag b
    let n := p * 2 ^ 80
    f32Flags neg (n / q) (x - y - 80) (decide (n % q ≠ 0))

/-- Square root (FSQRT). -/
def f32Sqrt (a : Word) : FRes :=
  if f32Nan a then nanRes [a]
  else if f32Zero a then (a, 0)
  else if f32Neg a then invalidRes
  else if f32Inf a then (a, 0)
  else
    let (p, x) := f32Mag a
    let k := 80 + x % 2
    let n := p * 2 ^ k.toNat
    let r := isqrt n
    f32Flags false r ((x - k) / 2) (decide (r * r ≠ n))

/-- Signed integer in units of 2^`e` to binary32 (FCVTIS, FCVTQS). -/
def f32FromInt (a : Word) (e : Int) : FRes := f32FlagsInt a.toInt e false

/-- binary32 to a signed integer, toward 0, saturating (FCVTSI). -/
def f32ToInt (a : Word) : FRes :=
  if f32Nan a then (0, 16)
  else if f32Inf a then (if f32Neg a then 0x80000000 else 0x7FFFFFFF, 16)
  else
    let v := f32Int a
    let q := v.tdiv (2 ^ 149)
    let (r, sat) := sat32 q
    (ofI r, if sat then 16 else b2n (decide (q * 2 ^ 149 ≠ v)))

/-- binary32 to Q16.16, rounded as R115 lays down (FCVTSQ). -/
def f32ToQ (a : Word) : FRes :=
  if f32Nan a then (0, 16)
  else if f32Inf a then (if f32Neg a then 0x80000000 else 0x7FFFFFFF, 16)
  else
    let v := f32Int a * 65536
    let q := divAway v (2 ^ 149)
    let (r, sat) := sat32 q
    (ofI r, if sat then 16 else b2n (decide (q * 2 ^ 149 ≠ v)))

end Sys2Proof.Machine
end

