-- ==== Sys2Proof/Machine/EngRun.lean ====
section
/-!
DEFINITION. Instructions of the control engines (R254 to R274): encodings, the opcode table's patterns, when a context takes the
next instruction, and the shared operations from which the instructions are made.
-/
namespace Sys2Proof.Machine

/-! ### Encodings (R259) -/

/-- A word in R format: fn, d, a, b, s. -/
def encR (fn d a b sh : Nat) : Nat := fn * 16 + d * 1024 + a * 32768 + b * 1048576 + sh * 33554432

/-- A word in F format: fn, d, a, b. -/
def encF (fn d a b : Nat) : Nat := 1 + fn * 16 + d * 1024 + a * 32768 + b * 1048576

/-- A word in I or P format, or in B format with a in the place of d and b in the place of a: class, sub, two registers,
immediate. -/
def encI (cls sub d a imm : Nat) : Nat := cls + sub * 16 + d * 64 + a * 2048 + imm * 65536

/-- A word in J format. -/
def encJ (link off : Nat) : Nat := 3 + link * 16 + off * 32

/-- A word in X format: fn, d, a, sp. -/
def encX (fn d a sp : Nat) : Nat := 2 + fn * 16 + d * 1024 + a * 32768 + sp * 1048576

/-- The bits of an R word that its instruction gives a meaning or that must be 0; a field that the instruction does not name and that
nothing requires to be 0 may hold anything. -/
def maskR3 : Nat := 0xC1FFFFFF

/-- As `maskR3`, for an instruction with d and a only. -/
def maskR2 : Nat := 0xC00FFFFF

/-- As `maskR3`, for an F word that names d and a only. -/
def maskF2 : Nat := 0xFE0FFFFF

/-- As `maskR3`, for X words that name nothing, d, a, d and sp, or a and sp. -/
def maskX : Nat := 0xFF0003FF

/-- X words that name d. -/
def maskXd : Nat := 0xFF007FFF

/-- X words that name a. -/
def maskXa : Nat := 0xFF0F83FF

/-- X words that name d and sp. -/
def maskXds : Nat := 0xFFF07FFF

/-- X words that name a and sp. -/
def maskXas : Nat := 0xFFFF83FF

/-- All bits. -/
def maskAll : Nat := 0xFFFFFFFF

/-- One pattern of the opcode table: the fixed bits of an instruction. -/
structure OpRow where
  mask : Nat
  pat : Nat
  deriving DecidableEq, Repr

/-- R-format patterns (R260). -/
def opRowsR : List OpRow :=
  ((List.range 16).map fun fn => ⟨0xC00003FF, encR fn 0 0 0 0⟩)
    ++ ([0x10, 0x11, 0x12, 0x13].map fun fn => ⟨0xC1F003FF, encR fn 0 0 0 0⟩)
    ++ ([0x18, 0x19, 0x1A, 0x1B, 0x1C, 0x1D, 0x1E, 0x1F].map fun fn => ⟨0xC00003FF, encR fn 0 0 0 0⟩)

/-- F-format patterns. -/
def opRowsF : List OpRow :=
  ([0, 1, 2, 3, 4, 5, 8, 9, 0xA, 0xC, 0x10, 0x11, 0x12, 0x13].map fun fn => ⟨0xFE0003FF, encF fn 0 0 0⟩)
    ++ ([6, 7, 0xD].map fun fn => ⟨0xFFF003FF, encF fn 0 0 0⟩)

/-- I-format patterns. -/
def opRowsI : List OpRow :=
  [⟨0x3F, encI 4 0 0 0 0⟩, ⟨0x3F, encI 4 1 0 0 0⟩, ⟨0xF83F, encI 4 2 0 0 0⟩, ⟨0xFFFF07FF, encI 4 3 0 0 0⟩,
   ⟨0x3F, encI 5 0 0 0 0⟩, ⟨0x3F, encI 5 1 0 0 0⟩, ⟨0x3F, encI 5 2 0 0 0⟩, ⟨0x0F, 6⟩, ⟨0x0F, 7⟩]

/-- B-format and J-format patterns. -/
def opRowsB : List OpRow :=
  [⟨0x0F, 8⟩, ⟨0x3F, encI 9 0 0 0 0⟩, ⟨0x3F, encI 9 1 0 0 0⟩, ⟨0xF83F, encI 9 2 0 0 0⟩, ⟨0x0F, 3⟩]

/-- P-format patterns. -/
def opRowsP : List OpRow :=
  [⟨0x3F, encI 10 0 0 0 0⟩, ⟨0x3F, encI 10 1 0 0 0⟩, ⟨0x3F, encI 10 2 0 0 0⟩, ⟨0xF83F, encI 11 0 0 0 0⟩,
   ⟨0xFFFF003F, encI 11 1 0 0 0⟩, ⟨0xFFF0F83F, encI 11 2 0 0 0⟩]

/-- X-format patterns. -/
def opRowsX : List OpRow := (List.range 7).map fun fn => ⟨0xFF0003FF, encX fn 0 0 0⟩

/-- The opcode table as patterns (R259, R260). -/
def opRows : List OpRow := opRowsR ++ opRowsF ++ opRowsI ++ opRowsB ++ opRowsP ++ opRowsX

/-- Whether a word matches a pattern. -/
def matchesRow (w : Nat) (r : OpRow) : Bool := decide (w &&& r.mask = r.pat)

/-- Whether a word matches an entry of the opcode table, with 0 in every field marked 0 (R259). -/
def wordDefined (w : Nat) : Bool := opRows.any (matchesRow w)

/-! ### The next instruction of a context -/

/-- What a context needs to know of an instruction before it starts: the bits that its word must show, the registers it reads and
writes, the cycles that must fit and those it takes, whether its result comes with latency 3, and whether it accesses data memory. -/
structure EngForm where
  row : OpRow
  reads : List Nat
  writes : List Nat
  fit : Nat
  cost : Nat
  late : Bool
  mem : Bool
  deriving DecidableEq, Repr

/-- What an instruction answers: the next instruction follows, a jump, the end of the lane's work, or a trap. -/
inductive EngOut
  | go (s : State)
  | jump (pc : Nat) (s : State)
  | stop (s : State)
  | trap (cause : Nat)
  deriving DecidableEq, Repr

/-- A word index follows modulo 16,384 (R259). -/
def pcMod (i : Int) : Nat := (i % 16384).toNat

/-- The word at a word index of the running bank. -/
def fetched (e pc : Nat) (s : State) : Nat := (rdWord s (runBank e s + 4 * pc)).toNat

/-- The fetch of the next instruction: at or beyond LEN it traps with cause 4, an undefined word with cause 1 (R259, R274). No fetch
follows the last cycle of the lane. -/
def fetchCheck (e : Nat) (l : Lane) (s : State) : State :=
  let x := engCtx s e l
  if !x.act || decide (laneLen s l ≤ x.used) then s
  else if imgLen (runBank e s) s ≤ 4 * x.pc then engTrap e l 4 x.pc (atLane l x.used s)
  else if wordDefined (fetched e x.pc s) then s
  else engTrap e l 1 x.pc (atLane l x.used s)

/-- Whether the present phase belongs to a lane (R256). -/
def laneOpen (l : Lane) (s : State) : Bool :=
  match l with
  | .deadline => decide (40 ≤ s.time.phase)
  | .background => decide (s.time.phase < 40)

/-- Correction cycles that an instruction meets (R255). -/
def eccCycles : EngEcc → Nat
  | .corrected n => 4 * n
  | _ => 0

/-- The cycle of the lane at which an instruction can start: after the cycles used, and once every register it reads or writes
has its result (R260). -/
def startCycle (x : EngCtx) (m : EngForm) : Nat :=
  (m.reads ++ m.writes).foldl (fun (n : Nat) r =>
    Nat.max n ((x.flight.filter fun q => decide (q.1 = r ∧ r ≠ 0)).foldl (fun (k : Nat) q => Nat.max k q.2) 0)) x.used

/-- The trap that the memories cause while the instruction executes (R255, R274). -/
def eccTrap (c : EngAt) (m : EngForm) : Option Nat :=
  match c.ecc with
  | .data => if m.mem then some 6 else none
  | .registers => if m.reads.any (fun r => decide (r ≠ 0)) then some 7 else none
  | _ => none

/-- The context of a lane whose work has ended, after `used` cycles. -/
def ctxEnded (used : Nat) (c : EngCtx) : EngCtx := { c with act := false, pass := false, used := used, flight := [] }

/-- END (R256, R271, R273): the lane's work has ended. -/
def laneEnd (e : Nat) (l : Lane) (used : Nat) (s : State) : State :=
  match l with
  | .deadline =>
    deadlineCount e used (probEnded e (setB ENG.STAT_DL_BUSY (engPg e) 0 false
      (putEng e { engSt s e with dl := ctxEnded used (engSt s e).dl, ended := true } s)))
  | .background =>
    let s := incMod ENG.BGCYC_PASSES (engPg e) 0 (setB ENG.STAT_BG_BUSY (engPg e) 0 false
      (putEng e { engSt s e with bg := ctxEnded used (engSt s e).bg } s))
    if getB ENG.CFG_DL_EN (engPg e) 0 s then s else probEnded e s

/-- The context after an instruction that took its cycles up to `used`. -/
def engAfter (e : Nat) (l : Lane) (m : EngForm) (pc start used : Nat) (s : State) : State :=
  let x := engCtx s e l
  let kept := x.flight.filter fun q => decide (used < q.2)
  let fl := if m.late then (m.writes.map fun r => (r, start + 3)) ++ kept else kept
  fetchCheck e l (putCtx e l { x with pc := pc, used := used, flight := fl } s)

/-- One instruction of a context (R254 to R260, R274). It has no effect where the context is not at it: when it does not run, is not in
its lane's phases, or its next word is another one. `f` is given the cycle of the lane in which it starts. -/
def engRun (c : EngAt) (m : EngForm) (f : Nat → State → EngOut) (s : State) : State :=
  let e := c.eng.val
  let l := c.lane
  let x := engCtx s e l
  if !x.act || !laneOpen l s then s
  else if c.ecc = .program then engTrap e l 5 x.pc (atLane l x.used s)
  else if !matchesRow (fetched e x.pc s) m.row then s
  else
    let start := startCycle x m
    let extra := eccCycles c.ecc
    if laneLen s l < start + m.fit + extra then putCtx e l { x with act := false } s
    else
      let s := atLane l start s
      match eccTrap c m with
      | some cause => engTrap e l cause x.pc s
      | none =>
        let used := start + m.cost + extra
        match f start s with
        | .go s => engAfter e l m (pcMod (x.pc + 1)) start used s
        | .jump pc s => engAfter e l m pc start used s
        | .stop s => laneEnd e l used s
        | .trap cause => engTrap e l cause x.pc s

/-- DEADLINE_LANE_START (R256): phase 40. -/
def deadlineLaneStart (s : State) : State :=
  forN 16 (fun e a => if dlDue a e && !(engSt a e).started then fetchCheck e .deadline (startDeadline e a) else a) (atPhase 40 0 s)

/-- BACKGROUND_RESUME (R256): phase 0. -/
def backgroundResume (s : State) : State :=
  if s.time.phase < 40 then
    forN 16 (fun e a =>
      if bgDue a e && !(engCtx a e .background).act then fetchCheck e .background (resumeBackground e a) else a) s
  else s

/-! ### Forms -/

/-- A three-register instruction of R format. -/
def formR (fn cyc : Nat) (d a b : Fin 32) : EngForm :=
  ⟨⟨maskR3, encR fn d.val a.val b.val 0⟩, [a.val, b.val], [d.val], cyc, cyc, false, false⟩

/-- An R-format instruction of d and a. -/
def formR2 (fn : Nat) (d a : Fin 32) : EngForm :=
  ⟨⟨maskR2, encR fn d.val a.val 0 0⟩, [a.val], [d.val], 1, 1, false, false⟩

/-- An R-format instruction with the immediate s and b = 0. -/
def formRs (fn : Nat) (d a sh : Fin 32) : EngForm :=
  ⟨⟨maskAll, encR fn d.val a.val 0 sh.val⟩, [a.val], [d.val], 1, 1, false, false⟩

/-- An R-format instruction of d, a, b and s. -/
def formRbs (fn cyc : Nat) (d a b sh : Fin 32) : EngForm :=
  ⟨⟨maskAll, encR fn d.val a.val b.val sh.val⟩, [a.val, b.val], [d.val], cyc, cyc, false, false⟩

/-- A three-register instruction of F format. -/
def formF (fn cyc : Nat) (late : Bool) (d a b : Fin 32) : EngForm :=
  ⟨⟨maskAll, encF fn d.val a.val b.val⟩, [a.val, b.val], [d.val], cyc, cyc, late, false⟩

/-- An F-format instruction of d and a in which b must be 0. -/
def formF0 (fn cyc : Nat) (d a : Fin 32) : EngForm :=
  ⟨⟨maskAll, encF fn d.val a.val 0⟩, [a.val], [d.val], cyc, cyc, false, false⟩

/-- A conversion of F format. -/
def formFc (fn : Nat) (d a : Fin 32) : EngForm :=
  ⟨⟨maskF2, encF fn d.val a.val 0⟩, [a.val], [d.val], 1, 1, true, false⟩

/-- An I-format instruction that writes d. -/
def formI (cls sub cyc : Nat) (d a : Fin 32) (imm : BitVec 16) : EngForm :=
  ⟨⟨maskAll, encI cls sub d.val a.val imm.toNat⟩, [a.val], [d.val], cyc, cyc, false, false⟩

/-- A load. -/
def formLd (cls sub : Nat) (d a : Fin 32) (imm : BitVec 16) : EngForm := { formI cls sub 2 d a imm with mem := true }

/-- A store. -/
def formSt (cls sub : Nat) (d a : Fin 32) (imm : BitVec 16) : EngForm :=
  ⟨⟨maskAll, encI cls sub d.val a.val imm.toNat⟩, [a.val, d.val], [], 1, 1, false, true⟩

/-- A branch: two cycles when taken and one when not. -/
def formB (cls sub : Nat) (a b : Fin 32) (off : BitVec 16) (taken : Bool) : EngForm :=
  ⟨⟨maskAll, encI cls sub a.val b.val off.toNat⟩, [a.val, b.val], [], 1 + b2n taken, 1 + b2n taken, false, false⟩

/-- An X-format instruction. -/
def formX (mask word : Nat) (reads writes : List Nat) (cyc : Nat) : EngForm :=
  ⟨⟨mask, word⟩, reads, writes, cyc, cyc, false, false⟩

/-! ### Shared operations -/

/-- Register `r` of the context of an instruction. -/
def gOf (c : EngAt) (r : Fin 32) (s : State) : Word := getG s c.eng.val c.lane r.val

/-- Writes register `d` of the context of an instruction. -/
def gPut (c : EngAt) (d : Fin 32) (v : Word) (s : State) : State := setG c.eng.val c.lane d.val v s

/-- An integer instruction of d, a and b. -/
def runOp (c : EngAt) (m : EngForm) (d a b : Fin 32) (f : Word → Word → Word) (s : State) : State :=
  engRun c m (fun _ s => .go (gPut c d (f (gOf c a s) (gOf c b s)) s)) s

/-- An integer instruction of d and a. -/
def runOp1 (c : EngAt) (m : EngForm) (d a : Fin 32) (f : Word → Word) (s : State) : State :=
  engRun c m (fun _ s => .go (gPut c d (f (gOf c a s)) s)) s

/-- Raises float flags in FSTAT: they are sticky (R258, R262). -/
def raiseFlags (c : EngAt) (fl : Nat) (s : State) : State :=
  let x := engCtx s c.eng.val c.lane
  putCtx c.eng.val c.lane { x with fstat := x.fstat ||| fl } s

/-- A float result: d and the flags. -/
def putFloat (c : EngAt) (d : Fin 32) (r : Word × Nat) (s : State) : State := raiseFlags c r.2 (gPut c d r.1 s)

/-- A float instruction of d, a and b. -/
def runFloat (c : EngAt) (m : EngForm) (d a b : Fin 32) (f : Word → Word → Word × Nat) (s : State) : State :=
  engRun c m (fun _ s => .go (putFloat c d (f (gOf c a s) (gOf c b s)) s)) s

/-- A float instruction of d and a. -/
def runFloat1 (c : EngAt) (m : EngForm) (d a : Fin 32) (f : Word → Word × Nat) (s : State) : State :=
  engRun c m (fun _ s => .go (putFloat c d (f (gOf c a s)) s)) s

/-- A word that is 1 or 0. -/
def boolWord (b : Bool) : Word := if b then 1 else 0

/-- The target of a relative branch: words from the instruction that follows (R259). -/
def branchTarget (c : EngAt) (off : Int) (s : State) : Nat := pcMod ((engCtx s c.eng.val c.lane).pc + 1 + off)

/-- A conditional branch. -/
def runBranch (c : EngAt) (cls sub : Nat) (a b : Fin 32) (off : BitVec 16) (cond : Word → Word → Bool) (s : State) : State :=
  let taken := cond (gOf c a s) (gOf c b s)
  engRun c (formB cls sub a b off taken)
    (fun _ s => if taken then .jump (branchTarget c off.toInt s) s else .go s) s

/-! #### Data memory (R263) -/

/-- Byte address of a load or store. -/
def dataAddr (c : EngAt) (a : Fin 32) (imm : BitVec 16) (s : State) : Nat := (gOf c a s + imm.signExtend 32).toNat

/-- The trap of an access of `n` bytes at an address: 3 for an address at or above 0x8000, else 2 where it is misaligned. -/
def dataTrap (n addr : Nat) : Option Nat := if 0x8000 ≤ addr then some 3 else if addr % n ≠ 0 then some 2 else none

/-- `n` bytes of data memory, most significant byte first. -/
def dataBytes (e addr : Nat) : Nat → State → Nat
  | 0, _ => 0
  | n + 1, s => dataBytes e addr n s * 256 + (rdByte s (dataBase e + addr + n)).toNat

/-- A load of `n` bytes, extended by `ext`. -/
def runLoad (c : EngAt) (cls sub n : Nat) (d a : Fin 32) (imm : BitVec 16) (ext : Nat → Word) (s : State) : State :=
  engRun c (formLd cls sub d a imm) (fun _ s =>
    let addr := dataAddr c a imm s
    match dataTrap n addr with
    | some cause => .trap cause
    | none => .go (gPut c d (ext (dataBytes c.eng.val addr n s)) s)) s

/-- Puts the low `n` bytes of a word, most significant byte first. -/
def putData (e addr : Nat) (v : Nat) : Nat → State → State
  | 0, s => s
  | n + 1, s => wrByte (putData e addr (v / 256) n s) (dataBase e + addr + n) (BitVec.ofNat 8 v)

/-- PCOND of a context: RES and STALE (R267). -/
def putPcond (c : EngAt) (res : Nat) (stale : Bool) (s : State) : State :=
  putCtx c.eng.val c.lane { engCtx s c.eng.val c.lane with pcond := res + 16 * b2n stale } s

/-- Applies writes in order, each judged as it stood before the cycle `s0`. -/
def cycleMore (s0 : State) (acc : List (Nat × Nat) × State) (rs : List BusReq) : List (Nat × Nat) × State :=
  let order := sortBy (fun r => r.party.rank) rs
  let (t, out, s) := order.foldl (cycleWrite s0) (acc.1, [], acc.2)
  (t, tellEngines order out s)

/-- A store of `n` bytes among window writes of the same cycle (R275, R278): it loses to an applied write of SUP to the same word and
wins against the others. -/
def storeAmong (c : EngAt) (n addr v : Nat) (rivals : List BusReq) (s : State) : State :=
  let e := c.eng.val
  let mine : Party := .eng c.eng
  let rs := rivals.filter fun r => decide (r.party ≠ mine)
  let unit : Nat × Nat := (dataBase e + addr / 4 * 4, 0)
  let (taken, s1) := cycleMore s ([], s) (rs.filter fun r => decide (r.party.rank < mine.rank))
  let lost := taken.contains unit
  let s2 :=
    if lost then countWrite e .collided (putPcond c 2 (bitAt (engCtx s1 e c.lane).pcond 4) s1)
    else putData e addr v n s1
  (cycleMore s (if lost then taken else unit :: taken, s2) (rs.filter fun r => decide (mine.rank < r.party.rank))).2

/-- A store of `n` bytes. -/
def runStore (c : EngAt) (sub n : Nat) (d a : Fin 32) (imm : BitVec 16) (rivals : List BusReq) (s : State) : State :=
  engRun c (formSt 7 sub d a imm) (fun _ s =>
    let addr := dataAddr c a imm s
    match dataTrap n addr with
    | some cause => .trap cause
    | none => .go (storeAmong c n addr (gOf c d s).toNat rivals s)) s

/-! #### Ports (R264 to R269) -/

/-- Port address of an access. -/
def portAddr (c : EngAt) (a : Fin 32) (imm : BitVec 16) (s : State) : Nat := (gOf c a s + imm.signExtend 32).toNat % 16777216

/-- Whether an address leads to a page of an A-die or P-die block (R19, R20). -/
def bridged (addr : Nat) : Bool :=
  decide (addr < 0x10000) && (domainPages 0 ++ domainPages 2 ++ domainPages 3).contains (addr / 0x400)

/-- Whether an address lies in an engine's own window or is misaligned (R264, R265). -/
def portBad (e addr : Nat) : Bool :=
  decide (addr % 4 ≠ 0) || decide (0x100000 + e * 0x20000 ≤ addr ∧ addr < 0x100000 + (e + 1) * 0x20000)

/-- Form of a port access: 4 cycles, or up to 804 across a bridge, where the test counts 804 (R256, R260). -/
def formPort (c : EngAt) (sub : Nat) (d a : Fin 32) (imm : BitVec 16) (reads writes : List Nat) (took : Fin 805) (s : State) : EngForm :=
  let far := bridged (portAddr c a imm s)
  ⟨⟨maskAll, encI 10 sub d.val a.val imm.toNat⟩, reads, writes, if far then 804 else 4,
    if far then Nat.max 4 took.val else 4, false, false⟩

/-- PRD: a register or word reads what it held before the writes of its cycle (R266). -/
def runPrd (c : EngAt) (d a : Fin 32) (imm : BitVec 16) (took : Fin 805) (s : State) : State :=
  engRun c (formPort c 0 d a imm [a.val] [d.val] took s) (fun _ s =>
    let addr := portAddr c a imm s
    if portBad c.eng.val addr then .go (putPcond c 3 false (gPut c d 0 s))
    else
      let (w, r, t) := busRead (.eng c.eng) addr s
      let v := if r = .done then wordBefore addr w s else 0
      .go (putPcond c r.code false (gPut c d v (report (.eng c.eng) addr r t)))) s

/-- PWR among the other writes of its cycle. -/
def runPwr (c : EngAt) (d a : Fin 32) (imm : BitVec 16) (took : Fin 805) (rivals : List BusReq) (s : State) : State :=
  engRun c (formPort c 1 d a imm [a.val, d.val] [] took s) (fun _ s =>
    let addr := portAddr c a imm s
    if portBad c.eng.val addr then .go (putPcond c 3 false s)
    else
      let r : BusReq := ⟨.eng c.eng, addr, gOf c d s⟩
      let told := (settledWrite r s).isSome
      let (res, s) := contestedWrite r rivals s
      .go (putPcond c res.code false (if told then s else countWrite c.eng.val res s))) s

/-- PST: the write goes to the bridge, unless its address is no page of an A-die or P-die block or 16 writes and outcomes stand. -/
def runPst (c : EngAt) (d a : Fin 32) (imm : BitVec 16) (s : State) : State :=
  engRun c ⟨⟨maskAll, encI 10 2 d.val a.val imm.toNat⟩, [a.val, d.val], [], 4, 4, false, false⟩ (fun _ s =>
    let addr := portAddr c a imm s
    let x := engSt s c.eng.val
    if portBad c.eng.val addr || !bridged addr then .go (putPcond c 3 false s)
    else if 16 ≤ x.posts.length + x.outs.length then .go (putPcond c 5 false s)
    else .go (putPcond c 0 false
      (putEng c.eng.val { x with posts := x.posts ++ [⟨addr, gOf c d s, false⟩] } s))) s

/-- POSTED_WRITE_OUTCOME (R269): the oldest outstanding write is judged and its outcome queued. -/
def postedOutcome (eng : Fin 16) (rivals : List BusReq) (s : State) : State :=
  match (engSt s eng.val).posts with
  | [] => s
  | q :: rest =>
    let s := putEng eng.val { engSt s eng.val with posts := rest } s
    let (r, s) := contestedWrite ⟨.eng eng, q.addr, q.data⟩ rivals s
    let w := ofN (q.addr / 4 * 4 * 256 + b2n q.old * 512 + 256 + r.code)
    countWrite eng.val r (putEng eng.val { engSt s eng.val with outs := (engSt s eng.val).outs ++ [w] } s)

/-- POP: the oldest outcome, 0 where none is queued. -/
def popOutcome (c : EngAt) (d : Fin 32) (s : State) : State :=
  let x := engSt s c.eng.val
  gPut c d (x.outs.headD 0) (putEng c.eng.val { x with outs := x.outs.tail } s)

/-! #### Sources (R268, R270) -/

/-- What a source read leaves: d, RES, STALE, SAGE and SSTAT. -/
def sourceResult (c : EngAt) (d : Fin 32) (v : Word) (res : Nat) (stale : Bool) (age stat : Nat) (s : State) : State :=
  let s := putPcond c res stale (gPut c d v s)
  putCtx c.eng.val c.lane { engCtx s c.eng.val c.lane with sage := age, sstat := stat } s

/-- A source read of a source word. -/
def readSource (c : EngAt) (d : Fin 32) (w : Nat) (s : State) : State :=
  if !srcValid w none false then sourceResult c d 0 3 true 0xFFFF 0 s
  else
    let r := readSrc w s
    let stat := if w / 4096 = 1 ∨ w / 4096 = 2 then r.status else 0
    if r.ok then sourceResult c d r.value 0 r.stale r.age stat s
    else sourceResult c d 0 6 true r.age stat (verifySrc w s)

/-! #### Special registers (R258) -/

/-- What a special register reads in an instruction that starts at cycle `start` of its lane. -/
def specialReg (c : EngAt) (start i : Nat) (s : State) : Nat :=
  let e := c.eng.val
  let x := engCtx s e c.lane
  match i with
  | 0 => s.time.tick % 4294967296
  | 1 => lanePhase c.lane start
  | 2 => start
  | 3 => x.pcond
  | 4 => x.sage
  | 5 => x.sstat
  | 6 => x.fstat
  | 7 => match c.lane with | .background => 0 | .deadline => 1
  | 8 => e
  | 9 => getW CMN.GEN_SWAP_GEN (engPg e) 0 s
  | 10 => b2n (engSt s e).prob.isSome
  | 11 => (engSt s e).posts.length + (engSt s e).outs.length
  | _ => 0

end Sys2Proof.Machine
end

