-- ==== Sys2Proof/Machine/HostFrame.lean ====
section
/-!
DEFINITION. Frames of the host interface (R408 to R412): the request is checked, its words are applied or read in order, and the reply
is formed.
-/
namespace Sys2Proof.Machine

/-- The command byte of a request (R408). -/
def hostCmd (rd : Bool) (q : HostReq) : Nat := b2n rd * 128 + b2n q.quad * 64 + b2n q.fix * 32 + q.code.toNat

/-- The bytes that the request CRC covers (R408). -/
def hostCovered (rd : Bool) (q : HostReq) : List Nat :=
  [hostCmd rd q] ++ bytesOf 3 q.addr.toNat ++ [q.len.toNat] ++ (if rd then [] else wordBytes q.data)

/-- The status byte: IRQ, SIL, MULTI, parity and RES (R410). -/
def hostStatus (irq sil multi : Bool) (res : Nat) : Nat :=
  let v := b2n irq * 128 + b2n sil * 64 + b2n multi * 32 + res
  let ones := b2n irq + b2n sil + b2n multi + b2n (bitAt res 0) + b2n (bitAt res 1) + b2n (bitAt res 2) + b2n (bitAt res 3)
  if ones % 2 = 0 then v + 16 else v

/-- A host protocol violation (R412): the message, IRQ_STAT.PROTO and HST_ERR. -/
def hostViolation (cause : Nat) (s : State) : State :=
  let f := if cause = 1 then HST.ERR_CRC
    else if cause = 4 ∨ cause = 6 then HST.ERR_TRUNC
    else if cause = 7 then HST.ERR_BUSY else HST.ERR_FORMAT
  raise hstPg 0xFF kHstProtocol cause (setIrq hstPg 16 (incSat f hstPg 0 s))

/-- Address of word `k` of a frame (R408). -/
def hostAddr (q : HostReq) (k : Nat) : Nat := if q.fix then q.addr.toNat else (q.addr.toNat + 4 * k) % 16777216

/-- The words of a write frame, applied in ascending order, each whatever the results before it (R410), and each among the writes of other
parties in its cycle (R275). -/
def hostWrites (q : HostReq) : Nat → List Word → List (List BusReq) → List Nat → State → List Nat × State
  | _, [], _, out, s => (out, s)
  | k, w :: ws, rivals, out, s =>
    let (res, s) := contestedWrite ⟨.host, hostAddr q k, w⟩ (rivals.headD []) s
    hostWrites q (k + 1) ws rivals.tail (out ++ [res.code]) s

/-- The words of a read frame, in ascending order; a word whose result is not done reads 0 (R410). -/
def hostReads (q : HostReq) : Nat → Nat → List Nat × List Word → State → (List Nat × List Word) × State
  | _, 0, out, s => (out, s)
  | k, n + 1, (rs, ws), s =>
    let (w, res, s) := busRead .host (hostAddr q k) s
    let w := if res = .done then w else 0
    hostReads q (k + 1) n (rs ++ [res.code], ws ++ [w]) (report .host (hostAddr q k) res s)

/-- HST_WRESk from the results of a write frame. -/
def wresWords (rs : List Nat) : List Word :=
  (List.range 8).map fun k => ofN ((List.range 8).foldl (fun (a : Nat) j => a + nthN rs (8 * k + j) * 16 ^ j) 0)

/-- HST_LAST of a frame. -/
def lastWord (rd : Bool) (q : HostReq) (rs : List Nat) (res : Nat) : Word :=
  let bad := rs.countP fun r => r ≠ 0
  let first := if bad = 0 then 0 else rs.findIdx fun r => decide (r ≠ 0)
  ofN (hostCmd rd q * 16777216 + bad * 65536 + first * 1024 + q.len.toNat * 16 + res)

/-- The reply of a frame goes on its way, and HST_LAST and HST_WRESk wait for the frame's end (R409, R415). -/
def hostReply (q : HostReq) (bytes : List Nat) (last : Option (Word × Option (List Word))) (s : State) : State :=
  let early := decide (q.ending = .earlyRise)
  let s := if q.ending = .strayBits then hostViolation 5 s else if early then hostViolation 6 s else s
  { s with hst := { s.hst with
    risen := s.hst.risen || early
    busy := true
    reply := if early then [] else bytes
    last := last } }

/-- A frame that is answered with a status byte alone: RES 5 or 6. -/
def hostRefuse (rd : Bool) (q : HostReq) (res : Nat) (known : Bool) (s : State) : State :=
  let sil := getB HST.SILSTAT_SILENT hstPg 0 s
  let wres := match s.hst.last with | some (_, w) => w | none => none
  hostReply q [hostStatus (hirq s) sil false res] (if known then some (lastWord rd q [] res, wres) else s.hst.last) s

/-- HCS_N rises at the end of a frame: HST_LAST and HST_WRESk change (R415). -/
def hostEnd (s : State) : State :=
  let s := match s.hst.last with
    | none => s
    | some (l, w) =>
      let s := wrReg s (pageAddr hstPg 0x118) l
      match w with
      | none => s
      | some ws => forN 8 (fun k a => wrReg a (pageAddr hstPg (0x120 + 4 * k)) (nthW ws k)) s
  { s with hst := { s.hst with risen := false, last := none } }

/-- A frame begins (R408, R412): HCS_N has risen since the frame before it, whose end shows unless it is still being applied. -/
def hostBegin (s : State) : State :=
  if s.hst.busy then { s with hst := { s.hst with risen := true } } else hostEnd s

/-- The violations of a frame's content (R412): CRC and address are both checked. -/
def hostFaults (rd : Bool) (q : HostReq) : List Nat :=
  (if crcHost (hostCovered rd q) ≠ q.crc.toNat then [1] else []) ++ (if q.addr.toNat % 4 ≠ 0 then [2] else [])

/-- HOST_WRITE_FRAME and HOST_READ_FRAME (R408 to R412). A frame that begins while the previous one is still being applied is not looked into
(log entry 95). -/
def hostFrame (rd : Bool) (q : HostReq) (rivals : List (List BusReq)) (s : State) : State :=
  let n := q.len.toNat + 1
  let short := decide (q.ending = .truncated) || (!rd && decide (q.data.length ≠ n))
  let was := s.hst.busy
  let s := hostBegin s
  if was then
    let s := hostViolation 7 s
    if short then hostViolation 4 s else hostRefuse rd q 6 true s
  else if q.code ≠ 0b10110 then hostRefuse rd q 5 false (hostViolation 3 s)
  else if short then hostViolation 4 s
  else if hostFaults rd q ≠ [] then hostRefuse rd q 5 true ((hostFaults rd q).foldl (fun a c => hostViolation c a) s)
  else
    let sil := getB HST.SILSTAT_SILENT hstPg 0 s
    let done (rs : List Nat) (ws : List Word) (s : State) : State :=
      let bad := rs.filter fun r => decide (r ≠ 0)
      let res := bad.headD 0
      let head := [hostStatus (hirq s) sil (decide (1 < bad.length)) res] ++ wordBytes ws
      let bytes := if rd then head ++ bytesOf 2 (crcHost head) else head
      hostReply q bytes (some (lastWord rd q rs res, if rd then none else some (wresWords rs))) s
    if rd then
      let ((rs, ws), s) := hostReads q 0 n ([], []) s
      done rs ws { s with bus := { s.bus with readData := s.bus.readData ++ ws } }
    else
      let (rs, s) := hostWrites q 0 q.data rivals [] s
      done rs [] s

/-- HOST_REPLY_READY (R409): HRDY returns high. Where HCS_N has risen the frame ends here; else it ends by the start of the next frame (log
entry 95). -/
def hostReplyReady (risen : Bool) (s : State) : State :=
  if s.hst.busy then
    let s := { s with hst := { s.hst with busy := false } }
    if risen || s.hst.risen then hostEnd s else s
  else s

end Sys2Proof.Machine
end

