-- ==== Sys2Proof/Machine/Landing.lean ====
section
/-!
DEFINITION. The landing (R191 to R195, R276, R318, R319): loop outputs reach their destinations in the first cycle of phase 40 among
the other writes of that cycle, profiles that a duty episode or a change of OWNER ends (R307, R316) end, released destinations take their safe state, and every channel computes its output.
-/
namespace Sys2Proof.Machine

/-- Rank of an owner code (R275). -/
def codeRank (c : Nat) : Nat := if c = 3 then 19 else if 16 ≤ c then c - 13 else c

/-- Page, channel and address of the loop input that a DEST code names (R191, R319). -/
def destPlace (d : Nat) : Nat × Nat × Nat :=
  let u := d % 32
  if d / 32 = 1 then (aouPg, u, pageAddr aouPg (0x104 + 0x20 * u))
  else if d / 32 = 2 then (fanPg, u, pageAddr fanPg (0x10C + 0x20 * u))
  else (douPg, u, pageAddr douPg (0x104 + 8 * u))

/-- The upper limit of a loop input (R319). -/
def destLimit (p u : Nat) (s : State) : Int := if p = aouPg then aoLimit (aoSt s u).mode else pct100

/-- The judgement of a landing write (R192): 0 may be applied, 1 refused, 2 held. -/
def landJudge (p u owner : Nat) (s : State) : Nat :=
  if stopped p s || !running p s || (decide (owner ≠ 0) && (locked p s || decide (unitOwner p u s ≠ owner))) then 1
  else if chanHeld p u s then 2
  else 0

/-- A landing write takes effect: the value limited to the range, CLIP, the field, and the end of a release (R319, R323). -/
def landApply (p u owner : Nat) (v : Word) (s : State) : State :=
  let w := clampI 0 (destLimit p u s) v.toInt
  let g := govOf p u s
  let mine := decide (unitOwner p u s = owner)
  let s := putGov p u { g with
    clip := decide (w ≠ v.toInt)
    released := g.released && !mine
    cmdAt := if mine then none else g.cmdAt } s
  let n := (ofI w).toNat
  if p = aouPg then putAo u { aoSt s u with val := ofI w } (setFF AOU.CH_VAL_VALUE p u n s)
  else if p = fanPg then
    -- LPIN of FAN is a configuration field, so the write counts in WRITE_GEN (R35, R460)
    putFan u { fanSt s u with lpin := ofI w }
      ((if getF FAN.CH_LPIN_LPIN p u s = n then id else bumpWriteGen p) (setFF FAN.CH_LPIN_LPIN p u n s))
  else putDo u { doSt s u with lpin := ofI w } (setFF DOU.CH_LPIN_LPIN p u n s)

/-- What a landing leaves in its slot (R192, R194): STAT.DEST, tracking, and the episode. -/
def landResult (q r : Nat) (s : State) : State :=
  let p := lpaPage q
  let x := lpaSlot s q
  let s := setF LPA.SL_STAT_DEST p (q % 32) r s
  if r = 0 then
    let s := putSlot q { x with track := false, destEp := false } s
    if x.destEp then endEp p kLpaDest q s else s
  else
    let s := putSlot q { x with track := true, resume := true, destEp := true } s
    if x.destEp then s else raise p 0xFF kLpaDest q (setIrq p 16 s)

/-- A write of the landing cycle: of a slot with DEST, OWNER and value, or another one. -/
inductive LandItem
  | slot (q dest owner : Nat) (v : Word)
  | other (r : BusReq)
  deriving DecidableEq, Repr

/-- Ranking of the landing cycle: a landing write stands before its OWNER's own write (R193, R276). -/
def landRank : LandItem → Nat
  | .slot _ _ owner _ => 2 * codeRank owner
  | .other r => 2 * r.party.rank + 1

/-- One write of the landing cycle; `s0` is the state before the cycle. -/
def landItem (s0 : State) (acc : List (Nat × Nat) × State) (i : LandItem) : List (Nat × Nat) × State :=
  let (taken, s) := acc
  match i with
  | .other r =>
    let (t, _, s) := cycleWrite s0 (taken, [], s) r
    (t, s)
  | .slot q d owner v =>
    let (p, u, a) := destPlace d
    let j := landJudge p u owner s0
    if j ≠ 0 then (taken, landResult q j s)
    else if taken.contains (a, 0) then (taken, landResult q 3 s)
    else (taken ++ [(a, 0)], landResult q 0 (landApply p u owner v s))

/-- The landing writes of this tick: the slots computed in it that drive a destination and whose word crossed the bridge. -/
def landItems (s : State) : List LandItem :=
  (List.range 64).filterMap fun q =>
    match (lpaSlot s q).out, slotDrives s q with
    | some v, some (d, o) => if s.lpa.lost.contains q then none else some (.slot q d o v)
    | _, _ => none

/-- A slot whose word was lost on the bridge (R17): late, and not applied. -/
def landLost (k : Nat) (s : State) : State :=
  let mine := s.lpa.lost.filter fun q => decide (q / 32 = k)
  if mine = [] then s
  else
    let s := mine.foldl (fun a q => putSlot q { lpaSlot a q with track := true, resume := true }
      (setB LPA.SL_STAT_LATE (0x18 + k) (q % 32) true a)) s
    dueInstant (0x18 + k) true mine s

/-- A released destination (R195). -/
def releaseDest (s : State) (d : Nat) : State :=
  let (p, u, _) := destPlace d
  releaseChan p u s

/-- LANDING (R191, R318): the first cycle of phase 40. -/
def landing (contenders : List BusReq) (sense : LandSense) (s : State) : State :=
  let s := atPhase 40 0 s
  let s := forN 16 legPhase40 s
  let s := forN 8 aoCommands (forN 24 doCommands (forN 12 fanCommands s))
  let s := s.lpa.released.foldl releaseDest s
  let items := sortBy landRank (landItems s ++ contenders.map LandItem.other)
  let (_, s) := items.foldl (landItem s) ([], s)
  let s := landLost 1 (landLost 0 s)
  let s := forN 64 (fun q a => if (lpaSlot a q).out.isSome then putSlot q { lpaSlot a q with out := none } a else a) s
  computeOutputs sense { s with lpa := { s.lpa with released := [], lost := [] } }

end Sys2Proof.Machine
end

