-- ==== Sys2Proof/Machine/Reset.lean ====
section
/-!
DEFINITION. What a device reset keeps and what it clears (R472, R476), and what a domain that is switched off loses (R485).
-/
namespace Sys2Proof.Machine

/-- Whether a register lies on a page that only the WATCH domain's own power-up resets (R395, R476). -/
def watchPage (a : Nat) : Bool := decide (a / 0x400 = clkPg ∨ a / 0x400 = wchPg)

/-- Whether a register is the LOCK register of a page that keeps it through a warm reset (R476). -/
def keptLock (s : State) (a : Nat) : Bool :=
  decide (a % 0x400 = 0x24) && getB CMN.LOCK_PERM (a / 0x400) 0 s

/-- Whether a register keeps its value through a device reset: WATCH pages, the next record number (R379), the starts counted
since the WATCH domain powered up, and in a warm reset the LOCK registers of permanently locked pages. -/
def keptReg (warm : Bool) (s : State) (a : Nat) : Bool :=
  watchPage a || decide (a = pageAddr recPg 0x100 ∨ a = pageAddr 0 0x10C) || (warm && keptLock s a)

/-- A cold reset clears PERM on every page, those of the WATCH domain included (R476). -/
def clearPerm (s : State) : State :=
  setB CMN.LOCK_PERM clkPg 0 false (setB CMN.LOCK_PERM wchPg 0 false s)

/-- The NVS command that a reset cuts off (R442, R472): some of its word writes are made, in their order, and nothing after them. How many is
left open. -/
def cutCommand (s : State) : State :=
  match s.nvs.cmd with
  | none => s
  | some c =>
    let ws := nvsWrites c s
    let (k, s) := draw s
    nvPuts ws { s with nvs := { s.nvs with stop := some ⟨Config.freeNat k % (ws.length + 1), true⟩, ended := false } }

/-- The NV store's bytes. -/
def nvCells (s : State) : List Host.Cell := s.mem.filter fun e => decide (nvBase ≤ e.1) && decide (e.1 < nvBase + 0x800000)

/-- A device reset (R476): everything at its reset value but the NV store, the recorder's areas, the WATCH domain, the causes
gathered and the test access port. The device is held until its start (R475). -/
def resetDevice (warm : Bool) (s : State) : State :=
  let s := cutCommand (if warm then s else clearPerm s)
  let r := State.reset
  let keep (t : Tab Word) : Tab Word := t.filter fun e => keptReg warm s e.1
  let wins (t : Tab Word) : Tab Word := tabRange t (winKey wchPg 0 0) (winKey (wchPg + 1) 0 0)
  { r with
    pending := s.pending
    regs := keep s.regs
    force := keep s.force
    win := wins s.win
    act := wins s.act
    mem := nvCells s
    bus := { r.bus with reports := s.bus.reports, readData := s.bus.readData }
    recd := { r.recd with svc := s.recd.svc, cms := s.recd.cms, hourly := s.clk.secs / 3600 }
    clk := { s.clk with secUs := s.clk.secUs - usNow s }
    wch := s.wch
    pwr := { r.pwr with held := true, causes := s.pwr.causes, alarm := s.pwr.alarm, watchFresh := s.pwr.watchFresh }
    tap := s.tap
    fresh := s.fresh }

/-- A cause of the next start is noted (DEV_RSTCAUSE). -/
def noteCause (bit : Nat) (s : State) : State := { s with pwr := { s.pwr with causes := putBit s.pwr.causes bit true } }

/-- A software reset that a write of DEV_SWRST asked for begins once the command that made it has ended (R500). -/
def softwareReset (s : State) : State :=
  if bitAt s.pwr.causes 4 && !s.pwr.held && !s.pwr.deep then resetDevice true s else s

/-! ### Domains that are switched off -/

/-- The pages of the domains that STANDBY switches off (R19, R482). -/
def standbyPages : List Nat := domainPages 0 ++ domainPages 2

/-- Whether a register of a switched-off page keeps its value: the LOCK register of a permanently locked page. -/
def keptInStandby (s : State) (a : Nat) : Bool := !standbyPages.contains (a / 0x400) || keptLock s a

/-- The SENSE and DRIVE domains lose their power (R485): their blocks reset, their pages take their reset values. Their published
values stay readable, and go stale at the first due instant that they miss (R49). -/
def domainsOff (s : State) : State :=
  let s := standbyPages.foldl (fun a p => softRst p a) (moiPowerOff (snsPowerOff s))
  let r := State.reset
  let keep (t : Tab Word) : Tab Word := t.filter fun e => keptInStandby s e.1
  let wins (t : Tab Word) : Tab Word := t.filter fun e => !standbyPages.contains ((e.1 - 0x01000000) / 0x10000)
  { s with
    regs := keep s.regs
    force := keep s.force
    win := wins s.win
    act := wins s.act
    bus := { s.bus with
      holds := s.bus.holds.filter fun h => !(h.words.any fun w => standbyPages.contains (w.1 / 0x400))
      pregs := s.bus.pregs.filter fun e => !standbyPages.contains (e.1 % 16777216 / 0x400)
      unlock := s.bus.unlock.filter fun k => !standbyPages.contains (k % 64) }
    sns := { r.sns with
      recs := s.sns.recs, owed := s.sns.owed, land := s.sns.land, due := s.sns.due, missed := s.sns.missed, lost := s.sns.lost }
    rpt := r.rpt
    moi := { r.moi with chs := (List.range 8).foldl (fun t m =>
      tabSet (fun _ => MoiCh.idle) t m { MoiCh.idle with recd := (moiCh s m).recd, miss := (moiCh s m).miss }) [] }
    drv := { r.drv with pins := s.drv.pins } }

end Sys2Proof.Machine
end

