-- ==== Sys2Proof/Machine/Finish.lean ====
section
/-!
DEFINITION. What surrounds every command: the reports of the command before it are dropped, its fault messages reach the
collector in the cycle of their detection, the outputs and the recorder's queue follow, and a reset that it asked for begins.
-/
namespace Sys2Proof.Machine

/-- The parts of the state, its queue aside. -/
inductive Part
  | regs | force | win | act | mem | time | bus | flt | recd | clk | wch | sns | rpt | moi | pubs | lpa
  | landOut | prf | trc | ldg | eng | drv | hst | can | lnk | nvs | dig | pwr | tap | bridges | fresh
  deriving DecidableEq, Repr

/-- An operation with the parts of the state that it reaches. Every other part stays as it was, so that what a command cannot
change is read off its meaning; an operation that comes to reach a further part has to name it here. What it notes of the present cycle is kept
in every case. -/
def reach (ps : List Part) (f : State → State) (s : State) : State :=
  let t := f s
  { pending := s.pending
    regs := if ps.contains .regs then t.regs else s.regs
    force := if ps.contains .force then t.force else s.force
    win := if ps.contains .win then t.win else s.win
    act := if ps.contains .act then t.act else s.act
    mem := if ps.contains .mem then t.mem else s.mem
    time := if ps.contains .time then t.time else s.time
    bus := if ps.contains .bus then t.bus else s.bus
    flt := if ps.contains .flt then t.flt else s.flt
    recd := if ps.contains .recd then t.recd else s.recd
    clk := if ps.contains .clk then t.clk else s.clk
    wch := if ps.contains .wch then t.wch else s.wch
    sns := if ps.contains .sns then t.sns else s.sns
    rpt := if ps.contains .rpt then t.rpt else s.rpt
    moi := if ps.contains .moi then t.moi else s.moi
    pubs := if ps.contains .pubs then t.pubs else s.pubs
    lpa := if ps.contains .lpa then t.lpa else s.lpa
    landOut := if ps.contains .landOut then t.landOut else s.landOut
    prf := if ps.contains .prf then t.prf else s.prf
    trc := if ps.contains .trc then t.trc else s.trc
    ldg := if ps.contains .ldg then t.ldg else s.ldg
    eng := if ps.contains .eng then t.eng else s.eng
    drv := if ps.contains .drv then t.drv else s.drv
    hst := if ps.contains .hst then t.hst else s.hst
    can := if ps.contains .can then t.can else s.can
    lnk := if ps.contains .lnk then t.lnk else s.lnk
    nvs := if ps.contains .nvs then t.nvs else s.nvs
    dig := if ps.contains .dig then t.dig else s.dig
    pwr := if ps.contains .pwr then t.pwr else s.pwr
    tap := if ps.contains .tap then t.tap else s.tap
    bridges := if ps.contains .bridges then t.bridges else s.bridges
    cyc := t.cyc
    fresh := if ps.contains .fresh then t.fresh else s.fresh }

/-- A command starts with no reports, no words read and no frames sent. -/
def clearReports (s : State) : State :=
  { s with
    bus := { s.bus with reports := [], readData := [] }
    lnk := { s.lnk with out := [] } }

/-- One round: messages reach the collector, outputs follow the reactions, records reach the queue. -/
def settleRound (s : State) : State := intake (settleDrive (collect s))

/-- Rounds until nothing is on its way, at most `n` after the first. -/
def settleRounds : Nat → State → State
  | 0, s => settleRound s
  | n + 1, s =>
    let s := settleRound s
    if s.flt.outbox.isEmpty && s.recd.inbox.isEmpty then s else settleRounds n s

/-- What a command's effect leads to in the same cycle: reaction writes that lost a collision in an earlier cycle are presented again (R277),
the collector takes every message, records are queued, and the outputs follow last. -/
def settle (s : State) : State :=
  settleOutputs (reach [.regs, .flt, .recd, .drv] (fun a => settleLegs (collect (settleRounds 6 (retryRuns a)))) s)

/-- The queue of waiting commands stays as it was: a command's effect is on everything else. -/
def keepQueue (s t : State) : State := { t with pending := s.pending }

/-- Whether the device is held in reset or is in DEEP, where only the WATCH domain and the test access port work. -/
def dormant (s : State) : Bool := s.pwr.held || s.pwr.deep

/-- A command of the running device: without effect while the device is held in reset or in DEEP. -/
def finish (f : State → State) (s : State) : State :=
  if dormant s then keepQueue s (clearReports s) else keepQueue s (settle (f (clearReports s)))

/-- A command that writes registers: a reset that its write asks for begins at its end. -/
def finishWrite (f : State → State) (s : State) : State :=
  if dormant s then keepQueue s (clearReports s) else keepQueue s (softwareReset (settle (f (clearReports s))))

/-- A command that acts in every state: of the WATCH domain, of a reset source or of the test access port. -/
def finishAlways (f : State → State) (s : State) : State :=
  let t := f (clearReports s)
  keepQueue s (if dormant t then t else softwareReset (settle t))

end Sys2Proof.Machine
end

