-- ==== Sys2Proof/Machine/TrcCore.lean ====
section
/-!
DEFINITION. The trace units' sampling and triggers (R211 to R217).
-/
namespace Sys2Proof.Machine

/-- The sample of a node (R213): a register reads as HOST reads it, without a hold or capture (R211). -/
def nodeSample (cls i : Nat) (s : State) : Word :=
  if cls = 0 then (placeRead .host none (placeOf i s) s).1
  else if cls = 1 then slotWord (lpaSlot s (i / 256)) (i % 256)
  else if cls = 2 then genWord (prfGen s (i / 256)) (i % 256)
  else if cls = 3 then rdReg s (fldAddr SNS.CH_RAW_RAW (snsPage i) (i % 16))
  else if cls = 4 then ofN s.time.tick
  else 0

/-- The sample of node `c` of a unit. -/
def unitNode (u c : Nat) (s : State) : Word :=
  let w := rdReg s (pageAddr trcPg (0x108 + 0x40 * u + 4 * c))
  nodeSample (bitsOf w 31 28) (bitsOf w 23 0) s

/-- Whether the present instant is a sample instant of a unit that records and has not sampled here (R212). -/
def samplesNow (ph : Nat) (s : State) (u : Nat) : Bool :=
  let x := trcUnit s u
  running trcPg s && decide (1 ≤ x.state ∧ x.state ≤ 3) && decide (getF TRC.U_CFG_SPH trcPg u s = ph)
    && decide (s.time.tick % 2 ^ getF TRC.U_CFG_DIV trcPg u s = 0) && decide (x.last ≠ usNow s * 512 + s.time.cycle + 1)

/-- The previous sample instant of a unit as 1 + its stamp: its last sample in the capture, else one interval back; 0 where there is none. -/
def prevInstant (u : Nat) (s : State) : Nat :=
  let x := trcUnit s u
  let d := 2 ^ getF TRC.U_CFG_DIV trcPg u s
  if x.samples ≠ [] ∨ x.prev.isSome then x.last
  else if s.time.ticks < d then 0
  else ((s.time.ticks - d) * 125 + s.time.phase) * 512 + s.time.cycle + 1

/-- Whether a message at or above a severity was received at or after one instant and before the present one `hi` (R215): the last
receipt before `hi` tells. -/
def faultSince (sev lo hi : Nat) (s : State) : Bool :=
  ((List.range 5).zip s.flt.since).any fun e =>
    let t := if e.2.1 < hi then e.2.1 else e.2.2
    decide (sev ≤ e.1 ∧ t ≠ 0 ∧ lo ≤ t)

/-- The lowest-coded trigger source of a unit that holds now, 0 for none (R215); `crossed` are the units that recognise a trigger at
this instant. -/
def triggerCause (crossed : List Nat) (u : Nat) (s : State) : Nat :=
  let x := trcUnit s u
  let now := usNow s * 512 + s.time.cycle + 1
  let lo := prevInstant u s
  let f (g : Fld) : Nat := getF g trcPg u s
  let mask := rdReg s (fldAddr TRC.U_MASK_VALUE trcPg u)
  let lvl := rdReg s (fldAddr TRC.U_LEVEL_VALUE trcPg u)
  let cmp := decide (f TRC.U_TRIG_CMP_EN = 1) && trcCompare (f TRC.U_TRIG_FMT) (f TRC.U_TRIG_COND)
    (unitNode u 0 s &&& mask) ((x.prev.getD 0) &&& mask) (lvl &&& mask) x.prev.isNone
  let flt := decide (f TRC.U_TRIG_FLT_EN = 1) && faultSince (f TRC.U_TRIG_FSEV) lo now s
  let cross := (List.range 4).any fun v =>
    bitAt (f TRC.U_TRIG_XMASK) v &&
      (crossed.contains v || decide ((trcUnit s v).trig ≠ 0 ∧ lo ≤ (trcUnit s v).trig ∧ (trcUnit s v).trig ≤ now))
  if x.state = 2 then (if cmp then 1 else if flt then 2 else if cross then 3 else if x.force then 4 else 0)
  else if x.state = 1 ∧ x.force then 4
  else 0

/-- The units that recognise a trigger at this instant: `n` rounds, so that a cross trigger of the same instant is seen. -/
def crossClose (us : List Nat) (s : State) : Nat → List Nat → List Nat
  | 0, l => l
  | n + 1, l => crossClose us s n (us.filter fun u => decide (triggerCause l u s ≠ 0))

/-- One unit takes its sample; `cause` is its trigger's cause, 0 for none (R214, R215). -/
def takeSample (u cause : Nat) (sample : List Word) (s : State) : State :=
  let x := trcUnit s u
  let now := usNow s * 512 + s.time.cycle + 1
  let n := trcN x.nc
  let x := { x with last := now, prev := some (nthW sample 0) }
  if cause ≠ 0 then
    let x := { x with state := 3, samples := sample :: x.samples, force := false, trig := now }
    let s := setIrq trcPg (20 + u) s
    let s := setF TRC.U_TTICK_LO_TICK_LO trcPg u s.time.tick s
    let s := setF TRC.U_TTICK_HI_TICK_HI trcPg u (s.time.tick / 4294967296) s
    let s := setF TRC.U_TTICK_HI_PHASE trcPg u s.time.phase s
    let s := setF TRC.U_TTICK_HI_CAUSE trcPg u cause s
    if n ≤ x.samples.length then setIrq trcPg (16 + u) (putTrc u { x with state := 4 } s)
    else putTrc u x s
  else if x.state = 1 then
    trcFill u (putTrc u { x with samples := sample :: x.samples, pre := x.pre + 1 } s)
  else if x.state = 2 then
    putTrc u { x with samples := (sample :: x.samples).take x.pre } s
  else if n ≤ x.samples.length + 1 then
    setIrq trcPg (16 + u) (putTrc u { x with state := 4, samples := sample :: x.samples } s)
  else putTrc u { x with samples := sample :: x.samples } s

/-- TRACE_SAMPLE: the last cycle of a phase (R212); every unit whose instant this is samples its nodes as they stand. -/
def traceSample (ph : Nat) (s : State) : State :=
  if ph < s.time.phase then s
  else
    let s := atPhase ph (phaseLen s ph - 1) s
    let us := (List.range 4).filter (samplesNow ph s)
    let crossed := crossClose us s 5 []
    let taken := us.map fun u =>
      (u, triggerCause crossed u s, (List.range (trcUnit s u).nc).map fun c => unitNode u c s)
    taken.foldl (fun a t => takeSample t.1 t.2.1 t.2.2 a) s

end Sys2Proof.Machine
end

