-- ==== Sys2Proof/Machine/Boundary.lean ====
section
/-!
DEFINITION. The tick boundary (R41) and the work tied to it: tides, long tides, the adoption of a master's tick count (R60, R61).
-/
namespace Sys2Proof.Machine

/-! ### The actions of R41 -/

/-- Step 2: fields written during the ending tick take effect, with the parameter words of the profile generators and the
severity table, which behave as RWD fields (R42, R219, R352). -/
def takeWritten (s : State) : State :=
  takeAreas prfPg 0 1 { s with force := s.regs, flt := { s.flt with sevForce := s.flt.sevTab } }

/-- The exchange of a page's sets by a pending swap (R118, R158, R187, R253); engines swap with their own rules. -/
def swapSets (p : Nat) (s : State) : State :=
  match pageKind p with
  | some .sns => takeAreas p 0 1 s
  | some .moi => moiSwap s
  | some .lpa => lpaSwap p s
  | some .ldg => swapAreas p 0 3 s
  | _ => s

/-- Step 2: a requested swap takes effect; SWAP_GEN counts it (R35, R41). -/
def swapPage (p : Nat) (s : State) : State :=
  if getB CMN.STAT_SWAP_PEND p 0 s && decide (pageKind p ≠ some .eng) then
    setIrq p 1 (setB CMN.STAT_SWAP_PEND p 0 false (incMod CMN.GEN_SWAP_GEN p 0 (swapSets p s)))
  else s

/-- Step 3: a change of OWN takes effect and the page remembers the previous owner (R32). -/
def takeOwner (o : State) (p : Nat) (s : State) : State :=
  let was := getF CMN.OWN_OWNER p 0 o
  if getF CMN.OWN_OWNER p 0 s = was then s else setF CMN.OWN_PREV_OWNER p 0 was s

/-- Step 4: a block whose CTRL.RUN changed stops or starts (R27, R214). -/
def takeRun (p : Nat) (s : State) : State :=
  let run := getB CMN.CTRL_RUN p 0 s
  let was := running p s
  let s := setB CMN.STAT_STOPPED p 0 (!run) (setB CMN.STAT_RUNNING p 0 run s)
  if p = trcPg ∧ was = true ∧ run = false then forN 4 (fun u a => trcAbort u a) s else s

/-- The pages of the device, ascending. -/
def devicePages : List Nat := (List.range 64).filter fun p => (pageKind p).isSome

/-- Applies an operation to every page in ascending order. -/
def forPages (f : Nat → State → State) (s : State) : State := devicePages.foldl (fun a p => f p a) s

/-- Step 5: the tick count increases, and the next tick begins (R36, R37). -/
def nextTickBegins (s : State) : State :=
  drawCorr { s with time := { s.time with tick := (s.time.tick + 1) % tickMod, ticks := s.time.ticks + 1, phase := 0, cycle := 0 } }

/-- The collector at a boundary: cleared latches end, events of earlier ticks are no longer active (R351, R366). -/
def fltBoundary (s : State) : State :=
  let s := forN 9 settleClear s
  { s with flt := { s.flt with evts := s.flt.evts.filter fun e => evtActive s e } }

/-- What every block does at a boundary once the actions of R41 are made; `o` is the state that the boundary found. -/
def blockBoundaries (o s : State) : State :=
  let s := forN 16 (engBoundary o) s
  let s := rptBoundary o (snsBoundary o s)
  let s := moiBoundary o s
  let s := ldgBoundary o (prfBoundary o (lpaBoundary o s))
  let s := driveBoundary o s
  let s := fltBoundary (hstBoundary o s)
  anchorAfterSet (clearTick s)

/-- The work of a boundary takes no time: the instant is that of `n`, the first cycle of the tick that it opens. -/
def holdInstant (n : TimeState) (s : State) : State :=
  { s with time := { s.time with tick := n.tick, ticks := n.ticks, phase := n.phase, cycle := n.cycle } }

/-- TICK_BOUNDARY (R41): `oscLen` is the length of the ending tick by the independent oscillator in 10 ns, `rails` the rail
voltages. -/
def tickBoundary (oscLen : Nat) (rails : RailMv) (s : State) : State :=
  let o := s
  let cargo := !s.lnk.cargoIn.isEmpty
  let s := tickLength (cargoVisible (snsDue (retryRuns s)))
  let s := ledgerDue (clockCheck oscLen (lateMaps (nextTickBegins s)))
  let s := forPages swapPage (takeWritten s)
  let s := forPages takeRun (forPages (takeOwner o) s)
  let s := nvsCapture (digBoundary (blockBoundaries o s))
  let s := modeBoundary (maxClear (railsUpdate rails s))
  holdInstant (nextTickBegins o).time (cargoPublished cargo s)

/-! ### Tides -/

/-- TIDE_BOUNDARY (R38): the boundary just passed ends a tide, once. -/
def tideBoundary (temps : DieTemps) (s : State) : State :=
  if gridTick s % 64 = 0 ∧ s.time.tideDone ≠ some s.time.ticks then
    let n := s.time
    let s := setIrq tickPg 16 (tideTemps temps (fanTide s))
    { s with time := { s.time with tideDone := some n.ticks } }
  else s

/-- LONG_TIDE_BOUNDARY (R38): the boundary just passed ends a long tide, once; `vbat` is the measured VBAT in mV (R404). -/
def longTideBoundary (vbat : Nat) (s : State) : State :=
  if gridTick s % 8192 = 0 ∧ s.time.longDone ≠ some s.time.ticks then
    let n := s.time
    let s := setIrq tickPg 17 (measureVbat vbat (digPublish (lnkLongTide (ledgerSnapshot s))))
    { s with time := { s.time with longDone := some n.ticks } }
  else s

/-! ### Adoption of a tick count -/

/-- A sense record's stamp moves with a new CRC under the overlapping-check rule (R61, R108). -/
def shiftRec (d : Int) (s : State) (loc : Nat) (r : SnsRec) : SnsRec :=
  match r.tick with
  | none => r
  | some t =>
    let t' := shiftTick d t
    { r with tick := some t', crc := if recOk s loc then recCrc loc r.value r.status (t' % 65536) else r.crc }

/-- A moisture record's stamp moves (R61). -/
def shiftMoi (d : Int) (s : State) (m : Nat) : MoiRec :=
  let r := (moiCh s m).recd
  match r.tick with
  | none => r
  | some t =>
    let t' := shiftTick d t
    { r with tick := some t', crc := if moiOk s m then moiCrc m r (t' % 65536) else r.crc }

/-- A sense channel's conversion outside mux mode: one that the adopting boundary did not end goes on, cut by the adoption (R61). -/
def adoptChannel (d : Int) (c : Nat) (s : State) : State :=
  let n := 2 ^ rateOf c s
  let ch := snsCh s c
  if muxEn (c / 8) s || !chOn c s then s
  else if shiftTick d s.time.tick % n = 0 then putCh c { ch with cut := none, notBefore := 0 } s
  else putCh c { ch with
    cut := some (ch.cut.getD (s.time.ticks - 1 - (s.time.tick - 1) % n)), notBefore := 0 } s

/-- The stamps of received CAN frames move (R61). -/
def shiftCan (d : Int) (p : Nat) (s : State) : State :=
  (canSt s p).rx.foldl (fun a o =>
    let w := moWord p o 3 a
    putMo p o 3 (setBits w 31 16 (((bitsOf w 31 16 : Int) + d) % 65536).toNat) a) s

/-- The parcels' DENDs and the start of the discharge windows move (R61). -/
def shiftLedger (d : Int) (s : State) : State :=
  let s := s.ldg.parcels.foldl (fun a e =>
    if bitAt e.2.flags 5 then setParcel e.1 { e.2 with dend := shiftTick d e.2.dend, wstart := shiftTick d e.2.wstart } a else a) s
  forN 4 (fun c a => putCol c { ldgCol a c with winStart := shiftTick d (ldgCol a c).winStart } a) s

/-- TICK_ADOPT (R60, R61): at the boundary just passed the follower adopts the master's count. -/
def tickAdopt (s : State) : State :=
  match s.time.adopt with
  | none => s
  | some (d, e) =>
    if s.time.ticks ≤ e then s
    else
      let n := s.time
      let s := forN 48 (adoptChannel d) s
      let recs := s.sns.recs.map fun r => (r.1, shiftRec d s r.1 r.2)
      let s := forN 8 (fun m a => putMoi m { moiCh a m with recd := shiftMoi d a m } a) s
      let s := shiftLedger d (shiftCan d 0x0A (shiftCan d 0x09 s))
      let s := { s with
        sns := { s.sns with recs := recs }
        pubs := s.pubs.map fun p => (p.1, { p.2 with tick := p.2.tick.map (shiftTick d) })
        lnk := { s.lnk with cvalTick := s.lnk.cvalTick.map fun c => (c.1, if c.2 = 0 then 0 else shiftTick d c.2) }
        time := { s.time with tick := shiftTick d n.tick, adopt := none } }
      setIrq tickPg 19 (incSat TICK.ADOPT_ADOPT_CNT tickPg 0 s)

end Sys2Proof.Machine
end

