-- ==== Sys2Proof/Machine/Start.lean ====
section
/-!
DEFINITION. The start of the device and what leads to it (R470 to R486): the loading of the configuration (R454 to R456), the start-up
sequence, supervisor starts, power modes, resets and the test access port.
-/
namespace Sys2Proof.Machine

/-! ### Profile entries (R455) -/

/-- A profile entry: a register entry, or a window run. -/
inductive ProfEntry
  | reg (addr : Nat) (mask value : Word)
  | run (addr : Nat) (w1 : Word) (data : List Word)
  deriving DecidableEq, Repr

/-- The first `fuel` entries of an image; an entry of KIND 2 or 3, and one that its image cuts short, stops the loader. -/
def profEntries : Nat → List Word → List ProfEntry
  | 0, _ => []
  | n + 1, ws =>
    match ws with
    | w0 :: w1 :: rest =>
      let a := bitsOf w0 23 0
      if bitsOf w0 31 30 = 0 then
        match rest with
        | w2 :: rest => .reg a w1 w2 :: profEntries n rest
        | [] => []
      else if bitsOf w0 31 30 = 1 then
        let k := bitsOf w0 29 24 + 1
        if rest.length < k then [] else .run a w1 (rest.take k) :: profEntries n (rest.drop k)
      else []
    | _ => []

/-- The entries of the image at an NV offset. -/
def imageEntries (base : Nat) (s : State) : List ProfEntry :=
  profEntries (nvWord (base + 12) s).toNat (nvWords (base + 64) (((nvWord (base + 8) s).toNat - 64) / 4) s)

/-- Page and offset of an entry's address. -/
def entryPlace (e : ProfEntry) : Nat × Nat :=
  match e with
  | .reg a _ _ => (a / 0x400, a % 0x400)
  | .run a _ _ => (a / 0x400, a % 0x400)

/-- Whether an entry is a register entry for CTRL. -/
def entryCtrl (e : ProfEntry) : Bool :=
  match e with
  | .reg a _ _ => decide (a < 0x10000 ∧ a % 0x400 = 0x08)
  | .run _ _ _ => false

/-- Whether an entry is a register entry for LOCK. -/
def entryLock (e : ProfEntry) : Bool :=
  match e with
  | .reg a _ _ => decide (a < 0x10000 ∧ a % 0x400 = 0x24)
  | .run _ _ _ => false

/-- Offset of the window data register of a page (R504). -/
def windowData (p : Nat) : Option Nat :=
  match pageKind p with
  | some .sns => some 0x3F4
  | some .moi => some 0x314
  | some .lpa => some 0x38C
  | some .prf => some 0x304
  | some .ldg => some 0x204
  | some .fan => some 0x344
  | some .can => some 0x144
  | some .lnk => if p = lnkPg then some 0x144 else none
  | some .wch => some 0x14C
  | some .flt => some 0x164
  | some .nvs => some 0x104
  | _ => none

/-- The window address word of a run, with its AINC bit (R455). -/
def runAddress (p : Nat) (w1 : Word) : Word :=
  if pageKind p = some .flt then w1
  else if pageKind p = some .nvs then setBits w1 31 31 1
  else setBits w1 16 16 1

/-- Whether a run names the active copy: VIEW = 1 (R456). -/
def runView (p : Nat) (w1 : Word) : Bool :=
  match pageKind p with
  | some .sns => decide (bitsOf w1 8 8 = 1)
  | some .moi | some .lpa | some .ldg => decide (bitsOf w1 15 15 = 1)
  | _ => false

/-- The bits that the MASK of a register entry may cover (R456). -/
def maskable (d : RegDesc) : Nat :=
  d.fields.foldl (fun (m : Nat) f =>
    match f.acc with
    | .rw | .rws | .rwd => if f.gov = .party then m else m + (2 ^ (f.hi + 1) - 2 ^ f.lo)
    | _ => m) 0

/-- NVS_LOAD takes a rejected entry, by its index (R456). -/
def rejectEntry (ix : Nat) (s : State) : State :=
  let s := incSat NVS.LOAD_REJ nvsPg 0 s
  if getW NVS.LOAD_FIRST nvsPg 0 s = 0xFFFF then setF NVS.LOAD_FIRST nvsPg 0 (satN 0xFFFE ix) s else s

/-- NVS_LOAD takes a rejected swap, by its page. -/
def rejectSwap (p : Nat) (s : State) : State :=
  let s := incSat NVS.LOAD_REJ nvsPg 0 s
  if getW NVS.LOAD_SWAP_PAGE nvsPg 0 s = 0 then setF NVS.LOAD_SWAP_PAGE nvsPg 0 p s else s

/-- A write of the loader, with the identity SUP: the state it leaves, and whether it was applied. -/
def loadWrite (a : Nat) (v : Word) (s : State) : State × Bool :=
  let (r, s) := busWrite ⟨.sup, a, v⟩ s
  (s, decide (r = .done))

/-- The words of a window run, up to the first refused one. -/
def loadWords (a : Nat) : List Word → State → State × Bool
  | [], s => (s, true)
  | w :: ws, s =>
    let (s', ok) := loadWrite a w s
    if ok then loadWords a ws s' else (s', false)

/-- One entry (R456): the state, and whether it was accepted. A rejected register entry leaves its register as it was. -/
def loadEntry (e : ProfEntry) (s : State) : State × Bool :=
  match e with
  | .reg a mask value =>
    match placeOf a s with
    | .register p off d =>
      if off = 0x24 then
        if mask = 0xFFFF ∧ bitsOf value 15 0 = 0x7A3C then loadWrite a 0x7A3C s else (s, false)
      else if mask.toNat &&& maskable d ≠ mask.toNat then (s, false)
      else
        let now := regWord .sup p off d s
        let (s', ok) := loadWrite a ((now &&& ~~~mask) ||| (value &&& mask)) s
        if ok then (s', true) else (s, false)
    | _ => (s, false)
  | .run a w1 data =>
    let p := a / 0x400
    if 0x10000 ≤ a ∨ windowData p ≠ some (a % 0x400) ∨ runView p w1 = true ∨ (pageKind p = some .flt ∧ data.length ≠ 1) then (s, false)
    else
      let (s', ok) := loadWrite (a - 4) (runAddress p w1) s
      if ok then loadWords a data s' else (s', false)

/-- Loads the chosen entries of an image, each with its index in the image. -/
def loadEntries (keep : ProfEntry → Bool) (es : List ProfEntry) (s : State) : State :=
  (es.zipIdx.filter fun e => keep e.1).foldl (fun a e =>
    let (a', ok) := loadEntry e.1 a
    if ok then a' else rejectEntry e.2 a') s

/-- The pages that received a window run and have double buffers (R456). -/
def runPages (es : List ProfEntry) (s : State) : List Nat :=
  (List.range 64).filter fun p =>
    doubleBuffered p s && es.any fun e => match e with | .run a _ _ => decide (a / 0x400 = p ∧ a < 0x10000) | .reg _ _ _ => false

/-- The words of a page that a state's shadow copy holds become its active words: a refused swap leaves the factory content (R456). -/
def factorySet (p : Nat) (was s : State) : State :=
  let hi := match pageKind p with | some .lpa => 2 | some .sns => 1 | _ => 3
  { s with act := tabCopy winReset was.win s.act (winKey p 0 0) (winKey p hi 0) }

/-- SWAP_REQ of step 3 for one page; `was` is the state that step 1 left. -/
def loadSwap (was : State) (s : State) (p : Nat) : State :=
  let a := pageAddr p 0x08
  let (s', ok) := loadWrite a (setBits (rdReg s a) 2 2 1) s
  if ok then s' else rejectSwap p (factorySet p was s')

/-- Registers of some pages come into force as written. -/
def forcePages (ps : List Nat) (s : State) : State :=
  let mine (e : Nat × Word) : Bool := ps.contains (e.1 / 0x400)
  (s.regs.filter mine).foldl (fun a e => wrForce a e.1 e.2) { s with force := s.force.filter fun e => !mine e }

/-- The boundary of step 3 for some pages: what was written comes into force, swaps take effect. -/
def loadBoundary (ps : List Nat) (s : State) : State :=
  let o := s
  let s := ps.foldl (fun a p => takeOwner o p (swapPage p a)) (forcePages ps s)
  let s := if ps.contains fltPg then { s with flt := { s.flt with sevForce := s.flt.sevTab } } else s
  if ps.contains hstPg then hstBoundary o s else s

/-- Steps 1 to 3 of R456 for the pages that `want` names; `user` is the slot of the user image, if one is loaded. -/
def loadSets (want : Nat → Bool) (user : Option Nat) (s : State) : State :=
  let fact := if profileOk factoryImg 0x1F000 s then imageEntries factoryImg s else []
  let mine (e : ProfEntry) : Bool := want (entryPlace e).1
  let s1 := loadEntries mine fact s
  let es := match user with | some k => imageEntries (profImg k) s | none => []
  let s2 := loadEntries (fun e => mine e && !entryCtrl e && !entryLock e) es s1
  let s3 := ((runPages (fact ++ es) s2).filter want).foldl (loadSwap s1) s2
  loadBoundary (devicePages.filter want) s3

/-- The valid user image with the highest GEN (R456). -/
def bestSlot (s : State) : Option Nat :=
  if slotOk 0 s then (if slotOk 1 s ∧ slotGen 0 s < slotGen 1 s then some 1 else some 0)
  else if slotOk 1 s then some 1 else none

/-- The pages of the WATCH domain are loaded at the first start after its power-up alone (R395). -/
def loadablePage (s : State) (p : Nat) : Bool := !(decide (p = clkPg ∨ p = wchPg)) || s.pwr.watchFresh

/-- The configuration load of a device start (R456); `factory`: a factory start (R478). -/
def profileLoad (factory : Bool) (s : State) : State :=
  let user := if factory then none else bestSlot s
  let s := setB NVS.PROF_VALID_A nvsPg 0 (slotOk 0 s) (setB NVS.PROF_VALID_B nvsPg 0 (slotOk 1 s) s)
  let s := setB NVS.LOAD_FACT_BAD nvsPg 0 (!profileOk factoryImg 0x1F000 s) s
  let s := match user with
    | none => setB NVS.PROF_NONE nvsPg 0 true s
    | some k => setF NVS.PROF_IN_FORCE nvsPg 0 k (setF NVS.GEN_GEN nvsPg 0 (slotGen k s) s)
  let want := loadablePage s
  let s := loadSets want user s
  match user with
  | none => s
  | some k =>
    let es := imageEntries (profImg k) s
    let some_ (f : ProfEntry → Bool) (p : Nat) (e : ProfEntry) : Bool := f e && decide ((entryPlace e).1 = p)
    let s := forN 64 (fun p a => if want p then loadEntries (some_ entryCtrl p) es a else a) s
    forN 64 (fun p a => if want p then loadEntries (some_ entryLock p) es a else a) s

/-! ### The start-up sequence (R479) -/

/-- DEV_BOOT.STEP. -/
def putStep (n : Nat) (s : State) : State := setF DEV.BOOT_STEP 0 0 n s

/-- Step 4: the engines' running banks (R452, R478). -/
def loadBanks (factory : Bool) (s : State) : State :=
  forN 16 (fun e a =>
    let slot := nvBase + runImg + 0x100000 + e * 0x10000
    showImage e (if !factory && imgValid slot a then copyRange slot (bankBase e (engSt a e).bank) 0x10000 a else a)) s

/-- Step 6: recorder scan, watch transfer and held messages. -/
def loadRecords (s : State) : State :=
  let s := watchTransfer (recScan s)
  if nvCut s then s
  else
    let s := putStep 6 (heldMessages s)
    { s with pwr := { s.pwr with watchFresh := false } }

/-- Steps 3 to 6. Without a supervisor image the sequence stops in the recovery state (R481). Where a rail falls during its writes it stands
as it is; the reset that follows is a command of its own (R470, R472). -/
def startFrom3 (s : State) : State :=
  let factory := decide (getW DEV.BOOT_STRAP 0 0 s % 2 = 1)
  let (s, ok) := supervisorRun 0 (putStep 3 s)
  let s := setB DEV.BOOT_NOIMG 0 0 (!ok && !nvCut s) s
  if ok then loadRecords (putStep 5 (profileLoad factory (putStep 4 (loadBanks factory s)))) else s

/-- DEV_RSTCAUSE of a start. -/
def startCauses (s : State) : State :=
  let c := putBit s.pwr.causes 0 (bitAt s.pwr.causes 0 || s.pwr.watchFresh)
  let c := putBit c 1 (bitAt c 1 || decide (s.pwr.causes = 0))
  let n := if s.pwr.watchFresh then 1 else satN 0xFFFF (getW DEV.RSTCAUSE_STARTS 0 0 s + 1)
  let s := setF DEV.RSTCAUSE_STARTS 0 0 n (setF DEV.RSTCAUSE_CAUSE 0 0 (c % 2048) s)
  { s with pwr := { s.pwr with causes := 0 } }

/-- Whether VDDIO at a release of reset makes the mode 3.3 V: 2.4 V and above (R471). -/
def ioMode (vddio : Nat) : Bool := decide (2400 ≤ vddio)

/-- DEVICE_START (R471, R477 to R481): the release of reset with the boot straps and VDDIO in mV, up to step 6. -/
def deviceStart (boot vddio : Nat) (s : State) : State :=
  if s.pwr.deep || !(s.pwr.held || decide (getW DEV.BOOT_STEP 0 0 s = 0)) then s
  else
    let s := startCauses { s with pwr := { s.pwr with held := false } }
    let s := setB DEV.BOOT_STRAP_BAD 0 0 (decide (boot = 3)) (setF DEV.BOOT_STRAP 0 0 boot s)
    let s := setB PWR.STAT_IO33 pwrPg 0 (ioMode vddio) (setB PWR.STAT_SENSE_ON pwrPg 0 true (setB PWR.STAT_DRIVE_ON pwrPg 0 true s))
    let s := putStep 2 (scanAbandon false s)
    if boot = 2 then { s with pwr := { s.pwr with debugWait := true } } else startFrom3 s

/-- The debug release (R478, R498). -/
def debugRelease (s : State) : State :=
  if s.pwr.debugWait then startFrom3 { s with pwr := { s.pwr with debugWait := false } } else s

/-- START_UP_RUN: step 7 (R479). The length of the start-up is left open. -/
def startUpRun (s : State) : State :=
  if getW DEV.BOOT_STEP 0 0 s = 6 then
    let ms := satN 0xFFFF (Config.freeNat s.fresh)
    let s := putStep 7 (setF DEV.BOOT_START_MS 0 0 ms { s with fresh := s.fresh + 1 })
    pushAnchor 2 (setF PWR.STAT_MODE pwrPg 0 0 s)
  else s

/-! ### Supervisor starts (R449 to R451) -/

/-- SUPERVISOR_START: the start that SUP_RESTART or a probation failure asked for. In the recovery state it restarts the sequence from step
3 (R481). A word that could not be written ends the start, and the command that asked for it, failed (R442). -/
def supervisorStart (s : State) : State :=
  match s.nvs.ask with
  | none => s
  | some cause =>
    if getB NVS.STAT_SUPSTART nvsPg 0 s then s
    else if inRecovery s then nvsOutcome 1 (startFrom3 { s with nvs := { s.nvs with ask := none } })
    else
      let (s, ok) := supervisorRun cause (setB NVS.STAT_SUPSTART nvsPg 0 true s)
      let s := setB DEV.BOOT_NOIMG 0 0 (!ok && !nvCut s) s
      if s.nvs.ended && !nvCut s && (s.nvs.cmd.any fun c => c.code = 6 ∨ c.code = 7) then nvsOutcome 2 s else s

/-- SUPERVISOR_START_DONE: the start ends, and with it the command that asked for it. -/
def supervisorStartDone (s : State) : State :=
  if getB NVS.STAT_SUPSTART nvsPg 0 s then
    let s := setB NVS.STAT_SUPSTART nvsPg 0 false s
    match s.nvs.cmd with
    | some c => if c.code = 6 ∨ c.code = 7 then nvsOutcome 1 s else s
    | none => s
  else s

/-! ### Power modes (R482 to R486) -/

/-- Whether the SENSE and DRIVE domains are shown powered. -/
def showDomains (on : Bool) (s : State) : State :=
  setB PWR.STAT_SENSE_ON pwrPg 0 on (setB PWR.STAT_DRIVE_ON pwrPg 0 on s)

/-- The domains of STANDBY are powered again and their pages loaded (R485); the user image is the one in force (R457). -/
def domainsOn (s : State) : State :=
  let s := showDomains true { s with pwr := { s.pwr with standby := false } }
  let user := if getB NVS.PROF_NONE nvsPg 0 s then none else some (getW NVS.PROF_IN_FORCE nvsPg 0 s)
  loadSets (fun p => standbyPages.contains p) user (scanAbandon false s)

/-- POWER_MODE_CHANGE_DONE: the mode asked for is in force (R483 to R485). -/
def modeDone (s : State) : State :=
  match s.pwr.req with
  | none => s
  | some (r, _) =>
    if !s.pwr.begun then s
    else if r = 0 then modeInForce 0 s
    else if r = 1 then modeInForce 1 (if s.pwr.standby then domainsOn s else s)
    else if r = 2 then
      let s := domainsOff s
      modeInForce 2 (showDomains false { s with pwr := { s.pwr with standby := true } })
    else s

/-- The wake alarm of the PWR registers (R486). -/
def wakeSeconds (s : State) : Option Nat :=
  if getB PWR.WAKE_HI_EN pwrPg 0 s then
    some (getW PWR.WAKE_HI_SEC_HI pwrPg 0 s * 4294967296 + getW PWR.WAKE_LO_SEC_LO pwrPg 0 s)
  else none

/-- DEEP_ENTRY (R486): once the recorder queue is empty and no NV write is in progress. -/
def deepEntry (s : State) : State :=
  match s.pwr.req with
  | none => s
  | some (r, _) =>
    if s.pwr.begun && decide (r = 3) && s.recd.queue.isEmpty && s.recd.inbox.isEmpty && s.nvs.cmd.isNone then
      let alarm := wakeSeconds s
      let s := resetDevice false s
      { s with pwr := { s.pwr with deep := true, alarm := alarm } }
    else s

/-- A cold or warm reset with its cause; the device is held until its start. -/
def resetBy (bit : Nat) (warm : Bool) (s : State) : State := resetDevice warm (noteCause bit s)

/-- The end of DEEP: a cold start follows (R486). -/
def leaveDeep (s : State) : State :=
  let s := noteCause 10 s
  { s with pwr := { s.pwr with deep := false, alarm := none } }

/-- WAKE_ALARM (R486). -/
def wakeAlarm (s : State) : State :=
  match s.pwr.alarm with
  | none => s
  | some a => if s.pwr.deep && decide (a ≤ s.clk.secs) then leaveDeep (noteCause 9 s) else s

/-- RESET_ASSERT (R475, R476): RESET_N that ends DEEP is recorded as a wake from DEEP. -/
def resetPin (pin : ResetPin) (s : State) : State :=
  match pin, s.pwr.deep with
  | .porst, false => resetBy 2 false s
  | .reset, false => resetBy 3 true s
  | .porst, true => leaveDeep (noteCause 2 s)
  | .reset, true => leaveDeep s

/-- SUPPLY_MONITOR_RESET (R470); in DEEP the rails may be absent (R486). -/
def supplyReset (rail : Rail) (s : State) : State :=
  if s.pwr.deep then s
  else resetBy (match rail with | .vddc => 5 | .vdda => 6 | .vddio => 7) false s

/-- THERMAL_RESET (R491). -/
def thermalReset (s : State) : State := if s.pwr.deep then s else resetBy 8 false s

/-! ### Test access port (R498) -/

/-- An instruction of the test access port. EXTEST outside the debug start acts as BYPASS; IDCODE selects the identification code. -/
def tapLoad (ir : TapIr) (s : State) : State :=
  let ir := if ir = .extest ∧ s.pwr.debugWait = false then .bypass else ir
  { s with tap := { ir := ir, dr := if ir = .idcode then 0x248164EB else if ir = .bypass then 0 else s.tap.dr } }

/-- The debug instruction: a register access as HOST while DEV_DBG.EN = 1. -/
def tapAccess (addr : Nat) (write : Option Word) (s : State) : State :=
  let s := tapLoad .debug s
  if getB DEV.DBG_EN 0 0 s then
    match write with
    | some v => writeAccess ⟨.host, addr, v⟩ s
    | none =>
      let s := readAccess .host addr s
      { s with tap := { s.tap with dr := nthW s.bus.readData 0 } }
  else s

end Sys2Proof.Machine
end

