-- ==== Sys2Proof/Machine/CmdOps.lean ====
section
/-!
DEFINITION. What the commands share: accesses that write one field or one key, accesses to a window data register, and the events
of the chapters that only note a condition and send its message.
-/
namespace Sys2Proof.Machine

/-! ### Register commands -/

/-- A write of a whole word to a register of a page. -/
def regWrite (party : Party) (page off : Nat) (w : Word) (s : State) : State := writeAccess ⟨party, pageAddr page off, w⟩ s

/-- A write of bits `[hi:lo]` of a register, with the register's other bits as they stand. -/
def regSet (party : Party) (page off hi lo v : Nat) (s : State) : State :=
  regWrite party page off (setBits (rdReg s (pageAddr page off)) hi lo v) s

/-- A read of a register of a page. -/
def regRead (party : Party) (page off : Nat) (s : State) : State := readAccess party (pageAddr page off) s

/-- A write or a read of a window data register. -/
def dataAccess (party : Party) (page off : Nat) (write : Option Word) (s : State) : State :=
  match write with
  | some w => regWrite party page off w s
  | none => regRead party page off s

/-- A write of a key in bits [31:16] with the other fields of its word. -/
def keyWrite (party : Party) (page off key rest : Nat) (s : State) : State := regWrite party page off (ofN (key * 65536 + rest)) s

/-- A write of 1 to the bit of an object in a pair of registers of 32 objects, of 0 to the others, which has no effect (R420). -/
def objectSet (party : Party) (ctl : Fin 2) (off : Nat) (obj : Fin 64) (s : State) : State :=
  regWrite party (canPg ctl.val) (off + 4 * (obj.val / 32)) (ofN (2 ^ (obj.val % 32))) s

/-- A command of a valve leg. -/
def legCmdWrite (party : Party) (leg : Fin 16) (op onT : Nat) (s : State) : State :=
  regWrite party (legPg leg.val) (0x104 + 0x20 * (leg.val % 8)) (ofN (op * 1073741824 + onT)) s

/-! ### Conditions with a message -/

/-- An event message whose address the spec does not give: the address is a free value. -/
def raiseOpen (page inst kind : Nat) (s : State) : State :=
  let (k, s) := draw s
  raise page inst kind (Config.freeNat k % 65536) s

/-- FLASHING_FAULT (R357): the P-die forces every output while the net is unsound; the C-die sends the message. -/
def flashingFault (present : Bool) (s : State) : State :=
  if present = s.flt.flash then s
  else
    let s : State := { s with flt := { s.flt with flash := present } }
    if present then raiseOpen 0 0xFF kDevFlashing s else s

/-- SAFE_IN_ASSERT and SAFE_IN_DEASSERT (R358). -/
def safeInput (on : Bool) (s : State) : State :=
  setEp on fltPg 0xFE kFltSafeIn 0 { s with flt := { s.flt with safeIn := on } }

/-- BRIDGE_LOSS (R322): the DRIVE outputs enter row 2 and the C-die begins the episode; the message's address is a free value. -/
def bridgeLoss (s : State) : State :=
  if s.drv.loss.isSome then s
  else
    let (k, s) := draw s
    let addr := Config.freeNat k % 65536
    beginEp 0 0x04 kDevBridgeLoss addr { s with drv := { s.drv with loss := some addr } }

/-- BRIDGE_LOSS_END (R322): frames have been received for 8 ticks. -/
def bridgeLossEnd (s : State) : State :=
  match s.drv.loss with
  | none => s
  | some addr => endEp 0 kDevBridgeLoss addr { s with drv := { s.drv with loss := none } }

/-- What a real syndrome leads to besides its message (R369), by the checker's kind of message: a trip where the checker trips an output. -/
def realEffect (kind addr : Nat) (s : State) : State :=
  if kind = kVlvOvercurrent then
    (if addr < 16 then tripLeg addr s
     else if 0x10 ≤ addr ∧ addr < 0x18 then
       let k := addr - 0x10
       refreshPair (2 * k) (tripLeg (2 * k + 1) (tripLeg (2 * k) (setB VLV.PR_STAT_HS_TRIP (0x30 + k / 4) (k % 4) true s)))
     else s)
  else if kind = kFanOutput ∧ addr < 12 then putFan addr { fanSt s addr with st := 5, out := 0, doubt := none, steady := false } s
  else if (kind = kDouOverload ∨ kind = kDouThermal) ∧ addr < 24 then
    doDrive addr (putDo addr { doSt s addr with trip := true, therm := decide (kind = kDouThermal), lim := false } s)
  else s

/-- INJECTION_CONCLUDE (R368): the syndrome that appears is held against the one expected. A pass delivers its true data and has no
consequence; a real one has every consequence (R369). -/
def injConclude (p : Nat) (seen : Syndrome) (s : State) : State :=
  if injOpen p s then
    let c := getW CMN.FINJ_CHECKER p 0 s
    if seen.shown.isNone then injEnd p 3 (raise p c kFltCheckerFail (getW CMN.FINJ_INV_MASK p 0 s) s)
    else if seen.shown = injExpected p s then injEnd p 1 (raiseInj 1 p c seen.kind seen.addr s)
    else injEnd p 2 (realEffect seen.kind seen.addr (raiseInj 2 p c seen.kind seen.addr s))
  else s

/-- The syndrome and the kind of message of what the scrub finds; none where the word is clean. -/
def scrubShown : ScrubResult → Option (Shown × Nat)
  | .clean => none
  | .corrected b => some (.single b, kFltEccCorr)
  | .uncorrectable => some (.uncorrectable, kFltEccUncorr)
  | .parity => some (.mismatch, kFltCfgParity)

/-- SCRUB_WORD_READ (R373): what the scrub finds is reported for the page whose word it read. A read by the checker of an armed injection
concludes it (R367): what it finds is then what that checker shows. -/
def scrubWord (page checker word : Nat) (found : ScrubResult) (s : State) : State :=
  let seen := scrubShown found
  if injOpen page s && decide (getW CMN.FINJ_CHECKER page 0 s = checker) then
    injConclude page ⟨seen.map Prod.fst, (seen.map Prod.snd).getD 0, word⟩ s
  else
    match seen with
    | none => s
    | some (_, k) => raise page checker k word s

/-- SCRUB_CYCLE_END (R373): a cycle lasts 256 elapsed tides. -/
def scrubCycleEnd (s : State) : State :=
  if s.time.ticks < s.flt.scrubStart + 16384 then s
  else
    let s : State := { s with flt := { s.flt with scrubStart := s.flt.scrubStart + 16384 } }
    setF FLT.SCRUB_LAST_LEN fltPg 0 256 (incMod FLT.SCRUB_CYCLES fltPg 0 s)

/-- The return of a probation that failed at the boundary just passed takes effect at that boundary (R286): a background
context that has begun the tick begins it anew. -/
def returnNow (e : Nat) (s : State) : State :=
  if s.time.phase = 0 ∧ s.time.cycle = 0 then
    let on := (engSt s e).bg.act
    let s := engReturn e s
    if on then resumeBackground e s else s
  else s

/-- PROBATION_TIMEOUT (R285): the window of an engine's probation ends, at a boundary. -/
def probationTimeout (e : Nat) (s : State) : State :=
  match (engSt s e).prob with
  | none => s
  | some q =>
    match reachUs (q.start + q.len) s with
    | none => s
    | some s => returnNow e (probFail e 1 s)

/-- WATCH_POWER_UP (R394, R395): the pages of the WATCH domain take their reset values, the calendar clock and the watch island
start empty, and the device starts counted since then begin anew. -/
def watchPowerUp (s : State) : State :=
  let off (t : Tab Word) : Tab Word := t.filter fun e => !watchPage e.1
  let wins (t : Tab Word) : Tab Word :=
    t.filter fun e => decide (e.1 < winKey wchPg 0 0) || decide (winKey (wchPg + 1) 0 0 ≤ e.1)
  setF DEV.RSTCAUSE_STARTS 0 0 0 { s with
    regs := off s.regs
    force := off s.force
    win := wins s.win
    act := wins s.act
    clk := ⟨0, (usNow s : Int), 0, false⟩
    wch := ⟨none, none, 0, none, []⟩
    recd := { s.recd with hourly := 0, setFrom := none }
    bus := { s.bus with
      holds := s.bus.holds.filter fun h => !(h.words.any fun w => watchPage w.1)
      pregs := s.bus.pregs.filter fun e => !watchPage (e.1 % 16777216)
      unlock := s.bus.unlock.filter fun k => decide (k % 64 ≠ clkPg ∧ k % 64 ≠ wchPg) }
    pwr := { s.pwr with watchFresh := true } }

/-- A message of another die, with the stamp of its detection (R348). -/
def raiseSeen (m : MsgIn) (s : State) : State :=
  let now := usNow s
  let seen := now - m.ago
  let x : Msg := ⟨m.page * 256 + m.inst, m.kind, m.addr % 65536, s.time.tick - (s.time.ticks - seen / 125), seen % 125, s.time.cycle, now, seen, 0⟩
  { s with flt := { s.flt with outbox := s.flt.outbox ++ [x] } }

/-- Messages that other dies send and that reach the collector in one cycle (R348, R360). -/
def faultMessages (msgs : List MsgIn) (s : State) : State := msgs.foldl (fun a m => raiseSeen m a) s

/-- NVS_DATA_ACCESS with the write failure of R442: a word that neither attempt could write is left open, its message is sent, and the
write is reported refused. -/
def nvDataAccess (party : Party) (write : Option Word) (failed : Bool) (s : State) : State :=
  match write with
  | none => regRead party nvsPg 0x104 s
  | some w => withStop (if failed then some ⟨0, false⟩ else none) (regWrite party nvsPg 0x104 w) s

end Sys2Proof.Machine
end

