-- ==== Sys2Proof/Machine/CmdControl.lean ====
section
/-!
DEFINITION. The meanings of the commands of the loop array, the profile generators, the trace units and the column ledger (chapters 6 to 8), one definition each.
-/
namespace Sys2Proof.Machine

/-- LOOP_ARRAY_PASS: Phase 2: the loop array takes its snapshot and computes the due slots; `corrections` are the single-bit ECC corrections by slot (R170, R171). -/
def execLoopArrayPass (corrections : List (Fin 64 × Nat)) (s : State) : Host.Outcome State Fault Refusal :=
  .next (finish (reach [.regs, .time, .flt, .recd, .sns, .moi, .lpa] (loopArrayPass corrections)) s)

/-- LOOP_DEADLINE: The end of phase 28: computed slots publish, the others are late (R173). -/
def execLoopDeadline (s : State) : Host.Outcome State Fault Refusal :=
  .next (finish (reach [.regs, .time, .flt, .recd, .pubs] loopDeadline) s)

/-- LANDING: The first cycle of phase 40: landing writes, with the register writes of the same cycle, and the outputs of the DRIVE pages are computed from `sense` (R191, R193, R318). -/
def execLanding (contenders : List BusReq) (sense : LandSense) (s : State) : Host.Outcome State Fault Refusal :=
  .next (finishWrite (reach [.regs, .force, .win, .act, .mem, .time, .bus, .flt, .recd, .clk, .sns, .moi, .lpa, .landOut, .prf, .trc, .ldg, .eng, .drv, .hst, .can, .lnk, .nvs, .dig, .pwr, .fresh]
    (landing contenders sense)) s)

/-- LPA_WIN_DATA_ACCESS: A write (its word) or a read of LPAp_WIN_DATA (R187). -/
def execLpaWinDataAccess (party : Party) (page : Fin 2) (write : Option Word) (s : State) : Host.Outcome State Fault Refusal :=
  .next (finishWrite (reach [.regs, .win, .bus, .lpa, .dig] (dataAccess party (0x18 + page.val) 0x38C write)) s)

/-- LOADMAX_CLR: A write of LOADMAX.CLR = 1 (R173). -/
def execLoadmaxClr (party : Party) (page : Fin 2) (s : State) : Host.Outcome State Fault Refusal :=
  .next (finishWrite (reach [.regs, .win, .bus, .lpa, .dig] (regWrite party (0x18 + page.val) 0x384 0x80000000)) s)

/-- PROFILE_STEP: Phase 1: every profile generator steps; `corrections` are the single-bit ECC corrections by generator (R199, R200, R203). -/
def execProfileStep (corrections : List (Fin 32 × Nat)) (s : State) : Host.Outcome State Fault Refusal :=
  .next (finish (reach [.regs, .time, .flt, .recd, .sns, .moi, .prf] (profileStep corrections)) s)

/-- PROFILE_DEADLINE: The end of phase 1: steps publish, incomplete ones are late (R199, R200). -/
def execProfileDeadline (s : State) : Host.Outcome State Fault Refusal :=
  .next (finish (reach [.regs, .time, .flt, .recd, .pubs] profileDeadline) s)

/-- PRF_WIN_DATA_ACCESS: A write (its word) or a read of PRF_WIN_DATA (R219). -/
def execPrfWinDataAccess (party : Party) (write : Option Word) (s : State) : Host.Outcome State Fault Refusal :=
  .next (finishWrite (reach [.regs, .win, .bus] (dataAccess party prfPg 0x304 write)) s)

/-- TRACE_SAMPLE: The last cycle of a phase: the trace units of that sample phase sample (R212). -/
def execTraceSample (phase : Fin 125) (s : State) : Host.Outcome State Fault Refusal :=
  .next (finish (reach [.regs, .time, .bus, .trc] (traceSample phase.val)) s)

/-- TRACE_ARM: A write of TRC_Uu_CMD = 1 (R214). -/
def execTraceArm (party : Party) (unit : Fin 4) (s : State) : Host.Outcome State Fault Refusal :=
  .next (finishWrite (reach [.regs, .bus, .trc] (regWrite party trcPg (0x124 + 0x40 * unit.val) 1)) s)

/-- TRACE_FORCE: A write of TRC_Uu_CMD = 2 (R215). -/
def execTraceForce (party : Party) (unit : Fin 4) (s : State) : Host.Outcome State Fault Refusal :=
  .next (finishWrite (reach [.regs, .bus, .trc] (regWrite party trcPg (0x124 + 0x40 * unit.val) 2)) s)

/-- TRACE_ABORT: A write of TRC_Uu_CMD = 3 (R214). -/
def execTraceAbort (party : Party) (unit : Fin 4) (s : State) : Host.Outcome State Fault Refusal :=
  .next (finishWrite (reach [.regs, .bus, .trc] (regWrite party trcPg (0x124 + 0x40 * unit.val) 3)) s)

/-- LEDGER_ADVANCE: Phase 30: every tower column takes its meter count and advances (R227). -/
def execLedgerAdvance (s : State) : Host.Outcome State Fault Refusal :=
  .next (finish (reach [.regs, .time, .flt, .recd, .ldg] ledgerAdvance) s)

/-- LEDGER_SAMPLE: Phase 30 of a sampling instant: the ledger samples its sources (R226). -/
def execLedgerSample (s : State) : Host.Outcome State Fault Refusal :=
  .next (finish (reach [.regs, .time, .flt, .recd, .sns, .moi, .ldg] ledgerSample) s)

/-- LEDGER_PASS_COMPLETE: The evaluator finishes the computation of the pass (R236). -/
def execLedgerPassComplete (s : State) : Host.Outcome State Fault Refusal :=
  .next (finish (reach [.ldg] passComplete) s)

/-- LEDGER_INTERVAL_END: A long tide boundary ends a column's summary interval (R251). -/
def execLedgerIntervalEnd (col : Fin 4) (s : State) : Host.Outcome State Fault Refusal :=
  .next (finish (reach [.regs, .recd, .ldg, .fresh] (intervalEnd col.val)) s)

/-- LEDGER_INIT: A write of COLc_CMD = 1 (R248). -/
def execLedgerInit (party : Party) (col : Fin 4) (s : State) : Host.Outcome State Fault Refusal :=
  .next (finishWrite (reach [.regs, .win, .bus, .flt, .recd, .ldg, .dig] (regWrite party ldgPg (0x104 + 0x40 * col.val) 1)) s)

/-- LEDGER_CLEAR_BIAS: A write of COLc_CMD = 2 (R242). -/
def execLedgerClearBias (party : Party) (col : Fin 4) (s : State) : Host.Outcome State Fault Refusal :=
  .next (finishWrite (reach [.regs, .win, .bus, .flt, .recd, .ldg, .dig] (regWrite party ldgPg (0x104 + 0x40 * col.val) 2)) s)

/-- LEDGER_BATCH_END: A write of COLc_CMD = 3 (R249). -/
def execLedgerBatchEnd (party : Party) (col : Fin 4) (s : State) : Host.Outcome State Fault Refusal :=
  .next (finishWrite (reach [.regs, .win, .bus, .flt, .recd, .ldg, .dig, .fresh] (regWrite party ldgPg (0x104 + 0x40 * col.val) 3)) s)

/-- PARCEL_WINDOW_WRITE: A write of a word of a parcel slot through the window (R248). -/
def execParcelWindowWrite (party : Party) (location : Fin 8192) (word : Fin 8) (data : Word) (s : State) : Host.Outcome State Fault Refusal :=
  .next (finishWrite (reach [.regs, .bus, .flt, .ldg]
    (writeAccess ⟨party, 0x300000 + 32 * location.val + 4 * word.val, data⟩)) s)

/-- PARCEL_READ: A read of word 0 of a parcel slot (R224). -/
def execParcelRead (party : Party) (location : Fin 8192) (s : State) : Host.Outcome State Fault Refusal :=
  .next (finish (reach [.regs, .bus] (readAccess party (0x300000 + 32 * location.val))) s)

/-- LDG_WIN_DATA_ACCESS: A write (its word) or a read of LDG_WIN_DATA (R252). -/
def execLdgWinDataAccess (party : Party) (write : Option Word) (s : State) : Host.Outcome State Fault Refusal :=
  .next (finishWrite (reach [.regs, .win, .bus, .flt, .recd, .ldg, .dig] (dataAccess party ldgPg 0x204 write)) s)

end Sys2Proof.Machine
end

