-- ==== Sys2Proof/Machine/CmdEngFloat.lean ====
section
/-!
DEFINITION. The meanings of the commands that are binary32 instructions of the control engines (R260, R262), one definition each.
-/
namespace Sys2Proof.Machine

/-- FADD: The instruction FADD of an engine (R262). -/
def execFadd (c : EngAt) (d a b : Fin 32) (s : State) : Host.Outcome State Fault Refusal :=
  .next (finish (reach [.regs, .time, .flt, .recd, .eng] (runFloat c (formF 0x00 1 true d a b) d a b f32Add)) s)

/-- FSUB: The instruction FSUB of an engine (R262). -/
def execFsub (c : EngAt) (d a b : Fin 32) (s : State) : Host.Outcome State Fault Refusal :=
  .next (finish (reach [.regs, .time, .flt, .recd, .eng] (runFloat c (formF 0x01 1 true d a b) d a b f32Sub)) s)

/-- FMUL: The instruction FMUL of an engine (R262). -/
def execFmul (c : EngAt) (d a b : Fin 32) (s : State) : Host.Outcome State Fault Refusal :=
  .next (finish (reach [.regs, .time, .flt, .recd, .eng] (runFloat c (formF 0x02 1 true d a b) d a b f32Mul)) s)

/-- FMAC: The instruction FMAC of an engine (R262). -/
def execFmac (c : EngAt) (d a b : Fin 32) (s : State) : Host.Outcome State Fault Refusal :=
  .next (finish (reach [.regs, .time, .flt, .recd, .eng]
    (engRun c { formF 0x03 1 true d a b with reads := [a.val, b.val, d.val] }
      (fun _ s => .go (putFloat c d (f32Mac (gOf c d s) (gOf c a s) (gOf c b s)) s)))) s)

/-- FMIN: The instruction FMIN of an engine (R262). -/
def execFmin (c : EngAt) (d a b : Fin 32) (s : State) : Host.Outcome State Fault Refusal :=
  .next (finish (reach [.regs, .time, .flt, .recd, .eng] (runFloat c (formF 0x04 1 true d a b) d a b (f32MinMax true))) s)

/-- FMAX: The instruction FMAX of an engine (R262). -/
def execFmax (c : EngAt) (d a b : Fin 32) (s : State) : Host.Outcome State Fault Refusal :=
  .next (finish (reach [.regs, .time, .flt, .recd, .eng] (runFloat c (formF 0x05 1 true d a b) d a b (f32MinMax false))) s)

/-- FABS: The instruction FABS of an engine (R260). -/
def execFabs (c : EngAt) (d a : Fin 32) (s : State) : Host.Outcome State Fault Refusal :=
  .next (finish (reach [.regs, .time, .flt, .recd, .eng] (runOp1 c (formF0 0x06 1 d a) d a (fun x => x &&& 0x7FFFFFFF))) s)

/-- FNEG: The instruction FNEG of an engine (R260). -/
def execFneg (c : EngAt) (d a : Fin 32) (s : State) : Host.Outcome State Fault Refusal :=
  .next (finish (reach [.regs, .time, .flt, .recd, .eng] (runOp1 c (formF0 0x07 1 d a) d a (fun x => x ^^^ 0x80000000))) s)

/-- FLT: The instruction FLT of an engine (R262). -/
def execFlt (c : EngAt) (d a b : Fin 32) (s : State) : Host.Outcome State Fault Refusal :=
  .next (finish (reach [.regs, .time, .flt, .recd, .eng] (runFloat c (formF 0x08 1 true d a b) d a b (f32Cmp false))) s)

/-- FLE: The instruction FLE of an engine (R262). -/
def execFle (c : EngAt) (d a b : Fin 32) (s : State) : Host.Outcome State Fault Refusal :=
  .next (finish (reach [.regs, .time, .flt, .recd, .eng] (runFloat c (formF 0x09 1 true d a b) d a b (f32Cmp true))) s)

/-- FEQ: The instruction FEQ of an engine (R262). -/
def execFeq (c : EngAt) (d a b : Fin 32) (s : State) : Host.Outcome State Fault Refusal :=
  .next (finish (reach [.regs, .time, .flt, .recd, .eng] (runFloat c (formF 0x0A 1 true d a b) d a b f32Eq)) s)

/-- FDIV: The instruction FDIV of an engine (R262). -/
def execFdiv (c : EngAt) (d a b : Fin 32) (s : State) : Host.Outcome State Fault Refusal :=
  .next (finish (reach [.regs, .time, .flt, .recd, .eng] (runFloat c (formF 0x0C 16 false d a b) d a b f32Div)) s)

/-- FSQRT: The instruction FSQRT of an engine (R262). -/
def execFsqrt (c : EngAt) (d a : Fin 32) (s : State) : Host.Outcome State Fault Refusal :=
  .next (finish (reach [.regs, .time, .flt, .recd, .eng] (runFloat1 c (formF0 0x0D 16 d a) d a f32Sqrt)) s)

/-- FCVTIS: The instruction FCVTIS of an engine (R262). -/
def execFcvtis (c : EngAt) (d a : Fin 32) (s : State) : Host.Outcome State Fault Refusal :=
  .next (finish (reach [.regs, .time, .flt, .recd, .eng] (runFloat1 c (formFc 0x10 d a) d a (fun x => f32FromInt x 0))) s)

/-- FCVTSI: The instruction FCVTSI of an engine (R262). -/
def execFcvtsi (c : EngAt) (d a : Fin 32) (s : State) : Host.Outcome State Fault Refusal :=
  .next (finish (reach [.regs, .time, .flt, .recd, .eng] (runFloat1 c (formFc 0x11 d a) d a f32ToInt)) s)

/-- FCVTQS: The instruction FCVTQS of an engine (R262). -/
def execFcvtqs (c : EngAt) (d a : Fin 32) (s : State) : Host.Outcome State Fault Refusal :=
  .next (finish (reach [.regs, .time, .flt, .recd, .eng] (runFloat1 c (formFc 0x12 d a) d a (fun x => f32FromInt x (-16)))) s)

/-- FCVTSQ: The instruction FCVTSQ of an engine (R262). -/
def execFcvtsq (c : EngAt) (d a : Fin 32) (s : State) : Host.Outcome State Fault Refusal :=
  .next (finish (reach [.regs, .time, .flt, .recd, .eng] (runFloat1 c (formFc 0x13 d a) d a f32ToQ)) s)

end Sys2Proof.Machine
end

