-- ==== Sys2Proof/Machine/CmdEngFlow.lean ====
section
/-!
DEFINITION. The meanings of the commands that are loads, stores and jumps of the control engines (R259, R260, R263), one definition each.
-/
namespace Sys2Proof.Machine

/-- JMPR: The instruction JMPR of an engine (R259, R260). -/
def execJmpr (c : EngAt) (a : Fin 32) (s : State) : Host.Outcome State Fault Refusal :=
  .next (finish (reach [.regs, .time, .flt, .recd, .eng]
    (engRun c { formI 4 3 2 0 a 0 with writes := [] } (fun _ s => .jump ((gOf c a s).toNat % 16384) s))) s)

/-- LD: The instruction LD of an engine (R263). -/
def execLd (c : EngAt) (d a : Fin 32) (imm : BitVec 16) (s : State) : Host.Outcome State Fault Refusal :=
  .next (finish (reach [.regs, .time, .flt, .recd, .eng] (runLoad c 6 0 4 d a imm ofN)) s)

/-- LDH: The instruction LDH of an engine (R263). -/
def execLdh (c : EngAt) (d a : Fin 32) (imm : BitVec 16) (s : State) : Host.Outcome State Fault Refusal :=
  .next (finish (reach [.regs, .time, .flt, .recd, .eng]
    (runLoad c 6 1 2 d a imm (fun v => (BitVec.ofNat 16 v).signExtend 32))) s)

/-- LDHU: The instruction LDHU of an engine (R263). -/
def execLdhu (c : EngAt) (d a : Fin 32) (imm : BitVec 16) (s : State) : Host.Outcome State Fault Refusal :=
  .next (finish (reach [.regs, .time, .flt, .recd, .eng] (runLoad c 6 2 2 d a imm ofN)) s)

/-- LDB: The instruction LDB of an engine (R263). -/
def execLdb (c : EngAt) (d a : Fin 32) (imm : BitVec 16) (s : State) : Host.Outcome State Fault Refusal :=
  .next (finish (reach [.regs, .time, .flt, .recd, .eng]
    (runLoad c 6 3 1 d a imm (fun v => (BitVec.ofNat 8 v).signExtend 32))) s)

/-- LDBU: The instruction LDBU of an engine (R263). -/
def execLdbu (c : EngAt) (d a : Fin 32) (imm : BitVec 16) (s : State) : Host.Outcome State Fault Refusal :=
  .next (finish (reach [.regs, .time, .flt, .recd, .eng] (runLoad c 7 0 1 d a imm ofN)) s)

/-- ST: The instruction ST of an engine (R263); `rivals` are the window writes of other parties in the same cycle (R278). -/
def execSt (c : EngAt) (d a : Fin 32) (imm : BitVec 16) (rivals : List BusReq) (s : State) : Host.Outcome State Fault Refusal :=
  .next (finishWrite (reach [.regs, .win, .act, .mem, .time, .bus, .flt, .recd, .clk, .sns, .moi, .lpa, .prf, .trc, .ldg, .eng, .drv, .hst, .can, .lnk, .nvs, .dig, .pwr, .fresh]
    (runStore c 1 4 d a imm rivals)) s)

/-- STH: The instruction STH of an engine (R263); `rivals` are the window writes of other parties in the same cycle (R278). -/
def execSth (c : EngAt) (d a : Fin 32) (imm : BitVec 16) (rivals : List BusReq) (s : State) : Host.Outcome State Fault Refusal :=
  .next (finishWrite (reach [.regs, .win, .act, .mem, .time, .bus, .flt, .recd, .clk, .sns, .moi, .lpa, .prf, .trc, .ldg, .eng, .drv, .hst, .can, .lnk, .nvs, .dig, .pwr, .fresh]
    (runStore c 2 2 d a imm rivals)) s)

/-- STB: The instruction STB of an engine (R263); `rivals` are the window writes of other parties in the same cycle (R278). -/
def execStb (c : EngAt) (d a : Fin 32) (imm : BitVec 16) (rivals : List BusReq) (s : State) : Host.Outcome State Fault Refusal :=
  .next (finishWrite (reach [.regs, .win, .act, .mem, .time, .bus, .flt, .recd, .clk, .sns, .moi, .lpa, .prf, .trc, .ldg, .eng, .drv, .hst, .can, .lnk, .nvs, .dig, .pwr, .fresh]
    (runStore c 3 1 d a imm rivals)) s)

/-- BEQ: The instruction BEQ of an engine (R259). -/
def execBeq (c : EngAt) (a b : Fin 32) (off : BitVec 16) (s : State) : Host.Outcome State Fault Refusal :=
  .next (finish (reach [.regs, .time, .flt, .recd, .eng] (runBranch c 8 0 a b off (fun x y => decide (x = y)))) s)

/-- BNE: The instruction BNE of an engine (R259). -/
def execBne (c : EngAt) (a b : Fin 32) (off : BitVec 16) (s : State) : Host.Outcome State Fault Refusal :=
  .next (finish (reach [.regs, .time, .flt, .recd, .eng] (runBranch c 8 1 a b off (fun x y => decide (x ≠ y)))) s)

/-- BLT: The instruction BLT of an engine (R259). -/
def execBlt (c : EngAt) (a b : Fin 32) (off : BitVec 16) (s : State) : Host.Outcome State Fault Refusal :=
  .next (finish (reach [.regs, .time, .flt, .recd, .eng] (runBranch c 8 2 a b off (fun x y => decide (x.toInt < y.toInt)))) s)

/-- BGE: The instruction BGE of an engine (R259). -/
def execBge (c : EngAt) (a b : Fin 32) (off : BitVec 16) (s : State) : Host.Outcome State Fault Refusal :=
  .next (finish (reach [.regs, .time, .flt, .recd, .eng] (runBranch c 8 3 a b off (fun x y => decide (y.toInt ≤ x.toInt)))) s)

/-- BLTU: The instruction BLTU of an engine (R259). -/
def execBltu (c : EngAt) (a b : Fin 32) (off : BitVec 16) (s : State) : Host.Outcome State Fault Refusal :=
  .next (finish (reach [.regs, .time, .flt, .recd, .eng] (runBranch c 9 0 a b off (fun x y => decide (x.toNat < y.toNat)))) s)

/-- BGEU: The instruction BGEU of an engine (R259). -/
def execBgeu (c : EngAt) (a b : Fin 32) (off : BitVec 16) (s : State) : Host.Outcome State Fault Refusal :=
  .next (finish (reach [.regs, .time, .flt, .recd, .eng] (runBranch c 9 1 a b off (fun x y => decide (y.toNat ≤ x.toNat)))) s)

/-- LOOP: The instruction LOOP of an engine (R260). -/
def execLoop (c : EngAt) (a : Fin 32) (off : BitVec 16) (s : State) : Host.Outcome State Fault Refusal :=
  .next (finish (reach [.regs, .time, .flt, .recd, .eng] (fun s =>
    engRun c { formB 9 2 a 0 off (decide (gOf c a s ≠ 1)) with reads := [a.val], writes := [a.val] } (fun _ t =>
      let v := gOf c a t - 1
      let t := gPut c a v t
      if v = 0 then .go t else .jump (branchTarget c off.toInt t) t) s)) s)

/-- JMP: The instruction JMP of an engine (R259). -/
def execJmp (c : EngAt) (off : BitVec 27) (s : State) : Host.Outcome State Fault Refusal :=
  .next (finish (reach [.regs, .time, .flt, .recd, .eng]
    (engRun c ⟨⟨maskAll, encJ 0 off.toNat⟩, [], [], 2, 2, false, false⟩ (fun _ s => .jump (branchTarget c off.toInt s) s))) s)

/-- CALL: The instruction CALL of an engine (R259). -/
def execCall (c : EngAt) (off : BitVec 27) (s : State) : Host.Outcome State Fault Refusal :=
  .next (finish (reach [.regs, .time, .flt, .recd, .eng]
    (engRun c ⟨⟨maskAll, encJ 1 off.toNat⟩, [], [31], 2, 2, false, false⟩ (fun _ s =>
      .jump (branchTarget c off.toInt s) (gPut c 31 (ofN (branchTarget c 0 s)) s)))) s)

end Sys2Proof.Machine
end

