-- ==== Sys2Proof/Machine/CmdEngInt.lean ====
section
/-!
DEFINITION. The meanings of the commands that are integer instructions of the control engines (R260, R261), one definition each.
-/
namespace Sys2Proof.Machine

/-- ADD: The instruction ADD of an engine (R260). -/
def execAdd (c : EngAt) (d a b : Fin 32) (s : State) : Host.Outcome State Fault Refusal :=
  .next (finish (reach [.regs, .time, .flt, .recd, .eng] (runOp c (formR 0x00 1 d a b) d a b (fun x y => x + y))) s)

/-- SUB: The instruction SUB of an engine (R260). -/
def execSub (c : EngAt) (d a b : Fin 32) (s : State) : Host.Outcome State Fault Refusal :=
  .next (finish (reach [.regs, .time, .flt, .recd, .eng] (runOp c (formR 0x01 1 d a b) d a b (fun x y => x - y))) s)

/-- AND: The instruction AND of an engine (R260). -/
def execAnd (c : EngAt) (d a b : Fin 32) (s : State) : Host.Outcome State Fault Refusal :=
  .next (finish (reach [.regs, .time, .flt, .recd, .eng] (runOp c (formR 0x02 1 d a b) d a b (fun x y => x &&& y))) s)

/-- OR: The instruction OR of an engine (R260). -/
def execOr (c : EngAt) (d a b : Fin 32) (s : State) : Host.Outcome State Fault Refusal :=
  .next (finish (reach [.regs, .time, .flt, .recd, .eng] (runOp c (formR 0x03 1 d a b) d a b (fun x y => x ||| y))) s)

/-- XOR: The instruction XOR of an engine (R260). -/
def execXor (c : EngAt) (d a b : Fin 32) (s : State) : Host.Outcome State Fault Refusal :=
  .next (finish (reach [.regs, .time, .flt, .recd, .eng] (runOp c (formR 0x04 1 d a b) d a b (fun x y => x ^^^ y))) s)

/-- SLL: The instruction SLL of an engine (R260). -/
def execSll (c : EngAt) (d a b : Fin 32) (s : State) : Host.Outcome State Fault Refusal :=
  .next (finish (reach [.regs, .time, .flt, .recd, .eng]
    (runOp c (formR 0x05 1 d a b) d a b (fun x y => x <<< (y.toNat % 32)))) s)

/-- SRL: The instruction SRL of an engine (R260). -/
def execSrl (c : EngAt) (d a b : Fin 32) (s : State) : Host.Outcome State Fault Refusal :=
  .next (finish (reach [.regs, .time, .flt, .recd, .eng]
    (runOp c (formR 0x06 1 d a b) d a b (fun x y => x >>> (y.toNat % 32)))) s)

/-- SRA: The instruction SRA of an engine (R260). -/
def execSra (c : EngAt) (d a b : Fin 32) (s : State) : Host.Outcome State Fault Refusal :=
  .next (finish (reach [.regs, .time, .flt, .recd, .eng]
    (runOp c (formR 0x07 1 d a b) d a b (fun x y => x.sshiftRight (y.toNat % 32)))) s)

/-- CLT: The instruction CLT of an engine (R260). -/
def execClt (c : EngAt) (d a b : Fin 32) (s : State) : Host.Outcome State Fault Refusal :=
  .next (finish (reach [.regs, .time, .flt, .recd, .eng]
    (runOp c (formR 0x08 1 d a b) d a b (fun x y => boolWord (decide (x.toInt < y.toInt))))) s)

/-- CLTU: The instruction CLTU of an engine (R260). -/
def execCltu (c : EngAt) (d a b : Fin 32) (s : State) : Host.Outcome State Fault Refusal :=
  .next (finish (reach [.regs, .time, .flt, .recd, .eng]
    (runOp c (formR 0x09 1 d a b) d a b (fun x y => boolWord (decide (x.toNat < y.toNat))))) s)

/-- MIN: The instruction MIN of an engine (R260). -/
def execMin (c : EngAt) (d a b : Fin 32) (s : State) : Host.Outcome State Fault Refusal :=
  .next (finish (reach [.regs, .time, .flt, .recd, .eng]
    (runOp c (formR 0x0A 1 d a b) d a b (fun x y => if x.toInt < y.toInt then x else y))) s)

/-- MAX: The instruction MAX of an engine (R260). -/
def execMax (c : EngAt) (d a b : Fin 32) (s : State) : Host.Outcome State Fault Refusal :=
  .next (finish (reach [.regs, .time, .flt, .recd, .eng]
    (runOp c (formR 0x0B 1 d a b) d a b (fun x y => if x.toInt < y.toInt then y else x))) s)

/-- ADDS: The instruction ADDS of an engine (R260). -/
def execAdds (c : EngAt) (d a b : Fin 32) (s : State) : Host.Outcome State Fault Refusal :=
  .next (finish (reach [.regs, .time, .flt, .recd, .eng]
    (runOp c (formR 0x0C 1 d a b) d a b (fun x y => satWord (x.toInt + y.toInt)))) s)

/-- SUBS: The instruction SUBS of an engine (R260). -/
def execSubs (c : EngAt) (d a b : Fin 32) (s : State) : Host.Outcome State Fault Refusal :=
  .next (finish (reach [.regs, .time, .flt, .recd, .eng]
    (runOp c (formR 0x0D 1 d a b) d a b (fun x y => satWord (x.toInt - y.toInt)))) s)

/-- CMOV: The instruction CMOV of an engine (R260). -/
def execCmov (c : EngAt) (d a b : Fin 32) (s : State) : Host.Outcome State Fault Refusal :=
  .next (finish (reach [.regs, .time, .flt, .recd, .eng]
    (engRun c (formR 0x0E 1 d a b) (fun _ s => .go (if gOf c b s = 0 then s else gPut c d (gOf c a s) s)))) s)

/-- CLZ: The instruction CLZ of an engine (R260). -/
def execClz (c : EngAt) (d a : Fin 32) (s : State) : Host.Outcome State Fault Refusal :=
  .next (finish (reach [.regs, .time, .flt, .recd, .eng] (runOp1 c (formR2 0x0F d a) d a clzWord)) s)

/-- SLLI: The instruction SLLI of an engine (R260). -/
def execSlli (c : EngAt) (d a sh : Fin 32) (s : State) : Host.Outcome State Fault Refusal :=
  .next (finish (reach [.regs, .time, .flt, .recd, .eng] (runOp1 c (formRs 0x10 d a sh) d a (fun x => x <<< sh.val))) s)

/-- SRLI: The instruction SRLI of an engine (R260). -/
def execSrli (c : EngAt) (d a sh : Fin 32) (s : State) : Host.Outcome State Fault Refusal :=
  .next (finish (reach [.regs, .time, .flt, .recd, .eng] (runOp1 c (formRs 0x11 d a sh) d a (fun x => x >>> sh.val))) s)

/-- SRAI: The instruction SRAI of an engine (R260). -/
def execSrai (c : EngAt) (d a sh : Fin 32) (s : State) : Host.Outcome State Fault Refusal :=
  .next (finish (reach [.regs, .time, .flt, .recd, .eng] (runOp1 c (formRs 0x12 d a sh) d a (fun x => x.sshiftRight sh.val))) s)

/-- SATQ: The instruction SATQ of an engine (R260). -/
def execSatq (c : EngAt) (d a sh : Fin 32) (s : State) : Host.Outcome State Fault Refusal :=
  .next (finish (reach [.regs, .time, .flt, .recd, .eng] (runOp1 c (formRs 0x13 d a sh) d a (fun x => satqWord x sh.val))) s)

/-- MUL: The instruction MUL of an engine (R260). -/
def execMul (c : EngAt) (d a b : Fin 32) (s : State) : Host.Outcome State Fault Refusal :=
  .next (finish (reach [.regs, .time, .flt, .recd, .eng] (runOp c (formR 0x18 2 d a b) d a b (fun x y => x * y))) s)

/-- MULH: The instruction MULH of an engine (R260). -/
def execMulh (c : EngAt) (d a b : Fin 32) (s : State) : Host.Outcome State Fault Refusal :=
  .next (finish (reach [.regs, .time, .flt, .recd, .eng]
    (runOp c (formR 0x19 2 d a b) d a b (fun x y => ofI (x.toInt * y.toInt / 4294967296)))) s)

/-- MULHU: The instruction MULHU of an engine (R260). -/
def execMulhu (c : EngAt) (d a b : Fin 32) (s : State) : Host.Outcome State Fault Refusal :=
  .next (finish (reach [.regs, .time, .flt, .recd, .eng]
    (runOp c (formR 0x1A 2 d a b) d a b (fun x y => ofN (x.toNat * y.toNat / 4294967296)))) s)

/-- QMUL: The instruction QMUL of an engine (R260). -/
def execQmul (c : EngAt) (d a b sh : Fin 32) (s : State) : Host.Outcome State Fault Refusal :=
  .next (finish (reach [.regs, .time, .flt, .recd, .eng]
    (runOp c (formRbs 0x1B 2 d a b sh) d a b (fun x y => qmulWord x y sh.val))) s)

/-- DIV: The instruction DIV of an engine (R261). -/
def execDiv (c : EngAt) (d a b : Fin 32) (s : State) : Host.Outcome State Fault Refusal :=
  .next (finish (reach [.regs, .time, .flt, .recd, .eng] (runOp c (formR 0x1C 34 d a b) d a b (divWord))) s)

/-- DIVU: The instruction DIVU of an engine (R261). -/
def execDivu (c : EngAt) (d a b : Fin 32) (s : State) : Host.Outcome State Fault Refusal :=
  .next (finish (reach [.regs, .time, .flt, .recd, .eng] (runOp c (formR 0x1D 34 d a b) d a b (divuWord))) s)

/-- REM: The instruction REM of an engine (R261). -/
def execRem (c : EngAt) (d a b : Fin 32) (s : State) : Host.Outcome State Fault Refusal :=
  .next (finish (reach [.regs, .time, .flt, .recd, .eng] (runOp c (formR 0x1E 34 d a b) d a b (remWord))) s)

/-- QDIV: The instruction QDIV of an engine (R261). -/
def execQdiv (c : EngAt) (d a b sh : Fin 32) (s : State) : Host.Outcome State Fault Refusal :=
  .next (finish (reach [.regs, .time, .flt, .recd, .eng]
    (runOp c (formRbs 0x1F 34 d a b sh) d a b (fun x y => qdivWord x y sh.val))) s)

/-- ADDI: The instruction ADDI of an engine (R260). -/
def execAddi (c : EngAt) (d a : Fin 32) (imm : BitVec 16) (s : State) : Host.Outcome State Fault Refusal :=
  .next (finish (reach [.regs, .time, .flt, .recd, .eng]
    (runOp1 c (formI 4 0 1 d a imm) d a (fun x => x + imm.signExtend 32))) s)

/-- CLTI: The instruction CLTI of an engine (R260). -/
def execClti (c : EngAt) (d a : Fin 32) (imm : BitVec 16) (s : State) : Host.Outcome State Fault Refusal :=
  .next (finish (reach [.regs, .time, .flt, .recd, .eng]
    (runOp1 c (formI 4 1 1 d a imm) d a (fun x => boolWord (decide (x.toInt < imm.toInt))))) s)

/-- LHI: The instruction LHI of an engine (R260). -/
def execLhi (c : EngAt) (d : Fin 32) (imm : BitVec 16) (s : State) : Host.Outcome State Fault Refusal :=
  .next (finish (reach [.regs, .time, .flt, .recd, .eng]
    (engRun c (formI 4 2 1 d 0 imm) (fun _ s => .go (gPut c d (ofN (imm.toNat * 65536)) s)))) s)

/-- ANDI: The instruction ANDI of an engine (R260). -/
def execAndi (c : EngAt) (d a : Fin 32) (imm : BitVec 16) (s : State) : Host.Outcome State Fault Refusal :=
  .next (finish (reach [.regs, .time, .flt, .recd, .eng]
    (runOp1 c (formI 5 0 1 d a imm) d a (fun x => x &&& imm.zeroExtend 32))) s)

/-- ORI: The instruction ORI of an engine (R260). -/
def execOri (c : EngAt) (d a : Fin 32) (imm : BitVec 16) (s : State) : Host.Outcome State Fault Refusal :=
  .next (finish (reach [.regs, .time, .flt, .recd, .eng]
    (runOp1 c (formI 5 1 1 d a imm) d a (fun x => x ||| imm.zeroExtend 32))) s)

/-- XORI: The instruction XORI of an engine (R260). -/
def execXori (c : EngAt) (d a : Fin 32) (imm : BitVec 16) (s : State) : Host.Outcome State Fault Refusal :=
  .next (finish (reach [.regs, .time, .flt, .recd, .eng]
    (runOp1 c (formI 5 2 1 d a imm) d a (fun x => x ^^^ imm.zeroExtend 32))) s)

end Sys2Proof.Machine
end

