-- ==== Sys2Proof/Machine/CmdEngPort.lean ====
section
/-!
DEFINITION. The meanings of the commands that are port, source and system instructions of the control engines, and the engines' other steps (R256 to R291), one definition each.
-/
namespace Sys2Proof.Machine

/-- PUB writes a word of the staging copy (R271). -/
def putStaging (c : EngAt) (k : Fin 16) (v : Word) (s : State) : State :=
  let x := engSt s c.eng.val
  putEng c.eng.val { x with staging := tabSet (fun _ => (0 : Word)) x.staging k.val v } s

/-- SRW writes FSTAT alone; any other index traps (R258). -/
def writeSpecial (c : EngAt) (a : Fin 32) (sp : Fin 16) (s : State) : EngOut :=
  if sp = 6 then .go (putCtx c.eng.val c.lane { engCtx s c.eng.val c.lane with fstat := (gOf c a s).toNat % 32 } s)
  else .trap 1

/-- CTRL of an engine page with SWAP_REQ = 1 and DATA_CLR (R280, R281). -/
def engSwapWrite (party : Party) (eng : Fin 16) (dataClr : Bool) (s : State) : State :=
  let a := pageAddr (engPg eng.val) 0x08
  writeAccess ⟨party, a, setBits (setBits (rdReg s a) 2 2 1) 16 16 (b2n dataClr)⟩ s

/-- DEADLINE_LANE_START: Phase 40: engines with DL_EN = 1 start their deadline context at DL_ENTRY (R256). -/
def execDeadlineLaneStart (s : State) : Host.Outcome State Fault Refusal :=
  .next (finish (reach [.regs, .time, .flt, .eng] deadlineLaneStart) s)

/-- DEADLINE_CUTOFF: The end of phase 124: deadline work that has not reached END is cut off (R272). -/
def execDeadlineCutoff (s : State) : Host.Outcome State Fault Refusal :=
  .next (finish (reach [.regs, .time, .flt, .recd, .pubs, .eng] deadlineCutoff) s)

/-- BACKGROUND_RESUME: Phase 0: background contexts resume, or start a pass at BG_ENTRY (R256). -/
def execBackgroundResume (s : State) : Host.Outcome State Fault Refusal :=
  .next (finish (reach [.regs, .time, .flt, .eng] backgroundResume) s)

/-- BACKGROUND_SUSPEND: After the last cycle of phase 39 background contexts are suspended (R256). -/
def execBackgroundSuspend (s : State) : Host.Outcome State Fault Refusal :=
  .next (finish (reach [.time, .eng] backgroundSuspend) s)

/-- PRD: The instruction PRD of an engine (R264); `took` are the cycles of a bridged access. -/
def execPrd (c : EngAt) (d a : Fin 32) (imm : BitVec 16) (took : Fin 805) (s : State) : Host.Outcome State Fault Refusal :=
  .next (finish (reach [.regs, .time, .bus, .flt, .recd, .eng] (runPrd c d a imm took)) s)

/-- PWR: The instruction PWR of an engine (R264); `took` are the cycles of a bridged access, `rivals` the writes of other parties in the same cycle (R275). -/
def execPwr (c : EngAt) (d a : Fin 32) (imm : BitVec 16) (took : Fin 805) (rivals : List BusReq) (s : State) : Host.Outcome State Fault Refusal :=
  .next (finishWrite (reach [.regs, .win, .act, .mem, .time, .bus, .flt, .recd, .clk, .sns, .moi, .lpa, .prf, .trc, .ldg, .eng, .drv, .hst, .can, .lnk, .nvs, .dig, .pwr, .fresh]
    (runPwr c d a imm took rivals)) s)

/-- PST: The instruction PST of an engine (R269). -/
def execPst (c : EngAt) (d a : Fin 32) (imm : BitVec 16) (s : State) : Host.Outcome State Fault Refusal :=
  .next (finish (reach [.regs, .time, .flt, .recd, .eng] (runPst c d a imm)) s)

/-- SRD: The instruction SRD of an engine (R270). -/
def execSrd (c : EngAt) (d : Fin 32) (src : BitVec 16) (s : State) : Host.Outcome State Fault Refusal :=
  .next (finish (reach [.regs, .time, .flt, .recd, .sns, .moi, .eng]
    (engRun c ⟨⟨maskAll, encI 11 0 d.val 0 src.toNat⟩, [], [d.val], 8, 8, false, false⟩ (fun _ s => .go (readSource c d src.toNat s)))) s)

/-- SRDR: The instruction SRDR of an engine (R270). -/
def execSrdr (c : EngAt) (d a : Fin 32) (s : State) : Host.Outcome State Fault Refusal :=
  .next (finish (reach [.regs, .time, .flt, .recd, .sns, .moi, .eng]
    (engRun c ⟨⟨maskAll, encI 11 1 d.val a.val 0⟩, [a.val], [d.val], 8, 8, false, false⟩
      (fun _ s => .go (readSource c d ((gOf c a s).toNat % 65536) s)))) s)

/-- PUB: The instruction PUB of an engine (R271). -/
def execPub (c : EngAt) (d : Fin 32) (k : Fin 16) (s : State) : Host.Outcome State Fault Refusal :=
  .next (finish (reach [.regs, .time, .flt, .recd, .eng]
    (engRun c ⟨⟨maskAll, encI 11 2 d.val 0 k.val⟩, [d.val], [], 1, 1, false, false⟩ (fun _ s => .go (putStaging c k (gOf c d s) s)))) s)

/-- NOP: The instruction NOP of an engine (R260). -/
def execNop (c : EngAt) (s : State) : Host.Outcome State Fault Refusal :=
  .next (finish (reach [.regs, .time, .flt, .recd, .eng] (engRun c (formX maskX (encX 0 0 0 0) [] [] 1) (fun _ s => .go s))) s)

/-- END: The instruction END of an engine (R256). -/
def execEnd (c : EngAt) (s : State) : Host.Outcome State Fault Refusal :=
  .next (finish (reach [.regs, .time, .flt, .recd, .eng] (engRun c (formX maskX (encX 1 0 0 0) [] [] 1) (fun _ s => .stop s))) s)

/-- SRR: The instruction SRR of an engine (R258). -/
def execSrr (c : EngAt) (d : Fin 32) (sp : Fin 16) (s : State) : Host.Outcome State Fault Refusal :=
  .next (finish (reach [.regs, .time, .flt, .recd, .eng]
    (engRun c (formX maskXds (encX 2 d.val 0 sp.val) [] [d.val] 1) (fun start s => .go (gPut c d (ofN (specialReg c start sp.val s)) s)))) s)

/-- SRW: The instruction SRW of an engine (R258). -/
def execSrw (c : EngAt) (a : Fin 32) (sp : Fin 16) (s : State) : Host.Outcome State Fault Refusal :=
  .next (finish (reach [.regs, .time, .flt, .recd, .eng]
    (engRun c (formX maskXas (encX 3 0 a.val sp.val) [a.val] [] 1) (fun _ s => writeSpecial c a sp s))) s)

/-- CNF: The instruction CNF of an engine (R284). -/
def execCnf (c : EngAt) (s : State) : Host.Outcome State Fault Refusal :=
  .next (finish (reach [.regs, .time, .flt, .recd, .eng]
    (engRun c (formX maskX (encX 4 0 0 0) [] [] 1) (fun _ s => .go (probConfirm c.eng.val s)))) s)

/-- POP: The instruction POP of an engine (R269). -/
def execPop (c : EngAt) (d : Fin 32) (s : State) : Host.Outcome State Fault Refusal :=
  .next (finish (reach [.regs, .time, .flt, .recd, .eng]
    (engRun c (formX maskXd (encX 5 d.val 0 0) [] [d.val] 1) (fun _ s => .go (popOutcome c d s)))) s)

/-- UFLT: The instruction UFLT of an engine (R260). -/
def execUflt (c : EngAt) (a : Fin 32) (s : State) : Host.Outcome State Fault Refusal :=
  .next (finish (reach [.regs, .time, .flt, .recd, .eng]
    (engRun c (formX maskXa (encX 6 0 a.val 0) [a.val] [] 2)
      (fun _ s => .go (raise (engPg c.eng.val) 0xFF kEngUser ((gOf c a s).toNat % 65536) s)))) s)

/-- POSTED_WRITE_OUTCOME: An engine's oldest posted write is judged at the page arbiter (R269); `rivals` are the writes of other parties in the same cycle. -/
def execPostedWriteOutcome (eng : Fin 16) (rivals : List BusReq) (s : State) : Host.Outcome State Fault Refusal :=
  .next (finishWrite (reach [.regs, .win, .act, .mem, .time, .bus, .flt, .recd, .clk, .sns, .moi, .lpa, .prf, .trc, .ldg, .eng, .drv, .hst, .can, .lnk, .nvs, .dig, .pwr, .fresh]
    (postedOutcome eng rivals)) s)

/-- ENG_SWAP_REQ: A write of CTRL.SWAP_REQ = 1 to an ENG page (R280). -/
def execEngSwapReq (party : Party) (eng : Fin 16) (dataClr : Bool) (s : State) : Host.Outcome State Fault Refusal :=
  .next (finishWrite (reach [.regs, .bus, .flt, .recd, .sns, .moi, .lpa, .prf, .trc, .ldg, .eng, .drv, .can, .dig]
    (engSwapWrite party eng dataClr)) s)

/-- ENG_IMAGE_CRC_CHECK: The CRC-32 check of the shadow image concludes (R280). -/
def execEngImageCrcCheck (eng : Fin 16) (s : State) : Host.Outcome State Fault Refusal :=
  .next (finish (reach [.regs, .eng] (engCrcCheck eng.val)) s)

/-- PROBATION_TIMEOUT: The probation window ends without a confirmation (R285). -/
def execProbationTimeout (eng : Fin 16) (s : State) : Host.Outcome State Fault Refusal :=
  .next (finish (reach [.regs, .mem, .time, .flt, .eng] (probationTimeout eng.val)) s)

/-- PROB_ABORT: A write of CTRL.PROB_ABORT = 1 to an ENG page (R285). -/
def execProbAbort (party : Party) (eng : Fin 16) (s : State) : Host.Outcome State Fault Refusal :=
  .next (finishWrite (reach [.regs, .bus, .flt, .recd, .sns, .moi, .lpa, .prf, .trc, .ldg, .eng, .drv, .can, .dig]
    (regSet party (engPg eng.val) 0x08 17 17 1)) s)

/-- CYC_CLR: A write of ENGn_CYC_CLR.CLR = 1 (R273). -/
def execCycClr (party : Party) (eng : Fin 16) (s : State) : Host.Outcome State Fault Refusal :=
  .next (finishWrite (reach [.regs, .bus, .eng] (regWrite party (engPg eng.val) 0x118 1)) s)

/-- ENGINE_WINDOW_WRITE: A write at an offset of an engine window (R290, R291). -/
def execEngineWindowWrite (party : Party) (eng : Fin 16) (off : BitVec 17) (data : Word) (s : State) : Host.Outcome State Fault Refusal :=
  .next (finishWrite (reach [.regs, .mem, .bus, .dig] (writeAccess ⟨party, 0x100000 + 0x20000 * eng.val + off.toNat, data⟩)) s)

end Sys2Proof.Machine
end

