-- ==== Sys2Proof/Machine/CmdFault.lean ====
section
/-!
DEFINITION. The meanings of the commands of fault collection, safe-state pins and scrub (chapter 12), one definition each.
-/
namespace Sys2Proof.Machine

/-- FAULT_MESSAGE: The fault messages that reach the collector in one cycle (R348, R360). -/
def execFaultMessage (msgs : List MsgIn) (s : State) : Host.Outcome State Fault Refusal :=
  .next (finish (reach [.flt] (faultMessages msgs)) s)

/-- FLASHING_FAULT: The P-die finds a flashing pair equal or a heartbeat missing, or finds the net sound again (R357). -/
def execFlashingFault (present : Bool) (s : State) : Host.Outcome State Fault Refusal :=
  .next (finish (reach [.flt, .fresh] (flashingFault present)) s)

/-- SAFE_IN_ASSERT: SAFE_IN_N has been low for 2 µs (R358). -/
def execSafeInAssert (s : State) : Host.Outcome State Fault Refusal :=
  .next (finish (reach [.regs, .flt, .recd] (safeInput true)) s)

/-- SAFE_IN_DEASSERT: SAFE_IN_N has been high for 2 µs (R358). -/
def execSafeInDeassert (s : State) : Host.Outcome State Fault Refusal :=
  .next (finish (reach [.regs, .flt, .recd] (safeInput false)) s)

/-- QUIET_WINDOW_END: A scope's quiet window ends (R364). -/
def execQuietWindowEnd (scope : Fin 9) (s : State) : Host.Outcome State Fault Refusal :=
  .next (finish (reach [.regs, .flt, .recd] (quietEnd scope.val)) s)

/-- FLT_CLR_FIRST: A write of KEY 0x6C61 to FLT_CLR (R366). -/
def execFltClrFirst (party : Party) (scope : BitVec 4) (s : State) : Host.Outcome State Fault Refusal :=
  .next (finishWrite (reach [.regs, .bus, .flt, .recd] (keyWrite party fltPg 0x114 0x6C61 scope.toNat)) s)

/-- FLT_CLR_SECOND: A write of KEY 0x7463 to FLT_CLR (R366). -/
def execFltClrSecond (party : Party) (scope : BitVec 4) (s : State) : Host.Outcome State Fault Refusal :=
  .next (finishWrite (reach [.regs, .bus, .flt, .recd] (keyWrite party fltPg 0x114 0x7463 scope.toNat)) s)

/-- FF_CLR: A write of FLT_FF_CLR.CLR = 1 (R362). -/
def execFfClr (party : Party) (s : State) : Host.Outcome State Fault Refusal :=
  .next (finishWrite (reach [.regs, .bus, .flt, .recd] (regWrite party fltPg 0x134 1)) s)

/-- HIST_READ: A read of FLT_HIST_W0 (R363). -/
def execHistRead (party : Party) (s : State) : Host.Outcome State Fault Refusal :=
  .next (finish (reach [.regs, .bus] (regRead party fltPg 0x144)) s)

/-- SEV_DATA_WRITE: A write of FLT_SEV_DATA (R352). -/
def execSevDataWrite (party : Party) (data : Word) (s : State) : Host.Outcome State Fault Refusal :=
  .next (finishWrite (reach [.regs, .bus, .flt, .recd] (regWrite party fltPg 0x164 data)) s)

/-- INJECTION_CONCLUDE: The armed checker's next access or evaluation; `seen` is the syndrome that appeared (R368). -/
def execInjectionConclude (page : PageIx) (seen : Syndrome) (s : State) : Host.Outcome State Fault Refusal :=
  .next (finish (reach [.regs, .flt, .drv] (injConclude page.val seen)) s)

/-- INJECTION_TIMEOUT: No access within 2 long tides of the arming (R368). -/
def execInjectionTimeout (page : PageIx) (s : State) : Host.Outcome State Fault Refusal :=
  .next (finish (reach [.regs, .flt, .fresh] (injTimeout page.val)) s)

/-- SCRUB_WORD_READ: The scrub reads one stored word (R373). -/
def execScrubWordRead (page : PageIx) (checker : Byte) (word : BitVec 16) (found : ScrubResult) (s : State) : Host.Outcome State Fault Refusal :=
  .next (finish (reach [.regs, .flt, .drv] (scrubWord page.val checker.toNat word.toNat found)) s)

/-- SCRUB_CYCLE_END: 256 tides of a scrub cycle have elapsed (R373). -/
def execScrubCycleEnd (s : State) : Host.Outcome State Fault Refusal :=
  .next (finish (reach [.regs, .flt] scrubCycleEnd) s)

/-- LOCKSTEP_MISMATCH: The supervisor lockstep comparison finds a difference (R372). -/
def execLockstepMismatch (s : State) : Host.Outcome State Fault Refusal :=
  .next (finish (reach [.flt, .fresh] (raiseOpen 0 0x03 kDevLockstep)) s)

end Sys2Proof.Machine
end

