-- ==== Sys2Proof/Machine/CmdField.lean ====
section
/-!
DEFINITION. The meanings of the commands of the fans and the field inputs and outputs (chapter 11), one definition each.
-/
namespace Sys2Proof.Machine

/-- TACH_EDGE: A falling FTACH edge, with the tach period that it completes in 40 ns, if any (R327). -/
def execTachEdge (fan : Fin 12) (period : Option Nat) (s : State) : Host.Outcome State Fault Refusal :=
  .next (finish (reach [.drv] (fanTach fan.val period)) s)

/-- KICK_TIMEOUT: The kick window ends (R329). -/
def execKickTimeout (fan : Fin 12) (s : State) : Host.Outcome State Fault Refusal :=
  .next (finish (reach [.regs, .time, .flt, .recd, .drv] (fanKickTimeout fan.val)) s)

/-- BACKOFF_END: The back-off ends (R330). -/
def execBackoffEnd (fan : Fin 12) (s : State) : Host.Outcome State Fault Refusal :=
  .next (finish (reach [.time, .drv] (fanBackoffEnd fan.val)) s)

/-- TACH_DOUBT: The published speed has stayed below STALL_RPM for a long tide; the mean output current of the last tide in 4 mA (R331). -/
def execTachDoubt (fan : Fin 12) (amp : Nat) (s : State) : Host.Outcome State Fault Refusal :=
  .next (finish (reach [.regs, .flt, .recd, .drv] (fanTachDoubt fan.val amp)) s)

/-- FAN_TRIP: Limiting for 50 ms, or a thermal shutdown of the switch (R332). -/
def execFanTrip (fan : Fin 12) (thermal : Bool) (s : State) : Host.Outcome State Fault Refusal :=
  .next (finish (reach [.regs, .flt, .recd, .drv] (fanTripped fan.val thermal)) s)

/-- STALL_CLR: A write of FAN_CHn_CTRL.STALL_CLR = 1 (R330). -/
def execStallClr (party : Party) (fan : Fin 12) (s : State) : Host.Outcome State Fault Refusal :=
  .next (finishWrite (reach [.regs, .win, .bus, .drv] (regSet party fanPg (0x100 + 0x20 * fan.val) 9 9 1)) s)

/-- FAN_TRIP_CLR: A write of FAN_CHn_CTRL.TRIP_CLR = 1 (R332). -/
def execFanTripClr (party : Party) (fan : Fin 12) (s : State) : Host.Outcome State Fault Refusal :=
  .next (finishWrite (reach [.regs, .win, .bus, .drv] (regSet party fanPg (0x100 + 0x20 * fan.val) 8 8 1)) s)

/-- FAN_WIN_DATA_ACCESS: A write (its word) or a read of FAN_WIN_DATA (R344). -/
def execFanWinDataAccess (party : Party) (write : Option Word) (s : State) : Host.Outcome State Fault Refusal :=
  .next (finishWrite (reach [.regs, .win, .bus, .drv] (dataAccess party fanPg 0x344 write)) s)

/-- DI_CHANGE: The sampled level of an input changes (R334, R335). -/
def execDiChange (input : Fin 32) (level : Bool) (s : State) : Host.Outcome State Fault Refusal :=
  .next (finish (reach [.regs, .drv] (dinChange input.val level)) s)

/-- DEBOUNCE_END: A debounce window ends (R335). -/
def execDebounceEnd (input : Fin 32) (s : State) : Host.Outcome State Fault Refusal :=
  .next (finish (reach [.regs, .time, .drv] (dinDebounceEnd input.val)) s)

/-- COUNTER_EDGE: An edge of a counter input whose level has held for `held` µs (R336). -/
def execCounterEdge (counter : Fin 8) (rising : Bool) (held : Nat) (s : State) : Host.Outcome State Fault Refusal :=
  .next (finish (reach [.drv] (counterEdge counter.val rising held)) s)

/-- DI_RATE_GATE: The boundary just passed opened a tick whose count is a multiple of 2^GATE (R336). -/
def execDiRateGate (counter : Fin 8) (s : State) : Host.Outcome State Fault Refusal :=
  .next (finish (reach [.pubs] (counterRate counter.val)) s)

/-- DO_PERIOD_START: A time-proportioning period starts (R337). -/
def execDoPeriodStart (ch : Fin 24) (s : State) : Host.Outcome State Fault Refusal :=
  .next (finish (reach [.time, .drv] (doPeriodStart ch.val)) s)

/-- DO_ONTIME_END: The on-time of the present period ends (R337). -/
def execDoOntimeEnd (ch : Fin 24) (s : State) : Host.Outcome State Fault Refusal :=
  .next (finish (reach [.time, .drv] (doOntimeEnd ch.val)) s)

/-- DO_LIMIT_TRIP: Current limiting has lasted `ms` milliseconds without a break (R338). -/
def execDoLimitTrip (ch : Fin 24) (ms : Nat) (s : State) : Host.Outcome State Fault Refusal :=
  .next (finish (reach [.regs, .flt, .drv] (doLimitTrip ch.val ms)) s)

/-- DO_THERMAL_TRIP: Thermal shutdown of a channel (R338). -/
def execDoThermalTrip (ch : Fin 24) (s : State) : Host.Outcome State Fault Refusal :=
  .next (finish (reach [.regs, .flt, .drv] (doTrip true ch.val)) s)

/-- DO_READBACK_EPISODE: For 1 ms the ball has been above 5 V (`high`) or below VFIELD − 3 V (R339). -/
def execDoReadbackEpisode (ch : Fin 24) (high : Bool) (s : State) : Host.Outcome State Fault Refusal :=
  .next (finish (reach [.regs, .flt, .drv] (doReadback ch.val high)) s)

/-- DOU_TRIP_CLR: A write of DOU_CHj_CTRL.TRIP_CLR = 1 (R338). -/
def execDouTripClr (party : Party) (ch : Fin 24) (s : State) : Host.Outcome State Fault Refusal :=
  .next (finishWrite (reach [.regs, .bus, .drv] (regSet party douPg (0x100 + 8 * ch.val) 20 20 1)) s)

/-- AO_READBACK_MEASURE: Phase 100: the analog outputs measure their readbacks (R341). -/
def execAoReadbackMeasure (meas : List AoReading) (s : State) : Host.Outcome State Fault Refusal :=
  .next (finish (reach [.regs, .time, .flt, .recd, .drv] (aoReadbackMeasure meas)) s)

/-- DO_READBACK_END: 1 ms without a contrary ball voltage (R339). -/
def execDoReadbackEnd (ch : Fin 24) (s : State) : Host.Outcome State Fault Refusal :=
  .next (finish (reach [.regs, .flt, .recd, .drv] (doReadbackEnd ch.val)) s)

end Sys2Proof.Machine
end

