-- ==== Sys2Proof/Machine/CmdHost.lean ====
section
/-!
DEFINITION. The meanings of the commands of the host interface and the CAN controllers (chapter 14), one definition each.
-/
namespace Sys2Proof.Machine

/-- HOST_WRITE_FRAME: A host write frame is received (R410); `rivals` are the writes of other parties in the cycle of each word. -/
def execHostWriteFrame (req : HostReq) (s : State) (rivals : List (List BusReq) := []) : Host.Outcome State Fault Refusal :=
  .next (finishWrite (reach [.regs, .win, .act, .mem, .time, .bus, .flt, .recd, .clk, .sns, .moi, .lpa, .prf, .trc, .ldg, .eng, .drv, .hst, .can, .lnk, .nvs, .dig, .pwr, .fresh]
    (hostFrame false req rivals)) s)

/-- HOST_READ_FRAME: A host read frame is received (R410). -/
def execHostReadFrame (req : HostReq) (s : State) : Host.Outcome State Fault Refusal :=
  .next (finish (reach [.regs, .win, .act, .mem, .time, .bus, .flt, .recd, .clk, .sns, .moi, .lpa, .prf, .trc, .ldg, .eng, .drv, .hst, .can, .lnk, .nvs, .dig, .pwr, .fresh]
    (hostFrame true req [])) s)

/-- HOST_REPLY_READY: The reply is ready and HRDY returns high (R409); `risen` says whether HCS_N has risen by then. -/
def execHostReplyReady (s : State) (risen : Bool := false) : Host.Outcome State Fault Refusal :=
  .next (finish (reach [.regs, .hst] (hostReplyReady risen)) s)

/-- KEEP_ALIVE: A HOST write of 0x4B41 to HST_KA (R414). -/
def execKeepAlive (s : State) : Host.Outcome State Fault Refusal :=
  .next (finishWrite (reach [.regs, .bus, .flt, .recd, .hst] (regWrite .host hstPg 0x100 0x4B41)) s)

/-- HOST_SILENCE_BEGIN: A silence window ends without a keep-alive (R414). -/
def execHostSilenceBegin (s : State) : Host.Outcome State Fault Refusal :=
  .next (finish (reach [.regs, .time, .flt] silenceBegin) s)

/-- CAN_FRAME_RECEIVE: A CAN frame is received without error (R419). -/
def execCanFrameReceive (ctl : Fin 2) (frame : CanFrame) (s : State) : Host.Outcome State Fault Refusal :=
  .next (finish (reach [.regs, .act, .flt, .can, .fresh] (canReceive (canPg ctl.val) frame)) s)

/-- CAN_TXREQ: A write of 1 to a TXREQ bit (R420). -/
def execCanTxreq (party : Party) (ctl : Fin 2) (obj : Fin 64) (s : State) : Host.Outcome State Fault Refusal :=
  .next (finishWrite (reach [.regs, .act, .bus, .can] (objectSet party ctl 0x120 obj)) s)

/-- CAN_TXABORT: A write of 1 to a TXABORT bit (R420). -/
def execCanTxabort (party : Party) (ctl : Fin 2) (obj : Fin 64) (s : State) : Host.Outcome State Fault Refusal :=
  .next (finishWrite (reach [.regs, .act, .bus, .can] (objectSet party ctl 0x128 obj)) s)

/-- CAN_TX_DONE: The transmission of an object succeeds (R420). -/
def execCanTxDone (ctl : Fin 2) (obj : Fin 64) (s : State) : Host.Outcome State Fault Refusal :=
  .next (finish (reach [.regs, .act, .flt, .can] (canSent (canPg ctl.val) obj.val)) s)

/-- CAN_RECOVER: A write of CTRL.RECOVER = 1 (R421). -/
def execCanRecover (party : Party) (ctl : Fin 2) (s : State) : Host.Outcome State Fault Refusal :=
  .next (finishWrite (reach [.regs, .bus, .flt, .recd, .sns, .moi, .lpa, .prf, .trc, .ldg, .eng, .drv, .can, .dig]
    (regSet party (canPg ctl.val) 0x08 21 21 1)) s)

/-- CAN_BUS_OFF_RECOVERED: 128 sequences of 11 recessive bits have passed (R421). -/
def execCanBusOffRecovered (ctl : Fin 2) (s : State) : Host.Outcome State Fault Refusal :=
  .next (finish (reach [.regs, .flt, .recd, .can] (canRecovered (canPg ctl.val))) s)

/-- MO_DATA_ACCESS: A write (its word) or a read of MO_DATA (R418). -/
def execMoDataAccess (party : Party) (ctl : Fin 2) (write : Option Word) (s : State) : Host.Outcome State Fault Refusal :=
  .next (finishWrite (reach [.regs, .act, .bus, .can] (dataAccess party (canPg ctl.val) 0x144 write)) s)

/-- CAN_ERROR_DETECTED: A CAN protocol error with its LEC code, and the object whose frame was being sent (R421). -/
def execCanErrorDetected (ctl : Fin 2) (count : CanCount) (lec : Fin 7) (sending : Option (Fin 64)) (s : State) : Host.Outcome State Fault Refusal :=
  .next (finish (reach [.regs, .flt, .can] (canError (canPg ctl.val) count lec.val (sending.map fun o => o.val))) s)

end Sys2Proof.Machine
end

