-- ==== Sys2Proof/Machine/CmdLink.lean ====
section
/-!
DEFINITION. The meanings of the commands of the link (chapter 14), one definition each.
-/
namespace Sys2Proof.Machine

/-- LINK_PORT_CHANGE: A port goes up or down (R423), with what its PHY shows then. -/
def execLinkPortChange (port : Fin 2) (up aneg lpwr : Bool) (sqi : Fin 8) (s : State) : Host.Outcome State Fault Refusal :=
  .next (finish (reach [.regs] (portChange port.val up aneg lpwr sqi.val)) s)

/-- SYNC_SEND: Phase 10 of a tick whose count is a multiple of 8: a master sends SYNC (R428); `cycle` is the cycle of its SFD egress. -/
def execSyncSend (cycle : BitVec 16) (s : State) : Host.Outcome State Fault Refusal :=
  .next (finish (reach [.time, .lnk] (syncSend cycle.toNat)) s)

/-- PDREQ_SEND: A port sends its path-delay request, at the local time of its SFD egress in ns (R427). -/
def execPdreqSend (port : Fin 2) (egress : Nat) (s : State) : Host.Outcome State Fault Refusal :=
  .next (finish (reach [.lnk] (pdreqSend port.val egress)) s)

/-- PDREQ_RECEIVE: A PDREQ is received and answered, with the SFD ingress of the request and egress of the answer in ns (R427). -/
def execPdreqReceive (port : Fin 2) (frame : LinkFrame) (ingress egress : BitVec 64) (s : State) : Host.Outcome State Fault Refusal :=
  .next (finish (reach [.regs, .flt, .recd, .lnk] (pdreqReceive port.val frame ingress.toNat egress.toNat)) s)

/-- PDRESP_RECEIVE: A PDRESP is received, at the local time of its SFD ingress in ns (R427). -/
def execPdrespReceive (port : Fin 2) (frame : LinkFrame) (ingress : Nat) (s : State) : Host.Outcome State Fault Refusal :=
  .next (finish (reach [.regs, .flt, .recd, .lnk] (pdrespReceive port.val frame ingress)) s)

/-- CARGO_SEND: The first cycle of phase 42 of a cargo tick (R430). -/
def execCargoSend (s : State) : Host.Outcome State Fault Refusal :=
  .next (finish (reach [.time, .flt, .sns, .moi, .lnk] cargoSend) s)

/-- CARGO_RECEIVE: A CARGO frame is received (R431). -/
def execCargoReceive (port : Fin 2) (frame : LinkFrame) (s : State) : Host.Outcome State Fault Refusal :=
  .next (finish (reach [.regs, .flt, .recd, .lnk] (cargoReceive port.val frame)) s)

/-- CARGO_DUE: The boundary just passed is the due instant of some partners' cargo (R432). -/
def execCargoDue (s : State) : Host.Outcome State Fault Refusal :=
  .next (finish (reach [.regs, .time, .flt, .recd, .pubs, .lnk] cargoDue) s)

/-- PARTNER_LOST: No accepted frame from an expected partner for LOST_T long tides (R440). -/
def execPartnerLost (partner : Fin 32) (s : State) : Host.Outcome State Fault Refusal :=
  .next (finish (reach [.regs, .flt, .lnk] (partnerLost partner.val)) s)

/-- CARGO_READ: A read of PC_VAL (R432). -/
def execCargoRead (party : Party) (s : State) : Host.Outcome State Fault Refusal :=
  .next (finish (reach [.regs, .bus] (regRead party lnkPg 0x154)) s)

/-- RIDGE_READ: A read of RG_HI (R440). -/
def execRidgeRead (party : Party) (s : State) : Host.Outcome State Fault Refusal :=
  .next (finish (reach [.regs, .bus] (regRead party lnkPg 0x164)) s)

/-- LNK_WIN_DATA_ACCESS: A write (its word) or a read of LNK0_WIN_DATA (R440). -/
def execLnkWinDataAccess (party : Party) (write : Option Word) (s : State) : Host.Outcome State Fault Refusal :=
  .next (finishWrite (reach [.regs, .act, .bus, .lnk] (dataAccess party lnkPg 0x144 write)) s)

/-- DIGEST_SEND: The device's DIGEST tick (R434). -/
def execDigestSend (s : State) : Host.Outcome State Fault Refusal :=
  .next (finish (reach [.lnk] digestSend) s)

/-- DIGEST_RECEIVE: A DIGEST frame is received (R434, R463). -/
def execDigestReceive (port : Fin 2) (frame : LinkFrame) (s : State) : Host.Outcome State Fault Refusal :=
  .next (finish (reach [.regs, .flt, .recd, .lnk] (digestReceive port.val frame)) s)

/-- DQUERY_START: A write of DQ_CMD with GO = 1 (R434). -/
def execDqueryStart (party : Party) (target : Fin 32) (level : Fin 4) (index : Byte) (s : State) : Host.Outcome State Fault Refusal :=
  .next (finishWrite (reach [.regs, .act, .bus, .lnk]
    (regWrite party lnkPg 0x170 (ofN (0x80000000 + target.val * 16777216 + level.val * 65536 + index.toNat)))) s)

/-- DQUERY_RECEIVE: A DQUERY is received (R434). -/
def execDqueryReceive (port : Fin 2) (frame : LinkFrame) (s : State) : Host.Outcome State Fault Refusal :=
  .next (finish (reach [.regs, .flt, .recd, .lnk] (dqueryReceive port.val frame)) s)

/-- DREPLY_SEND: The tick after a query: the device answers with DREPLY (R434). -/
def execDreplySend (s : State) : Host.Outcome State Fault Refusal :=
  .next (finish (reach [.lnk] dreplySend) s)

/-- DREPLY_RECEIVE: A DREPLY is received (R434). -/
def execDreplyReceive (port : Fin 2) (frame : LinkFrame) (s : State) : Host.Outcome State Fault Refusal :=
  .next (finish (reach [.regs, .flt, .recd, .lnk] (dreplyReceive port.val frame)) s)

/-- DQUERY_TIMEOUT: 8 tides without a reply (R434). -/
def execDqueryTimeout (s : State) : Host.Outcome State Fault Refusal :=
  .next (finish (reach [.regs, .lnk] dqueryTimeout) s)

/-- COMMIT_START: A write of CMT_CTRL with CMD = 1 (R435). -/
def execCommitStart (party : Party) (cid : BitVec 16) (s : State) : Host.Outcome State Fault Refusal :=
  .next (finishWrite (reach [.regs, .act, .bus, .lnk] (regWrite party lnkPg 0x180 (ofN (0x40000000 + cid.toNat)))) s)

/-- COMMIT_ABORT: A write of CMT_CTRL.CMD = 2 that leaves CID as it reads (R435). -/
def execCommitAbort (party : Party) (s : State) : Host.Outcome State Fault Refusal :=
  .next (finishWrite (reach [.regs, .act, .bus, .lnk] (regSet party lnkPg 0x180 31 30 2)) s)

/-- PREPARE_SEND: The coordinator sends PREPARE (R435). -/
def execPrepareSend (s : State) : Host.Outcome State Fault Refusal :=
  .next (finish (reach [.regs, .lnk] prepareSend) s)

/-- PREPARE_RECEIVE: A PREPARE is received (R436). -/
def execPrepareReceive (port : Fin 2) (frame : LinkFrame) (s : State) : Host.Outcome State Fault Refusal :=
  .next (finish (reach [.regs, .flt, .recd, .lnk] (prepareReceive port.val frame)) s)

/-- VOTE_RECEIVE: A VOTE is received (R435). -/
def execVoteReceive (port : Fin 2) (frame : LinkFrame) (s : State) : Host.Outcome State Fault Refusal :=
  .next (finish (reach [.regs, .flt, .recd, .lnk] (voteReceive port.val frame)) s)

/-- VOTE_TIMEOUT: 64 ticks after the start with votes missing (R435). -/
def execVoteTimeout (s : State) : Host.Outcome State Fault Refusal :=
  .next (finish (reach [.regs] voteTimeout) s)

/-- DECIDE_SEND: The coordinator sends DECIDE (R435). -/
def execDecideSend (s : State) : Host.Outcome State Fault Refusal :=
  .next (finish (reach [.regs, .act, .flt, .lnk] decideSend) s)

/-- DECIDE_RECEIVE: A DECIDE is received (R437). -/
def execDecideReceive (port : Fin 2) (frame : LinkFrame) (s : State) : Host.Outcome State Fault Refusal :=
  .next (finish (reach [.regs, .act, .flt, .recd, .lnk] (decideReceive port.val frame)) s)

/-- TARGET_DISCARD: Tick A − 64 has come without DECIDE commit (R436). -/
def execTargetDiscard (s : State) : Host.Outcome State Fault Refusal :=
  .next (finish (reach [.regs, .act, .flt, .lnk] targetDiscard) s)

/-- COMMIT_APPLY: Phase 42 of tick A: a committed target applies its writes (R437); `rivals` are the writes of other parties in the cycle of each. -/
def execCommitApply (rivals : List (List BusReq)) (s : State) : Host.Outcome State Fault Refusal :=
  .next (finishWrite (reach [.regs, .win, .act, .mem, .time, .bus, .flt, .recd, .clk, .sns, .moi, .lpa, .prf, .trc, .ldg, .eng, .drv, .hst, .can, .lnk, .nvs, .dig, .pwr, .fresh]
    (commitApply rivals)) s)

/-- DONE_SEND: The tick after A: the target sends DONE (R437). -/
def execDoneSend (s : State) : Host.Outcome State Fault Refusal :=
  .next (finish (reach [.regs, .lnk] doneSend) s)

/-- DONE_RECEIVE: A DONE is received (R435). -/
def execDoneReceive (port : Fin 2) (frame : LinkFrame) (s : State) : Host.Outcome State Fault Refusal :=
  .next (finish (reach [.regs, .flt, .recd, .lnk] (doneReceive port.val frame)) s)

/-- COMMIT_TIMEOUT: Tick A + 128 has come (R435). -/
def execCommitTimeout (s : State) : Host.Outcome State Fault Refusal :=
  .next (finish (reach [.regs] commitTimeout) s)

/-- FAULT_FRAME_SEND: Queued fault entries are sent in a FAULT frame (R438). -/
def execFaultFrameSend (s : State) : Host.Outcome State Fault Refusal :=
  .next (finish (reach [.flt, .lnk] faultSend) s)

/-- FAULT_FRAME_RECEIVE: A FAULT frame is received (R438). -/
def execFaultFrameReceive (port : Fin 2) (frame : LinkFrame) (s : State) : Host.Outcome State Fault Refusal :=
  .next (finish (reach [.regs, .flt, .recd, .lnk] (faultReceive port.val frame)) s)

/-- LINK_FRAME_DISCARD: A frame that is a violation or a duplicate arrives (R425, R426, R439). -/
def execLinkFrameDiscard (port : Fin 2) (fcsOk : Bool) (etype : BitVec 16) (frame : LinkFrame) (s : State) : Host.Outcome State Fault Refusal :=
  .next (finish (reach [.regs, .flt, .recd, .lnk] (discardFrame port.val fcsOk etype frame)) s)

end Sys2Proof.Machine
end

