-- ==== Sys2Proof/Machine/CmdPower.lean ====
section
/-!
DEFINITION. The meanings of the commands of power, start-up and the test access port (chapter 16), one definition each.
-/
namespace Sys2Proof.Machine

/-- SUPPLY_MONITOR_RESET: A main rail has been beyond a reset threshold for 10 µs (R470). -/
def execSupplyMonitorReset (rail : Rail) (s : State) : Host.Outcome State Fault Refusal :=
  .next (finishAlways (supplyReset rail) s)

/-- RESET_ASSERT: PORST_N or RESET_N has been low for 1 µs (R475). -/
def execResetAssert (pin : ResetPin) (s : State) : Host.Outcome State Fault Refusal :=
  .next (finishAlways (resetPin pin) s)

/-- DEVICE_START: Reset is released: the device samples BOOT[1:0], measures VDDIO and starts (R471, R478, R479); `stop`
says where the word writes of the start stop, if they do (R442, R472). -/
def execDeviceStart (boot : BitVec 2) (vddioMv : BitVec 16) (s : State) (stop : Option NvStop := none) : Host.Outcome State Fault Refusal :=
  .next (finishAlways (reach [.regs, .force, .win, .act, .mem, .time, .bus, .flt, .recd, .clk, .wch, .sns, .moi, .lpa, .prf, .trc, .ldg, .eng, .drv, .hst, .can, .lnk, .nvs, .dig, .pwr, .fresh]
    (withStop stop (deviceStart boot.toNat vddioMv.toNat))) s)

/-- VFIELD_WINDOW: VFIELD enters or leaves its over- or undervoltage window (R473). -/
def execVfieldWindow (high active : Bool) (s : State) : Host.Outcome State Fault Refusal :=
  .next (finish (reach [.regs] (vfieldWindow high active)) s)

/-- THERMAL_RESET: A die has been at or above 170 °C for 10 µs (R491). -/
def execThermalReset (s : State) : Host.Outcome State Fault Refusal :=
  .next (finishAlways thermalReset s)

/-- MODE_REQ_RUN: A write of PWR_MODE with REQ 0 (R483). -/
def execModeReqRun (party : Party) (s : State) : Host.Outcome State Fault Refusal :=
  .next (finishWrite (reach [.regs, .bus, .pwr] (keyWrite party pwrPg 0x100 0x504D 0)) s)

/-- MODE_REQ_HALT: A write of PWR_MODE with REQ 1 (R483). -/
def execModeReqHalt (party : Party) (s : State) : Host.Outcome State Fault Refusal :=
  .next (finishWrite (reach [.regs, .bus, .pwr] (keyWrite party pwrPg 0x100 0x504D 1)) s)

/-- MODE_REQ_STANDBY: A write of PWR_MODE with REQ 2 (R483). -/
def execModeReqStandby (party : Party) (s : State) : Host.Outcome State Fault Refusal :=
  .next (finishWrite (reach [.regs, .bus, .pwr] (keyWrite party pwrPg 0x100 0x504D 2)) s)

/-- MODE_REQ_DEEP: A write of PWR_MODE with REQ 3 (R483). -/
def execModeReqDeep (party : Party) (s : State) : Host.Outcome State Fault Refusal :=
  .next (finishWrite (reach [.regs, .bus, .pwr] (keyWrite party pwrPg 0x100 0x504D 3)) s)

/-- DEEP_ENTRY: The recorder queue is empty and no NV write runs: COMPUTE switches off (R486). -/
def execDeepEntry (s : State) : Host.Outcome State Fault Refusal :=
  .next (finish deepEntry s)

/-- WAKE_ALARM: The calendar reaches the wake alarm in DEEP (R486). -/
def execWakeAlarm (s : State) : Host.Outcome State Fault Refusal :=
  .next (finishAlways (reach [.pwr] wakeAlarm) s)

/-- SWRST_FIRST: A write of KEY 0xA5C3 to DEV_SWRST (R500). -/
def execSwrstFirst (party : Party) (s : State) : Host.Outcome State Fault Refusal :=
  .next (finishWrite (reach [.regs, .bus, .pwr] (keyWrite party 0 0x110 0xA5C3 0)) s)

/-- SWRST_SECOND: A write of KEY 0x3C5A to DEV_SWRST (R500). -/
def execSwrstSecond (party : Party) (s : State) : Host.Outcome State Fault Refusal :=
  .next (finishWrite (reach [.regs, .bus, .pwr] (keyWrite party 0 0x110 0x3C5A 0)) s)

/-- DEBUG_RELEASE: A debug release through the test access port (R478); `stop` says where the word writes of the start stop, if they do
(R442, R472). -/
def execDebugRelease (s : State) (stop : Option NvStop := none) : Host.Outcome State Fault Refusal :=
  .next (finishAlways (reach [.regs, .force, .win, .act, .mem, .time, .bus, .flt, .recd, .clk, .wch, .sns, .moi, .lpa, .prf, .trc, .ldg, .eng, .drv, .hst, .can, .lnk, .nvs, .dig, .pwr, .fresh]
    (withStop stop debugRelease)) s)

/-- UID_READ: A read of DEV_UID_HI (R499). -/
def execUidRead (party : Party) (s : State) : Host.Outcome State Fault Refusal :=
  .next (finish (reach [.regs, .bus] (regRead party 0 0x104)) s)

/-- BRIDGE_CLR: A write of DEV_BRIDGE_CLR.CLR = 1 (R499). -/
def execBridgeClr (party : Party) (s : State) : Host.Outcome State Fault Refusal :=
  .next (finishWrite (reach [.regs, .bus, .pwr] (regWrite party 0 0x11C 1)) s)

/-- TEMP_CLR: A write of PWR_TCLR.CLR = 1 (R501). -/
def execTempClr (party : Party) (s : State) : Host.Outcome State Fault Refusal :=
  .next (finishWrite (reach [.regs, .bus, .pwr] (regWrite party pwrPg 0x118 1)) s)

/-- JTAG_BYPASS: The BYPASS instruction is loaded (R498). -/
def execJtagBypass (s : State) : Host.Outcome State Fault Refusal :=
  .next (finishAlways (reach [.tap] (tapLoad .bypass)) s)

/-- JTAG_IDCODE: The IDCODE instruction is loaded (R498). -/
def execJtagIdcode (s : State) : Host.Outcome State Fault Refusal :=
  .next (finishAlways (reach [.tap] (tapLoad .idcode)) s)

/-- JTAG_SAMPLE_PRELOAD: The SAMPLE/PRELOAD instruction is loaded (R498). -/
def execJtagSamplePreload (s : State) : Host.Outcome State Fault Refusal :=
  .next (finishAlways (reach [.tap] (tapLoad .sample)) s)

/-- JTAG_EXTEST: The EXTEST instruction is loaded (R498). -/
def execJtagExtest (s : State) : Host.Outcome State Fault Refusal :=
  .next (finishAlways (reach [.tap] (tapLoad .extest)) s)

/-- JTAG_DEBUG_ACCESS: A register access of the debug instruction (R498). -/
def execJtagDebugAccess (addr : BitVec 24) (write : Option Word) (s : State) : Host.Outcome State Fault Refusal :=
  .next (finishAlways (reach [.regs, .win, .act, .mem, .time, .bus, .flt, .recd, .clk, .sns, .moi, .lpa, .prf, .trc, .ldg, .eng, .drv, .hst, .can, .lnk, .nvs, .dig, .pwr, .tap, .fresh]
    (tapAccess addr.toNat write)) s)

/-- START_UP_RUN: The start-up sequence reaches step 7 (R479). -/
def execStartUpRun (s : State) : Host.Outcome State Fault Refusal :=
  .next (finish (reach [.regs, .recd, .fresh] startUpRun) s)

/-- POWER_MODE_CHANGE_DONE: A requested power mode comes into force (R483). -/
def execPowerModeChangeDone (s : State) : Host.Outcome State Fault Refusal :=
  .next (finish modeDone s)

end Sys2Proof.Machine
end

