-- ==== Sys2Proof/Machine/CmdRecord.lean ====
section
/-!
DEFINITION. The meanings of the commands of the recorder, the calendar clock and the watch island (chapter 13), one definition each.
-/
namespace Sys2Proof.Machine

/-- RECORD_WRITE: The recorder writes its next queued record (R386); `stop` says where its 17 word writes stop, if they do (R442, R472). -/
def execRecordWrite (stop : Option NvStop) (s : State) : Host.Outcome State Fault Refusal :=
  .next (finish (reach [.regs, .flt, .recd, .nvs, .fresh] (withStop stop recordWrite)) s)

/-- ANCHOR_HOURLY: Another 3600 calendar seconds have passed at a tick boundary (R380). -/
def execAnchorHourly (s : State) : Host.Outcome State Fault Refusal :=
  .next (finish (reach [.recd] anchorHourly) s)

/-- RECORD_READ: A read of REC_WIN0 (R388). -/
def execRecordRead (party : Party) (s : State) : Host.Outcome State Fault Refusal :=
  .next (finish (reach [.regs, .bus] (regRead party recPg 0x180)) s)

/-- REC_CLR_FIRST: A write of KEY 0x5A17 to REC_CLR (R389). -/
def execRecClrFirst (party : Party) (commissioning : Bool) (s : State) : Host.Outcome State Fault Refusal :=
  .next (finishWrite (reach [.regs, .bus, .recd] (keyWrite party recPg 0x1C0 0x5A17 (b2n commissioning))) s)

/-- REC_CLR_SECOND: A write of KEY 0xE8A5 to REC_CLR (R389). -/
def execRecClrSecond (party : Party) (commissioning : Bool) (s : State) : Host.Outcome State Fault Refusal :=
  .next (finishWrite (reach [.regs, .bus, .recd] (keyWrite party recPg 0x1C0 0xE8A5 (b2n commissioning))) s)

/-- REC_CLEAR_DONE: The area clear finishes (R389). -/
def execRecClearDone (s : State) : Host.Outcome State Fault Refusal :=
  .next (finish (reach [.regs, .recd] clearDone) s)

/-- REC_DROP_CLR: A write of REC_DROP_CLR.CLR = 1 (R403). -/
def execRecDropClr (party : Party) (s : State) : Host.Outcome State Fault Refusal :=
  .next (finishWrite (reach [.regs, .bus, .recd] (regWrite party recPg 0x144 1)) s)

/-- CLOCK_CAPTURE: A read of CLK_SEC_LO (R391). -/
def execClockCapture (party : Party) (s : State) : Host.Outcome State Fault Refusal :=
  .next (finish (reach [.regs, .bus] (regRead party clkPg 0x100)) s)

/-- CLOCK_SET: A write of CLK_SET_LO (R392). -/
def execClockSet (party : Party) (lo : Word) (s : State) : Host.Outcome State Fault Refusal :=
  .next (finishWrite (reach [.regs, .bus, .recd, .clk] (regWrite party clkPg 0x10C lo)) s)

/-- OSC_FAIL: No 32.768 kHz edges for 2 ms (R394). -/
def execOscFail (s : State) : Host.Outcome State Fault Refusal :=
  .next (finishAlways (reach [.regs, .flt, .clk] oscFailed) s)

/-- WATCH_POWER_UP: The WATCH domain powers up from no supply (R395). -/
def execWatchPowerUp (s : State) : Host.Outcome State Fault Refusal :=
  .next (finishAlways (reach [.regs, .force, .win, .act, .bus, .recd, .clk, .wch, .pwr] watchPowerUp) s)

/-- WATCH_SUPPLY_CHANGE: The supplies present at the WATCH domain change (R396). -/
def execWatchSupplyChange (vdda link : Bool) (vbat : Nat) (s : State) : Host.Outcome State Fault Refusal :=
  .next (finishAlways (reach [.regs] (watchSupply vdda link vbat)) s)

/-- WATCH_SCAN_START: The watch island starts a scan (R397). -/
def execWatchScanStart (s : State) : Host.Outcome State Fault Refusal :=
  .next (finishAlways (reach [.regs, .wch] scanStart) s)

/-- WATCH_SCAN_END: A watch scan ends with the readings taken (R398, R400). -/
def execWatchScanEnd (readings : List WatchReading) (s : State) : Host.Outcome State Fault Refusal :=
  .next (finishAlways (reach [.regs, .wch, .fresh] (scanEnd readings)) s)

/-- WATCH_SCAN_ABANDON: A scan is abandoned by a SENSE power-up or a watch brownout (R399). -/
def execWatchScanAbandon (brownout : Bool) (s : State) : Host.Outcome State Fault Refusal :=
  .next (finishAlways (reach [.regs, .wch, .fresh] (scanAbandon brownout)) s)

/-- CALENDAR_SECOND: The sub-second counter of the calendar clock wraps (R390, R393). -/
def execCalendarSecond (s : State) : Host.Outcome State Fault Refusal :=
  .next (finishAlways (reach [.clk] calendarSecond) s)

end Sys2Proof.Machine
end

