-- ==== Sys2Proof/Machine/CmdSense.lean ====
section
/-!
DEFINITION. The meanings of the commands of the sense channels, the repeaters and the moisture analyser (chapters 3 to 5), one definition each.
-/
namespace Sys2Proof.Machine

/-- The page of a sense page's number. -/
def snsPageOf (page : Fin 3) : Nat := 0x10 + page.val

/-- SENSE_FRAME: One tick frame of a SNS page's slices (R79). -/
def execSenseFrame (page : Fin 3) (inp : SenseIn) (s : State) : Host.Outcome State Fault Refusal :=
  .next (finish (reach [.regs, .time, .flt, .recd, .sns, .fresh] (senseFrame (snsPageOf page) inp)) s)

/-- SENSE_CONVERSION_END: Conversions of a SNS page that end in this tick are formed (R82). -/
def execSenseConversionEnd (page : Fin 3) (s : State) : Host.Outcome State Fault Refusal :=
  .next (finish (reach [.time, .flt, .sns] (senseConversionEnd (snsPageOf page))) s)

/-- CLAMP_DETECT: The bank clamp supervisor detects clamp current on a ball (R95). -/
def execClampDetect (bank : Fin 6) (pin : Fin 16) (s : State) : Host.Outcome State Fault Refusal :=
  .next (finish (reach [.regs, .flt, .sns] (clampDetect bank.val pin.val)) s)

/-- RANGE_WRITE: A RANGE write of CHi_RANGE (R90). -/
def execRangeWrite (party : Party) (ch : Fin 48) (range : BitVec 4) (s : State) : Host.Outcome State Fault Refusal :=
  .next (finishWrite (reach [.regs, .win, .bus, .sns, .dig]
    (regSet party (snsPage ch.val) (0x104 + 0x10 * (ch.val % 16)) 3 0 range.toNat)) s)

/-- MUX_DWELL_END: The dwell of a mux point ends (R98). -/
def execMuxDwellEnd (bank : Fin 6) (s : State) : Host.Outcome State Fault Refusal :=
  .next (finish (reach [.regs, .time] (muxDwellEnd bank.val)) s)

/-- SEQ_RESTART: A write of CTRL.SEQ_RESTART = 1 (R98). -/
def execSeqRestart (party : Party) (page : Fin 3) (s : State) : Host.Outcome State Fault Refusal :=
  .next (finishWrite (reach [.regs, .bus, .flt, .recd, .sns, .moi, .lpa, .prf, .trc, .ldg, .eng, .drv, .can, .dig]
    (regSet party (snsPageOf page) 0x08 16 16 1)) s)

/-- RESULT_LANDING: The first cycle of phase 0: due records land or go stale (R108). -/
def execResultLanding (s : State) : Host.Outcome State Fault Refusal :=
  .next (finish (reach [.regs, .time, .flt, .recd, .sns, .rpt] resultLanding) s)

/-- RESULT_READ: A read of RESi_VAL (R121). -/
def execResultRead (party : Party) (ch : Fin 48) (s : State) : Host.Outcome State Fault Refusal :=
  .next (finish (reach [.regs, .bus] (regRead party (snsPage ch.val) (0x280 + 8 * (ch.val % 16)))) s)

/-- PT_VAL_READ: A read of PT_VAL (R122). -/
def execPtValRead (party : Party) (page : Fin 3) (s : State) : Host.Outcome State Fault Refusal :=
  .next (finish (reach [.regs, .bus] (regRead party (snsPageOf page) 0x304)) s)

/-- TONE_WINDOW_END: A 2048-tick tone window ends (R128). -/
def execToneWindowEnd (page : Fin 3) (s : State) : Host.Outcome State Fault Refusal :=
  .next (finish (reach [.regs, .flt, .recd, .sns] (toneWindowEnd (snsPageOf page))) s)

/-- RPT_EDGE_CHECK: A repeater output is read back 1 µs after an edge (R136). -/
def execRptEdgeCheck (out : Fin 4) (agrees : Bool) (s : State) : Host.Outcome State Fault Refusal :=
  .next (finish (reach [.regs, .flt, .recd, .rpt] (rptEdgeCheck out.val agrees)) s)

/-- COEF_DATA_ACCESS: A write (its word) or a read of COEF_DATA (R118). -/
def execCoefDataAccess (party : Party) (page : Fin 3) (write : Option Word) (s : State) : Host.Outcome State Fault Refusal :=
  .next (finishWrite (reach [.regs, .win, .bus, .sns, .dig] (dataAccess party (snsPageOf page) 0x3F4 write)) s)

/-- MOI_PERIOD_END: The boundary just passed ends the result periods of some moisture channels (R145). -/
def execMoiPeriodEnd (s : State) : Host.Outcome State Fault Refusal :=
  .next (finish (reach [.regs, .time, .flt, .recd, .moi] moiPeriodEnd) s)

/-- MOI_SWEEP_COMPLETE: The sweep finishes its last active point; `points` are the readings of the active points in order (R143, R149). -/
def execMoiSweepComplete (ch : Fin 8) (points : List CellPoint) (s : State) : Host.Outcome State Fault Refusal :=
  .next (finish (reach [.regs, .moi] (sweepComplete ch.val points)) s)

/-- MOI_SWEEP_DEADLINE: The end of phase 99: sweeps of periods in their last tick are cut off (R146). -/
def execMoiSweepDeadline (s : State) : Host.Outcome State Fault Refusal :=
  .next (finish (reach [.regs, .time, .moi] sweepDeadline) s)

/-- MOI_EVALUATE: Phase 100: the evaluator takes the completed sweeps of periods in their last tick (R154). -/
def execMoiEvaluate (s : State) : Host.Outcome State Fault Refusal :=
  .next (finish (reach [.regs, .time, .flt, .recd, .sns, .moi] moiEvaluate) s)

/-- MOI_PLL_UNLOCK: The moisture PLL loses lock (R148). -/
def execMoiPllUnlock (s : State) : Host.Outcome State Fault Refusal :=
  .next (finish (reach [.regs, .flt, .moi] pllUnlock) s)

/-- MOI_PLL_RELOCK: Lock has held for 20 µs (R148). -/
def execMoiPllRelock (s : State) : Host.Outcome State Fault Refusal :=
  .next (finish (reach [.regs, .flt, .recd, .moi] pllRelock) s)

/-- MOI_CLAMP_DETECT: A moisture bank's clamp supervisor detects clamp current on a ball (R141). -/
def execMoiClampDetect (bank : Fin 2) (pin : Fin 12) (s : State) : Host.Outcome State Fault Refusal :=
  .next (finish (reach [.regs, .flt, .moi] (moiClampDetect bank.val pin.val)) s)

/-- CAL_START: A write of CAL_CTRL with CMD = 1 (R152). -/
def execCalStart (party : Party) (ch : Fin 8) (navg : BitVec 6) (s : State) : Host.Outcome State Fault Refusal :=
  .next (finishWrite (reach [.regs, .win, .bus, .moi, .dig]
    (regWrite party moiPg 0x300 (ofN (navg.toNat * 65536 + ch.val * 256 + 1)))) s)

/-- CAL_ABORT: A write of CAL_CTRL.CMD = 2 that leaves the other fields as they read (R153). -/
def execCalAbort (party : Party) (s : State) : Host.Outcome State Fault Refusal :=
  .next (finishWrite (reach [.regs, .win, .bus, .moi, .dig] (regSet party moiPg 0x300 1 0 2)) s)

/-- CAL_END: The boundary just passed ended the last period of a calibration (R152). -/
def execCalEnd (s : State) : Host.Outcome State Fault Refusal :=
  .next (finish (reach [.regs, .win, .moi] calFinish) s)

/-- MOI_RESULT_READ: A read of CHm_MOIST (R164). -/
def execMoiResultRead (party : Party) (ch : Fin 8) (s : State) : Host.Outcome State Fault Refusal :=
  .next (finish (reach [.regs, .bus] (regRead party moiPg (0x200 + 0x20 * ch.val))) s)

/-- TBL_DATA_ACCESS: A write (its word) or a read of MOI_TBL_DATA (R158). -/
def execTblDataAccess (party : Party) (write : Option Word) (s : State) : Host.Outcome State Fault Refusal :=
  .next (finishWrite (reach [.regs, .win, .bus, .moi, .dig] (dataAccess party moiPg 0x314 write)) s)

end Sys2Proof.Machine
end

