-- ==== Sys2Proof/Machine/CmdTick.lean ====
section
/-!
DEFINITION. The meanings of the commands of the organisation and time-base chapters (chapters 1 and 2), one definition each.
-/
namespace Sys2Proof.Machine

/-- TICK_BOUNDARY: The 125 µs tick expires (R41); `oscLen` is the ended tick's length as the independent oscillator measured it, in 10 ns (R39), `rails` the rail readings of the tick (R501). -/
def execTickBoundary (oscLen : Nat) (rails : RailMv) (s : State) : Host.Outcome State Fault Refusal :=
  .next (finish (reach [.regs, .force, .win, .act, .mem, .time, .flt, .recd, .sns, .rpt, .moi, .pubs, .lpa, .prf, .trc, .ldg, .eng, .drv, .hst, .lnk, .nvs, .dig, .pwr, .fresh]
    (tickBoundary oscLen rails)) s)

/-- PLL_LOCK_LOSS: The C-die PLL loses lock (R39). -/
def execPllLockLoss (s : State) : Host.Outcome State Fault Refusal :=
  .next (finish (reach [.flt] (raise tickPg 0xFF kTickClockFail 0xFFFF)) s)

/-- TIDE_BOUNDARY: A tick boundary ends a tide (R38); `temps` are the die temperatures read then (R490). -/
def execTideBoundary (temps : DieTemps) (s : State) : Host.Outcome State Fault Refusal :=
  .next (finish (reach [.regs, .win, .act, .time, .flt, .recd, .drv] (tideBoundary temps)) s)

/-- LONG_TIDE_BOUNDARY: A tick boundary ends a long tide (R38); `vbat` is the battery voltage measured then, in mV (R404). -/
def execLongTideBoundary (vbat : Nat) (s : State) : Host.Outcome State Fault Refusal :=
  .next (finish (reach [.regs, .time, .flt, .recd, .sns, .moi, .ldg, .lnk] (longTideBoundary vbat)) s)

/-- BRIDGE_FRAME: A die-bridge frame is received (R17). -/
def execBridgeFrame (bridge : Bridge) (frame : BridgeFrameIn) (s : State) : Host.Outcome State Fault Refusal :=
  .next (finish (reach [.regs, .flt, .sns, .moi, .lpa, .drv, .bridges] (bridgeFrame bridge frame)) s)

/-- REGISTER_WRITE: Register writes applied in one cycle, each judged field by field (R502, R275). -/
def execRegisterWrite (writes : List BusReq) (s : State) : Host.Outcome State Fault Refusal :=
  .next (finishWrite (reach [.regs, .win, .act, .mem, .time, .bus, .flt, .recd, .clk, .sns, .moi, .lpa, .prf, .trc, .ldg, .eng, .drv, .hst, .can, .lnk, .nvs, .dig, .pwr, .fresh]
    (cycleCommand writes)) s)

/-- RUN_CONTROL: A write of CTRL.RUN (R27). -/
def execRunControl (party : Party) (page : PageIx) (run : Bool) (s : State) : Host.Outcome State Fault Refusal :=
  .next (finishWrite (reach [.regs, .bus, .flt, .recd, .sns, .moi, .lpa, .prf, .trc, .ldg, .eng, .drv, .can, .dig]
    (regSet party page.val 0x08 0 0 (b2n run))) s)

/-- SWAP_REQ: A write of CTRL.SWAP_REQ = 1 (R24, R41). -/
def execSwapReq (party : Party) (page : PageIx) (s : State) : Host.Outcome State Fault Refusal :=
  .next (finishWrite (reach [.regs, .bus, .flt, .recd, .sns, .moi, .lpa, .prf, .trc, .ldg, .eng, .drv, .can, .dig]
    (regSet party page.val 0x08 2 2 1)) s)

/-- SOFT_RST: A write of CTRL.SOFT_RST = 1 (R24). -/
def execSoftRst (party : Party) (page : PageIx) (s : State) : Host.Outcome State Fault Refusal :=
  .next (finishWrite (reach [.regs, .bus, .flt, .recd, .sns, .moi, .lpa, .prf, .trc, .ldg, .eng, .drv, .can, .dig]
    (regSet party page.val 0x08 1 1 1)) s)

/-- FAULT_COUNT_CLR: A write of FLT_STAT.CNT_CLR = 1 (R29). -/
def execFaultCountClr (party : Party) (page : PageIx) (s : State) : Host.Outcome State Fault Refusal :=
  .next (finishWrite (reach [.regs, .bus] (regWrite party page.val 0x18 0x80)) s)

/-- FINJ_ARM: A FINJ write that sets ARM (R30). -/
def execFinjArm (party : Party) (page : PageIx) (checker mask : Byte) (s : State) : Host.Outcome State Fault Refusal :=
  .next (finishWrite (reach [.regs, .bus, .flt]
    (regWrite party page.val 0x1C (ofN (0x80000000 + mask.toNat * 256 + checker.toNat)))) s)

/-- OWN_WRITE: A write of OWN (R31, R32). -/
def execOwnWrite (party : Party) (page : PageIx) (owner : BitVec 5) (shared : Bool) (s : State) : Host.Outcome State Fault Refusal :=
  .next (finishWrite (reach [.regs, .bus] (regWrite party page.val 0x20 (ofN (b2n shared * 65536 + owner.toNat)))) s)

/-- LOCK_SET: A write of KEY 0x7A3C to LOCK (R33). -/
def execLockSet (party : Party) (page : PageIx) (s : State) : Host.Outcome State Fault Refusal :=
  .next (finishWrite (reach [.regs, .bus] (regWrite party page.val 0x24 0x7A3C)) s)

/-- LOCK_PERM: A write of KEY 0xF00F to LOCK (R33). -/
def execLockPerm (party : Party) (page : PageIx) (s : State) : Host.Outcome State Fault Refusal :=
  .next (finishWrite (reach [.regs, .bus] (regWrite party page.val 0x24 0xF00F)) s)

/-- UNLOCK_FIRST: A write of KEY 0xC3A7 to LOCK (R33). -/
def execUnlockFirst (party : Party) (page : PageIx) (s : State) : Host.Outcome State Fault Refusal :=
  .next (finishWrite (reach [.regs, .bus] (regWrite party page.val 0x24 0xC3A7)) s)

/-- UNLOCK_SECOND: A write of KEY 0x5E61 to LOCK (R33). -/
def execUnlockSecond (party : Party) (page : PageIx) (s : State) : Host.Outcome State Fault Refusal :=
  .next (finishWrite (reach [.regs, .bus] (regWrite party page.val 0x24 0x5E61)) s)

/-- BATTEN_READ: A read of BATTEN (R34). -/
def execBattenRead (party : Party) (page : PageIx) (s : State) : Host.Outcome State Fault Refusal :=
  .next (finish (reach [.regs, .bus] (regRead party page.val 0x28)) s)

/-- TICK_CNT_CAPTURE: A read of TICK_CNT_LO (R65). -/
def execTickCntCapture (party : Party) (s : State) : Host.Outcome State Fault Refusal :=
  .next (finish (reach [.regs, .bus] (regRead party tickPg 0x100)) s)

/-- TICK_MON_CLR: A write of TICK_MON_CLR.CLR = 1 (R64). -/
def execTickMonClr (party : Party) (s : State) : Host.Outcome State Fault Refusal :=
  .next (finishWrite (reach [.regs, .time, .bus] (regWrite party tickPg 0x12C 1)) s)

/-- SYNC_RECEIVE: A SYNC frame is received on a port (R428): the local time of its SFD ingress in system clocks since tick count 0, and the residence time until its forwarding in ns. -/
def execSyncReceive (port : Fin 2) (frame : LinkFrame) (ingress residence : Nat) (s : State) : Host.Outcome State Fault Refusal :=
  .next (finish (reach [.regs, .time, .flt, .recd, .lnk, .fresh] (syncReceive port.val frame ingress residence)) s)

/-- SYNC_TIMEOUT: No sync frame for one tide in LOCKED (R59). -/
def execSyncTimeout (s : State) : Host.Outcome State Fault Refusal :=
  .next (finish (reach [.regs, .time, .flt] syncTimeout) s)

/-- HOLDOVER_EXPIRE: HOLD_LIMIT tides have passed in HOLDOVER without a frame (R59). -/
def execHoldoverExpire (s : State) : Host.Outcome State Fault Refusal :=
  .next (finish (reach [.regs, .time, .flt, .lnk] holdoverExpire) s)

/-- TICK_ADOPT: The first cycle of a tick whose count is adopted from the master (R60, R61). -/
def execTickAdopt (s : State) : Host.Outcome State Fault Refusal :=
  .next (finish (reach [.regs, .act, .time, .flt, .sns, .moi, .pubs, .ldg, .lnk] tickAdopt) s)

/-- MASTER_CLAIM: No SYNC frame heard for 16 + 8 × RANK ticks in FREE with ROLE 1 (R429). -/
def execMasterClaim (s : State) : Host.Outcome State Fault Refusal :=
  .next (finish (reach [.regs, .time, .flt] (fun s => masterClaim (linkRank s) s)) s)

end Sys2Proof.Machine
end

