-- ==== Sys2Proof/Machine/CmdUpdate.lean ====
section
/-!
DEFINITION. The meanings of the commands of the NV store, updates and digests (chapter 15), one definition each.
-/
namespace Sys2Proof.Machine

/-- A write of NVS_CMD with its key (R467). -/
def nvsCmdWrite (party : Party) (eng cmd : Nat) (s : State) : State := keyWrite party nvsPg 0x108 0x4E56 (eng * 256 + cmd) s

/-- The offset of a HI register of the DIG page: DIG_RIDGE_HI, DIG_PUB_HI, DIG_VAL_HI, DIG_SHD_HI. -/
def digestOff (reg : Fin 4) : Nat := match reg with | 0 => 0x100 | 1 => 0x108 | 2 => 0x114 | 3 => 0x138

/-- VERIFY: A write of NVS_CMD with CMD 1 (R448). -/
def execVerify (party : Party) (s : State) : Host.Outcome State Fault Refusal :=
  .next (finishWrite (reach [.regs, .mem, .bus, .nvs] (nvsCmdWrite party 0 1)) s)

/-- ARM: A write of NVS_CMD with CMD 2 (R448). -/
def execArm (party : Party) (s : State) : Host.Outcome State Fault Refusal :=
  .next (finishWrite (reach [.regs, .mem, .bus, .nvs] (nvsCmdWrite party 0 2)) s)

/-- DISARM: A write of NVS_CMD with CMD 3 (R448). -/
def execDisarm (party : Party) (s : State) : Host.Outcome State Fault Refusal :=
  .next (finishWrite (reach [.regs, .mem, .bus, .nvs] (nvsCmdWrite party 0 3)) s)

/-- SAVE_PROFILE: A write of NVS_CMD with CMD 4 (R458). -/
def execSaveProfile (party : Party) (s : State) : Host.Outcome State Fault Refusal :=
  .next (finishWrite (reach [.regs, .mem, .bus, .nvs] (nvsCmdWrite party 0 4)) s)

/-- STORE_ENG: A write of NVS_CMD with CMD 5 (R453). -/
def execStoreEng (party : Party) (eng : Fin 16) (s : State) : Host.Outcome State Fault Refusal :=
  .next (finishWrite (reach [.regs, .mem, .bus, .nvs] (nvsCmdWrite party eng.val 5)) s)

/-- SUP_RESTART: A write of NVS_CMD with CMD 6 (R449). -/
def execSupRestart (party : Party) (s : State) : Host.Outcome State Fault Refusal :=
  .next (finishWrite (reach [.regs, .mem, .bus, .nvs] (nvsCmdWrite party 0 6)) s)

/-- PROB_REJECT: A write of NVS_CMD with CMD 7 (R451). -/
def execProbReject (party : Party) (s : State) : Host.Outcome State Fault Refusal :=
  .next (finishWrite (reach [.regs, .mem, .bus, .nvs] (nvsCmdWrite party 0 7)) s)

/-- PROG_KEY: A write of NVS_CMD with CMD 8 (R446). -/
def execProgKey (party : Party) (s : State) : Host.Outcome State Fault Refusal :=
  .next (finishWrite (reach [.regs, .mem, .bus, .nvs] (nvsCmdWrite party 0 8)) s)

/-- SET_KEYPOL: A write of NVS_CMD with CMD 9 (R446). -/
def execSetKeypol (party : Party) (s : State) : Host.Outcome State Fault Refusal :=
  .next (finishWrite (reach [.regs, .mem, .bus, .nvs] (nvsCmdWrite party 0 9)) s)

/-- ERASE_PROFILE: A write of NVS_CMD with CMD 10 (R457). -/
def execEraseProfile (party : Party) (s : State) : Host.Outcome State Fault Refusal :=
  .next (finishWrite (reach [.regs, .mem, .bus, .nvs] (nvsCmdWrite party 0 10)) s)

/-- NVS_COMMAND_DONE: The running command ends (R467); `failed` is the NV offset of a word that could not be written in two attempts (R442). -/
def execNvsCommandDone (failed : Option (BitVec 23)) (s : State) : Host.Outcome State Fault Refusal :=
  .next (finish (reach [.regs, .mem, .flt, .nvs, .fresh] (nvsDone (failed.map fun o => o.toNat))) s)

/-- NVS_DATA_ACCESS: A write (its word) or a read of NVS_DATA (R442); `failed` says that neither write attempt read back right. -/
def execNvsDataAccess (party : Party) (write : Option Word) (failed : Bool) (s : State) : Host.Outcome State Fault Refusal :=
  .next (finishWrite (reach [.regs, .win, .act, .mem, .time, .bus, .flt, .recd, .clk, .sns, .moi, .lpa, .prf, .trc, .ldg, .eng, .drv, .hst, .can, .lnk, .nvs, .dig, .pwr, .fresh]
    (nvDataAccess party write failed)) s)

/-- CONFIRM: A write of NVS_PROB.CONFIRM = 1 (R451); `stop` says where its word writes stop, if they do (R442, R472). -/
def execConfirm (party : Party) (s : State) (stop : Option NvStop := none) : Host.Outcome State Fault Refusal :=
  .next (finishWrite (reach [.regs, .mem, .bus, .flt, .nvs, .fresh] (withStop stop (regWrite party nvsPg 0x11C 0x80000000))) s)

/-- SUPERVISOR_START: A supervisor start that is not part of a device start, after SUP_RESTART or a probation failure (R449, R450); `stop` says
where its word writes stop, if they do (R442, R472). -/
def execSupervisorStart (s : State) (stop : Option NvStop := none) : Host.Outcome State Fault Refusal :=
  .next (finish (reach [.regs, .force, .win, .act, .mem, .time, .bus, .flt, .recd, .clk, .wch, .sns, .moi, .lpa, .prf, .trc, .ldg, .eng, .drv, .hst, .can, .lnk, .nvs, .dig, .pwr, .fresh]
    (withStop stop supervisorStart)) s)

/-- SUP_PROBATION_TIMEOUT: The supervisor probation window ends (R451). -/
def execSupProbationTimeout (s : State) : Host.Outcome State Fault Refusal :=
  .next (finish (reach [.time, .nvs] supProbEnd) s)

/-- SHADOW_DIGEST_START: A write of DIG_SHD_CMD with GO = 1 (R465). -/
def execShadowDigestStart (party : Party) (page : Byte) (s : State) : Host.Outcome State Fault Refusal :=
  .next (finishWrite (reach [.regs, .bus, .dig] (regWrite party digPg 0x130 (ofN (0x80000000 + page.toNat)))) s)

/-- SHADOW_DIGEST_DONE: The shadow digest ends (R465). -/
def execShadowDigestDone (s : State) : Host.Outcome State Fault Refusal :=
  .next (finish (reach [.regs, .dig] shadowDone) s)

/-- DIGEST_READ: A read of DIG_RIDGE_HI, DIG_PUB_HI, DIG_VAL_HI or DIG_SHD_HI (R468). -/
def execDigestRead (party : Party) (reg : Fin 4) (s : State) : Host.Outcome State Fault Refusal :=
  .next (finish (reach [.regs, .bus] (regRead party digPg (digestOff reg))) s)

/-- SUPERVISOR_START_DONE: A supervisor start ends (R449). -/
def execSupervisorStartDone (s : State) : Host.Outcome State Fault Refusal :=
  .next (finish (reach [.regs, .nvs] supervisorStartDone) s)

end Sys2Proof.Machine
end

