-- ==== Sys2Proof/Machine/CmdValve.lean ====
section
/-!
DEFINITION. The meanings of the commands of the valve drive and of bridge loss (chapters 10 and 11), one definition each.
-/
namespace Sys2Proof.Machine

/-- VLV_NOP: A write of LGi_CMD with OP 0 (R296). -/
def execVlvNop (party : Party) (leg : Fin 16) (s : State) : Host.Outcome State Fault Refusal :=
  .next (finishWrite (reach [.regs, .bus, .drv] (legCmdWrite party leg 0 0)) s)

/-- VLV_PULSE: A write of LGi_CMD with OP 1 (R296). -/
def execVlvPulse (party : Party) (leg : Fin 16) (onT : BitVec 24) (s : State) : Host.Outcome State Fault Refusal :=
  .next (finishWrite (reach [.regs, .bus, .drv] (legCmdWrite party leg 1 onT.toNat)) s)

/-- VLV_ON: A write of LGi_CMD with OP 2 (R296). -/
def execVlvOn (party : Party) (leg : Fin 16) (s : State) : Host.Outcome State Fault Refusal :=
  .next (finishWrite (reach [.regs, .bus, .drv] (legCmdWrite party leg 2 0)) s)

/-- VLV_OFF: A write of LGi_CMD with OP 3 (R296). -/
def execVlvOff (party : Party) (leg : Fin 16) (s : State) : Host.Outcome State Fault Refusal :=
  .next (finishWrite (reach [.regs, .bus, .drv] (legCmdWrite party leg 3 0)) s)

/-- COMMAND_START: Phase 40: legs act on the commands of the tick before; `amps` are the leg currents in 5 mA then (R297, R298). -/
def execCommandStart (amps : List Nat) (s : State) : Host.Outcome State Fault Refusal :=
  .next (finish (reach [.regs, .time, .drv] (commandStart amps)) s)

/-- REACH: The coil current first reaches I_PULL (R300). -/
def execReach (leg : Fin 16) (s : State) : Host.Outcome State Fault Refusal :=
  .next (finish (reach [.regs, .drv] (legReach leg.val)) s)

/-- ARMATURE_DIP: A dip during the unchopped ramp: the µs from s to the minimum, the running maximum, the minimum and the present current in 5 mA (R302). -/
def execArmatureDip (leg : Fin 16) (t imax imin amp : Nat) (s : State) : Host.Outcome State Fault Refusal :=
  .next (finish (reach [.regs, .drv] (legDip leg.val t imax imin amp)) s)

/-- PULL_END: The profile reaches s + T_PULL (R300). -/
def execPullEnd (leg : Fin 16) (s : State) : Host.Outcome State Fault Refusal :=
  .next (finish (reach [.regs, .time, .drv] (legPullEnd leg.val)) s)

/-- HOLD_LEVEL_REACHED: The current falls to I_HOLD after the pull (R300). -/
def execHoldLevelReached (leg : Fin 16) (s : State) : Host.Outcome State Fault Refusal :=
  .next (finish (reach [.regs, .drv] (legHoldLevel leg.val)) s)

/-- PROFILE_END: The profile reaches its end instant E (R300). -/
def execProfileEnd (leg : Fin 16) (s : State) : Host.Outcome State Fault Refusal :=
  .next (finish (reach [.regs, .time, .drv] (legProfileEnd leg.val)) s)

/-- DECAY_END: The decay current falls below I_ZERO (R300). -/
def execDecayEnd (leg : Fin 16) (s : State) : Host.Outcome State Fault Refusal :=
  .next (finish (reach [.drv] (legDecayEnd leg.val)) s)

/-- WAITING_PULL_START: The pair policy permits a waiting PULL; the currents of the leg and of its partner in 5 mA (R303). -/
def execWaitingPullStart (leg : Fin 16) (amp partnerAmp : Nat) (s : State) : Host.Outcome State Fault Refusal :=
  .next (finish (reach [.regs, .drv] (legWaitStart leg.val amp partnerAmp)) s)

/-- DELAY_EXPIRE: Under DELAY the instant s + DMAX comes (R303). -/
def execDelayExpire (leg : Fin 16) (s : State) : Host.Outcome State Fault Refusal :=
  .next (finish (reach [.regs, .time, .drv] (legDelayExpire leg.val)) s)

/-- LEG_OVERCURRENT: A leg current at or above 6.0 A for 2 µs while its LS is on (R308). -/
def execLegOvercurrent (leg : Fin 16) (s : State) : Host.Outcome State Fault Refusal :=
  .next (finish (reach [.regs, .flt, .drv] (legOvercurrent leg.val)) s)

/-- HS_OVERCURRENT: A high-side current at or above 7.0 A for 2 µs (R309). -/
def execHsOvercurrent (pair : Fin 8) (s : State) : Host.Outcome State Fault Refusal :=
  .next (finish (reach [.regs, .flt, .drv] (hsOvercurrent pair.val)) s)

/-- LEG_TRIP_CLR: A write of LGi_CTRL.TRIP_CLR = 1 (R310). -/
def execLegTripClr (party : Party) (leg : Fin 16) (s : State) : Host.Outcome State Fault Refusal :=
  .next (finishWrite (reach [.regs, .bus, .drv] (regSet party (legPg leg.val) (0x100 + 0x20 * (leg.val % 8)) 8 8 1)) s)

/-- HS_CLR: A write of PRk_CFG.HS_CLR = 1 (R310). -/
def execHsClr (party : Party) (pair : Fin 8) (s : State) : Host.Outcome State Fault Refusal :=
  .next (finishWrite (reach [.regs, .bus, .drv] (regSet party (0x30 + pair.val / 4) (0x200 + 8 * (pair.val % 4)) 31 31 1)) s)

/-- LEG_CNT_CLR: A write of LGi_CTRL.CNT_CLR = 1 (R315). -/
def execLegCntClr (party : Party) (leg : Fin 16) (s : State) : Host.Outcome State Fault Refusal :=
  .next (finishWrite (reach [.regs, .bus, .drv] (regSet party (legPg leg.val) (0x100 + 0x20 * (leg.val % 8)) 9 9 1)) s)

/-- BRIDGE_LOSS: The P-die has received no valid C–P frame for 250 µs (R322). -/
def execBridgeLoss (s : State) : Host.Outcome State Fault Refusal :=
  .next (finish (reach [.flt, .drv, .fresh] bridgeLoss) s)

/-- BRIDGE_LOSS_END: Valid C–P frames have been received for 8 consecutive ticks (R322). -/
def execBridgeLossEnd (s : State) : Host.Outcome State Fault Refusal :=
  .next (finish (reach [.regs, .flt, .recd, .drv] bridgeLossEnd) s)

/-- CHOP_PERIOD_START: A period of a leg's chop grid starts, at a current in 5 mA (R301). -/
def execChopPeriodStart (leg : Fin 16) (amp : Nat) (s : State) : Host.Outcome State Fault Refusal :=
  .next (finish (reach [.regs, .drv] (legChopStart leg.val amp)) s)

/-- CHOP_TARGET_REACHED: After blanking the current reaches the chop target (R301). -/
def execChopTargetReached (leg : Fin 16) (s : State) : Host.Outcome State Fault Refusal :=
  .next (finish (reach [.regs, .drv] (legChopTarget leg.val)) s)

/-- MIXED_FAST_END: MIXT µs into a MIXED decay interval (R293). -/
def execMixedFastEnd (leg : Fin 16) (s : State) : Host.Outcome State Fault Refusal :=
  .next (finish (reach [.time, .drv] (legMixedEnd leg.val)) s)

end Sys2Proof.Machine
end

