-- ==== Sys2Proof/Machine/Dispatch.lean ====
section
/-!
DEFINITION. The dispatch: one arm per command, each one direct call of its meaning.
-/
namespace Sys2Proof.Machine

/-- The effect of a command on everything but the queue. -/
def exec (i : Instr) (s : State) : Host.Outcome State Fault Refusal :=
  match i with
  | .tickBoundary oscLen rails => Sys2Proof.Machine.execTickBoundary oscLen rails s
  | .pllLockLoss => Sys2Proof.Machine.execPllLockLoss s
  | .tideBoundary temps => Sys2Proof.Machine.execTideBoundary temps s
  | .longTideBoundary vbat => Sys2Proof.Machine.execLongTideBoundary vbat s
  | .bridgeFrame bridge frame => Sys2Proof.Machine.execBridgeFrame bridge frame s
  | .registerWrite writes => Sys2Proof.Machine.execRegisterWrite writes s
  | .runControl party page run => Sys2Proof.Machine.execRunControl party page run s
  | .swapReq party page => Sys2Proof.Machine.execSwapReq party page s
  | .softRst party page => Sys2Proof.Machine.execSoftRst party page s
  | .faultCountClr party page => Sys2Proof.Machine.execFaultCountClr party page s
  | .finjArm party page checker mask => Sys2Proof.Machine.execFinjArm party page checker mask s
  | .ownWrite party page owner shared => Sys2Proof.Machine.execOwnWrite party page owner shared s
  | .lockSet party page => Sys2Proof.Machine.execLockSet party page s
  | .lockPerm party page => Sys2Proof.Machine.execLockPerm party page s
  | .unlockFirst party page => Sys2Proof.Machine.execUnlockFirst party page s
  | .unlockSecond party page => Sys2Proof.Machine.execUnlockSecond party page s
  | .battenRead party page => Sys2Proof.Machine.execBattenRead party page s
  | .tickCntCapture party => Sys2Proof.Machine.execTickCntCapture party s
  | .tickMonClr party => Sys2Proof.Machine.execTickMonClr party s
  | .syncReceive port frame ingress residence => Sys2Proof.Machine.execSyncReceive port frame ingress residence s
  | .syncTimeout => Sys2Proof.Machine.execSyncTimeout s
  | .holdoverExpire => Sys2Proof.Machine.execHoldoverExpire s
  | .tickAdopt => Sys2Proof.Machine.execTickAdopt s
  | .masterClaim => Sys2Proof.Machine.execMasterClaim s
  | .senseFrame page inp => Sys2Proof.Machine.execSenseFrame page inp s
  | .senseConversionEnd page => Sys2Proof.Machine.execSenseConversionEnd page s
  | .clampDetect bank pin => Sys2Proof.Machine.execClampDetect bank pin s
  | .rangeWrite party ch range => Sys2Proof.Machine.execRangeWrite party ch range s
  | .muxDwellEnd bank => Sys2Proof.Machine.execMuxDwellEnd bank s
  | .seqRestart party page => Sys2Proof.Machine.execSeqRestart party page s
  | .resultLanding => Sys2Proof.Machine.execResultLanding s
  | .resultRead party ch => Sys2Proof.Machine.execResultRead party ch s
  | .ptValRead party page => Sys2Proof.Machine.execPtValRead party page s
  | .toneWindowEnd page => Sys2Proof.Machine.execToneWindowEnd page s
  | .rptEdgeCheck out agrees => Sys2Proof.Machine.execRptEdgeCheck out agrees s
  | .coefDataAccess party page write => Sys2Proof.Machine.execCoefDataAccess party page write s
  | .moiPeriodEnd => Sys2Proof.Machine.execMoiPeriodEnd s
  | .moiSweepComplete ch points => Sys2Proof.Machine.execMoiSweepComplete ch points s
  | .moiSweepDeadline => Sys2Proof.Machine.execMoiSweepDeadline s
  | .moiEvaluate => Sys2Proof.Machine.execMoiEvaluate s
  | .moiPllUnlock => Sys2Proof.Machine.execMoiPllUnlock s
  | .moiPllRelock => Sys2Proof.Machine.execMoiPllRelock s
  | .moiClampDetect bank pin => Sys2Proof.Machine.execMoiClampDetect bank pin s
  | .calStart party ch navg => Sys2Proof.Machine.execCalStart party ch navg s
  | .calAbort party => Sys2Proof.Machine.execCalAbort party s
  | .calEnd => Sys2Proof.Machine.execCalEnd s
  | .moiResultRead party ch => Sys2Proof.Machine.execMoiResultRead party ch s
  | .tblDataAccess party write => Sys2Proof.Machine.execTblDataAccess party write s
  | .loopArrayPass corrections => Sys2Proof.Machine.execLoopArrayPass corrections s
  | .loopDeadline => Sys2Proof.Machine.execLoopDeadline s
  | .landing contenders sense => Sys2Proof.Machine.execLanding contenders sense s
  | .lpaWinDataAccess party page write => Sys2Proof.Machine.execLpaWinDataAccess party page write s
  | .loadmaxClr party page => Sys2Proof.Machine.execLoadmaxClr party page s
  | .profileStep corrections => Sys2Proof.Machine.execProfileStep corrections s
  | .profileDeadline => Sys2Proof.Machine.execProfileDeadline s
  | .prfWinDataAccess party write => Sys2Proof.Machine.execPrfWinDataAccess party write s
  | .traceSample phase => Sys2Proof.Machine.execTraceSample phase s
  | .traceArm party unit => Sys2Proof.Machine.execTraceArm party unit s
  | .traceForce party unit => Sys2Proof.Machine.execTraceForce party unit s
  | .traceAbort party unit => Sys2Proof.Machine.execTraceAbort party unit s
  | .ledgerAdvance => Sys2Proof.Machine.execLedgerAdvance s
  | .ledgerSample => Sys2Proof.Machine.execLedgerSample s
  | .ledgerPassComplete => Sys2Proof.Machine.execLedgerPassComplete s
  | .ledgerIntervalEnd col => Sys2Proof.Machine.execLedgerIntervalEnd col s
  | .ledgerInit party col => Sys2Proof.Machine.execLedgerInit party col s
  | .ledgerClearBias party col => Sys2Proof.Machine.execLedgerClearBias party col s
  | .ledgerBatchEnd party col => Sys2Proof.Machine.execLedgerBatchEnd party col s
  | .parcelWindowWrite party location word data => Sys2Proof.Machine.execParcelWindowWrite party location word data s
  | .parcelRead party location => Sys2Proof.Machine.execParcelRead party location s
  | .ldgWinDataAccess party write => Sys2Proof.Machine.execLdgWinDataAccess party write s
  | .deadlineLaneStart => Sys2Proof.Machine.execDeadlineLaneStart s
  | .deadlineCutoff => Sys2Proof.Machine.execDeadlineCutoff s
  | .backgroundResume => Sys2Proof.Machine.execBackgroundResume s
  | .backgroundSuspend => Sys2Proof.Machine.execBackgroundSuspend s
  | .engAdd c d a b => Sys2Proof.Machine.execAdd c d a b s
  | .engSub c d a b => Sys2Proof.Machine.execSub c d a b s
  | .engAnd c d a b => Sys2Proof.Machine.execAnd c d a b s
  | .engOr c d a b => Sys2Proof.Machine.execOr c d a b s
  | .engXor c d a b => Sys2Proof.Machine.execXor c d a b s
  | .engSll c d a b => Sys2Proof.Machine.execSll c d a b s
  | .engSrl c d a b => Sys2Proof.Machine.execSrl c d a b s
  | .engSra c d a b => Sys2Proof.Machine.execSra c d a b s
  | .engClt c d a b => Sys2Proof.Machine.execClt c d a b s
  | .engCltu c d a b => Sys2Proof.Machine.execCltu c d a b s
  | .engMin c d a b => Sys2Proof.Machine.execMin c d a b s
  | .engMax c d a b => Sys2Proof.Machine.execMax c d a b s
  | .engAdds c d a b => Sys2Proof.Machine.execAdds c d a b s
  | .engSubs c d a b => Sys2Proof.Machine.execSubs c d a b s
  | .engCmov c d a b => Sys2Proof.Machine.execCmov c d a b s
  | .engClz c d a => Sys2Proof.Machine.execClz c d a s
  | .engSlli c d a sh => Sys2Proof.Machine.execSlli c d a sh s
  | .engSrli c d a sh => Sys2Proof.Machine.execSrli c d a sh s
  | .engSrai c d a sh => Sys2Proof.Machine.execSrai c d a sh s
  | .engSatq c d a sh => Sys2Proof.Machine.execSatq c d a sh s
  | .engMul c d a b => Sys2Proof.Machine.execMul c d a b s
  | .engMulh c d a b => Sys2Proof.Machine.execMulh c d a b s
  | .engMulhu c d a b => Sys2Proof.Machine.execMulhu c d a b s
  | .engQmul c d a b sh => Sys2Proof.Machine.execQmul c d a b sh s
  | .engDiv c d a b => Sys2Proof.Machine.execDiv c d a b s
  | .engDivu c d a b => Sys2Proof.Machine.execDivu c d a b s
  | .engRem c d a b => Sys2Proof.Machine.execRem c d a b s
  | .engQdiv c d a b sh => Sys2Proof.Machine.execQdiv c d a b sh s
  | .engFadd c d a b => Sys2Proof.Machine.execFadd c d a b s
  | .engFsub c d a b => Sys2Proof.Machine.execFsub c d a b s
  | .engFmul c d a b => Sys2Proof.Machine.execFmul c d a b s
  | .engFmac c d a b => Sys2Proof.Machine.execFmac c d a b s
  | .engFmin c d a b => Sys2Proof.Machine.execFmin c d a b s
  | .engFmax c d a b => Sys2Proof.Machine.execFmax c d a b s
  | .engFabs c d a => Sys2Proof.Machine.execFabs c d a s
  | .engFneg c d a => Sys2Proof.Machine.execFneg c d a s
  | .engFlt c d a b => Sys2Proof.Machine.execFlt c d a b s
  | .engFle c d a b => Sys2Proof.Machine.execFle c d a b s
  | .engFeq c d a b => Sys2Proof.Machine.execFeq c d a b s
  | .engFdiv c d a b => Sys2Proof.Machine.execFdiv c d a b s
  | .engFsqrt c d a => Sys2Proof.Machine.execFsqrt c d a s
  | .engFcvtis c d a => Sys2Proof.Machine.execFcvtis c d a s
  | .engFcvtsi c d a => Sys2Proof.Machine.execFcvtsi c d a s
  | .engFcvtqs c d a => Sys2Proof.Machine.execFcvtqs c d a s
  | .engFcvtsq c d a => Sys2Proof.Machine.execFcvtsq c d a s
  | .engAddi c d a imm => Sys2Proof.Machine.execAddi c d a imm s
  | .engClti c d a imm => Sys2Proof.Machine.execClti c d a imm s
  | .engLhi c d imm => Sys2Proof.Machine.execLhi c d imm s
  | .engJmpr c a => Sys2Proof.Machine.execJmpr c a s
  | .engAndi c d a imm => Sys2Proof.Machine.execAndi c d a imm s
  | .engOri c d a imm => Sys2Proof.Machine.execOri c d a imm s
  | .engXori c d a imm => Sys2Proof.Machine.execXori c d a imm s
  | .engLd c d a imm => Sys2Proof.Machine.execLd c d a imm s
  | .engLdh c d a imm => Sys2Proof.Machine.execLdh c d a imm s
  | .engLdhu c d a imm => Sys2Proof.Machine.execLdhu c d a imm s
  | .engLdb c d a imm => Sys2Proof.Machine.execLdb c d a imm s
  | .engLdbu c d a imm => Sys2Proof.Machine.execLdbu c d a imm s
  | .engSt c d a imm rivals => Sys2Proof.Machine.execSt c d a imm rivals s
  | .engSth c d a imm rivals => Sys2Proof.Machine.execSth c d a imm rivals s
  | .engStb c d a imm rivals => Sys2Proof.Machine.execStb c d a imm rivals s
  | .engBeq c a b off => Sys2Proof.Machine.execBeq c a b off s
  | .engBne c a b off => Sys2Proof.Machine.execBne c a b off s
  | .engBlt c a b off => Sys2Proof.Machine.execBlt c a b off s
  | .engBge c a b off => Sys2Proof.Machine.execBge c a b off s
  | .engBltu c a b off => Sys2Proof.Machine.execBltu c a b off s
  | .engBgeu c a b off => Sys2Proof.Machine.execBgeu c a b off s
  | .engLoop c a off => Sys2Proof.Machine.execLoop c a off s
  | .engJmp c off => Sys2Proof.Machine.execJmp c off s
  | .engCall c off => Sys2Proof.Machine.execCall c off s
  | .engPrd c d a imm took => Sys2Proof.Machine.execPrd c d a imm took s
  | .engPwr c d a imm took rivals => Sys2Proof.Machine.execPwr c d a imm took rivals s
  | .engPst c d a imm => Sys2Proof.Machine.execPst c d a imm s
  | .engSrd c d src => Sys2Proof.Machine.execSrd c d src s
  | .engSrdr c d a => Sys2Proof.Machine.execSrdr c d a s
  | .engPub c d k => Sys2Proof.Machine.execPub c d k s
  | .engNop c => Sys2Proof.Machine.execNop c s
  | .engEnd c => Sys2Proof.Machine.execEnd c s
  | .engSrr c d sp => Sys2Proof.Machine.execSrr c d sp s
  | .engSrw c a sp => Sys2Proof.Machine.execSrw c a sp s
  | .engCnf c => Sys2Proof.Machine.execCnf c s
  | .engPop c d => Sys2Proof.Machine.execPop c d s
  | .engUflt c a => Sys2Proof.Machine.execUflt c a s
  | .postedWriteOutcome eng rivals => Sys2Proof.Machine.execPostedWriteOutcome eng rivals s
  | .engSwapReq party eng dataClr => Sys2Proof.Machine.execEngSwapReq party eng dataClr s
  | .engImageCrcCheck eng => Sys2Proof.Machine.execEngImageCrcCheck eng s
  | .probationTimeout eng => Sys2Proof.Machine.execProbationTimeout eng s
  | .probAbort party eng => Sys2Proof.Machine.execProbAbort party eng s
  | .cycClr party eng => Sys2Proof.Machine.execCycClr party eng s
  | .engineWindowWrite party eng off data => Sys2Proof.Machine.execEngineWindowWrite party eng off data s
  | .vlvNop party leg => Sys2Proof.Machine.execVlvNop party leg s
  | .vlvPulse party leg onT => Sys2Proof.Machine.execVlvPulse party leg onT s
  | .vlvOn party leg => Sys2Proof.Machine.execVlvOn party leg s
  | .vlvOff party leg => Sys2Proof.Machine.execVlvOff party leg s
  | .commandStart amps => Sys2Proof.Machine.execCommandStart amps s
  | .reach leg => Sys2Proof.Machine.execReach leg s
  | .armatureDip leg t imax imin amp => Sys2Proof.Machine.execArmatureDip leg t imax imin amp s
  | .pullEnd leg => Sys2Proof.Machine.execPullEnd leg s
  | .holdLevelReached leg => Sys2Proof.Machine.execHoldLevelReached leg s
  | .profileEnd leg => Sys2Proof.Machine.execProfileEnd leg s
  | .decayEnd leg => Sys2Proof.Machine.execDecayEnd leg s
  | .waitingPullStart leg amp partnerAmp => Sys2Proof.Machine.execWaitingPullStart leg amp partnerAmp s
  | .delayExpire leg => Sys2Proof.Machine.execDelayExpire leg s
  | .legOvercurrent leg => Sys2Proof.Machine.execLegOvercurrent leg s
  | .hsOvercurrent pair => Sys2Proof.Machine.execHsOvercurrent pair s
  | .legTripClr party leg => Sys2Proof.Machine.execLegTripClr party leg s
  | .hsClr party pair => Sys2Proof.Machine.execHsClr party pair s
  | .legCntClr party leg => Sys2Proof.Machine.execLegCntClr party leg s
  | .bridgeLoss => Sys2Proof.Machine.execBridgeLoss s
  | .bridgeLossEnd => Sys2Proof.Machine.execBridgeLossEnd s
  | .tachEdge fan period => Sys2Proof.Machine.execTachEdge fan period s
  | .kickTimeout fan => Sys2Proof.Machine.execKickTimeout fan s
  | .backoffEnd fan => Sys2Proof.Machine.execBackoffEnd fan s
  | .tachDoubt fan amp => Sys2Proof.Machine.execTachDoubt fan amp s
  | .fanTrip fan thermal => Sys2Proof.Machine.execFanTrip fan thermal s
  | .stallClr party fan => Sys2Proof.Machine.execStallClr party fan s
  | .fanTripClr party fan => Sys2Proof.Machine.execFanTripClr party fan s
  | .fanWinDataAccess party write => Sys2Proof.Machine.execFanWinDataAccess party write s
  | .diChange input level => Sys2Proof.Machine.execDiChange input level s
  | .debounceEnd input => Sys2Proof.Machine.execDebounceEnd input s
  | .counterEdge counter rising held => Sys2Proof.Machine.execCounterEdge counter rising held s
  | .diRateGate counter => Sys2Proof.Machine.execDiRateGate counter s
  | .doPeriodStart ch => Sys2Proof.Machine.execDoPeriodStart ch s
  | .doOntimeEnd ch => Sys2Proof.Machine.execDoOntimeEnd ch s
  | .doLimitTrip ch ms => Sys2Proof.Machine.execDoLimitTrip ch ms s
  | .doThermalTrip ch => Sys2Proof.Machine.execDoThermalTrip ch s
  | .doReadbackEpisode ch high => Sys2Proof.Machine.execDoReadbackEpisode ch high s
  | .douTripClr party ch => Sys2Proof.Machine.execDouTripClr party ch s
  | .aoReadbackMeasure meas => Sys2Proof.Machine.execAoReadbackMeasure meas s
  | .faultMessage msgs => Sys2Proof.Machine.execFaultMessage msgs s
  | .flashingFault present => Sys2Proof.Machine.execFlashingFault present s
  | .safeInAssert => Sys2Proof.Machine.execSafeInAssert s
  | .safeInDeassert => Sys2Proof.Machine.execSafeInDeassert s
  | .quietWindowEnd scope => Sys2Proof.Machine.execQuietWindowEnd scope s
  | .fltClrFirst party scope => Sys2Proof.Machine.execFltClrFirst party scope s
  | .fltClrSecond party scope => Sys2Proof.Machine.execFltClrSecond party scope s
  | .ffClr party => Sys2Proof.Machine.execFfClr party s
  | .histRead party => Sys2Proof.Machine.execHistRead party s
  | .sevDataWrite party data => Sys2Proof.Machine.execSevDataWrite party data s
  | .injectionConclude page seen => Sys2Proof.Machine.execInjectionConclude page seen s
  | .injectionTimeout page => Sys2Proof.Machine.execInjectionTimeout page s
  | .scrubWordRead page checker word found => Sys2Proof.Machine.execScrubWordRead page checker word found s
  | .scrubCycleEnd => Sys2Proof.Machine.execScrubCycleEnd s
  | .lockstepMismatch => Sys2Proof.Machine.execLockstepMismatch s
  | .recordWrite stop => Sys2Proof.Machine.execRecordWrite stop s
  | .anchorHourly => Sys2Proof.Machine.execAnchorHourly s
  | .recordRead party => Sys2Proof.Machine.execRecordRead party s
  | .recClrFirst party commissioning => Sys2Proof.Machine.execRecClrFirst party commissioning s
  | .recClrSecond party commissioning => Sys2Proof.Machine.execRecClrSecond party commissioning s
  | .recClearDone => Sys2Proof.Machine.execRecClearDone s
  | .recDropClr party => Sys2Proof.Machine.execRecDropClr party s
  | .clockCapture party => Sys2Proof.Machine.execClockCapture party s
  | .clockSet party lo => Sys2Proof.Machine.execClockSet party lo s
  | .oscFail => Sys2Proof.Machine.execOscFail s
  | .watchPowerUp => Sys2Proof.Machine.execWatchPowerUp s
  | .watchSupplyChange vdda link vbat => Sys2Proof.Machine.execWatchSupplyChange vdda link vbat s
  | .watchScanStart => Sys2Proof.Machine.execWatchScanStart s
  | .watchScanEnd readings => Sys2Proof.Machine.execWatchScanEnd readings s
  | .watchScanAbandon brownout => Sys2Proof.Machine.execWatchScanAbandon brownout s
  | .hostWriteFrame req rivals => Sys2Proof.Machine.execHostWriteFrame req s rivals
  | .hostReadFrame req => Sys2Proof.Machine.execHostReadFrame req s
  | .hostReplyReady risen => Sys2Proof.Machine.execHostReplyReady s risen
  | .keepAlive => Sys2Proof.Machine.execKeepAlive s
  | .hostSilenceBegin => Sys2Proof.Machine.execHostSilenceBegin s
  | .canFrameReceive ctl frame => Sys2Proof.Machine.execCanFrameReceive ctl frame s
  | .canTxreq party ctl obj => Sys2Proof.Machine.execCanTxreq party ctl obj s
  | .canTxabort party ctl obj => Sys2Proof.Machine.execCanTxabort party ctl obj s
  | .canTxDone ctl obj => Sys2Proof.Machine.execCanTxDone ctl obj s
  | .canRecover party ctl => Sys2Proof.Machine.execCanRecover party ctl s
  | .canBusOffRecovered ctl => Sys2Proof.Machine.execCanBusOffRecovered ctl s
  | .moDataAccess party ctl write => Sys2Proof.Machine.execMoDataAccess party ctl write s
  | .linkPortChange port up aneg lpwr sqi => Sys2Proof.Machine.execLinkPortChange port up aneg lpwr sqi s
  | .syncSend cycle => Sys2Proof.Machine.execSyncSend cycle s
  | .pdreqSend port egress => Sys2Proof.Machine.execPdreqSend port egress s
  | .pdreqReceive port frame ingress egress => Sys2Proof.Machine.execPdreqReceive port frame ingress egress s
  | .pdrespReceive port frame ingress => Sys2Proof.Machine.execPdrespReceive port frame ingress s
  | .cargoSend => Sys2Proof.Machine.execCargoSend s
  | .cargoReceive port frame => Sys2Proof.Machine.execCargoReceive port frame s
  | .cargoDue => Sys2Proof.Machine.execCargoDue s
  | .partnerLost partner => Sys2Proof.Machine.execPartnerLost partner s
  | .cargoRead party => Sys2Proof.Machine.execCargoRead party s
  | .ridgeRead party => Sys2Proof.Machine.execRidgeRead party s
  | .lnkWinDataAccess party write => Sys2Proof.Machine.execLnkWinDataAccess party write s
  | .digestSend => Sys2Proof.Machine.execDigestSend s
  | .digestReceive port frame => Sys2Proof.Machine.execDigestReceive port frame s
  | .dqueryStart party target level index => Sys2Proof.Machine.execDqueryStart party target level index s
  | .dqueryReceive port frame => Sys2Proof.Machine.execDqueryReceive port frame s
  | .dreplySend => Sys2Proof.Machine.execDreplySend s
  | .dreplyReceive port frame => Sys2Proof.Machine.execDreplyReceive port frame s
  | .dqueryTimeout => Sys2Proof.Machine.execDqueryTimeout s
  | .commitStart party cid => Sys2Proof.Machine.execCommitStart party cid s
  | .commitAbort party => Sys2Proof.Machine.execCommitAbort party s
  | .prepareSend => Sys2Proof.Machine.execPrepareSend s
  | .prepareReceive port frame => Sys2Proof.Machine.execPrepareReceive port frame s
  | .voteReceive port frame => Sys2Proof.Machine.execVoteReceive port frame s
  | .voteTimeout => Sys2Proof.Machine.execVoteTimeout s
  | .decideSend => Sys2Proof.Machine.execDecideSend s
  | .decideReceive port frame => Sys2Proof.Machine.execDecideReceive port frame s
  | .targetDiscard => Sys2Proof.Machine.execTargetDiscard s
  | .commitApply rivals => Sys2Proof.Machine.execCommitApply rivals s
  | .doneSend => Sys2Proof.Machine.execDoneSend s
  | .doneReceive port frame => Sys2Proof.Machine.execDoneReceive port frame s
  | .commitTimeout => Sys2Proof.Machine.execCommitTimeout s
  | .faultFrameSend => Sys2Proof.Machine.execFaultFrameSend s
  | .faultFrameReceive port frame => Sys2Proof.Machine.execFaultFrameReceive port frame s
  | .verify party => Sys2Proof.Machine.execVerify party s
  | .arm party => Sys2Proof.Machine.execArm party s
  | .disarm party => Sys2Proof.Machine.execDisarm party s
  | .saveProfile party => Sys2Proof.Machine.execSaveProfile party s
  | .storeEng party eng => Sys2Proof.Machine.execStoreEng party eng s
  | .supRestart party => Sys2Proof.Machine.execSupRestart party s
  | .probReject party => Sys2Proof.Machine.execProbReject party s
  | .progKey party => Sys2Proof.Machine.execProgKey party s
  | .setKeypol party => Sys2Proof.Machine.execSetKeypol party s
  | .eraseProfile party => Sys2Proof.Machine.execEraseProfile party s
  | .nvsCommandDone failed => Sys2Proof.Machine.execNvsCommandDone failed s
  | .nvsDataAccess party write failed => Sys2Proof.Machine.execNvsDataAccess party write failed s
  | .confirm party stop => Sys2Proof.Machine.execConfirm party s stop
  | .supervisorStart stop => Sys2Proof.Machine.execSupervisorStart s stop
  | .supProbationTimeout => Sys2Proof.Machine.execSupProbationTimeout s
  | .shadowDigestStart party page => Sys2Proof.Machine.execShadowDigestStart party page s
  | .shadowDigestDone => Sys2Proof.Machine.execShadowDigestDone s
  | .digestRead party reg => Sys2Proof.Machine.execDigestRead party reg s
  | .supplyMonitorReset rail => Sys2Proof.Machine.execSupplyMonitorReset rail s
  | .resetAssert pin => Sys2Proof.Machine.execResetAssert pin s
  | .deviceStart boot vddioMv stop => Sys2Proof.Machine.execDeviceStart boot vddioMv s stop
  | .vfieldWindow high active => Sys2Proof.Machine.execVfieldWindow high active s
  | .thermalReset => Sys2Proof.Machine.execThermalReset s
  | .modeReqRun party => Sys2Proof.Machine.execModeReqRun party s
  | .modeReqHalt party => Sys2Proof.Machine.execModeReqHalt party s
  | .modeReqStandby party => Sys2Proof.Machine.execModeReqStandby party s
  | .modeReqDeep party => Sys2Proof.Machine.execModeReqDeep party s
  | .deepEntry => Sys2Proof.Machine.execDeepEntry s
  | .wakeAlarm => Sys2Proof.Machine.execWakeAlarm s
  | .swrstFirst party => Sys2Proof.Machine.execSwrstFirst party s
  | .swrstSecond party => Sys2Proof.Machine.execSwrstSecond party s
  | .debugRelease stop => Sys2Proof.Machine.execDebugRelease s stop
  | .uidRead party => Sys2Proof.Machine.execUidRead party s
  | .bridgeClr party => Sys2Proof.Machine.execBridgeClr party s
  | .tempClr party => Sys2Proof.Machine.execTempClr party s
  | .jtagBypass => Sys2Proof.Machine.execJtagBypass s
  | .jtagIdcode => Sys2Proof.Machine.execJtagIdcode s
  | .jtagSamplePreload => Sys2Proof.Machine.execJtagSamplePreload s
  | .jtagExtest => Sys2Proof.Machine.execJtagExtest s
  | .jtagDebugAccess addr write => Sys2Proof.Machine.execJtagDebugAccess addr write s
  | .chopPeriodStart leg amp => Sys2Proof.Machine.execChopPeriodStart leg amp s
  | .chopTargetReached leg => Sys2Proof.Machine.execChopTargetReached leg s
  | .mixedFastEnd leg => Sys2Proof.Machine.execMixedFastEnd leg s
  | .doReadbackEnd ch => Sys2Proof.Machine.execDoReadbackEnd ch s
  | .canErrorDetected ctl count lec sending => Sys2Proof.Machine.execCanErrorDetected ctl count lec sending s
  | .linkFrameDiscard port fcsOk etype frame => Sys2Proof.Machine.execLinkFrameDiscard port fcsOk etype frame s
  | .calendarSecond => Sys2Proof.Machine.execCalendarSecond s
  | .supervisorStartDone => Sys2Proof.Machine.execSupervisorStartDone s
  | .startUpRun => Sys2Proof.Machine.execStartUpRun s
  | .powerModeChangeDone => Sys2Proof.Machine.execPowerModeChangeDone s

end Sys2Proof.Machine
end

