-- ==== Sys2Proof/Safety.lean ====
section
/-!
DEFINITION. The terms in which claims about the device are stated: the awake device, what settles after a command, agreement of two
states on their parts, and the outputs following their governing rows.
-/
namespace Sys2Proof.Machine

/-! ### Parts of the state -/

/-- Whether two states agree on a part. The reports of the last command's bus accesses and the frames that it sent are left out of
the comparison: every command begins with none (R26). -/
def agree (p : Part) (s t : State) : Prop :=
  match p with
  | .regs => t.regs = s.regs
  | .force => t.force = s.force
  | .win => t.win = s.win
  | .act => t.act = s.act
  | .mem => t.mem = s.mem
  | .time => t.time = s.time
  | .bus => t.bus.holds = s.bus.holds ∧ t.bus.pregs = s.bus.pregs ∧ t.bus.unlock = s.bus.unlock
  | .flt => t.flt = s.flt
  | .recd => t.recd = s.recd
  | .clk => t.clk = s.clk
  | .wch => t.wch = s.wch
  | .sns => t.sns = s.sns
  | .rpt => t.rpt = s.rpt
  | .moi => t.moi = s.moi
  | .pubs => t.pubs = s.pubs
  | .lpa => t.lpa = s.lpa
  | .landOut => t.landOut = s.landOut
  | .prf => t.prf = s.prf
  | .trc => t.trc = s.trc
  | .ldg => t.ldg = s.ldg
  | .eng => t.eng = s.eng
  | .drv => t.drv = s.drv
  | .hst => t.hst = s.hst
  | .can => t.can = s.can
  | .lnk => { t.lnk with out := [] } = { s.lnk with out := [] }
  | .nvs => t.nvs = s.nvs
  | .dig => t.dig = s.dig
  | .pwr => t.pwr = s.pwr
  | .tap => t.tap = s.tap
  | .bridges => t.bridges = s.bridges
  | .fresh => t.fresh = s.fresh

/-- The device is awake: it is not held in reset, it is not in DEEP, and no software reset waits to begin (R477, R489). -/
def Awake (s : State) : Prop := dormant s = false ∧ bitAt s.pwr.causes 4 = false

/-- What follows a command in its own cycle: fault messages reach the collector, records the recorder's queue, and forced states the
outputs (R312, R320, R348, R386). It reaches these parts and no other. -/
def settled : List Part := [.regs, .flt, .recd, .drv]

/-- Whether register `a` is none of those that settling may write: RUN and WRITE_GEN of a page, IRQ_STAT, FLT_STAT, the counts of the
recorder, FB_OVF of the link and the leg registers of the valve pages. -/
def quiet (a : Nat) : Bool :=
  decide ((a % 0x400 ≠ 0x08 ∧ a % 0x400 ≠ 0x10 ∧ a % 0x400 ≠ 0x18 ∧ a % 0x400 ≠ 0x2C)
    ∧ (a / 0x400 = 0x03 → a % 0x400 ≠ 0x0C ∧ a % 0x400 < 0x100) ∧ a ≠ 0x2D38
    ∧ (a / 0x400 = 0x30 ∨ a / 0x400 = 0x31 → a % 0x400 < 0x100))

/-- Every register outside the listed pages stands as before, those aside that messages on their way may touch. -/
def Outside (pages : List Nat) (s u : State) : Prop := ∀ a, quiet a = true → a / 0x400 ∉ pages → rdReg u a = rdReg s a

/-- Command `i` makes of `s` the state `u`, and then what it leads to in the same cycle happens: the collector takes the messages, the
outputs and the recorder's queue follow (R312, R320, R348, R386). -/
def Settles (i : Instr) (s u : State) : Prop := exec i s = .next (keepQueue s (settle u))

/-- Command `i` answers a next state, and what it does before the collector and the outputs follow satisfies `P`. -/
def Does (i : Instr) (s : State) (P : State → Prop) : Prop := ∃ u, Settles i s u ∧ P u

/-- The same for a command that acts in every state: what follows it in its cycle happens in a device that is not dormant then (R395, R477,
R489, R500). -/
def Acts (i : Instr) (s : State) (P : State → Prop) : Prop :=
  ∃ u, exec i s = .next (keepQueue s (if dormant u then u else softwareReset (settle u))) ∧ P u

/-- A fault message of checker instance `inst` of a page is on its way to the collector (R348). -/
def Sent (page inst kind addr : Nat) (s u : State) : Prop :=
  ∃ m ∈ u.flt.outbox, m.src = page * 256 + inst ∧ m.kind = kind ∧ m.addr = addr % 65536 ∧ m.tick = s.time.tick

/-- The command's one access was done (R26). -/
def Acked (party : Party) (a : Nat) (u : State) : Prop := u.bus.reports = [⟨party, a, .done⟩]

/-- Every register but those listed stands as before. -/
def RegsBut (l : List Nat) (s u : State) : Prop := ∀ a, a ∉ l → rdReg u a = rdReg s a

/-- Bit `n` of IRQ_STAT of a page (R28). -/
def irq (page n : Nat) (s : State) : Bool := (rdReg s (pageAddr page 0x10)).getLsbD n

/-- A party may read address `a` as it stands: the page has power and the party holds no word of it (R34, R121, R485). -/
def Readable (party : Party) (a : Nat) (s : State) : Prop :=
  heldWord party (holdKey a s) s = none ∧ (a < 0x10000 → pageOff (a / 0x400) s = false)

/-- The command's one read returned `w`, no register changed, and the party now holds the words listed (R34, R121). -/
def Captures (i : Instr) (party : Party) (a : Nat) (w : Word) (held : List (Nat × Word)) (s : State) : Prop :=
  Does i s fun u => Acked party a u ∧ u.bus.readData = [w] ∧ RegsBut [] s u ∧ ∀ h ∈ held, heldWord party h.1 u = some h.2

/-- No command bit of a register is stored: such bits read 0 (R502). -/
def CommandBitsZero (page off : Nat) (s : State) : Prop :=
  ∀ d, regAt page off = some d → ∀ f ∈ d.fields, f.acc = .wo → bitsOf (rdReg s (pageAddr page off)) f.hi f.lo = 0

/-- Command `i` answers a next state after writes of registers: a reset that they ask for begins at its end (R500). -/
def DoesWrite (i : Instr) (s : State) (P : State → Prop) : Prop :=
  ∃ u, exec i s = .next (keepQueue s (softwareReset (settle u))) ∧ P u

/-! ### Link frames -/

/-- An own frame of a TYPE for `dest` with a body leaves every port listed that is up (R424). -/
def Emits (ports : List Nat) (typ dest : Nat) (body : List Byte) (s u : State) : Prop :=
  ∀ p ∈ ports, portUp p s = true → ∃ f, (p, etherFrame f) ∈ u.lnk.out ∧ f.ver = 1 ∧ f.typ = BitVec.ofNat 8 typ ∧ f.origin = BitVec.ofNat 8 (linkAddr s)
    ∧ f.hops = 0 ∧ f.corr = 0 ∧ f.blen = BitVec.ofNat 16 body.length ∧ f.tick = BitVec.ofNat 48 s.time.tick
    ∧ f.state = BitVec.ofNat 8 (alignSt s) ∧ f.dest = BitVec.ofNat 8 dest ∧ f.body = body ∧ f.lcrc = ofN (frameCrc f)

/-- A frame of a TYPE arrives at a port that is up and is accepted (R424 to R426, R439). -/
def Heard (port typ : Nat) (f : LinkFrame) (s : State) : Prop :=
  portUp port s = true ∧ f.typ.toNat = typ ∧ judgeFrame f s = .accepted

/-! ### Rights of a party -/

/-- Whether a party may write fields of a page that its OWN governs: the page has power, the party is not barred, it owns the page
(R31), and the page is not locked against it or the fields stay writable under LOCK (R33). -/
def MayWrite (party : Party) (p : Nat) (oper : Bool) (s : State) : Prop :=
  pageOff p s = false ∧ partyBarred party (some p) s = false ∧ pageOwns p party s = true
    ∧ (oper = true ∨ locked p s = false ∨ party = .sup)

/-- The same for fields of a unit that the unit's owner governs (R31). -/
def MayWriteUnit (party : Party) (p u : Nat) (oper : Bool) (s : State) : Prop :=
  pageOff p s = false ∧ partyBarred party (some p) s = false ∧ unitOwns p u party s = true
    ∧ (oper = true ∨ locked p s = false ∨ party = .sup)

/-! ### Engine instructions -/

/-- The context named by `c` is about to execute an instruction of form `m`: it runs in its lane's phases, the word at its pc is that
instruction, no uncorrectable memory error meets it, and the instruction fits into the lane (R254 to R256, R259, R260). -/
structure Executes (c : EngAt) (m : EngForm) (s : State) : Prop where
  active : (engCtx s c.eng.val c.lane).act = true
  inLane : laneOpen c.lane s = true
  sound : c.ecc ≠ .program ∧ eccTrap c m = none
  here : matchesRow (fetched c.eng.val (engCtx s c.eng.val c.lane).pc s) m.row = true
  fits : startCycle (engCtx s c.eng.val c.lane) m + m.fit + eccCycles c.ecc ≤ laneLen s c.lane

/-- What every instruction that ends normally does besides its result: the context's pc and the cycles that it has used; the other
context, the other engines and their registers stay, and so does everything that is no part of the engines, of the time within
the tick, of what settles, or of the parts `ps` that the instruction writes by itself (R254, R256, R259). -/
structure Stepped (c : EngAt) (m : EngForm) (pc : Nat) (ps : List Part) (s t : State) : Prop where
  pc : (engCtx t c.eng.val c.lane).pc = pc
  used : (engCtx t c.eng.val c.lane).used = startCycle (engCtx s c.eng.val c.lane) m + m.cost + eccCycles c.ecc
  lane : ∀ l, l ≠ c.lane → engCtx t c.eng.val l = engCtx s c.eng.val l
  engines : ∀ k, k ≠ c.eng.val → engSt t k = engSt s k
  regs : ∀ a, quiet a = true → a / 0x400 ≠ 0x20 + c.eng.val → rdReg t a = rdReg s a
  rest : ∀ p, p ∉ [Part.regs, .time, .flt, .recd, .eng, .drv] ++ ps → agree p s t
  ticks : t.time.tick = s.time.tick ∧ t.time.ticks = s.time.ticks

/-- The general registers of the context after a write of `v` to register `d`; g0 keeps reading 0 (R254). -/
def Writes (c : EngAt) (d : Fin 32) (v : Word) (s t : State) : Prop :=
  ∀ r : Nat, getG t c.eng.val c.lane r = if r = d.val ∧ d.val ≠ 0 then v else getG s c.eng.val c.lane r

/-- The special registers of the context that the instruction does not name: PCOND, SAGE and SSTAT (R258). -/
def KeepsConditions (c : EngAt) (s t : State) : Prop :=
  (engCtx t c.eng.val c.lane).pcond = (engCtx s c.eng.val c.lane).pcond
    ∧ (engCtx t c.eng.val c.lane).sage = (engCtx s c.eng.val c.lane).sage
    ∧ (engCtx t c.eng.val c.lane).sstat = (engCtx s c.eng.val c.lane).sstat

/-- FSTAT of the context after an instruction that raises the flags `fl` (R258, R262). -/
def Raises (c : EngAt) (fl : Nat) (s t : State) : Prop :=
  (engCtx t c.eng.val c.lane).fstat = (engCtx s c.eng.val c.lane).fstat ||| fl

/-- An integer result: d is written, and the conditions and float flags stay (R254, R258, R260). -/
structure IntResult (c : EngAt) (m : EngForm) (d : Fin 32) (v : Word) (s t : State) : Prop where
  step : Stepped c m (pcMod ((engCtx s c.eng.val c.lane).pc + 1)) [] s t
  result : Writes c d v s t
  flags : Raises c 0 s t
  conds : KeepsConditions c s t

/-- A float result: d is written and its flags are raised (R258, R262). -/
structure FloatResult (c : EngAt) (m : EngForm) (d : Fin 32) (r : Word × Nat) (s t : State) : Prop where
  step : Stepped c m (pcMod ((engCtx s c.eng.val c.lane).pc + 1)) [] s t
  result : Writes c d r.1 s t
  flags : Raises c r.2 s t
  conds : KeepsConditions c s t

/-- A jump, a branch or a store: of the context only the pc moves (R259); `ps` are the parts that the instruction writes. -/
structure FlowResult (c : EngAt) (m : EngForm) (pc : Nat) (ps : List Part) (s t : State) : Prop where
  step : Stepped c m pc ps s t
  result : ∀ r, getG t c.eng.val c.lane r = getG s c.eng.val c.lane r
  flags : Raises c 0 s t
  conds : KeepsConditions c s t

/-- What a jump leaves that writes `v` to `d` (R259, R260). -/
structure JumpResult (c : EngAt) (m : EngForm) (pc : Nat) (d : Fin 32) (v : Word) (s t : State) : Prop where
  step : Stepped c m pc [] s t
  result : Writes c d v s t
  flags : Raises c 0 s t
  conds : KeepsConditions c s t

/-- What a source instruction leaves: d, PCOND, SAGE and SSTAT (R267, R270); the float flags stay. -/
structure SourceResult (c : EngAt) (m : EngForm) (d : Fin 32) (v : Word) (pcond age stat : Nat) (s t : State) : Prop where
  step : Stepped c m (pcMod ((engCtx s c.eng.val c.lane).pc + 1)) [.sns, .moi] s t
  result : Writes c d v s t
  flags : Raises c 0 s t
  conds : (engCtx t c.eng.val c.lane).pcond = pcond ∧ (engCtx t c.eng.val c.lane).sage = age
    ∧ (engCtx t c.eng.val c.lane).sstat = stat

/-- What a port instruction leaves: PCOND, and of the other conditions and flags nothing (R267). -/
structure PortResult (c : EngAt) (m : EngForm) (ps : List Part) (pcond : Nat) (s t : State) : Prop where
  step : Stepped c m (pcMod ((engCtx s c.eng.val c.lane).pc + 1)) ps s t
  flags : Raises c 0 s t
  cond : (engCtx t c.eng.val c.lane).pcond = pcond
  kept : (engCtx t c.eng.val c.lane).sage = (engCtx s c.eng.val c.lane).sage
    ∧ (engCtx t c.eng.val c.lane).sstat = (engCtx s c.eng.val c.lane).sstat

/-- The parts that a register write may reach besides the registers themselves, the engines, the outputs, the collector and the
recorder. -/
def written : List Part :=
  [.win, .act, .mem, .bus, .clk, .sns, .moi, .lpa, .prf, .trc, .ldg, .hst, .can, .lnk, .nvs, .dig, .pwr]

/-- What a port access that leaves the state `u` makes of the context that asked for it (R266, R267); `ps` are the parts that the access
reaches. -/
structure Ported (c : EngAt) (m : EngForm) (ps : List Part) (pcond : Nat) (s u t : State) : Prop where
  pc : (engCtx t c.eng.val c.lane).pc = pcMod ((engCtx s c.eng.val c.lane).pc + 1)
  used : (engCtx t c.eng.val c.lane).used = startCycle (engCtx s c.eng.val c.lane) m + m.cost + eccCycles c.ecc
  cond : (engCtx t c.eng.val c.lane).pcond = pcond
  kept : (engCtx t c.eng.val c.lane).fstat = (engCtx u c.eng.val c.lane).fstat
    ∧ (engCtx t c.eng.val c.lane).sage = (engCtx u c.eng.val c.lane).sage
    ∧ (engCtx t c.eng.val c.lane).sstat = (engCtx u c.eng.val c.lane).sstat
  regs : ∀ a, quiet a = true → a / 0x400 ≠ 0x20 + c.eng.val → rdReg t a = rdReg u a
  rest : ∀ p, p ∉ [Part.regs, .time, .flt, .recd, .eng, .drv] → agree p (if p ∈ ps then u else s) t

/-- What a trap leaves (R274): the context rests, TRAP holds the cause, the lane and the word index, and the context's registers, flags
and conditions, the memory and everything outside the engines stay. -/
structure Trapped (c : EngAt) (cause : Nat) (s t : State) : Prop where
  rests : (engCtx t c.eng.val c.lane).act = false ∧ (engCtx t c.eng.val c.lane).pass = false
  trap : getF ENG.TRAP_CAUSE (engPg c.eng.val) 0 t = cause
    ∧ getF ENG.TRAP_PC (engPg c.eng.val) 0 t = (engCtx s c.eng.val c.lane).pc % 16384
    ∧ getF ENG.TRAP_LANE (engPg c.eng.val) 0 t = match c.lane with | .deadline => 1 | .background => 0
  result : ∀ r, getG t c.eng.val c.lane r = getG s c.eng.val c.lane r
  flags : Raises c 0 s t
  conds : KeepsConditions c s t
  rest : ∀ p, p ∉ [Part.regs, .time, .flt, .recd, .eng, .drv] → agree p s t

/-- Instruction `i` with form `m` writes `v` to `d` wherever its context executes it. -/
def IntDoes (c : EngAt) (d : Fin 32) (s : State) (i : Instr) (m : EngForm) (v : Word) : Prop :=
  Executes c m s → ∃ t, exec i s = .next t ∧ IntResult c m d v s t

/-- Instruction `i` with form `m` writes `r.1` to `d` and raises the flags `r.2` wherever its context executes it. -/
def FloatDoes (c : EngAt) (d : Fin 32) (s : State) (i : Instr) (m : EngForm) (r : Word × Nat) : Prop :=
  Executes c m s → ∃ t, exec i s = .next t ∧ FloatResult c m d r s t

/-- Instruction `i` with form `m` goes on at `pc` wherever its context executes it. -/
def FlowDoes (c : EngAt) (s : State) (i : Instr) (m : EngForm) (pc : Nat) : Prop :=
  Executes c m s → ∃ t, exec i s = .next t ∧ FlowResult c m pc [] s t

/-! ### Fault messages -/

/-- The history holds a message of checker instance `inst` of a page, with kind, address and the present tick (R348, R361). -/
def Told (page inst kind addr : Nat) (s t : State) : Prop :=
  ∃ h ∈ t.flt.hist, h.src = page * 256 + inst ∧ h.kind = kind ∧ h.addr = addr % 65536 ∧ h.tick = s.time.tick

/-! ### Outputs -/

/-- Every output stands at what its governing row and its channel's state demand (R320). -/
def Governed (s : State) : Prop :=
  (∀ n < 12, (fanSt s n).out = fanDemanded n s) ∧ (∀ j < 24, (doSt s j).out = doDemanded j s)
    ∧ ∀ k < 8, (aoSt s k).out = aoDemanded k s

/-! ### What a command can reach -/

/-- Every part of the state. -/
def allParts : List Part :=
  [.regs, .force, .win, .act, .mem, .time, .bus, .flt, .recd, .clk, .wch, .sns, .rpt, .moi, .pubs, .lpa, .landOut, .prf, .trc, .ldg, .eng,
   .drv, .hst, .can, .lnk, .nvs, .dig, .pwr, .tap, .bridges, .fresh]

/-- The parts that a command may reach besides those of `settled`. Commands that can start a reset or lead out of one reach all. -/
def footprint : Instr → List Part
  | .tickBoundary .. => [.force, .win, .act, .mem, .time, .sns, .rpt, .moi, .pubs, .lpa, .prf, .trc, .ldg, .eng, .hst, .lnk, .nvs, .dig, .pwr, .fresh]
  | .pllLockLoss .. | .reach .. | .armatureDip .. | .holdLevelReached .. | .decayEnd .. | .waitingPullStart .. | .legOvercurrent .. |
    .hsOvercurrent .. | .bridgeLossEnd .. | .tachEdge .. | .tachDoubt .. | .fanTrip .. | .diChange .. | .counterEdge .. |
    .doLimitTrip .. | .doThermalTrip .. | .doReadbackEpisode .. | .faultMessage .. | .safeInAssert .. | .safeInDeassert .. |
    .quietWindowEnd .. | .injectionConclude .. | .scrubWordRead .. | .scrubCycleEnd .. | .anchorHourly .. | .recClearDone .. |
    .watchSupplyChange .. | .linkPortChange .. | .voteTimeout .. | .commitTimeout .. | .vfieldWindow .. | .chopPeriodStart .. |
    .chopTargetReached .. | .doReadbackEnd .. => []
  | .tideBoundary .. => [.win, .act, .time]
  | .longTideBoundary .. => [.time, .sns, .moi, .ldg, .lnk]
  | .bridgeFrame .. => [.sns, .moi, .lpa, .bridges]
  | .runControl .. | .swapReq .. | .softRst .. | .seqRestart .. | .engSwapReq .. | .probAbort .. | .canRecover .. => [.bus, .sns, .moi, .lpa, .prf, .trc, .ldg, .eng, .can, .dig]
  | .faultCountClr .. | .finjArm .. | .ownWrite .. | .lockSet .. | .lockPerm .. | .unlockFirst .. | .unlockSecond .. | .battenRead .. |
    .tickCntCapture .. | .resultRead .. | .ptValRead .. | .moiResultRead .. | .parcelRead .. | .vlvNop .. | .vlvPulse .. | .vlvOn .. |
    .vlvOff .. | .legTripClr .. | .hsClr .. | .legCntClr .. | .douTripClr .. | .fltClrFirst .. | .fltClrSecond .. | .ffClr .. |
    .histRead .. | .sevDataWrite .. | .recordRead .. | .recClrFirst .. | .recClrSecond .. | .recDropClr .. | .clockCapture .. |
    .cargoRead .. | .ridgeRead .. | .digestRead .. | .uidRead .. => [.bus]
  | .tickMonClr .. => [.time, .bus]
  | .syncReceive .. => [.time, .lnk, .fresh]
  | .syncTimeout .. | .masterClaim .. | .muxDwellEnd .. | .commandStart .. | .pullEnd .. | .profileEnd .. | .delayExpire .. |
    .kickTimeout .. | .backoffEnd .. | .debounceEnd .. | .doPeriodStart .. | .doOntimeEnd .. | .aoReadbackMeasure .. |
    .hostSilenceBegin .. | .mixedFastEnd .. => [.time]
  | .holdoverExpire .. | .syncSend .. => [.time, .lnk]
  | .tickAdopt .. => [.act, .time, .sns, .moi, .pubs, .ldg, .lnk]
  | .senseFrame .. => [.time, .sns, .fresh]
  | .senseConversionEnd .. => [.time, .sns]
  | .clampDetect .. | .toneWindowEnd .. => [.sns]
  | .rangeWrite .. | .coefDataAccess .. => [.win, .bus, .sns, .dig]
  | .resultLanding .. => [.time, .sns, .rpt]
  | .rptEdgeCheck .. => [.rpt]
  | .moiPeriodEnd .. | .moiSweepDeadline .. => [.time, .moi]
  | .moiSweepComplete .. | .moiPllUnlock .. | .moiPllRelock .. | .moiClampDetect .. => [.moi]
  | .moiEvaluate .. => [.time, .sns, .moi]
  | .calStart .. | .calAbort .. | .tblDataAccess .. => [.win, .bus, .moi, .dig]
  | .calEnd .. => [.win, .moi]
  | .loopArrayPass .. => [.time, .sns, .moi, .lpa]
  | .loopDeadline .. | .profileDeadline .. => [.time, .pubs]
  | .lpaWinDataAccess .. | .loadmaxClr .. => [.win, .bus, .lpa, .dig]
  | .profileStep .. => [.time, .sns, .moi, .prf]
  | .prfWinDataAccess .. | .stallClr .. | .fanTripClr .. | .fanWinDataAccess .. => [.win, .bus]
  | .traceSample .. => [.time, .bus, .trc]
  | .traceArm .. | .traceForce .. | .traceAbort .. => [.bus, .trc]
  | .ledgerAdvance .. => [.time, .ldg]
  | .ledgerSample .. => [.time, .sns, .moi, .ldg]
  | .ledgerPassComplete .. => [.ldg]
  | .ledgerIntervalEnd .. => [.ldg, .fresh]
  | .ledgerInit .. | .ledgerClearBias .. | .ldgWinDataAccess .. => [.win, .bus, .ldg, .dig]
  | .ledgerBatchEnd .. => [.win, .bus, .ldg, .dig, .fresh]
  | .parcelWindowWrite .. => [.bus, .ldg]
  | .deadlineLaneStart .. | .backgroundResume .. | .backgroundSuspend .. | .engAdd .. | .engSub .. | .engAnd .. | .engOr .. | .engXor .. |
    .engSll .. | .engSrl .. | .engSra .. | .engClt .. | .engCltu .. | .engMin .. | .engMax .. | .engAdds .. | .engSubs .. | .engCmov .. |
    .engClz .. | .engSlli .. | .engSrli .. | .engSrai .. | .engSatq .. | .engMul .. | .engMulh .. | .engMulhu .. | .engQmul .. |
    .engDiv .. | .engDivu .. | .engRem .. | .engQdiv .. | .engFadd .. | .engFsub .. | .engFmul .. | .engFmac .. | .engFmin .. |
    .engFmax .. | .engFabs .. | .engFneg .. | .engFlt .. | .engFle .. | .engFeq .. | .engFdiv .. | .engFsqrt .. | .engFcvtis .. |
    .engFcvtsi .. | .engFcvtqs .. | .engFcvtsq .. | .engAddi .. | .engClti .. | .engLhi .. | .engJmpr .. | .engAndi .. | .engOri .. |
    .engXori .. | .engLd .. | .engLdh .. | .engLdhu .. | .engLdb .. | .engLdbu .. | .engBeq .. | .engBne .. | .engBlt .. | .engBge .. |
    .engBltu .. | .engBgeu .. | .engLoop .. | .engJmp .. | .engCall .. | .engPst .. | .engPub .. | .engNop .. | .engEnd .. | .engSrr .. |
    .engSrw .. | .engCnf .. | .engPop .. | .engUflt .. => [.time, .eng]
  | .deadlineCutoff .. => [.time, .pubs, .eng]
  | .engPrd .. => [.time, .bus, .eng]
  | .engSrd .. | .engSrdr .. => [.time, .sns, .moi, .eng]
  | .engImageCrcCheck .. => [.eng]
  | .probationTimeout .. => [.mem, .time, .eng]
  | .cycClr .. => [.bus, .eng]
  | .engineWindowWrite .. => [.mem, .bus, .dig]
  | .bridgeLoss .. | .flashingFault .. | .injectionTimeout .. | .lockstepMismatch .. | .startUpRun .. => [.fresh]
  | .diRateGate .. => [.pubs]
  | .recordWrite .. => [.nvs, .fresh]
  | .clockSet .. => [.bus, .clk]
  | .oscFail .. | .calendarSecond .. => [.clk]
  | .watchScanStart .. => [.wch]
  | .watchScanEnd .. | .watchScanAbandon .. => [.wch, .fresh]
  | .hostReadFrame .. => [.win, .act, .mem, .time, .bus, .clk, .sns, .moi, .lpa, .prf, .trc, .ldg, .eng, .hst, .can, .lnk, .nvs, .dig, .pwr, .fresh]
  | .hostReplyReady .. => [.hst]
  | .keepAlive .. => [.bus, .hst]
  | .canFrameReceive .. => [.act, .can, .fresh]
  | .canTxreq .. | .canTxabort .. | .moDataAccess .. => [.act, .bus, .can]
  | .canTxDone .. => [.act, .can]
  | .canBusOffRecovered .. | .canErrorDetected .. => [.can]
  | .pdreqSend .. | .pdreqReceive .. | .pdrespReceive .. | .cargoReceive .. | .partnerLost .. | .digestSend .. | .digestReceive .. |
    .dqueryReceive .. | .dreplySend .. | .dreplyReceive .. | .dqueryTimeout .. | .prepareSend .. | .prepareReceive .. | .voteReceive .. |
    .doneSend .. | .doneReceive .. | .faultFrameSend .. | .faultFrameReceive .. | .linkFrameDiscard .. => [.lnk]
  | .cargoSend .. => [.time, .sns, .moi, .lnk]
  | .cargoDue .. => [.time, .pubs, .lnk]
  | .lnkWinDataAccess .. | .dqueryStart .. | .commitStart .. | .commitAbort .. => [.act, .bus, .lnk]
  | .decideSend .. | .decideReceive .. | .targetDiscard .. => [.act, .lnk]
  | .verify .. | .arm .. | .disarm .. | .saveProfile .. | .storeEng .. | .supRestart .. | .probReject .. | .progKey .. | .setKeypol .. |
    .eraseProfile .. => [.mem, .bus, .nvs]
  | .nvsCommandDone .. => [.mem, .nvs, .fresh]
  | .confirm .. => [.mem, .bus, .nvs, .fresh]
  | .supervisorStart .. => [.force, .win, .act, .mem, .time, .bus, .clk, .wch, .sns, .moi, .lpa, .prf, .trc, .ldg, .eng, .hst, .can, .lnk, .nvs, .dig, .pwr, .fresh]
  | .supProbationTimeout .. => [.time, .nvs]
  | .shadowDigestStart .. => [.bus, .dig]
  | .shadowDigestDone .. => [.dig]
  | .jtagBypass .. | .jtagIdcode .. | .jtagSamplePreload .. | .jtagExtest .. => [.tap]
  | .supervisorStartDone .. => [.nvs]
  | .registerWrite .. | .landing .. | .engSt .. | .engSth .. | .engStb .. | .engPwr .. | .postedWriteOutcome .. | .watchPowerUp .. |
    .hostWriteFrame .. | .commitApply .. | .nvsDataAccess .. | .supplyMonitorReset .. | .resetAssert .. | .deviceStart .. |
    .thermalReset .. | .modeReqRun .. | .modeReqHalt .. | .modeReqStandby .. | .modeReqDeep .. | .deepEntry .. | .wakeAlarm .. |
    .swrstFirst .. | .swrstSecond .. | .debugRelease .. | .bridgeClr .. | .tempClr .. | .jtagDebugAccess .. | .powerModeChangeDone .. => allParts

/-- The commands that act in a device that is held in reset or is in DEEP: those of the WATCH domain, of the reset sources and of the test
access port (R395, R470 to R478, R486, R498). -/
def actsAlways : Instr → Bool
  | .oscFail .. | .watchPowerUp .. | .watchSupplyChange .. | .watchScanStart .. | .watchScanEnd .. | .watchScanAbandon .. |
    .supplyMonitorReset .. | .resetAssert .. | .deviceStart .. | .thermalReset .. | .wakeAlarm .. | .debugRelease .. |
    .jtagBypass .. | .jtagIdcode .. | .jtagSamplePreload .. | .jtagExtest .. | .jtagDebugAccess .. | .calendarSecond .. => true
  | _ => false

end Sys2Proof.Machine
end

