-- ==== Sys2Proof/WellFormed.lean ====
section
/-!
DEFINITION. Which commands are well formed: the operands that their types leave too wide are as the spec has them.
The meanings are total on all operands; these checks say which ones the device's surroundings can send.
-/
namespace Sys2Proof

/-- An access address: 24 bits, a multiple of 4 (R21, R22). -/
def addrWf (a : Nat) : Bool := decide (a < 16777216) && decide (a % 4 = 0)

/-- Writes of one cycle: each at an access address, and no party twice, as a party's port makes one access at a time (R275). -/
def writesWf (l : List BusReq) : Bool :=
  l.all (fun r => addrWf r.addr) && decide ((l.map fun r => r.party.code).Nodup)

/-- Samples of a slice: 250 in each half-cycle (R79), an overload in a phase of its half-cycle. -/
def sliceWf (x : SliceIn) : Bool :=
  decide (x.pos.length = 250 ∧ x.neg.length = 250)
    && (x.ovlPos.all fun p => decide (p < 125)) && x.ovlNeg.all fun p => decide (p < 125)

/-- A tick frame of a sense page: 16 slices, 2 banks, 8 excitation pairs (R70, R73, R132). -/
def senseWf (x : SenseIn) : Bool :=
  decide (x.slices.length = 16 ∧ x.refUv.length = 2 ∧ x.refNeg.length = 2 ∧ x.cj.length = 2 ∧ x.compl.length = 8) && x.slices.all sliceWf

/-- A CAN frame: at most 64 bytes in an FD frame and 8 in a classic one (R416). -/
def canWf (f : CanFrame) : Bool := decide (f.data.length ≤ if f.fdf then 64 else 8)

/-- A host request: at most 64 data words (R408). -/
def hostWf (r : HostReq) : Bool := decide (r.data.length ≤ 64)

/-- A link frame: a body that an Ethernet frame can carry (R424). -/
def frameWf (f : LinkFrame) : Bool := decide (f.body.length ≤ 1500)

/-- A fault message: page, checker instance, kind and address within their widths (R348, R349). -/
def msgWf (m : MsgIn) : Bool := decide (m.page < 64 ∧ m.inst < 256 ∧ m.kind < 65536 ∧ m.addr < 65536)

/-- Whether a command is well formed. -/
def Instr.wf : Instr → Bool
  | .registerWrite ws => writesWf ws
  | .landing ws m =>
    writesWf ws && decide (m.legs.length = 16 ∧ m.sides.length = 8 ∧ m.outs.length = 24 ∧ m.limits.length = 24 ∧ m.fans.length = 12)
  | .engSt _ _ _ _ ws | .engSth _ _ _ _ ws | .engStb _ _ _ _ ws | .engPwr _ _ _ _ _ ws | .postedWriteOutcome _ ws => writesWf ws
  | .commitApply ws => ws.all writesWf
  | .senseFrame _ inp => senseWf inp
  | .moiSweepComplete _ ps => decide (ps.length ≤ 16)
  | .loopArrayPass cs => decide ((cs.map fun e => e.1.val).Nodup)
  | .profileStep cs => decide ((cs.map fun e => e.1.val).Nodup)
  | .commandStart amps => decide (amps.length = 16)
  | .armatureDip _ _ imax imin _ => decide (imin ≤ imax)
  | .tachEdge _ (some p) => decide (0 < p)
  | .aoReadbackMeasure ms => decide (ms.length = 8)
  | .faultMessage ms => !ms.isEmpty && ms.all msgWf
  | .watchScanEnd rs => rs.all fun r => decide (r.ch < 8 ∧ r.mxs < 16) && r.frames.all fun f => sliceWf f.slice
  | .hostWriteFrame r rivals => hostWf r && rivals.all writesWf
  | .hostReadFrame r => hostWf r
  | .canFrameReceive _ f => canWf f
  | .engineWindowWrite _ _ off _ => decide (off.toNat % 4 = 0)
  | .jtagDebugAccess a _ => decide (a.toNat % 4 = 0)
  | .syncReceive _ f _ _ | .pdreqReceive _ f _ _ | .pdrespReceive _ f _ | .cargoReceive _ f | .digestReceive _ f | .dqueryReceive _ f
  | .dreplyReceive _ f | .prepareReceive _ f | .voteReceive _ f | .decideReceive _ f | .doneReceive _ f | .faultFrameReceive _ f
  | .linkFrameDiscard _ _ _ f => frameWf f
  | _ => true

end Sys2Proof
end

