-- ==== Sys2Proof/Certificates/Slice0/Obligations.lean ====
section
/-!
DEFINITION. The statements about the device for the provers.
-/
open Sys2Proof Sys2Proof.Machine

/-! ### Control engines (chapter 9) -/

/-- R260, R261: what the integer instructions write to d: those of d, a and b, the shifts by an immediate, SATQ, the I-format ones,
the multiplications and the divisions. Arithmetic wraps but where it saturates, CLZ writes the number of leading zero bits, 32 for a = 0,
and a division by 0, and DIV of 0x8000_0000 by -1, give what R261 says without a trap. -/
def Obligations.Integer_Instructions_Write_Their_Result : Prop :=
  ∀ (c : EngAt) (d a b sh : Fin 32) (imm : BitVec 16) (s : State), Awake s →
    let x := gOf c a s
    let y := gOf c b s
    let byZero : Word := if x.toInt = 0 then 0 else if x.toInt < 0 then 0x80000000 else 0x7FFFFFFF
    IntDoes c d s (.engAdd c d a b) (formR 0x00 1 d a b) (x + y)
    ∧ IntDoes c d s (.engSub c d a b) (formR 0x01 1 d a b) (x - y)
    ∧ IntDoes c d s (.engAnd c d a b) (formR 0x02 1 d a b) (x &&& y)
    ∧ IntDoes c d s (.engOr c d a b) (formR 0x03 1 d a b) (x ||| y)
    ∧ IntDoes c d s (.engXor c d a b) (formR 0x04 1 d a b) (x ^^^ y)
    ∧ IntDoes c d s (.engSll c d a b) (formR 0x05 1 d a b) (x <<< (y.toNat % 32))
    ∧ IntDoes c d s (.engSrl c d a b) (formR 0x06 1 d a b) (x >>> (y.toNat % 32))
    ∧ IntDoes c d s (.engSra c d a b) (formR 0x07 1 d a b) (x.sshiftRight (y.toNat % 32))
    ∧ IntDoes c d s (.engClt c d a b) (formR 0x08 1 d a b) (if x.toInt < y.toInt then 1 else 0)
    ∧ IntDoes c d s (.engCltu c d a b) (formR 0x09 1 d a b) (if x.toNat < y.toNat then 1 else 0)
    ∧ IntDoes c d s (.engMin c d a b) (formR 0x0A 1 d a b) (BitVec.ofInt 32 (min x.toInt y.toInt))
    ∧ IntDoes c d s (.engMax c d a b) (formR 0x0B 1 d a b) (BitVec.ofInt 32 (max x.toInt y.toInt))
    ∧ IntDoes c d s (.engAdds c d a b) (formR 0x0C 1 d a b)
        (BitVec.ofInt 32 (max (-2147483648) (min 2147483647 (x.toInt + y.toInt))))
    ∧ IntDoes c d s (.engSubs c d a b) (formR 0x0D 1 d a b)
        (BitVec.ofInt 32 (max (-2147483648) (min 2147483647 (x.toInt - y.toInt))))
    ∧ IntDoes c d s (.engCmov c d a b) (formR 0x0E 1 d a b) (if y = 0 then gOf c d s else x)
    ∧ IntDoes c d s (.engSlli c d a sh) (formRs 0x10 d a sh) (x <<< sh.val)
    ∧ IntDoes c d s (.engSrli c d a sh) (formRs 0x11 d a sh) (x >>> sh.val)
    ∧ IntDoes c d s (.engSrai c d a sh) (formRs 0x12 d a sh) (x.sshiftRight sh.val)
    ∧ IntDoes c d s (.engSatq c d a sh) (formRs 0x13 d a sh)
        (BitVec.ofInt 32 (max (-(2 ^ sh.val : Int)) (min ((2 ^ sh.val : Int) - 1) x.toInt)))
    ∧ IntDoes c d s (.engAddi c d a imm) (formI 4 0 1 d a imm) (x + imm.signExtend 32)
    ∧ IntDoes c d s (.engClti c d a imm) (formI 4 1 1 d a imm) (if x.toInt < imm.toInt then 1 else 0)
    ∧ IntDoes c d s (.engLhi c d imm) (formI 4 2 1 d 0 imm) (imm.zeroExtend 32 <<< 16)
    ∧ IntDoes c d s (.engAndi c d a imm) (formI 5 0 1 d a imm) (x &&& imm.zeroExtend 32)
    ∧ IntDoes c d s (.engOri c d a imm) (formI 5 1 1 d a imm) (x ||| imm.zeroExtend 32)
    ∧ IntDoes c d s (.engXori c d a imm) (formI 5 2 1 d a imm) (x ^^^ imm.zeroExtend 32)
    ∧ (Executes c (formR2 0x0F d a) s → ∃ (t : State) (n : Nat), exec (.engClz c d a) s = .next t
        ∧ IntResult c (formR2 0x0F d a) d (BitVec.ofNat 32 n) s t
        ∧ n ≤ 32 ∧ (∀ i < n, x.getLsbD (31 - i) = false) ∧ (n < 32 → x.getLsbD (31 - n) = true))
    ∧ IntDoes c d s (.engMul c d a b) (formR 0x18 2 d a b) (x * y)
    ∧ IntDoes c d s (.engMulh c d a b) (formR 0x19 2 d a b) (BitVec.ofInt 32 (x.toInt * y.toInt / 2 ^ 32))
    ∧ IntDoes c d s (.engMulhu c d a b) (formR 0x1A 2 d a b) (BitVec.ofNat 32 (x.toNat * y.toNat / 2 ^ 32))
    ∧ IntDoes c d s (.engQmul c d a b sh) (formRbs 0x1B 2 d a b sh)
        (BitVec.ofInt 32 (max (-2147483648) (min 2147483647 (divAway (x.toInt * y.toInt) (2 ^ sh.val)))))
    ∧ IntDoes c d s (.engDiv c d a b) (formR 0x1C 34 d a b)
        (if y = 0 then byZero else BitVec.ofInt 32 (x.toInt.tdiv y.toInt))
    ∧ IntDoes c d s (.engDivu c d a b) (formR 0x1D 34 d a b) (if y = 0 then 0xFFFFFFFF else x / y)
    ∧ IntDoes c d s (.engRem c d a b) (formR 0x1E 34 d a b)
        (if y = 0 then x else BitVec.ofInt 32 (x.toInt.tmod y.toInt))
    ∧ IntDoes c d s (.engQdiv c d a b sh) (formRbs 0x1F 34 d a b sh)
        (if y = 0 then byZero
         else BitVec.ofInt 32 (max (-2147483648) (min 2147483647 ((x.toInt * 2 ^ sh.val).tdiv y.toInt))))

/-- R260, R262: the binary32 instructions write their result and raise their flags; the four additive and multiplicative ones and
the comparisons give their results with latency 3. -/
def Obligations.Float_Instructions_Write_Result_And_Flags : Prop :=
  ∀ (c : EngAt) (d a b : Fin 32) (s : State), Awake s →
    let x := gOf c a s
    let y := gOf c b s
    FloatDoes c d s (.engFadd c d a b) (formF 0x00 1 true d a b) (f32Add x y)
    ∧ FloatDoes c d s (.engFsub c d a b) (formF 0x01 1 true d a b) (f32Sub x y)
    ∧ FloatDoes c d s (.engFmul c d a b) (formF 0x02 1 true d a b) (f32Mul x y)
    ∧ FloatDoes c d s (.engFmac c d a b) { formF 0x03 1 true d a b with reads := [a.val, b.val, d.val] } (f32Mac (gOf c d s) x y)
    ∧ FloatDoes c d s (.engFmin c d a b) (formF 0x04 1 true d a b) (f32MinMax true x y)
    ∧ FloatDoes c d s (.engFmax c d a b) (formF 0x05 1 true d a b) (f32MinMax false x y)
    ∧ IntDoes c d s (.engFabs c d a) (formF0 0x06 1 d a) (x &&& 0x7FFFFFFF)
    ∧ IntDoes c d s (.engFneg c d a) (formF0 0x07 1 d a) (x ^^^ 0x80000000)
    ∧ FloatDoes c d s (.engFlt c d a b) (formF 0x08 1 true d a b) (f32Cmp false x y)
    ∧ FloatDoes c d s (.engFle c d a b) (formF 0x09 1 true d a b) (f32Cmp true x y)
    ∧ FloatDoes c d s (.engFeq c d a b) (formF 0x0A 1 true d a b) (f32Eq x y)
    ∧ FloatDoes c d s (.engFdiv c d a b) (formF 0x0C 16 false d a b) (f32Div x y)
    ∧ FloatDoes c d s (.engFsqrt c d a) (formF0 0x0D 16 d a) (f32Sqrt x)
    ∧ FloatDoes c d s (.engFcvtis c d a) (formFc 0x10 d a) (f32FromInt x 0)
    ∧ FloatDoes c d s (.engFcvtsi c d a) (formFc 0x11 d a) (f32ToInt x)
    ∧ FloatDoes c d s (.engFcvtqs c d a) (formFc 0x12 d a) (f32FromInt x (-16))
    ∧ FloatDoes c d s (.engFcvtsq c d a) (formFc 0x13 d a) (f32ToQ x)

/-- R263: a load of an aligned address below 0x8000 reads data memory most significant byte first, sign- or zero-extended. -/
def Obligations.Loads_Read_Data_Memory : Prop :=
  ∀ (c : EngAt) (d a : Fin 32) (imm : BitVec 16) (s : State), Awake s →
    let n := (gOf c a s + imm.signExtend 32).toNat
    let m (i : Nat) : Byte := rdByte s (dataBase c.eng.val + n + i)
    n < 0x8000 →
    (n % 4 = 0 → IntDoes c d s (.engLd c d a imm) (formLd 6 0 d a imm) (m 0 ++ m 1 ++ m 2 ++ m 3))
    ∧ (n % 2 = 0 → IntDoes c d s (.engLdh c d a imm) (formLd 6 1 d a imm) ((m 0 ++ m 1).signExtend 32))
    ∧ (n % 2 = 0 → IntDoes c d s (.engLdhu c d a imm) (formLd 6 2 d a imm) ((m 0 ++ m 1).zeroExtend 32))
    ∧ IntDoes c d s (.engLdb c d a imm) (formLd 6 3 d a imm) ((m 0).signExtend 32)
    ∧ IntDoes c d s (.engLdbu c d a imm) (formLd 7 0 d a imm) ((m 0).zeroExtend 32)

/-- R259, R260: a branch goes to the word index off16 words after the next instruction where its condition holds, and on where not;
it changes nothing but the context's pc and cycles. -/
def Obligations.Branches_Move_The_Pc : Prop :=
  ∀ (c : EngAt) (a b : Fin 32) (off : BitVec 16) (s : State), Awake s →
    let x := gOf c a s
    let y := gOf c b s
    let pc := (engCtx s c.eng.val c.lane).pc
    let target (taken : Bool) : Nat := if taken then pcMod (pc + 1 + off.toInt) else pcMod (pc + 1)
    let does (i : Instr) (cls sub : Nat) (taken : Bool) : Prop := FlowDoes c s i (formB cls sub a b off taken) (target taken)
    does (.engBeq c a b off) 8 0 (decide (x = y)) ∧ does (.engBne c a b off) 8 1 (decide (x ≠ y))
    ∧ does (.engBlt c a b off) 8 2 (decide (x.toInt < y.toInt)) ∧ does (.engBge c a b off) 8 3 (decide (y.toInt ≤ x.toInt))
    ∧ does (.engBltu c a b off) 9 0 (decide (x.toNat < y.toNat)) ∧ does (.engBgeu c a b off) 9 1 (decide (y.toNat ≤ x.toNat))

/-- R263: a store of an aligned address below 0x8000 that no other write meets puts the low bytes of d into data memory, most
significant byte at the lowest address, and changes no other byte. -/
def Obligations.Stores_Write_Data_Memory : Prop :=
  ∀ (c : EngAt) (d a : Fin 32) (imm : BitVec 16) (s : State), Awake s →
    let n := (gOf c a s + imm.signExtend 32).toNat
    let at0 := dataBase c.eng.val + n
    let does (i : Instr) (sub k : Nat) : Prop := Executes c (formSt 7 sub d a imm) s → ∃ t, exec i s = .next t
      ∧ FlowResult c (formSt 7 sub d a imm) (pcMod ((engCtx s c.eng.val c.lane).pc + 1)) [.mem] s t
      ∧ ∀ x, rdByte t x = if at0 ≤ x ∧ x < at0 + k then BitVec.ofNat 8 ((gOf c d s).toNat / 256 ^ (k - 1 - (x - at0))) else rdByte s x
    n < 0x8000 →
    (n % 4 = 0 → does (.engSt c d a imm []) 1 4) ∧ (n % 2 = 0 → does (.engSth c d a imm []) 2 2) ∧ does (.engStb c d a imm []) 3 1

/-- R259, R260: JMP and JMPR move the pc alone, CALL also leaves the index of the next word in g31, and LOOP counts a down and
branches while it is not 0. -/
def Obligations.Jumps_Move_The_Pc : Prop :=
  ∀ (c : EngAt) (a : Fin 32) (far : BitVec 27) (off : BitVec 16) (s : State), Awake s →
    let pc := (engCtx s c.eng.val c.lane).pc
    let jmp (link : Nat) (ws : List Nat) : EngForm := ⟨⟨maskAll, encJ link far.toNat⟩, [], ws, 2, 2, false, false⟩
    let v := gOf c a s - 1
    let loop : EngForm := { formB 9 2 a 0 off (decide (gOf c a s ≠ 1)) with reads := [a.val], writes := [a.val] }
    FlowDoes c s (.engJmp c far) (jmp 0 []) (pcMod (pc + 1 + far.toInt))
    ∧ FlowDoes c s (.engJmpr c a) { formI 4 3 2 0 a 0 with writes := [] } ((gOf c a s).toNat % 16384)
    ∧ (Executes c (jmp 1 [31]) s → ∃ t, exec (.engCall c far) s = .next t
        ∧ JumpResult c (jmp 1 [31]) (pcMod (pc + 1 + far.toInt)) 31 (BitVec.ofNat 32 (pcMod (pc + 1))) s t)
    ∧ (Executes c loop s → ∃ t, exec (.engLoop c a off) s = .next t
        ∧ JumpResult c loop (if v = 0 then pcMod (pc + 1) else pcMod (pc + 1 + off.toInt)) a v s t)

/-- R258: SRR reads the special registers, and 0 at an index that the table does not list; SRW writes FSTAT and traps with cause 1 at
every other index. -/
def Obligations.Special_Registers_Read_And_Write : Prop :=
  ∀ (c : EngAt) (d a : Fin 32) (sp : Fin 16) (s : State), Awake s →
    let x := engCtx s c.eng.val c.lane
    let srr := formX maskXds (encX 2 d.val 0 sp.val) [] [d.val] 1
    let srw := formX maskXas (encX 3 0 a.val sp.val) [a.val] [] 1
    let value : Nat := match sp.val with
      | 0 => s.time.tick % 4294967296
      | 1 => lanePhase c.lane (startCycle x srr)
      | 2 => startCycle x srr
      | 3 => x.pcond
      | 4 => x.sage
      | 5 => x.sstat
      | 6 => x.fstat
      | 7 => if c.lane = .deadline then 1 else 0
      | 8 => c.eng.val
      | 9 => getW CMN.GEN_SWAP_GEN (engPg c.eng.val) 0 s
      | 10 => if (engSt s c.eng.val).prob.isSome then 1 else 0
      | 11 => (engSt s c.eng.val).posts.length + (engSt s c.eng.val).outs.length
      | _ => 0
    IntDoes c d s (.engSrr c d sp) srr (BitVec.ofNat 32 value)
    ∧ (sp = 6 → Executes c srw s → ∃ t, exec (.engSrw c a sp) s = .next t
        ∧ Stepped c srw (pcMod (x.pc + 1)) [] s t ∧ (engCtx t c.eng.val c.lane).fstat = (gOf c a s).toNat % 32
        ∧ (∀ r, getG t c.eng.val c.lane r = getG s c.eng.val c.lane r) ∧ KeepsConditions c s t)
    ∧ (sp ≠ 6 → Executes c srw s → ∃ t, exec (.engSrw c a sp) s = .next t ∧ Trapped c 1 s t)

/-- R263, R274: a load or a store of an address at or above 0x8000 traps with cause 3, and a misaligned one below it with cause 2. -/
def Obligations.Bad_Data_Addresses_Trap : Prop :=
  ∀ (c : EngAt) (d a : Fin 32) (imm : BitVec 16) (rivals : List BusReq) (s : State), Awake s →
    let n := (gOf c a s + imm.signExtend 32).toNat
    let beyond (i : Instr) (m : EngForm) : Prop := 0x8000 ≤ n → Executes c m s → ∃ t, exec i s = .next t ∧ Trapped c 3 s t
    let traps (i : Instr) (m : EngForm) (k : Nat) : Prop := beyond i m
      ∧ (n < 0x8000 → n % k ≠ 0 → Executes c m s → ∃ t, exec i s = .next t ∧ Trapped c 2 s t)
    traps (.engLd c d a imm) (formLd 6 0 d a imm) 4 ∧ traps (.engLdh c d a imm) (formLd 6 1 d a imm) 2
    ∧ traps (.engLdhu c d a imm) (formLd 6 2 d a imm) 2 ∧ beyond (.engLdb c d a imm) (formLd 6 3 d a imm)
    ∧ beyond (.engLdbu c d a imm) (formLd 7 0 d a imm) ∧ traps (.engSt c d a imm rivals) (formSt 7 1 d a imm) 4
    ∧ traps (.engSth c d a imm rivals) (formSt 7 2 d a imm) 2 ∧ beyond (.engStb c d a imm rivals) (formSt 7 3 d a imm)

/-- R267, R268, R270: a source read of a defined source word gives its value, age and status; a record that fails its CRC-8 gives 0
with RES 6, and a source word that is not valid 0 with RES 3. -/
def Obligations.Source_Reads_Give_Value_And_Condition : Prop :=
  ∀ (c : EngAt) (d a : Fin 32) (src : BitVec 16) (s : State), Awake s →
    let srd : EngForm := ⟨⟨maskAll, encI 11 0 d.val 0 src.toNat⟩, [], [d.val], 8, 8, false, false⟩
    let srdr : EngForm := ⟨⟨maskAll, encI 11 1 d.val a.val 0⟩, [a.val], [d.val], 8, 8, false, false⟩
    let does (i : Instr) (m : EngForm) (w : Nat) : Prop :=
      let r := readSrc w s
      let stat := if w / 4096 = 1 ∨ w / 4096 = 2 then r.status else 0
      Executes c m s → ∃ t, exec i s = .next t
        ∧ (srcValid w none false = false → SourceResult c m d 0 19 0xFFFF 0 s t)
        ∧ (srcValid w none false = true → r.ok = true → SourceResult c m d r.value (if r.stale then 16 else 0) r.age stat s t)
        ∧ (srcValid w none false = true → r.ok = false → SourceResult c m d 0 22 r.age stat s t)
    does (.engSrd c d src) srd src.toNat ∧ does (.engSrdr c d a) srdr ((gOf c a s).toNat % 65536)

/-- R264, R266, R267: a port access is made in the cycle in which its instruction starts and sets PCOND to its result. PRD gives the
word as it was before the writes of its cycle, 0 where RES is not 0. PWR is settled among the writes of its cycle. A misaligned address or one in the engine's own window gives
RES 3 and no access. -/
def Obligations.Port_Accesses_Set_The_Condition : Prop :=
  ∀ (c : EngAt) (d a : Fin 32) (imm : BitVec 16) (took : Fin 805) (rivals : List BusReq) (s : State), Awake s →
    let addr := (gOf c a s + imm.signExtend 32).toNat % 16777216
    let bad := addr % 4 ≠ 0 ∨ (0x100000 + c.eng.val * 0x20000 ≤ addr ∧ addr < 0x100000 + (c.eng.val + 1) * 0x20000)
    let prd := formPort c 0 d a imm [a.val] [d.val] took s
    let pwr := formPort c 1 d a imm [a.val, d.val] [] took s
    let start (m : EngForm) : State := atLane c.lane (startCycle (engCtx s c.eng.val c.lane) m) (clearReports s)
    let r := busRead (.eng c.eng) addr (start prd)
    let w := contestedWrite ⟨.eng c.eng, addr, gOf c d s⟩ rivals (start pwr)
    (Executes c prd s → ∃ t, exec (.engPrd c d a imm took) s = .next t
      ∧ (bad → Ported c prd [.bus] 3 s (start prd) t ∧ Writes c d 0 s t)
      ∧ (¬ bad → Ported c prd [.bus] r.2.1.code s r.2.2 t ∧ Writes c d (if r.2.1 = .done then wordBefore addr r.1 (start prd) else 0) s t))
    ∧ (Executes c pwr s → (¬ bad → bitAt w.2.pwr.causes 4 = false) → ∃ t, exec (.engPwr c d a imm took rivals) s = .next t
      ∧ (bad → Ported c pwr written 3 s (start pwr) t)
      ∧ (¬ bad → Ported c pwr written w.1.code s w.2 t ∧ ∀ r, getG t c.eng.val c.lane r = getG w.2 c.eng.val c.lane r))

/-- R269: PST queues the write to a page of an A-die or P-die block; 16 writes and outcomes make it RES 5 and an address elsewhere
RES 3, with nothing queued. POP takes the oldest outcome, 0 where none is queued. -/
def Obligations.Posted_Writes_Are_Queued : Prop :=
  ∀ (c : EngAt) (d a : Fin 32) (imm : BitVec 16) (s : State), Awake s →
    let addr := (gOf c a s + imm.signExtend 32).toNat % 16777216
    let x := engSt s c.eng.val
    let pst : EngForm := ⟨⟨maskAll, encI 10 2 d.val a.val imm.toNat⟩, [a.val, d.val], [], 4, 4, false, false⟩
    let pop := formX maskXd (encX 5 d.val 0 0) [] [d.val] 1
    (Executes c pst s → ∃ t, exec (.engPst c d a imm) s = .next t
      ∧ (∀ r, getG t c.eng.val c.lane r = getG s c.eng.val c.lane r) ∧ (engSt t c.eng.val).outs = x.outs
      ∧ (portBad c.eng.val addr = true ∨ bridged addr = false → PortResult c pst [] 3 s t ∧ (engSt t c.eng.val).posts = x.posts)
      ∧ (portBad c.eng.val addr = false → bridged addr = true → 16 ≤ x.posts.length + x.outs.length →
          PortResult c pst [] 5 s t ∧ (engSt t c.eng.val).posts = x.posts)
      ∧ (portBad c.eng.val addr = false → bridged addr = true → x.posts.length + x.outs.length < 16 →
          PortResult c pst [] 0 s t ∧ (engSt t c.eng.val).posts = x.posts ++ [⟨addr, gOf c d s, false⟩]))
    ∧ (Executes c pop s → ∃ t, exec (.engPop c d) s = .next t ∧ IntResult c pop d (x.outs.headD 0) s t
      ∧ (engSt t c.eng.val).outs = x.outs.tail ∧ (engSt t c.eng.val).posts = x.posts)

/-- R260, R271: NOP changes nothing but the pc and the cycles, and PUB puts g[d] into a word of the staging copy. -/
def Obligations.Pub_Writes_The_Staging_Copy : Prop :=
  ∀ (c : EngAt) (d : Fin 32) (k : Fin 16) (s : State), Awake s →
    let nop := formX maskX (encX 0 0 0 0) [] [] 1
    let pub : EngForm := ⟨⟨maskAll, encI 11 2 d.val 0 k.val⟩, [d.val], [], 1, 1, false, false⟩
    let word (s : State) (j : Nat) : Word := tabGet (fun _ => 0) (engSt s c.eng.val).staging j
    (Executes c nop s → ∃ t, exec (.engNop c) s = .next t
      ∧ FlowResult c nop (pcMod ((engCtx s c.eng.val c.lane).pc + 1)) [] s t ∧ ∀ j, word t j = word s j)
    ∧ (Executes c pub s → ∃ t, exec (.engPub c d k) s = .next t
      ∧ FlowResult c pub (pcMod ((engCtx s c.eng.val c.lane).pc + 1)) [] s t
      ∧ ∀ j, word t j = if j = k.val then gOf c d s else word s j)

/-- R256, R260, R273, R284: END stops its context for the rest of the lane and marks the deadline work ended; CNF confirms an open
probation; UFLT sends a fault message of kind ENG_USER with address a[15:0]. -/
def Obligations.System_Instructions_Act_On_The_Engine : Prop :=
  ∀ (c : EngAt) (a : Fin 32) (s : State), Awake s →
    let e := c.eng.val
    let x := engCtx s e c.lane
    let stop := formX maskX (encX 1 0 0 0) [] [] 1
    let cnf := formX maskX (encX 4 0 0 0) [] [] 1
    let uflt := formX maskXa (encX 6 0 a.val 0) [a.val] [] 2
    let used (m : EngForm) : Nat := startCycle x m + m.cost + eccCycles c.ecc
    (Executes c stop s → ∃ t, exec (.engEnd c) s = .next t
      ∧ engCtx t e c.lane = { x with act := false, pass := false, used := used stop, flight := [] }
      ∧ (∀ l, l ≠ c.lane → engCtx t e l = engCtx s e l) ∧ (∀ k, k ≠ e → engSt t k = engSt s k)
      ∧ (c.lane = .deadline → (engSt t e).ended = true ∧ getW ENG.DLCYC_LAST (engPg e) 0 t = used stop % 65536)
      ∧ (c.lane = .background → getW ENG.BGCYC_PASSES (engPg e) 0 t = (getW ENG.BGCYC_PASSES (engPg e) 0 s + 1) % 65536))
    ∧ (Executes c cnf s → ∃ t, exec (.engCnf c) s = .next t ∧ FlowResult c cnf (pcMod (x.pc + 1)) [] s t
      ∧ ∀ q, (engSt s e).prob = some q → usNow (atLane c.lane (startCycle x cnf) s) < q.start + q.len → q.ended = true →
          (engSt t e).prob = none ∧ getW ENG.STAT_PROB (engPg e) 0 t = 0)
    ∧ (Executes c uflt s → ∃ t, exec (.engUflt c a) s = .next t ∧ FlowResult c uflt (pcMod (x.pc + 1)) [] s t
      ∧ (s.flt.outbox = [] → Told (engPg e) 0xFF kEngUser (gOf c a s).toNat s t))

/-- R256, R272, R273: the lanes of all engines. The deadline contexts that are due start at DL_ENTRY; at the cut-off no deadline context
runs on, and late work counts 34,000 cycles; background contexts resume where they stopped or start at BG_ENTRY, and are suspended
with their values kept. -/
def Obligations.Lanes_Start_And_Stop_Contexts : Prop :=
  ∀ (e : Fin 16) (s : State), Awake s →
    let x := engSt s e.val
    (∃ t, exec .deadlineLaneStart s = .next t ∧ (engSt t e.val).bg = x.bg
      ∧ (dlDue s e.val = true → x.started = false → (engSt t e.val).started = true ∧ (engSt t e.val).dl.pc = imgDl (runBank e.val s) s
          ∧ (engSt t e.val).dl.used = 0 ∧ (engSt t e.val).dl.regs = x.dl.regs)
      ∧ (dlDue s e.val = false ∨ x.started = true → engSt t e.val = x))
    ∧ (∃ t, exec .deadlineCutoff s = .next t ∧ (engSt t e.val).bg = x.bg ∧ (engSt t e.val).dl = { x.dl with act := false, pass := false }
      ∧ (dlDue s e.val = true → x.ended = false → getW ENG.DLCYC_LAST (engPg e.val) 0 t = 34000))
    ∧ (∃ t, exec .backgroundResume s = .next t ∧ (engSt t e.val).dl = x.dl
      ∧ (s.time.phase < 40 → bgDue s e.val = true → x.bg.act = false → (engSt t e.val).bg.used = 0 ∧ (engSt t e.val).bg.regs = x.bg.regs
          ∧ (engSt t e.val).bg.pc = if x.bg.pass then x.bg.pc else imgBg (runBank e.val s) s)
      ∧ (40 ≤ s.time.phase ∨ bgDue s e.val = false ∨ x.bg.act = true → engSt t e.val = x))
    ∧ ∃ t, exec .backgroundSuspend s = .next t ∧ engSt t e.val = { x with bg := { x.bg with act := false } }

/-! ### Time base (chapters 1 and 2) -/

/-- R36 to R38, R41: a tick boundary opens the next tick at phase 0; the boundary that ends a tide reads the die temperatures and the one
that ends a long tide measures VBAT and publishes the ridge, each once and with its interrupt. -/
def Obligations.Boundaries_Open_Ticks_And_Tides : Prop :=
  ∀ (oscLen : Nat) (rails : RailMv) (temps : DieTemps) (vbat : Nat) (s : State), Awake s →
    let tide := gridTick s % 64 = 0 ∧ s.time.tideDone ≠ some s.time.ticks
    let long := gridTick s % 8192 = 0 ∧ s.time.longDone ≠ some s.time.ticks
    (∃ u, Settles (.tickBoundary oscLen rails) s u ∧ u.time.tick = (s.time.tick + 1) % 2 ^ 48 ∧ u.time.ticks = s.time.ticks + 1
      ∧ u.time.phase = 0 ∧ u.time.cycle = 0)
    ∧ (∃ u, Settles (.tideBoundary temps) s u
      ∧ (tide → irq tickPg 16 u = true ∧ u.time.tideDone = some s.time.ticks ∧ getW PWR.TEMP0_C_DIE pwrPg 0 u = (temps.cDie % 65536).toNat
          ∧ getW PWR.TEMP0_A_DIE pwrPg 0 u = (temps.aDie % 65536).toNat ∧ getW PWR.TEMP1_P_DIE pwrPg 0 u = (temps.pDie % 65536).toNat)
      ∧ (¬ tide → u = clearReports s))
    ∧ ∃ u, Settles (.longTideBoundary vbat) s u
      ∧ (long → irq tickPg 17 u = true ∧ u.time.longDone = some s.time.ticks ∧ getW CLK.VBAT_MV clkPg 0 u = min vbat 65535)
      ∧ (¬ long → u = clearReports s)

/-! ### Alignment with the master (chapters 2 and 14) -/

/-- R39, R59, R60, R61, R429: the alignment states follow the frames heard. A lost PLL is reported; a LOCKED device that has heard
nothing for one tide goes to HOLDOVER, and a HOLDOVER that outlasts HOLD_LIMIT to FREE; a count adopted from the master moves the
tick count; a device in FREE with ROLE 1 that has heard nothing for 16 + 8 × RANK ticks becomes MASTER. -/
def Obligations.Alignment_Follows_The_Frames_Heard : Prop :=
  ∀ (s : State), Awake s →
    Does .pllLockLoss s (fun u => Sent tickPg 0xFF kTickClockFail 0xFFFF s u ∧ RegsBut [] s u)
    ∧ Does .syncTimeout s (fun u => RegsBut [pageAddr tickPg 0x114, pageAddr tickPg 0x10] s u
        ∧ ∀ t, s.time.lastSync = some t → alignSt s = 2 → (t + 8000) / 125 ≤ s.time.ticks → alignSt u = 3 ∧ irq tickPg 18 u = true)
    ∧ Does .holdoverExpire s (fun u => (alignSt s = 3 → s.time.since + 64 * getF TICK.SYNC_CTRL_HOLD_LIMIT tickPg 0 s ≤ s.time.ticks →
          alignSt u = 0 ∧ u.lnk.rank = none ∧ Sent tickPg 0xFF kTickSyncLost (masterAddr s) s u)
        ∧ (alignSt s ≠ 3 → u = clearReports s))
    ∧ Does .tickAdopt s (fun u => (∀ d e, s.time.adopt = some (d, e) → e < s.time.ticks →
          u.time.tick = (((s.time.tick : Int) + d) % 2 ^ 48).toNat ∧ u.time.adopt = none ∧ u.time.ticks = s.time.ticks ∧ irq tickPg 19 u = true)
        ∧ (s.time.adopt = none → u = clearReports s))
    ∧ Does .masterClaim s (fun u => alignSt s = 0 → getF TICK.SYNC_CTRL_ROLE tickPg 0 s = 1 →
        max s.time.since ((s.time.lastSync.getD 0) / 125) + 16 + 8 * linkRank s ≤ s.time.ticks → alignSt u = 4 ∧ irq tickPg 18 u = true)

/-! ### Common registers of a page (chapter 1) -/

/-- R24, R27, R29, R30, R41: commands in the common registers of a page. RUN reads what was written where the block does not always
run and no reaction of the same cycle writes it; a requested swap of a sense page is pending; SOFT_RST of a stopped trace, ledger, input or
sense page resets its running state; CNT_CLR zeroes COUNT, which then holds a message of the same cycle; FINJ arms a checker that the page has. -/
def Obligations.Common_Registers_Take_Their_Commands : Prop :=
  ∀ (party : Party) (page : PageIx) (run : Bool) (checker mask : Byte) (s : State), Awake s → (pageKind page.val).isSome = true →
    let p := page.val
    let a (off : Nat) : Nat := pageAddr p off
    (MayWrite party p false s → CommandBitsZero p 0x08 s → alwaysRun p = false →
      ((∀ e, p = 0x20 + e → (thisCycle s).runs.contains (1, e) = false) →
        (run = true → (haltForce s && haltPage p) = false ∧ (pageKind p = some .eng → getB ENG.STAT_NOPROG p 0 s = false)) →
        Does (.runControl party page run) s fun u => Acked party (a 0x08) u ∧ getW CMN.CTRL_RUN p 0 u = b2n run
          ∧ RegsBut [a 0x08, a 0x2C] s u)
      ∧ (p = 0x10 ∨ p = 0x11 ∨ p = 0x12 → doubleBuffered p s = true →
        Does (.swapReq party page) s fun u => Acked party (a 0x08) u ∧ getW CMN.STAT_SWAP_PEND p 0 u = 1)
      ∧ (getB CMN.CTRL_RUN p 0 s = false →
        Does (.softRst party page) s fun u => Acked party (a 0x08) u
          ∧ (p = trcPg → ∀ n < 4, (trcUnit u n).state = 0 ∧ (trcUnit u n).samples = [])
          ∧ (p = ldgPg → u.ldg.pass = none) ∧ (p = dinPg → u.drv.debs = [])
          ∧ (p = 0x10 ∨ p = 0x11 ∨ p = 0x12 → ∀ i < 16, (snsCh u ((p - 0x10) * 16 + i)).frames = [] ∧ (snsCh u ((p - 0x10) * 16 + i)).lastT = none)))
    ∧ (MayWrite party p true s →
        Does (.faultCountClr party page) s fun u => Acked party (a 0x18) u ∧ getW CMN.FLT_STAT_COUNT p 0 u = b2n ((thisCycle s).sent.contains p) ∧ RegsBut [a 0x18] s u)
    ∧ (MayWrite party p false s → bitsOf (rdReg s (a 0x1C)) 31 31 = 0 → mask ≠ 0 → checker.toNat ∈ pageCheckers p →
        Does (.finjArm party page checker mask) s fun u => Acked party (a 0x1C) u ∧ RegsBut [a 0x1C] s u
          ∧ getW CMN.FINJ_ARM p 0 u = 1 ∧ getW CMN.FINJ_INV_MASK p 0 u = mask.toNat ∧ getW CMN.FINJ_CHECKER p 0 u = checker.toNat
          ∧ tabGet (fun _ => (0 : Nat)) u.flt.injStart p = usNow s)

/-- R31, R33: OWN and LOCK. SUP, and HOST on an unlocked page, name a page's owner; LOCK's keys lock and unlock it, the permanent
lock stays, and the unlock sequence is that of its party. -/
def Obligations.Owner_And_Lock_Follow_Their_Writes : Prop :=
  ∀ (party : Party) (page : PageIx) (owner : BitVec 5) (shared : Bool) (s : State), Awake s → (pageKind page.val).isSome = true →
    let p := page.val
    let a (off : Nat) : Nat := pageAddr p off
    let mine := party.code * 64 + p
    (pageOff p s = false → partyBarred party (some p) s = false → party = .sup ∨ (party = .host ∧ locked p s = false) →
      ownerValid owner.toNat = true →
      Does (.ownWrite party page owner shared) s fun u => Acked party (a 0x20) u ∧ getW CMN.OWN_OWNER p 0 u = owner.toNat
        ∧ getW CMN.OWN_SHARED p 0 u = b2n shared ∧ RegsBut [a 0x20, a 0x2C] s u)
    ∧ (MayWrite party p true s →
      Does (.lockSet party page) s (fun u => Acked party (a 0x24) u ∧ locked p u = true ∧ getW CMN.LOCK_PERM p 0 u = getW CMN.LOCK_PERM p 0 s
        ∧ mine ∉ u.bus.unlock ∧ RegsBut [a 0x24] s u)
      ∧ Does (.lockPerm party page) s (fun u => Acked party (a 0x24) u ∧ locked p u = true ∧ getW CMN.LOCK_PERM p 0 u = 1
        ∧ mine ∉ u.bus.unlock ∧ RegsBut [a 0x24] s u)
      ∧ Does (.unlockFirst party page) s (fun u => Acked party (a 0x24) u ∧ mine ∈ u.bus.unlock ∧ RegsBut [] s u)
      ∧ Does (.unlockSecond party page) s fun u => mine ∉ u.bus.unlock ∧ RegsBut [a 0x24] s u
        ∧ (mine ∈ s.bus.unlock → getW CMN.LOCK_PERM p 0 s = 0 → Acked party (a 0x24) u ∧ locked p u = false)
        ∧ (mine ∉ s.bus.unlock ∨ getW CMN.LOCK_PERM p 0 s = 1 → u.bus.reports = [⟨party, a 0x24, .refused⟩] ∧ RegsBut [] s u))

/-! ### Reads (chapters 1, 13 and 15) -/

/-- R34, R65, R121, R122, R164, R238, R363, R388, R391, R432, R440, R468, R499: reads that capture. Each returns the first word and holds
the words that belong to it, so that the party's further reads give the values of the same instant. -/
def Obligations.Reads_Capture_What_Belongs_Together : Prop :=
  ∀ (party : Party) (page : PageIx) (ch : Fin 48) (sp : Fin 3) (m : Fin 8) (loc : Fin 8192) (reg : Fin 4) (s : State), Awake s →
    let does (i : Instr) (a : Nat) (w : Word) (held : List (Nat × Word)) : Prop := Readable party a s → Captures i party a w held s
    let at_ (p off : Nat) : Nat := pageAddr p off
    let rc := resLoc ch.val s
    let rs := at_ (snsPage ch.val) (0x280 + 8 * (ch.val % 16))
    let pt := ptLoc party (snsPageOf sp) s
    let ptw := if pt.2 then neverWords s pt.1 else ((snsRec s pt.1).value, recMeta s pt.1)
    let k := recCursor party s
    let d := digestOff reg
    let p := partnerAt s (rgSel party s)
    ((pageKind page.val).isSome = true → does (.battenRead party page) (at_ page.val 0x28) (ofN (batten page.val s / 2 ^ 32))
        [(at_ page.val 0x28, ofN (batten page.val s))])
    ∧ does (.resultRead party ch) rs (snsRec s rc).value [(rs + 4, recMeta s rc)]
    ∧ does (.ptValRead party sp) (at_ (snsPageOf sp) 0x304) ptw.1 [(at_ (snsPageOf sp) 0x308, ptw.2)]
    ∧ does (.moiResultRead party m) (at_ moiPg (0x200 + 0x20 * m.val)) (moiWord s m.val 0)
        ((List.range 6).map fun i => (at_ moiPg (0x200 + 0x20 * m.val + 4 * (i + 1)), moiWord s m.val (i + 1)))
    ∧ does (.parcelRead party loc) (0x300000 + 32 * loc.val) (parcelWord s loc.val 0)
        ((List.range 7).map fun i => (0x300000 + loc.val * 32 + 4 * (i + 1), parcelWord s loc.val (i + 1)))
    ∧ does (.histRead party) (at_ fltPg 0x144) (histAt (histSel party s) 0 s)
        ((List.range 3).map fun i => (at_ fltPg (0x148 + 4 * i), histAt (histSel party s) (i + 1) s))
    ∧ does (.recordRead party) (at_ recPg 0x180) (nthW (slotWords k.1 k.2 s) 0)
        ((List.range 15).map fun i => (at_ recPg (0x184 + 4 * i), nthW (slotWords k.1 k.2 s) (i + 1)))
    ∧ does (.clockCapture party) (at_ clkPg 0x100) (ofN s.clk.secs)
        [(at_ clkPg 0x104, ofN (subSecond s * 65536 + s.clk.secs / 2 ^ 32))]
    ∧ does (.cargoRead party) (at_ lnkPg 0x154) (getPub (pcKey party s) s).value [(at_ lnkPg 0x158, pcMeta (pcKey party s) s)]
    ∧ does (.ridgeRead party) (at_ lnkPg 0x164) (ofN (p.ridge / 2 ^ 32)) [(at_ lnkPg 0x168, ofN p.ridge)]
    ∧ does (.digestRead party reg) (at_ digPg d) (if d = 0x114 then ofN (digSelected party s / 2 ^ 32) else rdReg s (at_ digPg d))
        [(at_ digPg (d + 4), if d = 0x114 then ofN (digSelected party s) else rdReg s (at_ digPg (d + 4)))]
    ∧ does (.uidRead party) (at_ 0 0x104) (Config.uid 0) [(at_ 0 0x108, Config.uid 1)]
    ∧ (Readable party (at_ tickPg 0x100) s → Does (.tickCntCapture party) s fun u => Acked party (at_ tickPg 0x100) u
        ∧ u.bus.readData = [ofN s.time.tick] ∧ RegsBut [] s u ∧ rdParty party (at_ tickPg 0x104) u = ofN (s.time.tick / 2 ^ 32 % 65536)
        ∧ rdParty party (at_ tickPg 0x108) u = ofN (s.time.phase * 65536 + s.time.cycle))

/-! ### Window accesses (chapters 4 to 9, 12 to 15) -/

/-- R118, R158, R196, R219, R252, R326: a read of a page's window data register gives the addressed word of the copy that its address
register names. -/
def Obligations.Window_Reads_Give_The_Addressed_Word : Prop :=
  ∀ (party : Party) (sp : Fin 3) (lp ctl : Fin 2) (failed : Bool) (s : State), Awake s →
    let does (i : Instr) (p off : Nat) (w : Word) : Prop := Readable party (pageAddr p off) s →
      Does i s fun u => Acked party (pageAddr p off) u ∧ u.bus.readData = [w] ∧ Outside [p] s u
    let o := getW CAN.MO_ADDR_OBJ (canPg ctl.val) 0 s
    let fw := getW FAN.WIN_ADDR_WORD fanPg 0 s
    does (.coefDataAccess party sp none) (snsPageOf sp) 0x3F4 (coefRead (snsPageOf sp) s)
    ∧ does (.tblDataAccess party none) moiPg 0x314 (tblRead s)
    ∧ does (.lpaWinDataAccess party lp none) (0x18 + lp.val) 0x38C (lpaWinRead (0x18 + lp.val) s)
    ∧ does (.prfWinDataAccess party none) prfPg 0x304 (prfWinRead s)
    ∧ does (.ldgWinDataAccess party none) ldgPg 0x204 (ldgWinRead s)
    ∧ does (.fanWinDataAccess party none) fanPg 0x344 (getShd fanPg (getW FAN.WIN_ADDR_AREA fanPg 0 s) fw s)
    ∧ does (.moDataAccess party ctl none) (canPg ctl.val) 0x144 (moWord (canPg ctl.val) o (getW CAN.MO_ADDR_WORD (canPg ctl.val) 0 s) s)
    ∧ does (.lnkWinDataAccess party none) lnkPg 0x144 (lnkWinRead party s)
    ∧ does (.nvsDataAccess party none failed) nvsPg 0x104 (nvWord (nvsOffset party s) s)

/-- R116, R118, R158, R196, R219, R248, R252, R265, R352, R418, R430, R442: a permitted write to a window puts its word there: into the
shadow copy, a message object, the link's words, the NV store, the severity table, an engine's window or a parcel slot. -/
def Obligations.Window_Writes_Put_Their_Word : Prop :=
  ∀ (party : Party) (sp : Fin 3) (lp ctl : Fin 2) (e : Fin 16) (off : BitVec 17) (loc : Fin 8192) (v : Word) (s : State), Awake s →
    let does (i : Instr) (a : Nat) (fact : State → Prop) : Prop := Does i s fun u => Acked party a u ∧ Outside [a / 0x400] s u ∧ fact u
    let p := snsPageOf sp
    let cw := getW SNS.COEF_ADDR_WORD p 0 s
    let l := 0x18 + lp.val
    let larea := getW LPA.WIN_ADDR_AREA l 0 s
    let lw := getW LPA.WIN_ADDR_WORD l 0 s
    let pw := getW PRF.WIN_ADDR_WORD prfPg 0 s
    let garea := getW LDG.WIN_ADDR_AREA ldgPg 0 s
    let gw := getW LDG.WIN_ADDR_WORD ldgPg 0 s
    let farea := getW FAN.WIN_ADDR_AREA fanPg 0 s
    let fw := getW FAN.WIN_ADDR_WORD fanPg 0 s
    let c := canPg ctl.val
    let o := getW CAN.MO_ADDR_OBJ c 0 s
    let ow := getW CAN.MO_ADDR_WORD c 0 s
    let k := getW FLT.SEV_ADDR_KIND fltPg 0 s
    let x := 0x100000 + 0x20000 * e.val + off.toNat
    let sl := 0x300000 + 32 * loc.val
    (MayWrite party p false s → getB SNS.COEF_ADDR_VIEW p 0 s = false → (cw = 0 → bitsOf v 1 0 ≠ 3) → (12 ≤ cw → v = 0) →
      does (.coefDataAccess party sp (some v)) (pageAddr p 0x3F4) fun u =>
        getShd p 0 (coefIx p s) u = if cw = 0 then ofN (bitsOf v 1 0) else v)
    ∧ (MayWrite party moiPg false s → getB MOI.TBL_ADDR_VIEW moiPg 0 s = false → getB CMN.STAT_SWAP_PEND moiPg 0 s = false →
      getW MOI.TBL_ADDR_AREA moiPg 0 s = 2 → does (.tblDataAccess party (some v)) (pageAddr moiPg 0x314) fun u =>
        getShd moiPg 2 (getW MOI.TBL_ADDR_WORD moiPg 0 s) u = v)
    ∧ (MayWriteUnit party l (lpaWinSlot larea lw) false s → getB LPA.WIN_ADDR_VIEW l 0 s = false → getB CMN.STAT_SWAP_PEND l 0 s = false →
      larea = 0 → gainBad (lw % 16) v = false → does (.lpaWinDataAccess party lp (some v)) (pageAddr l 0x38C) fun u => getShd l 0 lw u = v)
    ∧ (MayWriteUnit party prfPg (pw / 8) false s → getW PRF.WIN_ADDR_AREA prfPg 0 s = 0 → paramBad (pw / 8) (pw % 8) v s = false →
      does (.prfWinDataAccess party (some v)) (pageAddr prfPg 0x304) fun u => getShd prfPg 0 pw u = v)
    ∧ (MayWriteUnit party ldgPg (gw / 32) false s → getB LDG.WIN_ADDR_VIEW ldgPg 0 s = false → getB CMN.STAT_SWAP_PEND ldgPg 0 s = false →
      garea = 2 → (gw % 4 = 0) → does (.ldgWinDataAccess party (some v)) (pageAddr ldgPg 0x204) fun u => getShd ldgPg 2 gw u = v)
    ∧ (MayWriteUnit party fanPg (fanWinUnit farea fw) false s → fanWordBad farea fw v s = false →
      does (.fanWinDataAccess party (some v)) (pageAddr fanPg 0x344) fun u => getShd fanPg farea fw u = fanStored farea fw v)
    ∧ (MayWrite party c false s → ow ≠ 3 → moBit c canTxReqOff o s = false →
      does (.moDataAccess party ctl (some v)) (pageAddr c 0x144) fun u => moWord c o ow u = moStored ow v)
    ∧ (MayWrite party lnkPg false s → lnkWin party s = (1, (lnkWin party s).2) → (lnkWin party s).2 < 64 →
      does (.lnkWinDataAccess party (some v)) (pageAddr lnkPg 0x144) fun u => getAct lnkPg 1 (lnkWin party s).2 u = v
        ∧ tabGet (fun _ => (0 : Nat)) u.lnk.cvalTick (lnkWin party s).2 = s.time.tick + 1)
    ∧ (MayWrite party nvsPg false s → nvWritable (nvsOffset party s) party s = true →
      does (.nvsDataAccess party (some v) false) (pageAddr nvsPg 0x104) fun u => rdWord u (nvBase + nvsOffset party s) = v)
    ∧ (MayWrite party fltPg false s → bitsOf v 2 0 ≤ 4 → bitsOf (sevWritten k s) 10 8 ≤ bitsOf v 2 0 →
      (bitsOf (sevWritten k s) 11 11 = 1 → bitsOf v 7 7 = 1) →
      does (.sevDataWrite party v) (pageAddr fltPg 0x164) fun u => bitsOf (sevWritten k u) 2 0 = bitsOf v 2 0
        ∧ bitsOf (sevWritten k u) 7 4 = bitsOf v 7 4 ∧ bitsOf (sevWritten k u) 11 8 = bitsOf (sevWritten k s) 11 8)
    ∧ (partyBarred party none s = false → off.toNat % 4 = 0 → off.toNat < 0x18000 → engWinPermits e.val off.toNat party s = true →
      does (.engineWindowWrite party e off v) x fun u => rdWord u (engWinAddr e.val off.toNat s) = v
        ∧ ∀ b, b < engWinAddr e.val off.toNat s ∨ engWinAddr e.val off.toNat s + 4 ≤ b → rdByte u b = rdByte s b)
    ∧ (partyBarred party none s = false → colMode (loc.val / 2048) s = 0 → unitOwns ldgPg (loc.val / 2048) party s = true →
      locked ldgPg s = false ∨ party = .sup → parcelOk s loc.val = true → v ≠ 0 →
      does (.parcelWindowWrite party loc 0 v) sl fun u => (parcelAt u loc.val).vol = v.toNat)

/-! ### Sense and moisture (chapters 4 and 5) -/

/-- R73, R79, R82, R95, R98, R108, R128, R132, R136: what the sense pages' engines do: frames take the reference and cold-junction readings
of the banks, ended conversions form results, results land with their stamp, tone windows begin anew, and clamps, repeater
edges and their readbacks are noted: a rising edge begins a period, with which a waiting value takes effect. -/
def Obligations.Sense_Engines_Act_On_Their_Channels : Prop :=
  ∀ (sp : Fin 3) (inp : SenseIn) (bank : Fin 6) (pin : Fin 16) (out : Fin 4) (agrees : Bool) (s : State), Awake s →
    let p := snsPageOf sp
    let l := bank.val % 2
    let bp := 0x10 + bank.val / 2
    let bk := snsBank s bank.val
    Does (.senseFrame sp inp) s (fun u => Outside [0, p] s u ∧ ((∀ x ∈ inp.slices, x.parity = false) → Outside [p] s u)
        ∧ (snsOn p s = true → ∀ i < 2, (snsBank u (2 * sp.val + i)).refUv = nthI inp.refUv i
          ∧ (snsBank u (2 * sp.val + i)).cj = (nthI inp.cj i :: (snsBank s (2 * sp.val + i)).cj).take 64)
        ∧ (snsOn p s = false → u.sns = s.sns ∧ RegsBut [] s u))
    ∧ Does (.senseConversionEnd sp) s (fun u => Outside [p] s u
        ∧ (∀ i < 16, chOn (16 * sp.val + i) s = true → endsAt (16 * sp.val + i) (nextTick s) s = true →
            ∃ x ∈ u.sns.land, x.ch = 16 * sp.val + i ∧ x.pt = pointNow (16 * sp.val + i) s)
        ∧ ((∀ i < 16, chOn (16 * sp.val + i) s = false ∨ endsAt (16 * sp.val + i) (nextTick s) s = false) → u.sns = s.sns))
    ∧ Does (.clampDetect bank pin) s (fun u => Outside [bp] s u
        ∧ (snsBank u bank.val).clampEp = true ∧ (snsBank u bank.val).clampTick = s.time.ticks
        ∧ (rdReg u (pageAddr bp (0x250 + 0x20 * l))).getLsbD pin.val = true
        ∧ (bk.clampEp = false → Sent bp 0xFF kSnsClamp bank.val s u ∧ irq bp 16 u = true))
    ∧ Does (.muxDwellEnd bank) s (fun u => RegsBut [pageAddr bp (0x24C + 0x20 * l)] s u
        ∧ (bk.seq = true → bk.pos + 1 = dwellLen bank.val s →
            getW SNS.BK_STAT_MXS bp l u = (nextPoint (getF SNS.BK_PTS_MASK bp l s) bk.point).1 % 16)
        ∧ (bk.seq = false ∨ bk.pos + 1 ≠ dwellLen bank.val s → RegsBut [] s u))
    ∧ Does .resultLanding s (fun u => u.sns.land = [] ∧ u.sns.due = [] ∧ u.sns.missed = [] ∧ u.sns.lost = []
        ∧ (s.sns.due = [] → s.sns.missed = [] → u.sns.recs = s.sns.recs)
        ∧ ∀ x c q, s.sns.due = [(c, q)] → s.sns.missed = [] → s.sns.land.find? (fun x => decide (x.ch = c ∧ x.pt = q)) = some x → x.ok = true →
            s.sns.lost.contains (c * 16 + q) = false → (snsRec u (c * 16 + q)).value = x.value ∧ (snsRec u (c * 16 + q)).status = x.status
              ∧ (snsRec u (c * 16 + q)).tick = some s.time.tick)
    ∧ Does (.toneWindowEnd sp) s (fun u => Outside [p] s u ∧
        let open_ := gridTick s % 2048 = 0 ∧ tabGet (fun _ => 0) s.sns.toneDone p ≠ s.time.ticks + 1
        (open_ → tabGet (fun _ => 0) u.sns.toneDone p = s.time.ticks + 1
          ∧ ∀ i < 16, ∀ q < 16,
              (snsLoc u ((16 * sp.val + i) * 16 + q)).numE = 0 ∧ (snsLoc u ((16 * sp.val + i) * 16 + q)).numO = 0)
        ∧ (¬ open_ → u = clearReports s))
    ∧ Does (.rptEdgeCheck out agrees) s fun u => let r := rptOut s out.val
        (rptOut u out.val).miss = (if agrees then 0 else r.miss + 1) ∧ (rptOut u out.val).level = (r.start.isSome && !r.level)
        ∧ (∀ v fb, r.next = some (v, fb) → r.start.isSome = true → r.level = false → (rptOut u out.val).next = none
            ∧ getW RPT.OUT_STAT_OUT 0x38 out.val u = min v 16777215 ∧ getW RPT.OUT_STAT_FB 0x38 out.val u = b2n fb)
        ∧ (r.level = true → rptDue out.val s = none → (rptOut u out.val).next = r.next ∧ RegsBut [fldAddr RPT.OUT_STAT_RB_ERR 0x38 out.val] s u)
        ∧ (∀ n, n ≠ out.val → rptOut u n = rptOut s n)
        ∧ (agrees = false → (rptOut s out.val).miss = 2 → Sent 0x38 1 kRptReadback out.val s u)

/-- R90, R98, R102: commands of a party to the sense pages. A RANGE write asks for the range at once; SEQ_RESTART restarts the sequencers
of a page's banks in mux mode, and is refused where neither is. -/
def Obligations.Sense_Commands_Act_On_Their_Page : Prop :=
  ∀ (party : Party) (ch : Fin 48) (range : BitVec 4) (sp : Fin 3) (s : State), Awake s →
    let c := ch.val
    let i := c % 16
    let p := snsPageOf sp
    (MayWrite party (snsPage c) true s → range.toNat ≤ 10 → getB SNS.CH_CFG_AUTO (snsPage c) i s = false → range.toNat ≠ (snsCh s c).range →
      Does (.rangeWrite party ch range) s fun u => Acked party (pageAddr (snsPage c) (0x104 + 0x10 * i)) u
        ∧ (snsCh u c).req = some (range.toNat, usNow s) ∧ bitsOf (rdReg u (pageAddr (snsPage c) (0x104 + 0x10 * i))) 3 0 = range.toNat
        ∧ (∀ k, k ≠ c → snsCh u k = snsCh s k) ∧ Outside [snsPage c] s u)
    ∧ (MayWrite party p true s → CommandBitsZero p 0x08 s → muxEn (2 * sp.val) s = true ∨ muxEn (2 * sp.val + 1) s = true →
      Does (.seqRestart party sp) s fun u => Acked party (pageAddr p 0x08) u ∧ RegsBut [] s u
        ∧ ∀ b, (snsBank u b).restart = if (b = 2 * sp.val ∨ b = 2 * sp.val + 1) ∧ muxEn b s = true then true else (snsBank s b).restart)
    ∧ (MayWrite party p true s → CommandBitsZero p 0x08 s → muxEn (2 * sp.val) s = false → muxEn (2 * sp.val + 1) s = false →
      Does (.seqRestart party sp) s fun u => u.bus.reports = [⟨party, pageAddr p 0x08, .refused⟩] ∧ u.sns = s.sns ∧ RegsBut [] s u)

/-- R141, R143 to R148, R152 to R156: what the moisture block's engines do: complete sweeps are evaluated and published with the tick of the
boundary that ends their period, sweeps that miss the deadline are cut off, and clamps, lost lock and ended calibrations are noted. -/
def Obligations.Moisture_Engines_Act_On_Their_Channels : Prop :=
  ∀ (ch : Fin 8) (points : List CellPoint) (bank : Fin 2) (pin : Fin 12) (s : State), Awake s →
    let c := moiCh s ch.val
    Does .moiPeriodEnd s (fun u => ∀ r, periodEnded s ch.val = true → c.result = some r → c.lost = false →
        (moiCh u ch.val).recd.words = r.words ∧ (moiCh u ch.val).recd.status = r.status ∧ (moiCh u ch.val).recd.tick = some s.time.tick)
    ∧ Does (.moiSweepComplete ch points) s (fun u => Outside [moiPg] s u
        ∧ (∀ p, c.per = some p → c.sweep = true → s.moi.unlock = none → points.length = (activePoints p.prog).length →
            (moiCh u ch.val).done = true ∧ (moiCh u ch.val).sweep = false ∧ (moiCh u ch.val).pts = readPoints p.prog (activePoints p.prog) points)
        ∧ (c.sweep = false ∨ c.per = none → u = clearReports s))
    ∧ Does .moiSweepDeadline s (fun u => Outside [moiPg] s u
        ∧ (lastTick s c = true → c.sweep = true → (moiCh u ch.val).sweep = false ∧ (moiCh u ch.val).done = false ∧ (moiCh u ch.val).pts = [])
        ∧ (lastTick s c = false ∨ c.sweep = false → moiCh u ch.val = c))
    ∧ Does .moiEvaluate s (fun u => (lastTick s c = true → c.done = true → c.result = none →
          (moiCh u ch.val).result.isSome = true ∧ (moiCh u ch.val).per = c.per ∧ (moiCh u ch.val).pts = c.pts)
        ∧ (lastTick s c = false ∨ c.done = false ∨ c.result.isSome = true → moiCh u ch.val = c))
    ∧ Does .moiPllUnlock s (fun u => (s.moi.unlock = none → u.moi.unlock = some (usNow s) ∧ getW MOI.PLL_STAT_LOCK moiPg 0 u = 0
          ∧ irq moiPg 19 u = true ∧ Sent moiPg 3 kMoiPllUnlock 0 s u)
        ∧ (s.moi.unlock.isSome = true → u = clearReports s))
    ∧ Does .moiPllRelock s (fun u => u.moi.unlock = none ∧ getW MOI.PLL_STAT_LOCK moiPg 0 u = 1)
    ∧ Does (.moiClampDetect bank pin) s (fun u => Outside [moiPg] s u ∧ tabGet (fun _ => 0) u.moi.clamp bank.val = s.time.ticks + 1
        ∧ (tabGet (fun _ => 0) s.moi.clamp bank.val = 0 → Sent moiPg 6 kMoiClamp bank.val s u ∧ irq moiPg 20 u = true))
    ∧ Does .calEnd s fun u => ((∀ k, s.moi.cal = some k → k.ch < 8) → Outside [moiPg] s u)
        ∧ (∀ k, s.moi.cal = some k → k.sweeps ≠ [] → k.navg ≤ k.sweeps.length → u.moi.cal = none ∧ irq moiPg 16 u = true
          ∧ ((k.sweeps.flatMap id).any (fun r => ptOpen r || ptOver r) = true → getW MOI.CAL_STAT_RESULT moiPg 0 u = 2)
          ∧ ((k.sweeps.flatMap id).any (fun r => ptOpen r || ptOver r) = false → getW MOI.CAL_STAT_RESULT moiPg 0 u ∈ [1, 3]))
        ∧ (∀ k, s.moi.cal = some k → k.sweeps.length < k.navg → u = clearReports s)

/-- R152, R153: a calibration starts on an enabled channel of a running, sound MOI block that has none under way; an abort ends it with
RESULT 4. -/
def Obligations.Calibrations_Start_And_Abort : Prop :=
  ∀ (party : Party) (ch : Fin 8) (navg : BitVec 6) (s : State), Awake s → MayWrite party moiPg true s →
    (navg ≠ 0 → s.moi.cal = none → getB CMN.STAT_SWAP_PEND moiPg 0 s = false → running moiPg s = true →
      getB MOI.CH_CFG_EN moiPg ch.val s = true → moiBroken false s = none →
      Does (.calStart party ch navg) s fun u => Acked party (pageAddr moiPg 0x300) u ∧ u.moi.cal = some ⟨ch.val, navg.toNat, false, []⟩
        ∧ getW MOI.CAL_STAT_BUSY moiPg 0 u = 1 ∧ u.moi.chs = s.moi.chs ∧ Outside [moiPg] s u)
    ∧ Does (.calAbort party) s fun u => Acked party (pageAddr moiPg 0x300) u ∧ u.moi.cal = none
        ∧ ((∀ k, s.moi.cal = some k → k.ch < 8) → Outside [moiPg] s u)
        ∧ (s.moi.cal.isSome = true → getW MOI.CAL_STAT_RESULT moiPg 0 u = 4 ∧ irq moiPg 16 u = true)

/-! ### Loops, profiles, traces and ledgers (chapters 6 to 8) -/

/-- R169 to R173, R182, R195, R199, R200: the loop arrays compute their due slots within the budget and publish them at their deadline, stale where a
slot was not computed; the landing takes the outputs and notes what the destinations show; every running profile generator steps and
publishes position and velocity. -/
def Obligations.Loops_And_Profiles_Compute_And_Publish : Prop :=
  ∀ (corr : List (Fin 64 × Nat)) (pcorr : List (Fin 32 × Nat)) (contenders : List BusReq) (sense : LandSense) (q : Fin 64) (g : Fin 32)
    (s : State), Awake s →
    let x := prfGen s g.val
    Does (.loopArrayPass corr) s (fun u => u.lpa.due = (List.range 64).filter (slotDue s) ∧ u.lpa.used ≤ 10768
        ∧ (slotDue s q.val = false → (lpaSlot u q.val).out = none) ∧ Outside [0x18, 0x19] s u)
    ∧ Does .loopDeadline s (fun u => Outside [0x18, 0x19] s u
        ∧ (∀ v, q.val ∈ s.lpa.due → (lpaSlot s q.val).out = some v → getPub (slotSrc q.val) u = ⟨v, some s.time.tick, false, 0⟩
            ∧ getW LPA.SL_STAT_LATE (lpaPage q.val) (q.val % 32) u = 0)
        ∧ (q.val ∈ s.lpa.due → (lpaSlot s q.val).out = none → getPub (slotSrc q.val) u = { getPub (slotSrc q.val) s with stale := true }
            ∧ getW LPA.SL_STAT_LATE (lpaPage q.val) (q.val % 32) u = 1))
    ∧ (bitAt (landing contenders sense (clearReports s)).pwr.causes 4 = false →
      Does (.landing contenders sense) s fun u => (lpaSlot u q.val).out = none ∧ u.lpa.released = [] ∧ u.lpa.lost = []
        ∧ (∀ k < 8, tabGet (fun _ => (0 : Word)) u.landOut (32 + k) =
            if limiting aouPg k u && !switchedOff aouPg k u then (getPub (rbSrc k) u).value else (aoSt u k).out)
        ∧ (∀ j < 24, (doSt u j).per = 0 → tabGet (fun _ => (0 : Word)) u.landOut (96 + j) = if (doSt u j).out then ofI pct100 else 0))
    ∧ Does (.profileStep pcorr) s (fun u => Outside [prfPg] s u
        ∧ (genDue s g.val = true → (prfGen u g.val).due = true ∧ (pcorr = [] → (prfGen u g.val).done = true ∧ (prfGen u g.val).init = false))
        ∧ (genDue s g.val = false → (prfGen u g.val).due = false ∧ (prfGen u g.val).p = x.p ∧ (prfGen u g.val).v = x.v))
    ∧ Does .profileDeadline s fun u => Outside [prfPg] s u
        ∧ (x.due = true → x.done = true → getPub (prfSrc 0 g.val) u = ⟨f48Word x.p, some s.time.tick, false, 0⟩
            ∧ getPub (prfSrc 1 g.val) u = ⟨f48Word x.v, some s.time.tick, false, 0⟩)
        ∧ (x.due = true → x.done = false → (getPub (prfSrc 0 g.val) u).stale = true ∧ getW PRF.PG_STAT_LATE prfPg g.val u = 1)

/-- R173, R212, R214, R215: a trace unit samples at its instants alone and follows its commands: an armed unit fills from no samples, a
forced one triggers at its next sample, and an abort returns it to IDLE. CLR of LOADMAX asks for the maximum to begin anew. -/
def Obligations.Traces_Follow_Their_Commands : Prop :=
  ∀ (party : Party) (page : Fin 2) (n : Fin 4) (ph : Fin 125) (s : State), Awake s →
    let a := pageAddr trcPg (0x124 + 0x40 * n.val)
    let x := trcUnit s n.val
    let st := atPhase ph.val (phaseLen s ph.val - 1) s
    Does (.traceSample ph) s (fun u => Outside [trcPg] s u ∧ (ph.val < s.time.phase → u = clearReports s)
        ∧ (s.time.phase ≤ ph.val → u.time = st.time
          ∧ (samplesNow ph.val st n.val = true → (trcUnit u n.val).last = usNow st * 512 + st.time.cycle + 1 ∧ (trcUnit u n.val).nc = x.nc
              ∧ (x.nc ≠ 0 → (trcUnit u n.val).prev = some (unitNode n.val 0 st)))
          ∧ (samplesNow ph.val st n.val = false → trcUnit u n.val = x)))
    ∧ (MayWrite party trcPg true s →
      (trcQuiet n.val s = true → Does (.traceArm party n) s fun u => Acked party a u ∧ (trcUnit u n.val).samples = []
        ∧ (trcUnit u n.val).force = false ∧ (trcUnit u n.val).state = (if getF TRC.U_PRE_PRE trcPg n.val s = 0 then 2 else 1)
        ∧ (∀ k, k ≠ n.val → trcUnit u k = trcUnit s k))
      ∧ (trcQuiet n.val s = false → Does (.traceArm party n) s fun u => u.bus.reports = [⟨party, a, .refused⟩] ∧ u.trc = s.trc ∧ RegsBut [] s u)
      ∧ (x.state = 1 ∨ x.state = 2 → Does (.traceForce party n) s fun u => Acked party a u ∧ RegsBut [] s u
        ∧ trcUnit u n.val = { x with force := true } ∧ (∀ k, k ≠ n.val → trcUnit u k = trcUnit s k))
      ∧ (x.state ≠ 1 ∧ x.state ≠ 2 → Does (.traceForce party n) s fun u => u.bus.reports = [⟨party, a, .refused⟩] ∧ u.trc = s.trc)
      ∧ Does (.traceAbort party n) s (fun u => Acked party a u ∧ (trcUnit u n.val).state = 0 ∧ (trcUnit u n.val).samples = []
        ∧ (∀ k, k ≠ n.val → trcUnit u k = trcUnit s k) ∧ Outside [trcPg] s u))
    ∧ (MayWrite party (0x18 + page.val) false s → Does (.loadmaxClr party page) s fun u =>
        Acked party (pageAddr (0x18 + page.val) 0x384) u ∧ u.lpa = { s.lpa with clr := true } ∧ RegsBut [] s u)

/-- R226, R227, R236, R248, R249, R251: the ledger takes the meter counts, samples once an instant, evaluates a pass, ends intervals with their
records, and follows the commands of its columns. -/
def Obligations.Ledger_Columns_Advance_And_Obey : Prop :=
  ∀ (party : Party) (col : Fin 4) (s : State), Awake s →
    let c := col.val
    let a := pageAddr ldgPg (0x104 + 0x40 * c)
    let x := ldgCol s c
    let now := (getPub (cntSrc (bitsOf (colWord c 6 s) 18 16)) s).value.toNat
    let due := s.time.tick % 512 = 0 ∧ s.ldg.sampled ≠ s.time.ticks + 1
    let nlt := bitsOf (colWord c 11 s) 31 16
    let ends := s.time.tick % 8192 = 0 ∧ nlt ≠ 0 ∧ s.time.tick / 8192 % nlt = 0 ∧ x.handed ≠ s.time.ticks + 1
    Does .ledgerAdvance s (fun u => Outside [ldgPg] s u
        ∧ (running ldgPg s = true → colMode c s = 1 → meterFit c s = true → (ldgCol u c).count = some now)
        ∧ (running ldgPg s = true → colMode c s = 1 → meterFit c s = false → getW LDG.COL_STAT_METER_STALE ldgPg c u = 1 ∧ (ldgCol u c).count = x.count
            ∧ (ldgCol u c).q = x.q)
        ∧ (running ldgPg s = false ∨ colMode c s ≠ 1 → ldgCol u c = x))
    ∧ Does .ledgerSample s (fun u => (due → u.ldg.sampled = s.time.ticks + 1 ∧ (colOn c s = true → (ldgCol u c).refNum = x.refNum + 1)
          ∧ (colOn c s = false → ldgCol u c = x)) ∧ (¬ due → u.ldg = s.ldg ∧ RegsBut [] s u))
    ∧ Does .ledgerPassComplete s (fun u => RegsBut [] s u ∧ u.ldg.parcels = s.ldg.parcels
        ∧ (∀ p, s.ldg.pass = some p → u.ldg.pass = some { p with results := some (passResults p.snaps 8192) })
        ∧ (s.ldg.pass = none → u = clearReports s))
    ∧ Does (.ledgerIntervalEnd col) s (fun u => (ends → ldgCol u c = { x with sums := LdgSums.empty, handed := s.time.ticks + 1 } ∧ irq ldgPg 21 u = true
          ∧ (u.recd.inbox.drop s.recd.inbox.length).map RecReq.kind = [0x10, 0x11]) ∧ (¬ ends → u = clearReports s))
    ∧ (MayWriteUnit party ldgPg c true s →
      (colMode c s = 0 → getW LDG.COL_CTRL_MODE ldgPg c s = 0 → (colWord c 1 s).toNat ≠ 0 →
          parcelCount (colWord c 2 s).toNat (colWord c 1 s).toNat ≤ 2047 →
        Does (.ledgerInit party col) s fun u => Acked party a u ∧ Outside [ldgPg] s u
          ∧ getW LDG.COL_PTR_HEAD ldgPg c u = parcelCount (colWord c 2 s).toNat (colWord c 1 s).toNat
          ∧ getW LDG.COL_PTR_BOT ldgPg c u = 0 ∧ getW LDG.COL_TAIL_TAIL ldgPg c u = 0
          ∧ ∀ i < parcelCount (colWord c 2 s).toNat (colWord c 1 s).toNat,
              (parcelAt u (c * 2048 + i)).minM = (colWord c 17 s).toInt ∧ (parcelAt u (c * 2048 + i)).tin = (colWord c 18 s).toInt)
      ∧ Does (.ledgerClearBias party col) s (fun u => Acked party a u ∧ RegsBut [] s u ∧ ldgCol u c = { x with biasClr := true })
      ∧ (colMode c s = 2 → Does (.ledgerBatchEnd party col) s fun u => Acked party a u ∧ RegsBut [] s u ∧ u.ldg.cols = s.ldg.cols
        ∧ u.ldg.pass = s.ldg.pass ∧ (u.recd.inbox.drop s.recd.inbox.length).map RecReq.kind = [0x13]
        ∧ ((∀ i < 64, parcelOk s (c * 2048 + i) = true) → u.ldg = s.ldg))
      ∧ (colMode c s ≠ 2 → Does (.ledgerBatchEnd party col) s fun u => u.bus.reports = [⟨party, a, .refused⟩] ∧ RegsBut [] s u ∧ u.ldg = s.ldg))

/-! ### Engine pages and valve legs (chapters 9 and 10) -/

/-- R269, R273, R280, R285: commands of the engine pages. A posted write is judged and its outcome queued; a sound swap request is
pending and an unsound one refused with its cause; the image check confirms a request or cancels it with cause 5; a probation that
times out or is aborted fails with its cause; CLR asks for the maxima to begin anew. -/
def Obligations.Engine_Pages_Obey_Their_Commands : Prop :=
  ∀ (party : Party) (eng : Fin 16) (dataClr : Bool) (rivals : List BusReq) (s : State), Awake s →
    let e := eng.val
    let p := engPg e
    let x := engSt s e
    let cause := engSwapCause e dataClr s
    (x.posts = [] → Does (.postedWriteOutcome eng rivals) s fun u => u = clearReports s)
    ∧ (∀ q rest, x.posts = q :: rest →
      let w := contestedWrite ⟨.eng eng, q.addr, q.data⟩ rivals (putEng e { x with posts := rest } (clearReports s))
      bitAt w.2.pwr.causes 4 = false → Does (.postedWriteOutcome eng rivals) s fun u => (engSt u e).posts = (engSt w.2 e).posts
        ∧ (engSt u e).outs = (engSt w.2 e).outs ++ [ofN (q.addr / 4 * 4 * 256 + b2n q.old * 512 + 256 + w.1.code)])
    ∧ (MayWrite party p false s → CommandBitsZero p 0x08 s → doubleBuffered p s = true → x.req = none →
      (cause = 0 → Does (.engSwapReq party eng dataClr) s fun u => Acked party (pageAddr p 0x08) u ∧ getW CMN.STAT_SWAP_PEND p 0 u = 1
        ∧ (engSt u e).req = some ⟨s.time.ticks + (if s.time.phase ≤ 113 then 1 else 2), dataClr, getF ENG.PROB_PROB_LEN p 0 s, false⟩)
      ∧ (cause ≠ 0 → Does (.engSwapReq party eng dataClr) s fun u => u.bus.reports = [⟨party, pageAddr p 0x08, .refused⟩]
        ∧ getW ENG.SWAP_CHK_VALID p 0 u = 1 ∧ getW ENG.SWAP_CHK_CAUSE p 0 u = cause % 16 ∧ u.eng = s.eng))
    ∧ Does (.engImageCrcCheck eng) s (fun u => Outside [p] s u ∧ (x.req = none → u = clearReports s)
        ∧ ∀ r, x.req = some r → r.checked = false →
          (imgCrcOk (shadowBank e s) s = true → (engSt u e).req = some { r with checked := true } ∧ RegsBut [] s u)
          ∧ (imgCrcOk (shadowBank e s) s = false → (engSt u e).req = none ∧ getW ENG.SWAP_CHK_CAUSE p 0 u = 5
              ∧ getW CMN.STAT_SWAP_PEND p 0 u = 0 ∧ irq p 16 u = true))
    ∧ Does (.probationTimeout eng) s (fun u => (x.prob = none → u = clearReports s)
        ∧ ∀ q, x.prob = some q → (s.time.ticks < (q.start + q.len) / 125 → u = clearReports s)
          ∧ ((q.start + q.len) / 125 ≤ s.time.ticks → (engSt u e).prob = none ∧ getW ENG.PROB_CAUSE p 0 u = 1
              ∧ Sent p 0xFF kEngProbationFail 1 s u))
    ∧ (MayWrite party p false s → CommandBitsZero p 0x08 s → Does (.probAbort party eng) s fun u => Acked party (pageAddr p 0x08) u
        ∧ (engSt u e).prob = none ∧ ∀ q, x.prob = some q → (engSt u e).ret = some q.dataClr ∧ getW ENG.PROB_CAUSE p 0 u = 5
          ∧ Sent p 0xFF kEngProbationFail 5 s u)
    ∧ (MayWrite party p false s → Does (.cycClr party eng) s fun u => Acked party (pageAddr p 0x118) u ∧ RegsBut [] s u
        ∧ engSt u e = { x with clr := true } ∧ ∀ k, k ≠ e → engSt u k = engSt s k)

/-- R296, R297, R308 to R311, R315: commands to the valve legs. A leg that can act takes PULSE, ON and OFF to run at the next phase 40, behind
one of the tick before that is still due, a forced one holds them; trips and counters are cleared on command. -/
def Obligations.Valve_Legs_Take_Their_Commands : Prop :=
  ∀ (party : Party) (leg : Fin 16) (pair : Fin 8) (onT : BitVec 24) (amps : List Nat) (s : State), Awake s →
    let l := leg.val
    let p := legPg l
    let i := l % 8
    let a := pageAddr p (0x104 + 0x20 * i)
    let x := legSt s l
    let hp := 0x30 + pair.val / 4
    let k := pair.val % 4
    let only (u : State) : Prop := ∀ j, j ≠ l → legSt u j = legSt s j
    let takes (c : Instr) (op t : Nat) : Prop :=
      (legForced l s = false → Does c s fun u => Acked party a u ∧ only u ∧ Outside [p] s u
        ∧ legSt u l = if (∃ c, x.cmd = some c ∧ c.at_ < s.time.ticks) then { x with next := some ⟨op, t, s.time.ticks⟩ }
            else { x with cmd := some ⟨op, t, s.time.ticks⟩ })
      ∧ (legForced l s = true → Does c s fun u => u.bus.reports = [⟨party, a, .held⟩] ∧ u.drv = s.drv ∧ RegsBut [] s u)
    (MayWriteUnit party p i true s →
      Does (.vlvNop party leg) s (fun u => Acked party a u ∧ u.drv = s.drv ∧ RegsBut [] s u)
      ∧ (stopped p s = false → legF VLV.LG_CTRL_EN l s ≠ 0 →
          (onT ≠ 0 → takes (.vlvPulse party leg onT) 1 onT.toNat) ∧ takes (.vlvOn party leg) 2 0 ∧ takes (.vlvOff party leg) 3 0)
      ∧ (stopped p s = true ∨ legF VLV.LG_CTRL_EN l s = 0 → Does (.vlvOn party leg) s fun u =>
          u.bus.reports = [⟨party, a, .refused⟩] ∧ u.drv = s.drv ∧ RegsBut [] s u)
      ∧ (CommandBitsZero p (0x100 + 0x20 * i) s → (hsTripped l s = false → Does (.legTripClr party leg) s fun u =>
            Acked party (pageAddr p (0x100 + 0x20 * i)) u ∧ legSt u l = { x with tripClr := true } ∧ only u ∧ RegsBut [] s u)
          ∧ Does (.legCntClr party leg) s (fun u => Acked party (pageAddr p (0x100 + 0x20 * i)) u ∧ rdReg u (pageAddr p (0x230 + 4 * i)) = 0
            ∧ u.drv = s.drv ∧ RegsBut [pageAddr p (0x230 + 4 * i)] s u)))
    ∧ (MayWrite party hp true s → CommandBitsZero hp (0x200 + 8 * k) s →
        pairCause (getW VLV.PR_CFG_OVL hp k s) (bitsOf (curWord hp s (2 * k)) 25 16) (bitsOf (curWord hp s (2 * k)) 9 0)
          (bitsOf (curWord hp s (2 * k + 1)) 25 16) (bitsOf (curWord hp s (2 * k + 1)) 9 0) = 0 →
        Does (.hsClr party pair) s fun u => Acked party (pageAddr hp (0x200 + 8 * k)) u ∧ RegsBut [] s u
          ∧ u.drv = { s.drv with hsClr := pair.val :: s.drv.hsClr })
    ∧ Does (.commandStart amps) s fun u => Outside [0x30, 0x31] s u ∧ (legSt u l).cmd = (if (dueCmd s l).isSome then x.next else x.cmd)
        ∧ ∀ c, dueCmd s l = some c → dueCmd s (partnerOf l) = none → x.ownOff = false → x.dutyOff = false → legSafe l s = false →
            legF VLV.LG_STAT_DUTY_EP l s = 0 → x.wait = none →
          (c.op = 2 → x.st = 0 → pairF VLV.PR_CFG_OVL l s = 2 → (legSt u l).st = 1 ∧ (legSt u l).endAt = none)
          ∧ (c.op = 3 → inProfile x = true → x.endAt = none → (legSt u l).st = 3)

/-- R293, R298, R300 to R303, R308, R309, R322: what happens in a leg and its pair: REACH begins chopping, the pull ends in HOLD, the profile in
OFF and the decay in IDLE, waiting pulls start or expire, overcurrents trip, and a lost bridge forces the outputs. -/
def Obligations.Valve_Legs_Run_Their_Profile : Prop :=
  ∀ (leg : Fin 16) (pair : Fin 8) (t imax imin amp partnerAmp : Nat) (s : State), Awake s →
    let l := leg.val
    let p := legPg l
    let i := l % 8
    let x := legSt s l
    let k := pair.val
    let reached (us : Nat) : Prop := us / 125 ≤ s.time.ticks
    let does (c : Instr) (f : State → Prop) : Prop := Does c s fun u => Outside [p] s u ∧ (∀ j, j ≠ l → j ≠ partnerOf l → legSt u j = legSt s j) ∧ f u
    let idle (u : State) : Prop := u = clearReports s
    let th := legF VLV.LG_TIME_DIP_TH l s
    let target := if x.st = 1 then legF VLV.LG_CUR_I_PULL l s else legF VLV.LG_CUR_I_HOLD l s
    let delay := pairF VLV.PR_CFG_DMAX l s
    does (.reach leg) (fun u => (x.st = 1 ∧ x.chop = false → (legSt u l).chop = true ∧ (legSt u l).st = 1 ∧ getW VLV.LG_STAT_REACH p i u = 1)
      ∧ (¬ (x.st = 1 ∧ x.chop = false) → idle u))
    ∧ does (.armatureDip leg t imax imin amp) (fun u => let dips := x.st = 1 ∧ x.ramp = true ∧ imin + th ≤ imax ∧ imin + th ≤ amp
      (dips → legSt u l = { x with ramp := false } ∧ getW VLV.LG_MOVE_MSTAT p i u = 1 ∧ getW VLV.LG_MOVE_MOVE_T p i u = min t 65535
        ∧ getW VLV.LG_MOVE_MOVE_I p i u = min imin 1023) ∧ (¬ dips → idle u))
    ∧ does (.pullEnd leg) (fun u => x.st = 1 → (∀ e, x.endAt = some e → x.pullEnd < e) → reached x.pullEnd →
        (legSt u l).st = 2 ∧ (legSt u l).chop = false ∧ (legSt u l).endAt = x.endAt)
    ∧ does (.holdLevelReached leg) (fun u => (x.st = 2 ∧ x.chop = false → (legSt u l).chop = true ∧ (legSt u l).st = 2)
      ∧ (¬ (x.st = 2 ∧ x.chop = false) → idle u))
    ∧ does (.profileEnd leg) (fun u => ∀ e, x.endAt = some e → inProfile x = true → reached e → (legSt u l).st = 3 ∧ (legSt u l).chop = false)
    ∧ does (.decayEnd leg) (fun u => (x.st = 3 → legSt u l = { x with st := 0, sw := .idle, decay := none })
      ∧ (x.st = 4 → legSt u l = { x with sw := .idle, decay := none }) ∧ (x.st ≠ 3 ∧ x.st ≠ 4 → idle u))
    ∧ does (.waitingPullStart leg amp partnerAmp) (fun u => ∀ c, x.wait = some c → pullPermitted l partnerAmp s = true →
        (pairF VLV.PR_CFG_OVL l s ≠ 1 ∨ usNow s < c.at_ + delay) → legSafe l s = false → legF VLV.LG_STAT_DUTY_EP l s = 0 →
        (legSt u l).st = 1 ∧ (legSt u l).wait = none ∧ (legSt u l).start = usNow s)
    ∧ does (.delayExpire leg) (fun u => ∀ c, x.wait = some c → pairF VLV.PR_CFG_OVL l s = 1 →
        reached (c.at_ + delay) → legSt u l = { x with wait := none } ∧ getW VLV.LG_STAT_BLOCKED p i u = 1 ∧ getW VLV.LG_STAT_DLY_EXP p i u = 1)
    ∧ does (.legOvercurrent leg) (fun u => (x.sw = .on → (legSt u l).st = 4 ∧ getW VLV.LG_STAT_TRIP p i u = 1
        ∧ (epActive p kVlvOvercurrent l s = false → Sent p 1 kVlvOvercurrent l s u)) ∧ (x.sw ≠ .on → idle u))
    ∧ Does (.hsOvercurrent pair) s (fun u => (hsOn (2 * k) s = true → (legSt u (2 * k)).st = 4 ∧ (legSt u (2 * k + 1)).st = 4
        ∧ getW VLV.PR_STAT_HS_TRIP (0x30 + k / 4) (k % 4) u = 1
        ∧ (epActive (0x30 + k / 4) kVlvOvercurrent (0x10 + k) s = false → Sent (0x30 + k / 4) 2 kVlvOvercurrent (0x10 + k) s u))
        ∧ (hsOn (2 * k) s = false → idle u))
    ∧ does (.chopPeriodStart leg amp) (fun u => inProfile x = true → x.chop = true → hsTripped l s = false →
        (amp < target → legSt u l = { x with sw := .on, decay := none }) ∧ (target ≤ amp → idle u))
    ∧ does (.chopTargetReached leg) (fun u => inProfile x = true → x.chop = true → x.sw = .on → (legSt u l).sw ≠ .on ∧ (legSt u l).decay.isSome = true
        ∧ (legSt u l).st = x.st)
    ∧ does (.mixedFastEnd leg) (fun u => ∀ us b, x.decay = some (2, us, b) → x.sw = .fast ∨ x.sw = .clamp → reached (us + legF VLV.LG_DECAY_MIXT l s) →
        legSt u l = { x with sw := .slow })
    ∧ Does .bridgeLoss s (fun u => RegsBut [] s u ∧ (s.drv.loss.isSome = true → idle u)
        ∧ (s.drv.loss = none → ∃ addr, u.drv = { s.drv with loss := some addr } ∧ (epActive 0 kDevBridgeLoss addr s = false → Sent 0 4 kDevBridgeLoss addr s u)))
    ∧ Does .bridgeLossEnd s fun u => Outside [] s u ∧ u.drv = { s.drv with loss := none }

/-! ### Fans, inputs and outputs (chapters 11 and 12) -/

/-- R327, R329 to R332: a fan's tachometer, kick, back-off, doubt and trip move it between its states and report it. -/
def Obligations.Fans_Follow_Their_Events : Prop :=
  ∀ (party : Party) (fan : Fin 12) (period : Option Nat) (amp : Nat) (thermal : Bool) (s : State), Awake s →
    let n := fan.val
    let x := fanSt s n
    let idle (u : State) : Prop := u = clearReports s
    let reached (us : Nat) : Prop := us / 125 ≤ s.time.ticks
    let does (c : Instr) (f : State → Prop) : Prop := Does c s fun u => Outside [fanPg] s u ∧ (∀ k, k ≠ n → fanSt u k = fanSt s k) ∧ f u
    let said (inst kind : Nat) (u : State) : Prop := Sent fanPg inst kind n s u
    let a := pageAddr fanPg (0x100 + 0x20 * n)
    does (.tachEdge fan period) (fun u => fanSt u n = { x with tp := period, edge := usNow s } ∧ RegsBut [] s u)
    ∧ does (.kickTimeout fan) (fun u => (x.st ≠ 1 → idle u)
        ∧ (x.st = 1 → reached x.due → 3 ≤ x.retry → (fanSt u n).st = 4 ∧ (fanSt u n).out = 0 ∧ said 2 kFanStallLockout u)
        ∧ (x.st = 1 → reached x.due → x.retry < 3 → (fanSt u n).st = 3 ∧ (fanSt u n).out = 0 ∧ (fanSt u n).retry = x.retry
            ∧ (x.told = false → said 2 kFanStallStart u)))
    ∧ does (.backoffEnd fan) (fun u => (x.st ≠ 3 → idle u) ∧ (x.st = 3 → reached x.due →
        ((fanSt u n).st = 0 ∧ (fanSt u n).pend = true)
        ∨ ((fanSt u n).st = 1 ∧ (fanSt u n).out = 1000 ∧ (fanSt u n).pend = false ∧ (fanSt u n).retry = x.retry + 1)
        ∨ ((fanSt u n).st = 2 ∧ (fanSt u n).pend = false ∧ (fanSt u n).retry = 0)))
    ∧ does (.tachDoubt fan amp) (fun u => (x.doubt = none → idle u) ∧ ∀ t, x.doubt = some t →
        (s.time.ticks < t + 8192 → idle u)
        ∧ (t + 8192 ≤ s.time.ticks → fanEvidence n amp s = false → (fanSt u n).st = 3 ∧ (fanSt u n).out = 0 ∧ said 2 kFanStall u)
        ∧ (t + 8192 ≤ s.time.ticks → fanEvidence n amp s = true → x.st = 2 → (fanSt u n).st = 6 ∧ said 2 kFanTachLost u)
        ∧ (t + 8192 ≤ s.time.ticks → fanEvidence n amp s = true → x.st ≠ 2 → fanSt u n = { x with doubt := some s.time.ticks }))
    ∧ does (.fanTrip fan thermal) (fun u => (x.st = 5 → idle u)
        ∧ (x.st ≠ 5 → (fanSt u n).st = 5 ∧ (fanSt u n).out = 0 ∧ irq fanPg 16 u = true ∧ said (if thermal then 0xFF else 1) kFanOutput u))
    ∧ (MayWriteUnit party fanPg n true s → CommandBitsZero fanPg (0x100 + 0x20 * n) s →
        does (.stallClr party fan) (fun u => Acked party a u ∧ fanSt u n = { x with stallClr := true } ∧ RegsBut [] s u)
        ∧ does (.fanTripClr party fan) (fun u => Acked party a u ∧ fanSt u n = { x with tripClr := true } ∧ RegsBut [] s u))

/-- R334 to R336: inputs and counters: a raw change shows at once and starts the debounce window, whose end takes it over; a filtered
edge counts; and a rate is published at its gate, or stale where its word was lost on the bridge. -/
def Obligations.Inputs_And_Counters_Follow_Their_Levels : Prop :=
  ∀ (input : Fin 32) (counter : Fin 8) (level rising : Bool) (held : Nat) (s : State), Awake s →
    let j := input.val
    let v := level != getB DIN.IN_CFG_INV dinPg j s
    let deb := getF DIN.IN_CFG_DEB dinPg j s
    let c := counter.val
    let x := cntSt s c
    let e := getF DIN.CNT_CFG_EDGE dinPg c s
    let edge := getF DIN.CNT_CFG_CFILT dinPg c s ≤ held ∧ x.level ≠ rising
    let counts := running dinPg s = true ∧ (e = 2 ∨ (e = 0 ∧ rising = true) ∨ (e = 1 ∧ rising = false))
    let gate := getF DIN.CNT_CFG_GATE dinPg c s
    let opens := s.time.tick % 2 ^ gate = 0 ∧ running dinPg s = true
    Does (.diChange input level) s (fun u => Outside [dinPg] s u ∧ dinRaw j u = v
        ∧ (dinRaw j s ≠ v → running dinPg s = true → (deb = 0 → dinState j u = v) ∧ (deb ≠ 0 → debEnd u j = usNow s + deb)))
    ∧ Does (.debounceEnd input) s (fun u => Outside [dinPg] s u ∧ (debEnd s j = 0 ∨ running dinPg s = false → u = clearReports s)
        ∧ (debEnd s j ≠ 0 → running dinPg s = true → debEnd s j / 125 ≤ s.time.ticks → dinState j u = dinRaw j s ∧ debEnd u j = 0))
    ∧ Does (.counterEdge counter rising held) s (fun u => RegsBut [] s u ∧ (¬ edge → u = clearReports s) ∧ (∀ k, k ≠ c → cntSt u k = cntSt s k)
        ∧ (edge → (cntSt u c).level = rising ∧ (counts → (cntSt u c).count = (x.count + 1) % 2 ^ 32) ∧ (¬ counts → (cntSt u c).count = x.count)))
    ∧ Does (.diRateGate counter) s fun u => RegsBut [] s u ∧ (¬ opens → u = clearReports s)
        ∧ (opens → x.rateLost = true → getPub (rateSrc c) u = { getPub (rateSrc c) s with stale := true })
        ∧ (opens → x.rateLost = false → getPub (rateSrc c) u = ⟨ofI (sat32 (divAway
            (((x.gate1 + 4294967296 - x.gate0) % 4294967296 * 8000 * 65536 : Nat) : Int) (x.span.getD (2 ^ gate)))).1, some s.time.tick, false, 0⟩)

/-- R337 to R341: the outputs: time-proportioning periods, trips and readbacks. -/
def Obligations.Outputs_Run_Their_Periods_And_Trips : Prop :=
  ∀ (party : Party) (ch : Fin 24) (high : Bool) (ms : Nat) (meas : List AoReading) (k : Fin 8) (s : State), Awake s →
    let j := ch.val
    let x := doSt s j
    let idle (u : State) : Prop := u = clearReports s
    let does (c : Instr) (f : State → Prop) : Prop := Does c s fun u => Outside [douPg] s u ∧ (∀ n, n ≠ j → doSt u n = doSt s n) ∧ f u
    let said (inst kind : Nat) (u : State) : Prop := epActive douPg kind j s = false → Sent douPg inst kind j s u
    let starts := x.mode = 2 ∧ running douPg s = true ∧ x.next ≤ s.time.ticks
    let per := getF DOU.CH_CTRL_TPER douPg j s
    let ends := x.mode = 2 ∧ x.tpOn = true ∧ x.start + x.onT ≤ s.time.ticks ∧ x.onT < x.per
    let contrary := x.rbEp = false ∧ ((x.out = false ∧ high = true) ∨ (x.out = true ∧ x.lim = false ∧ high = false))
    let a := pageAddr douPg (0x100 + 8 * j)
    let y := aoSt s k.val
    does (.doPeriodStart ch) (fun u => RegsBut [] s u ∧ (¬ starts → idle u) ∧ (starts → (doSt u j).start = s.time.ticks ∧ (doSt u j).per = per
        ∧ (doSt u j).next = s.time.ticks + per ∧ (doSt u j).onT = (2 * (x.lpin.toInt.toNat * per) + 6553600) / 13107200
        ∧ (doSt u j).tpOn = decide (0 < (doSt u j).onT)))
    ∧ does (.doOntimeEnd ch) (fun u => RegsBut [] s u ∧ (¬ ends → idle u) ∧ (ends → (doSt u j).tpOn = false ∧ (doSt u j).per = x.per))
    ∧ does (.doLimitTrip ch ms) (fun u => let ilt := getF DOU.ILT_ILT douPg 0 s
        (ms < ilt ∨ x.trip = true → idle u) ∧ (ilt ≤ ms → x.trip = false → (doSt u j).trip = true ∧ (doSt u j).therm = false
          ∧ (doSt u j).out = false ∧ said 1 kDouOverload u))
    ∧ does (.doThermalTrip ch) (fun u => (x.trip = true → idle u) ∧ (x.trip = false → (doSt u j).trip = true ∧ (doSt u j).therm = true
          ∧ (doSt u j).out = false ∧ said 2 kDouThermal u))
    ∧ does (.doReadbackEpisode ch high) (fun u => (¬ contrary → idle u) ∧ (contrary → doSt u j = { x with rbEp := true } ∧ said 3 kDouReadback u))
    ∧ does (.doReadbackEnd ch) (fun u => (x.rbEp = false → idle u) ∧ (x.rbEp = true → doSt u j = { x with rbEp := false }))
    ∧ (MayWriteUnit party douPg j true s → CommandBitsZero douPg (0x100 + 8 * j) s →
        does (.douTripClr party ch) (fun u => Acked party a u ∧ doSt u j = { x with tripClr := true } ∧ RegsBut [] s u))
    ∧ Does (.aoReadbackMeasure meas) s fun u => Outside [aouPg] s u ∧ (meas[k.val]? = none → aoSt u k.val = y)
        ∧ ∀ m, meas[k.val]? = some m → (aoSt u k.val).out = y.out
          ∧ (running aouPg s = true → y.mode ≠ 0 → (aoSt u k.val).rb = some m.rb ∧ (y.changed = true → (aoSt u k.val).changed = false))
          ∧ (running aouPg s = false ∨ y.mode = 0 → aoSt u k.val = { y with limit := false, open_ := false })

/-! ### Faults and injections (chapter 12) -/

/-- R348, R357, R358, R364 to R366, R368, R372, R373: the fault collector's commands. Messages of the other dies come with the stamp of their detection; a flashing
fault, SAFE_IN, what the scrub finds and a lockstep difference are sent with page, instance, kind and address; the end of a quiet window recovers its scope
or latches it; the clear sequence clears a latched scope without active episodes; the first-fault register is cleared but for a message
of the same cycle; and an injection ends with its outcome, by the syndrome held
against the one that its checker computes for INV_MASK; a real one also trips its output. The addresses of the flashing, lockstep and time-out messages are not given:
they are some number. -/
def Obligations.Fault_Commands_Report_Recover_And_Clear : Prop :=
  ∀ (msgs : List MsgIn) (present : Bool) (scope : Fin 9) (party : Party) (sc : BitVec 4) (page : PageIx) (seen : Syndrome)
    (checker : Byte) (word : BitVec 16) (found : ScrubResult) (s : State), Awake s →
    let idle (u : State) : Prop := u = clearReports s
    let x := scopeAt s scope.val
    let mine := party.code * 16 + sc.toNat
    let clr := pageAddr fltPg 0x114
    let p := page.val
    let c := getW CMN.FINJ_CHECKER p 0 s
    let inj := [pageAddr p 0x1C, fldAddr FLT.INJ_PAGE fltPg 0, pageAddr fltPg 0x10]
    let shows (outcome : Nat) (u : State) : Prop := getW CMN.FINJ_ARM p 0 u = 0 ∧ getW CMN.FINJ_PASSED p 0 u = b2n (decide (outcome = 1))
      ∧ getW FLT.INJ_OUTCOME fltPg 0 u = outcome ∧ getW FLT.INJ_PAGE fltPg 0 u = p ∧ getW FLT.INJ_CHECKER fltPg 0 u = c
      ∧ irq fltPg 20 u = true
    let concluded (outcome : Nat) (u : State) : Prop := shows outcome u ∧ RegsBut inj s u
    let concludes (shown : Option Shown) (kind addr : Nat) (u : State) : Prop :=
      (shown = none → concluded 3 u ∧ Sent p c kFltCheckerFail (getW CMN.FINJ_INV_MASK p 0 s) s u)
      ∧ (shown.isSome = true → shown = injExpected p s → concluded 1 u ∧ Sent p c kind addr s u)
      ∧ (shown.isSome = true → shown ≠ injExpected p s → shows 2 u ∧ Sent p c kind addr s u
          ∧ (kind = kFanOutput → addr < 12 → (fanSt u addr).st = 5 ∧ (fanSt u addr).out = 0)
          ∧ (kind = kDouOverload ∨ kind = kDouThermal → addr < 24 → (doSt u addr).trip = true))
    let armed := injOpen p s = true ∧ c = checker.toNat
    Does (.faultMessage msgs) s (fun u => RegsBut [] s u ∧ ∀ m ∈ msgs, ∃ x ∈ u.flt.outbox, x.src = m.page * 256 + m.inst ∧ x.kind = m.kind
        ∧ x.addr = m.addr % 65536 ∧ x.us = usNow s ∧ x.phase = (usNow s - m.ago) % 125
        ∧ x.tick = s.time.tick - (s.time.ticks - (usNow s - m.ago) / 125))
    ∧ Does (.flashingFault present) s (fun u => RegsBut [] s u ∧ u.flt.flash = present
        ∧ (present = true → s.flt.flash = false → ∃ addr, Sent 0 0xFF kDevFlashing addr s u) ∧ (present = s.flt.flash → idle u))
    ∧ Does .safeInAssert s (fun u => RegsBut [] s u ∧ u.flt.safeIn = true ∧ (epActive fltPg kFltSafeIn 0 s = false → Sent fltPg 0xFE kFltSafeIn 0 s u))
    ∧ Does .safeInDeassert s (fun u => Outside [] s u ∧ u.flt.safeIn = false ∧ epActive fltPg kFltSafeIn 0 u = false)
    ∧ Does (.quietWindowEnd scope) s (fun u => Outside [] s u
        ∧ (x.quiet = none ∨ x.react = false ∨ x.latched = true → idle u)
        ∧ ∀ a len, x.quiet = some (a, len) → x.react = true → x.latched = false →
          (usNow s < a + len → idle u)
          ∧ (a + len ≤ usNow s → getF FLT.RECOV_REC_LIM fltPg 0 s ≤ recentRecov x (usNow s) + 1 →
              (scopeAt u scope.val).latched = true ∧ (scopeAt u scope.val).react = true ∧ (scopeAt u scope.val).quiet = none ∧ irq fltPg 18 u = true)
          ∧ (a + len ≤ usNow s → recentRecov x (usNow s) + 1 < getF FLT.RECOV_REC_LIM fltPg 0 s →
              (scopeAt u scope.val).react = false ∧ (scopeAt u scope.val).quiet = none ∧ (scopeAt u scope.val).named = []
              ∧ (scopeAt u scope.val).recov = (usNow s :: x.recov).take 15 ∧ (scopeAt u scope.val).total = satN 0xFFFF (x.total + 1) ∧ irq fltPg 19 u = true))
    ∧ (MayWrite party fltPg true s →
        Does (.fltClrFirst party sc) s (fun u => RegsBut [] s u
          ∧ (sc.toNat ≤ 8 ∨ sc.toNat = 15 → Acked party clr u ∧ mine ∈ u.flt.clrSeq)
          ∧ (9 ≤ sc.toNat → sc.toNat ≤ 14 → u.bus.reports = [⟨party, clr, .refused⟩] ∧ mine ∉ u.flt.clrSeq))
        ∧ Does (.fltClrSecond party sc) s (fun u => RegsBut [] s u ∧ mine ∉ u.flt.clrSeq
          ∧ (mine ∉ s.flt.clrSeq ∨ (sc.toNat ≤ 8 ∧ clearable sc.toNat s = false) → u.bus.reports = [⟨party, clr, .refused⟩] ∧ u.flt.scopes = s.flt.scopes)
          ∧ (mine ∈ s.flt.clrSeq → sc.toNat ≤ 8 → clearable sc.toNat s = true → Acked party clr u
              ∧ (scopeAt u sc.toNat).clr = true ∧ (scopeAt u sc.toNat).again = false ∧ ∀ k, k ≠ sc.toNat → scopeAt u k = scopeAt s k))
        ∧ Does (.ffClr party) s (fun u => RegsBut [] s u ∧ Acked party (pageAddr fltPg 0x134) u ∧ u.flt.ff = keptFf (usNow s * 512 + s.time.cycle) s))
    ∧ ((pageKind p).isSome = true →
        Does (.injectionConclude page seen) s (fun u => (injOpen p s = false → idle u) ∧ (injOpen p s = true →
          concludes seen.shown seen.kind seen.addr u))
        ∧ Does (.injectionTimeout page) s (fun u => (getB CMN.FINJ_ARM p 0 s = false ∨ injOpen p s = true → idle u)
          ∧ (getB CMN.FINJ_ARM p 0 s = true → injOpen p s = false → concluded 4 u ∧ ∃ addr, Sent p 0xFF kFltInjTimeout addr s u)))
    ∧ Does (.scrubWordRead page checker word found) s (fun u => (¬ armed → RegsBut [] s u ∧
          match found with
          | .clean => idle u
          | .corrected _ => Sent p checker.toNat kFltEccCorr word.toNat s u
          | .uncorrectable => Sent p checker.toNat kFltEccUncorr word.toNat s u
          | .parity => Sent p checker.toNat kFltCfgParity word.toNat s u)
        ∧ ((pageKind p).isSome = true → armed → concludes ((scrubShown found).map Prod.fst) (((scrubShown found).map Prod.snd).getD 0) word.toNat u))
    ∧ Does .scrubCycleEnd s (fun u => (s.time.ticks < s.flt.scrubStart + 16384 → idle u)
        ∧ (s.flt.scrubStart + 16384 ≤ s.time.ticks → u.flt.scrubStart = s.flt.scrubStart + 16384 ∧ getW FLT.SCRUB_LAST_LEN fltPg 0 u = 256
          ∧ RegsBut [fldAddr FLT.SCRUB_LAST_LEN fltPg 0, fldAddr FLT.SCRUB_CYCLES fltPg 0] s u))
    ∧ Does .lockstepMismatch s (fun u => RegsBut [] s u ∧ ∃ addr, Sent 0 0x03 kDevLockstep addr s u)

/-! ### Recorder, calendar and watch island (chapter 13) -/

/-- R377, R379, R380, R383 to R386, R389, R403: the recorder writes at most one queued record per tick, with the next SEQ and into the slot of its
area, or drops it, and a word that could not be written leaves its slot without a record; an hourly anchor is queued; and REC_CLR, its end and REC_DROP_CLR do what their words say: a
drop of the same cycle stands. -/
def Obligations.Recorder_Writes_Anchors_And_Clears : Prop :=
  ∀ (party : Party) (comm : Bool) (s : State), Awake s →
    let idle (u : State) : Prop := u = clearReports s
    let seq := getW REC.NEXT_SEQ recPg 0 s
    let area := b2n comm
    let mine := party.code * 2 + area
    let clr := pageAddr recPg 0x1C0
    let waits := s.recd.clearing.isSome = true ∨ s.recd.lastWrite = s.time.ticks + 1
    let into (a k : Nat) (r : RecReq) (u : State) : Prop :=
      slotWords a k u = recWords seq (writeSev r s) (decide (a = 1)) (writeBody r s) ∧ getW REC.NEXT_SEQ recPg 0 u = (seq + 1) % 2 ^ 32
        ∧ ∀ b j, b ≤ 1 → (b ≠ a ∨ j ≠ k) → slotWords b j u = slotWords b j s
    (∀ stop : Option NvStop, Does (.recordWrite stop) s (fun u => Outside [recPg] s u ∧ (s.recd.queue = [] ∨ waits → idle u)
        ∧ ∀ r rest, s.recd.queue = r :: rest → ¬ waits → u.recd.queue = rest ∧ u.recd.lastWrite = s.time.ticks + 1
          ∧ ((∀ x, stop = some x → 17 ≤ x.left) → commMode s = true → into 1 (cmsSlot s) r u)
          ∧ ((∀ x, stop = some x → 17 ≤ x.left) → commMode s = false → ∀ k, serviceSlot (writeSev r s) s = some k →
              into 0 k r u ∧ getW REC.STAT_DROP_EP recPg 0 u = 0)
          ∧ (∀ x, stop = some x → x.left < 17 → x.cut = false → commMode s = true → nthW (slotWords 1 (cmsSlot s) u) 15 = 0
              ∧ getW REC.NEXT_SEQ recPg 0 u = seq ∧ Sent 6 0xFF kNvsWriteFail (slotOffset 1 (cmsSlot s) / 256) s u)
          ∧ (∀ x, stop = some x → x.left < 17 → x.cut = false → commMode s = false → ∀ k, serviceSlot (writeSev r s) s = some k →
              nthW (slotWords 0 k u) 15 = 0 ∧ getW REC.NEXT_SEQ recPg 0 u = seq ∧ Sent 6 0xFF kNvsWriteFail (slotOffset 0 k / 256) s u)
          ∧ (commMode s = false → serviceSlot (writeSev r s) s = none → u.recd.svc = s.recd.svc ∧ u.recd.cms = s.recd.cms
              ∧ getW REC.DROP_COUNT recPg (Nat.min 4 (writeSev r s)) u = satN 0xFFFF (getW REC.DROP_COUNT recPg (Nat.min 4 (writeSev r s)) s + 1)
              ∧ getW REC.STAT_DROP_EP recPg 0 u = 1
              ∧ (getB REC.STAT_DROP_EP recPg 0 s = false → Sent recPg 0xFF kRecDropped (writeSev r s) s u))))
    ∧ Does .anchorHourly s (fun u => RegsBut [] s u ∧ (s.clk.secs / 3600 = s.recd.hourly → idle u)
        ∧ (s.clk.secs / 3600 ≠ s.recd.hourly → u.recd.hourly = s.clk.secs / 3600 ∧ ∃ r, u.recd.inbox = s.recd.inbox ++ [r] ∧ r.kind = 1
            ∧ tabGet (fun _ => (0 : Word)) r.body 3 = ofN s.clk.secs ∧ tabGet (fun _ => (0 : Word)) r.body 4 = ofN s.time.tick))
    ∧ (MayWrite party recPg true s →
        Does (.recClrFirst party comm) s (fun u => Acked party clr u ∧ mine ∈ u.recd.clrSeq ∧ RegsBut [] s u)
        ∧ Does (.recClrSecond party comm) s (fun u => mine ∉ u.recd.clrSeq ∧ RegsBut [fldAddr REC.STAT_CLEARING recPg 0] s u
          ∧ (mine ∈ s.recd.clrSeq → s.recd.clearing = none → Acked party clr u ∧ u.recd.clearing = some (area, 0)
              ∧ getW REC.STAT_CLEARING recPg 0 u = 1)
          ∧ (mine ∉ s.recd.clrSeq ∨ s.recd.clearing.isSome = true → u.bus.reports = [⟨party, clr, .refused⟩] ∧ RegsBut [] s u
              ∧ u.recd.clearing = s.recd.clearing)))
    ∧ Does .recClearDone s (fun u => Outside [recPg] s u ∧ (s.recd.clearing = none → idle u) ∧ ∀ a n, s.recd.clearing = some (a, n) →
        (n < areaSize a → idle u)
        ∧ (areaSize a ≤ n → u.recd.clearing = none ∧ getW REC.STAT_CLEARING recPg 0 u = 0 ∧ irq recPg 18 u = true
            ∧ ∃ r, u.recd.inbox = s.recd.inbox ++ [r] ∧ r.kind = 1))
    ∧ (MayWrite party recPg false s → Does (.recDropClr party) s (fun u => Acked party (pageAddr recPg 0x144) u
        ∧ (∀ k < 5, getW REC.DROP_COUNT recPg k u = b2n (bitAt (freshBits (fldAddr REC.DROP_COUNT recPg k) s) REC.DROP_COUNT.lo)) ∧ RegsBut ((List.range 5).map (fldAddr REC.DROP_COUNT recPg)) s u))

/-- R390, R392 to R394: the calendar clock is set by a write of CLK_SET_LO with the party's CLK_SET_HI, counts seconds modulo 2^40 with its trim taken
over every 64 seconds, and an oscillator failure clears VALID and is reported. The seconds and the failure happen in DEEP as well. -/
def Obligations.Calendar_Clock_Is_Set_And_Counts : Prop :=
  ∀ (party : Party) (lo : Word) (s : State),
    (Awake s → MayWrite party clkPg false s → Does (.clockSet party lo) s fun u => Acked party (pageAddr clkPg 0x10C) u
      ∧ u.clk.secs = bitsOf (rdParty party (pageAddr clkPg 0x108) s) 7 0 * 2 ^ 32 + lo.toNat ∧ getW CLK.STAT_VALID clkPg 0 u = 1
      ∧ getW CLK.STAT_OSC_FAIL clkPg 0 u = 0 ∧ u.recd.setFrom = some (s.recd.setFrom.getD s.clk.secs)
      ∧ RegsBut [fldAddr CLK.STAT_VALID clkPg 0] s u)
    ∧ Acts .calendarSecond s (fun u => u.clk.secs = (s.clk.secs + 1) % 2 ^ 40 ∧ u.clk.secUs = (usNow s : Int) ∧ RegsBut [] s u
        ∧ u.clk.trim = if (s.clk.secs + 1) % 64 = 0 then signed 9 (getW CLK.TRIM_TRIM clkPg 0 s) else s.clk.trim)
    ∧ Acts .oscFail s (fun u => getW CLK.STAT_VALID clkPg 0 u = 0 ∧ getW CLK.STAT_OSC_FAIL clkPg 0 u = 1
        ∧ RegsBut [fldAddr CLK.STAT_VALID clkPg 0] s u
        ∧ (dormant s = true → u.clk.oscPend = true) ∧ (dormant s = false → Sent clkPg 0x01 kClkOscFail 0 s u))

/-- R395 to R401: the WATCH domain works whether or not the device does. Its power-up resets its pages, its clock and the island; its
supply shows in CLK_STAT; a scan starts at its second, powers its bank for 5 ms and its dwells, in which MXS steps through the points
of SCAN, ends with its readings counted and its interval closed at the last scan, or is
abandoned with its reason. That scanning asks for RUN = 1 of the page is the model's reading (log entry 45). -/
def Obligations.Watch_Domain_Powers_Up_And_Scans : Prop :=
  ∀ (vdda link brownout : Bool) (vbat : Nat) (rs : List WatchReading) (s : State),
    let idle (u : State) : Prop := u = clearReports s
    let starts := getB WCH.CFG_EN wchPg 0 s = true ∧ running wchPg s = true ∧ getB CLK.STAT_VALID clkPg 0 s = true ∧ senseOff s = true
      ∧ s.wch.scan = none ∧ s.clk.secs % (60 * getW WCH.CFG_PERIOD wchPg 0 s) = 0 ∧ s.wch.started ≠ some s.clk.secs
    let closes (u : State) : Prop := (∀ it, s.wch.open_ = some it → it.histN ≤ it.scans → u.wch.open_ = none ∧ u.wch.kept.length = s.wch.kept.length + 1)
      ∧ (∀ it, s.wch.open_ = some it → it.scans < it.histN → u.wch.kept = s.wch.kept
          ∧ ∃ it', u.wch.open_ = some it' ∧ it'.scans = it.scans ∧ it'.wser = it.wser)
    let ends (why : Nat) (u : State) : Prop := u.wch.scan = none ∧ getW WCH.STAT_SCANNING wchPg 0 u = 0 ∧ getW WCH.STAT_ABANDON wchPg 0 u = why
    Acts .watchPowerUp s (fun u => u.clk.secs = 0 ∧ u.wch.scan = none ∧ u.wch.open_ = none ∧ u.wch.kept = [] ∧ getW DEV.RSTCAUSE_STARTS 0 0 u = 0
        ∧ (∀ a, watchPage a = true → rdReg u a = rdReg State.reset a)
        ∧ ∀ a, watchPage a = false → a ≠ fldAddr DEV.RSTCAUSE_STARTS 0 0 → rdReg u a = rdReg s a)
    ∧ Acts (.watchSupplyChange vdda link vbat) s (fun u => RegsBut [fldAddr CLK.STAT_LINK_PWR clkPg 0] s u
        ∧ getW CLK.STAT_LINK_PWR clkPg 0 u = b2n (!vdda && link)
        ∧ getW CLK.STAT_VBAT_PWR clkPg 0 u = b2n (!vdda && !link && decide (1800 ≤ vbat ∧ vbat ≤ 3600)))
    ∧ Acts .watchScanStart s (fun u => Outside [wchPg] s u ∧ (¬ starts → idle u) ∧ (starts → getW WCH.STAT_SCANNING wchPg 0 u = 1
        ∧ u.wch.started = some s.clk.secs ∧ (∃ sc, u.wch.scan = some sc ∧ sc.scan = rdReg s (pageAddr wchPg 0x104)
          ∧ sc.bank = getW WCH.CFG_BANK wchPg 0 s ∧ (∀ k < 8, nthW sc.chans k = rdReg s (pageAddr wchPg (0x110 + 4 * k)))
          ∧ ∀ j < 4, nthW sc.excs j = rdReg s (pageAddr wchPg (0x130 + 4 * j)))
        ∧ ∃ it, u.wch.open_ = some it ∧ (match s.wch.open_ with
          | some o => it = { o with scans := o.scans + 1 }
          | none => it.scans = 1 ∧ it.bad = 0 ∧ it.points = [] ∧ it.wser = (s.wch.wser + 1) % 65536)))
    ∧ Acts (.watchScanEnd rs) s (fun u => Outside [wchPg] s u ∧ (s.wch.scan = none → idle u) ∧ ∀ sc, s.wch.scan = some sc →
        let good := (scanReadings sc rs).length
        ends 0 u ∧ closes u ∧ getW WCH.LAST_GOOD wchPg 0 u = satN 255 good
        ∧ getW WCH.LAST_BAD wchPg 0 u = satN 255 (sc.mux.length * sc.channels.length - good))
    ∧ (∀ (sc : WatchScan) (k t : Nat), k < sc.mux.length → t < sc.dwellUs → sc.mxsAt (5000 + k * sc.dwellUs + t) = sc.mux[k]?
        ∧ sc.railOn (5000 + k * sc.dwellUs + t) = true ∧ sc.mxsAt (sc.lengthUs + t) = none ∧ sc.railOn (sc.lengthUs + t) = false)
    ∧ Acts (.watchScanAbandon brownout) s (fun u => Outside [wchPg] s u ∧ (s.wch.scan = none → idle u) ∧ (s.wch.scan.isSome = true →
        ends (if brownout then 2 else 1) u ∧ closes u))

/-! ### Host port and CAN (chapter 14) -/

/-- R408 to R412, R414, R415: host frames, their replies, keep-alives and silence. A bad frame is answered by its status alone, or not at
all, and does nothing but report its cause; the words of a good one are accessed in ascending order as HOST, each among the
writes of its cycle, and answered with the first result that is not done. The frame's end shows HST_LAST and HST_WRESk. -/
def Obligations.Host_Frames_Are_Checked_Applied_And_Answered : Prop :=
  ∀ (q : HostReq) (rivals : List (List BusReq)) (risen : Bool) (s : State), Awake s →
    let n := q.len.toNat + 1
    let sil := getB HST.SILSTAT_SILENT hstPg 0 s
    let idle (u : State) : Prop := u = clearReports s
    let short (rd : Bool) : Prop := q.ending = .truncated ∨ (rd = false ∧ q.data.length ≠ n)
    let causes (rd : Bool) : List Nat :=
      if s.hst.busy then 7 :: (if short rd then [4] else []) else if q.code ≠ 0b10110 then [3] else if short rd then [4]
      else (if crcHost (hostCovered rd q) ≠ q.crc.toNat then [1] else []) ++ (if q.addr.toNat % 4 ≠ 0 then [2] else [])
    let bad (rd : Bool) (u : State) : Prop := causes rd ≠ [] → Outside [hstPg] s u ∧ irq hstPg 16 u = true
      ∧ (∀ c ∈ causes rd, Sent hstPg 0xFF kHstProtocol c s u) ∧ u.bus.reports = []
      ∧ (4 ∈ causes rd → u.hst.busy = s.hst.busy ∧ u.hst.reply = s.hst.reply)
      ∧ (4 ∉ causes rd → u.hst.busy = true
          ∧ u.hst.reply = if q.ending = .earlyRise then [] else [hostStatus (hirq u) sil false (if 7 ∈ causes rd then 6 else 5)])
    let good (rd : Bool) (u : State) : Prop := causes rd = [] → q.ending = .complete →
      let own := u.bus.reports.filter fun r => decide (r.party = .host)
      let rs := own.map fun r => r.res.code
      let wrong := rs.filter fun c => decide (c ≠ 0)
      let res := wrong.headD 0
      let head := hostStatus (hirq u) sil (decide (1 < wrong.length)) res :: wordBytes u.bus.readData
      own.length = n ∧ (∀ k r, own[k]? = some r → r.addr = hostAddr q k)
        ∧ u.hst.busy = true ∧ u.hst.reply = (if rd then head ++ bytesOf 2 (crcHost head) else head)
        ∧ (∃ wr, u.hst.last = some (lastWord rd q rs res, wr) ∧ (rd = false → wr = some (wresWords rs)))
    (∃ u, exec (.hostReadFrame q) s = .next (keepQueue s (settle u)) ∧ bad true u ∧ good true u
      ∧ (causes true = [] → u.bus.readData.length = n))
    ∧ (∃ u, exec (.hostWriteFrame q rivals) s = .next (keepQueue s (softwareReset (settle u))) ∧ bad false u ∧ good false u
      ∧ ∀ w, causes false = [] → q.ending = .complete → q.data = [w] →
        let r := contestedWrite ⟨.host, q.addr.toNat, w⟩ (rivals.headD []) (hostEnd (clearReports s))
        (u.bus.reports.filter fun x => decide (x.party = .host)) = [⟨.host, q.addr.toNat, r.1⟩] ∧ RegsBut [] r.2 u)
    ∧ Does (.hostReplyReady risen) s (fun u => (s.hst.busy = false → idle u)
        ∧ (s.hst.busy = true → risen = false → s.hst.risen = false → u.hst = { s.hst with busy := false } ∧ RegsBut [] s u)
        ∧ (s.hst.busy = true → risen = true ∨ s.hst.risen = true → u.hst.busy = false ∧ u.hst.last = none
          ∧ RegsBut (pageAddr hstPg 0x118 :: (List.range 8).map fun k => pageAddr hstPg (0x120 + 4 * k)) s u
          ∧ (∀ l w, s.hst.last = some (l, w) → rdReg u (pageAddr hstPg 0x118) = l
              ∧ ∀ ws, w = some ws → ∀ k < 8, rdReg u (pageAddr hstPg (0x120 + 4 * k)) = nthW ws k)
          ∧ (s.hst.last = none → RegsBut [] s u)))
    ∧ (MayWrite .host hstPg true s → Does .keepAlive s fun u => Acked .host (pageAddr hstPg 0x100) u ∧ Outside [hstPg] s u
        ∧ u.hst.kaAt = some (usNow s) ∧ getB HST.SILSTAT_SILENT hstPg 0 u = false)
    ∧ Does .hostSilenceBegin s (fun u => Outside [hstPg] s u
        ∧ (getB HST.SIL_EN hstPg 0 s = false ∨ sil = true ∨ s.time.ticks < (silenceStart s + getF HST.SIL_TO hstPg 0 s * 1000) / 125 → idle u)
        ∧ (getB HST.SIL_EN hstPg 0 s = true → sil = false → (silenceStart s + getF HST.SIL_TO hstPg 0 s * 1000) / 125 ≤ s.time.ticks →
            getB HST.SILSTAT_SILENT hstPg 0 u = true ∧ irq hstPg 17 u = true
            ∧ (epActive hstPg kHstSilence 0 s = false → Sent hstPg 0xFF kHstSilence 0 s u)))

/-- R416, R418 to R421: the CAN controllers. A received frame goes to the first object that it matches, unless that object holds an unread
frame that it keeps; requests, aborts and ends of transmission of the objects that arbitration brought
to the bus move TXREQ and TXDONE; with LBK a controller hears its own frames alone; and errors and recoveries move the counters and
the error state. How the counters move is ISO 11898-1, to which the spec refers (log entry 46). -/
def Obligations.Can_Controllers_Receive_Send_And_Count : Prop :=
  ∀ (party : Party) (ctl : Fin 2) (f : CanFrame) (obj : Fin 64) (count : CanCount) (lec : Fin 7) (sending : Option (Fin 64)) (s : State), Awake s →
    let p := canPg ctl.val
    let o := obj.val
    let c := canSt s p
    let idle (u : State) : Prop := u = clearReports s
    let does (i : Instr) (P : State → Prop) : Prop := Does i s fun u => Outside [p] s u ∧ (∀ k, k ≠ p → canSt u k = canSt s k) ∧ P u
    let stamp : Word := ofN (s.time.tick % 65536 * 65536 + s.time.phase * 256)
    let taken (o : Nat) (u : State) : Prop := moBit p canNew o u = true ∧ irq p 16 u = true ∧ moWord p o 3 u = stamp
      ∧ moWord p o 2 u = ofN (b2n f.esi * 8388608 + b2n f.brs * 4194304 + b2n f.fdf * 2097152 + f.dlc.toNat * 65536)
      ∧ ∀ i < dlcLen f.fdf f.dlc.toNat, bitsOf (moWord p o (4 + i / 4) u) (31 - 8 * (i % 4)) (24 - 8 * (i % 4)) = (f.data.getD i 0).toNat
    let found := (List.range 64).find? fun k => moMatches p k f s
    let kept (u : State) : Prop := ∀ k w, moWord p k w u = moWord p k w s
    let reg (off : Nat) : Nat := pageAddr p (off + 4 * (o / 32))
    does (.canFrameReceive ctl f) (fun u => (canLive p s = false ∨ getB CAN.CTRL_LBK p 0 s = true → idle u) ∧ (canLive p s = true → getB CAN.CTRL_LBK p 0 s = false →
        (f.rtr = true → kept u ∧ getW CAN.CNT_REMOTE p 0 u = satN (2 ^ (CAN.CNT_REMOTE.hi - CAN.CNT_REMOTE.lo + 1) - 1) (getW CAN.CNT_REMOTE p 0 s + 1))
        ∧ (f.rtr = false → found = none → kept u
            ∧ getW CAN.CNT_NOMATCH p 0 u = satN (2 ^ (CAN.CNT_NOMATCH.hi - CAN.CNT_NOMATCH.lo + 1) - 1) (getW CAN.CNT_NOMATCH p 0 s + 1))
        ∧ (∀ k, f.rtr = false → found = some k → (moBit p canNew k s = true → moBit p canLost k u = true ∧ irq p 18 u = true)
            ∧ (moBit p canNew k s = true → bitsOf (moWord p k 1 s) 30 30 = 1 → kept u)
            ∧ (moBit p canNew k s = false ∨ bitsOf (moWord p k 1 s) 30 30 = 0 → taken k u
                ∧ ∀ j w, j ≠ k → w < 20 → moWord p j w u = moWord p j w s))))
    ∧ does (.canTxDone ctl obj) (fun u => let sent := canLive p s = true ∧ getB CAN.CTRL_MON p 0 s = false ∧ bitsOf (moWord p o 0 s) 31 30 = 3
          ∧ o ∈ c.won ∧ (moBit p canTxReqOff o s = true ∨ o ∈ c.aborted)
        (¬ sent → idle u) ∧ (sent → moBit p canTxReqOff o u = false ∧ moBit p canTxDoneOff o u = true ∧ irq p 17 u = true ∧ moWord p o 3 u = stamp
          ∧ (canSt u p).tec = c.tec - 1
          ∧ ∀ k, getB CAN.CTRL_LBK p 0 s = true → (List.range 64).find? (fun k => moMatches p k (sentFrame p o s) s) = some k →
              moBit p canNew k u = true))
    ∧ does (.canErrorDetected ctl count lec sending) (fun u => (canLive p s = false → idle u) ∧ (canLive p s = true →
        kept u ∧ ((canSt u p).tec, (canSt u p).rec_) = (match count with
          | .transmitter => (c.tec + 8, c.rec_)
          | .transmitterExempt => (c.tec, c.rec_)
          | .receiver => (c.tec, satN 255 (c.rec_ + 1))
          | .receiverDominant => (c.tec, satN 255 (c.rec_ + 8)))
        ∧ (lec.val ≠ 0 → getW CAN.ERR_LEC p 0 u = lec.val)
        ∧ (∀ k, sending = some k → getB CAN.CTRL_ONESHOT p 0 s = true → moBit p canTxReqOff k.val u = false)
        ∧ getW CAN.STAT_ESTATE p 0 u = (if 256 ≤ (canSt u p).tec then 2 else if 128 ≤ (canSt u p).tec ∨ 128 ≤ (canSt u p).rec_ then 1 else 0)
        ∧ (getW CAN.STAT_ESTATE p 0 u = 2 → irq p 19 u = true ∧ epActive p kCanBusOff 0 u = true)
        ∧ (getW CAN.STAT_ESTATE p 0 u = 1 → getW CAN.STAT_ESTATE p 0 s = 0 → irq p 19 u = true ∧ Sent p 0xFF kCanProtocol (getW CAN.ERR_LEC p 0 u) s u)))
    ∧ does (.canBusOffRecovered ctl) (fun u => let ready := getW CAN.STAT_ESTATE p 0 s = 2 ∧ c.recov = true
        (¬ ready → idle u) ∧ (ready → (canSt u p).tec = 0 ∧ (canSt u p).rec_ = 0 ∧ (canSt u p).recov = false ∧ getW CAN.STAT_ESTATE p 0 u = 0
          ∧ irq p 19 u = true ∧ epActive p kCanBusOff 0 u = false))
    ∧ (MayWrite party p true s →
        does (.canTxreq party ctl obj) (fun u => kept u ∧ (txBad p o s = true → u.bus.reports = [⟨party, reg 0x120, .refused⟩] ∧ RegsBut [] s u)
          ∧ (txBad p o s = false → Acked party (reg 0x120) u ∧ moBit p canTxReqOff o u = true ∧ RegsBut [reg 0x120] s u
              ∧ ∀ k < 64, k ≠ o → moBit p canTxReqOff k u = moBit p canTxReqOff k s))
        ∧ does (.canTxabort party ctl obj) (fun u => kept u ∧ Acked party (reg 0x128) u ∧ moBit p canTxReqOff o u = false
          ∧ RegsBut [reg 0x120] s u ∧ (moBit p canTxReqOff o s = true → o ∈ c.won → o ∈ (canSt u p).aborted)
          ∧ ∀ k < 64, k ≠ o → moBit p canTxReqOff k u = moBit p canTxReqOff k s))
    ∧ (MayWrite party p false s → CommandBitsZero p 0x08 s →
        does (.canRecover party ctl) (fun u => Acked party (pageAddr p 0x08) u ∧ RegsBut [] s u ∧ canSt u p =
          if getW CAN.STAT_ESTATE p 0 s = 2 ∧ getB CAN.CTRL_ABR p 0 s = false then { c with recov := true } else c))

/-! ### Link (chapter 14) -/

/-- R424 to R426, R428, R439: whatever its TYPE, a frame that arrives at a port is judged in one way. A port that is down takes nothing; an own
frame is dropped; a duplicate is counted; a violation is counted and once per cause and long tide reported; an accepted frame is noted for its
origin, counted, and forwarded with HOPS one higher. -/
def Obligations.Link_Frames_Are_Judged_And_Forwarded : Prop :=
  ∀ (port : Fin 2) (f : LinkFrame) (ns ms : BitVec 64) (ingress residence : Nat) (s : State), Awake s →
    let pg := portPg port.val
    ∀ c ∈ [(Instr.syncReceive port f ingress residence, 0x01), (.pdreqReceive port f ns ms, 0x02), (.pdrespReceive port f ingress, 0x03),
        (.cargoReceive port f, 0x10), (.digestReceive port f, 0x20), (.dqueryReceive port f, 0x21), (.dreplyReceive port f, 0x22),
        (.prepareReceive port f, 0x30), (.voteReceive port f, 0x31), (.decideReceive port f, 0x32), (.doneReceive port f, 0x33),
        (.faultFrameReceive port f, 0x40)],
      Does c.1 s fun u => Outside [tickPg, lnkPg, pg, digPg] s u
        ∧ (portUp port.val s = false ∨ f.typ.toNat ≠ c.2 → u = clearReports s)
        ∧ (portUp port.val s = true → f.typ.toNat = c.2 → match judgeFrame f s with
          | .ownFrame => u = clearReports s
          | .duplicate => u.lnk.partners = s.lnk.partners ∧ u.lnk.out = [] ∧ RegsBut [fldAddr LNK.PCNT1_DUP pg 0] s u
              ∧ getW LNK.PCNT1_DUP pg 0 u = satN 0xFFFF (getW LNK.PCNT1_DUP pg 0 s + 1)
          | .violation v => u.lnk.partners = s.lnk.partners ∧ u.lnk.out = [] ∧ irq pg 17 u = true
              ∧ (v ∈ s.lnk.told → u.flt = s.flt)
              ∧ (v ∉ s.lnk.told → v ∈ u.lnk.told
                  ∧ Sent lnkPg (if v = 3 then 1 else 0xFF) kLnkProtocol (if v = 3 then v else f.origin.toNat % 32 * 256 + v) s u)
          | .accepted => (partnerAt u f.origin.toNat).seq = f.seq.toNat ∧ (partnerAt u f.origin.toNat).heard = s.time.ticks + 1
              ∧ (partnerAt u f.origin.toNat).lost = false
              ∧ (∀ a, a ≠ f.origin.toNat → partnerAt u a = partnerAt s a)
              ∧ getW LNK.PCNT0_RXOK pg 0 u = (getW LNK.PCNT0_RXOK pg 0 s + 1) % 65536
              ∧ (c.2 ≠ 2 → c.2 ≠ 3 → f.hops.toNat < 31 → portUp (1 - port.val) s = true →
                  ∃ g, (1 - port.val, etherFrame g) ∈ u.lnk.out ∧ g = { f with hops := f.hops + 1, corr := g.corr } ∧ (c.2 ≠ 1 → g.corr = f.corr)))

/-- R423, R425, R427, R428, R429, R438, R439: ports, time frames and fault frames. A port shows its state; a master sends SYNC; path delays are asked,
answered and computed; a SYNC of a master to follow moves the alignment state by its offset; faults are broadcast eight at a time and those of
selected origins reported; a discarded frame leaves its violation. -/
def Obligations.Link_Carries_Time_And_Faults : Prop :=
  ∀ (port : Fin 2) (up aneg lpwr fcsOk : Bool) (etype : BitVec 16) (sqi : Fin 8) (cycle : BitVec 16) (ns ms : BitVec 64) (at_ residence : Nat) (f : LinkFrame)
    (s : State), Awake s →
    let pg := portPg port.val
    let idle (u : State) : Prop := u = clearReports s
    let rank := bodyN f 10 2
    let half := syncOffset port.val at_ f s
    let d := nearest half 250000
    let follows := getF TICK.SYNC_CTRL_ROLE tickPg 0 s ≠ 0 ∧ (alignSt s = 4 → rank < linkRank s)
    let n := s.flt.fbOut.length
    Does (.linkPortChange port up aneg lpwr sqi) s (fun u => RegsBut [fldAddr LNK.PSTAT_UP pg 0, pageAddr pg 0x10] s u
        ∧ getW LNK.PSTAT_UP pg 0 u = b2n up ∧ getW LNK.PSTAT_ANEG_DONE pg 0 u = b2n aneg ∧ getW LNK.PSTAT_LPWR pg 0 u = b2n lpwr
        ∧ getW LNK.PSTAT_SQI pg 0 u = sqi.val ∧ (getW LNK.PSTAT_UP pg 0 s ≠ b2n up → irq pg 16 u = true))
    ∧ Does (.syncSend cycle) s (fun u => RegsBut [] s u ∧ (alignSt s ≠ 4 ∨ s.time.tick % 8 ≠ 0 → idle u)
        ∧ (alignSt s = 4 → s.time.tick % 8 = 0 → Emits [0, 1] 0x01 255 (natBytes 6 s.time.tick ++ natBytes 1 (10 + cycle.toNat / 400) ++ [0]
            ++ natBytes 2 (cycle.toNat % 400) ++ natBytes 2 (linkRank s)) s u))
    ∧ Does (.pdreqSend port at_) s (fun u => RegsBut [] s u ∧ (portUp port.val s = false → idle u)
        ∧ (portUp port.val s = true → Emits [port.val] 0x02 255 [] s u ∧ (port.val < s.lnk.pdT1.length → nthN u.lnk.pdT1 port.val = at_ + 1)))
    ∧ Does (.pdreqReceive port f ns ms) s (fun u => Heard port.val 2 f s →
        Emits [port.val] 0x03 f.origin.toNat (natBytes 8 ns.toNat ++ natBytes 8 ms.toNat) s u)
    ∧ Does (.pdrespReceive port f at_) s (fun u => Heard port.val 3 f s → nthN s.lnk.pdT1 port.val ≠ 0 →
        (getW LNK.PSTAT_PDELAY pg 0 u : Int) = max 0 (min 65535
          ((((at_ : Int) - ((nthN s.lnk.pdT1 port.val : Int) - 1)) - ((bodyN f 8 8 : Int) - (bodyN f 0 8 : Int))) / 2)))
    ∧ Does (.syncReceive port f at_ residence) s (fun u => Heard port.val 1 f s →
        (¬ follows → u.lnk.rank = s.lnk.rank ∧ alignSt u = alignSt s)
        ∧ (follows → u.lnk.rank = some rank ∧ u.time.lastSync = some (usNow s) ∧ getW TICK.SYNC_STAT_MASTER_ADDR tickPg 0 u = f.origin.toNat
            ∧ getW TICK.SYNC_STAT_PORT tickPg 0 u = port.val
            ∧ (alignSt s = 2 ∨ alignSt s = 3 → d = 0 → alignSt u = if -2000 ≤ half ∧ half ≤ 2000 then 2 else 1)
            ∧ (alignSt s = 2 ∨ alignSt s = 3 → d ≠ 0 → alignSt u = 1 ∧ u.time.adopt = some (-d, s.time.ticks) ∧ Sent tickPg 0xFF kTickCountMismatch 0 s u)
            ∧ (alignSt s = 0 ∨ alignSt s = 4 → alignSt u = 1 ∧ (d ≠ 0 → u.time.adopt = some (-d, s.time.ticks)))
            ∧ (alignSt s = 1 → alignSt u = if -2000 ≤ half ∧ half ≤ 2000 ∧ 7 ≤ s.time.goodSync then 2 else 1)))
    ∧ Does .faultFrameSend s (fun u => RegsBut [] s u ∧ (n = 0 ∨ s.lnk.fbSent = some s.time.ticks → idle u)
        ∧ (n ≠ 0 → s.lnk.fbSent ≠ some s.time.ticks → u.flt.fbOut = s.flt.fbOut.drop 8 ∧ u.lnk.fbSent = some s.time.ticks
            ∧ ∃ body, body.length = 1 + 16 * min 8 n ∧ body.head? = some (BitVec.ofNat 8 (min 8 n)) ∧ Emits [0, 1] 0x40 255 body s u))
    ∧ Does (.faultFrameReceive port f) s (fun u => Heard port.val 0x40 f s → ∀ i < bodyN f 0 1,
        bitAt (getF LNK.RFMASK_MASK lnkPg 0 s) f.origin.toNat = true → getF LNK.FCFG_RF_MIN lnkPg 0 s ≤ bodyN f (11 + 16 * i) 1 →
          irq lnkPg 22 u = true ∧ Sent lnkPg 0xFF kLnkRemoteFault (f.origin.toNat * 256 + bodyN f (11 + 16 * i) 1 % 8) s u)
    ∧ Does (.linkFrameDiscard port fcsOk etype f) s (fun u => Outside [lnkPg, pg] s u ∧ (portUp port.val s = false → idle u)
        ∧ (portUp port.val s = true →
          (fcsOk = false → getW LNK.PCNT0_FCS pg 0 u = satN 0xFFFF (getW LNK.PCNT0_FCS pg 0 s + 1) ∧ irq pg 17 u = true
              ∧ (1 ∉ s.lnk.told → Sent pg 2 kLnkProtocol 1 s u))
          ∧ (fcsOk = true → etype ≠ 0x88B5 → getW LNK.PCNT1_DISCARD pg 0 u = satN 0xFFFF (getW LNK.PCNT1_DISCARD pg 0 s + 1)
              ∧ irq pg 17 u = true ∧ (2 ∉ s.lnk.told → Sent lnkPg 0xFF kLnkProtocol 2 s u))
          ∧ (fcsOk = true → etype = 0x88B5 → judgeFrame f s = .accepted → idle u)
          ∧ (fcsOk = true → etype = 0x88B5 → judgeFrame f s = .duplicate →
              getW LNK.PCNT1_DUP pg 0 u = satN 0xFFFF (getW LNK.PCNT1_DUP pg 0 s + 1))))

/-- R430 to R432, R440: cargo. A device sends the selected slots at its tick; what a frame brought waits for the boundary; a partner whose cargo is
due and has not come goes stale; and a partner that is not heard for LOST_T is lost. -/
def Obligations.Cargo_Is_Sent_Taken_And_Missed : Prop :=
  ∀ (port : Fin 2) (partner : Fin 32) (f : LinkFrame) (s : State), Awake s →
    let idle (u : State) : Prop := u = clearReports s
    let per := cargoPeriod s
    let slots := (List.range 64).filter fun k => bitsOf (getAct lnkPg 0 k s) 0 0 = 1
    let mine := s.time.tick % (64 * per) = 2 * linkAddr s
    let a := partner.val
    let p := partnerAt s a
    let lost := bitAt (getF LNK.PMASK_MASK lnkPg 0 s) a = true ∧ p.lost = false ∧ p.heard - 1 + 8192 * getF LNK.LOST_LOST_T lnkPg 0 s ≤ s.time.ticks
    Does .cargoSend s (fun u => RegsBut [] s u ∧ (¬ mine → idle u) ∧ (mine → Emits [0, 1] 0x10 255 (natBytes 1 per ++ natBytes 1 slots.length
        ++ slots.flatMap fun k => cargoEntry k (atPhase 42 0 s)) s u))
    ∧ Does (.cargoReceive port f) s (fun u => Heard port.val 0x10 f s → ∃ c, u.lnk.cargoIn = s.lnk.cargoIn ++ [c]
        ∧ c.origin = f.origin.toNat ∧ c.cper = bodyN f 0 1 ∧ c.tick = f.tick.toNat ∧ c.at_ = s.time.tick ∧ c.entries.length = bodyN f 1 1
        ∧ ∀ i e, c.entries[i]? = some e → e.slot = bodyN f (2 + 8 * i) 1 ∧ e.status = bodyN f (3 + 8 * i) 1 ∧ e.stamp = bodyN f (4 + 8 * i) 2
            ∧ e.value = ofN (bodyN f (6 + 8 * i) 4))
    ∧ Does .cargoDue s (fun u => Outside [lnkPg, tickPg] s u ∧ (cargoMissed s = [] → idle u) ∧ (cargoMissed s ≠ [] → irq lnkPg 2 u = true)
        ∧ (a ∈ cargoMissed s → (partnerAt u a).late = true ∧ (partnerAt u a).due = p.due.map (· + max 64 (64 * p.cper))
            ∧ ∀ k < 64, (getPub (cargoKey a k) s).tick.isSome = true → (getPub (cargoKey a k) u).stale = true
                ∧ (getPub (cargoKey a k) u).value = (getPub (cargoKey a k) s).value)
        ∧ (a ∉ cargoMissed s → partnerAt u a = p ∧ ∀ k < 64, getPub (cargoKey a k) u = getPub (cargoKey a k) s))
    ∧ Does (.partnerLost partner) s (fun u => RegsBut [pageAddr lnkPg 0x10] s u ∧ (¬ lost → idle u)
        ∧ (lost → (partnerAt u a).lost = true ∧ irq lnkPg 18 u = true ∧ (epActive lnkPg kLnkPartnerLost a s = false → Sent lnkPg 0xFF kLnkPartnerLost a s u)))

/-- R434, R463: digests on the link. The ridge is sent at the device's tick; a received one is kept and, between aligned devices, compared; a query goes
out, is answered in the tick after its arrival with the digest asked for, and ends with its answer, a refusal or its time-out. -/
def Obligations.Digests_Are_Sent_Compared_And_Queried : Prop :=
  ∀ (port : Fin 2) (party : Party) (target : Fin 32) (level : Fin 4) (index : Byte) (f : LinkFrame) (s : State), Awake s →
    let idle (u : State) : Prop := u = clearReports s
    let o := f.origin.toNat
    let v := bodyN f 0 8
    let ended (st : Nat) (u : State) : Prop := u.lnk.query = none ∧ getW LNK.DQ_STAT_STATE lnkPg 0 u = st ∧ irq lnkPg 21 u = true
    let old := s.lnk.queries.filter fun q => decide (q.at_ < s.time.ticks)
    Does .digestSend s (fun u => RegsBut [] s u ∧ (s.time.tick % 8192 ≠ 64 + 2 * linkAddr s → idle u)
        ∧ (s.time.tick % 8192 = 64 + 2 * linkAddr s → Emits [0, 1] 0x20 255 (natBytes 8 (getPair digPg 0x108 s)) s u))
    ∧ Does (.digestReceive port f) s (fun u => Heard port.val 0x20 f s → (partnerAt u o).ridge = v ∧ (partnerAt u o).ridgeAt = s.time.ticks + 1
        ∧ (bitAt (getF DIG.CMPMASK_MASK digPg 0 s) o = true → (f.state.toNat % 8 = 2 ∨ f.state.toNat % 8 = 4) → aligned s = true →
            bitAt (getW DIG.MM_MASK digPg 0 u) o = decide (v ≠ getPair digPg 0x108 s)
            ∧ (getW DIG.MM_MASK digPg 0 s = 0 → v ≠ getPair digPg 0x108 s → irq digPg 16 u = true ∧ Sent digPg 2 kDigMismatch o s u)))
    ∧ (MayWrite party lnkPg false s → Does (.dqueryStart party target level index) s fun u =>
        (s.lnk.query.isSome = true → u.bus.reports = [⟨party, pageAddr lnkPg 0x170, .refused⟩] ∧ RegsBut [] s u ∧ u.lnk.query = s.lnk.query)
        ∧ (s.lnk.query = none → Acked party (pageAddr lnkPg 0x170) u ∧ u.lnk.query = some (s.lnk.qid, target.val, s.time.ticks)
            ∧ getW LNK.DQ_STAT_STATE lnkPg 0 u = 1 ∧ RegsBut [fldAddr LNK.DQ_STAT_STATE lnkPg 0] s u
            ∧ Emits [0, 1] 0x21 target.val (natBytes 1 level.val ++ natBytes 1 index.toNat ++ natBytes 2 s.lnk.qid) s u))
    ∧ Does (.dqueryReceive port f) s (fun u => Heard port.val 0x21 f s → u.lnk.queries = s.lnk.queries
        ++ if forMe f s then [⟨o, bodyN f 0 1, bodyN f 1 1, bodyN f 2 2, s.time.ticks⟩] else [])
    ∧ Does .dreplySend s (fun u => RegsBut [] s u ∧ u.lnk.queries = s.lnk.queries.filter (fun q => decide (s.time.ticks ≤ q.at_))
        ∧ ∀ q ∈ old, Emits [0, 1] 0x22 q.origin (natBytes 1 q.level ++ natBytes 1 q.index ++ natBytes 2 q.qid
            ++ natBytes 1 (if (queryDigest q.level q.index s).isSome then 0 else 1) ++ [0, 0, 0]
            ++ natBytes 8 ((queryDigest q.level q.index s).getD 0)) s u)
    ∧ Does (.dreplyReceive port f) s (fun u => Heard port.val 0x22 f s → ∀ q t since, s.lnk.query = some (q, t, since) →
        let answers := f.dest.toNat = linkAddr s ∧ bodyN f 2 2 = q ∧ o = t
        (answers → bodyN f 4 1 = 0 → ended 2 u ∧ getPair lnkPg 0x178 u = bodyN f 8 8) ∧ (answers → bodyN f 4 1 ≠ 0 → ended 4 u)
        ∧ (¬ answers → u.lnk.query = s.lnk.query ∧ getW LNK.DQ_STAT_STATE lnkPg 0 u = getW LNK.DQ_STAT_STATE lnkPg 0 s))
    ∧ Does .dqueryTimeout s (fun u => RegsBut [fldAddr LNK.DQ_STAT_STATE lnkPg 0, pageAddr lnkPg 0x10] s u ∧ (s.lnk.query = none → idle u)
        ∧ ∀ q t since, s.lnk.query = some (q, t, since) → (since + 512 ≤ s.time.ticks → ended 3 u) ∧ (s.time.ticks < since + 512 → idle u))

/-! ### Profiles and commits (chapters 14 and 15) -/

/-- R435: the coordinator of a commit. A start is refused unless the device is aligned, the arm tick far enough and the count in range; PREPARE goes out
every 8 ticks until the votes are there or 64 ticks have passed; the votes decide; DECIDE goes out every 8 ticks, and the device's
own target that holds no commit has done with it; and the commit ends with every
DONE or at tick A + 128. -/
def Obligations.Commit_Coordinator_Prepares_Decides_And_Ends : Prop :=
  ∀ (port : Fin 2) (party : Party) (cid : BitVec 16) (f : LinkFrame) (s : State), Awake s →
    let idle (u : State) : Prop := u = clearReports s
    let a := pageAddr lnkPg 0x180
    let nw := getW LNK.CMT_NW_NW lnkPg 0 s
    let st := cmtState s
    let o := f.origin.toNat
    let me := linkAddr s
    let may := aligned s = true ∧ s.time.tick + 256 ≤ armTick s ∧ 1 ≤ nw ∧ nw ≤ 32 ∧ cmtBusy s = false
    let body (c : Commit) : List Byte := natBytes 2 c.cid ++ natBytes 6 c.arm ++ natBytes 4 c.targets ++ natBytes 1 c.writes.length ++ [0, 0, 0]
      ++ c.writes.flatMap fun w => natBytes 4 w.1.toNat ++ natBytes 4 w.2.toNat
    (MayWrite party lnkPg false s →
      Does (.commitStart party cid) s (fun u => (¬ may → u.bus.reports = [⟨party, a, .refused⟩] ∧ RegsBut [] s u ∧ u.lnk.commit = s.lnk.commit)
        ∧ (may → Acked party a u ∧ cmtState u = 1 ∧ getW LNK.CMT_YES_MASK lnkPg 0 u = 0 ∧ getW LNK.CMT_DONE_MASK lnkPg 0 u = 0
            ∧ Outside [lnkPg] s u ∧ ∃ c, u.lnk.commit = some c ∧ c.cid = cid.toNat ∧ c.start = s.time.ticks ∧ c.arm = armTick s
            ∧ c.targets = getW LNK.CMT_TMASK_MASK lnkPg 0 s ∧ c.voted = 0 ∧ c.decided = none
            ∧ c.writes = (List.range nw).map fun k => (getAct lnkPg 2 (2 * k) s, getAct lnkPg 2 (2 * k + 1) s)))
      ∧ Does (.commitAbort party) s (fun u => Outside [lnkPg] s u ∧ (st = 1 → Acked party a u ∧ cmtState u = 3)
        ∧ (st ≠ 1 → u.bus.reports = [⟨party, a, .refused⟩] ∧ cmtState u = st)))
    ∧ Does .prepareSend s (fun u => Outside [lnkPg] s u ∧ (s.lnk.commit = none ∨ st ≠ 1 → idle u) ∧ ∀ c, s.lnk.commit = some c → st = 1 →
        (c.voted = c.targets → cmtState u = if getW LNK.CMT_YES_MASK lnkPg 0 s = c.targets then 2 else 3)
        ∧ (c.voted ≠ c.targets → (s.time.ticks - c.start) % 8 ≠ 0 ∨ 64 ≤ s.time.ticks - c.start → idle u)
        ∧ (c.voted ≠ c.targets → (s.time.ticks - c.start) % 8 = 0 → s.time.ticks - c.start < 64 → Emits [0, 1] 0x30 255 (body c) s u
            ∧ (bitAt c.targets me = false → RegsBut [] s u) ∧ (bitAt c.targets me = true → ∃ v, votedFor me c.cid u = some v)))
    ∧ Does (.voteReceive port f) s (fun u => Heard port.val 0x31 f s → forMe f s = true → ∀ c, s.lnk.commit = some c → c.cid = bodyN f 0 2 →
        st = 1 → bitAt c.targets o = true →
          u.lnk.commit = some { c with voted := putBit c.voted o true }
          ∧ (bodyN f 2 1 = 0 → bitAt (getW LNK.CMT_YES_MASK lnkPg 0 u) o = true)
          ∧ (putBit c.voted o true ≠ c.targets → cmtState u = 1)
          ∧ (putBit c.voted o true = c.targets → cmtState u = if getW LNK.CMT_YES_MASK lnkPg 0 u = c.targets then 2 else 3))
    ∧ Does .voteTimeout s (fun u => RegsBut [fldAddr LNK.CMT_STAT_STATE lnkPg 0] s u ∧ (s.lnk.commit = none → idle u) ∧ ∀ c, s.lnk.commit = some c →
        (st = 1 → c.start + 64 ≤ s.time.ticks → cmtState u = 3) ∧ (st ≠ 1 ∨ s.time.ticks < c.start + 64 → idle u))
    ∧ Does .decideSend s (fun u => Outside [lnkPg] s u ∧ ∀ c, s.lnk.commit = some c → let first := c.decided.getD s.time.ticks
        (st ≠ 2 → st ≠ 3 → idle u)
        ∧ ((st = 2 ∨ st = 3) → (s.time.ticks - first) % 8 = 0 → s.time.tick < c.arm + 128 → u.lnk.commit = some { c with decided := some first }
            ∧ (bitAt c.targets me = true → s.lnk.target = none → bitAt (getW LNK.CMT_DONE_MASK lnkPg 0 u) me = true)
            ∧ ∀ t < 32, bitAt c.targets t = true → t ≠ me → Emits [0, 1] 0x32 t (natBytes 2 c.cid ++ natBytes 1 (if st = 2 then 1 else 2)) s u)
        ∧ ((st = 2 ∨ st = 3) → (s.time.ticks - first) % 8 ≠ 0 ∨ c.arm + 128 ≤ s.time.tick → idle u))
    ∧ Does (.doneReceive port f) s (fun u => Heard port.val 0x33 f s → forMe f s = true → ∀ c, s.lnk.commit = some c → c.cid = bodyN f 0 2 →
        (st = 2 ∨ st = 3) → bitAt c.targets o = true →
          bitAt (getW LNK.CMT_DONE_MASK lnkPg 0 u) o = true
          ∧ (bodyN f 2 1 ≠ 0 ∨ bodyN f 4 16 ≠ 0 → bitAt (rdReg u (pageAddr lnkPg 0x1A0)).toNat o = true)
          ∧ (getW LNK.CMT_DONE_MASK lnkPg 0 u = c.targets → cmtState u = (if st = 2 then 4 else 5) ∧ irq lnkPg 20 u = true)
          ∧ (getW LNK.CMT_DONE_MASK lnkPg 0 u ≠ c.targets → cmtState u = st))
    ∧ Does .commitTimeout s (fun u => RegsBut [fldAddr LNK.CMT_STAT_STATE lnkPg 0, pageAddr lnkPg 0x10] s u ∧ (s.lnk.commit = none → idle u)
        ∧ ∀ c, s.lnk.commit = some c → ((st = 2 ∨ st = 3) → c.arm + 128 ≤ s.time.tick → cmtState u = 6 ∧ irq lnkPg 20 u = true)
          ∧ ((st ≠ 2 ∧ st ≠ 3) ∨ s.time.tick < c.arm + 128 → idle u))

/-- R436, R437, R439: the target of a commit. It votes on a PREPARE by the causes of R436, the same vote on one that its
coordinator repeats; DECIDE commits or discards;
without DECIDE it discards at tick A - 64; at tick A an aligned target applies its writes; and in the tick after its end it sends DONE. -/
def Obligations.Commit_Target_Votes_Applies_And_Reports : Prop :=
  ∀ (port : Fin 2) (rivals : List (List BusReq)) (f : LinkFrame) (s : State), Awake s →
    let idle (u : State) : Prop := u = clearReports s
    let st := tgtState s
    let o := f.origin.toNat
    let cid := bodyN f 0 2
    let ws := prepareWrites f
    let vote := voteOn (bodyN f 2 6) ws.length ws s
    let votes (v : Nat) (u : State) : Prop := Emits [0, 1] 0x31 o (natBytes 2 cid ++ natBytes 1 v) s u ∧ votedFor o cid u = some v
    let ended (t : Target) (st outcome : Nat) (u : State) : Prop := tgtState u = st ∧ getW LNK.TGT_STAT_CAUSE lnkPg 0 u = outcome ∧ u.lnk.voted = forgetVote t.coord s
      ∧ ∃ r, u.lnk.target = some { t with outcome := outcome, results := r, due := some s.time.ticks }
    Does (.prepareReceive port f) s (fun u => Heard port.val 0x30 f s →
        (bitAt (bodyN f 8 4) (linkAddr s) = false → u.lnk.target = s.lnk.target ∧ u.lnk.voted = s.lnk.voted ∧ tgtState u = st)
        ∧ (bitAt (bodyN f 8 4) (linkAddr s) = true →
          (∀ v, votedFor o cid s = some v → votes v u ∧ u.lnk.target = s.lnk.target)
          ∧ (votedFor o cid s = none → votes vote u ∧ getW LNK.TGT_STAT_CAUSE lnkPg 0 u = vote
            ∧ (vote = 0 → tgtState u = 1 ∧ getW LNK.TGT_STAT_CID lnkPg 0 u = cid ∧ u.lnk.target = some ⟨cid, o, bodyN f 2 6, ws, [], 0, none⟩)
            ∧ (vote ≠ 0 → tgtState u = st ∧ u.lnk.target = s.lnk.target))))
    ∧ Does (.decideReceive port f) s (fun u => Heard port.val 0x32 f s → forMe f s = true →
        (s.lnk.target = none → irq (portPg port.val) 17 u = true ∧ Emits [0, 1] 0x33 o (doneBody cid 8 []) s u)
        ∧ ∀ t, s.lnk.target = some t →
          (t.cid = cid → t.coord = o → st = 1 → s.time.tick + 64 < t.arm →
            (bodyN f 2 1 = 1 → tgtState u = 2 ∧ u.lnk.target = some t) ∧ (bodyN f 2 1 ≠ 1 → ended t 4 7 u))
          ∧ (t.cid ≠ cid ∨ t.coord ≠ o → irq (portPg port.val) 17 u = true ∧ Emits [0, 1] 0x33 o (doneBody cid 8 []) s u)
          ∧ (t.cid = cid → t.coord = o → st = 2 → tgtState u = 2 ∧ u.lnk.target = some t)
          ∧ (t.cid = cid → t.coord = o → st ≠ 1 → st ≠ 2 → u.lnk.target = some { t with due := some s.time.ticks }))
    ∧ Does .targetDiscard s (fun u => Outside [lnkPg] s u ∧ (s.lnk.target = none ∨ st ≠ 1 → idle u) ∧ ∀ t, s.lnk.target = some t → st = 1 →
        (s.time.tick + 64 < t.arm → idle u) ∧ (t.arm ≤ s.time.tick + 64 → ended t 4 6 u ∧ Sent lnkPg 0xFF kLnkCommitFail t.cid s u))
    ∧ DoesWrite (.commitApply rivals) s (fun u => (s.lnk.target = none ∨ st ≠ 2 → idle u) ∧ ∀ t, s.lnk.target = some t → st = 2 →
        (s.time.tick < t.arm → idle u)
        ∧ (t.arm ≤ s.time.tick → aligned s = false → ended t 4 1 u ∧ Sent lnkPg 0xFF kLnkCommitFail t.cid s u)
        ∧ (t.arm ≤ s.time.tick → aligned s = true → let r := commitWrites t.writes rivals [] (atPhase 42 0 (clearReports s))
            r.2.lnk.target = some t → tgtState u = 3 ∧ getW LNK.TGT_STAT_CAUSE lnkPg 0 u = 0
              ∧ (∃ e, u.lnk.target = some e ∧ e.cid = t.cid ∧ e.coord = t.coord ∧ e.outcome = 0 ∧ e.results = r.1 ∧ e.due = some s.time.ticks)
              ∧ (∀ a, a ≠ fldAddr LNK.TGT_STAT_STATE lnkPg 0 → rdReg u a = rdReg r.2 a)))
    ∧ Does .doneSend s (fun u => Outside [lnkPg] s u ∧ (s.lnk.target = none → idle u) ∧ ∀ t, s.lnk.target = some t →
        (t.due = none → idle u) ∧ ∀ d, t.due = some d → (s.time.ticks ≤ d → idle u)
          ∧ (d < s.time.ticks → u.lnk.target = some { t with due := none } ∧ irq lnkPg 19 u = true
              ∧ (t.coord ≠ linkAddr s → Emits [0, 1] 0x33 t.coord (doneBody t.cid t.outcome t.results) s u)))

/-! ### NV store, supervisor and digests (chapter 15) -/

/-- R446, R448, R453, R457, R458, R467, R481: NVS commands. One that its conditions allow runs and shows itself; any other is refused. Its end does what it
was asked for, word by word, or reports the word that could not be written, behind which nothing is written. -/
def Obligations.Nvs_Commands_Run_And_End : Prop :=
  ∀ (party : Party) (eng : Fin 16) (failed : Option (BitVec 23)) (s : State), Awake s →
    let a := pageAddr nvsPg 0x108
    let x := engSt s eng.val
    let idle (u : State) : Prop := u = clearReports s
    let free := s.nvs.cmd = none ∧ getB NVS.STAT_SUPSTART nvsPg 0 s = false
    let bare := getB ENG.STAT_NOPROG (engPg eng.val) 0 s = false ∧ x.req = none ∧ x.prob = none ∧ x.ret = none ∧ regionState runImg s ≠ 1
    let other := profImg (otherSlot s)
    let runs (code n : Nat) (u : State) : Prop := Acked party a u ∧ Outside [nvsPg] s u ∧ (∃ c, u.nvs.cmd = some c ∧ c.code = code ∧ c.eng = n)
      ∧ getW NVS.STAT_BUSY nvsPg 0 u = 1 ∧ getW NVS.CSTAT_CMD nvsPg 0 u = code ∧ getW NVS.CSTAT_RESULT nvsPg 0 u = 0
    let ended (result : Nat) (u : State) : Prop := u.nvs.cmd = none ∧ getW NVS.STAT_BUSY nvsPg 0 u = 0 ∧ getW NVS.CSTAT_RESULT nvsPg 0 u = result
      ∧ irq nvsPg 16 u = true ∧ Outside [nvsPg] s u
    (MayWrite party nvsPg false s → party = .sup ∨ getF CMN.OWN_OWNER nvsPg 0 s = party.code →
      ∀ c ∈ [(Instr.verify party, 1, 0), (.arm party, 2, 0), (.disarm party, 3, 0), (.saveProfile party, 4, 0), (.storeEng party eng, 5, eng.val),
          (.supRestart party, 6, 0), (.probReject party, 7, 0), (.progKey party, 8, 0), (.setKeypol party, 9, 0), (.eraseProfile party, 10, 0)],
        let code := c.2.1
        let fit := (inRecovery s = true → code = 1 ∨ code = 2 ∨ code = 3 ∨ code = 6) ∧ (code = 2 → slipState s = 2) ∧ (code = 3 → slipState s = 3)
          ∧ (code = 5 → bare) ∧ (code = 8 → keyProgrammed 1 s = false) ∧ (code = 9 → keyProgrammed 1 s = true)
        Does c.1 s fun u => (free → fit → runs code c.2.2 u
            ∧ (code = 6 → u.nvs.ask = some 0) ∧ (code = 7 → onProbation s = true → u.nvs.ask = some 4 ∧ u.nvs.prob = none)
            ∧ (code = 4 ∨ code = 10 → nvWord (other + 60) u = 0) ∧ (code ≠ 4 → code ≠ 10 → u.mem = s.mem))
          ∧ (¬ free ∨ ¬ fit → u.bus.reports = [⟨party, a, .refused⟩] ∧ RegsBut [] s u ∧ u.nvs = s.nvs ∧ u.mem = s.mem))
    ∧ Does (.nvsCommandDone failed) s (fun u => (s.nvs.cmd = none → idle u) ∧ ∀ c, s.nvs.cmd = some c →
        let waits := (c.code = 4 ∧ c.image = none) ∨ (s.nvs.ask.isSome = true ∧ (c.code = 6 ∨ c.code = 7)) ∨ getB NVS.STAT_SUPSTART nvsPg 0 s = true
        let ws := nvsWrites c s
        let fails (o : Nat) : Prop := (failed.map fun x => x.toNat) = some o ∧ ∃ v, (o, v) ∈ ws
        (waits → idle u)
        ∧ (¬ waits → ∀ b, (∀ w ∈ ws, b < nvBase + w.1 ∨ nvBase + w.1 + 4 ≤ b) → rdByte u b = rdByte s b)
        ∧ (¬ waits → ∀ o, fails o → ended 2 u ∧ Sent nvsPg 0xFF kNvsWriteFail (o / 256) s u
            ∧ (ws.Pairwise (fun x y => x.1 + 4 ≤ y.1 ∨ y.1 + 4 ≤ x.1) → ∀ k v, ws[k]? = some (o, v) →
                (∀ (j : Nat) (w : Nat × Word), j < k → ws[j]? = some w → rdWord u (nvBase + w.1) = w.2)
                ∧ ∀ (j : Nat) (w : Nat × Word), k < j → ws[j]? = some w → rdWord u (nvBase + w.1) = rdWord s (nvBase + w.1)))
        ∧ (¬ waits → (∀ o, ¬ fails o) →
            (c.code = 1 → let k := imageCause slipImg s
              ended (if k = 0 then 1 else 3) u ∧ slipState u = (if k = 0 then 2 else 4) ∧ getW NVS.SLIP_CAUSE nvsPg 0 u = k)
            ∧ (c.code ≠ 1 → ended 1 u) ∧ (c.code = 2 → slipState u = 3) ∧ (c.code = 3 → slipState u = 2)
            ∧ (∀ im, c.code = 4 → c.image = some im → ∀ j w, im[j]? = some w → rdWord u (nvBase + (other + 4 * j)) = w)
            ∧ (∀ im, c.code = 5 → c.image = some im → ∀ j w, im[j]? = some w →
                rdWord u (nvBase + (runImg + 0x100000 + c.eng * 0x10000 + 4 * j)) = w)
            ∧ (c.code = 8 → keyProgrammed 1 u = true) ∧ (c.code = 9 → keyPol u = 1) ∧ (c.code = 10 → nvWord (other + 60) u = 0)))

/-- R449 to R451: supervisor starts, the image that they choose, the probation, and its confirmation. A start whose first word write
fails or is cut off runs no image, and a confirmation with a word that could not be written is none. -/
def Obligations.Supervisor_Starts_Choose_Images_And_Are_Confirmed : Prop :=
  ∀ (party : Party) (s : State), Awake s →
    let idle (u : State) : Prop := u = clearReports s
    let st := regionState runImg s
    let slip := slipState s = 3 ∧ imageCause slipImg s = 0
    let back := regionState backImg s = 3 ∧ imageCause backImg s = 0
    let sup := getB NVS.STAT_SUPSTART nvsPg 0 s
    let none_ (u : State) : Prop := u.nvs.image = false ∧ u.nvs.prob = none ∧ getW DEV.BOOT_NOIMG 0 0 u = 1
    let starts (u : State) : Prop := u.nvs.image = true ∧ getW DEV.BOOT_NOIMG 0 0 u = 0
    let trial (n : Nat) (u : State) : Prop := starts u ∧ regionState runImg u = 2 ∧ startCnt u = n ∧ u.nvs.prob = some (usNow s, probTo u * 1000000)
    let falls (cause : Nat) (u : State) : Prop := (back → starts u ∧ regionState runImg u = 4 ∧ u.nvs.prob = none ∧ getW DEV.BOOT_COPY 0 0 u = 1
        ∧ getW NVS.IMG_FB_CAUSE nvsPg 0 u = cause ∧ Sent 0 0xFF kDevImageFallback cause s u) ∧ (¬ back → none_ u)
    Does (.supervisorStart none) s (fun u => (s.nvs.ask = none ∨ sup = true → idle u)
        ∧ ∀ cause, s.nvs.ask = some cause → cause < 8 → sup = false → inRecovery s = false →
          getB NVS.STAT_SUPSTART nvsPg 0 u = true ∧ u.nvs.ask = none
          ∧ (slip → trial 1 u ∧ slipState u = 5 ∧ getW DEV.BOOT_COPY 0 0 u = 1)
          ∧ (slipState s = 3 → imageCause slipImg s ≠ 0 → slipState u = 4 ∧ getW NVS.SLIP_CAUSE nvsPg 0 u = imageCause slipImg s)
          ∧ (slipState s ≠ 3 → cause ≠ 0 → falls cause u)
          ∧ (slipState s ≠ 3 → cause = 0 →
              (st = 2 → startCnt s = 2 → falls 2 u)
              ∧ (st = 2 → startCnt s = 1 → imageCause runImg s = 0 → trial 2 u)
              ∧ (st = 3 ∨ st = 4 → imageCause runImg s = 0 → starts u ∧ u.mem = s.mem ∧ u.nvs.prob = none)
              ∧ (imageCause runImg s ≠ 0 → ¬ (st = 2 ∧ startCnt s = 2) → falls 3 u)
              ∧ (st ≠ 2 → st ≠ 3 → st ≠ 4 → falls 3 u)))
    ∧ (∀ x cause, s.nvs.ask = some cause → cause < 8 → sup = false → inRecovery s = false → slip → x.left = 0 →
        Does (.supervisorStart (some x)) s fun u => u.nvs.image = false ∧ u.nvs.prob = none ∧ slipState u = 3
          ∧ getB NVS.STAT_SUPSTART nvsPg 0 u = true ∧ (x.cut = false → getW DEV.BOOT_NOIMG 0 0 u = 1))
    ∧ Does .supervisorStartDone s (fun u => (sup = false → idle u) ∧ (sup = true → getB NVS.STAT_SUPSTART nvsPg 0 u = false
        ∧ (∀ c, s.nvs.cmd = some c → c.code = 6 ∨ c.code = 7 → u.nvs.cmd = none ∧ getW NVS.STAT_BUSY nvsPg 0 u = 0
            ∧ getW NVS.CSTAT_RESULT nvsPg 0 u = 1 ∧ irq nvsPg 16 u = true)
        ∧ ((∀ c, s.nvs.cmd = some c → c.code ≠ 6 ∧ c.code ≠ 7) → u.nvs = s.nvs)))
    ∧ Does .supProbationTimeout s (fun u => RegsBut [] s u ∧ (s.nvs.prob = none → idle u) ∧ ∀ from_ len, s.nvs.prob = some (from_, len) →
        (s.time.ticks < (from_ + len) / 125 → idle u) ∧ ((from_ + len) / 125 ≤ s.time.ticks → u.nvs.prob = none ∧ u.nvs.ask = some 1))
    ∧ (MayWrite party nvsPg false s → Does (.confirm party none) s fun u =>
        let may := (st = 2 ∧ onProbation s = true) ∨ st = 4
        (party ≠ .sup → u.bus.reports = [⟨party, pageAddr nvsPg 0x11C, .refused⟩] ∧ RegsBut [] s u ∧ u.mem = s.mem ∧ u.nvs = s.nvs)
        ∧ (party = .sup → Acked party (pageAddr nvsPg 0x11C) u ∧ (¬ may → RegsBut [] s u ∧ u.mem = s.mem ∧ u.nvs = s.nvs)
          ∧ (may → regionState runImg u = 3 ∧ startCnt u = 0 ∧ minSvn u = max (minSvn s) (bitsOf (nvWord (runImg + 0xC) s) 7 0)
              ∧ u.nvs.prob = none ∧ irq nvsPg 18 u = true)))
    ∧ (∀ n, MayWrite .sup nvsPg false s → (st = 2 ∧ onProbation s = true) ∨ st = 4 → n < 3 →
        Does (.confirm .sup (some ⟨n, false⟩)) s fun u => u.bus.reports = [⟨.sup, pageAddr nvsPg 0x11C, .refused⟩] ∧ u.nvs.prob = s.nvs.prob
          ∧ (n < 2 → regionState runImg u = st))

/-- R465: a shadow digest is computed for a page that has a shadow copy, one at a time; a write to that copy meanwhile disturbs it. -/
def Obligations.Shadow_Digests_Start_And_End : Prop :=
  ∀ (party : Party) (page : Byte) (s : State), Awake s →
    let a := pageAddr digPg 0x130
    let p := page.toNat
    (MayWrite party digPg true s → Does (.shadowDigestStart party page) s fun u =>
      (s.dig.shd.isSome = true ∨ shadowable p = false → u.bus.reports = [⟨party, a, .refused⟩] ∧ RegsBut [] s u ∧ u.dig = s.dig)
      ∧ (s.dig.shd = none → shadowable p = true → Acked party a u ∧ getW DIG.SHD_STAT_STATE digPg 0 u = 1
          ∧ RegsBut [fldAddr DIG.SHD_STAT_STATE digPg 0] s u ∧ u.dig.rafters = s.dig.rafters
          ∧ ∃ d, u.dig.shd = some d ∧ d.page = p ∧ d.disturbed = false
          ∧ d.value = if pageKind p = some .eng then imageDigest (shadowBank (p - 0x20) s) s else battenOf true p s))
    ∧ Does .shadowDigestDone s (fun u => Outside [digPg] s u ∧ (s.dig.shd = none → u = clearReports s) ∧ ∀ d, s.dig.shd = some d →
        u.dig.shd = none ∧ irq digPg 17 u = true
        ∧ (d.disturbed = true → getW DIG.SHD_STAT_STATE digPg 0 u = 3)
        ∧ (d.disturbed = false → getW DIG.SHD_STAT_STATE digPg 0 u = 2 ∧ getPair digPg 0x138 u = d.value % 2 ^ 64))

/-! ### Power, start-up and the test port (chapter 16) -/

/-- R470, R475 to R477, R486, R491, R500: resets. Every reset source holds the device until its start, notes its cause and puts every register at its reset
value but those of the WATCH domain, REC_NEXT, the starts counted and, in a warm reset, the LOCK of permanently locked pages; records, retained
watch records, the calendar clock and, with no NVS command running, the NV store stay. In DEEP a reset pin ends DEEP instead, and rails and
temperatures are not looked at. The software reset needs both of its keys. -/
def Obligations.Resets_Hold_The_Device_And_Keep_What_They_Must : Prop :=
  ∀ (rail : Rail) (party : Party) (s : State),
    let a := pageAddr 0 0x110
    let idle (u : State) : Prop := u = clearReports s
    let resets (warm : Bool) (bit : Nat) (u : State) : Prop := u.pwr.held = true ∧ u.pwr.deep = false ∧ bitAt u.pwr.causes bit = true
      ∧ u.recd.svc = s.recd.svc ∧ u.recd.cms = s.recd.cms ∧ u.wch = s.wch ∧ u.clk.secs = s.clk.secs ∧ u.tap = s.tap ∧ u.time = State.reset.time
      ∧ (∀ r, (watchPage r = true ∧ r % 0x400 ≠ 0x24) ∨ r = pageAddr recPg 0x100 ∨ r = pageAddr 0 0x10C → rdReg u r = rdReg s r)
      ∧ (∀ r, r % 0x400 = 0x24 → getB CMN.LOCK_PERM (r / 0x400) 0 s = true → warm = true → rdReg u r = rdReg s r)
      ∧ (∀ r, r % 0x400 = 0x24 → warm = false → watchPage r = false → rdReg u r = rdReg State.reset r)
      ∧ (∀ r, watchPage r = false → r ≠ pageAddr recPg 0x100 → r ≠ pageAddr 0 0x10C → r % 0x400 ≠ 0x24 → rdReg u r = rdReg State.reset r)
      ∧ (s.nvs.cmd = none → ∀ o < 0x800000, rdByte u (nvBase + o) = rdByte s (nvBase + o))
    let awaits (also : List Nat) (u : State) : Prop := u.pwr.deep = false ∧ u.pwr.held = s.pwr.held ∧ u.pwr.alarm = none ∧ bitAt u.pwr.causes 10 = true
      ∧ (∀ b ∈ also, bitAt u.pwr.causes b = true) ∧ RegsBut [] s u
    Acts (.supplyMonitorReset rail) s (fun u => (s.pwr.deep = true → idle u)
        ∧ (s.pwr.deep = false → resets false (match rail with | .vddc => 5 | .vdda => 6 | .vddio => 7) u))
    ∧ Acts .thermalReset s (fun u => (s.pwr.deep = true → idle u) ∧ (s.pwr.deep = false → resets false 8 u))
    ∧ Acts (.resetAssert .porst) s (fun u => (s.pwr.deep = false → resets false 2 u) ∧ (s.pwr.deep = true → awaits [2] u))
    ∧ Acts (.resetAssert .reset) s (fun u => (s.pwr.deep = false → resets true 3 u) ∧ (s.pwr.deep = true → awaits [] u))
    ∧ (Awake s → MayWrite party 0 false s →
      Does (.swrstFirst party) s (fun u => RegsBut [] s u ∧ (party = .sup ∨ party = .host → Acked party a u ∧ party.code ∈ u.pwr.swrst)
        ∧ (party ≠ .sup → party ≠ .host → u.bus.reports = [⟨party, a, .refused⟩] ∧ u.pwr = s.pwr))
      ∧ (party.code ∈ s.pwr.swrst → party = .sup ∨ party = .host → ∃ t, exec (.swrstSecond party) s = .next t ∧ t.pwr.held = true
          ∧ bitAt t.pwr.causes 4 = true ∧ t.wch = s.wch ∧ t.time = State.reset.time ∧ Acked party a t
          ∧ ∀ r, watchPage r = false → r ≠ pageAddr recPg 0x100 → r ≠ pageAddr 0 0x10C → r % 0x400 ≠ 0x24 → rdReg t r = rdReg State.reset r)
      ∧ (party.code ∉ s.pwr.swrst → Does (.swrstSecond party) s fun u => u.bus.reports = [⟨party, a, .refused⟩] ∧ RegsBut [] s u
          ∧ u.pwr.causes = s.pwr.causes ∧ u.pwr.held = false))

/-- R471, R477 to R481, R498: the start. The release of reset samples the straps, measures VDDIO, notes the causes and runs the start-up sequence to step 6, or stays in
the recovery state without an image, or waits for the debug release; step 7 brings RUN and an anchor. The instructions of the test access port
select its data register, and its register accesses are the HOST's while DEV_DBG.EN = 1. -/
def Obligations.Device_Starts_And_Test_Port_Accesses : Prop :=
  ∀ (boot : BitVec 2) (mv : BitVec 16) (stop : Option NvStop) (addr : BitVec 24) (v : Word) (s : State),
    let idle (u : State) : Prop := u = clearReports s
    let release := s.pwr.deep = false ∧ (s.pwr.held = true ∨ getW DEV.BOOT_STEP 0 0 s = 0)
    let whole := ∀ x, stop = some x → x.cut = false
    let sequence (u : State) : Prop :=
      (whole → (getW DEV.BOOT_STEP 0 0 u = 6 ∧ getW DEV.BOOT_NOIMG 0 0 u = 0 ∧ u.nvs.image = true)
        ∨ (getW DEV.BOOT_STEP 0 0 u = 3 ∧ getW DEV.BOOT_NOIMG 0 0 u = 1 ∧ u.nvs.image = false))
      ∧ (¬ whole → getW DEV.BOOT_STEP 0 0 u ∈ [3, 5, 6])
    let tap (i : Instr) (ir : TapIr) (dr : Word) : Prop := Acts i s fun u => RegsBut [] s u ∧ u.tap = ⟨ir, dr⟩ ∧ ∀ p, p ≠ Part.tap → agree p s u
    Acts (.deviceStart boot mv stop) s (fun u => (¬ release → idle u) ∧ (release → u.pwr.held = false ∧ getW DEV.BOOT_STRAP 0 0 u = boot.toNat
        ∧ getW DEV.BOOT_STRAP_BAD 0 0 u = b2n (decide (boot = 3)) ∧ getW PWR.STAT_IO33 pwrPg 0 u = b2n (decide (2400 ≤ mv.toNat))
        ∧ (boot = 2 → getW DEV.BOOT_STEP 0 0 u = 2 ∧ u.pwr.debugWait = true
            ∧ getW DEV.RSTCAUSE_STARTS 0 0 u = if s.pwr.watchFresh then 1 else satN 0xFFFF (getW DEV.RSTCAUSE_STARTS 0 0 s + 1))
        ∧ (boot ≠ 2 → sequence u)))
    ∧ Acts (.debugRelease stop) s (fun u => (s.pwr.debugWait = false → idle u) ∧ (s.pwr.debugWait = true → u.pwr.debugWait = false ∧ sequence u))
    ∧ (Awake s → Does .startUpRun s fun u => (getW DEV.BOOT_STEP 0 0 s ≠ 6 → idle u) ∧ (getW DEV.BOOT_STEP 0 0 s = 6 →
        getW DEV.BOOT_STEP 0 0 u = 7 ∧ getW PWR.STAT_MODE pwrPg 0 u = 0 ∧ Outside [0, pwrPg] s u ∧ ∃ r, u.recd.inbox = s.recd.inbox ++ [r] ∧ r.kind = 1))
    ∧ tap .jtagBypass .bypass 0
    ∧ tap .jtagIdcode .idcode 0x248164EB
    ∧ tap .jtagSamplePreload .sample s.tap.dr
    ∧ tap .jtagExtest (if s.pwr.debugWait then .extest else .bypass) (if s.pwr.debugWait then s.tap.dr else 0)
    ∧ (getB DEV.DBG_EN 0 0 s = false → ∀ w, tap (.jtagDebugAccess addr w) .debug s.tap.dr)
    ∧ (getB DEV.DBG_EN 0 0 s = true →
      Acts (.jtagDebugAccess addr none) s (fun u => u.tap.ir = .debug ∧ ∃ w res, u.bus.reports = [⟨.host, addr.toNat, res⟩] ∧ u.bus.readData = [w] ∧ u.tap.dr = w)
      ∧ Acts (.jtagDebugAccess addr (some v)) s (fun u => u.tap = ⟨.debug, s.tap.dr⟩ ∧ let r := busWrite ⟨.host, addr.toNat, v⟩ (tapLoad .debug (clearReports s))
          u.bus.reports = [⟨.host, addr.toNat, r.1⟩] ∧ RegsBut [] r.2 u))

/-- R473, R482 to R486, R490, R499, R501: power modes and supplies. A permitted request is accepted and shows MODE 4, another refused; the mode comes into force
once its boundary has passed; DEEP begins when the recorder and the NV store are quiet, and the wake alarm ends it; VFIELD windows and the
clears show in their registers. -/
def Obligations.Power_Modes_And_Supplies_Take_Effect : Prop :=
  ∀ (party : Party) (high active : Bool) (s : State),
    let idle (u : State) : Prop := u = clearReports s
    let m := pwrMode s
    let a := pageAddr pwrPg 0x100
    let stat := fldAddr PWR.STAT_MODE pwrPg 0
    let inForce (r : Nat) (u : State) : Prop := getW PWR.STAT_MODE pwrPg 0 u = r ∧ u.pwr.req = none ∧ irq pwrPg 18 u = true
    (Awake s → MayWrite party pwrPg true s →
      ∀ c ∈ [(Instr.modeReqRun party, 0), (.modeReqHalt party, 1), (.modeReqStandby party, 2), (.modeReqDeep party, 3)],
        let may := (m, c.2) ∈ [(0, 1), (1, 0), (1, 2), (2, 1), (1, 3), (2, 3)] ∧ s.pwr.req = none ∧ getB NVS.STAT_BUSY nvsPg 0 s = false
        Does c.1 s fun u => (may → Acked party a u ∧ getW PWR.STAT_MODE pwrPg 0 u = 4 ∧ u.pwr.req = some (c.2, s.time.ticks) ∧ u.pwr.begun = false
            ∧ RegsBut [stat] s u)
          ∧ (¬ may → u.bus.reports = [⟨party, a, .refused⟩] ∧ RegsBut [] s u ∧ u.pwr = s.pwr))
    ∧ (Awake s → Does .powerModeChangeDone s fun u => (s.pwr.req = none ∨ s.pwr.begun = false → idle u) ∧ ∀ r at_, s.pwr.req = some (r, at_) → s.pwr.begun = true →
        (r = 0 → inForce 0 u ∧ RegsBut [stat, pageAddr pwrPg 0x10] s u)
        ∧ (r = 1 → inForce 1 u ∧ u.pwr.standby = false)
        ∧ (r = 2 → inForce 2 u ∧ u.pwr.standby = true ∧ getW PWR.STAT_SENSE_ON pwrPg 0 u = 0 ∧ getW PWR.STAT_DRIVE_ON pwrPg 0 u = 0)
        ∧ (r = 3 → idle u))
    ∧ (Awake s → Does .deepEntry s fun u =>
        let ready := s.pwr.begun = true ∧ (∃ at_, s.pwr.req = some (3, at_)) ∧ s.recd.queue = [] ∧ s.recd.inbox = [] ∧ s.nvs.cmd = none
        (¬ ready → idle u) ∧ (ready → u.pwr.deep = true ∧ u.pwr.held = true ∧ u.pwr.alarm = wakeSeconds s ∧ u.wch = s.wch
          ∧ u.recd.svc = s.recd.svc ∧ u.recd.cms = s.recd.cms ∧ ∀ o < 0x800000, rdByte u (nvBase + o) = rdByte s (nvBase + o)))
    ∧ Acts .wakeAlarm s (fun u => let due := s.pwr.deep = true ∧ ∃ t, s.pwr.alarm = some t ∧ t ≤ s.clk.secs
        (¬ due → idle u) ∧ (due → u.pwr.deep = false ∧ u.pwr.alarm = none ∧ bitAt u.pwr.causes 9 = true ∧ bitAt u.pwr.causes 10 = true ∧ RegsBut [] s u))
    ∧ (Awake s → Does (.vfieldWindow high active) s fun u => RegsBut [stat, pageAddr pwrPg 0x10] s u
        ∧ getB (if high then PWR.STAT_VF_OV else PWR.STAT_VF_UV) pwrPg 0 u = active
        ∧ (active = true → getB (if high then PWR.STAT_VF_OV else PWR.STAT_VF_UV) pwrPg 0 s = false → irq pwrPg 17 u = true))
    ∧ (Awake s → MayWrite party 0 true s → Does (.bridgeClr party) s fun u => Acked party (pageAddr 0 0x11C) u ∧ RegsBut [pageAddr 0 0x118] s u
        ∧ ∀ g ∈ [DEV.BRIDGE_CA_RETRY, DEV.BRIDGE_CA_FAIL, DEV.BRIDGE_CP_RETRY, DEV.BRIDGE_CP_FAIL],
            getW g 0 0 u = b2n (bitAt (freshBits (pageAddr 0 0x118) s) g.lo))
    ∧ (Awake s → MayWrite party pwrPg true s → Does (.tempClr party) s fun u => Acked party (pageAddr pwrPg 0x118) u ∧ u.pwr.tclr = true ∧ RegsBut [] s u)

/-! ### Bus and bridges (chapters 1 and 5) -/

/-- R17, R18, R22, R28, R64, R275, R485, R502: single register writes, writes that meet in one cycle, bridge frames, and the clear of the tick monitor.
A write to no register has an address error, one to a page without power the domain-off report, one without right is refused; IRQ_EN takes
the written bits, IRQ_STAT loses them but for those that an event of the same cycle set; of two writes to one field the higher ranked one is applied. A bridge frame that is wrong twice is
reported and given up. -/
def Obligations.Bus_Writes_And_Bridge_Frames_Are_Judged : Prop :=
  ∀ (party other : Party) (page : PageIx) (a : Nat) (v w : Word) (b : Bridge) (f : BridgeFrameIn) (s : State), Awake s →
    let p := page.val
    let en := pageAddr p 0x14
    let st := pageAddr p 0x10
    let reports (u : State) (l : List Report) : Prop := u.bus.reports = l
    let takes (w : Word) (u : State) : Prop := ∀ d, regAt p 0x14 = some d → ∀ g ∈ d.fields, bitsOf (rdReg u en) g.hi g.lo = bitsOf w g.hi g.lo
    let k := rxKey b f.carried
    let rx := tabGet (fun _ => BridgeRx.fresh) s.bridges k
    let right := bridgeOk f = true ∧ f.seq.toNat = rx.seq
    let now (u : State) : BridgeRx := tabGet (fun _ => BridgeRx.fresh) u.bridges k
    (a % 4 ≠ 0 ∨ (0x10000 ≤ a ∧ a < 0x100000) ∨ 0x360000 ≤ a ∨ (a < 0x10000 ∧ (pageKind (a / 0x400) = none
        ∨ (pageOff (a / 0x400) s = false ∧ regAt (a / 0x400) (a % 0x400) = none))) →
      DoesWrite (.registerWrite [⟨party, a, v⟩]) s fun u => reports u [⟨party, a, .addrErr⟩] ∧ RegsBut [] s u ∧ u.mem = s.mem)
    ∧ ((pageKind p).isSome = true →
      (pageOff p s = true → DoesWrite (.registerWrite [⟨party, en, v⟩]) s fun u => reports u [⟨party, en, .domainOff⟩] ∧ RegsBut [] s u)
      ∧ (MayWrite party p true s →
        DoesWrite (.registerWrite [⟨party, en, v⟩]) s (fun u => reports u [⟨party, en, .done⟩] ∧ takes v u ∧ RegsBut [en, pageAddr p 0x2C] s u)
        ∧ (p ≠ dinPg → DoesWrite (.registerWrite [⟨party, st, v⟩]) s fun u => reports u [⟨party, st, .done⟩] ∧ RegsBut [st] s u
            ∧ ∀ d, regAt p 0x10 = some d → ∀ g ∈ d.fields, ∀ n, g.lo ≤ n → n ≤ g.hi →
                (rdReg u st).getLsbD n = ((rdReg s st).getLsbD n && (!v.getLsbD n || (thisCycle s).set.contains (st, n)))))
      ∧ (pageOff p s = false → pageOwns p party s = false → (∃ d, regAt p 0x14 = some d ∧ ∃ g ∈ d.fields, bitsOf (rdReg s en) g.hi g.lo ≠ bitsOf v g.hi g.lo) →
        DoesWrite (.registerWrite [⟨party, en, v⟩]) s fun u => reports u [⟨party, en, .refused⟩]
          ∧ RegsBut (match party with | .eng e => [fldAddr ENG.COUNT_REFUSE (engPg e.val) 0] | _ => []) s u)
      ∧ (MayWrite party p true s → MayWrite other p true s → party.rank < other.rank →
        (∃ d, regAt p 0x14 = some d ∧ ∃ g ∈ d.fields, bitsOf (rdReg s en) g.hi g.lo ≠ bitsOf v g.hi g.lo ∧ bitsOf (rdReg s en) g.hi g.lo ≠ bitsOf w g.hi g.lo) →
        DoesWrite (.registerWrite [⟨other, en, w⟩, ⟨party, en, v⟩]) s fun u => reports u [⟨party, en, .done⟩, ⟨other, en, .collided⟩] ∧ takes v u
          ∧ (other = .host → irq p 3 u = true)))
    ∧ Does (.bridgeFrame b f) s (fun u => Outside [0] s u ∧ (s.pwr.standby = true → u = clearReports s) ∧ (s.pwr.standby = false →
        (∀ j, j ≠ k → tabGet (fun _ => BridgeRx.fresh) u.bridges j = tabGet (fun _ => BridgeRx.fresh) s.bridges j)
        ∧ (right → now u = ⟨(rx.seq + 1) % 256, false⟩ ∧ u.flt = s.flt ∧ RegsBut [] s u)
        ∧ (¬ right → rx.again = false → now u = { rx with again := true } ∧ u.flt = s.flt ∧ irq 0 16 u = true
            ∧ getW (match b with | .ca => DEV.BRIDGE_CA_RETRY | .cp => DEV.BRIDGE_CP_RETRY) 0 0 u
                = satN 255 (getW (match b with | .ca => DEV.BRIDGE_CA_RETRY | .cp => DEV.BRIDGE_CP_RETRY) 0 0 s + 1))
        ∧ (¬ right → rx.again = true → now u = ⟨(rx.seq + 1) % 256, false⟩
            ∧ Sent 0 (match b with | .ca => 1 | .cp => 2) kDevBridgeCrc f.addr.toNat s u
            ∧ getW (match b with | .ca => DEV.BRIDGE_CA_FAIL | .cp => DEV.BRIDGE_CP_FAIL) 0 0 u
                = satN 255 (getW (match b with | .ca => DEV.BRIDGE_CA_FAIL | .cp => DEV.BRIDGE_CP_FAIL) 0 0 s + 1))))
    ∧ (MayWrite party tickPg false s → Does (.tickMonClr party) s fun u => Acked party (pageAddr tickPg 0x12C) u ∧ u.time.monClr = true ∧ RegsBut [] s u)

/-! ### The device as a whole -/

/-- A step takes the command at the front of the queue and carries it out with the rest of the queue behind it. On an empty queue one system
clock passes: the model's choice (log entry 1), which keeps every part but the time, and presents again what reactions of the collector could
not write (R277). -/
def Obligations.A_Step_Carries_Out_The_Front_Command : Prop :=
  ∀ (c : Instr) (q : List Instr) (s : State),
    step { s with pending := c :: q } = exec c { s with pending := q }
    ∧ ∃ u, step { s with pending := [] } = .next u ∧ u.pending = [] ∧ u.time.tick = s.time.tick ∧ u.time.ticks = s.time.ticks
      ∧ (∀ p, p ≠ Part.time → p ≠ Part.regs → p ≠ Part.flt → agree p s u) ∧ (∀ a, quiet a = true → rdReg u a = rdReg s a)
      ∧ (s.flt.retry = [] → agree .regs s u ∧ agree .flt s u)
      ∧ (s.time.cycle + 1 < phaseLen s s.time.phase → u.time.cycle = s.time.cycle + 1 ∧ u.time.phase = s.time.phase)
      ∧ (¬ s.time.cycle + 1 < phaseLen s s.time.phase → s.time.phase < 124 → u.time.cycle = 0 ∧ u.time.phase = s.time.phase + 1)

/-- Every command of every row completes in a device that is awake: it answers a next state, leaves the queue, and changes no part
of the state but those of its footprint and those that the collector, the recorder's queue and the outputs make up. -/
def Obligations.Every_Command_Completes_Within_Its_Parts : Prop :=
  ∀ (i : Instr) (s : State), Awake s →
    ∃ t, exec i s = .next t ∧ t.pending = s.pending ∧ ∀ p, p ∉ footprint i → p ∉ settled → agree p s t

/-- R476, R485, R486: in a device that is held in reset, or is in DEEP, only the commands of the WATCH domain, of the reset sources and of the test
access port act: every other command leaves everything as it stands. -/
def Obligations.A_Dormant_Device_Ignores_Commands : Prop :=
  ∀ (i : Instr) (s : State), dormant s = true →
    (actsAlways i = false → exec i s = .next (keepQueue s (clearReports s)))
    ∧ (actsAlways i = true → ∃ t, exec i s = .next t ∧ t.pending = s.pending)

/-- R320: from a state in which every output stands where its governing row and its channel demand, every step leads to such a
state; a device that is held or is in DEEP drives no outputs, so of it nothing is asked. The bytes of the memory keep their
canonical form on every step. -/
def Obligations.Every_Step_Keeps_Outputs_And_Memory : Prop :=
  ∀ (s t : State), step s = .next t →
    ((dormant s = false → Governed s) → dormant t = false → Governed t) ∧ (Memory.wf s.mem = true → Memory.wf t.mem = true)

/-- R37, R361 and the reset columns of chapter 1: the device right after reset. Every page is owned by HOST, as before it, and unlocked,
reports lateness from the third late tick on, no interrupt shows and none is enabled, RUN reads 1 on the pages that run from reset
and 0 elsewhere, the tick count is 0, no scope is in reaction or latched, the history is empty, no command waits, the memory is in its
canonical form, and every output stands at what governs it. -/
def Obligations.Reset_Leaves_What_The_Registers_Say : Prop :=
  let s := State.reset
  s.pending = [] ∧ Awake s ∧ Memory.wf s.mem = true ∧ Governed s ∧ s.time.tick = 0 ∧ s.flt.hist = []
    ∧ (∀ p < 64, (pageKind p).isSome = true → getF CMN.OWN_OWNER p 0 s = 3 ∧ getW CMN.OWN_PREV_OWNER p 0 s = 3 ∧ getW CMN.CTRL_LATE_LIMIT p 0 s = 3 ∧
      getB CMN.LOCK_LOCKED p 0 s = false ∧ getB CMN.LOCK_PERM p 0 s = false
      ∧ rdReg s (pageAddr p 0x10) = 0 ∧ rdReg s (pageAddr p 0x14) = 0 ∧ getB CMN.CTRL_RUN p 0 s = alwaysRun p)
    ∧ (∀ k < 9, (scopeAt s k).react = false ∧ (scopeAt s k).latched = false)

/-- R320, R348, R361: what follows a command in its cycle: the collector, the recorder's queue and the outputs change nothing but their own parts
and the registers that show them, each of up to four messages on its way stands in the history afterwards, and every output stands at
what governs it. -/
def Obligations.What_Follows_A_Command_Delivers_And_Governs : Prop :=
  ∀ (u : State), Governed (settle u) ∧ (settle u).pending = u.pending ∧ (∀ p, p ∉ settled → agree p u (settle u))
    ∧ (∀ a, quiet a = true → rdReg (settle u) a = rdReg u a)
    ∧ (u.flt.outbox.length ≤ 4 → ∀ m ∈ u.flt.outbox, ∃ h ∈ (settle u).flt.hist,
        h.src = m.src ∧ h.kind = m.kind ∧ h.addr = m.addr ∧ h.tick = m.tick)

/-! ### Where the fan commands act (chapter 11) -/

/-- R327, R329 to R332: where the fan commands act, and what each makes of its channel. An edge is always noted. A kick whose window has
passed ends in the back-off before its next retry, after the third in LOCKOUT; a back-off that has passed ends in a kick where a duty is governed
and waits for one in OFF elsewhere; a doubt that has lasted a long tide ends in a stall without the second evidence and in TACHLOST with it; a trip
comes from every other state; and a clear is noted for the next tick boundary. -/
def Obligations.Fan_Commands_Complete_Where_They_Act : Prop :=
  ∀ (party : Party) (fan : Fin 12) (period : Option Nat) (amp : Nat) (thermal : Bool) (s : State), Awake s →
    let n := fan.val
    let x := fanSt s n
    let reached (us : Nat) : Prop := us / 125 ≤ s.time.ticks
    let a := pageAddr fanPg (0x100 + 0x20 * n)
    let completes (i : Instr) (f : FanState → State → Prop) : Prop :=
      ∃ t u, exec i s = .next t ∧ t = keepQueue s (settle u) ∧ t.pending = s.pending ∧ f (fanSt u n) u
    let backoff (r : Nat) (y : FanState) (u : State) : Prop := y.st = 3 ∧ y.out = 0 ∧ y.retry = r - 1
      ∧ y.due = usNow u + getF FAN.CH_EVID_BACKOFF fanPg n s * 2 ^ (r - 1) * 1000000
    completes (.tachEdge fan period) (fun y _ => y.tp = period ∧ y.edge = usNow s ∧ y.st = x.st ∧ y.out = x.out)
    ∧ (x.st = 1 → reached x.due → x.retry < 3 →
      completes (.kickTimeout fan) fun y u => backoff (x.retry + 1) y u ∧ y.told = true ∧ irq fanPg 17 u = true)
    ∧ (x.st = 1 → reached x.due → 3 ≤ x.retry →
      completes (.kickTimeout fan) fun y u => y.st = 4 ∧ y.out = 0 ∧ irq fanPg 17 u = true ∧ Sent fanPg 2 kFanStallLockout n s u)
    ∧ (x.st = 3 → reached x.due →
      completes (.backoffEnd fan) fun y u =>
        (fanGoverned n u = 0 → y.st = 0 ∧ y.pend = true ∧ y.retry = x.retry)
        ∧ (0 < fanGoverned n u → y.pend = false ∧ (y.st = 1 ∧ y.out = 1000 ∧ y.retry = x.retry + 1
            ∧ y.due = usNow u + getF FAN.CH_CFG_KICK_TO fanPg n s * 100000 ∨ y.st = 2 ∧ y.out = fanGoverned n u ∧ y.retry = 0)))
    ∧ (∀ t, x.doubt = some t → t + 8192 ≤ s.time.ticks → fanEvidence n amp s = false →
      completes (.tachDoubt fan amp) fun y u => backoff 1 y u ∧ Sent fanPg 2 kFanStall n s u)
    ∧ (∀ t, x.doubt = some t → t + 8192 ≤ s.time.ticks → fanEvidence n amp s = true → x.st = 2 →
      completes (.tachDoubt fan amp) fun y u => y.st = 6 ∧ y.out = x.out ∧ irq fanPg 18 u = true ∧ Sent fanPg 2 kFanTachLost n s u)
    ∧ (x.st ≠ 5 → completes (.fanTrip fan thermal) fun y u =>
        y.st = 5 ∧ y.out = 0 ∧ irq fanPg 16 u = true ∧ Sent fanPg (if thermal then 0xFF else 1) kFanOutput n s u)
    ∧ (MayWriteUnit party fanPg n true s → CommandBitsZero fanPg (0x100 + 0x20 * n) s →
        completes (.stallClr party fan) (fun y u => Acked party a u ∧ y = { x with stallClr := true })
        ∧ completes (.fanTripClr party fan) fun y u => Acked party a u ∧ y = { x with tripClr := true })
end

