-- ==== Sys2Proof/Laws/Tab.lean ====
section
/-!
SUPPORT. Laws of the sparse stores: what a read gives after a write, and that every operation keeps the canonical form.
-/
namespace Sys2Proof.Machine

variable {α : Type}

theorem tabGet_ins (d : Nat → α) (t : Tab α) (k j : Nat) (v : α) :
    tabGet d (tabIns k v t) j = if k = j then v else tabGet d t j := by
  induction t with
  | nil => simp [tabIns, tabGet]
  | cons e t ih =>
    obtain ⟨i, u⟩ := e
    unfold tabIns
    split
    · by_cases h : k = j <;> simp [tabGet, h]
    · split
      · rename_i h; subst h
        by_cases h : k = j <;> simp [tabGet, h]
      · simp only [tabGet, ih]
        by_cases h : i = j
        · subst h; simp_all
        · simp [h]

theorem tabGet_del (d : Nat → α) (t : Tab α) (k j : Nat) :
    tabGet d (tabDel t k) j = if k = j then d j else tabGet d t j := by
  induction t with
  | nil => simp [tabDel, tabGet]
  | cons e t ih =>
    obtain ⟨i, u⟩ := e
    simp only [tabDel] at ih ⊢
    by_cases h : i = k
    · subst h
      simp only [List.filter_cons, bne_self_eq_false, Bool.false_eq_true, if_false, ih, tabGet]
      by_cases h : i = j <;> simp [h]
    · simp only [List.filter_cons, bne_iff_ne, ne_eq, h, not_false_eq_true, if_true, tabGet, ih]
      by_cases h' : i = j
      · subst h'; simp [Ne.symm h]
      · simp [h']

/-- A read after a write of the same store. -/
theorem tabGet_set [DecidableEq α] (d : Nat → α) (t : Tab α) (k j : Nat) (v : α) :
    tabGet d (tabSet d t k v) j = if k = j then v else tabGet d t j := by
  unfold tabSet
  split
  · rename_i h; subst h
    rw [tabGet_del]
    by_cases h : k = j
    · subst h; simp
    · simp [h]
  · exact tabGet_ins d t k j v

@[simp] theorem tabGet_set_self [DecidableEq α] (d : Nat → α) (t : Tab α) (k : Nat) (v : α) :
    tabGet d (tabSet d t k v) k = v := by simp [tabGet_set]

theorem tabGet_set_ne [DecidableEq α] (d : Nat → α) (t : Tab α) (v : α) {k j : Nat} (h : k ≠ j) :
    tabGet d (tabSet d t k v) j = tabGet d t j := by simp [tabGet_set, h]

theorem tabWf_iff [DecidableEq α] (d : Nat → α) (t : Tab α) :
    tabWf d t = true ↔ t.Pairwise (fun a b => a.1 < b.1) ∧ ∀ e ∈ t, e.2 ≠ d e.1 := by
  simp [tabWf]

@[simp] theorem tabWf_nil [DecidableEq α] (d : Nat → α) : tabWf d ([] : Tab α) = true := by simp [tabWf]

/-- A part of a canonical store is canonical. -/
theorem tabWf_sublist [DecidableEq α] {d : Nat → α} {t u : Tab α} (h : u.Sublist t) (w : tabWf d t = true) :
    tabWf d u = true := by
  rw [tabWf_iff] at *
  exact ⟨w.1.sublist h, fun e he => w.2 e (h.subset he)⟩

theorem mem_tabIns (k : Nat) (v : α) (t : Tab α) (e : Nat × α) (h : e ∈ tabIns k v t) : e = (k, v) ∨ e ∈ t := by
  induction t with
  | nil => simpa [tabIns] using h
  | cons f t ih =>
    obtain ⟨j, u⟩ := f
    unfold tabIns at h
    split at h
    · simpa using h
    · split at h
      · simp only [List.mem_cons] at h ⊢; tauto
      · simp only [List.mem_cons] at h ⊢
        rcases h with h | h
        · exact .inr (.inl h)
        · rcases ih h with h | h
          · exact .inl h
          · exact .inr (.inr h)

theorem tabIns_pairwise (k : Nat) (v : α) (t : Tab α) (h : t.Pairwise fun a b => a.1 < b.1) :
    (tabIns k v t).Pairwise fun a b => a.1 < b.1 := by
  induction t with
  | nil => simp [tabIns]
  | cons f t ih =>
    obtain ⟨j, u⟩ := f
    rw [List.pairwise_cons] at h
    unfold tabIns
    split
    · rename_i hk
      rw [List.pairwise_cons, List.pairwise_cons]
      refine ⟨fun e he => ?_, h⟩
      rcases List.mem_cons.1 he with rfl | he
      · exact hk
      · exact lt_trans hk (h.1 e he)
    · split
      · rename_i hk
        subst hk
        rw [List.pairwise_cons]
        exact ⟨h.1, h.2⟩
      · rw [List.pairwise_cons]
        refine ⟨fun e he => ?_, ih h.2⟩
        rcases mem_tabIns k v t e he with rfl | he
        · simp only; omega
        · exact h.1 e he

/-- A write keeps the canonical form. -/
theorem tabWf_set [DecidableEq α] {d : Nat → α} {t : Tab α} (k : Nat) (v : α) (w : tabWf d t = true) :
    tabWf d (tabSet d t k v) = true := by
  unfold tabSet
  split
  · exact tabWf_sublist List.filter_sublist w
  · rename_i hv
    rw [tabWf_iff] at *
    refine ⟨tabIns_pairwise k v t w.1, fun e he => ?_⟩
    rcases mem_tabIns k v t e he with rfl | he
    · exact hv
    · exact w.2 e he

theorem tabWf_drop [DecidableEq α] {d : Nat → α} {t : Tab α} (lo hi : Nat) (w : tabWf d t = true) :
    tabWf d (tabDrop t lo hi) = true := tabWf_sublist List.filter_sublist w

theorem tabWf_copy [DecidableEq α] {d : Nat → α} (u : Tab α) {t : Tab α} (lo hi : Nat) (w : tabWf d t = true) :
    tabWf d (tabCopy d u t lo hi) = true := by
  unfold tabCopy
  have : ∀ (l : Tab α) (a : Tab α), tabWf d a = true →
      tabWf d (l.foldl (fun acc e => tabSet d acc e.1 e.2) a) = true := by
    intro l
    induction l with
    | nil => intro a h; exact h
    | cons e l ih => intro a h; exact ih _ (tabWf_set _ _ h)
  exact this _ _ (tabWf_drop lo hi w)

/-- A read of a canonical store finds exactly what it lists. -/
theorem tabGet_mem {d : Nat → α} {t : Tab α} (h : t.Pairwise fun a b => a.1 < b.1) {e : Nat × α} (he : e ∈ t) :
    tabGet d t e.1 = e.2 := by
  induction t with
  | nil => simp at he
  | cons f t ih =>
    obtain ⟨j, u⟩ := f
    rw [List.pairwise_cons] at h
    rcases List.mem_cons.1 he with rfl | he
    · simp [tabGet]
    · have := h.1 e he
      simp only [tabGet]
      rw [if_neg (by simp only at this; omega)]
      exact ih h.2 he

theorem tabGet_of_not_mem {d : Nat → α} {t : Tab α} {k : Nat} (h : ∀ e ∈ t, e.1 ≠ k) : tabGet d t k = d k := by
  induction t with
  | nil => rfl
  | cons f t ih =>
    obtain ⟨j, u⟩ := f
    simp only [tabGet]
    rw [if_neg (h (j, u) (by simp))]
    exact ih fun e he => h e (List.mem_cons_of_mem _ he)

end Sys2Proof.Machine
end

