-- ==== Sys2Proof/Laws/State.lean ====
section
/-!
SUPPORT. Laws of the named operations over registers, bytes and time: what each update leaves in every register and byte, and
which parts of the state it does not touch.
-/
namespace Sys2Proof.Machine

/-! ### Bits of a word -/

theorem bitsOf_lt (w : Word) (hi lo : Nat) : bitsOf w hi lo < 2 ^ (hi - lo + 1) := Nat.mod_lt _ (by positivity)

theorem bitsOf_testBit (w : Word) (hi lo i : Nat) :
    (bitsOf w hi lo).testBit i = (decide (i < hi - lo + 1) && w.getLsbD (lo + i)) := by
  simp [bitsOf, Nat.testBit_mod_two_pow, Nat.testBit_shiftRight, BitVec.getLsbD]

theorem setBits_toNat (w : Word) (hi lo v : Nat) (h : lo ≤ hi) (h' : hi < 32) :
    (setBits w hi lo v).toNat
      = w.toNat / 2 ^ (hi + 1) * 2 ^ (hi + 1) + v % 2 ^ (hi - lo + 1) * 2 ^ lo + w.toNat % 2 ^ lo := by
  unfold setBits
  simp only [BitVec.toNat_ofNat, Nat.shiftRight_eq_div_pow]
  obtain ⟨k, rfl⟩ : ∃ k, hi = lo + k := ⟨hi - lo, by omega⟩
  have hk : lo + k - lo + 1 = k + 1 := by omega
  rw [hk]
  have e1 : (2 : Nat) ^ (lo + k + 1) = 2 ^ lo * 2 ^ (k + 1) := by rw [← Nat.pow_add]; congr 1
  rw [e1]
  set n := w.toNat with hn
  set A := 2 ^ lo with hA
  set B := 2 ^ (k + 1) with hB
  have hA0 : 0 < A := by positivity
  have hB0 : 0 < B := by positivity
  have hAB : A * B ≤ 2 ^ 32 := by rw [← e1]; exact Nat.pow_le_pow_right (by norm_num) (by omega)
  have hdvd : A * B ∣ 2 ^ 32 := by rw [← e1]; exact Nat.pow_dvd_pow 2 (by omega)
  have hlt : n < 2 ^ 32 := w.isLt
  have d1 : n = A * (n / A) + n % A := (Nat.div_add_mod n A).symm
  have d2 : n / A = B * (n / A / B) + n / A % B := (Nat.div_add_mod _ B).symm
  have d3 : n / A / B = n / (A * B) := Nat.div_div_eq_div_mul _ _ _
  rw [d3] at d2
  have hq : n / (A * B) * (A * B) ≤ 2 ^ 32 - A * B := by
    obtain ⟨c, hc⟩ := hdvd
    have : n / (A * B) < c := by
      rw [Nat.div_lt_iff_lt_mul (by positivity)]
      calc n < 2 ^ 32 := hlt
        _ = c * (A * B) := by rw [hc, Nat.mul_comm]
    have h2 : (n / (A * B) + 1) * (A * B) ≤ c * (A * B) := Nat.mul_le_mul_right _ this
    rw [hc, Nat.mul_comm (A * B) c]
    rw [Nat.add_mul, Nat.one_mul] at h2
    omega
  have hm : n / A % B * A + n % A < A * B := by
    have a1 : n / A % B ≤ B - 1 := by have := Nat.mod_lt (n / A) hB0; omega
    have a2 : n % A < A := Nat.mod_lt _ hA0
    calc n / A % B * A + n % A < n / A % B * A + A := by omega
      _ = (n / A % B + 1) * A := by ring
      _ ≤ B * A := Nat.mul_le_mul_right _ (by omega)
      _ = A * B := Nat.mul_comm _ _
  have hv : v % B * A + n % A < A * B := by
    have a1 : v % B ≤ B - 1 := by have := Nat.mod_lt v hB0; omega
    have a2 : n % A < A := Nat.mod_lt _ hA0
    calc v % B * A + n % A < v % B * A + A := by omega
      _ = (v % B + 1) * A := by ring
      _ ≤ B * A := Nat.mul_le_mul_right _ (by omega)
      _ = A * B := Nat.mul_comm _ _
  have hn' : n = n / (A * B) * (A * B) + n / A % B * A + n % A := by
    have e : A * (n / A) = n / (A * B) * (A * B) + n / A % B * A := by
      conv_lhs => rw [d2]
      ring
    omega
  rw [Nat.mod_eq_of_lt] <;> omega

theorem setBits_getLsbD (w : Word) (hi lo v i : Nat) (h : lo ≤ hi) (h' : hi < 32) :
    (setBits w hi lo v).getLsbD i = if lo ≤ i ∧ i ≤ hi then v.testBit (i - lo) else w.getLsbD i := by
  have e := setBits_toNat w hi lo v h h'
  have key : ∀ i, (setBits w hi lo v).toNat.testBit i
      = if lo ≤ i ∧ i ≤ hi then v.testBit (i - lo) else w.toNat.testBit i := by
    intro i
    rw [e]
    have f : w.toNat / 2 ^ (hi + 1) * 2 ^ (hi + 1) + v % 2 ^ (hi - lo + 1) * 2 ^ lo + w.toNat % 2 ^ lo
        = 2 ^ lo * (2 ^ (hi - lo + 1) * (w.toNat / 2 ^ (hi + 1)) + v % 2 ^ (hi - lo + 1)) + w.toNat % 2 ^ lo := by
      have : (2 : Nat) ^ (hi + 1) = 2 ^ lo * 2 ^ (hi - lo + 1) := by rw [← Nat.pow_add]; congr 1; omega
      rw [Nat.mul_add, ← Nat.mul_assoc, ← this]; ring
    rw [f, Nat.testBit_two_pow_mul_add _ (Nat.mod_lt _ (by positivity))]
    by_cases h1 : i < lo
    · simp [h1, Nat.testBit_mod_two_pow]
    · rw [if_neg h1, Nat.testBit_two_pow_mul_add _ (Nat.mod_lt _ (by positivity))]
      by_cases h2 : i - lo < hi - lo + 1
      · rw [if_pos h2, if_pos ⟨by omega, by omega⟩, Nat.testBit_mod_two_pow]; simp [h2]
      · rw [if_neg h2, if_neg (by omega), Nat.testBit_div_two_pow]
        congr 1; omega
  simpa [BitVec.getLsbD] using key i

/-- A field just put reads the value put, modulo its width. -/
theorem bitsOf_setBits_self (w : Word) (hi lo v : Nat) (h : lo ≤ hi) (h' : hi < 32) :
    bitsOf (setBits w hi lo v) hi lo = v % 2 ^ (hi - lo + 1) := by
  apply Nat.eq_of_testBit_eq
  intro i
  rw [bitsOf_testBit, setBits_getLsbD _ _ _ _ _ h h', Nat.testBit_mod_two_pow]
  by_cases hi' : i < hi - lo + 1
  · rw [if_pos ⟨by omega, by omega⟩]; simp
  · simp [hi']

/-- A field put leaves every field beside it. -/
theorem bitsOf_setBits_other (w : Word) (hi lo v hi' lo' : Nat) (h : lo ≤ hi) (h' : hi < 32)
    (hd : hi' < lo ∨ hi < lo') (hl : lo' ≤ hi') : bitsOf (setBits w hi lo v) hi' lo' = bitsOf w hi' lo' := by
  apply Nat.eq_of_testBit_eq
  intro i
  rw [bitsOf_testBit, bitsOf_testBit, setBits_getLsbD _ _ _ _ _ h h']
  by_cases hi'' : i < hi' - lo' + 1
  · rw [if_neg (by omega)]
  · simp [hi'']

/-! ### Registers -/

/-- A register just written reads what was written. -/
@[simp] theorem rdReg_wrReg (s : State) (a : Nat) (v : Word) : rdReg (wrReg s a v) a = v := by
  simp [rdReg, wrReg]

/-- A write of one register leaves every other register. -/
theorem rdReg_wrReg_ne (s : State) (v : Word) {a b : Nat} (h : a ≠ b) : rdReg (wrReg s a v) b = rdReg s b := by
  simp [rdReg, wrReg, tabGet_set_ne _ _ _ h]

@[simp] theorem rdForce_wrForce (s : State) (a : Nat) (v : Word) : rdForce (wrForce s a v) a = v := by
  simp [rdForce, wrForce]

theorem rdForce_wrForce_ne (s : State) (v : Word) {a b : Nat} (h : a ≠ b) : rdForce (wrForce s a v) b = rdForce s b := by
  simp [rdForce, wrForce, tabGet_set_ne _ _ _ h]

@[simp] theorem rdReg_setF (f : Fld) (p u v : Nat) (s : State) :
    rdReg (setF f p u v s) (fldAddr f p u) = setBits (rdReg s (fldAddr f p u)) f.hi f.lo v := by simp [setF]

theorem rdReg_setF_ne (f : Fld) (p u v : Nat) (s : State) {a : Nat} (h : fldAddr f p u ≠ a) :
    rdReg (setF f p u v s) a = rdReg s a := by simp [setF, rdReg_wrReg_ne _ _ h]

theorem rdReg_setB_ne (f : Fld) (p u : Nat) (b : Bool) (s : State) {a : Nat} (h : fldAddr f p u ≠ a) :
    rdReg (setB f p u b s) a = rdReg s a := rdReg_setF_ne f p u _ s h

theorem rdReg_incSat_ne (f : Fld) (p u : Nat) (s : State) {a : Nat} (h : fldAddr f p u ≠ a) :
    rdReg (incSat f p u s) a = rdReg s a := rdReg_setF_ne f p u _ s h

theorem rdReg_incMod_ne (f : Fld) (p u : Nat) (s : State) {a : Nat} (h : fldAddr f p u ≠ a) :
    rdReg (incMod f p u s) a = rdReg s a := rdReg_setF_ne f p u _ s h

/-- A note about the present cycle touches the notes alone. -/
@[simp] theorem rdReg_noteBit (a n : Nat) (s : State) (b : Nat) : rdReg (noteBit a n s) b = rdReg s b := rfl
@[simp] theorem noteBit_drv (a n : Nat) (s : State) : (noteBit a n s).drv = s.drv := rfl
@[simp] theorem noteBit_flt (a n : Nat) (s : State) : (noteBit a n s).flt = s.flt := rfl
@[simp] theorem noteBit_eng (a n : Nat) (s : State) : (noteBit a n s).eng = s.eng := rfl
@[simp] theorem noteBit_time (a n : Nat) (s : State) : (noteBit a n s).time = s.time := rfl
@[simp] theorem noteBit_mem (a n : Nat) (s : State) : (noteBit a n s).mem = s.mem := rfl
@[simp] theorem noteBit_pwr (a n : Nat) (s : State) : (noteBit a n s).pwr = s.pwr := rfl

theorem rdReg_setIrq_ne (p n : Nat) (s : State) {a : Nat} (h : pageAddr p 0x10 ≠ a) :
    rdReg (setIrq p n s) a = rdReg s a := by simp [setIrq, rdReg_wrReg_ne _ _ h]

theorem rdReg_noteCount_ne (f : Fld) (p u : Nat) (s : State) {a : Nat} (h : fldAddr f p u ≠ a) :
    rdReg (noteCount f p u s) a = rdReg s a := by simp [noteCount, rdReg_incSat_ne _ _ _ _ h]

theorem rdReg_setSeen_ne (f : Fld) (p u : Nat) (s : State) {a : Nat} (h : fldAddr f p u ≠ a) :
    rdReg (setSeen f p u s) a = rdReg s a := by simp [setSeen, rdReg_setB_ne _ _ _ _ _ h]

/-- A field put as it stands in the state reads what was put. -/
theorem getW_setF (f : Fld) (p u v : Nat) (s : State) (h : f.lo ≤ f.hi) (h' : f.hi < 32) :
    getW f p u (setF f p u v s) = v % 2 ^ (f.hi - f.lo + 1) := by
  simp [getW, bitsOf_setBits_self _ _ _ _ h h']

/-- A field put leaves every field of another register and every field beside it. -/
theorem getW_setF_other {f g : Fld} {p u q w : Nat} (v : Nat) (s : State) (hf : f.lo ≤ f.hi ∧ f.hi < 32) (hg : g.lo ≤ g.hi)
    (h : fldAddr f p u ≠ fldAddr g q w ∨ g.hi < f.lo ∨ f.hi < g.lo) : getW g q w (setF f p u v s) = getW g q w s := by
  unfold getW
  by_cases ha : fldAddr f p u = fldAddr g q w
  · rw [← ha, rdReg_setF, bitsOf_setBits_other _ _ _ _ _ _ hf.1 hf.2 (h.resolve_left (fun n => n ha)) hg]
  · rw [rdReg_setF_ne _ _ _ _ _ ha]

/-- The same for two fields of one page and unit. -/
theorem getW_setF_beside {f g : Fld} {p u : Nat} (v : Nat) (s : State) (hf : f.lo ≤ f.hi ∧ f.hi < 32) (hg : g.lo ≤ g.hi)
    (h : (f.stride = g.stride ∧ f.off ≠ g.off) ∨ g.hi < f.lo ∨ f.hi < g.lo) : getW g p u (setF f p u v s) = getW g p u s := by
  refine getW_setF_other v s hf hg (h.imp_left fun h e => h.2 ?_)
  simp only [fldAddr, pageAddr, h.1] at e
  omega

/-- A field that is not double-buffered reads as written. -/
theorem getF_eq {f : Fld} (h : f.acc ≠ .rwd) (p u : Nat) (s : State) : getF f p u s = getW f p u s := by simp [getF, h]

theorem getW_congr {f : Fld} {p u : Nat} {s t : State} (h : rdReg t (fldAddr f p u) = rdReg s (fldAddr f p u)) :
    getW f p u t = getW f p u s := by unfold getW; rw [h]

/-! ### Operations on one unit after another -/

/-- What an operation over all units below `n` makes of unit `e`: the operation on `e`, between operations on other units. -/
theorem forN_visit {f : Nat → State → State} {Sim : State → State → Prop} (n e : Nat) (he : e < n) (hr : ∀ s, Sim s s)
    (ht : ∀ s t u, Sim s t → Sim t u → Sim s u) (hf : ∀ i s, i ≠ e → Sim s (f i s)) (s : State) :
    ∃ u, Sim s u ∧ Sim (f e u) (forN n f s) := by
  have walk (l : List Nat) (hl : e ∉ l) (s : State) : Sim s (l.foldl (fun a i => f i a) s) := by
    induction l generalizing s with
    | nil => exact hr s
    | cons i l ih =>
      rw [List.mem_cons, not_or] at hl
      exact ht _ _ _ (hf i s (Ne.symm hl.1)) (ih hl.2 _)
  have cut : List.range n = List.range e ++ e :: List.range' (e + 1) (n - e - 1) := by
    have h1 : n = e + ((n - e - 1) + 1) := by omega
    rw [show List.range n = List.range' 0 n from List.range_eq_range', show List.range e = List.range' 0 e from List.range_eq_range', h1,
      ← List.range'_append_1 (s := 0) (m := e) (n := n - e - 1 + 1), Nat.zero_add, List.range'_succ]
    congr 4
    omega
  refine ⟨(List.range e).foldl (fun a i => f i a) s, walk _ (by simp) s, ?_⟩
  unfold forN
  rw [cut, List.foldl_append, List.foldl_cons]
  exact walk _ (by simp) _

/-! ### Parts of the state that an update leaves -/

@[simp] theorem rdReg_wrForce (s : State) (a : Nat) (v : Word) (b : Nat) : rdReg (wrForce s a v) b = rdReg s b := rfl
@[simp] theorem rdForce_wrReg (s : State) (a : Nat) (v : Word) (b : Nat) : rdForce (wrReg s a v) b = rdForce s b := rfl

@[simp] theorem wrReg_pending (s : State) (a : Nat) (v : Word) : (wrReg s a v).pending = s.pending := rfl
@[simp] theorem wrReg_force (s : State) (a : Nat) (v : Word) : (wrReg s a v).force = s.force := rfl
@[simp] theorem wrReg_win (s : State) (a : Nat) (v : Word) : (wrReg s a v).win = s.win := rfl
@[simp] theorem wrReg_act (s : State) (a : Nat) (v : Word) : (wrReg s a v).act = s.act := rfl
@[simp] theorem wrReg_mem (s : State) (a : Nat) (v : Word) : (wrReg s a v).mem = s.mem := rfl
@[simp] theorem wrReg_time (s : State) (a : Nat) (v : Word) : (wrReg s a v).time = s.time := rfl
@[simp] theorem wrReg_bus (s : State) (a : Nat) (v : Word) : (wrReg s a v).bus = s.bus := rfl
@[simp] theorem wrReg_flt (s : State) (a : Nat) (v : Word) : (wrReg s a v).flt = s.flt := rfl
@[simp] theorem wrReg_recd (s : State) (a : Nat) (v : Word) : (wrReg s a v).recd = s.recd := rfl
@[simp] theorem wrReg_clk (s : State) (a : Nat) (v : Word) : (wrReg s a v).clk = s.clk := rfl
@[simp] theorem wrReg_wch (s : State) (a : Nat) (v : Word) : (wrReg s a v).wch = s.wch := rfl
@[simp] theorem wrReg_sns (s : State) (a : Nat) (v : Word) : (wrReg s a v).sns = s.sns := rfl
@[simp] theorem wrReg_rpt (s : State) (a : Nat) (v : Word) : (wrReg s a v).rpt = s.rpt := rfl
@[simp] theorem wrReg_moi (s : State) (a : Nat) (v : Word) : (wrReg s a v).moi = s.moi := rfl
@[simp] theorem wrReg_pubs (s : State) (a : Nat) (v : Word) : (wrReg s a v).pubs = s.pubs := rfl
@[simp] theorem wrReg_lpa (s : State) (a : Nat) (v : Word) : (wrReg s a v).lpa = s.lpa := rfl
@[simp] theorem wrReg_landOut (s : State) (a : Nat) (v : Word) : (wrReg s a v).landOut = s.landOut := rfl
@[simp] theorem wrReg_prf (s : State) (a : Nat) (v : Word) : (wrReg s a v).prf = s.prf := rfl
@[simp] theorem wrReg_trc (s : State) (a : Nat) (v : Word) : (wrReg s a v).trc = s.trc := rfl
@[simp] theorem wrReg_ldg (s : State) (a : Nat) (v : Word) : (wrReg s a v).ldg = s.ldg := rfl
@[simp] theorem wrReg_eng (s : State) (a : Nat) (v : Word) : (wrReg s a v).eng = s.eng := rfl
@[simp] theorem wrReg_drv (s : State) (a : Nat) (v : Word) : (wrReg s a v).drv = s.drv := rfl
@[simp] theorem wrReg_hst (s : State) (a : Nat) (v : Word) : (wrReg s a v).hst = s.hst := rfl
@[simp] theorem wrReg_can (s : State) (a : Nat) (v : Word) : (wrReg s a v).can = s.can := rfl
@[simp] theorem wrReg_lnk (s : State) (a : Nat) (v : Word) : (wrReg s a v).lnk = s.lnk := rfl
@[simp] theorem wrReg_nvs (s : State) (a : Nat) (v : Word) : (wrReg s a v).nvs = s.nvs := rfl
@[simp] theorem wrReg_dig (s : State) (a : Nat) (v : Word) : (wrReg s a v).dig = s.dig := rfl
@[simp] theorem wrReg_pwr (s : State) (a : Nat) (v : Word) : (wrReg s a v).pwr = s.pwr := rfl
@[simp] theorem wrReg_tap (s : State) (a : Nat) (v : Word) : (wrReg s a v).tap = s.tap := rfl
@[simp] theorem wrReg_bridges (s : State) (a : Nat) (v : Word) : (wrReg s a v).bridges = s.bridges := rfl
@[simp] theorem wrReg_cyc (s : State) (a : Nat) (v : Word) : (wrReg s a v).cyc = s.cyc := rfl
@[simp] theorem wrReg_fresh (s : State) (a : Nat) (v : Word) : (wrReg s a v).fresh = s.fresh := rfl

@[simp] theorem setF_flt (f : Fld) (p u v : Nat) (s : State) : (setF f p u v s).flt = s.flt := rfl
@[simp] theorem setF_drv (f : Fld) (p u v : Nat) (s : State) : (setF f p u v s).drv = s.drv := rfl
@[simp] theorem setF_time (f : Fld) (p u v : Nat) (s : State) : (setF f p u v s).time = s.time := rfl
@[simp] theorem setF_recd (f : Fld) (p u v : Nat) (s : State) : (setF f p u v s).recd = s.recd := rfl
@[simp] theorem setF_eng (f : Fld) (p u v : Nat) (s : State) : (setF f p u v s).eng = s.eng := rfl
@[simp] theorem setF_bus (f : Fld) (p u v : Nat) (s : State) : (setF f p u v s).bus = s.bus := rfl
@[simp] theorem setF_trc (f : Fld) (p u v : Nat) (s : State) : (setF f p u v s).trc = s.trc := rfl
@[simp] theorem setF_pwr (f : Fld) (p u v : Nat) (s : State) : (setF f p u v s).pwr = s.pwr := rfl
@[simp] theorem setF_mem (f : Fld) (p u v : Nat) (s : State) : (setF f p u v s).mem = s.mem := rfl

/-! ### Bytes -/

@[simp] theorem rdByte_wrByte (s : State) (a : Nat) (v : Byte) : rdByte (wrByte s a v) a = v := by
  simp [rdByte, wrByte]

theorem rdByte_wrByte_ne (s : State) (v : Byte) {a b : Nat} (h : a ≠ b) : rdByte (wrByte s a v) b = rdByte s b := by
  simp [rdByte, wrByte, tabGet_set_ne _ _ _ h]

/-- A stored word leaves every byte outside its four. -/
theorem rdByte_wrWord (s : State) (a : Nat) (v : Word) (b : Nat) (h : b < a ∨ a + 4 ≤ b) :
    rdByte (wrWord s a v) b = rdByte s b := by
  unfold wrWord
  simp only
  rw [rdByte_wrByte_ne _ _ (by omega), rdByte_wrByte_ne _ _ (by omega), rdByte_wrByte_ne _ _ (by omega),
    rdByte_wrByte_ne _ _ (by omega)]

/-- A stored word reads back. -/
@[simp] theorem rdWord_wrWord (s : State) (a : Nat) (v : Word) : rdWord (wrWord s a v) a = v := by
  unfold rdWord wrWord
  simp only [rdByte_wrByte, rdByte_wrByte_ne _ _ (show a + 3 ≠ a by omega), rdByte_wrByte_ne _ _ (show a + 3 ≠ a + 1 by omega),
    rdByte_wrByte_ne _ _ (show a + 3 ≠ a + 2 by omega), rdByte_wrByte_ne _ _ (show a + 2 ≠ a by omega),
    rdByte_wrByte_ne _ _ (show a + 2 ≠ a + 1 by omega), rdByte_wrByte_ne _ _ (show a + 1 ≠ a by omega), BitVec.toNat_ofNat]
  apply BitVec.eq_of_toNat_eq
  have := v.isLt
  simp only [ofN, BitVec.toNat_ofNat]
  omega

/-- Two words that do not overlap do not disturb each other. -/
theorem rdWord_wrWord_ne (s : State) (v : Word) {a b : Nat} (h : b + 4 ≤ a ∨ a + 4 ≤ b) :
    rdWord (wrWord s a v) b = rdWord s b := by
  unfold rdWord
  rw [rdByte_wrWord _ _ _ _ (by omega), rdByte_wrWord _ _ _ _ (by omega), rdByte_wrWord _ _ _ _ (by omega),
    rdByte_wrWord _ _ _ _ (by omega)]

theorem wrByte_wf {s : State} (a : Nat) (v : Byte) (h : Memory.wf s.mem = true) : Memory.wf (wrByte s a v).mem = true :=
  tabWf_set a v h

theorem wrWord_wf {s : State} (a : Nat) (v : Word) (h : Memory.wf s.mem = true) : Memory.wf (wrWord s a v).mem = true :=
  wrByte_wf _ _ (wrByte_wf _ _ (wrByte_wf _ _ (wrByte_wf _ _ h)))

theorem wrWords_wf {s : State} (a : Nat) (l : List Word) (h : Memory.wf s.mem = true) :
    Memory.wf (wrWords s a l).mem = true := by
  induction l generalizing s a with
  | nil => exact h
  | cons w l ih => exact ih _ (wrWord_wf a w h)

theorem zeroRange_wf {s : State} (a b : Nat) (h : Memory.wf s.mem = true) : Memory.wf (zeroRange a b s).mem = true :=
  tabWf_drop a b h

/-- Three canonical runs of cells, each below the next, make a canonical memory. -/
theorem wf_join {m mid : List Host.Cell} {b n : Nat} (h : Memory.wf m = true) (hm : mid.Pairwise fun x y => x.1 < y.1)
    (hr : ∀ e ∈ mid, b ≤ e.1 ∧ e.1 < b + n) (hv : ∀ e ∈ mid, e.2 ≠ byteReset e.1) :
    Memory.wf ((m.filter fun e => e.1 < b) ++ mid ++ m.filter fun e => b + n ≤ e.1) = true := by
  rw [Memory.wf, tabWf_iff] at *
  constructor
  · rw [List.pairwise_append, List.pairwise_append]
    refine ⟨⟨h.1.sublist List.filter_sublist, hm, ?_⟩, h.1.sublist List.filter_sublist, ?_⟩
    · intro x hx y hy
      have := (List.mem_filter.1 hx).2
      simp only [decide_eq_true_eq] at this
      have := hr y hy
      omega
    · intro x hx y hy
      have hy' := (List.mem_filter.1 hy).2
      simp only [decide_eq_true_eq] at hy'
      rcases List.mem_append.1 hx with hx | hx
      · have := (List.mem_filter.1 hx).2
        simp only [decide_eq_true_eq] at this
        omega
      · have := hr x hx
        omega
  · intro e he
    rcases List.mem_append.1 he with he | he
    · rcases List.mem_append.1 he with he | he
      · exact h.2 e (List.mem_filter.1 he).1
      · exact hv e he
    · exact h.2 e (List.mem_filter.1 he).1

theorem copyRange_wf {s : State} (a b n : Nat) (h : Memory.wf s.mem = true) : Memory.wf (copyRange a b n s).mem = true := by
  have hw := (tabWf_iff byteReset s.mem).1 h
  unfold copyRange
  apply wf_join h
  · rw [List.pairwise_map]
    refine ((hw.1.sublist List.filter_sublist).imp_of_mem ?_)
    intro x y hx hy hxy
    have h1 := (List.mem_filter.1 hx).2
    have h2 := (List.mem_filter.1 hy).2
    simp only [Bool.and_eq_true, decide_eq_true_eq] at h1 h2
    simp only
    omega
  · intro e he
    obtain ⟨x, hx, rfl⟩ := List.mem_map.1 he
    have h1 := (List.mem_filter.1 hx).2
    simp only [Bool.and_eq_true, decide_eq_true_eq] at h1
    simp only
    omega
  · intro e he
    obtain ⟨x, hx, rfl⟩ := List.mem_map.1 he
    exact hw.2 x (List.mem_filter.1 hx).1

theorem fillRange_wf {s : State} (b n : Nat) (f : Nat → Byte) (h : Memory.wf s.mem = true) :
    Memory.wf (fillRange b n f s).mem = true := by
  unfold fillRange
  apply wf_join h
  · refine List.Pairwise.sublist List.filter_sublist ?_
    rw [List.pairwise_map]
    exact List.pairwise_lt_range.imp fun h => by simpa using h
  · intro e he
    obtain ⟨x, hx, rfl⟩ := List.mem_map.1 (List.mem_filter.1 he).1
    have := List.mem_range.1 hx
    simp only
    omega
  · intro e he
    simpa using (List.mem_filter.1 he).2

/-! ### Time -/

@[simp] theorem atPhase_regs (p c : Nat) (s : State) : (atPhase p c s).regs = s.regs := by unfold atPhase; split <;> rfl
@[simp] theorem atPhase_force (p c : Nat) (s : State) : (atPhase p c s).force = s.force := by unfold atPhase; split <;> rfl
@[simp] theorem atPhase_flt (p c : Nat) (s : State) : (atPhase p c s).flt = s.flt := by unfold atPhase; split <;> rfl
@[simp] theorem atPhase_drv (p c : Nat) (s : State) : (atPhase p c s).drv = s.drv := by unfold atPhase; split <;> rfl
@[simp] theorem atPhase_eng (p c : Nat) (s : State) : (atPhase p c s).eng = s.eng := by unfold atPhase; split <;> rfl
@[simp] theorem atPhase_pwr (p c : Nat) (s : State) : (atPhase p c s).pwr = s.pwr := by unfold atPhase; split <;> rfl
@[simp] theorem atPhase_ticks (p c : Nat) (s : State) : (atPhase p c s).time.ticks = s.time.ticks := by
  unfold atPhase; split <;> rfl
@[simp] theorem atPhase_tick (p c : Nat) (s : State) : (atPhase p c s).time.tick = s.time.tick := by
  unfold atPhase; split <;> rfl

@[simp] theorem rdReg_atPhase (p c : Nat) (s : State) (a : Nat) : rdReg (atPhase p c s) a = rdReg s a := by simp [rdReg]

end Sys2Proof.Machine
end

