-- ==== Sys2Proof/Laws/Settle.lean ====
section
/-!
SUPPORT. What settling does: the registers that it leaves, the parts that it reaches, and the outputs that it brings in line.
-/
namespace Sys2Proof.Machine

/-! ### Registers that settling leaves -/

/-- The facts about a quiet register's address. -/
theorem quiet_iff (a : Nat) : quiet a = true ↔
    (a % 0x400 ≠ 0x08 ∧ a % 0x400 ≠ 0x10 ∧ a % 0x400 ≠ 0x18 ∧ a % 0x400 ≠ 0x2C)
      ∧ (a / 0x400 = 3 → a % 0x400 ≠ 0x0C ∧ a % 0x400 < 0x100) ∧ a ≠ 0x2D38
      ∧ (a / 0x400 = 0x30 ∨ a / 0x400 = 0x31 → a % 0x400 < 0x100) := by
  simp only [quiet, decide_eq_true_eq]

/-- The facts about a register's address that settling needs in all but the recorder's own steps. -/
def calm (a : Nat) : Prop :=
  (a % 0x400 ≠ 0x08 ∧ a % 0x400 ≠ 0x10 ∧ a % 0x400 ≠ 0x18 ∧ a % 0x400 ≠ 0x2C) ∧ a ≠ 0x2D38
    ∧ (a / 0x400 = 0x30 ∨ a / 0x400 = 0x31 → a % 0x400 < 0x100)

theorem calm_iff (a : Nat) : calm a ↔ (a % 0x400 ≠ 0x08 ∧ a % 0x400 ≠ 0x10 ∧ a % 0x400 ≠ 0x18 ∧ a % 0x400 ≠ 0x2C) ∧ a ≠ 0x2D38
    ∧ (a / 0x400 = 0x30 ∨ a / 0x400 = 0x31 → a % 0x400 < 0x100) := Iff.rfl

theorem quiet_calm {a : Nat} (h : quiet a = true) : calm a := by
  have q := (quiet_iff a).1 h
  exact ⟨q.1, q.2.2⟩

section
variable {a : Nat} (h : calm a)
include h

theorem setIrq_quiet (p n : Nat) (s : State) : rdReg (setIrq p n s) a = rdReg s a := by
  have q := (calm_iff a).1 h
  exact rdReg_setIrq_ne p n s (by unfold pageAddr; omega)

theorem putRun_quiet (p : Nat) (run : Bool) (s : State) : rdReg (putRun p run s) a = rdReg s a := by
  have q := (calm_iff a).1 h
  unfold putRun bumpWriteGen
  split
  · rfl
  · rw [rdReg_incMod_ne _ _ _ _ (by simp only [fldAddr, pageAddr, CMN.GEN_WRITE_GEN]; omega),
      rdReg_setB_ne _ _ _ _ _ (by simp only [fldAddr, pageAddr, CMN.CTRL_RUN]; omega)]

omit h in
theorem foldl_quiet {β : Type} (f : State → β → State) (hf : ∀ s b, rdReg (f s b) a = rdReg s a) (l : List β) (s : State) :
    rdReg (l.foldl f s) a = rdReg s a := by
  induction l generalizing s with
  | nil => rfl
  | cons b l ih => exact (ih _).trans (hf s b)

omit h in
theorem forN_rdReg' (n : Nat) (f : Nat → State → State) (hf : ∀ i s, rdReg (f i s) a = rdReg s a) (s : State) :
    rdReg (forN n f s) a = rdReg s a := foldl_quiet _ (fun s i => hf i s) _ s

omit h in
@[simp] theorem rdReg_noteCycle (f : Cycle → Cycle) (s : State) : rdReg (noteCycle f s) a = rdReg s a := rfl

theorem reactionRun_quiet (e : Nat) (run : Bool) (s : State) : rdReg (reactionRun e run s) a = rdReg s a := by
  unfold reactionRun
  split
  · rfl
  · split
    · rfl
    · rw [rdReg_noteCycle, putRun_quiet h]

theorem retryRuns_quiet (s : State) : rdReg (retryRuns s) a = rdReg s a := by
  unfold retryRuns
  simp only
  split
  · rfl
  · exact foldl_quiet _ (fun s r => reactionRun_quiet h _ _ s) _ _

omit h in
@[simp] theorem rdReg_putScope (k : Nat) (c : Scope) (s : State) : rdReg (putScope k c s) a = rdReg s a := rfl
omit h in
@[simp] theorem rdReg_recPush (k v j : Nat) (b : List (Nat × Word)) (c y : Nat) (s : State) :
    rdReg (recPush k v j b c y s) a = rdReg s a := rfl
omit h in
@[simp] theorem rdReg_raise (p i k d : Nat) (s : State) : rdReg (raise p i k d s) a = rdReg s a := rfl
omit h in
@[simp] theorem rdReg_scopeRecord (k o : Nat) (s : State) : rdReg (scopeRecord k o s) a = rdReg s a := rfl

theorem stopEngine_quiet (k e : Nat) (s : State) : rdReg (stopEngine k e s) a = rdReg s a := by
  unfold stopEngine
  split
  · exact (reactionRun_quiet h _ _ _).trans (rdReg_putScope _ _ _)
  · rfl

omit h in
theorem startQuiet_rdReg (k t : Nat) (s : State) : rdReg (startQuiet k t s) a = rdReg s a := by
  unfold startQuiet
  simp only
  split <;> rfl

theorem latchScope_quiet (k : Nat) (s : State) : rdReg (latchScope k s) a = rdReg s a := by
  unfold latchScope
  simp only
  split
  · rfl
  · split <;> rw [setIrq_quiet h, rdReg_scopeRecord, rdReg_putScope]

theorem reactScope_quiet (k sev q t : Nat) (m : Msg) (latch : Bool) (s : State) :
    rdReg (reactScope k sev q t m latch s) a = rdReg s a := by
  have irq (b : Bool) (p n : Nat) (s : State) : rdReg (if b = true then setIrq p n s else s) a = rdReg s a := by
    cases b
    · rfl
    · exact setIrq_quiet h p n s
  have quiets (s : State) : rdReg (if sev = 4 then forN 8 (fun g a => startQuiet g t a) s else s) a = rdReg s a := by
    split
    · exact forN_rdReg' _ _ (fun i s => startQuiet_rdReg i t s) s
    · rfl
  have lat (s : State) : rdReg (if latch = true then latchScope k s else s) a = rdReg s a := by
    cases latch
    · rfl
    · exact latchScope_quiet h k s
  unfold reactScope
  simp only
  rw [lat, quiets, startQuiet_rdReg, foldl_quiet _ (fun s e => stopEngine_quiet h k e s), irq, rdReg_putScope]

theorem receive_quiet (grp : Bool) (m : Msg) (s : State) : rdReg (receive grp m s) a = rdReg s a := by
  have q := (calm_iff a).1 h
  have last (c : Prop) [Decidable c] (d : Prop) [Decidable d] (s : State) (x : FltState) :
      rdReg (if c then (if d then { s with flt := x } else incSat LNK.STAT2_FB_OVF 0x0B 0 s) else s) a = rdReg s a := by
    split
    · split
      · rfl
      · exact rdReg_incSat_ne _ _ _ _ (by simp only [fldAddr, pageAddr, LNK.STAT2_FB_OVF]; omega)
    · rfl
  have irq (c : Prop) [Decidable c] (p n : Nat) (s : State) : rdReg (if c then setIrq p n s else s) a = rdReg s a := by
    split
    · exact setIrq_quiet h p n s
    · rfl
  have react (c : Prop) [Decidable c] (k v q t : Nat) (l : Bool) (s : State) :
      rdReg (if c then reactScope k v q t m l s else s) a = rdReg s a := by
    split
    · exact reactScope_quiet h k v q t m l s
    · rfl
  unfold receive
  simp only
  rw [last, rdReg_recPush, react, irq, rdReg_noteCycle, rdReg_incSat_ne _ _ _ _ (by simp only [fldAddr, pageAddr, CMN.FLT_STAT_COUNT]; omega),
    rdReg_setF_ne _ _ _ _ _ (by simp only [fldAddr, pageAddr, CMN.FLT_STAT_LAST_KIND]; omega)]
  rfl

theorem collect_quiet (s : State) : rdReg (collect s) a = rdReg s a := by
  have regroup (s : State) : rdReg (regroup s) a = rdReg s a := by
    unfold regroup
    simp only
    split <;> rfl
  unfold collect receiveGroup
  rw [regroup]
  exact foldl_quiet _ (fun s t => foldl_quiet _ (fun s m => receive_quiet h _ m s) _ s) _ _

omit h in
theorem beginEp_quiet (p i k d : Nat) (s : State) : rdReg (beginEp p i k d s) a = rdReg s a := by
  unfold beginEp
  split <;> rfl

omit h in
theorem dropRecord_quiet (h : quiet a = true) (r : RecReq) (s : State) : rdReg (dropRecord r s) a = rdReg s a := by
  have q := (quiet_iff a).1 h
  unfold dropRecord
  extract_lets sev s1 src s2
  have e1 : rdReg s1 a = rdReg s a := rdReg_noteCount_ne _ _ _ _ (by
    have : Nat.min 4 sev ≤ 4 := Nat.min_le_left _ _
    simp only [fldAddr, pageAddr, REC.DROP_COUNT, recPg]; omega)
  have e2 : rdReg s2 a = rdReg s1 a := by
    simp only [s2]
    split <;> rfl
  split
  · rw [e2, e1]
  · rw [rdReg_raise, setIrq_quiet (quiet_calm h),
      rdReg_setB_ne _ _ _ _ _ (by simp only [fldAddr, pageAddr, REC.STAT_DROP_EP, recPg]; omega), e2, e1]

omit h in
theorem enqueue_quiet (h : quiet a = true) (r : RecReq) (s : State) : rdReg (enqueue r s) a = rdReg s a := by
  have q := (quiet_iff a).1 h
  unfold enqueue
  split
  · unfold queueDepth
    rw [rdReg_setF_ne _ _ _ _ _ (by simp only [fldAddr, pageAddr, REC.QUEUE_MAX, recPg]; omega),
      rdReg_setF_ne _ _ _ _ _ (by simp only [fldAddr, pageAddr, REC.QUEUE_DEPTH, recPg]; omega)]
    rfl
  · rw [dropRecord_quiet h, rdReg_incSat_ne _ _ _ _ (by simp only [fldAddr, pageAddr, REC.QUEUE_QFULL, recPg]; omega)]

omit h in
theorem intake_quiet (h : quiet a = true) (s : State) : rdReg (intake s) a = rdReg s a := by
  unfold intake
  simp only
  split
  · rfl
  · exact foldl_quiet _ (fun s r => enqueue_quiet h r s) _ _

theorem setLegF_quiet (f : Fld) (hf : f.off + 7 * f.stride < 0x400 ∧ 0x100 ≤ f.off) (l : Nat) (hl : l < 16) (v : Nat) (s : State) :
    rdReg (setLegF f l v s) a = rdReg s a := by
  have q := (calm_iff a).1 h
  refine rdReg_setF_ne _ _ _ _ _ ?_
  have : f.stride * (l % 8) ≤ 7 * f.stride := by
    rw [Nat.mul_comm 7]; exact Nat.mul_le_mul_left _ (by omega)
  simp only [fldAddr, pageAddr, legPg]
  omega

omit h in
@[simp] theorem rdReg_putLeg (l : Nat) (v : LegState) (s : State) : rdReg (putLeg l v s) a = rdReg s a := rfl

theorem refreshLeg_quiet (l : Nat) (hl : l < 16) (s : State) : rdReg (refreshLeg l s) a = rdReg s a := by
  have q := (calm_iff a).1 h
  unfold refreshLeg
  simp only
  split
  · rfl
  · split
    · split
      · rw [rdReg_putLeg]
        split
        · rfl
        · rw [rdReg_incSat_ne _ _ _ _ (by simp only [fldAddr, pageAddr, VLV.LG_CNT_SUBST, legPg]; omega)]
          exact setLegF_quiet h _ (by decide) l hl _ s
      · rfl
    · rfl

theorem refreshPair_quiet (l : Nat) (hl : l < 16) (s : State) : rdReg (refreshPair l s) a = rdReg s a := by
  unfold refreshPair
  rw [refreshLeg_quiet h _ (by unfold partnerOf; split <;> omega), refreshLeg_quiet h _ hl]

theorem beginDecay_quiet (l m : Nat) (hl : l < 16) (s : State) : rdReg (beginDecay l m s) a = rdReg s a := by
  unfold beginDecay
  simp only
  rw [refreshPair_quiet h l hl, rdReg_putLeg]

theorem endProfile_quiet (l st m : Nat) (hl : l < 16) (s : State) : rdReg (endProfile l st m s) a = rdReg s a := by
  have cnt (s : State) : rdReg (countOn l s) a = rdReg s a := by
    unfold countOn
    simp only
    split <;> rfl
  have rmp (s : State) : rdReg (endRamp l s) a = rdReg s a := by
    unfold endRamp
    simp only
    split
    · rw [setLegF_quiet h _ (by decide) l hl, rdReg_putLeg]
    · rfl
  unfold endProfile
  simp only
  rw [beginDecay_quiet h l m hl, rdReg_putLeg, rmp, cnt]

theorem blockCmd_quiet (l : Nat) (hl : l < 16) (s : State) : rdReg (blockCmd l s) a = rdReg s a := by
  have q := (calm_iff a).1 h
  unfold blockCmd
  rw [setIrq_quiet h, rdReg_incSat_ne _ _ _ _ (by simp only [fldAddr, pageAddr, VLV.LG_CNT_BLOCK, legPg]; omega)]
  exact setLegF_quiet h _ (by decide) l hl _ s

theorem legSettle_quiet (l : Nat) (hl : l < 16) (s : State) : rdReg (legSettle l s) a = rdReg s a := by
  have wait (c : Prop) [Decidable c] (x : LegState) (s : State) :
      rdReg (if c then blockCmd l (putLeg l x s) else s) a = rdReg s a := by
    split
    · rw [blockCmd_quiet h l hl, rdReg_putLeg]
    · rfl
  have dec (c : Prop) [Decidable c] (s : State) : rdReg (if c then beginDecay l 1 s else s) a = rdReg s a := by
    split
    · exact beginDecay_quiet h l 1 hl s
    · rfl
  unfold legSettle
  simp only
  split
  · split
    · rw [endProfile_quiet h l 3 1 hl, wait]
    · rw [dec, wait]
  · rfl

omit h in
/-- A fold over the numbers below `n` needs its step only there. -/
theorem forN_rdReg (n : Nat) (f : Nat → State → State) (hf : ∀ i < n, ∀ s, rdReg (f i s) a = rdReg s a) (s : State) :
    rdReg (forN n f s) a = rdReg s a := by
  unfold forN
  have : ∀ (l : List Nat) (s : State), (∀ i ∈ l, i < n) → rdReg (l.foldl (fun a i => f i a) s) a = rdReg s a := by
    intro l
    induction l with
    | nil => intro s _; rfl
    | cons i l ih =>
      intro s hl
      exact (ih _ fun j hj => hl j (List.mem_cons_of_mem _ hj)).trans (hf i (hl i (List.mem_cons_self ..)) s)
  exact this _ s fun i hi => List.mem_range.1 hi

theorem settleLegs_quiet (s : State) : rdReg (settleLegs s) a = rdReg s a := by
  have edge (s : State) : rdReg (dinEdge s) a = rdReg s a := by
    unfold dinEdge
    simp only
    split
    · rfl
    · exact setIrq_quiet h _ _ s
  unfold settleLegs
  rw [edge, forN_rdReg 16 _ fun l hl s => legSettle_quiet h l hl s]
end

/-! ### Outputs change the outputs alone -/

/-- A state with other outputs. -/
def withDrv (s : State) (d : DrvState) : State := { s with drv := d }

theorem settleOutputs_withDrv (s : State) : ∃ d, settleOutputs s = withDrv s d := by
  have gov (p u : Nat) (g : ChanGov) (s : State) : ∃ d, putGov p u g s = withDrv s d := by
    unfold putGov
    split
    · exact ⟨_, rfl⟩
    · split <;> exact ⟨_, rfl⟩
  have note (p u : Nat) (s : State) : ∃ d, govNote p u s = withDrv s d := by
    have key (c : Prop) [Decidable c] (g : ChanGov) : ∃ d, (if c then s else putGov p u g s) = withDrv s d := by
      split
      · exact ⟨s.drv, rfl⟩
      · exact gov ..
    exact key _ _
  have comp {f g : State → State} (hf : ∀ s, ∃ d, f s = withDrv s d) (hg : ∀ s, ∃ d, g s = withDrv s d) (s : State) :
      ∃ d, f (g s) = withDrv s d := by
    obtain ⟨d, hd⟩ := hg s
    obtain ⟨e, he⟩ := hf (g s)
    exact ⟨e, by rw [he, hd]; rfl⟩
  have fold (n : Nat) (f : Nat → State → State) (hf : ∀ i s, ∃ d, f i s = withDrv s d) (s : State) :
      ∃ d, forN n f s = withDrv s d := by
    unfold forN
    induction List.range n generalizing s with
    | nil => exact ⟨s.drv, rfl⟩
    | cons i l ih => exact comp (g := f i) (fun s => ih s) (hf i) s
  have fan (n : Nat) (s : State) : ∃ d, fanSettle n s = withDrv s d := by
    have h1 : ∀ s, ∃ d, fanDrive n s = withDrv s d := by
      intro s; unfold fanDrive; split
      · exact ⟨s.drv, rfl⟩
      · exact ⟨_, rfl⟩
    have h2 : ∀ s, ∃ d, fanDuty n s = withDrv s d := by
      intro s; unfold fanDuty; split
      · exact ⟨s.drv, rfl⟩
      · exact ⟨_, rfl⟩
    unfold fanSettle
    simp only
    split
    · obtain ⟨d, hd⟩ := comp h1 (comp h2 (note fanPg n)) (putFan n _ s)
      exact ⟨d, hd⟩
    · exact comp h1 (comp h2 (note fanPg n)) s
  have dod (j : Nat) (s : State) : ∃ d, doDrive j s = withDrv s d := by
    unfold doDrive; split
    · exact ⟨s.drv, rfl⟩
    · exact ⟨_, rfl⟩
  have aod (k : Nat) (s : State) : ∃ d, aoDrive k s = withDrv s d := by
    unfold aoDrive; split
    · exact ⟨s.drv, rfl⟩
    · exact ⟨_, rfl⟩
  unfold settleOutputs
  exact comp (fold 8 _ fun k s => comp (aod k) (note aouPg k) s)
    (comp (fold 24 _ fun j s => comp (dod j) (note douPg j) s) (fold 12 _ fan)) s

/-! ### Settling as a whole -/

/-- Settling leaves every quiet register. -/
theorem settle_quiet {a : Nat} (h : quiet a = true) (s : State) : rdReg (settle s) a = rdReg s a := by
  have out (s : State) : rdReg (settleOutputs s) a = rdReg s a := by
    obtain ⟨d, hd⟩ := settleOutputs_withDrv s
    rw [hd]; rfl
  have rounds (n : Nat) (s : State) : rdReg (settleRounds n s) a = rdReg s a := by
    have one (s : State) : rdReg (settleRound s) a = rdReg s a := by
      unfold settleRound settleDrive
      rw [intake_quiet h, out, settleLegs_quiet (quiet_calm h), collect_quiet (quiet_calm h)]
    induction n generalizing s with
    | zero => exact one s
    | succ n ih =>
      unfold settleRounds
      simp only
      split
      · exact one s
      · rw [ih, one]
  unfold settle
  rw [out]
  change rdReg (settleLegs (collect (settleRounds 6 (retryRuns s)))) a = rdReg s a
  rw [settleLegs_quiet (quiet_calm h), collect_quiet (quiet_calm h), rounds, retryRuns_quiet (quiet_calm h)]

theorem settle_parts (s : State) : ∃ r f d b n, settle s = { s with regs := r, flt := f, recd := b, drv := d, cyc := n } := by
  unfold settle
  obtain ⟨d, hd⟩ := settleOutputs_withDrv
    (reach [.regs, .flt, .recd, .drv] (fun a => settleLegs (collect (settleRounds 6 (retryRuns a)))) s)
  rw [hd]
  exact ⟨_, _, _, _, _, rfl⟩

@[simp] theorem settle_pending (s : State) : (settle s).pending = s.pending := by obtain ⟨_, _, _, _, _, h⟩ := settle_parts s; rw [h]
@[simp] theorem settle_force (s : State) : (settle s).force = s.force := by obtain ⟨_, _, _, _, _, h⟩ := settle_parts s; rw [h]
@[simp] theorem settle_win (s : State) : (settle s).win = s.win := by obtain ⟨_, _, _, _, _, h⟩ := settle_parts s; rw [h]
@[simp] theorem settle_act (s : State) : (settle s).act = s.act := by obtain ⟨_, _, _, _, _, h⟩ := settle_parts s; rw [h]
@[simp] theorem settle_mem (s : State) : (settle s).mem = s.mem := by obtain ⟨_, _, _, _, _, h⟩ := settle_parts s; rw [h]
@[simp] theorem settle_time (s : State) : (settle s).time = s.time := by obtain ⟨_, _, _, _, _, h⟩ := settle_parts s; rw [h]
@[simp] theorem settle_bus (s : State) : (settle s).bus = s.bus := by obtain ⟨_, _, _, _, _, h⟩ := settle_parts s; rw [h]
@[simp] theorem settle_clk (s : State) : (settle s).clk = s.clk := by obtain ⟨_, _, _, _, _, h⟩ := settle_parts s; rw [h]
@[simp] theorem settle_wch (s : State) : (settle s).wch = s.wch := by obtain ⟨_, _, _, _, _, h⟩ := settle_parts s; rw [h]
@[simp] theorem settle_sns (s : State) : (settle s).sns = s.sns := by obtain ⟨_, _, _, _, _, h⟩ := settle_parts s; rw [h]
@[simp] theorem settle_rpt (s : State) : (settle s).rpt = s.rpt := by obtain ⟨_, _, _, _, _, h⟩ := settle_parts s; rw [h]
@[simp] theorem settle_moi (s : State) : (settle s).moi = s.moi := by obtain ⟨_, _, _, _, _, h⟩ := settle_parts s; rw [h]
@[simp] theorem settle_pubs (s : State) : (settle s).pubs = s.pubs := by obtain ⟨_, _, _, _, _, h⟩ := settle_parts s; rw [h]
@[simp] theorem settle_lpa (s : State) : (settle s).lpa = s.lpa := by obtain ⟨_, _, _, _, _, h⟩ := settle_parts s; rw [h]
@[simp] theorem settle_landOut (s : State) : (settle s).landOut = s.landOut := by obtain ⟨_, _, _, _, _, h⟩ := settle_parts s; rw [h]
@[simp] theorem settle_prf (s : State) : (settle s).prf = s.prf := by obtain ⟨_, _, _, _, _, h⟩ := settle_parts s; rw [h]
@[simp] theorem settle_trc (s : State) : (settle s).trc = s.trc := by obtain ⟨_, _, _, _, _, h⟩ := settle_parts s; rw [h]
@[simp] theorem settle_ldg (s : State) : (settle s).ldg = s.ldg := by obtain ⟨_, _, _, _, _, h⟩ := settle_parts s; rw [h]
@[simp] theorem settle_eng (s : State) : (settle s).eng = s.eng := by obtain ⟨_, _, _, _, _, h⟩ := settle_parts s; rw [h]
@[simp] theorem settle_hst (s : State) : (settle s).hst = s.hst := by obtain ⟨_, _, _, _, _, h⟩ := settle_parts s; rw [h]
@[simp] theorem settle_can (s : State) : (settle s).can = s.can := by obtain ⟨_, _, _, _, _, h⟩ := settle_parts s; rw [h]
@[simp] theorem settle_lnk (s : State) : (settle s).lnk = s.lnk := by obtain ⟨_, _, _, _, _, h⟩ := settle_parts s; rw [h]
@[simp] theorem settle_nvs (s : State) : (settle s).nvs = s.nvs := by obtain ⟨_, _, _, _, _, h⟩ := settle_parts s; rw [h]
@[simp] theorem settle_dig (s : State) : (settle s).dig = s.dig := by obtain ⟨_, _, _, _, _, h⟩ := settle_parts s; rw [h]
@[simp] theorem settle_pwr (s : State) : (settle s).pwr = s.pwr := by obtain ⟨_, _, _, _, _, h⟩ := settle_parts s; rw [h]
@[simp] theorem settle_tap (s : State) : (settle s).tap = s.tap := by obtain ⟨_, _, _, _, _, h⟩ := settle_parts s; rw [h]
@[simp] theorem settle_bridges (s : State) : (settle s).bridges = s.bridges := by obtain ⟨_, _, _, _, _, h⟩ := settle_parts s; rw [h]
@[simp] theorem settle_fresh (s : State) : (settle s).fresh = s.fresh := by obtain ⟨_, _, _, _, _, h⟩ := settle_parts s; rw [h]

end Sys2Proof.Machine
end

