-- ==== Sys2Proof/Laws/Governed.lean ====
section
/-!
SUPPORT. Settling leaves every output at what its governing row demands (R320).
-/
namespace Sys2Proof.Machine

/-- Two states that differ in channels of the DRIVE pages alone. -/
def SameGround (s t : State) : Prop := ∃ d, t = withDrv s d ∧ d.loss = s.drv.loss

theorem SameGround.refl (s : State) : SameGround s s := ⟨s.drv, rfl, rfl⟩

theorem SameGround.trans {s t u : State} (h : SameGround s t) (g : SameGround t u) : SameGround s u := by
  obtain ⟨d, rfl, hd⟩ := h
  obtain ⟨e, rfl, he⟩ := g
  exact ⟨e, rfl, he.trans hd⟩

/-- What surrounds a channel governs it alike in both states. -/
theorem SameGround.row {s t : State} (h : SameGround s t) (p u : Nat) (hg : govOf p u t = govOf p u s)
    (hm : modeOf p u t = modeOf p u s) (h1 : row1 p u t = row1 p u s) : govRow p u t = govRow p u s := by
  obtain ⟨d, rfl, hd⟩ := h
  have hc : covered p u (withDrv s d) = covered p u s := by
    have : reactionCovers p u (withDrv s d) = reactionCovers p u s := rfl
    unfold covered
    rw [this]
    change (_ || d.loss.isSome) = _
    rw [hd]
  have hs : silenced p u (withDrv s d) = silenced p u s := rfl
  have hgo : gateOff p u (withDrv s d) = gateOff p u s := rfl
  have h5 : row5 p u (withDrv s d) = row5 p u s := by
    unfold row5
    rw [hm]
    rfl
  unfold govRow govBelow
  rw [h1, hg, hc, hs, hgo, h5, hm]

@[simp] theorem fanSt_putFan (s : State) (n : Nat) (v : FanState) : fanSt (putFan n v s) n = v := by
  simp [fanSt, putFan]
theorem fanSt_putFan_ne (s : State) (v : FanState) {n m : Nat} (h : n ≠ m) : fanSt (putFan n v s) m = fanSt s m := by
  simp [fanSt, putFan, tabGet_set_ne _ _ _ h]
@[simp] theorem doSt_putFan (s : State) (n j : Nat) (v : FanState) : doSt (putFan n v s) j = doSt s j := rfl
@[simp] theorem aoSt_putFan (s : State) (n k : Nat) (v : FanState) : aoSt (putFan n v s) k = aoSt s k := rfl
@[simp] theorem doSt_putDo (s : State) (j : Nat) (v : DoState) : doSt (putDo j v s) j = v := by simp [doSt, putDo]
theorem doSt_putDo_ne (s : State) (v : DoState) {j i : Nat} (h : j ≠ i) : doSt (putDo j v s) i = doSt s i := by
  simp [doSt, putDo, tabGet_set_ne _ _ _ h]
@[simp] theorem fanSt_putDo (s : State) (n j : Nat) (v : DoState) : fanSt (putDo j v s) n = fanSt s n := rfl
@[simp] theorem aoSt_putDo (s : State) (j k : Nat) (v : DoState) : aoSt (putDo j v s) k = aoSt s k := rfl
@[simp] theorem aoSt_putAo (s : State) (k : Nat) (v : AoState) : aoSt (putAo k v s) k = v := by simp [aoSt, putAo]
theorem aoSt_putAo_ne (s : State) (v : AoState) {k i : Nat} (h : k ≠ i) : aoSt (putAo k v s) i = aoSt s i := by
  simp [aoSt, putAo, tabGet_set_ne _ _ _ h]
@[simp] theorem fanSt_putAo (s : State) (n k : Nat) (v : AoState) : fanSt (putAo k v s) n = fanSt s n := rfl
@[simp] theorem doSt_putAo (s : State) (j k : Nat) (v : AoState) : doSt (putAo k v s) j = doSt s j := rfl

/-- A step on one fan: the other channels stay, and what surrounds the channels too. -/
structure OnFan (n : Nat) (s t : State) : Prop where
  ground : SameGround s t
  fans : ∀ m, m ≠ n → fanSt t m = fanSt s m
  dos : ∀ j, doSt t j = doSt s j
  aos : ∀ k, aoSt t k = aoSt s k

theorem OnFan.refl (n : Nat) (s : State) : OnFan n s s := ⟨.refl s, fun _ _ => rfl, fun _ => rfl, fun _ => rfl⟩
theorem OnFan.trans {n : Nat} {s t u : State} (h : OnFan n s t) (g : OnFan n t u) : OnFan n s u :=
  ⟨h.ground.trans g.ground, fun m hm => (g.fans m hm).trans (h.fans m hm), fun j => (g.dos j).trans (h.dos j),
    fun k => (g.aos k).trans (h.aos k)⟩
theorem OnFan.put (n : Nat) (v : FanState) (s : State) : OnFan n s (putFan n v s) :=
  ⟨⟨_, rfl, rfl⟩, fun _ hm => fanSt_putFan_ne s v (Ne.symm hm), fun _ => rfl, fun _ => rfl⟩

/-- A step on one digital output. -/
structure OnDo (j : Nat) (s t : State) : Prop where
  ground : SameGround s t
  fans : ∀ n, fanSt t n = fanSt s n
  dos : ∀ i, i ≠ j → doSt t i = doSt s i
  aos : ∀ k, aoSt t k = aoSt s k

theorem OnDo.refl (j : Nat) (s : State) : OnDo j s s := ⟨.refl s, fun _ => rfl, fun _ _ => rfl, fun _ => rfl⟩
theorem OnDo.trans {j : Nat} {s t u : State} (h : OnDo j s t) (g : OnDo j t u) : OnDo j s u :=
  ⟨h.ground.trans g.ground, fun n => (g.fans n).trans (h.fans n), fun i hi => (g.dos i hi).trans (h.dos i hi),
    fun k => (g.aos k).trans (h.aos k)⟩
theorem OnDo.put (j : Nat) (v : DoState) (s : State) : OnDo j s (putDo j v s) :=
  ⟨⟨_, rfl, rfl⟩, fun _ => rfl, fun _ hi => doSt_putDo_ne s v (Ne.symm hi), fun _ => rfl⟩

/-- A step on one analog output. -/
structure OnAo (k : Nat) (s t : State) : Prop where
  ground : SameGround s t
  fans : ∀ n, fanSt t n = fanSt s n
  dos : ∀ j, doSt t j = doSt s j
  aos : ∀ i, i ≠ k → aoSt t i = aoSt s i

theorem OnAo.refl (k : Nat) (s : State) : OnAo k s s := ⟨.refl s, fun _ => rfl, fun _ => rfl, fun _ _ => rfl⟩
theorem OnAo.trans {k : Nat} {s t u : State} (h : OnAo k s t) (g : OnAo k t u) : OnAo k s u :=
  ⟨h.ground.trans g.ground, fun n => (g.fans n).trans (h.fans n), fun j => (g.dos j).trans (h.dos j),
    fun i hi => (g.aos i hi).trans (h.aos i hi)⟩
theorem OnAo.put (k : Nat) (v : AoState) (s : State) : OnAo k s (putAo k v s) :=
  ⟨⟨_, rfl, rfl⟩, fun _ => rfl, fun _ => rfl, fun _ hi => aoSt_putAo_ne s v (Ne.symm hi)⟩

theorem OnFan.note (n : Nat) (s : State) : OnFan n s (govNote fanPg n s) := by
  have key (c : Prop) [Decidable c] (g : ChanGov) : OnFan n s (if c then s else putGov fanPg n g s) := by
    split
    · exact .refl n s
    · exact .put n _ s
  exact key _ _

theorem OnDo.note (j : Nat) (s : State) : OnDo j s (govNote douPg j s) := by
  have key (c : Prop) [Decidable c] (g : ChanGov) : OnDo j s (if c then s else putGov douPg j g s) := by
    split
    · exact .refl j s
    · exact .put j _ s
  exact key _ _

theorem OnAo.note (k : Nat) (s : State) : OnAo k s (govNote aouPg k s) := by
  have key (c : Prop) [Decidable c] (g : ChanGov) : OnAo k s (if c then s else putGov aouPg k g s) := by
    split
    · exact .refl k s
    · exact .put k _ s
  exact key _ _

/-! ### What a channel's demand rests on -/

theorem fanDemanded_congr {s t : State} (h : SameGround s t) (n : Nat)
    (e : { fanSt t n with out := 0 } = { fanSt s n with out := 0 }) : fanDemanded n t = fanDemanded n s := by
  simp only [FanState.mk.injEq] at e
  have r : govRow fanPg n t = govRow fanPg n s := by
    apply h.row
    · simp only [govOf, fanPg, if_true]; tauto
    · simp only [modeOf, fanPg, if_true]; tauto
    · obtain ⟨d, rfl, -⟩ := h
      have : fieldWindow (withDrv s d) = fieldWindow s := rfl
      unfold row1 switchedOff limiting
      rw [this]
      have : (fanSt (withDrv s d) n).st = (fanSt s n).st := by tauto
      simp [fanPg, douPg, aouPg, this]
  unfold fanDemanded
  simp only [r]
  have e1 : (fanSt t n).st = (fanSt s n).st := by tauto
  have e2 : (fanSt t n).duty = (fanSt s n).duty := by tauto
  rw [e1, e2]

/-- The demand of an output that limits its current is the output itself: it rests on the output as far as that stands as before, or stands
at the demand already. -/
theorem doDemanded_congr {s t : State} (h : SameGround s t) (j : Nat)
    (e : { doSt t j with out := false } = { doSt s j with out := false })
    (o : (doSt t j).out = (doSt s j).out ∨ (doSt t j).out = doDemanded j s) : doDemanded j t = doDemanded j s := by
  simp only [DoState.mk.injEq] at e
  have sw : switchedOff douPg j t = switchedOff douPg j s := by
    obtain ⟨d, rfl, -⟩ := h
    have : fieldWindow (withDrv s d) = fieldWindow s := rfl
    have e1 : (doSt (withDrv s d) j).trip = (doSt s j).trip := by tauto
    unfold switchedOff
    rw [this]
    simp [fanPg, douPg, e1]
  have r : govRow douPg j t = govRow douPg j s := by
    apply h.row
    · simp [govOf, fanPg, douPg]; tauto
    · simp [modeOf, fanPg, douPg]; tauto
    · have : (doSt t j).lim = (doSt s j).lim := by tauto
      unfold row1 limiting
      simp [sw, this]
  have dd : doDemand (doSt t j) = doDemand (doSt s j) := by
    unfold doDemand
    have e1 : (doSt t j).mode = (doSt s j).mode := by tauto
    have e2 : (doSt t j).level = (doSt s j).level := by tauto
    have e3 : (doSt t j).tpOn = (doSt s j).tpOn := by tauto
    rw [e1, e2, e3]
  have safe : getB DOU.CH_CTRL_SAFE douPg j t = getB DOU.CH_CTRL_SAFE douPg j s := by obtain ⟨d, rfl, -⟩ := h; rfl
  rcases o with o | o
  · unfold doDemanded
    simp only [r, dd, sw, o, safe]
  · unfold doDemanded at o ⊢
    simp only [r, dd, sw, o, safe]
    split <;> simp_all

/-- The same for an analog output. -/
theorem aoDemanded_congr {s t : State} (h : SameGround s t) (k : Nat)
    (e : { aoSt t k with out := 0, changed := false } = { aoSt s k with out := 0, changed := false })
    (o : (aoSt t k).out = (aoSt s k).out ∨ (aoSt t k).out = aoDemanded k s) : aoDemanded k t = aoDemanded k s := by
  simp only [AoState.mk.injEq] at e
  have sw : switchedOff aouPg k t = switchedOff aouPg k s := by
    obtain ⟨d, rfl, -⟩ := h
    have : fieldWindow (withDrv s d) = fieldWindow s := rfl
    unfold switchedOff
    rw [this]
    simp [fanPg, douPg, aouPg]
  have r : govRow aouPg k t = govRow aouPg k s := by
    apply h.row
    · simp [govOf, fanPg, douPg, aouPg]; tauto
    · simp [modeOf, fanPg, douPg, aouPg]; tauto
    · have : (aoSt t k).limit = (aoSt s k).limit := by tauto
      unfold row1 limiting
      rw [sw]
      simp [this, douPg, aouPg]
  have e1 : (aoSt t k).val = (aoSt s k).val := by tauto
  have e2 : rdForce t (pageAddr aouPg (0x108 + 0x20 * k)) = rdForce s (pageAddr aouPg (0x108 + 0x20 * k)) := by
    obtain ⟨d, rfl, -⟩ := h; rfl
  rcases o with o | o
  · unfold aoDemanded
    simp only [r, sw, o, e1, e2]
  · unfold aoDemanded at o ⊢
    simp only [r, sw, o, e1, e2]
    split <;> simp_all

/-! ### Driving one channel -/

theorem fanDrive_out (n : Nat) (s : State) :
    OnFan n s (fanDrive n s) ∧ (fanSt (fanDrive n s) n).out = fanDemanded n (fanDrive n s) := by
  unfold fanDrive
  split
  · rename_i h
    exact ⟨.refl n s, h⟩
  · refine ⟨.put n _ s, ?_⟩
    rw [fanDemanded_congr (OnFan.put n _ s).ground n (by simp)]
    simp

theorem doDrive_out (j : Nat) (s : State) :
    OnDo j s (doDrive j s) ∧ (doSt (doDrive j s) j).out = doDemanded j (doDrive j s) := by
  unfold doDrive
  split
  · rename_i h
    exact ⟨.refl j s, h⟩
  · refine ⟨.put j _ s, ?_⟩
    rw [doDemanded_congr (OnDo.put j _ s).ground j (by simp) (.inr (by simp))]
    simp

theorem aoDrive_out (k : Nat) (s : State) :
    OnAo k s (aoDrive k s) ∧ (aoSt (aoDrive k s) k).out = aoDemanded k (aoDrive k s) := by
  unfold aoDrive
  split
  · rename_i h
    exact ⟨.refl k s, h⟩
  · refine ⟨.put k _ s, ?_⟩
    rw [aoDemanded_congr (OnAo.put k _ s).ground k (by simp) (.inr (by simp))]
    simp

theorem fanSettle_out (n : Nat) (s : State) :
    OnFan n s (fanSettle n s) ∧ (fanSt (fanSettle n s) n).out = fanDemanded n (fanSettle n s) := by
  have duty (s : State) : OnFan n s (fanDuty n s) := by
    unfold fanDuty
    split
    · exact .refl n s
    · exact .put n _ s
  have rest (s : State) : OnFan n s (fanDrive n (fanDuty n (govNote fanPg n s))) :=
    ((OnFan.note n s).trans (duty _)).trans (fanDrive_out n _).1
  unfold fanSettle
  extract_lets x g s1
  refine ⟨?_, (fanDrive_out n _).2⟩
  refine OnFan.trans ?_ (rest s1)
  simp only [s1]
  split
  · exact .put n _ s
  · exact .refl n s

/-! ### All channels -/

/-- A fold over channels brings each of them in line, where no step disturbs another channel. -/
theorem forN_all {f : Nat → State → State} {P : Nat → State → Prop} (n : Nat) (hf : ∀ i s, P i (f i s))
    (hk : ∀ i j s, i ≠ j → P i s → P i (f j s)) (s : State) : ∀ i < n, P i (forN n f s) := by
  induction n with
  | zero => intro i hi; omega
  | succ n ih =>
    intro i hi
    have e : forN (n + 1) f s = f n (forN n f s) := by
      unfold forN
      rw [List.range_succ, List.foldl_append]
      rfl
    rw [e]
    by_cases h : i = n
    · subst h; exact hf i _
    · exact hk i n _ h (ih i (by omega))

theorem forN_keep {f : Nat → State → State} {Q : State → Prop} (n : Nat) (hk : ∀ j s, Q s → Q (f j s)) (s : State) (h : Q s) :
    Q (forN n f s) := by
  unfold forN
  induction List.range n generalizing s with
  | nil => exact h
  | cons i l ih => exact ih _ (hk i s h)

theorem settleOutputs_governed (s : State) : Governed (settleOutputs s) := by
  have dostep (j : Nat) (s : State) : OnDo j s (doDrive j (govNote douPg j s)) := (OnDo.note j s).trans (doDrive_out j _).1
  have aostep (k : Nat) (s : State) : OnAo k s (aoDrive k (govNote aouPg k s)) := (OnAo.note k s).trans (aoDrive_out k _).1
  unfold settleOutputs
  refine ⟨?_, ?_, ?_⟩
  · intro n hn
    refine forN_keep (Q := fun s => (fanSt s n).out = fanDemanded n s) 8 (fun k s h => ?_) _
      (forN_keep (Q := fun s => (fanSt s n).out = fanDemanded n s) 24 (fun j s h => ?_) _
        (forN_all (P := fun n s => (fanSt s n).out = fanDemanded n s) 12 (fun n s => (fanSettle_out n s).2)
          (fun i j s hij h => ?_) s n hn))
    · rw [(aostep k s).fans n, fanDemanded_congr (aostep k s).ground n (by rw [(aostep k s).fans n]), h]
    · rw [(dostep j s).fans n, fanDemanded_congr (dostep j s).ground n (by rw [(dostep j s).fans n]), h]
    · have o := (fanSettle_out j s).1
      rw [o.fans i hij, fanDemanded_congr o.ground i (by rw [o.fans i hij]), h]
  · intro j hj
    refine forN_keep (Q := fun s => (doSt s j).out = doDemanded j s) 8 (fun k s h => ?_) _
      (forN_all (P := fun j s => (doSt s j).out = doDemanded j s) 24 (fun j s => (doDrive_out j _).2)
        (fun i k s hik h => ?_) _ j hj)
    · rw [(aostep k s).dos j, doDemanded_congr (aostep k s).ground j (by rw [(aostep k s).dos j]) (.inl (by rw [(aostep k s).dos j])), h]
    · rw [(dostep k s).dos i hik, doDemanded_congr (dostep k s).ground i (by rw [(dostep k s).dos i hik])
        (.inl (by rw [(dostep k s).dos i hik])), h]
  · intro k hk
    refine forN_all (P := fun k s => (aoSt s k).out = aoDemanded k s) 8 (fun k s => (aoDrive_out k _).2) (fun i j s hij h => ?_) _ k hk
    rw [(aostep j s).aos i hij, aoDemanded_congr (aostep j s).ground i (by rw [(aostep j s).aos i hij])
      (.inl (by rw [(aostep j s).aos i hij])), h]

/-- After settling every output stands at what its governing row demands. -/
theorem settle_governed (s : State) : Governed (settle s) := settleOutputs_governed _

end Sys2Proof.Machine
end

