-- ==== Sys2Proof/Laws/Frame.lean ====
section
/-!
SUPPORT. What surrounds every command: the parts that its operation reaches, what settles after it, and the queue.
-/
namespace Sys2Proof.Machine

/-! ### Agreement on a part -/

theorem agree_refl (p : Part) (s : State) : agree p s s := by
  cases p <;> first | exact rfl | exact ⟨rfl, rfl, rfl⟩

theorem agree_trans {p : Part} {s t u : State} (h : agree p s t) (g : agree p t u) : agree p s u := by
  cases p <;> simp only [agree] at * <;> first | exact g.trans h | exact ⟨g.1.trans h.1, g.2.1.trans h.2.1, g.2.2.trans h.2.2⟩

/-- An operation leaves every part that it is not said to reach. -/
theorem reach_agree {ps : List Part} {f : State → State} {p : Part} (h : p ∉ ps) (s : State) : agree p s (reach ps f s) := by
  have c : ps.contains p = false := by simpa using h
  cases p <;> simp [agree, reach, h]

/-- A part on which an operation agrees stays, whether it is said to be reached or not. -/
theorem reach_agree_of {ps : List Part} {f : State → State} {p : Part} {s : State} (h : agree p s (f s)) : agree p s (reach ps f s) := by
  by_cases hp : p ∈ ps
  · cases p <;> simp only [agree, reach, List.contains_eq_mem, hp, decide_true, if_true] at h ⊢ <;> exact h
  · exact reach_agree hp s

theorem clearReports_agree (p : Part) (s : State) : agree p s (clearReports s) := by
  cases p <;> first | exact rfl | exact ⟨rfl, rfl, rfl⟩

theorem keepQueue_agree (p : Part) (s t : State) : agree p t (keepQueue s t) := by
  cases p <;> first | exact rfl | exact ⟨rfl, rfl, rfl⟩

theorem settle_agree {p : Part} (h : p ∉ settled) (s : State) : agree p s (settle s) := by
  obtain ⟨_, _, _, _, _, e⟩ := settle_parts s
  rw [e]
  cases p <;> first | exact rfl | exact ⟨rfl, rfl, rfl⟩ | exact absurd (by simp [settled]) h

/-! ### The queue -/

@[simp] theorem keepQueue_regs (s t : State) : (keepQueue s t).regs = t.regs := rfl
@[simp] theorem keepQueue_force (s t : State) : (keepQueue s t).force = t.force := rfl
@[simp] theorem keepQueue_win (s t : State) : (keepQueue s t).win = t.win := rfl
@[simp] theorem keepQueue_act (s t : State) : (keepQueue s t).act = t.act := rfl
@[simp] theorem keepQueue_mem (s t : State) : (keepQueue s t).mem = t.mem := rfl
@[simp] theorem keepQueue_time (s t : State) : (keepQueue s t).time = t.time := rfl
@[simp] theorem keepQueue_bus (s t : State) : (keepQueue s t).bus = t.bus := rfl
@[simp] theorem keepQueue_flt (s t : State) : (keepQueue s t).flt = t.flt := rfl
@[simp] theorem keepQueue_recd (s t : State) : (keepQueue s t).recd = t.recd := rfl
@[simp] theorem keepQueue_clk (s t : State) : (keepQueue s t).clk = t.clk := rfl
@[simp] theorem keepQueue_wch (s t : State) : (keepQueue s t).wch = t.wch := rfl
@[simp] theorem keepQueue_sns (s t : State) : (keepQueue s t).sns = t.sns := rfl
@[simp] theorem keepQueue_rpt (s t : State) : (keepQueue s t).rpt = t.rpt := rfl
@[simp] theorem keepQueue_moi (s t : State) : (keepQueue s t).moi = t.moi := rfl
@[simp] theorem keepQueue_pubs (s t : State) : (keepQueue s t).pubs = t.pubs := rfl
@[simp] theorem keepQueue_lpa (s t : State) : (keepQueue s t).lpa = t.lpa := rfl
@[simp] theorem keepQueue_landOut (s t : State) : (keepQueue s t).landOut = t.landOut := rfl
@[simp] theorem keepQueue_prf (s t : State) : (keepQueue s t).prf = t.prf := rfl
@[simp] theorem keepQueue_trc (s t : State) : (keepQueue s t).trc = t.trc := rfl
@[simp] theorem keepQueue_ldg (s t : State) : (keepQueue s t).ldg = t.ldg := rfl
@[simp] theorem keepQueue_eng (s t : State) : (keepQueue s t).eng = t.eng := rfl
@[simp] theorem keepQueue_drv (s t : State) : (keepQueue s t).drv = t.drv := rfl
@[simp] theorem keepQueue_hst (s t : State) : (keepQueue s t).hst = t.hst := rfl
@[simp] theorem keepQueue_can (s t : State) : (keepQueue s t).can = t.can := rfl
@[simp] theorem keepQueue_lnk (s t : State) : (keepQueue s t).lnk = t.lnk := rfl
@[simp] theorem keepQueue_nvs (s t : State) : (keepQueue s t).nvs = t.nvs := rfl
@[simp] theorem keepQueue_dig (s t : State) : (keepQueue s t).dig = t.dig := rfl
@[simp] theorem keepQueue_pwr (s t : State) : (keepQueue s t).pwr = t.pwr := rfl
@[simp] theorem keepQueue_tap (s t : State) : (keepQueue s t).tap = t.tap := rfl
@[simp] theorem keepQueue_bridges (s t : State) : (keepQueue s t).bridges = t.bridges := rfl
@[simp] theorem keepQueue_cyc (s t : State) : (keepQueue s t).cyc = t.cyc := rfl
@[simp] theorem keepQueue_fresh (s t : State) : (keepQueue s t).fresh = t.fresh := rfl
@[simp] theorem clearReports_regs (s : State) : (clearReports s).regs = s.regs := rfl
@[simp] theorem clearReports_force (s : State) : (clearReports s).force = s.force := rfl
@[simp] theorem clearReports_win (s : State) : (clearReports s).win = s.win := rfl
@[simp] theorem clearReports_act (s : State) : (clearReports s).act = s.act := rfl
@[simp] theorem clearReports_mem (s : State) : (clearReports s).mem = s.mem := rfl
@[simp] theorem clearReports_time (s : State) : (clearReports s).time = s.time := rfl
@[simp] theorem clearReports_flt (s : State) : (clearReports s).flt = s.flt := rfl
@[simp] theorem clearReports_recd (s : State) : (clearReports s).recd = s.recd := rfl
@[simp] theorem clearReports_clk (s : State) : (clearReports s).clk = s.clk := rfl
@[simp] theorem clearReports_wch (s : State) : (clearReports s).wch = s.wch := rfl
@[simp] theorem clearReports_sns (s : State) : (clearReports s).sns = s.sns := rfl
@[simp] theorem clearReports_rpt (s : State) : (clearReports s).rpt = s.rpt := rfl
@[simp] theorem clearReports_moi (s : State) : (clearReports s).moi = s.moi := rfl
@[simp] theorem clearReports_pubs (s : State) : (clearReports s).pubs = s.pubs := rfl
@[simp] theorem clearReports_lpa (s : State) : (clearReports s).lpa = s.lpa := rfl
@[simp] theorem clearReports_landOut (s : State) : (clearReports s).landOut = s.landOut := rfl
@[simp] theorem clearReports_prf (s : State) : (clearReports s).prf = s.prf := rfl
@[simp] theorem clearReports_trc (s : State) : (clearReports s).trc = s.trc := rfl
@[simp] theorem clearReports_ldg (s : State) : (clearReports s).ldg = s.ldg := rfl
@[simp] theorem clearReports_eng (s : State) : (clearReports s).eng = s.eng := rfl
@[simp] theorem clearReports_drv (s : State) : (clearReports s).drv = s.drv := rfl
@[simp] theorem clearReports_hst (s : State) : (clearReports s).hst = s.hst := rfl
@[simp] theorem clearReports_can (s : State) : (clearReports s).can = s.can := rfl
@[simp] theorem clearReports_nvs (s : State) : (clearReports s).nvs = s.nvs := rfl
@[simp] theorem clearReports_dig (s : State) : (clearReports s).dig = s.dig := rfl
@[simp] theorem clearReports_pwr (s : State) : (clearReports s).pwr = s.pwr := rfl
@[simp] theorem clearReports_tap (s : State) : (clearReports s).tap = s.tap := rfl
@[simp] theorem clearReports_bridges (s : State) : (clearReports s).bridges = s.bridges := rfl
@[simp] theorem clearReports_cyc (s : State) : (clearReports s).cyc = s.cyc := rfl
@[simp] theorem clearReports_fresh (s : State) : (clearReports s).fresh = s.fresh := rfl

@[simp] theorem keepQueue_pending (s t : State) : (keepQueue s t).pending = s.pending := rfl
@[simp] theorem rdReg_keepQueue (s t : State) (a : Nat) : rdReg (keepQueue s t) a = rdReg t a := rfl
@[simp] theorem rdReg_clearReports (s : State) (a : Nat) : rdReg (clearReports s) a = rdReg s a := rfl
@[simp] theorem dormant_keepQueue (s t : State) : dormant (keepQueue s t) = dormant t := rfl
@[simp] theorem dormant_clearReports (s : State) : dormant (clearReports s) = dormant s := rfl

@[simp] theorem finish_pending (f : State → State) (s : State) : (finish f s).pending = s.pending := by
  unfold finish; split <;> exact keepQueue_pending _ _
@[simp] theorem finishWrite_pending (f : State → State) (s : State) : (finishWrite f s).pending = s.pending := by
  unfold finishWrite; split <;> exact keepQueue_pending _ _
@[simp] theorem finishAlways_pending (f : State → State) (s : State) : (finishAlways f s).pending = s.pending := by
  unfold finishAlways; exact keepQueue_pending _ _

theorem keepQueue_governed {s t : State} (h : Governed t) : Governed (keepQueue s t) := h

/-! ### The awake device -/

theorem softwareReset_of {s : State} (h : bitAt s.pwr.causes 4 = false) : softwareReset s = s := by
  simp [softwareReset, h]

theorem finish_awake {s : State} (h : Awake s) (f : State → State) :
    finish f s = keepQueue s (settle (f (clearReports s))) := by
  simp [finish, h.1]

theorem finishWrite_awake {s : State} (h : Awake s) {f : State → State}
    (hp : bitAt (f (clearReports s)).pwr.causes 4 = false) :
    finishWrite f s = keepQueue s (settle (f (clearReports s))) := by
  unfold finishWrite
  rw [h.1, softwareReset_of (by simpa using hp)]
  rfl

theorem finishWrite_reach {s : State} (h : Awake s) {f : State → State} {ps : List Part} (hp : Part.pwr ∉ ps) :
    finishWrite (reach ps f) s = keepQueue s (settle (reach ps f (clearReports s))) := by
  refine finishWrite_awake h ?_
  have : (reach ps f (clearReports s)).pwr = s.pwr := by simp [reach, hp, clearReports]
  rw [this]
  exact h.2

theorem finishAlways_awake {s : State} {f : State → State} (hd : dormant (f (clearReports s)) = false)
    (hp : bitAt (f (clearReports s)).pwr.causes 4 = false) :
    finishAlways f s = keepQueue s (settle (f (clearReports s))) := by
  unfold finishAlways
  simp only [hd, Bool.false_eq_true, if_false]
  rw [softwareReset_of (by simpa using hp)]

/-- A dormant device does nothing at a command of the running device. -/
theorem finish_dormant {s : State} (h : dormant s = true) (f : State → State) : finish f s = keepQueue s (clearReports s) := by
  simp [finish, h]

theorem finishWrite_dormant {s : State} (h : dormant s = true) (f : State → State) :
    finishWrite f s = keepQueue s (clearReports s) := by
  simp [finishWrite, h]

/-! ### Reading a part after an operation -/

section
variable (ps : List Part) (f : State → State) (s : State)

theorem reach_regs (h : Part.regs ∈ ps) : (reach ps f s).regs = (f s).regs := by simp [reach, h]
theorem reach_force (h : Part.force ∈ ps) : (reach ps f s).force = (f s).force := by simp [reach, h]
theorem reach_win (h : Part.win ∈ ps) : (reach ps f s).win = (f s).win := by simp [reach, h]
theorem reach_act (h : Part.act ∈ ps) : (reach ps f s).act = (f s).act := by simp [reach, h]
theorem reach_mem (h : Part.mem ∈ ps) : (reach ps f s).mem = (f s).mem := by simp [reach, h]
theorem reach_time (h : Part.time ∈ ps) : (reach ps f s).time = (f s).time := by simp [reach, h]
theorem reach_bus (h : Part.bus ∈ ps) : (reach ps f s).bus = (f s).bus := by simp [reach, h]
theorem reach_flt (h : Part.flt ∈ ps) : (reach ps f s).flt = (f s).flt := by simp [reach, h]
theorem reach_recd (h : Part.recd ∈ ps) : (reach ps f s).recd = (f s).recd := by simp [reach, h]
theorem reach_clk (h : Part.clk ∈ ps) : (reach ps f s).clk = (f s).clk := by simp [reach, h]
theorem reach_wch (h : Part.wch ∈ ps) : (reach ps f s).wch = (f s).wch := by simp [reach, h]
theorem reach_sns (h : Part.sns ∈ ps) : (reach ps f s).sns = (f s).sns := by simp [reach, h]
theorem reach_rpt (h : Part.rpt ∈ ps) : (reach ps f s).rpt = (f s).rpt := by simp [reach, h]
theorem reach_moi (h : Part.moi ∈ ps) : (reach ps f s).moi = (f s).moi := by simp [reach, h]
theorem reach_pubs (h : Part.pubs ∈ ps) : (reach ps f s).pubs = (f s).pubs := by simp [reach, h]
theorem reach_lpa (h : Part.lpa ∈ ps) : (reach ps f s).lpa = (f s).lpa := by simp [reach, h]
theorem reach_landOut (h : Part.landOut ∈ ps) : (reach ps f s).landOut = (f s).landOut := by simp [reach, h]
theorem reach_prf (h : Part.prf ∈ ps) : (reach ps f s).prf = (f s).prf := by simp [reach, h]
theorem reach_trc (h : Part.trc ∈ ps) : (reach ps f s).trc = (f s).trc := by simp [reach, h]
theorem reach_ldg (h : Part.ldg ∈ ps) : (reach ps f s).ldg = (f s).ldg := by simp [reach, h]
theorem reach_eng (h : Part.eng ∈ ps) : (reach ps f s).eng = (f s).eng := by simp [reach, h]
theorem reach_drv (h : Part.drv ∈ ps) : (reach ps f s).drv = (f s).drv := by simp [reach, h]
theorem reach_hst (h : Part.hst ∈ ps) : (reach ps f s).hst = (f s).hst := by simp [reach, h]
theorem reach_can (h : Part.can ∈ ps) : (reach ps f s).can = (f s).can := by simp [reach, h]
theorem reach_lnk (h : Part.lnk ∈ ps) : (reach ps f s).lnk = (f s).lnk := by simp [reach, h]
theorem reach_nvs (h : Part.nvs ∈ ps) : (reach ps f s).nvs = (f s).nvs := by simp [reach, h]
theorem reach_dig (h : Part.dig ∈ ps) : (reach ps f s).dig = (f s).dig := by simp [reach, h]
theorem reach_pwr (h : Part.pwr ∈ ps) : (reach ps f s).pwr = (f s).pwr := by simp [reach, h]
theorem reach_tap (h : Part.tap ∈ ps) : (reach ps f s).tap = (f s).tap := by simp [reach, h]
theorem reach_bridges (h : Part.bridges ∈ ps) : (reach ps f s).bridges = (f s).bridges := by simp [reach, h]
theorem reach_fresh (h : Part.fresh ∈ ps) : (reach ps f s).fresh = (f s).fresh := by simp [reach, h]

@[simp] theorem reach_cyc : (reach ps f s).cyc = (f s).cyc := rfl

theorem rdReg_reach (h : Part.regs ∈ ps) (a : Nat) : rdReg (reach ps f s) a = rdReg (f s) a := by
  simp [rdReg, reach, h]
theorem rdReg_reach_not (h : Part.regs ∉ ps) (a : Nat) : rdReg (reach ps f s) a = rdReg s a := by
  simp [rdReg, reach, h]
end

end Sys2Proof.Machine
end

