-- ==== Sys2Proof/Laws/Bus.lean ====
section
/-!
SUPPORT. One access of one party: where it leads, how a write is judged and reported, and what a read returns.
-/
namespace Sys2Proof.Machine

/-- A state with other holds. -/
def withHolds (s : State) (l : List Hold) : State := { s with bus := { s.bus with holds := l } }

theorem touchHolds_eq (party : Party) (a k : Nat) (read : Bool) (s : State) :
    ∃ l, touchHolds party a k read s = withHolds s l := ⟨_, rfl⟩

@[simp] theorem rdReg_withHolds (s : State) (l : List Hold) (a : Nat) : rdReg (withHolds s l) a = rdReg s a := rfl
@[simp] theorem rdForce_withHolds (s : State) (l : List Hold) (a : Nat) : rdForce (withHolds s l) a = rdForce s a := rfl
@[simp] theorem withHolds_bus_reports (s : State) (l : List Hold) : (withHolds s l).bus.reports = s.bus.reports := rfl

/-- A page of the device: its index, and an aligned offset. -/
theorem placeOf_page {p off : Nat} {s : State} {d : RegDesc} (hp : p < 64) (ho : off < 0x400) (h4 : off % 4 = 0)
    (hk : (pageKind p).isNone = false) (hoff : pageOff p s = false) (hd : regAt p off = some d) :
    placeOf (pageAddr p off) s = .register p off d := by
  have e1 : pageAddr p off / 0x400 = p := by unfold pageAddr; omega
  have e2 : pageAddr p off % 0x400 = off := by unfold pageAddr; omega
  unfold placeOf
  rw [if_neg (by unfold pageAddr; omega), if_pos (by unfold pageAddr; omega), e1, e2, hk, hoff, hd]
  rfl

/-- The context in which a write that is alone in its cycle is judged. -/
def cxOf (party : Party) (p off : Nat) (w : Word) (d : RegDesc) (s : State) (l : List Hold) : WriteCx :=
  cycleCx s party w p off d (withHolds s l)

/-- What a judged write comes to. -/
def judged (r : WrOut) (s : State) : Res × State :=
  match r with
  | .ok s' => (.done, s')
  | .refuse => (.refused, s)
  | .refuseTo s' => (.refused, s')
  | .held => (.held, s)

/-- A state with other reports. -/
def withReports (s : State) (l : List Report) : State := { s with bus := { s.bus with reports := l } }

@[simp] theorem withReports_reports (s : State) (l : List Report) : (withReports s l).bus.reports = l := rfl
@[simp] theorem rdReg_withReports (s : State) (l : List Report) (a : Nat) : rdReg (withReports s l) a = rdReg s a := rfl

/-- A state with other notes of the present cycle. -/
def withCyc (s : State) (c : Cycle) : State := { s with cyc := c }

@[simp] theorem rdReg_withCyc (s : State) (c : Cycle) (a : Nat) : rdReg (withCyc s c) a = rdReg s a := rfl

theorem noteWas_eq (a : Nat) (w : Option Word) (s : State) : ∃ c, noteWas a w s = withCyc s c := by
  unfold noteWas
  split
  · exact ⟨s.cyc, rfl⟩
  · exact ⟨_, rfl⟩

/-- Only a write of CTRL on an engine's page touches CTRL.RUN of an engine. -/
theorem runTouched_none {party : Party} {p off : Nat} {w : Word} {d : RegDesc} {s : State}
    (hpl : placeOf (pageAddr p off) s = .register p off d) (hrun : ¬ (off = 0x08 ∧ pageKind p = some .eng)) :
    runTouched s ⟨party, pageAddr p off, w⟩ = none := by
  unfold runTouched
  simp only
  rw [hpl]
  simp [hrun]

theorem writeAccess_eq (r : BusReq) (s : State) :
    writeAccess r s = withReports (busWrite r s).2 (s.bus.reports ++ [⟨r.party, r.addr, (busWrite r s).1⟩]) := rfl

theorem placeWrite_register {party : Party} {w : Word} {p off : Nat} {d : RegDesc} {s t : State}
    (hsh : shadowData p off = false) (hadv : ∀ t, regAdvance party p off false t = t) :
    placeWriteSeen s party w (.register p off d) t = judged (judgeReg (cycleCx s party w p off d t) t) t := by
  unfold placeWriteSeen
  simp only [hsh, Bool.false_eq_true, and_false, if_false, hadv]
  cases judgeReg (cycleCx s party w p off d t) t <;> rfl

/-- A write to a register of a page whose data register is no window's: its judgement, and what the cycle notes of it. -/
theorem regWrite_eq {party : Party} {p off : Nat} {w : Word} {d : RegDesc} {s : State} (hp : p < 64) (ho : off < 0x400)
    (h4 : off % 4 = 0) (hk : (pageKind p).isNone = false) (hoff : pageOff p s = false) (hd : regAt p off = some d)
    (hsh : shadowData p off = false) (hadv : ∀ t, regAdvance party p off false t = t)
    (hrun : ¬ (off = 0x08 ∧ pageKind p = some .eng)) :
    ∃ l c, regWrite party p off w s
      = withReports (withCyc (judged (judgeReg (cxOf party p off w d s l) (withHolds s l)) (withHolds s l)).2 c)
          (s.bus.reports ++ [⟨party, pageAddr p off,
            (judged (judgeReg (cxOf party p off w d s l) (withHolds s l)) (withHolds s l)).1⟩]) := by
  have hpl := placeOf_page hp ho h4 hk hoff hd
  have hrt := runTouched_none (party := party) (w := w) hpl hrun
  obtain ⟨l, hl⟩ := touchHolds_eq party (pageAddr p off) (holdKey (pageAddr p off) s) false s
  have lose : losesToReaction s ⟨party, pageAddr p off, w⟩ s = false := by
    unfold losesToReaction
    rw [hrt]
    simp
  have run (o u : State) : noteRun s ⟨party, pageAddr p off, w⟩ o u = u := by
    unfold noteRun
    rw [hrt]
    simp
  have e : ∃ c, busWrite ⟨party, pageAddr p off, w⟩ s
      = ((judged (judgeReg (cxOf party p off w d s l) (withHolds s l)) (withHolds s l)).1,
         withCyc (judged (judgeReg (cxOf party p off w d s l) (withHolds s l)) (withHolds s l)).2 c) := by
    unfold busWrite busWriteSeen cxOf
    rw [lose]
    simp only [Bool.false_eq_true, if_false, run]
    rw [hpl, hl, placeWrite_register hsh hadv]
    obtain ⟨c, hc⟩ := noteWas_eq (pageAddr p off) (placeWord party (.register p off d) s)
      (judged (judgeReg (cycleCx s party w p off d (withHolds s l)) (withHolds s l)) (withHolds s l)).2
    rw [hc]
    split
    · exact ⟨c, rfl⟩
    · exact ⟨_, rfl⟩
  obtain ⟨c, e⟩ := e
  refine ⟨l, c, ?_⟩
  unfold regWrite
  rw [writeAccess_eq, e]

/-- An accepted write to a register: it is reported done, and the state is what the judgement leaves. -/
theorem regWrite_done {party : Party} {p off : Nat} {w : Word} {d : RegDesc} {s : State} {P : State → Prop} (hp : p < 64)
    (ho : off < 0x400) (h4 : off % 4 = 0) (hk : (pageKind p).isNone = false) (hoff : pageOff p s = false)
    (hd : regAt p off = some d) (hsh : shadowData p off = false) (hadv : ∀ t, regAdvance party p off false t = t)
    (hrun : ¬ (off = 0x08 ∧ pageKind p = some .eng))
    (h : ∀ l, ∃ s', judgeReg (cxOf party p off w d s l) (withHolds s l) = .ok s' ∧ P s') :
    ∃ s' c, regWrite party p off w s = withReports (withCyc s' c) (s.bus.reports ++ [⟨party, pageAddr p off, .done⟩]) ∧ P s' := by
  obtain ⟨l, c, e⟩ := regWrite_eq (party := party) (w := w) hp ho h4 hk hoff hd hsh hadv hrun
  obtain ⟨s', hj, hP⟩ := h l
  exact ⟨s', c, by rw [e, hj]; rfl, hP⟩

/-- A refused write to a register: it is reported refused, and nothing but the party's holds changes. -/
theorem regWrite_refused {party : Party} {p off : Nat} {w : Word} {d : RegDesc} {s : State} (hp : p < 64) (ho : off < 0x400)
    (h4 : off % 4 = 0) (hk : (pageKind p).isNone = false) (hoff : pageOff p s = false) (hd : regAt p off = some d)
    (hsh : shadowData p off = false) (hadv : ∀ t, regAdvance party p off false t = t)
    (hrun : ¬ (off = 0x08 ∧ pageKind p = some .eng))
    (h : ∀ l, judgeReg (cxOf party p off w d s l) (withHolds s l) = .refuse) :
    ∃ l c, regWrite party p off w s
      = withReports (withCyc (withHolds s l) c) (s.bus.reports ++ [⟨party, pageAddr p off, .refused⟩]) := by
  obtain ⟨l, c, e⟩ := regWrite_eq (party := party) (w := w) hp ho h4 hk hoff hd hsh hadv hrun
  exact ⟨l, c, by rw [e, h l]; rfl⟩

/-! ### Registers without a window behind them -/

/-- Whether an access to a register may move a window's address. -/
def mayAdvance (p off : Nat) (read : Bool) : Bool :=
  match pageKind p with
  | some .recd => read
  | some .nvs => off = 0x104
  | some .can => off = 0x144
  | some .lnk => off = 0x144
  | some .wch => off = 0x14C
  | some .sns => off = 0x3F4
  | some .moi => off = 0x314
  | some .lpa => off = 0x38C
  | some .prf => off = 0x304
  | some .ldg => off = 0x204
  | some .fan => off = 0x344
  | _ => false

theorem regAdvance_none {p off : Nat} {read : Bool} (h : mayAdvance p off read = false) (party : Party) (s : State) :
    regAdvance party p off read s = s := by
  unfold mayAdvance at h
  unfold regAdvance
  split <;> simp_all [lnkAdvance]

/-- Whether a register is a CHi_RANGE register (R90). -/
def rangeReg (p off : Nat) : Bool := decide (pageKind p = some .sns ∧ 0x100 ≤ off ∧ off < 0x200 ∧ off % 0x10 = 4)

/-- What a register's row fixes of the judging of its writes: it is an assigned register that is not read-only throughout and has no
window behind it, and every field that can be written satisfies `ok`. -/
def plainReg (p off : Nat) (ok : FieldDesc → Bool) : Bool :=
  decide (p < 64) && decide (off < 0x400) && decide (off % 4 = 0) && !(pageKind p).isNone && !shadowData p off && !mayAdvance p off false
    && !rangeReg p off
    && match regAt p off with
      | some d => !allRo d && d.fields.all fun f => decide (f.acc = .ro) || ok f
      | none => false

/-- Fields governed by the page's OWN that are no RWS fields; all of them writable under LOCK where `oper` asks for it. -/
def pageField (oper : Bool) (f : FieldDesc) : Bool := decide (f.gov = .page) && decide (f.acc ≠ .rws) && (!oper || f.oper)

/-- Fields governed by the unit's owner that are no RWS fields. -/
def unitField (oper : Bool) (f : FieldDesc) : Bool := decide (f.gov = .unit) && decide (f.acc ≠ .rws) && (!oper || f.oper)

theorem mem_written {party : Party} {p off : Nat} {w : Word} {d : RegDesc} {s : State} {f : FieldDesc} (hr : rangeReg p off = false)
    (hf : f ∈ (writeCx party w p off d s).fields) : f ∈ d.fields ∧ f.acc ≠ .ro := by
  have h := List.mem_filter.1 hf
  have hn : rangeWrite w p off f s = false := by
    unfold rangeReg at hr
    unfold rangeWrite
    simp only [decide_eq_false_iff_not] at hr
    have : ¬ (pageKind p = some .sns ∧ 0x100 ≤ off ∧ off < 0x200 ∧ off % 0x10 = 4 ∧ f.lo = 0) := fun h => hr ⟨h.1, h.2.1, h.2.2.1, h.2.2.2.1⟩
    simp [this]
  refine ⟨h.1, fun e => ?_⟩
  have h2 := h.2
  rw [hn, Bool.or_false] at h2
  simp [writesField, e] at h2

/-- Whether a write has an effect of its own: it writes a field, or its register takes keys (R502). -/
def Effective (cx : WriteCx) : Prop := cx.fields ≠ [] ∨ keyRegister cx.page cx.off = true

theorem Effective.not_idle {cx : WriteCx} (h : Effective cx) : ¬ (cx.fields = [] ∧ keyRegister cx.page cx.off = false) := by
  rintro ⟨e, k⟩
  rcases h with h | h
  · exact h e
  · rw [k] at h; exact absurd h (by decide)

/-- A permitted write that writes no field is done and changes nothing (R502). -/
theorem judgeReg_idle {cx : WriteCx} {s : State} (hb : partyBarred cx.party (some cx.page) s = false)
    (hr : allRo cx.desc = false) (hf : fieldsPermitted cx s = true) (hw : ¬ Effective cx) : judgeReg cx s = .ok s := by
  unfold Effective at hw
  simp only [not_or, not_not, Bool.not_eq_true] at hw
  simp [judgeReg, hb, hr, hf, hw]

/-- A permitted write to a block register: the outcome is that of its chapter. -/
theorem judgeReg_block {cx : WriteCx} {s : State} (hb : partyBarred cx.party (some cx.page) s = false)
    (hr : allRo cx.desc = false) (hf : fieldsPermitted cx s = true) (hw : Effective cx) (ho : ¬ cx.off < 0x100) :
    judgeReg cx s = blockWrite cx s := by
  simp only [judgeReg, hb, hr, hf, ho, hw.not_idle, if_false, Bool.or_self, Bool.not_true, Bool.false_eq_true]

/-- A permitted write to a common register. -/
theorem judgeReg_common {cx : WriteCx} {s : State} (hb : partyBarred cx.party (some cx.page) s = false)
    (hr : allRo cx.desc = false) (hf : fieldsPermitted cx s = true) (hw : Effective cx) (ho : cx.off < 0x100) :
    judgeReg cx s = commonWrite cx s := by
  simp only [judgeReg, hb, hr, hf, ho, hw.not_idle, if_false, if_true, Bool.or_self, Bool.not_true, Bool.false_eq_true]

/-- The facts that `plainReg` bundles. -/
theorem plainReg_facts {p off : Nat} {ok : FieldDesc → Bool} (h : plainReg p off ok = true) :
    p < 64 ∧ off < 0x400 ∧ off % 4 = 0 ∧ (pageKind p).isNone = false ∧ shadowData p off = false ∧ mayAdvance p off false = false
      ∧ rangeReg p off = false ∧ ∃ d, regAt p off = some d ∧ allRo d = false ∧ ∀ f ∈ d.fields, f.acc = .ro ∨ ok f = true := by
  unfold plainReg at h
  cases hd : regAt p off with
  | none => simp [hd] at h
  | some d =>
    simp only [hd, Bool.and_eq_true, decide_eq_true_eq, Bool.not_eq_true', List.all_eq_true, Bool.or_eq_true] at h
    obtain ⟨⟨⟨⟨⟨⟨⟨h1, h2⟩, h3⟩, h4⟩, h5⟩, h6⟩, h7⟩, h8, h9⟩ := h
    exact ⟨h1, h2, h3, h4, h5, h6, h7, d, rfl, h8, h9⟩

theorem permitted_page {party : Party} {p off : Nat} {w : Word} {d : RegDesc} {s : State} {oper : Bool} (l : List Hold)
    (h : MayWrite party p oper s) (hr : rangeReg p off = false)
    (hd : ∀ f ∈ d.fields, f.acc = .ro ∨ pageField oper f = true) :
    fieldsPermitted (cxOf party p off w d s l) (withHolds s l) = true := by
  obtain ⟨-, -, h3, h4⟩ := h
  unfold fieldsPermitted
  rw [List.all_eq_true]
  intro f hf
  obtain ⟨hm, ha⟩ := mem_written hr hf
  have := (hd f hm).resolve_left ha
  simp only [pageField, Bool.and_eq_true, decide_eq_true_eq, Bool.or_eq_true, Bool.not_eq_true'] at this
  obtain ⟨⟨g, r⟩, o⟩ := this
  have e1 : ownerPermits (cxOf party p off w d s l) (withHolds s l) f = true := by
    unfold ownerPermits
    rw [g]
    simp only [Bool.or_eq_true]
    exact .inr h3
  have e2 : (f.oper || !locked (cxOf party p off w d s l).page (withHolds s l)
      || decide ((cxOf party p off w d s l).party = .sup ∨ (cxOf party p off w d s l).party = .flt)) = true := by
    rcases h4 with rfl | h4 | h4
    · have : f.oper = true := by simpa using o
      simp [this]
    · have : locked (cxOf party p off w d s l).page (withHolds s l) = false := h4
      simp [this]
    · subst h4
      simp [cxOf, cycleCx, writeCx]
  rw [e1, e2]
  simp [r]

theorem permitted_unit {party : Party} {p off u : Nat} {w : Word} {d : RegDesc} {s : State} {oper : Bool} (l : List Hold)
    (h : MayWriteUnit party p u oper s) (hu : regUnit d off = u) (hr : rangeReg p off = false)
    (hd : ∀ f ∈ d.fields, f.acc = .ro ∨ unitField oper f = true) :
    fieldsPermitted (cxOf party p off w d s l) (withHolds s l) = true := by
  obtain ⟨-, -, h3, h4⟩ := h
  unfold fieldsPermitted
  rw [List.all_eq_true]
  intro f hf
  obtain ⟨hm, ha⟩ := mem_written hr hf
  have := (hd f hm).resolve_left ha
  simp only [unitField, Bool.and_eq_true, decide_eq_true_eq, Bool.or_eq_true, Bool.not_eq_true'] at this
  obtain ⟨⟨g, r⟩, o⟩ := this
  have e1 : ownerPermits (cxOf party p off w d s l) (withHolds s l) f = true := by
    unfold ownerPermits
    rw [g]
    simp only
    change unitOwns p (regUnit d off) party s = true
    rw [hu]
    exact h3
  have e2 : (f.oper || !locked (cxOf party p off w d s l).page (withHolds s l)
      || decide ((cxOf party p off w d s l).party = .sup ∨ (cxOf party p off w d s l).party = .flt)) = true := by
    rcases h4 with rfl | h4 | h4
    · have : f.oper = true := by simpa using o
      simp [this]
    · have : locked (cxOf party p off w d s l).page (withHolds s l) = false := h4
      simp [this]
    · subst h4
      simp [cxOf, cycleCx, writeCx]
  rw [e1, e2]
  simp [r]

/-- An accepted command in a page-governed block register. -/
theorem pageCmd_done {party : Party} {p off : Nat} {w : Word} {s : State} {oper : Bool} {P : State → Prop}
    (hs : plainReg p off (pageField oper) = true) (ho : ¬ off < 0x100) (h : MayWrite party p oper s)
    (hP : ∀ l d, regAt p off = some d → ∃ s',
      Effective (cxOf party p off w d s l) ∧ blockWrite (cxOf party p off w d s l) (withHolds s l) = .ok s' ∧ P s') :
    ∃ s' c, regWrite party p off w s = withReports (withCyc s' c) (s.bus.reports ++ [⟨party, pageAddr p off, .done⟩]) ∧ P s' := by
  obtain ⟨h1, h2, h3, h4, h5, h6, h7, d, hd, hro, hf⟩ := plainReg_facts hs
  refine regWrite_done h1 h2 h3 h4 h.1 hd h5 (fun t => regAdvance_none h6 party t) (by omega) fun l => ?_
  obtain ⟨s', hw, e, hs'⟩ := hP l d hd
  refine ⟨s', ?_, hs'⟩
  rw [judgeReg_block h.2.1 hro (permitted_page l h h7 hf) hw ho]
  exact e

/-- An accepted command in a unit-governed block register. -/
theorem unitCmd_done {party : Party} {p off u : Nat} {w : Word} {s : State} {oper : Bool} {P : State → Prop}
    (hs : plainReg p off (unitField oper) = true) (hu : ∀ d, regAt p off = some d → regUnit d off = u) (ho : ¬ off < 0x100)
    (h : MayWriteUnit party p u oper s)
    (hP : ∀ l d, regAt p off = some d → ∃ s',
      Effective (cxOf party p off w d s l) ∧ blockWrite (cxOf party p off w d s l) (withHolds s l) = .ok s' ∧ P s') :
    ∃ s' c, regWrite party p off w s = withReports (withCyc s' c) (s.bus.reports ++ [⟨party, pageAddr p off, .done⟩]) ∧ P s' := by
  obtain ⟨h1, h2, h3, h4, h5, h6, h7, d, hd, hro, hf⟩ := plainReg_facts hs
  refine regWrite_done h1 h2 h3 h4 h.1 hd h5 (fun t => regAdvance_none h6 party t) (by omega) fun l => ?_
  obtain ⟨s', hw, e, hs'⟩ := hP l d hd
  refine ⟨s', ?_, hs'⟩
  rw [judgeReg_block h.2.1 hro (permitted_unit l h (hu d hd) h7 hf) hw ho]
  exact e

/-- An accepted command in a page-governed common register. -/
theorem commonCmd_done {party : Party} {p off : Nat} {w : Word} {s : State} {oper : Bool} {P : State → Prop}
    (hs : plainReg p off (pageField oper) = true) (ho : off < 0x100) (hrun : ¬ (off = 0x08 ∧ pageKind p = some .eng))
    (h : MayWrite party p oper s)
    (hP : ∀ l d, regAt p off = some d → ∃ s',
      Effective (cxOf party p off w d s l) ∧ commonWrite (cxOf party p off w d s l) (withHolds s l) = .ok s' ∧ P s') :
    ∃ s' c, regWrite party p off w s = withReports (withCyc s' c) (s.bus.reports ++ [⟨party, pageAddr p off, .done⟩]) ∧ P s' := by
  obtain ⟨h1, h2, h3, h4, h5, h6, h7, d, hd, hro, hf⟩ := plainReg_facts hs
  refine regWrite_done h1 h2 h3 h4 h.1 hd h5 (fun t => regAdvance_none h6 party t) hrun fun l => ?_
  obtain ⟨s', hw, e, hs'⟩ := hP l d hd
  refine ⟨s', ?_, hs'⟩
  rw [judgeReg_common h.2.1 hro (permitted_page l h h7 hf) hw ho]
  exact e

/-! ### The chapter that judges a write -/

theorem blockWrite_dev {cx : WriteCx} (s : State) (h : pageKind cx.page = some .dev) : blockWrite cx s = devWrite cx s := by
  simp [blockWrite, h]
theorem blockWrite_tick {cx : WriteCx} (s : State) (h : pageKind cx.page = some .tick) : blockWrite cx s = tickWrite cx s := by
  simp [blockWrite, h]
theorem blockWrite_flt {cx : WriteCx} (s : State) (h : pageKind cx.page = some .flt) : blockWrite cx s = fltWrite cx s := by
  simp [blockWrite, h]
theorem blockWrite_recd {cx : WriteCx} (s : State) (h : pageKind cx.page = some .recd) : blockWrite cx s = recWrite cx s := by
  simp [blockWrite, h]
theorem blockWrite_clk {cx : WriteCx} (s : State) (h : pageKind cx.page = some .clk) : blockWrite cx s = clkWrite cx s := by
  simp [blockWrite, h]
theorem blockWrite_wch {cx : WriteCx} (s : State) (h : pageKind cx.page = some .wch) : blockWrite cx s = wchWrite cx s := by
  simp [blockWrite, h]
theorem blockWrite_nvs {cx : WriteCx} (s : State) (h : pageKind cx.page = some .nvs) : blockWrite cx s = nvsWrite cx s := by
  simp [blockWrite, h]
theorem blockWrite_dig {cx : WriteCx} (s : State) (h : pageKind cx.page = some .dig) : blockWrite cx s = digWrite cx s := by
  simp [blockWrite, h]
theorem blockWrite_hst {cx : WriteCx} (s : State) (h : pageKind cx.page = some .hst) : blockWrite cx s = hstWrite cx s := by
  simp [blockWrite, h]
theorem blockWrite_can {cx : WriteCx} (s : State) (h : pageKind cx.page = some .can) : blockWrite cx s = canWrite cx s := by
  simp [blockWrite, h]
theorem blockWrite_lnk {cx : WriteCx} (s : State) (h : pageKind cx.page = some .lnk) : blockWrite cx s = lnkWrite cx s := by
  simp [blockWrite, h]
theorem blockWrite_sns {cx : WriteCx} (s : State) (h : pageKind cx.page = some .sns) : blockWrite cx s = snsWrite cx s := by
  simp [blockWrite, h]
theorem blockWrite_moi {cx : WriteCx} (s : State) (h : pageKind cx.page = some .moi) : blockWrite cx s = moiWrite cx s := by
  simp [blockWrite, h]
theorem blockWrite_lpa {cx : WriteCx} (s : State) (h : pageKind cx.page = some .lpa) : blockWrite cx s = lpaWrite cx s := by
  simp [blockWrite, h]
theorem blockWrite_prf {cx : WriteCx} (s : State) (h : pageKind cx.page = some .prf) : blockWrite cx s = prfWrite cx s := by
  simp [blockWrite, h]
theorem blockWrite_trc {cx : WriteCx} (s : State) (h : pageKind cx.page = some .trc) : blockWrite cx s = trcWrite cx s := by
  simp [blockWrite, h]
theorem blockWrite_ldg {cx : WriteCx} (s : State) (h : pageKind cx.page = some .ldg) : blockWrite cx s = ldgWrite cx s := by
  simp [blockWrite, h]
theorem blockWrite_eng {cx : WriteCx} (s : State) (h : pageKind cx.page = some .eng) : blockWrite cx s = engWrite cx s := by
  simp [blockWrite, h]
theorem blockWrite_vlv {cx : WriteCx} (s : State) (h : pageKind cx.page = some .vlv) : blockWrite cx s = vlvWrite cx s := by
  simp [blockWrite, h]
theorem blockWrite_fan {cx : WriteCx} (s : State) (h : pageKind cx.page = some .fan) : blockWrite cx s = fanWrite cx s := by
  simp [blockWrite, h]
theorem blockWrite_din {cx : WriteCx} (s : State) (h : pageKind cx.page = some .din) : blockWrite cx s = dinWrite cx s := by
  simp [blockWrite, h]
theorem blockWrite_dou {cx : WriteCx} (s : State) (h : pageKind cx.page = some .dou) : blockWrite cx s = douWrite cx s := by
  simp [blockWrite, h]
theorem blockWrite_aou {cx : WriteCx} (s : State) (h : pageKind cx.page = some .aou) : blockWrite cx s = aouWrite cx s := by
  simp [blockWrite, h]
theorem blockWrite_pwr {cx : WriteCx} (s : State) (h : pageKind cx.page = some .pwr) : blockWrite cx s = pwrWrite cx s := by
  simp [blockWrite, h]
theorem blockWrite_rpt {cx : WriteCx} (s : State) (h : pageKind cx.page = some .rpt) : blockWrite cx s = rptWrite cx s := by
  simp [blockWrite, h]

/-! ### Reads -/

/-- What a read of the bus leaves but for registers and holds. -/
def BusOnly (s t : State) : Prop := ∃ r b, t = { s with regs := r, bus := b }
theorem BusOnly.refl (s : State) : BusOnly s s := ⟨s.regs, s.bus, rfl⟩
theorem BusOnly.trans {s t u : State} (h : BusOnly s t) (g : BusOnly t u) : BusOnly s u := by
  obtain ⟨_, _, rfl⟩ := h
  obtain ⟨_, _, rfl⟩ := g
  exact ⟨_, _, rfl⟩
theorem BusOnly.hold (party : Party) (ws : List (Nat × Word)) (sc : HoldScope) (o : Bool) (s : State) : BusOnly s (makeHold party ws sc o s) :=
  ⟨_, _, rfl⟩
theorem BusOnly.setF (f : Fld) (p u v : Nat) (s : State) : BusOnly s (setF f p u v s) := ⟨_, _, rfl⟩
theorem BusOnly.wrParty (party : Party) (a : Nat) (v : Word) (s : State) : BusOnly s (wrParty party a v s) := ⟨_, _, rfl⟩
theorem BusOnly.ite (c : Prop) [Decidable c] {s t u : State} (h : BusOnly s t) (g : BusOnly s u) : BusOnly s (if c then t else u) := by
  split <;> assumption

theorem regAdvance_busOnly (party : Party) (p off : Nat) (read : Bool) (s : State) : BusOnly s (regAdvance party p off read s) := by
  unfold regAdvance recAdvance nvsAdvance canAdvance lnkAdvance wchAdvance coefAdvance tblAdvance lpaWinAdvance prfWinAdvance ldgWinAdvance fanWinAdvance
  split <;> (try simp only) <;> repeat' (first | exact .refl s | exact .setF .. | exact .wrParty .. | split)

theorem regReadHold_busOnly (party : Party) (p off : Nat) (s : State) : BusOnly s (regReadHold party p off s) := by
  unfold regReadHold devReadHold tickReadHold fltReadHold recReadHold clkReadHold digReadHold canReadHold lnkReadHold snsReadHold moiReadHold
  split
  · exact .hold ..
  · split <;> (try simp only) <;> repeat' (first | exact .refl s | exact .hold .. | exact (BusOnly.wrParty ..).trans (.wrParty ..) | split)

theorem placeRead_busOnly (party : Party) (held : Option Word) (pl : Place) (s : State) : BusOnly s (placeRead party held pl s).2.2 := by
  unfold placeRead
  split
  · exact .refl s
  · exact .refl s
  · split
    · exact regAdvance_busOnly ..
    · exact (regReadHold_busOnly ..).trans (regAdvance_busOnly ..)
  · exact .refl s
  · split
    · exact .refl s
    · simp only
      split
      · exact .hold ..
      · exact .refl s
  · exact .refl s

theorem busRead_busOnly (party : Party) (a : Nat) (s : State) : BusOnly s (busRead party a s).2.2 := by
  unfold busRead
  exact BusOnly.trans (t := touchHolds party a (holdKey a s) true s) ⟨_, _, rfl⟩ (placeRead_busOnly ..)

end Sys2Proof.Machine
end

