-- ==== Sys2Proof/Laws/Effects.lean ====
section
/-!
SUPPORT. From a command to the effect of its operation: what of it stands before the collector and the outputs follow.
-/
namespace Sys2Proof.Machine

/-! ### Commands and their operations -/

theorem settles_finish {i : Instr} {s : State} {f : State → State} (h : Awake s) (he : exec i s = .next (finish f s)) :
    Settles i s (f (clearReports s)) := by
  unfold Settles
  rw [he, finish_awake h]

theorem settles_write {i : Instr} {s : State} {f : State → State} {ps : List Part} (h : Awake s) (hp : Part.pwr ∉ ps)
    (he : exec i s = .next (finishWrite (reach ps f) s)) : Settles i s (reach ps f (clearReports s)) := by
  unfold Settles
  rw [he, finishWrite_reach h hp]

theorem settles_write_pwr {i : Instr} {s : State} {f : State → State} (h : Awake s)
    (hc : bitAt (f (clearReports s)).pwr.causes 4 = false)
    (he : exec i s = .next (finishWrite f s)) : Settles i s (f (clearReports s)) := by
  unfold Settles
  rw [he, finishWrite_awake h hc]

/-! ### Fields -/

theorem getW_reach {ps : List Part} (op : State → State) (s : State) (hp : Part.regs ∈ ps) (f : Fld) (p u : Nat) :
    getW f p u (reach ps op s) = getW f p u (op s) := getW_congr (rdReg_reach _ _ _ hp _)

theorem getW_setIrq {p n : Nat} {f : Fld} {q u : Nat} (s : State) (h : pageAddr p 0x10 ≠ fldAddr f q u) :
    getW f q u (setIrq p n s) = getW f q u s := getW_congr (rdReg_setIrq_ne _ _ _ h)

/-- A bit of IRQ_STAT that an operation has set. -/
theorem irq_setIrq (p : Nat) {n : Nat} (s : State) (hn : n < 32) : (rdReg (setIrq p n s) (pageAddr p 0x10)).getLsbD n = true := by
  have bit (m i : Nat) : (putBit m i true).testBit i = true := by
    unfold putBit
    by_cases h : bitAt m i = true
    · simp only [h, if_true]; simpa [bitAt, Nat.testBit, Nat.and_comm, Nat.one_and_eq_mod_two] using h
    · simp only [h]
      rw [if_neg (by simp), if_true, Nat.add_comm, Nat.testBit_two_pow_add_eq]
      simpa [bitAt, Nat.testBit, Nat.and_comm, Nat.one_and_eq_mod_two] using h
  unfold setIrq
  simp only
  rw [rdReg_noteBit, rdReg_wrReg]
  unfold ofN
  rw [BitVec.getLsbD_ofNat, bit]
  simpa using hn

/-- An operation that leaves the state as it is. -/
theorem reach_self {ps : List Part} {op : State → State} {s : State} (h : op s = s) : reach ps op s = s := by
  unfold reach; rw [h]; simp only [ite_self]

theorem getW_time (x : TimeState) (f : Fld) (p u : Nat) (s : State) : getW f p u { s with time := x } = getW f p u s := rfl

/-- A raised message is on its way. -/
theorem sent_raise (page inst kind addr : Nat) (s : State) : Sent page inst kind addr s (raise page inst kind addr s) :=
  ⟨_, List.mem_append_right _ (List.mem_singleton.2 rfl), rfl, rfl, rfl, rfl⟩

/-! ### Die temperatures -/

/-- The tide's reading of the die temperatures stands in its registers (R38, R490). -/
theorem getW_temps (t : DieTemps) (s : State) : getW PWR.TEMP0_C_DIE pwrPg 0 (tideTemps t s) = (t.cDie % 65536).toNat
    ∧ getW PWR.TEMP0_A_DIE pwrPg 0 (tideTemps t s) = (t.aDie % 65536).toNat 
    ∧ getW PWR.TEMP1_P_DIE pwrPg 0 (tideTemps t s) = (t.pDie % 65536).toNat := by
  have b (i : Int) : bits16 i % 65536 = (i % 65536).toNat := by unfold bits16; omega
  have key (f : Fld) (hf : f.lo ≤ f.hi) (h1 : fldAddr PWR.TEMP1_MAX pwrPg 0 ≠ fldAddr f pwrPg 0 ∨ f.hi < 16) (h2 : fldAddr PWR.STAT_TWARN_EP pwrPg 0 ≠ fldAddr f pwrPg 0)
      (h3 : pageAddr pwrPg 0x10 ≠ fldAddr f pwrPg 0) : getW f pwrPg 0 (tideTemps t s) = getW f pwrPg 0 (setF PWR.TEMP0_A_DIE pwrPg 0 (bits16 t.aDie) (setF PWR.TEMP0_C_DIE pwrPg 0 (bits16 t.cDie)
    (setF PWR.TEMP1_P_DIE pwrPg 0 (bits16 t.pDie) s))) := by
    unfold tideTemps
    simp only
    have m (v : Nat) (x : State) : getW f pwrPg 0 (setF PWR.TEMP1_MAX pwrPg 0 v x) = getW f pwrPg 0 x := getW_setF_other _ _ (by decide) hf (h1.imp_right .inl)
    split
    · split
      · unfold setB; rw [getW_setF_other _ _ (by decide) hf (.inl h2), m]
      · rw [m]
    · split
      · rw [getW_setIrq _ h3]; unfold setB; rw [getW_setF_other _ _ (by decide) hf (.inl h2), m]
      · rw [m]
  refine ⟨?_, ?_, ?_⟩
  · rw [key _ (by decide) (by decide) (by decide) (by decide), getW_setF_other _ _ (by decide) (by decide) (by decide), getW_setF _ _ _ _ _ (by decide) (by decide)]
    exact b _
  · rw [key _ (by decide) (by decide) (by decide) (by decide), getW_setF _ _ _ _ _ (by decide) (by decide)]
    exact b _
  · rw [key _ (by decide) (by decide) (by decide) (by decide), getW_setF_other _ _ (by decide) (by decide) (by decide), getW_setF_other _ _ (by decide) (by decide) (by decide), getW_setF _ _ _ _ _ (by decide) (by decide)]
    exact b _

end Sys2Proof.Machine
end

