-- ==== Sys2Proof/Laws/Heard.lean ====
section
/-!
SUPPORT. What the collector makes of a message that a command sends: it stands in the history when the command has ended.
-/
namespace Sys2Proof.Machine

/-! ### Sorting -/

theorem mem_insertBy {α : Type} (f : α → Nat) (x y : α) (l : List α) : y ∈ insertBy f x l ↔ y = x ∨ y ∈ l := by
  induction l with
  | nil => simp [insertBy]
  | cons z l ih =>
    unfold insertBy
    split
    · simp
    · simp only [List.mem_cons, ih]; tauto

theorem length_insertBy {α : Type} (f : α → Nat) (x : α) (l : List α) : (insertBy f x l).length = l.length + 1 := by
  induction l with
  | nil => rfl
  | cons z l ih =>
    unfold insertBy
    split
    · rfl
    · simp [ih]

theorem sortBy_facts {α : Type} (f : α → Nat) (l : List α) : (∀ x, x ∈ sortBy f l ↔ x ∈ l) ∧ (sortBy f l).length = l.length := by
  have gen (l acc : List α) : (∀ x, x ∈ l.foldl (fun acc x => insertBy f x acc) acc ↔ x ∈ l ∨ x ∈ acc)
      ∧ (l.foldl (fun acc x => insertBy f x acc) acc).length = l.length + acc.length := by
    induction l generalizing acc with
    | nil => simp
    | cons y l ih =>
      obtain ⟨a, b⟩ := ih (insertBy f y acc)
      refine ⟨fun x => ?_, ?_⟩
      · rw [List.foldl_cons, a x, mem_insertBy]; simp only [List.mem_cons]; tauto
      · rw [List.foldl_cons, b, length_insertBy]; simp; omega
  obtain ⟨a, b⟩ := gen l []
  exact ⟨fun x => (a x).trans (by simp), b.trans (by simp)⟩

/-! ### The notes of the present cycle -/

theorem thisCycle_at (s : State) : (thisCycle s).at_ = cycleNow s := by
  unfold thisCycle
  split
  · assumption
  · rfl

/-- A note that leaves the instant adds to the notes of the cycle. -/
theorem thisCycle_note {f : Cycle → Cycle} {s : State} (h : (f (thisCycle s)).at_ = (thisCycle s).at_) :
    thisCycle (noteCycle f s) = f (thisCycle s) := by
  have e : (noteCycle f s).cyc.at_ = cycleNow (noteCycle f s) := h.trans (thisCycle_at s)
  unfold thisCycle at e ⊢
  rw [if_pos e]
  rfl

/-- The messages that the collector has received in the present cycle. -/
def heardNow (s : State) : List Nat := (thisCycle s).sent

theorem heardNow_congr {s t : State} (hc : t.cyc = s.cyc) (ht : t.time = s.time) : heardNow t = heardNow s := by
  unfold heardNow thisCycle cycleNow usNow
  rw [hc, ht]

theorem heardNow_bit (a n : Nat) (s : State) : heardNow (noteBit a n s) = heardNow s := by
  unfold heardNow noteBit
  rw [thisCycle_note rfl]

theorem heardNow_irq (p n : Nat) (s : State) : heardNow (setIrq p n s) = heardNow s :=
  (heardNow_bit _ _ _).trans (heardNow_congr rfl rfl)

theorem heardNow_raise (p i k d : Nat) (s : State) : heardNow (raise p i k d s) = heardNow s := heardNow_congr rfl rfl

theorem heardNow_setB (f : Fld) (p u : Nat) (b : Bool) (s : State) : heardNow (setB f p u b s) = heardNow s := heardNow_congr rfl rfl

/-! ### Legs and outputs leave the collector -/

/-- A change of registers, outputs and notes, in which no message is noted. -/
def DriveOnly (s t : State) : Prop := (∃ r d c, t = { s with regs := r, drv := d, cyc := c }) ∧ heardNow t = heardNow s

theorem DriveOnly.refl (s : State) : DriveOnly s s := ⟨⟨s.regs, s.drv, s.cyc, rfl⟩, rfl⟩
theorem DriveOnly.trans {s t u : State} (h : DriveOnly s t) (g : DriveOnly t u) : DriveOnly s u := by
  obtain ⟨⟨_, _, _, rfl⟩, h2⟩ := h
  obtain ⟨⟨_, _, _, rfl⟩, g2⟩ := g
  exact ⟨⟨_, _, _, rfl⟩, g2.trans h2⟩
theorem DriveOnly.setF (f : Fld) (p u v : Nat) (s : State) : DriveOnly s (setF f p u v s) :=
  ⟨⟨_, _, _, rfl⟩, heardNow_congr rfl rfl⟩
theorem DriveOnly.setIrq (p n : Nat) (s : State) : DriveOnly s (setIrq p n s) := ⟨⟨_, _, _, rfl⟩, heardNow_irq p n s⟩
theorem DriveOnly.putLeg (l : Nat) (v : LegState) (s : State) : DriveOnly s (putLeg l v s) :=
  ⟨⟨_, _, _, rfl⟩, heardNow_congr rfl rfl⟩

theorem DriveOnly.fold {β : Type} (f : State → β → State) (hf : ∀ s b, DriveOnly s (f s b)) (l : List β) (s : State) :
    DriveOnly s (l.foldl f s) := by
  induction l generalizing s with
  | nil => exact .refl s
  | cons b l ih => exact (hf s b).trans (ih _)

theorem refreshLeg_driveOnly (l : Nat) (s : State) : DriveOnly s (refreshLeg l s) := by
  unfold refreshLeg
  simp only
  split
  · exact .refl s
  · split
    · split
      · refine .trans ?_ (.putLeg ..)
        split
        · exact .refl s
        · exact (DriveOnly.setF ..).trans (.setF ..)
      · exact .putLeg ..
    · exact .refl s

theorem legSettle_driveOnly (l : Nat) (s : State) : DriveOnly s (legSettle l s) := by
  have block (s : State) : DriveOnly s (blockCmd l s) := ((DriveOnly.setF ..).trans (.setF ..)).trans (.setIrq ..)
  have count (s : State) : DriveOnly s (countOn l s) := by
    unfold countOn
    simp only
    split
    · exact .refl s
    · exact .putLeg ..
  have ramp (s : State) : DriveOnly s (endRamp l s) := by
    unfold endRamp
    simp only
    split
    · exact (DriveOnly.putLeg ..).trans (.setF ..)
    · exact .refl s
  have decay (m : Nat) (s : State) : DriveOnly s (beginDecay l m s) := by
    unfold beginDecay refreshPair
    exact (DriveOnly.putLeg ..).trans ((refreshLeg_driveOnly ..).trans (refreshLeg_driveOnly ..))
  have ends (m n : Nat) (s : State) : DriveOnly s (endProfile l m n s) := by
    unfold endProfile
    exact ((count s).trans (ramp _)).trans ((DriveOnly.putLeg ..).trans (decay _ _))
  unfold legSettle
  split
  · simp only
    have w : DriveOnly s (if (legSt s l).wait.isSome = true then blockCmd l (putLeg l { legSt s l with wait := none } s) else s) := by
      split
      · exact (DriveOnly.putLeg ..).trans (block _)
      · exact .refl s
    have dec (c : Prop) [Decidable c] (s : State) : DriveOnly s (if c then beginDecay l 1 s else s) := by
      split
      · exact decay 1 s
      · exact .refl s
    split
    · exact w.trans (ends ..)
    · exact w.trans (dec _ _)
  · exact .refl s

theorem settleLegs_driveOnly (s : State) : DriveOnly s (settleLegs s) := by
  have edge (s : State) : DriveOnly s (dinEdge s) := by
    unfold dinEdge
    simp only
    split
    · exact .refl s
    · exact .setIrq ..
  exact (DriveOnly.fold _ (fun s l => legSettle_driveOnly l s) _ s).trans (edge _)

theorem settleDrive_driveOnly (s : State) : DriveOnly s (settleDrive s) := by
  unfold settleDrive
  obtain ⟨d, hd⟩ := settleOutputs_withDrv (settleLegs s)
  rw [hd]
  exact (settleLegs_driveOnly s).trans ⟨⟨_, d, _, rfl⟩, heardNow_congr rfl rfl⟩

/-! ### The history -/

/-- What the history's entry of a message holds (R361). -/
def Entered (m : Msg) (h : HistEntry) : Prop := h.src = m.src ∧ h.kind = m.kind ∧ h.addr = m.addr ∧ h.tick = m.tick ∧ h.phase = m.phase

/-- The entry of a message stands among those of the messages received in the present cycle. -/
def Among (m : Msg) (s : State) : Prop := ∃ i < (heardNow s).length, ∃ h, s.flt.hist[i]? = some h ∧ Entered m h

theorem Among.congr {m : Msg} {s t : State} (h : Among m s) (e : t.flt.hist = s.flt.hist) (n : heardNow t = heardNow s) : Among m t := by
  unfold Among; rw [e, n]; exact h

theorem Among.drive {m : Msg} {s t : State} (h : Among m s) (e : DriveOnly s t) : Among m t := by
  obtain ⟨⟨_, _, _, rfl⟩, n⟩ := e
  exact h.congr rfl n

/-- The history, the messages under way and those received in the cycle stay. -/
def KeepsHist (s t : State) : Prop := t.flt.hist = s.flt.hist ∧ t.flt.outbox = s.flt.outbox ∧ heardNow t = heardNow s

theorem KeepsHist.refl (s : State) : KeepsHist s s := ⟨rfl, rfl, rfl⟩

theorem KeepsHist.trans {s t u : State} (h : KeepsHist s t) (g : KeepsHist t u) : KeepsHist s u :=
  ⟨g.1.trans h.1, g.2.1.trans h.2.1, g.2.2.trans h.2.2⟩

theorem KeepsHist.fold {β : Type} (f : State → β → State) (hf : ∀ s b, KeepsHist s (f s b)) (l : List β) (s : State) : KeepsHist s (l.foldl f s) := by
  induction l generalizing s with
  | nil => exact .refl s
  | cons b l ih => exact (hf s b).trans (ih _)

theorem KeepsHist.forN (n : Nat) (f : Nat → State → State) (hf : ∀ i s, KeepsHist s (f i s)) (s : State) : KeepsHist s (forN n f s) :=
  .fold (fun a i => f i a) (fun s i => hf i s) (List.range n) s

theorem KeepsHist.ite (c : Prop) [Decidable c] {s t : State} (h : KeepsHist s t) : KeepsHist s (if c then t else s) := by
  split
  · exact h
  · exact .refl s

theorem putScope_hist (k : Nat) (c : Scope) (s : State) : KeepsHist s (putScope k c s) := ⟨rfl, rfl, heardNow_congr rfl rfl⟩

theorem startQuiet_hist (k t : Nat) (s : State) : KeepsHist s (startQuiet k t s) := by
  unfold startQuiet
  simp only
  split
  · exact putScope_hist ..
  · exact .refl s

theorem putRun_hist (p : Nat) (b : Bool) (s : State) : KeepsHist s (putRun p b s) := by
  unfold putRun bumpWriteGen
  split
  · exact .refl s
  · exact ⟨rfl, rfl, heardNow_congr rfl rfl⟩

theorem reactionRun_hist (e : Nat) (b : Bool) (s : State) : KeepsHist s (reactionRun e b s) := by
  unfold reactionRun
  split
  · exact ⟨rfl, rfl, heardNow_congr rfl rfl⟩
  · split
    · exact .refl s
    · refine (putRun_hist (0x20 + e) b s).trans ⟨rfl, rfl, ?_⟩
      unfold heardNow
      rw [thisCycle_note rfl]

theorem retryRuns_hist (s : State) : KeepsHist s (retryRuns s) := by
  unfold retryRuns
  simp only
  split
  · exact .refl s
  · refine KeepsHist.trans (t := { s with flt := { s.flt with retry := s.flt.retry.filter fun r => !decide (r.2.2 < cycleNow s) } })
      ⟨rfl, rfl, heardNow_congr rfl rfl⟩ ?_
    exact .fold _ (fun s r => reactionRun_hist _ _ s) _ _

theorem stopEngine_hist (k e : Nat) (s : State) : KeepsHist s (stopEngine k e s) := by
  unfold stopEngine
  split
  · exact .trans (putScope_hist ..) (reactionRun_hist ..)
  · exact .refl s

theorem setIrq_hist (p n : Nat) (s : State) : KeepsHist s (setIrq p n s) := ⟨rfl, rfl, heardNow_irq p n s⟩

theorem scopeRecord_hist (k o : Nat) (s : State) : KeepsHist s (scopeRecord k o s) := ⟨rfl, rfl, heardNow_congr rfl rfl⟩

theorem latchScope_hist (k : Nat) (s : State) : KeepsHist s (latchScope k s) := by
  unfold latchScope
  simp only
  split
  · exact .refl s
  · split <;> exact ((putScope_hist ..).trans (scopeRecord_hist ..)).trans (setIrq_hist ..)

/-- A part of the collector's state that the reactions leave. -/
theorem reactScope_keeps (k sev q t : Nat) (m : Msg) (latch : Bool) (s : State) : KeepsHist s (reactScope k sev q t m latch s) := by
  unfold reactScope
  extract_lets c begins c' s1 s2 s3 s4 s5
  have e1 : KeepsHist s s1 := putScope_hist ..
  have e2 : KeepsHist s1 s2 := .ite _ (setIrq_hist ..)
  have e3 : KeepsHist s2 s3 := .fold _ (fun s e => stopEngine_hist k e s) _ _
  have e4 : KeepsHist s3 s4 := startQuiet_hist ..
  have e5 : KeepsHist s4 s5 := .ite _ (.forN 8 _ (fun g s => startQuiet_hist g t s) _)
  exact (e1.trans (e2.trans (e3.trans (e4.trans e5)))).trans (.ite _ (latchScope_hist ..))

/-- What a received message leaves: its entry at the head of the history, and the note of its receipt. -/
theorem receive_hist (grp : Bool) (m : Msg) (s : State) :
    (∃ h, Entered m h ∧ h.seq = s.flt.seq ∧ h.sev = msgSev s m ∧ (receive grp m s).flt.hist = (h :: s.flt.hist).take 32)
      ∧ (receive grp m s).flt.outbox = s.flt.outbox ∧ heardNow (receive grp m s) = m.src / 256 :: heardNow s := by
  unfold receive
  extract_lets e sev k latch latches flags q h page high epis fs s1 s2 s3 s4 s5 s6
  have k3 : s3.flt.hist = s1.flt.hist ∧ s3.flt.outbox = s.flt.outbox := ⟨rfl, rfl⟩
  have n3 : heardNow s3 = page :: heardNow s := by
    have : heardNow s2 = heardNow s := heardNow_congr rfl rfl
    rw [← this]
    unfold heardNow
    simp only [s3]
    rw [thisCycle_note rfl]
    exact congrArg (page :: ·) (heardNow_congr (s := s2) rfl rfl)
  have h4 : KeepsHist s3 s4 := .ite _ (setIrq_hist ..)
  have h5 : KeepsHist s3 s5 := h4.trans (.ite _ (reactScope_keeps ..))
  have h6 : KeepsHist s3 s6 := h5.trans ⟨rfl, rfl, heardNow_congr rfl rfl⟩
  have last (c : Prop) [Decidable c] (d : Prop) [Decidable d] (x : List HistEntry) :
      KeepsHist s3 (if c then (if d then { s6 with flt := { s6.flt with fbOut := x } } else incSat LNK.STAT2_FB_OVF 0x0B 0 s6) else s6) := by
    refine h6.trans ?_
    split
    · split <;> exact ⟨rfl, rfl, heardNow_congr rfl rfl⟩
    · exact .refl _
  obtain ⟨l1, l2, l3⟩ := last (getF LNK.FCFG_FB_MIN 0x0B 0 s6 ≤ sev) (s6.flt.fbOut.length < 32) (s6.flt.fbOut ++ [h])
  exact ⟨⟨h, ⟨rfl, rfl, rfl, rfl, rfl⟩, rfl, rfl, l1.trans k3.1⟩, l2.trans k3.2, l3.trans n3⟩

theorem receive_among {m : Msg} (grp : Bool) (b : Msg) {s : State} (hn : (heardNow s).length < 32) (h : Among m s) :
    Among m (receive grp b s) := by
  obtain ⟨⟨e, -, -, -, hh⟩, -, hc⟩ := receive_hist grp b s
  obtain ⟨i, hi, x, hx, hp⟩ := h
  refine ⟨i + 1, by rw [hc]; simpa using hi, x, ?_, hp⟩
  rw [hh, List.getElem?_take_of_lt (by omega)]
  simpa using hx

theorem receive_own (grp : Bool) (m : Msg) (s : State) : Among m (receive grp m s) := by
  obtain ⟨⟨e, he, -, -, hh⟩, -, hc⟩ := receive_hist grp m s
  exact ⟨0, by rw [hc]; simp, e, by rw [hh]; rfl, he⟩

/-- What receiving at most `k` messages, none of which leaves the history in the cycle, does. -/
structure Hears (k : Nat) (ms : List Msg) (s t : State) : Prop where
  keeps : ∀ m, (heardNow s).length + k ≤ 32 → Among m s → Among m t
  takes : ∀ m ∈ ms, (heardNow s).length + k ≤ 32 → Among m t
  count : (heardNow t).length ≤ (heardNow s).length + k
  outbox : t.flt.outbox = s.flt.outbox

theorem Hears.refl (s : State) : Hears 0 [] s s := ⟨fun _ _ h => h, fun _ h => absurd h (by simp), Nat.le_refl _, rfl⟩

theorem Hears.trans {j k : Nat} {l n : List Msg} {s t u : State} (h : Hears j l s t) (g : Hears k n t u) :
    Hears (j + k) (l ++ n) s u := by
  have hc := h.count
  have gc := g.count
  refine ⟨fun m hm a => g.keeps m (by omega) (h.keeps m (by omega) a), fun m hm hn => ?_, by omega, g.outbox.trans h.outbox⟩
  rcases List.mem_append.1 hm with hm | hm
  · exact g.keeps m (by omega) (h.takes m hm (by omega))
  · exact g.takes m hm (by omega)

theorem Hears.mono {j k : Nat} {l n : List Msg} {s t : State} (h : Hears j l s t) (hk : j ≤ k) (hl : ∀ m ∈ n, m ∈ l) : Hears k n s t :=
  ⟨fun m hm => h.keeps m (by omega), fun m hm hn => h.takes m (hl m hm) (by omega), le_trans h.count (by omega), h.outbox⟩

theorem receive_hears (grp : Bool) (m : Msg) (s : State) : Hears 1 [m] s (receive grp m s) := by
  obtain ⟨-, ho, hc⟩ := receive_hist grp m s
  refine ⟨fun b hn h => receive_among grp m (by omega) h, fun b hb _ => ?_, by rw [hc]; simp, ho⟩
  rw [List.mem_singleton.1 hb]
  exact receive_own grp m s

/-- Messages received one after another. -/
theorem fold_hears (g : Msg → Bool) (l : List Msg) (s : State) : Hears l.length l s (l.foldl (fun a m => receive (g m) m a) s) := by
  induction l generalizing s with
  | nil => exact .refl s
  | cons b l ih =>
    refine (((receive_hears (g b) b s).trans (ih _))).mono (by simp; omega) (fun m hm => ?_)
    simpa using hm

theorem group_hears (l : List Msg) (s : State) : Hears l.length l s (receiveGroup l s) := by
  obtain ⟨f1, f2⟩ := sortBy_facts (groupKey s) l
  exact (fold_hears (fun _ => decide (2 ≤ l.length)) (sortBy (groupKey s) l) s).mono (by omega) (fun m hm => (f1 m).2 hm)

/-- The entries of a group, renumbered: each stands for one of before, from the same message. -/
theorem renumber_facts (base : Nat) (hs : List HistEntry) : (renumber base hs).length = hs.length
    ∧ ∀ m, ∀ h ∈ hs, Entered m h → ∃ e ∈ renumber base hs, Entered m e := by
  obtain ⟨f1, f2⟩ := sortBy_facts entryKey hs
  refine ⟨by simp [renumber, f2], fun m h hh he => ?_⟩
  obtain ⟨i, hi, hx⟩ := List.getElem_of_mem ((f1 h).2 hh)
  refine ⟨{ h with seq := (base + i) % 4294967296, flags := h.flags ||| 1 }, ?_, he⟩
  unfold renumber
  rw [List.mem_map]
  refine ⟨(h, i), ?_, rfl⟩
  rw [List.mem_zipIdx_iff_getElem?, List.getElem?_eq_getElem hi, hx]

/-- A group of one cycle put in order holds the same messages. -/
theorem regroup_hears (s : State) : Hears 0 [] s (regroup s) := by
  unfold regroup
  extract_lets mine order new
  split
  · exact .refl s
  · have hn : heardNow (regroupInto (order.zip new) s) = heardNow s := heardNow_congr rfl rfl
    refine ⟨fun m hm h => ?_, fun _ h => absurd h (by simp), by rw [hn]; omega, rfl⟩
    obtain ⟨i, hi, e, he, hp⟩ := h
    obtain ⟨r1, r2⟩ := renumber_facts ((s.flt.seq + 4294967296 - mine.length) % 4294967296) mine.reverse
    have hmine : e ∈ mine.reverse := by
      rw [List.mem_reverse]
      refine List.mem_of_getElem? (i := i) ?_
      simp only [mine]
      rw [List.getElem?_take_of_lt (by
        have : Nat.min 32 (thisCycle s).sent.length = (heardNow s).length := Nat.min_eq_right (by unfold heardNow at hm; omega)
        omega)]
      exact he
    obtain ⟨x, hx, hxp⟩ := r2 m e hmine hp
    have hl : new.length = mine.length := by simp only [new]; rw [r1]; simp
    have ho : order.length = new.length := by
      simp only [order]; rw [(sortBy_facts entryKey mine.reverse).2, hl]; simp
    have hz : ((order.zip new).map Prod.snd) = new := List.map_snd_zip (by omega)
    have hh : (regroupInto (order.zip new) s).flt.hist = new.reverse ++ s.flt.hist.drop (order.zip new).length := by
      unfold regroupInto
      simp only [hz]
    obtain ⟨j, hj, hjx⟩ := List.getElem_of_mem (List.mem_reverse.2 hx)
    have hlen : new.reverse.length ≤ (heardNow s).length := by
      rw [List.length_reverse, hl]
      simp only [mine]
      rw [List.length_take]
      exact le_trans (Nat.min_le_left _ _) (Nat.min_le_right _ _)
    refine ⟨j, by rw [hn]; exact lt_of_lt_of_le hj hlen, x, ?_, hxp⟩
    rw [hh, List.getElem?_append_left hj, List.getElem?_eq_getElem hj, hjx]

theorem stamps_facts (ms : List Msg) : (∀ m ∈ ms, stampOf m ∈ stamps ms) ∧ (stamps ms).length ≤ ms.length := by
  have gen (l : List Msg) (acc : List Nat) :
      (∀ x, x ∈ acc → x ∈ l.foldl (fun l m => if l.contains (stampOf m) then l else l ++ [stampOf m]) acc)
      ∧ (∀ m ∈ l, stampOf m ∈ l.foldl (fun l m => if l.contains (stampOf m) then l else l ++ [stampOf m]) acc)
      ∧ (l.foldl (fun l m => if l.contains (stampOf m) then l else l ++ [stampOf m]) acc).length ≤ l.length + acc.length := by
    induction l generalizing acc with
    | nil => exact ⟨fun x h => h, fun m h => absurd h (by simp), by simp⟩
    | cons b l ih =>
      simp only [List.foldl_cons]
      split
      · rename_i hc
        obtain ⟨a1, a2, a3⟩ := ih acc
        refine ⟨a1, fun m hm => ?_, by rw [List.length_cons]; omega⟩
        rcases List.mem_cons.1 hm with rfl | hm
        · exact a1 _ (by simpa using hc)
        · exact a2 m hm
      · obtain ⟨a1, a2, a3⟩ := ih (acc ++ [stampOf b])
        refine ⟨fun x hx => a1 x (by simp [hx]), fun m hm => ?_, by rw [List.length_append, List.length_singleton] at a3; rw [List.length_cons]; omega⟩
        rcases List.mem_cons.1 hm with rfl | hm
        · exact a1 _ (by simp)
        · exact a2 m hm
  obtain ⟨-, g2, g3⟩ := gen ms []
  obtain ⟨f1, f2⟩ := sortBy_facts id (ms.foldl (fun l m => if l.contains (stampOf m) then l else l ++ [stampOf m]) [])
  exact ⟨fun m hm => (f1 _).2 (g2 m hm), by unfold stamps; rw [f2]; simpa using g3⟩

/-- What the collector takes of at most four messages. -/
theorem collect_hears (s : State) (hl : s.flt.outbox.length ≤ 4) :
    Hears (4 * s.flt.outbox.length) s.flt.outbox { s with flt := { s.flt with outbox := [] } } (collect s) := by
  set ms := s.flt.outbox with hms
  have outer (ts : List Nat) (s : State) :
      Hears (4 * ts.length) (ms.filter fun m => ts.contains (stampOf m)) s
        (ts.foldl (fun a t => receiveGroup (ms.filter fun m => stampOf m = t) a) s) := by
    induction ts generalizing s with
    | nil => exact (Hears.refl s).mono (by simp) (by simp)
    | cons t ts ih =>
      have f : (ms.filter fun m => stampOf m = t).length ≤ 4 := le_trans (List.length_filter_le _ _) hl
      refine ((group_hears (ms.filter fun m => stampOf m = t) s).trans (ih _)).mono (by rw [List.length_cons]; omega) (fun m hm => ?_)
      simp only [List.mem_filter, List.contains_eq_mem, decide_eq_true_eq, List.mem_cons, List.mem_append] at hm ⊢
      tauto
  obtain ⟨s1, s2⟩ := stamps_facts ms
  unfold collect
  rw [← hms]
  refine ((outer (stamps ms) _).trans (regroup_hears _)).mono (by omega) (fun m hm => ?_)
  simp only [List.append_nil, List.mem_filter, List.contains_eq_mem, decide_eq_true_eq]
  exact ⟨hm, s1 m hm⟩

/-! ### The recorder's own message -/

/-- Whether a drop episode is active (R383). -/
def dropping (s : State) : Bool := getB REC.STAT_DROP_EP recPg 0 s

/-- What the recorder's intake makes of the collector: at most one message, and none while a drop episode is active. -/
structure Intake (s t : State) : Prop where
  hist : t.flt.hist = s.flt.hist
  heard : heardNow t = heardNow s
  inbox : t.recd.inbox = s.recd.inbox
  stays : dropping s = true → dropping t = true
  out : t.flt.outbox = s.flt.outbox ∨ (dropping t = true ∧ dropping s = false ∧ t.flt.outbox.length = s.flt.outbox.length + 1)

theorem Intake.refl (s : State) : Intake s s := ⟨rfl, rfl, rfl, fun h => h, .inl rfl⟩

theorem Intake.trans {s t u : State} (h : Intake s t) (g : Intake t u) : Intake s u := by
  refine ⟨g.hist.trans h.hist, g.heard.trans h.heard, g.inbox.trans h.inbox, fun d => g.stays (h.stays d), ?_⟩
  rcases h.out with a | ⟨a, b, c⟩
  · rcases g.out with d | ⟨d, e, f⟩
    · exact .inl (d.trans a)
    · refine .inr ⟨d, ?_, by rw [f, a]⟩
      cases hs : dropping s
      · rfl
      · exact absurd (h.stays hs) (by rw [e]; decide)
  · rcases g.out with d | ⟨d, e, f⟩
    · exact .inr ⟨g.stays a, b, by rw [d, c]⟩
    · exact absurd a (by rw [e]; decide)

theorem dropping_congr {s t : State} (h : rdReg t (pageAddr recPg 0x0C) = rdReg s (pageAddr recPg 0x0C)) : dropping t = dropping s := by
  unfold dropping getB
  rw [getF_eq (by decide), getF_eq (by decide)]
  exact congrArg (fun x => decide (x ≠ 0)) (getW_congr h)

theorem intake_setF (f : Fld) (u v : Nat) (s : State) (h : f.off + f.stride * u ≠ 0x0C) : Intake s (setF f recPg u v s) :=
  have e : dropping (setF f recPg u v s) = dropping s := dropping_congr (rdReg_setF_ne _ _ _ _ _ (by simp only [fldAddr, pageAddr]; omega))
  ⟨rfl, heardNow_congr rfl rfl, rfl, fun d => e.trans d, .inl rfl⟩

theorem intake_noteBit (a n : Nat) (s : State) : Intake s (noteBit a n s) := ⟨rfl, heardNow_bit a n s, rfl, fun d => d, .inl rfl⟩

theorem dropRecord_intake (r : RecReq) (s : State) : Intake s (dropRecord r s) := by
  unfold dropRecord
  extract_lets sev s1 src s2
  have i1 : Intake s s1 :=
    (intake_setF _ _ _ _ (by simp only [REC.DROP_COUNT]; omega)).trans (intake_noteBit _ _ _)
  have i2 : Intake s1 s2 := by
    simp only [s2]
    split
    · exact ⟨rfl, heardNow_congr rfl rfl, rfl, fun d => d, .inl rfl⟩
    · exact .refl _
  refine i1.trans (i2.trans ?_)
  cases hd : dropping s2
  · rw [if_neg (by rw [show getB REC.STAT_DROP_EP recPg 0 s2 = false from hd]; decide)]
    have dt : dropping (raise recPg 0xFF kRecDropped sev (setIrq recPg 16 (setB REC.STAT_DROP_EP recPg 0 true s2))) = true := by
      unfold dropping getB
      rw [getF_eq (by decide)]
      have : getW REC.STAT_DROP_EP recPg 0 (raise recPg 0xFF kRecDropped sev (setIrq recPg 16 (setB REC.STAT_DROP_EP recPg 0 true s2)))
          = getW REC.STAT_DROP_EP recPg 0 (setB REC.STAT_DROP_EP recPg 0 true s2) :=
        getW_congr (by rw [rdReg_raise, rdReg_setIrq_ne _ _ _ (by simp [fldAddr, pageAddr, REC.STAT_DROP_EP])])
      rw [this]
      unfold setB
      rw [getW_setF _ _ _ _ _ (by decide) (by decide)]
      decide
    refine ⟨rfl, ?_, rfl, fun _ => dt, .inr ⟨dt, hd, by show (_ ++ [_]).length = _; rw [List.length_append]; rfl⟩⟩
    rw [heardNow_raise, heardNow_irq, heardNow_setB]
  · rw [if_pos (by exact hd)]
    exact .refl s2

theorem enqueue_intake (r : RecReq) (s : State) : Intake s (enqueue r s) := by
  unfold enqueue
  split
  · unfold queueDepth
    refine .trans (t := { s with recd := { s.recd with queue := s.recd.queue ++ [r] } })
      ⟨rfl, heardNow_congr rfl rfl, rfl, fun d => d, .inl rfl⟩ ?_
    exact (intake_setF _ _ _ _ (by decide)).trans (intake_setF _ _ _ _ (by decide))
  · exact (intake_setF _ _ _ _ (by decide)).trans (dropRecord_intake r _)

theorem intake_intake (s : State) : (intake s).flt.hist = s.flt.hist ∧ (intake s).recd.inbox = [] ∧ heardNow (intake s) = heardNow s
    ∧ (dropping s = true → dropping (intake s) = true)
    ∧ ((intake s).flt.outbox = s.flt.outbox
      ∨ (dropping (intake s) = true ∧ dropping s = false ∧ (intake s).flt.outbox.length = s.flt.outbox.length + 1)) := by
  have fold (l : List RecReq) (s : State) : Intake s (l.foldl (fun a r => enqueue r a) s) := by
    induction l generalizing s with
    | nil => exact .refl s
    | cons b l ih => exact (enqueue_intake b s).trans (ih _)
  unfold intake
  extract_lets now l
  split
  · rename_i h
    exact ⟨rfl, h, rfl, fun d => d, .inl rfl⟩
  · have i := fold l { s with recd := { s.recd with queue := s.recd.queue.filter fun r => !now r, inbox := [] } }
    exact ⟨i.hist, i.inbox, i.heard.trans (heardNow_congr rfl rfl), i.stays, i.out⟩

/-! ### Rounds -/

theorem calm_drop : calm (pageAddr recPg 0x0C) := by unfold calm; decide

theorem settleDrive_dropping (s : State) : dropping (settleDrive s) = dropping s := by
  refine dropping_congr ?_
  unfold settleDrive
  obtain ⟨d, hd⟩ := settleOutputs_withDrv (settleLegs s)
  rw [hd]
  exact settleLegs_quiet calm_drop s

/-- One round hears what is on its way; what it leaves on the way is at most the recorder's own message. -/
theorem round_hears (s : State) (hl : s.flt.outbox.length ≤ 4) :
    (∀ m, (heardNow s).length + 4 * s.flt.outbox.length ≤ 32 → Among m s → Among m (settleRound s))
      ∧ (∀ m ∈ s.flt.outbox, (heardNow s).length + 4 * s.flt.outbox.length ≤ 32 → Among m (settleRound s))
      ∧ (heardNow (settleRound s)).length ≤ (heardNow s).length + 4 * s.flt.outbox.length
      ∧ (settleRound s).recd.inbox = []
      ∧ ((settleRound s).flt.outbox = []
        ∨ (dropping (settleRound s) = true ∧ dropping s = false ∧ (settleRound s).flt.outbox.length = 1)) := by
  have c := collect_hears s hl
  have hn : heardNow { s with flt := { s.flt with outbox := [] } } = heardNow s := heardNow_congr rfl rfl
  have d1 := settleDrive_driveOnly (collect s)
  obtain ⟨i1, i2, i0, i3, i4⟩ := intake_intake (settleDrive (collect s))
  have o : (settleDrive (collect s)).flt.outbox = [] := by
    obtain ⟨⟨_, _, _, e⟩, -⟩ := d1; rw [e]; exact c.outbox
  have dd : dropping (settleDrive (collect s)) = dropping s :=
    (settleDrive_dropping _).trans (dropping_congr (collect_quiet calm_drop s))
  rw [show settleRound s = intake (settleDrive (collect s)) from rfl]
  have after {m : Msg} (h : Among m (collect s)) : Among m (intake (settleDrive (collect s))) := (h.drive d1).congr i1 i0
  refine ⟨fun m hb h => after (c.keeps m (by rw [hn]; exact hb) (h.congr rfl hn)), fun m hm hb => after (c.takes m hm (by rw [hn]; exact hb)),
    ?_, i2, ?_⟩
  · rw [i0, d1.2]
    have := c.count
    rwa [hn] at this
  · rw [o, dd] at i4
    exact i4

/-- Once nothing is on its way the collector takes nothing. -/
theorem collect_keeps {m : Msg} (s : State) (ho : s.flt.outbox = []) (hn : (heardNow s).length ≤ 32) (h : Among m s) :
    Among m (collect s) := by
  have c := collect_hears s (by rw [ho]; decide)
  have e : heardNow { s with flt := { s.flt with outbox := [] } } = heardNow s := heardNow_congr rfl rfl
  exact c.keeps m (by rw [e, ho]; simpa using hn) (h.congr rfl e)

/-- A message that a command sends stands in the history at its end (R361), where no message was received in its cycle before. -/
theorem settle_heard (s : State) (hl : s.flt.outbox.length ≤ 4) (hc : heardNow s = []) {m : Msg} (hm : m ∈ s.flt.outbox) :
    ∃ e ∈ (settle s).flt.hist, Entered m e := by
  have key (s : State) (hl : s.flt.outbox.length ≤ 4) (hc : heardNow s = []) (hm : m ∈ s.flt.outbox) :
      Among m (settleRounds 6 s) ∧ (settleRounds 6 s).flt.outbox = [] ∧ (heardNow (settleRounds 6 s)).length ≤ 32 := by
    obtain ⟨-, r2, r3, r4, r5⟩ := round_hears s hl
    rw [hc] at r2 r3
    have a := r2 m hm (by simp; omega)
    simp only [List.length_nil, Nat.zero_add] at r3
    unfold settleRounds
    simp only [r4, List.isEmpty_nil, Bool.and_true]
    split
    · rename_i h
      exact ⟨a, List.isEmpty_iff.1 h, by omega⟩
    · rename_i h
      have r5' := r5.resolve_left (fun e => h (by rw [e]; rfl))
      obtain ⟨q1, -, q3, q4, q5⟩ := round_hears (settleRound s) (by omega)
      have o4 := q5.resolve_right (fun e => absurd r5'.1 (by rw [e.2.1]; decide))
      unfold settleRounds
      simp only [q4, o4, List.isEmpty_nil, Bool.and_self, if_true]
      exact ⟨q1 m (by omega) a, trivial, by omega⟩
  obtain ⟨k1, k2, k3⟩ := retryRuns_hist s
  obtain ⟨a, o, n⟩ := key (retryRuns s) (by rw [k2]; exact hl) (by rw [k3]; exact hc) (by rw [k2]; exact hm)
  obtain ⟨i, -, e, he, hpe⟩ := collect_keeps _ o n a
  refine ⟨e, ?_, hpe⟩
  have : (settle s).flt.hist = (collect (settleRounds 6 (retryRuns s))).flt.hist := by
    unfold settle
    obtain ⟨d, hd⟩ := settleOutputs_withDrv
      (reach [.regs, .flt, .recd, .drv] (fun a => settleLegs (collect (settleRounds 6 (retryRuns a)))) s)
    rw [hd]
    change (settleLegs (collect (settleRounds 6 (retryRuns s)))).flt.hist = _
    obtain ⟨⟨_, _, _, e⟩, -⟩ := settleLegs_driveOnly (collect (settleRounds 6 (retryRuns s)))
    rw [e]
  rw [this]
  exact List.mem_of_getElem? he

end Sys2Proof.Machine
end

