-- ==== Sys2Proof/Laws/Episode.lean ====
section
/-!
SUPPORT. What the collector and the end of an episode leave: everything but registers, the collector and the recorder, and every
register but the common ones that they write.
-/
namespace Sys2Proof.Machine

/-- A change of registers, of the collector, of the recorder and of the notes of the cycle, in which no calm register changes. -/
def CollectOnly (s t : State) : Prop := (∃ r f d c, t = { s with regs := r, flt := f, recd := d, cyc := c }) ∧ ∀ a, calm a → rdReg t a = rdReg s a

theorem CollectOnly.refl (s : State) : CollectOnly s s := ⟨⟨s.regs, s.flt, s.recd, s.cyc, rfl⟩, fun _ _ => rfl⟩
theorem CollectOnly.trans {s t u : State} (h : CollectOnly s t) (g : CollectOnly t u) : CollectOnly s u := by
  obtain ⟨⟨_, _, _, _, rfl⟩, h2⟩ := h
  obtain ⟨⟨_, _, _, _, rfl⟩, g2⟩ := g
  exact ⟨⟨_, _, _, _, rfl⟩, fun a c => (g2 a c).trans (h2 a c)⟩
theorem CollectOnly.fold {β : Type} (f : State → β → State) (hf : ∀ s b, CollectOnly s (f s b)) (l : List β) (s : State) : CollectOnly s (l.foldl f s) := by
  induction l generalizing s with
  | nil => exact .refl s
  | cons b l ih => exact (hf s b).trans (ih _)
theorem CollectOnly.ite (c : Prop) [Decidable c] {s t : State} (h : CollectOnly s t) : CollectOnly s (if c then t else s) := by
  split
  · exact h
  · exact .refl s

theorem flt_only (s : State) (f : FltState) : CollectOnly s { s with flt := f } := ⟨⟨_, _, _, _, rfl⟩, fun _ _ => rfl⟩
theorem recPush_only (k v j : Nat) (b : List (Nat × Word)) (c y : Nat) (s : State) : CollectOnly s (recPush k v j b c y s) :=
  ⟨⟨_, _, _, _, rfl⟩, fun _ _ => rfl⟩
theorem raise_only (p i k a : Nat) (s : State) : CollectOnly s (raise p i k a s) := flt_only ..
theorem setIrq_only (p n : Nat) (s : State) : CollectOnly s (setIrq p n s) := ⟨⟨_, _, _, _, rfl⟩, fun _ c => setIrq_quiet c p n s⟩
theorem putScope_only (k : Nat) (c : Scope) (s : State) : CollectOnly s (putScope k c s) := flt_only ..
theorem putRun_only (p : Nat) (b : Bool) (s : State) : CollectOnly s (putRun p b s) := by
  refine ⟨?_, fun _ c => putRun_quiet c p b s⟩
  unfold putRun bumpWriteGen
  split <;> exact ⟨_, _, _, _, rfl⟩
theorem reactionRun_only (e : Nat) (b : Bool) (s : State) : CollectOnly s (reactionRun e b s) := by
  refine ⟨?_, fun _ c => reactionRun_quiet c e b s⟩
  unfold reactionRun
  split
  · exact ⟨_, _, _, _, rfl⟩
  · split
    · exact ⟨s.regs, s.flt, s.recd, s.cyc, rfl⟩
    · obtain ⟨⟨_, _, _, _, h⟩, -⟩ := putRun_only (0x20 + e) b s
      rw [h]
      exact ⟨_, _, _, _, rfl⟩
theorem startQuiet_only (k t : Nat) (s : State) : CollectOnly s (startQuiet k t s) := by
  unfold startQuiet
  simp only
  split
  · exact putScope_only ..
  · exact .refl s
theorem scopeRecord_only (k o : Nat) (s : State) : CollectOnly s (scopeRecord k o s) := recPush_only ..
theorem latchScope_only (k : Nat) (s : State) : CollectOnly s (latchScope k s) := by
  unfold latchScope
  simp only
  split
  · exact .refl s
  · split <;> exact ((putScope_only ..).trans (scopeRecord_only ..)).trans (setIrq_only ..)
theorem stopEngine_only (k e : Nat) (s : State) : CollectOnly s (stopEngine k e s) := by
  unfold stopEngine
  split
  · exact .trans (putScope_only ..) (reactionRun_only ..)
  · exact .refl s
theorem reactScope_only (k sev q t : Nat) (m : Msg) (latch : Bool) (s : State) : CollectOnly s (reactScope k sev q t m latch s) := by
  unfold reactScope
  extract_lets c begins c' s1 s2 s3 s4 s5
  have e1 : CollectOnly s s1 := putScope_only ..
  have e2 : CollectOnly s1 s2 := .ite _ (setIrq_only ..)
  have e3 : CollectOnly s2 s3 := .fold _ (fun s e => stopEngine_only k e s) _ _
  have e4 : CollectOnly s3 s4 := startQuiet_only ..
  have e5 : CollectOnly s4 s5 := .ite _ (by
    unfold forN
    exact .fold _ (fun s g => startQuiet_only g t s) _ _)
  exact (e1.trans (e2.trans (e3.trans (e4.trans e5)))).trans (.ite _ (latchScope_only ..))

theorem receive_only (grp : Bool) (m : Msg) (s : State) : CollectOnly s (receive grp m s) := by
  refine ⟨?_, fun a c => receive_quiet c grp m s⟩
  unfold receive
  extract_lets e sev k latch latches flags q h page high epis fs s1 s2 s3 s4 s5 s6
  have h3 : ∃ r f d c, s3 = { s with regs := r, flt := f, recd := d, cyc := c } := ⟨_, _, _, _, rfl⟩
  have tr {a b : State} (x : ∃ r f d c, a = { s with regs := r, flt := f, recd := d, cyc := c }) (y : CollectOnly a b) :
      ∃ r f d c, b = { s with regs := r, flt := f, recd := d, cyc := c } := by
    obtain ⟨_, _, _, _, rfl⟩ := x
    obtain ⟨⟨_, _, _, _, rfl⟩, -⟩ := y
    exact ⟨_, _, _, _, rfl⟩
  have h4 : ∃ r f d c, s4 = { s with regs := r, flt := f, recd := d, cyc := c } := tr h3 (.ite _ (setIrq_only ..))
  have h5 : ∃ r f d c, s5 = { s with regs := r, flt := f, recd := d, cyc := c } := tr h4 (.ite _ (reactScope_only ..))
  have h6 : ∃ r f d c, s6 = { s with regs := r, flt := f, recd := d, cyc := c } := tr h5 (recPush_only ..)
  clear_value s6
  obtain ⟨r, f, d, c, rfl⟩ := h6
  split
  · split <;> exact ⟨_, _, _, _, rfl⟩
  · exact ⟨_, _, _, _, rfl⟩

theorem collect_only (s : State) : CollectOnly s (collect s) := by
  have group (s : State) : CollectOnly s (regroup s) := by
    unfold regroup
    simp only
    split
    · exact .refl s
    · exact ⟨⟨_, _, _, _, rfl⟩, fun _ _ => rfl⟩
  unfold collect receiveGroup
  exact ((flt_only s _).trans (.fold _ (fun s t => .fold _ (fun s m => receive_only _ m s) _ s) _ _)).trans (group _)

theorem endEp_only (page kind addr : Nat) (s : State) : CollectOnly s (endEp page kind addr s) := by
  unfold endEp
  extract_lets s1 gone fs s2 s3
  have e1 : CollectOnly s s1 := .ite _ (collect_only s)
  have e2 : CollectOnly s1 s2 := flt_only ..
  have e3 : CollectOnly s2 s3 := .fold _ (fun s e => recPush_only ..) _ _
  exact ((e1.trans e2).trans e3).trans (.fold _ (fun s e => .ite _ (startQuiet_only ..)) _ _)

end Sys2Proof.Machine
end

