-- ==== Sys2Proof/Laws/Engine.lean ====
section
/-!
SUPPORT. What an instruction of a control engine does (R254 to R274): its result, its context, and what it leaves.
-/
namespace Sys2Proof.Machine

/-! ### Contexts -/

@[simp] theorem engSt_putEng (s : State) (e : Nat) (v : EngState) : engSt (putEng e v s) e = v := by simp [engSt, putEng]
theorem engSt_putEng_ne (s : State) (v : EngState) {e k : Nat} (h : e ≠ k) : engSt (putEng e v s) k = engSt s k := by
  simp [engSt, putEng, tabGet_set_ne _ _ _ h]

theorem engSt_of_eng {s t : State} (h : t.eng = s.eng) (e : Nat) : engSt t e = engSt s e := by unfold engSt; rw [h]

@[simp] theorem engCtx_putCtx (s : State) (e : Nat) (l : Lane) (v : EngCtx) : engCtx (putCtx e l v s) e l = v := by
  cases l <;> simp [putCtx, engCtx, ctxOf]
theorem engCtx_putCtx_lane (s : State) (e : Nat) (v : EngCtx) {l k : Lane} (h : l ≠ k) :
    engCtx (putCtx e l v s) e k = engCtx s e k := by
  cases l <;> cases k <;> simp_all [putCtx, engCtx, ctxOf]
theorem engSt_putCtx_ne (s : State) (l : Lane) (v : EngCtx) {e k : Nat} (h : e ≠ k) :
    engSt (putCtx e l v s) k = engSt s k := by
  cases l <;> simp [putCtx, engSt_putEng_ne _ _ h]

theorem putCtx_parts (e : Nat) (l : Lane) (v : EngCtx) (s : State) : ∃ x, putCtx e l v s = { s with eng := x } := by
  cases l <;> exact ⟨_, rfl⟩

/-! ### What a trap and a fetch leave -/

/-- What a fetch, with the trap that it may cause, leaves of an engine's state: everything but whether the context runs, the results in
flight, the probation and the page's own registers. -/
structure Fetched (e : Nat) (l : Lane) (s t : State) : Prop where
  pc : (engCtx t e l).pc = (engCtx s e l).pc
  used : (engCtx t e l).used = (engCtx s e l).used
  gregs : (engCtx t e l).regs = (engCtx s e l).regs
  fstat : (engCtx t e l).fstat = (engCtx s e l).fstat
  pcond : (engCtx t e l).pcond = (engCtx s e l).pcond
  sage : (engCtx t e l).sage = (engCtx s e l).sage
  sstat : (engCtx t e l).sstat = (engCtx s e l).sstat
  lane : ∀ k, k ≠ l → engCtx t e k = engCtx s e k
  engines : ∀ k, k ≠ e → engSt t k = engSt s k
  regs : ∀ a, quiet a = true → a / 0x400 ≠ 0x20 + e → rdReg t a = rdReg s a
  rest : ∀ p, p ∉ [Part.regs, .time, .flt, .recd, .eng, .drv] → agree p s t
  ticks : t.time.tick = s.time.tick ∧ t.time.ticks = s.time.ticks
  posts : (engSt t e).posts = (engSt s e).posts
  outs : (engSt t e).outs = (engSt s e).outs
  staging : (engSt t e).staging = (engSt s e).staging

theorem Fetched.refl (e : Nat) (l : Lane) (s : State) : Fetched e l s s :=
  ⟨rfl, rfl, rfl, rfl, rfl, rfl, rfl, fun _ _ => rfl, fun _ _ => rfl, fun _ _ _ => rfl, fun p _ => agree_refl p s, ⟨rfl, rfl⟩,
    rfl, rfl, rfl⟩

theorem Fetched.trans {e : Nat} {l : Lane} {s t u : State} (h : Fetched e l s t) (g : Fetched e l t u) : Fetched e l s u :=
  ⟨g.pc.trans h.pc, g.used.trans h.used, g.gregs.trans h.gregs, g.fstat.trans h.fstat, g.pcond.trans h.pcond, g.sage.trans h.sage,
    g.sstat.trans h.sstat, fun k hk => (g.lane k hk).trans (h.lane k hk), fun k hk => (g.engines k hk).trans (h.engines k hk),
    fun a q hp => (g.regs a q hp).trans (h.regs a q hp), fun p hp => agree_trans (h.rest p hp) (g.rest p hp),
    ⟨g.ticks.1.trans h.ticks.1, g.ticks.2.trans h.ticks.2⟩, g.posts.trans h.posts, g.outs.trans h.outs, g.staging.trans h.staging⟩

/-- A write to a register of the engine's own page. -/
theorem Fetched.setF (e : Nat) (l : Lane) (f : Fld) (hf : f.off < 0x400) (v : Nat) (s : State) :
    Fetched e l s (setF f (engPg e) 0 v s) :=
  ⟨rfl, rfl, rfl, rfl, rfl, rfl, rfl, fun _ _ => rfl, fun _ _ => rfl,
    fun a _ hp => rdReg_setF_ne _ _ _ _ _ (by simp only [fldAddr, pageAddr, engPg, Nat.mul_zero, Nat.add_zero]; omega),
    fun p hp => by cases p <;> first | exact rfl | exact ⟨rfl, rfl, rfl⟩ | exact absurd (by simp) hp, ⟨rfl, rfl⟩, rfl, rfl, rfl⟩

theorem Fetched.setIrq (e : Nat) (l : Lane) (n : Nat) (s : State) : Fetched e l s (setIrq (engPg e) n s) :=
  ⟨rfl, rfl, rfl, rfl, rfl, rfl, rfl, fun _ _ => rfl, fun _ _ => rfl,
    fun a q _ => setIrq_quiet (quiet_calm q) _ _ _,
    fun p hp => by cases p <;> first | exact rfl | exact ⟨rfl, rfl, rfl⟩ | exact absurd (by simp) hp, ⟨rfl, rfl⟩, rfl, rfl, rfl⟩

theorem Fetched.raise (e : Nat) (l : Lane) (p i k a : Nat) (s : State) : Fetched e l s (raise p i k a s) :=
  ⟨rfl, rfl, rfl, rfl, rfl, rfl, rfl, fun _ _ => rfl, fun _ _ => rfl, fun _ _ _ => rfl,
    fun p hp => by cases p <;> first | exact rfl | exact ⟨rfl, rfl, rfl⟩ | exact absurd (by simp) hp, ⟨rfl, rfl⟩, rfl, rfl, rfl⟩

theorem atPhase_agree (n c : Nat) (s : State) {p : Part} (h : p ≠ .time) : agree p s (atPhase n c s) := by
  unfold atPhase
  split
  · cases p <;> first | exact rfl | exact ⟨rfl, rfl, rfl⟩ | exact absurd rfl h
  · exact agree_refl p s

theorem Fetched.atPhase (e : Nat) (l : Lane) (n c : Nat) (s : State) : Fetched e l s (atPhase n c s) := by
  refine ⟨?_, ?_, ?_, ?_, ?_, ?_, ?_, ?_, ?_, ?_, fun p hp => atPhase_agree n c s fun h => hp (by simp [h]), ?_, ?_, ?_, ?_⟩ <;>
    simp [engCtx, engSt]

theorem Fetched.atLane (e : Nat) (l k : Lane) (n : Nat) (s : State) : Fetched e l s (atLane k n s) := by
  unfold Sys2Proof.Machine.atLane
  cases k
  · exact .atPhase ..
  · simp only
    split <;> exact .atPhase ..

theorem atLane_parts (l : Lane) (n : Nat) (s : State) : ∃ x, Machine.atLane l n s = { s with time := x } ∧ x.tick = s.time.tick := by
  have a (p c : Nat) : ∃ x, atPhase p c s = { s with time := x } ∧ x.tick = s.time.tick := by
    unfold Machine.atPhase
    split
    · exact ⟨_, rfl, rfl⟩
    · exact ⟨s.time, rfl, rfl⟩
  unfold Machine.atLane
  cases l
  · exact a ..
  · simp only
    split <;> exact a ..

/-- A change of the engine's state that keeps both contexts' values and the write queue. -/
theorem Fetched.putEng (e : Nat) (l : Lane) (v : EngState) (s : State)
    (h : ({ ctxOf v l with act := false, pass := false, flight := [] } : EngCtx)
      = { ctxOf (engSt s e) l with act := false, pass := false, flight := [] })
    (hl : ∀ k, k ≠ l → ctxOf v k = ctxOf (engSt s e) k) (hq : v.posts = (engSt s e).posts ∧ v.outs = (engSt s e).outs
      ∧ v.staging = (engSt s e).staging) :
    Fetched e l s (putEng e v s) := by
  simp only [EngCtx.mk.injEq] at h
  have c : ∀ k, engCtx (Machine.putEng e v s) e k = ctxOf v k := fun k => by simp [engCtx]
  refine ⟨?_, ?_, ?_, ?_, ?_, ?_, ?_, fun k hk => (c k).trans (hl k hk), fun k hk => engSt_putEng_ne s v (Ne.symm hk),
    fun _ _ _ => rfl, fun p hp => by cases p <;> first | exact rfl | exact ⟨rfl, rfl, rfl⟩ | exact absurd (by simp) hp, ⟨rfl, rfl⟩, ?_, ?_, ?_⟩
  all_goals first
    | (rw [c]; simp only [engCtx]; tauto)
    | (rw [engSt_putEng]; tauto)

theorem Fetched.probFail (e : Nat) (l : Lane) (cause : Nat) (s : State) : Fetched e l s (probFail e cause s) := by
  unfold Machine.probFail
  simp only
  split
  · exact .refl e l s
  · refine .trans ?_ (.raise ..)
    refine .trans ?_ (.setIrq ..)
    unfold Machine.setB
    refine .trans ?_ (.setF e l _ (by decide) _ _)
    refine .trans ?_ (.setF e l _ (by decide) _ _)
    exact .putEng e l _ s rfl (fun k _ => by cases k <;> rfl) ⟨rfl, rfl, rfl⟩

theorem Fetched.restCtx (e : Nat) (l : Lane) (s : State) : Fetched e l s (restCtx e l s) := by
  have ctx : Fetched e l s (putCtx e l { engCtx s e l with act := false, pass := false, flight := [] } s) := by
    cases l
    · exact .putEng e _ _ s rfl (fun k hk => by cases k <;> first | rfl | exact absurd rfl hk) ⟨rfl, rfl, rfl⟩
    · exact .putEng e _ _ s rfl (fun k hk => by cases k <;> first | rfl | exact absurd rfl hk) ⟨rfl, rfl, rfl⟩
  unfold Machine.restCtx
  cases l
  · exact ctx.trans (.setF e _ _ (by decide) _ _)
  · exact ctx.trans (.setF e _ _ (by decide) _ _)

theorem Fetched.engTrap (e : Nat) (l : Lane) (cause pc : Nat) (s : State) : Fetched e l s (engTrap e l cause pc s) := by
  unfold Machine.engTrap noteTrap incSat
  refine .trans ?_ (.probFail ..)
  refine .trans ?_ (.raise ..)
  refine .trans ?_ (.setIrq ..)
  refine .trans ?_ (.setF e l _ (by decide) _ _)
  refine .trans ?_ (.setF e l _ (by decide) _ _)
  refine .trans ?_ (.setF e l _ (by decide) _ _)
  refine .trans ?_ (.setF e l _ (by decide) _ _)
  exact .restCtx ..

theorem fetchCheck_fetched (e : Nat) (l : Lane) (s : State) : Fetched e l s (fetchCheck e l s) := by
  unfold fetchCheck
  simp only
  split
  · exact .refl e l s
  · split
    · exact (Fetched.atLane e l l _ s).trans (Fetched.engTrap e l 4 _ _)
    · split
      · exact .refl e l s
      · exact (Fetched.atLane e l l _ s).trans (Fetched.engTrap e l 1 _ _)

/-! ### One instruction -/

/-- The context after an instruction: it keeps what the instruction left, with pc and cycles moved on. -/
theorem engAfter_fetched (e : Nat) (l : Lane) (m : EngForm) (pc start used : Nat) (s : State) :
    ∃ fl, Fetched e l (putCtx e l { engCtx s e l with pc := pc, used := used, flight := fl } s) (engAfter e l m pc start used s) := by
  unfold engAfter
  simp only
  exact ⟨_, fetchCheck_fetched e l _⟩

/-- An instruction that the context executes (R254 to R260). -/
theorem engRun_of {c : EngAt} {m : EngForm} {s : State} (h : Executes c m s) (f : Nat → State → EngOut) :
    engRun c m f s =
      (let e := c.eng.val
       let l := c.lane
       let x := engCtx s e l
       let start := startCycle x m
       let used := start + m.cost + eccCycles c.ecc
       match f start (atLane l start s) with
       | .go s => engAfter e l m (pcMod (x.pc + 1)) start used s
       | .jump pc s => engAfter e l m pc start used s
       | .stop s => laneEnd e l used s
       | .trap cause => engTrap e l cause x.pc (atLane l start s)) := by
  have e1 : c.ecc ≠ .program := h.sound.1
  have e2 : eccTrap c m = none := h.sound.2
  have e3 : ¬ laneLen s c.lane < startCycle (engCtx s c.eng.val c.lane) m + m.fit + eccCycles c.ecc := not_lt.2 h.fits
  unfold engRun
  simp only [h.active, h.inLane, e1, e2, e3, h.here, Bool.not_true, Bool.or_self, Bool.false_eq_true, if_false] <;> rfl

theorem getG_congr {s t : State} {e : Nat} {l : Lane} (h : (engCtx t e l).regs = (engCtx s e l).regs) (r : Nat) :
    getG t e l r = getG s e l r := by simp [getG, h]

/-- An operation that changes the values of one context and nothing else of what an instruction leaves. -/
structure Local (e : Nat) (l : Lane) (ps : List Part) (s t : State) : Prop where
  pc : (engCtx t e l).pc = (engCtx s e l).pc
  lane : ∀ k, k ≠ l → engCtx t e k = engCtx s e k
  engines : ∀ k, k ≠ e → engSt t k = engSt s k
  regs : ∀ a, quiet a = true → a / 0x400 ≠ 0x20 + e → rdReg t a = rdReg s a
  rest : ∀ p, p ∉ [Part.regs, .time, .flt, .recd, .eng, .drv] ++ ps → agree p s t
  ticks : t.time.tick = s.time.tick ∧ t.time.ticks = s.time.ticks

theorem Local.refl (e : Nat) (l : Lane) (ps : List Part) (s : State) : Local e l ps s s :=
  ⟨rfl, fun _ _ => rfl, fun _ _ => rfl, fun _ _ _ => rfl, fun p _ => agree_refl p s, ⟨rfl, rfl⟩⟩

theorem Local.trans {e : Nat} {l : Lane} {ps : List Part} {s t u : State} (h : Local e l ps s t) (g : Local e l ps t u) : Local e l ps s u :=
  ⟨g.pc.trans h.pc, fun k hk => (g.lane k hk).trans (h.lane k hk), fun k hk => (g.engines k hk).trans (h.engines k hk),
    fun a q hp => (g.regs a q hp).trans (h.regs a q hp), fun p hp => agree_trans (h.rest p hp) (g.rest p hp),
    ⟨g.ticks.1.trans h.ticks.1, g.ticks.2.trans h.ticks.2⟩⟩

theorem Fetched.loc {e : Nat} {l : Lane} {ps : List Part} {s t : State} (h : Fetched e l s t) : Local e l ps s t :=
  ⟨h.pc, h.lane, h.engines, h.regs, fun p hp => h.rest p fun h => hp (List.mem_append_left _ h), h.ticks⟩

/-- A change of the engine's state that keeps the other context and the pc. -/
theorem Local.putEng (e : Nat) (l : Lane) (ps : List Part) (v : EngState) (s : State) (hp : (ctxOf v l).pc = (engCtx s e l).pc)
    (hl : ∀ k, k ≠ l → ctxOf v k = engCtx s e k) : Local e l ps s (putEng e v s) :=
  ⟨by simpa [engCtx] using hp, fun k hk => by simpa [engCtx] using hl k hk, fun k hk => engSt_putEng_ne s v (Ne.symm hk), fun _ _ _ => rfl,
    fun p hp => by cases p <;> first | exact rfl | exact ⟨rfl, rfl, rfl⟩ | exact absurd (by simp) hp, ⟨rfl, rfl⟩⟩

theorem Local.putCtx (e : Nat) (l : Lane) (ps : List Part) (v : EngCtx) (s : State) (hp : v.pc = (engCtx s e l).pc) :
    Local e l ps s (putCtx e l v s) := by
  cases l
  · exact .putEng e _ _ _ s hp fun k hk => by cases k <;> first | rfl | exact absurd rfl hk
  · exact .putEng e _ _ _ s hp fun k hk => by cases k <;> first | rfl | exact absurd rfl hk

theorem Local.gPut (c : EngAt) (ps : List Part) (d : Fin 32) (v : Word) (s : State) : Local c.eng.val c.lane ps s (gPut c d v s) := by
  unfold Machine.gPut setG
  split
  · exact .refl ..
  · exact .putCtx _ _ _ _ _ rfl

theorem Local.raiseFlags (c : EngAt) (ps : List Part) (fl : Nat) (s : State) : Local c.eng.val c.lane ps s (raiseFlags c fl s) := .putCtx _ _ _ _ _ rfl

theorem Local.putPcond (c : EngAt) (ps : List Part) (r : Nat) (b : Bool) (s : State) : Local c.eng.val c.lane ps s (putPcond c r b s) := .putCtx _ _ _ _ _ rfl

theorem Local.report (c : EngAt) (ps : List Part) (p : Party) (a : Nat) (r : Res) (s : State) : Local c.eng.val c.lane ps s (report p a r s) :=
  ⟨rfl, fun _ _ => rfl, fun _ _ => rfl, fun _ _ _ => rfl,
    fun p hp => by cases p <;> first | exact rfl | exact ⟨rfl, rfl, rfl⟩, ⟨rfl, rfl⟩⟩

/-! ### Values of a context -/

theorem gPut_writes (c : EngAt) (d : Fin 32) (v : Word) (s : State) : Writes c d v s (gPut c d v s) := by
  intro r
  unfold gPut setG
  by_cases hd : d.val = 0
  · simp [hd]
  · simp only [hd, if_false, ne_eq, not_false_eq_true, and_true]
    unfold getG
    by_cases hr : r = 0
    · subst hr; simp [Ne.symm hd]
    · simp only [hr, if_false, engCtx_putCtx, tabGet_set]
      by_cases h : d.val = r
      · simp [h]
      · simp [h, Ne.symm h]

theorem gPut_ctx (c : EngAt) (d : Fin 32) (v : Word) (s : State) :
    { engCtx (gPut c d v s) c.eng.val c.lane with regs := [] } = { engCtx s c.eng.val c.lane with regs := [] } := by
  unfold gPut setG
  split
  · rfl
  · simp

/-- What an instruction after which the context goes on at `pc` leaves. -/
theorem engRun_on {c : EngAt} {m : EngForm} {s u : State} {pc : Nat} {ps : List Part} (h : Executes c m s) {f : Nat → State → EngOut}
    (hf : f (startCycle (engCtx s c.eng.val c.lane) m) (atLane c.lane (startCycle (engCtx s c.eng.val c.lane) m) s)
        = (if pc = pcMod ((engCtx s c.eng.val c.lane).pc + 1) then .go u else .jump pc u)
      ∨ f (startCycle (engCtx s c.eng.val c.lane) m) (atLane c.lane (startCycle (engCtx s c.eng.val c.lane) m) s) = .jump pc u)
    (hu : Local c.eng.val c.lane ps (atLane c.lane (startCycle (engCtx s c.eng.val c.lane) m) s) u) :
    Stepped c m pc ps s (engRun c m f s)
      ∧ (engCtx (engRun c m f s) c.eng.val c.lane).regs = (engCtx u c.eng.val c.lane).regs
      ∧ (engCtx (engRun c m f s) c.eng.val c.lane).fstat = (engCtx u c.eng.val c.lane).fstat
      ∧ (engCtx (engRun c m f s) c.eng.val c.lane).pcond = (engCtx u c.eng.val c.lane).pcond
      ∧ (engCtx (engRun c m f s) c.eng.val c.lane).sage = (engCtx u c.eng.val c.lane).sage
      ∧ (engCtx (engRun c m f s) c.eng.val c.lane).sstat = (engCtx u c.eng.val c.lane).sstat
      ∧ (engSt (engRun c m f s) c.eng.val).posts = (engSt u c.eng.val).posts
      ∧ (engSt (engRun c m f s) c.eng.val).outs = (engSt u c.eng.val).outs
      ∧ (engSt (engRun c m f s) c.eng.val).staging = (engSt u c.eng.val).staging := by
  have e : engRun c m f s = engAfter c.eng.val c.lane m pc (startCycle (engCtx s c.eng.val c.lane) m)
      (startCycle (engCtx s c.eng.val c.lane) m + m.cost + eccCycles c.ecc) u := by
    rw [engRun_of h]
    rcases hf with hf | hf
    · split at hf
      · rename_i hp; simp only [hf, hp]
      · simp only [hf]
    · simp only [hf]
  rw [e]
  obtain ⟨fl, g⟩ := engAfter_fetched c.eng.val c.lane m pc
    (startCycle (engCtx s c.eng.val c.lane) m) (startCycle (engCtx s c.eng.val c.lane) m + m.cost + eccCycles c.ecc) u
  have a := (Fetched.atLane c.eng.val c.lane c.lane (startCycle (engCtx s c.eng.val c.lane) m) s).loc.trans hu
  have q (x : EngCtx) : (engSt (putCtx c.eng.val c.lane x u) c.eng.val).posts = (engSt u c.eng.val).posts
      ∧ (engSt (putCtx c.eng.val c.lane x u) c.eng.val).outs = (engSt u c.eng.val).outs
      ∧ (engSt (putCtx c.eng.val c.lane x u) c.eng.val).staging = (engSt u c.eng.val).staging := by
    cases c.lane <;> simp [putCtx]
  have r (x : EngCtx) (b : Nat) : rdReg (putCtx c.eng.val c.lane x u) b = rdReg u b := by
    obtain ⟨y, hy⟩ := putCtx_parts c.eng.val c.lane x u
    rw [hy]; rfl
  refine ⟨⟨by simpa using g.pc, by simpa using g.used, fun k hk => ?_, fun k hk => ?_, fun b hb hp => ?_, fun p hp => ?_, ?_⟩, by simpa using g.gregs,
    by simpa using g.fstat, by simpa using g.pcond, by simpa using g.sage, by simpa using g.sstat, ?_, ?_, ?_⟩
  · rw [g.lane k hk, engCtx_putCtx_lane _ _ _ (Ne.symm hk), a.lane k hk]
  · rw [g.engines k hk, engSt_putCtx_ne _ _ _ (Ne.symm hk), a.engines k hk]
  · rw [g.regs b hb hp, r, a.regs b hb hp]
  · refine agree_trans (a.rest p hp) (agree_trans ?_ (g.rest p fun h => hp (List.mem_append_left _ h)))
    obtain ⟨y, hy⟩ := putCtx_parts c.eng.val c.lane _ u
    rw [hy]
    cases p <;> first | exact rfl | exact ⟨rfl, rfl, rfl⟩ | exact absurd (by simp) hp
  · obtain ⟨y, hy⟩ := putCtx_parts c.eng.val c.lane { engCtx u c.eng.val c.lane with
      pc := pc, used := startCycle (engCtx s c.eng.val c.lane) m + m.cost + eccCycles c.ecc, flight := fl } u
    have gt := g.ticks
    rw [hy] at gt
    exact ⟨gt.1.trans a.ticks.1, gt.2.trans a.ticks.2⟩
  · rw [g.posts, (q _).1]
  · rw [g.outs, (q _).2.1]
  · rw [g.staging, (q _).2.2]


/-- What a next context value is. -/
structure Left (c : EngAt) (u t : State) : Prop where
  regs : (engCtx t c.eng.val c.lane).regs = (engCtx u c.eng.val c.lane).regs
  fstat : (engCtx t c.eng.val c.lane).fstat = (engCtx u c.eng.val c.lane).fstat
  pcond : (engCtx t c.eng.val c.lane).pcond = (engCtx u c.eng.val c.lane).pcond
  sage : (engCtx t c.eng.val c.lane).sage = (engCtx u c.eng.val c.lane).sage
  sstat : (engCtx t c.eng.val c.lane).sstat = (engCtx u c.eng.val c.lane).sstat
  posts : (engSt t c.eng.val).posts = (engSt u c.eng.val).posts
  outs : (engSt t c.eng.val).outs = (engSt u c.eng.val).outs
  staging : (engSt t c.eng.val).staging = (engSt u c.eng.val).staging

/-- What an instruction that the next one follows leaves. -/
theorem engRun_go {c : EngAt} {m : EngForm} {s u : State} {ps : List Part} (h : Executes c m s) {f : Nat → State → EngOut}
    (hf : f (startCycle (engCtx s c.eng.val c.lane) m) (atLane c.lane (startCycle (engCtx s c.eng.val c.lane) m) s) = .go u)
    (hu : Local c.eng.val c.lane ps (atLane c.lane (startCycle (engCtx s c.eng.val c.lane) m) s) u) :
    Stepped c m (pcMod ((engCtx s c.eng.val c.lane).pc + 1)) ps s (engRun c m f s) ∧ Left c u (engRun c m f s) := by
  obtain ⟨h1, h2, h3, h4, h5, h6, h7, h8, h9⟩ := engRun_on (pc := pcMod ((engCtx s c.eng.val c.lane).pc + 1)) h (.inl (by rw [if_pos rfl]; exact hf)) hu
  exact ⟨h1, h2, h3, h4, h5, h6, h7, h8, h9⟩

/-- What an instruction that jumps leaves. -/
theorem engRun_jump {c : EngAt} {m : EngForm} {s u : State} {pc : Nat} {ps : List Part} (h : Executes c m s) {f : Nat → State → EngOut}
    (hf : f (startCycle (engCtx s c.eng.val c.lane) m) (atLane c.lane (startCycle (engCtx s c.eng.val c.lane) m) s) = .jump pc u)
    (hu : Local c.eng.val c.lane ps (atLane c.lane (startCycle (engCtx s c.eng.val c.lane) m) s) u) :
    Stepped c m pc ps s (engRun c m f s) ∧ Left c u (engRun c m f s) := by
  obtain ⟨h1, h2, h3, h4, h5, h6, h7, h8, h9⟩ := engRun_on (pc := pc) h (.inr hf) hu
  exact ⟨h1, h2, h3, h4, h5, h6, h7, h8, h9⟩

/-- The context when an instruction starts is the one that stood before. -/
theorem Left.trans {c : EngAt} {u v t : State} (h : Left c v t) (g : Left c u v) : Left c u t :=
  ⟨h.regs.trans g.regs, h.fstat.trans g.fstat, h.pcond.trans g.pcond, h.sage.trans g.sage, h.sstat.trans g.sstat, h.posts.trans g.posts,
    h.outs.trans g.outs, h.staging.trans g.staging⟩

theorem atLane_left (c : EngAt) (n : Nat) (s : State) : Left c s (atLane c.lane n s) :=
  have f := Fetched.atLane c.eng.val c.lane c.lane n s
  ⟨f.gregs, f.fstat, f.pcond, f.sage, f.sstat, f.posts, f.outs, f.staging⟩

theorem Left.g {c : EngAt} {u t : State} (h : Left c u t) (r : Nat) : getG t c.eng.val c.lane r = getG u c.eng.val c.lane r :=
  getG_congr h.regs r

/-- A register as the instruction reads it. -/
theorem gOf_atLane (c : EngAt) (r : Fin 32) (n : Nat) (s : State) : gOf c r (atLane c.lane n s) = gOf c r s :=
  (atLane_left c n s).g r.val

/-- A value written when the instruction starts, carried to its end. -/
theorem writes_of {c : EngAt} {d : Fin 32} {v : Word} {n : Nat} {s t : State} (h : Left c (gPut c d v (atLane c.lane n s)) t) :
    Writes c d v s t := by
  intro r
  rw [h.g r, gPut_writes c d v (atLane c.lane n s) r, (atLane_left c n s).g r]

theorem gPut_keeps (c : EngAt) (d : Fin 32) (v : Word) (s : State) :
    Raises c 0 s (gPut c d v s) ∧ KeepsConditions c s (gPut c d v s) := by
  have e := gPut_ctx c d v s
  simp only [EngCtx.mk.injEq] at e
  refine ⟨?_, ?_, ?_, ?_⟩
  · unfold Raises; rw [Nat.or_zero]; tauto
  all_goals tauto

theorem left_keeps {c : EngAt} {d : Fin 32} {v : Word} {n : Nat} {s t : State} (h : Left c (gPut c d v (atLane c.lane n s)) t) :
    Raises c 0 s t ∧ KeepsConditions c s t := by
  obtain ⟨k1, k2, k3, k4⟩ := gPut_keeps c d v (atLane c.lane n s)
  have a := atLane_left c n s
  unfold Raises at *
  exact ⟨by rw [h.fstat, k1, a.fstat], by rw [h.pcond, k2, a.pcond], by rw [h.sage, k3, a.sage], by rw [h.sstat, k4, a.sstat]⟩

theorem intResult_of {c : EngAt} {m : EngForm} {d : Fin 32} {v : Word} {s : State} (h : Executes c m s) {f : Nat → State → EngOut}
    (hf : f (startCycle (engCtx s c.eng.val c.lane) m) (atLane c.lane (startCycle (engCtx s c.eng.val c.lane) m) s)
      = .go (gPut c d v (atLane c.lane (startCycle (engCtx s c.eng.val c.lane) m) s))) : IntResult c m d v s (engRun c m f s) := by
  obtain ⟨st, le⟩ := engRun_go (ps := []) h hf (.gPut ..)
  exact ⟨st, writes_of le, (left_keeps le).1, (left_keeps le).2⟩

theorem runOp_result {c : EngAt} {m : EngForm} {d a b : Fin 32} {f : Word → Word → Word} {s : State} (h : Executes c m s) :
    IntResult c m d (f (gOf c a s) (gOf c b s)) s (runOp c m d a b f s) :=
  intResult_of h (by simp only [gOf_atLane])

theorem runOp1_result {c : EngAt} {m : EngForm} {d a : Fin 32} {f : Word → Word} {s : State} (h : Executes c m s) :
    IntResult c m d (f (gOf c a s)) s (runOp1 c m d a f s) :=
  intResult_of h (by simp only [gOf_atLane])

theorem floatResult_of {c : EngAt} {m : EngForm} {d : Fin 32} {r : Word × Nat} {s : State} (h : Executes c m s) {f : Nat → State → EngOut}
    (hf : f (startCycle (engCtx s c.eng.val c.lane) m) (atLane c.lane (startCycle (engCtx s c.eng.val c.lane) m) s)
      = .go (putFloat c d r (atLane c.lane (startCycle (engCtx s c.eng.val c.lane) m) s))) : FloatResult c m d r s (engRun c m f s) := by
  set n := startCycle (engCtx s c.eng.val c.lane) m
  obtain ⟨st, le⟩ := engRun_go (ps := []) h hf ((Local.gPut ..).trans (.raiseFlags ..))
  have p : ∀ u, engCtx (raiseFlags c r.2 u) c.eng.val c.lane
      = { engCtx u c.eng.val c.lane with fstat := (engCtx u c.eng.val c.lane).fstat ||| r.2 } := fun u => by
    unfold raiseFlags; exact engCtx_putCtx ..
  have a := atLane_left c n s
  obtain ⟨k1, k2, k3, k4⟩ := gPut_keeps c d r.1 (atLane c.lane n s)
  unfold Raises at k1
  rw [Nat.or_zero] at k1
  refine ⟨st, fun i => ?_, ?_, ?_, ?_, ?_⟩
  · have : getG (engRun c m f s) c.eng.val c.lane i = getG (gPut c d r.1 (atLane c.lane n s)) c.eng.val c.lane i := by
      rw [le.g i]
      exact getG_congr (by unfold putFloat; rw [p]) i
    rw [this, gPut_writes c d r.1 _ i, a.g i]
  · unfold Raises
    rw [le.fstat]
    unfold putFloat
    rw [p]
    simp only
    rw [k1, a.fstat]
  · rw [le.pcond]; unfold putFloat; rw [p]; simp only; rw [k2, a.pcond]
  · rw [le.sage]; unfold putFloat; rw [p]; simp only; rw [k3, a.sage]
  · rw [le.sstat]; unfold putFloat; rw [p]; simp only; rw [k4, a.sstat]

theorem runFloat_result {c : EngAt} {m : EngForm} {d a b : Fin 32} {f : Word → Word → Word × Nat} {s : State} (h : Executes c m s) :
    FloatResult c m d (f (gOf c a s) (gOf c b s)) s (runFloat c m d a b f s) :=
  floatResult_of h (by simp only [gOf_atLane])

theorem runFloat1_result {c : EngAt} {m : EngForm} {d a : Fin 32} {f : Word → Word × Nat} {s : State} (h : Executes c m s) :
    FloatResult c m d (f (gOf c a s)) s (runFloat1 c m d a f s) :=
  floatResult_of h (by simp only [gOf_atLane])

theorem flow_of {c : EngAt} {m : EngForm} {n pc : Nat} {ps : List Part} {s t : State} (st : Stepped c m pc ps s t) (le : Left c (atLane c.lane n s) t) :
    FlowResult c m pc ps s t := by
  have a := atLane_left c n s
  refine ⟨st, fun r => by rw [le.g r, a.g r], ?_, ?_, ?_, ?_⟩
  · unfold Raises; rw [Nat.or_zero, le.fstat, a.fstat]
  · rw [le.pcond, a.pcond]
  · rw [le.sage, a.sage]
  · rw [le.sstat, a.sstat]

theorem branchTarget_atLane (c : EngAt) (off : Int) (n : Nat) (s : State) :
    branchTarget c off (atLane c.lane n s) = branchTarget c off s := by
  unfold branchTarget
  rw [(Fetched.atLane c.eng.val c.lane c.lane n s).pc]

theorem runBranch_result {c : EngAt} {cls sub : Nat} {a b : Fin 32} {off : BitVec 16} {cond : Word → Word → Bool} {s : State}
    (h : Executes c (formB cls sub a b off (cond (gOf c a s) (gOf c b s))) s) :
    FlowResult c (formB cls sub a b off (cond (gOf c a s) (gOf c b s)))
      (if cond (gOf c a s) (gOf c b s) then branchTarget c off.toInt s else pcMod ((engCtx s c.eng.val c.lane).pc + 1)) [] s
      (runBranch c cls sub a b off cond s) := by
  unfold runBranch
  simp only
  cases hc : cond (gOf c a s) (gOf c b s) with
  | false =>
    rw [hc] at h
    simp only [Bool.false_eq_true, if_false]
    obtain ⟨st, le⟩ := engRun_go (f := fun _ s => .go s) h rfl (.refl ..)
    exact flow_of st le
  | true =>
    rw [hc] at h
    simp only [if_true]
    obtain ⟨st, le⟩ := engRun_jump (f := fun _ s => .jump (branchTarget c off.toInt s) s) h (by rw [branchTarget_atLane]) (.refl ..)
    exact flow_of st le

/-! ### Through a command -/

/-- What a command makes of an instruction's operation. -/
theorem stepped_lift {c : EngAt} {m : EngForm} {pc : Nat} {ps qs : List Part} {s : State} {op : State → State}
    (hr : Part.regs ∈ qs ∧ Part.time ∈ qs ∧ Part.eng ∈ qs) (st : Stepped c m pc ps (clearReports s) (op (clearReports s))) :
    Stepped c m pc ps s (keepQueue s (settle (reach qs op (clearReports s)))) := by
  set x := reach qs op (clearReports s) with hx
  have he : ∀ k, engSt (keepQueue s (settle x)) k = engSt (op (clearReports s)) k := fun k =>
    engSt_of_eng (by rw [keepQueue_eng, settle_eng, hx, reach_eng _ _ _ hr.2.2]) k
  have hc : ∀ k l, engCtx (keepQueue s (settle x)) k l = engCtx (op (clearReports s)) k l := fun k l => by
    unfold engCtx; rw [he]
  refine ⟨by rw [hc]; exact st.pc, by rw [hc]; exact st.used, fun k hk => by rw [hc]; exact st.lane k hk,
    fun k hk => by rw [he]; exact st.engines k hk, fun a q hp => ?_, fun p hp => ?_, ?_⟩
  · rw [rdReg_keepQueue, settle_quiet q, hx, rdReg_reach _ _ _ hr.1]
    exact st.regs a q hp
  · have hp' : p ∉ settled := by
      simp only [settled, List.mem_append, List.mem_cons, List.not_mem_nil, or_false, not_or] at hp ⊢
      tauto
    exact agree_trans (clearReports_agree p s) (agree_trans (reach_agree_of (st.rest p hp)) (agree_trans (settle_agree hp' x) (keepQueue_agree p s _)))
  · have ht : (keepQueue s (settle x)).time = (op (clearReports s)).time := by
      rw [keepQueue_time, settle_time, hx, reach_time _ _ _ hr.2.1]
    rw [ht]
    exact st.ticks

theorem left_lift {c : EngAt} {qs : List Part} {s : State} (hq : Part.eng ∈ qs) (op : State → State) :
    Left c (op (clearReports s)) (keepQueue s (settle (reach qs op (clearReports s)))) := by
  have he : engSt (keepQueue s (settle (reach qs op (clearReports s)))) c.eng.val = engSt (op (clearReports s)) c.eng.val :=
    engSt_of_eng (by rw [keepQueue_eng, settle_eng, reach_eng _ _ _ hq]) _
  have hc : engCtx (keepQueue s (settle (reach qs op (clearReports s)))) c.eng.val c.lane
      = engCtx (op (clearReports s)) c.eng.val c.lane := by unfold engCtx; rw [he]
  exact ⟨by rw [hc], by rw [hc], by rw [hc], by rw [hc], by rw [hc], by rw [he], by rw [he], by rw [he]⟩

theorem stepped_finish {c : EngAt} {m : EngForm} {pc : Nat} {ps : List Part} {s : State} (h : Awake s) {op : State → State}
    (st : Stepped c m pc ps (clearReports s) (op (clearReports s))) :
    Stepped c m pc ps s (finish (reach [.regs, .time, .flt, .recd, .eng] op) s) := by
  rw [finish_awake h]
  exact stepped_lift (by decide) st

theorem left_finish {c : EngAt} {s : State} (h : Awake s) (op : State → State) :
    Left c (op (clearReports s)) (finish (reach [.regs, .time, .flt, .recd, .eng] op) s) := by
  rw [finish_awake h]
  exact left_lift (by decide) op

/-- An instruction stands as before in the state that has no reports. -/
theorem executes_clear {c : EngAt} {m : EngForm} {s : State} (h : Executes c m s) : Executes c m (clearReports s) :=
  ⟨h.active, h.inLane, h.sound, h.here, h.fits⟩

theorem intResult_finish {c : EngAt} {m : EngForm} {d : Fin 32} {v : Word} {s : State} (h : Awake s) {op : State → State}
    (r : IntResult c m d v (clearReports s) (op (clearReports s))) :
    IntResult c m d v s (finish (reach [.regs, .time, .flt, .recd, .eng] op) s) := by
  have l := left_finish (c := c) h op
  refine ⟨stepped_finish h r.step, fun i => by rw [l.g i]; exact r.result i, ?_, ?_, ?_, ?_⟩
  · unfold Raises; rw [l.fstat]; exact r.flags
  · rw [l.pcond]; exact r.conds.1
  · rw [l.sage]; exact r.conds.2.1
  · rw [l.sstat]; exact r.conds.2.2

theorem floatResult_finish {c : EngAt} {m : EngForm} {d : Fin 32} {v : Word × Nat} {s : State} (h : Awake s) {op : State → State}
    (r : FloatResult c m d v (clearReports s) (op (clearReports s))) :
    FloatResult c m d v s (finish (reach [.regs, .time, .flt, .recd, .eng] op) s) := by
  have l := left_finish (c := c) h op
  refine ⟨stepped_finish h r.step, fun i => by rw [l.g i]; exact r.result i, ?_, ?_, ?_, ?_⟩
  · unfold Raises; rw [l.fstat]; exact r.flags
  · rw [l.pcond]; exact r.conds.1
  · rw [l.sage]; exact r.conds.2.1
  · rw [l.sstat]; exact r.conds.2.2

theorem flowResult_finish {c : EngAt} {m : EngForm} {pc : Nat} {ps : List Part} {s : State} (h : Awake s) {op : State → State}
    (r : FlowResult c m pc ps (clearReports s) (op (clearReports s))) :
    FlowResult c m pc ps s (finish (reach [.regs, .time, .flt, .recd, .eng] op) s) := by
  have l := left_finish (c := c) h op
  refine ⟨stepped_finish h r.step, fun i => by rw [l.g i]; exact r.result i, ?_, ?_, ?_, ?_⟩
  · unfold Raises; rw [l.fstat]; exact r.flags
  · rw [l.pcond]; exact r.conds.1
  · rw [l.sage]; exact r.conds.2.1
  · rw [l.sstat]; exact r.conds.2.2

/-! ### Instructions of one shape -/

theorem boolWord_ite (p : Prop) [Decidable p] : boolWord (decide p) = if p then 1 else 0 := by simp [boolWord]
theorem satWord_eq (i : Int) : satWord i = BitVec.ofInt 32 (max (-2147483648) (min 2147483647 i)) := by
  unfold satWord ofI sat32
  congr 1
  split_ifs <;> simp <;> omega
theorem ofInt_toInt (x : Word) : BitVec.ofInt 32 x.toInt = x := BitVec.ofInt_toInt

theorem int_of {c d s m v} {i : Instr} (op : State → State) (h : Awake s) (e : exec i s = .next (finish (reach [.regs, .time, .flt, .recd, .eng] op) s))
   (r : Executes c m (clearReports s) → IntResult c m d v (clearReports s) (op (clearReports s))) : IntDoes c d s i m v :=
  fun x => ⟨_, e, intResult_finish h (r (executes_clear x))⟩
theorem float_of {c d s m v} {i : Instr} (op : State → State) (h : Awake s) (e : exec i s = .next (finish (reach [.regs, .time, .flt, .recd, .eng] op) s))
   (r : Executes c m (clearReports s) → FloatResult c m d v (clearReports s) (op (clearReports s))) : FloatDoes c d s i m v :=
  fun x => ⟨_, e, floatResult_finish h (r (executes_clear x))⟩
theorem int_op2 {c d a b s m v} {i : Instr} (f : Word → Word → Word) (h : Awake s) (hv : v = f (gOf c a s) (gOf c b s))
  (e : exec i s = .next (finish (reach [.regs, .time, .flt, .recd, .eng] (runOp c m d a b f)) s)) : IntDoes c d s i m v := by
  subst hv; exact int_of _ h e fun x => runOp_result x
theorem int_op1 {c d a s m v} {i : Instr} (f : Word → Word) (h : Awake s) (hv : v = f (gOf c a s))
  (e : exec i s = .next (finish (reach [.regs, .time, .flt, .recd, .eng] (runOp1 c m d a f)) s)) : IntDoes c d s i m v := by
  subst hv; exact int_of _ h e fun x => runOp1_result x
theorem float_op2 {c d a b s m v} {i : Instr} (f : Word → Word → Word × Nat) (h : Awake s) (hv : v = f (gOf c a s) (gOf c b s))
  (e : exec i s = .next (finish (reach [.regs, .time, .flt, .recd, .eng] (runFloat c m d a b f)) s)) : FloatDoes c d s i m v := by
  subst hv; exact float_of _ h e fun x => runFloat_result x
theorem float_op1 {c d a s m v} {i : Instr} (f : Word → Word × Nat) (h : Awake s) (hv : v = f (gOf c a s))
  (e : exec i s = .next (finish (reach [.regs, .time, .flt, .recd, .eng] (runFloat1 c m d a f)) s)) : FloatDoes c d s i m v := by
  subst hv; exact float_of _ h e fun x => runFloat1_result x


/-- CLZ counts the zero bits above the highest one bit. -/
theorem clzWord_spec (x : Word) : ∃ n, clzWord x = BitVec.ofNat 32 n ∧ n ≤ 32 ∧ (∀ i < n, x.getLsbD (31 - i) = false)
    ∧ (n < 32 → x.getLsbD (31 - n) = true) := by
  unfold clzWord
  split
  · rename_i h
    subst h
    exact ⟨32, rfl, le_refl _, fun i _ => by simp, fun h => absurd h (by omega)⟩
  · rename_i h
    have h0 : x.toNat ≠ 0 := fun e => h (BitVec.eq_of_toNat_eq (by simpa using e))
    have hl : x.toNat.log2 < 32 := (Nat.log2_lt h0).2 x.isLt
    refine ⟨31 - x.toNat.log2, rfl, by omega, fun i hi => ?_, fun _ => ?_⟩
    · have : x.toNat < 2 ^ (31 - i) := lt_of_lt_of_le (Nat.lt_log2_self) (Nat.pow_le_pow_right (by norm_num) (by omega))
      simpa [BitVec.getLsbD] using Nat.testBit_lt_two_pow this
    · have e : 31 - (31 - x.toNat.log2) = x.toNat.log2 := by omega
      rw [e]
      simp only [BitVec.getLsbD]
      exact Nat.testBit_log2 h0

theorem dataBytes_congr {s t : State} (hm : t.mem = s.mem) (e a n : Nat) : dataBytes e a n t = dataBytes e a n s := by
  induction n with
  | zero => rfl
  | succ n ih => simp only [dataBytes, ih]; unfold rdByte; rw [hm]

theorem dataBytes_atLane (e a n : Nat) (l : Lane) (k : Nat) (s : State) : dataBytes e a n (atLane l k s) = dataBytes e a n s :=
  dataBytes_congr ((Fetched.atLane 0 l l k s).rest .mem (by simp)) e a n

theorem runLoad_result {c : EngAt} {cls sub n : Nat} {d a : Fin 32} {imm : BitVec 16} {ext : Nat → Word} {s : State}
    (h : Executes c (formLd cls sub d a imm) s) (ht : dataTrap n (dataAddr c a imm s) = none) :
    IntResult c (formLd cls sub d a imm) d (ext (dataBytes c.eng.val (dataAddr c a imm s) n s)) s (runLoad c cls sub n d a imm ext s) := by
  have ad (k : Nat) : dataAddr c a imm (atLane c.lane k s) = dataAddr c a imm s := by unfold dataAddr; rw [gOf_atLane]
  exact intResult_of h (by simp only [ad, ht, dataBytes_atLane])

theorem int_load {c d a s v cls sub n imm} {i : Instr} (ext : Nat → Word) (h : Awake s) (ht : dataTrap n (dataAddr c a imm s) = none)
    (hv : v = ext (dataBytes c.eng.val (dataAddr c a imm s) n s))
    (e : exec i s = .next (finish (reach [.regs, .time, .flt, .recd, .eng] (runLoad c cls sub n d a imm ext)) s)) :
    IntDoes c d s i (formLd cls sub d a imm) v := by
  subst hv
  refine int_of _ h e fun x => ?_
  have r := runLoad_result (ext := ext) (n := n) x (by exact ht)
  rw [dataBytes_congr (clearReports_mem s)] at r
  exact r

theorem flow_branch {c : EngAt} {cls sub : Nat} {a b : Fin 32} {off : BitVec 16} {s : State} {k : Bool} {i : Instr}
    (cond : Word → Word → Bool) (h : Awake s) (hk : k = cond (gOf c a s) (gOf c b s))
    (e : exec i s = .next (finish (reach [.regs, .time, .flt, .recd, .eng] (runBranch c cls sub a b off cond)) s)) :
    FlowDoes c s i (formB cls sub a b off k)
      (if k then branchTarget c off.toInt s else pcMod ((engCtx s c.eng.val c.lane).pc + 1)) := by
  subst hk
  exact fun ex => ⟨_, e, flowResult_finish h (runBranch_result (executes_clear ex))⟩

/-- Bytes of data memory, put together. -/
theorem dataBytes_two (e a : Nat) (s : State) :
    BitVec.ofNat 16 (dataBytes e a 2 s) = rdByte s (dataBase e + a) ++ rdByte s (dataBase e + a + 1) := by
  apply BitVec.eq_of_toNat_eq
  have h0 := (rdByte s (dataBase e + a)).isLt
  have h1 := (rdByte s (dataBase e + a + 1)).isLt
  simp only [dataBytes, BitVec.toNat_append, BitVec.toNat_ofNat, Nat.add_zero]
  rw [← Nat.shiftLeft_add_eq_or_of_lt h1, Nat.shiftLeft_eq, Nat.mod_eq_of_lt (by omega)]
  omega

theorem dataBytes_four (e a : Nat) (s : State) :
    BitVec.ofNat 32 (dataBytes e a 4 s) = rdByte s (dataBase e + a) ++ rdByte s (dataBase e + a + 1) ++ rdByte s (dataBase e + a + 2)
      ++ rdByte s (dataBase e + a + 3) := by
  apply BitVec.eq_of_toNat_eq
  have h0 := (rdByte s (dataBase e + a)).isLt
  have h1 := (rdByte s (dataBase e + a + 1)).isLt
  have h2 := (rdByte s (dataBase e + a + 2)).isLt
  have h3 := (rdByte s (dataBase e + a + 3)).isLt
  simp only [dataBytes, BitVec.toNat_append, BitVec.toNat_ofNat, Nat.add_zero]
  rw [← Nat.shiftLeft_add_eq_or_of_lt h3, ← Nat.shiftLeft_add_eq_or_of_lt h2, ← Nat.shiftLeft_add_eq_or_of_lt h1]
  simp only [Nat.shiftLeft_eq]
  rw [Nat.mod_eq_of_lt (by omega)]
  omega

/-! ### Stores -/

theorem putData_mem (e a v n : Nat) (s : State) : ∃ m, putData e a v n s = { s with mem := m } := by
  induction n generalizing v with
  | zero => exact ⟨s.mem, rfl⟩
  | succ n ih =>
    obtain ⟨m, hm⟩ := ih (v / 256)
    simp only [putData, hm]
    exact ⟨_, rfl⟩

/-- The bytes of a store, most significant first, and every byte beside them (R263). -/
theorem rdByte_putData (e a v n : Nat) (s : State) (x : Nat) :
    rdByte (putData e a v n s) x
      = if dataBase e + a ≤ x ∧ x < dataBase e + a + n then BitVec.ofNat 8 (v / 256 ^ (n - 1 - (x - (dataBase e + a)))) else rdByte s x := by
  induction n generalizing v with
  | zero => rw [if_neg (by omega)]; rfl
  | succ n ih =>
    simp only [putData]
    by_cases hx : dataBase e + a + n = x
    · subst hx
      rw [rdByte_wrByte, if_pos ⟨by omega, by omega⟩]
      have : n + 1 - 1 - (dataBase e + a + n - (dataBase e + a)) = 0 := by omega
      rw [this, Nat.pow_zero, Nat.div_one]
    · rw [rdByte_wrByte_ne _ _ hx, ih]
      by_cases hr : dataBase e + a ≤ x ∧ x < dataBase e + a + n
      · rw [if_pos hr, if_pos ⟨hr.1, by omega⟩, Nat.div_div_eq_div_mul, ← Nat.pow_succ']
        congr 3
        omega
      · rw [if_neg hr, if_neg (by omega)]

theorem putData_wf (e a v n : Nat) {s : State} (h : Memory.wf s.mem = true) : Memory.wf (putData e a v n s).mem = true := by
  induction n generalizing v with
  | zero => exact h
  | succ n ih => exact wrByte_wf _ _ (ih (v / 256))

theorem storeAmong_alone (c : EngAt) (n a v : Nat) (s : State) : storeAmong c n a v [] s = putData c.eng.val a v n s := by
  simp [storeAmong, cycleMore, sortBy, tellEngines]

/-- A store that no other party's write meets (R263). -/
theorem runStore_result {c : EngAt} {sub n : Nat} {d a : Fin 32} {imm : BitVec 16} {s : State} (h : Executes c (formSt 7 sub d a imm) s)
    (ht : dataTrap n (dataAddr c a imm s) = none) :
    FlowResult c (formSt 7 sub d a imm) (pcMod ((engCtx s c.eng.val c.lane).pc + 1)) [.mem] s (runStore c sub n d a imm [] s)
      ∧ (runStore c sub n d a imm [] s).mem = (putData c.eng.val (dataAddr c a imm s) (gOf c d s).toNat n s).mem := by
  set k := startCycle (engCtx s c.eng.val c.lane) (formSt 7 sub d a imm) with hk
  have ad : dataAddr c a imm (atLane c.lane k s) = dataAddr c a imm s := by unfold dataAddr; rw [gOf_atLane]
  obtain ⟨m, hm⟩ := putData_mem c.eng.val (dataAddr c a imm s) (gOf c d s).toNat n (atLane c.lane k s)
  have hu : Local c.eng.val c.lane [.mem] (atLane c.lane k s) (putData c.eng.val (dataAddr c a imm s) (gOf c d s).toNat n (atLane c.lane k s)) := by
    rw [hm]
    exact ⟨rfl, fun _ _ => rfl, fun _ _ => rfl, fun _ _ _ => rfl,
      fun p hp => by cases p <;> first | exact rfl | exact ⟨rfl, rfl, rfl⟩ | exact absurd (by simp) hp, ⟨rfl, rfl⟩⟩
  have hf : (fun (_ : Nat) (s : State) => match dataTrap n (dataAddr c a imm s) with
      | some cause => EngOut.trap cause
      | none => .go (storeAmong c n (dataAddr c a imm s) (gOf c d s).toNat [] s)) k (atLane c.lane k s)
      = .go (putData c.eng.val (dataAddr c a imm s) (gOf c d s).toNat n (atLane c.lane k s)) := by
    simp only [ad, ht, storeAmong_alone, gOf_atLane]
  obtain ⟨st, le⟩ := engRun_go (f := fun (_ : Nat) (s : State) => match dataTrap n (dataAddr c a imm s) with
      | some cause => EngOut.trap cause
      | none => .go (storeAmong c n (dataAddr c a imm s) (gOf c d s).toNat [] s)) h hf hu
  have le' : Left c (atLane c.lane k s) (runStore c sub n d a imm [] s) := by
    rw [hm] at le
    exact ⟨le.regs, le.fstat, le.pcond, le.sage, le.sstat, le.posts, le.outs, le.staging⟩
  refine ⟨flow_of st le', ?_⟩
  have e := engRun_of h (fun (_ : Nat) (s : State) => match dataTrap n (dataAddr c a imm s) with
      | some cause => EngOut.trap cause
      | none => .go (storeAmong c n (dataAddr c a imm s) (gOf c d s).toNat [] s))
  have e' : runStore c sub n d a imm [] s = engAfter c.eng.val c.lane (formSt 7 sub d a imm)
      (pcMod ((engCtx s c.eng.val c.lane).pc + 1)) k (k + (formSt 7 sub d a imm).cost + eccCycles c.ecc)
      (putData c.eng.val (dataAddr c a imm s) (gOf c d s).toNat n (atLane c.lane k s)) := by
    refine Eq.trans e ?_
    simp only [← hk, ad, ht, storeAmong_alone, gOf_atLane]
  rw [e']
  obtain ⟨fl, g⟩ := engAfter_fetched c.eng.val c.lane (formSt 7 sub d a imm) (pcMod ((engCtx s c.eng.val c.lane).pc + 1)) k
    (k + (formSt 7 sub d a imm).cost + eccCycles c.ecc) (putData c.eng.val (dataAddr c a imm s) (gOf c d s).toNat n (atLane c.lane k s))
  have q := g.rest .mem (by simp)
  obtain ⟨y, hy⟩ := putCtx_parts c.eng.val c.lane { engCtx (putData c.eng.val (dataAddr c a imm s) (gOf c d s).toNat n (atLane c.lane k s))
      c.eng.val c.lane with pc := pcMod ((engCtx s c.eng.val c.lane).pc + 1),
                            used := k + (formSt 7 sub d a imm).cost + eccCycles c.ecc, flight := fl }
    (putData c.eng.val (dataAddr c a imm s) (gOf c d s).toNat n (atLane c.lane k s))
  rw [hy] at q
  refine Eq.trans q ?_
  have hmem : (atLane c.lane k s).mem = s.mem := (Fetched.atLane 0 c.lane c.lane k s).rest .mem (by simp)
  have gen : ∀ (n v : Nat) (x y : State), x.mem = y.mem → (putData c.eng.val (dataAddr c a imm s) v n x).mem
      = (putData c.eng.val (dataAddr c a imm s) v n y).mem := by
    intro n
    induction n with
    | zero => intro v x y h; exact h
    | succ n ih => intro v x y h; simp only [putData, wrByte]; rw [ih _ x y h]
  exact gen n _ _ _ hmem

theorem awake_causes {s t : State} (h : Awake s) (e : t.pwr = s.pwr) : bitAt t.pwr.causes 4 = false := by rw [e]; exact h.2

/-- A store as a command. -/
theorem flow_store {c : EngAt} {sub n : Nat} {d a : Fin 32} {imm : BitVec 16} {s : State} {i : Instr} {qs : List Part} (h : Awake s)
    (hq : Part.regs ∈ qs ∧ Part.time ∈ qs ∧ Part.eng ∈ qs) (hm : Part.mem ∈ qs) (ht : dataTrap n (dataAddr c a imm s) = none)
    (e : exec i s = .next (finishWrite (reach qs (runStore c sub n d a imm [])) s))
    (ex : Executes c (formSt 7 sub d a imm) s) :
    ∃ t, exec i s = .next t ∧ FlowResult c (formSt 7 sub d a imm) (pcMod ((engCtx s c.eng.val c.lane).pc + 1)) [.mem] s t
      ∧ t.mem = (putData c.eng.val (dataAddr c a imm s) (gOf c d s).toNat n s).mem := by
  obtain ⟨r, rm⟩ := runStore_result (executes_clear ex) (by exact ht)
  have hp : bitAt (reach qs (runStore c sub n d a imm []) (clearReports s)).pwr.causes 4 = false := by
    refine awake_causes h ?_
    exact (reach_agree_of (p := .pwr) (r.step.rest .pwr (by simp)))
  refine ⟨_, e, ?_, ?_⟩
  · rw [finishWrite_awake h hp]
    have l := left_lift (c := c) (s := s) hq.2.2 (runStore c sub n d a imm [])
    refine ⟨stepped_lift hq r.step, fun i => by rw [l.g i]; exact r.result i, ?_, ?_, ?_, ?_⟩
    · unfold Raises; rw [l.fstat]; exact r.flags
    · rw [l.pcond]; exact r.conds.1
    · rw [l.sage]; exact r.conds.2.1
    · rw [l.sstat]; exact r.conds.2.2
  · rw [finishWrite_awake h hp, keepQueue_mem, settle_mem, reach_mem _ _ _ hm, rm]
    have gen : ∀ (n v : Nat), (putData c.eng.val (dataAddr c a imm s) v n (clearReports s)).mem
        = (putData c.eng.val (dataAddr c a imm s) v n s).mem := by
      intro n
      induction n with
      | zero => intro v; rfl
      | succ n ih => intro v; simp only [putData, wrByte]; rw [ih]
    exact gen n _

/-! ### Instructions of every other shape -/

/-- An instruction command after which the context goes on at the next word. -/
theorem instr_go {c : EngAt} {m : EngForm} {s u : State} {ps qs : List Part} {i : Instr} {f : Nat → State → EngOut} {op : State → State}
    (h : Awake s) (hq : Part.regs ∈ qs ∧ Part.time ∈ qs ∧ Part.eng ∈ qs) (e : exec i s = .next (finish (reach qs op) s))
    (ho : op (clearReports s) = engRun c m f (clearReports s))
    (hf : f (startCycle (engCtx s c.eng.val c.lane) m) (atLane c.lane (startCycle (engCtx s c.eng.val c.lane) m) (clearReports s)) = .go u)
    (hu : Local c.eng.val c.lane ps (atLane c.lane (startCycle (engCtx s c.eng.val c.lane) m) (clearReports s)) u)
    (ex : Executes c m s) :
    ∃ t, exec i s = .next t ∧ Stepped c m (pcMod ((engCtx s c.eng.val c.lane).pc + 1)) ps s t ∧ Left c u t := by
  obtain ⟨st, le⟩ := engRun_go (executes_clear ex) (f := f) hf hu
  refine ⟨_, e, ?_⟩
  rw [finish_awake h]
  rw [← ho] at st le
  exact ⟨stepped_lift hq st, (left_lift hq.2.2 op).trans le⟩

/-- An instruction command that jumps. -/
theorem instr_jump {c : EngAt} {m : EngForm} {s u : State} {pc : Nat} {ps qs : List Part} {i : Instr} {f : Nat → State → EngOut} {op : State → State}
    (h : Awake s) (hq : Part.regs ∈ qs ∧ Part.time ∈ qs ∧ Part.eng ∈ qs) (e : exec i s = .next (finish (reach qs op) s))
    (ho : op (clearReports s) = engRun c m f (clearReports s))
    (hf : f (startCycle (engCtx s c.eng.val c.lane) m) (atLane c.lane (startCycle (engCtx s c.eng.val c.lane) m) (clearReports s)) = .jump pc u)
    (hu : Local c.eng.val c.lane ps (atLane c.lane (startCycle (engCtx s c.eng.val c.lane) m) (clearReports s)) u)
    (ex : Executes c m s) :
    ∃ t, exec i s = .next t ∧ Stepped c m pc ps s t ∧ Left c u t := by
  obtain ⟨st, le⟩ := engRun_jump (executes_clear ex) (f := f) hf hu
  refine ⟨_, e, ?_⟩
  rw [finish_awake h]
  rw [← ho] at st le
  exact ⟨stepped_lift hq st, (left_lift hq.2.2 op).trans le⟩

/-- What a context keeps that an operation leaves as it starts. -/
theorem left_kept {c : EngAt} {k : Nat} {s t : State} (le : Left c (atLane c.lane k (clearReports s)) t) :
    (∀ r, getG t c.eng.val c.lane r = getG s c.eng.val c.lane r) ∧ Raises c 0 s t ∧ KeepsConditions c s t := by
  have b := le.trans (atLane_left c k (clearReports s))
  refine ⟨fun r => b.g r, ?_, b.pcond, b.sage, b.sstat⟩
  unfold Raises; rw [Nat.or_zero]; exact b.fstat

theorem flow_left {c : EngAt} {m : EngForm} {pc k : Nat} {ps : List Part} {s t : State} (st : Stepped c m pc ps s t)
    (le : Left c (atLane c.lane k (clearReports s)) t) : FlowResult c m pc ps s t :=
  ⟨st, (left_kept le).1, (left_kept le).2.1, (left_kept le).2.2⟩

/-- What a context keeps where an operation changes its engine's shared state alone. -/
theorem left_shared {c : EngAt} {v : EngState} {k : Nat} {s t : State} (le : Left c (putEng c.eng.val v (atLane c.lane k (clearReports s))) t)
    (hv : ctxOf v c.lane = engCtx (atLane c.lane k (clearReports s)) c.eng.val c.lane) :
    ((∀ r, getG t c.eng.val c.lane r = getG s c.eng.val c.lane r) ∧ Raises c 0 s t ∧ KeepsConditions c s t)
      ∧ (engSt t c.eng.val).posts = v.posts ∧ (engSt t c.eng.val).outs = v.outs ∧ (engSt t c.eng.val).staging = v.staging := by
  have x : engCtx (putEng c.eng.val v (atLane c.lane k (clearReports s))) c.eng.val c.lane
      = engCtx (atLane c.lane k (clearReports s)) c.eng.val c.lane := by simpa [engCtx] using hv
  refine ⟨?_, by simpa using le.posts, by simpa using le.outs, by simpa using le.staging⟩
  have a := atLane_left c k (clearReports s)
  refine ⟨fun r => ?_, ?_, ?_, ?_, ?_⟩
  · exact (le.g r).trans ((getG_congr (by rw [x]) r).trans (a.g r))
  · unfold Raises; rw [Nat.or_zero, le.fstat, x, a.fstat]; rfl
  · rw [le.pcond, x, a.pcond]; rfl
  · rw [le.sage, x, a.sage]; rfl
  · rw [le.sstat, x, a.sstat]; rfl

theorem engSt_atLane (l : Lane) (k e : Nat) (s : State) : engSt (atLane l k s) e = engSt s e :=
  engSt_of_eng (by obtain ⟨x, hx, -⟩ := atLane_parts l k s; rw [hx]) e

/-- An operation on the state of the engine that keeps its contexts. -/
theorem Local.shared (e : Nat) (l : Lane) (ps : List Part) (v : EngState) (s : State) (h : v.dl = (engSt s e).dl ∧ v.bg = (engSt s e).bg) :
    Local e l ps s (Machine.putEng e v s) :=
  .putEng _ _ _ _ _ (by cases l <;> simp [engCtx, ctxOf, h]) (fun k _ => by cases k <;> simp [engCtx, ctxOf, h])

/-! ### Traps -/

theorem noteTrap_fields (p lane cause pc : Nat) (s : State) :
    getW ENG.TRAP_CAUSE p 0 (noteTrap p lane cause pc s) = cause % 8 ∧ getW ENG.TRAP_PC p 0 (noteTrap p lane cause pc s) = pc % 16384
      ∧ getW ENG.TRAP_LANE p 0 (noteTrap p lane cause pc s) = lane % 2 := by
  unfold noteTrap incSat
  refine ⟨?_, ?_, ?_⟩
  · rw [getW_setF_beside _ _ (by decide) (by decide) (by decide), getW_setF _ _ _ _ _ (by decide) (by decide)]; rfl
  · rw [getW_setF_beside _ _ (by decide) (by decide) (by decide), getW_setF_beside _ _ (by decide) (by decide) (by decide),
      getW_setF_beside _ _ (by decide) (by decide) (by decide), getW_setF _ _ _ _ _ (by decide) (by decide)]
    show pc % 16384 % 16384 = _
    exact Nat.mod_mod _ _
  · rw [getW_setF_beside _ _ (by decide) (by decide) (by decide), getW_setF_beside _ _ (by decide) (by decide) (by decide),
      getW_setF _ _ _ _ _ (by decide) (by decide)]
    rfl

theorem probFail_keeps (e k : Nat) (l : Lane) (s : State) : engCtx (probFail e k s) e l = engCtx s e l
    ∧ rdReg (probFail e k s) (pageAddr (engPg e) 0x11c) = rdReg s (pageAddr (engPg e) 0x11c) := by
  unfold probFail
  simp only
  split
  · exact ⟨rfl, rfl⟩
  · refine ⟨?_, ?_⟩
    · simp [engCtx, engSt, raise, setIrq, setB, setF, wrReg, putEng]; cases l <;> rfl
    · rw [rdReg_raise, rdReg_setIrq_ne _ _ _ (by simp [pageAddr]), rdReg_setB_ne _ _ _ _ _ (by simp [fldAddr, pageAddr, ENG.STAT_PROB]),
        rdReg_setF_ne _ _ _ _ _ (by simp [fldAddr, pageAddr, ENG.PROB_CAUSE])]
      rfl

/-- What a trap leaves of the context and of TRAP. -/
theorem engTrap_trapped (e : Nat) (l : Lane) (cause pc : Nat) (s : State) :
    ((engCtx (engTrap e l cause pc s) e l).act = false ∧ (engCtx (engTrap e l cause pc s) e l).pass = false)
    ∧ getW ENG.TRAP_CAUSE (engPg e) 0 (engTrap e l cause pc s) = cause % 8
    ∧ getW ENG.TRAP_PC (engPg e) 0 (engTrap e l cause pc s) = pc % 16384
    ∧ getW ENG.TRAP_LANE (engPg e) 0 (engTrap e l cause pc s) = laneNum l := by
  have w (f : Fld) (h1 : f.off = 0x11c) (h2 : f.stride = 0) : getW f (engPg e) 0 (engTrap e l cause pc s)
      = getW f (engPg e) 0 (noteTrap (engPg e) (laneNum l) cause pc (restCtx e l s)) := by
    refine getW_congr ?_
    have r : fldAddr f (engPg e) 0 = pageAddr (engPg e) 0x11c := by simp [fldAddr, h1, h2]
    rw [r]
    unfold engTrap
    rw [(probFail_keeps e 3 l _).2, rdReg_raise, rdReg_setIrq_ne _ _ _ (by simp [pageAddr])]
  have c : engCtx (engTrap e l cause pc s) e l = engCtx (restCtx e l s) e l := by
    have k (p n i q a : Nat) (v : State) : engCtx (raise p i q a (setIrq p n v)) e l = engCtx v e l := by
      unfold engCtx
      rw [engSt_of_eng (s := v) (by simp [raise, setIrq])]
    have g (v : State) : engCtx (noteTrap (engPg e) (laneNum l) cause pc v) e l = engCtx v e l := by
      unfold engCtx
      rw [engSt_of_eng (s := v) (by unfold noteTrap incSat; rw [setF_eng, setF_eng, setF_eng, setF_eng])]
    unfold engTrap
    simp only
    rw [(probFail_keeps e 3 l _).1, k, g]
  have n := noteTrap_fields (engPg e) (laneNum l) cause pc (restCtx e l s)
  refine ⟨?_, (w _ rfl rfl).trans n.1, (w _ rfl rfl).trans n.2.1, (w _ rfl rfl).trans (n.2.2.trans (by cases l <;> rfl))⟩
  rw [c]
  cases l <;> simp [restCtx, engCtx, ctxOf, engSt, setB, setF, wrReg, putCtx, putEng]

/-- An instruction command that traps. -/
theorem instr_trap {c : EngAt} {m : EngForm} {s : State} {cause : Nat} {qs : List Part} {i : Instr} {f : Nat → State → EngOut}
    {op : State → State} (h : Awake s) (hq : Part.regs ∈ qs ∧ Part.time ∈ qs ∧ Part.eng ∈ qs ∧ cause < 8)
    (e : exec i s = .next (finish (reach qs op) s) ∨ exec i s = .next (finishWrite (reach qs op) s))
    (ho : op (clearReports s) = engRun c m f (clearReports s))
    (hf : f (startCycle (engCtx s c.eng.val c.lane) m) (atLane c.lane (startCycle (engCtx s c.eng.val c.lane) m) (clearReports s)) = .trap cause)
    (ex : Executes c m s) : ∃ t, exec i s = .next t ∧ Trapped c cause s t := by
  set k := startCycle (engCtx s c.eng.val c.lane) m
  have run : op (clearReports s) = engTrap c.eng.val c.lane cause (engCtx s c.eng.val c.lane).pc (atLane c.lane k (clearReports s)) := by
    rw [ho, engRun_of (executes_clear ex) f]
    change (match f k (atLane c.lane k (clearReports s)) with | .go _ => _ | .jump _ _ => _ | .stop _ => _ | .trap _ => _) = _
    rw [hf]
    rfl
  have fe := (Fetched.atLane c.eng.val c.lane c.lane k (clearReports s)).trans
    (Fetched.engTrap c.eng.val c.lane cause (engCtx s c.eng.val c.lane).pc (atLane c.lane k (clearReports s)))
  rw [← run] at fe
  have tr := engTrap_trapped c.eng.val c.lane cause (engCtx s c.eng.val c.lane).pc (atLane c.lane k (clearReports s))
  rw [← run] at tr
  have hp : bitAt (reach qs op (clearReports s)).pwr.causes 4 = false :=
    awake_causes h (t := reach qs op (clearReports s)) (reach_agree_of (s := clearReports s) (p := .pwr) (fe.rest .pwr (by simp)))
  have same : exec i s = .next (keepQueue s (settle (reach qs op (clearReports s)))) := by
    rcases e with e | e
    · rw [e, finish_awake h]
    · rw [e, finishWrite_awake h hp]
  refine ⟨_, same, ?_⟩
  have l := left_lift (c := c) (s := s) hq.2.2.1 op
  have x : engCtx (keepQueue s (settle (reach qs op (clearReports s)))) c.eng.val c.lane = engCtx (op (clearReports s)) c.eng.val c.lane := by
    exact congrArg (fun x => ctxOf x c.lane) (engSt_of_eng (by rw [keepQueue_eng, settle_eng, reach_eng _ _ _ hq.2.2.1]) c.eng.val)
  have w (f : Fld) (h1 : f.off = 0x11c) (h2 : f.stride = 0) (h3 : f.acc ≠ .rwd) :
      getF f (engPg c.eng.val) 0 (keepQueue s (settle (reach qs op (clearReports s)))) = getW f (engPg c.eng.val) 0 (op (clearReports s)) := by
    rw [getF_eq h3]
    refine getW_congr ?_
    rw [rdReg_keepQueue, settle_quiet, rdReg_reach _ _ _ hq.1]
    rw [quiet_iff]
    have := c.eng.isLt
    simp only [fldAddr, pageAddr, engPg, h1, h2]
    omega
  refine ⟨⟨by rw [x]; exact tr.1.1, by rw [x]; exact tr.1.2⟩, ⟨?_, ?_, ?_⟩, fun r => ?_, ?_, ⟨?_, ?_, ?_⟩, fun p hp => ?_⟩
  · rw [w _ rfl rfl (by decide), tr.2.1]; exact Nat.mod_eq_of_lt hq.2.2.2
  · rw [w _ rfl rfl (by decide), tr.2.2.1]
  · rw [w _ rfl rfl (by decide), tr.2.2.2]; cases c.lane <;> rfl
  · exact getG_congr (by rw [x, fe.gregs]; rfl) r
  · unfold Raises; rw [Nat.or_zero, x, fe.fstat]; rfl
  · rw [x, fe.pcond]; rfl
  · rw [x, fe.sage]; rfl
  · rw [x, fe.sstat]; rfl
  · have hp' : p ∉ settled := by
      simp only [settled, List.mem_cons, List.not_mem_nil, or_false, not_or] at hp ⊢
      tauto
    exact agree_trans (clearReports_agree p s) (agree_trans (reach_agree_of (fe.rest p hp)) (agree_trans (settle_agree hp' _) (keepQueue_agree p s _)))

/-- An instruction that the next one follows, as its operation and the step to the next word. -/
theorem engRun_after {c : EngAt} {m : EngForm} {s w : State} (h : Executes c m s) {f : Nat → State → EngOut}
    (hf : f (startCycle (engCtx s c.eng.val c.lane) m) (atLane c.lane (startCycle (engCtx s c.eng.val c.lane) m) s) = .go w) :
    engRun c m f s = engAfter c.eng.val c.lane m (pcMod ((engCtx s c.eng.val c.lane).pc + 1)) (startCycle (engCtx s c.eng.val c.lane) m)
      (startCycle (engCtx s c.eng.val c.lane) m + m.cost + eccCycles c.ecc) w := by
  rw [engRun_of h]
  simp only [hf]

/-- What follows a port access that leaves `w`, up to the next command. -/
theorem ported_of {c : EngAt} {m : EngForm} {s w u : State} {pcond : Nat} {qs ps : List Part} {op : State → State}
    (hq : Part.regs ∈ qs ∧ Part.time ∈ qs ∧ Part.eng ∈ qs)
    (hs : ∀ p, p ∉ [Part.regs, .time, .flt, .recd, .eng, .drv] → (p ∈ qs ↔ p ∈ ps))
    (x : engCtx w c.eng.val c.lane = { engCtx u c.eng.val c.lane with pcond := pcond, regs := (engCtx w c.eng.val c.lane).regs })
    (hr : ∀ a, quiet a = true → a / 0x400 ≠ 0x20 + c.eng.val → rdReg w a = rdReg u a)
    (ha : ∀ p, p ∉ [Part.regs, .time, .flt, .recd, .eng, .drv] → agree p u w)
    (ho : op (clearReports s) = engAfter c.eng.val c.lane m (pcMod ((engCtx s c.eng.val c.lane).pc + 1))
      (startCycle (engCtx s c.eng.val c.lane) m) (startCycle (engCtx s c.eng.val c.lane) m + m.cost + eccCycles c.ecc) w) :
    Ported c m ps pcond s u (keepQueue s (settle (reach qs op (clearReports s))))
      ∧ ∀ r, getG (keepQueue s (settle (reach qs op (clearReports s)))) c.eng.val c.lane r = getG w c.eng.val c.lane r := by
  set k := startCycle (engCtx s c.eng.val c.lane) m with hk
  obtain ⟨fl, g⟩ := engAfter_fetched c.eng.val c.lane m (pcMod ((engCtx s c.eng.val c.lane).pc + 1)) k (k + m.cost + eccCycles c.ecc) w
  rw [← ho] at g
  obtain ⟨y, hy⟩ := putCtx_parts c.eng.val c.lane { engCtx w c.eng.val c.lane with
      pc := pcMod ((engCtx s c.eng.val c.lane).pc + 1), used := k + m.cost + eccCycles c.ecc, flight := fl } w
  have gg := g
  rw [hy] at gg
  have xt : engCtx (keepQueue s (settle (reach qs op (clearReports s)))) c.eng.val c.lane = engCtx (op (clearReports s)) c.eng.val c.lane :=
    congrArg (fun x => ctxOf x c.lane) (engSt_of_eng (by rw [keepQueue_eng, settle_eng, reach_eng _ _ _ hq.2.2]) _)
  refine ⟨⟨?_, ?_, ?_, ⟨?_, ?_, ?_⟩, fun a qa pa => ?_, fun p hp => ?_⟩, fun r => ?_⟩
  · rw [xt, g.pc, engCtx_putCtx]
  · rw [xt, g.used, engCtx_putCtx, hk]
  · rw [xt, g.pcond, engCtx_putCtx, x]
  · rw [xt, g.fstat, engCtx_putCtx, x]
  · rw [xt, g.sage, engCtx_putCtx, x]
  · rw [xt, g.sstat, engCtx_putCtx, x]
  · rw [rdReg_keepQueue, settle_quiet qa, rdReg_reach _ _ _ hq.1, gg.regs a qa pa]
    exact hr a qa pa
  · have hp' : p ∉ settled := by
      simp only [settled, List.mem_cons, List.not_mem_nil, or_false, not_or] at hp ⊢
      tauto
    have fin : agree p (reach qs op (clearReports s)) (keepQueue s (settle (reach qs op (clearReports s)))) :=
      agree_trans (settle_agree hp' _) (keepQueue_agree p s _)
    by_cases hm : p ∈ ps
    · rw [if_pos hm]
      refine agree_trans (agree_trans (ha p hp) ?_) fin
      have e : agree p w (op (clearReports s)) := by
        refine agree_trans ?_ (gg.rest p hp)
        cases p <;> first | exact rfl | exact ⟨rfl, rfl, rfl⟩ | exact absurd (by simp) hp
      have hm' := (hs p hp).2 hm
      cases p <;> simp only [agree, reach, List.contains_eq_mem, hm', decide_true, if_true] at e ⊢ <;> exact e
    · rw [if_neg hm]
      exact agree_trans (clearReports_agree p s) (agree_trans (reach_agree (fun h => hm ((hs p hp).1 h)) _) fin)
  · exact getG_congr (by rw [xt, g.gregs, engCtx_putCtx]) r

/-! ### Messages -/

theorem heardNow_of_sent {s : State} (h : s.cyc.sent = []) : heardNow s = [] := by
  unfold heardNow thisCycle
  split
  · exact h
  · rfl

theorem told_settle {s u : State} {page inst kind addr : Nat} (hl : u.flt.outbox.length ≤ 4) (hc : u.cyc.sent = [])
    (hm : ∃ m ∈ u.flt.outbox, m.src = page * 256 + inst ∧ m.kind = kind ∧ m.addr = addr % 65536 ∧ m.tick = s.time.tick) (v : State) :
    Told page inst kind addr s (keepQueue v (settle u)) := by
  obtain ⟨m, hm, h1, h2, h3, h4⟩ := hm
  obtain ⟨e, he, g⟩ := settle_heard u hl (heardNow_of_sent hc) hm
  refine ⟨e, ?_, g.1.trans h1, g.2.1.trans h2, g.2.2.1.trans h3, g.2.2.2.1.trans h4⟩
  rw [keepQueue_flt]
  exact he

/-- Messages that an operation adds behind those that stand, which it does not let the collector take. -/
def Sends (n : Nat) (s t : State) : Prop :=
  (∃ l, t.flt.outbox = s.flt.outbox ++ l ∧ l.length ≤ n) ∧ (s.cyc.sent = [] → t.cyc.sent = [])

theorem Sends.refl (s : State) : Sends 0 s s := ⟨⟨[], by simp, by simp⟩, id⟩
theorem Sends.same {s t : State} (h : t.flt.outbox = s.flt.outbox) (c : t.cyc = s.cyc) : Sends 0 s t :=
  ⟨⟨[], by simp [h], by simp⟩, fun e => by rw [c]; exact e⟩
theorem Sends.raise (p i k a : Nat) (s : State) : Sends 1 s (raise p i k a s) := ⟨⟨[_], rfl, by simp⟩, id⟩
theorem Sends.setF (f : Fld) (p u v : Nat) (s : State) : Sends 0 s (setF f p u v s) := .same rfl rfl
theorem Sends.setIrq (p n : Nat) (s : State) : Sends 0 s (setIrq p n s) := by
  refine ⟨⟨[], by simp [Machine.setIrq], by simp⟩, fun e => ?_⟩
  change (thisCycle (wrReg s _ _)).sent = []
  exact heardNow_of_sent e
theorem Sends.trans {n m : Nat} {s t u : State} (h : Sends n s t) (g : Sends m t u) : Sends (n + m) s u := by
  obtain ⟨⟨l, hl, hn⟩, hc⟩ := h
  obtain ⟨⟨k, hk, hm⟩, gc⟩ := g
  exact ⟨⟨l ++ k, by rw [hk, hl, List.append_assoc], by simp; omega⟩, fun e => gc (hc e)⟩

theorem Sends.weak {n m k : Nat} {s t u : State} (h : Sends n s t) (g : Sends m t u) (hk : n + m ≤ k) : Sends k s u := by
  obtain ⟨⟨l, hl, hn⟩, hc⟩ := h.trans g
  exact ⟨⟨l, hl, by omega⟩, hc⟩

theorem probFail_sends (e cause : Nat) (s : State) : Sends 1 s (probFail e cause s) := by
  unfold probFail
  simp only
  split
  · exact (Sends.refl s).weak (.refl s) (by omega)
  · refine Sends.weak (n := 0) (m := 1) ?_ (.raise ..) (by omega)
    refine Sends.weak (n := 0) (m := 0) ?_ (.setIrq ..) (by omega)
    exact .same rfl rfl

theorem restCtx_sends (e : Nat) (l : Lane) (s : State) : Sends 0 s (restCtx e l s) := by
  unfold restCtx
  obtain ⟨y, hy⟩ := putCtx_parts e l { engCtx s e l with act := false, pass := false, flight := [] } s
  rw [hy]
  cases l <;> exact .same rfl rfl

theorem noteTrap_sends (p lane cause pc : Nat) (s : State) : Sends 0 s (noteTrap p lane cause pc s) := by
  unfold noteTrap incSat
  exact (((Sends.setF ..).trans (.setF ..)).trans (.setF ..)).trans (.setF ..)

theorem engTrap_sends (e : Nat) (l : Lane) (cause pc : Nat) (s : State) : Sends 2 s (engTrap e l cause pc s) := by
  unfold engTrap
  simp only
  have h : Sends 0 s (setIrq (engPg e) 19 (noteTrap (engPg e) (laneNum l) cause pc (restCtx e l s))) := by
    have h1 := (restCtx_sends e l s).trans (noteTrap_sends (engPg e) (laneNum l) cause pc (restCtx e l s))
    exact h1.trans (.setIrq ..)
  exact h.weak ((Sends.raise ..).trans (probFail_sends ..)) (by omega)

theorem fetchCheck_sends (e : Nat) (l : Lane) (s : State) : Sends 2 s (fetchCheck e l s) := by
  have a (k : Nat) : Sends 0 s (atLane l k s) := by
    obtain ⟨x, hx, -⟩ := atLane_parts l k s
    rw [hx]
    exact .same rfl rfl
  have none : Sends 2 s s := (Sends.refl s).weak (.refl s) (by omega)
  unfold fetchCheck
  simp only
  split
  · exact none
  · split
    · exact (a _).weak (engTrap_sends ..) (by omega)
    · split
      · exact none
      · exact (a _).weak (engTrap_sends ..) (by omega)

theorem engAfter_sends (e : Nat) (l : Lane) (m : EngForm) (pc start used : Nat) (s : State) : Sends 2 s (engAfter e l m pc start used s) := by
  unfold engAfter
  simp only
  refine Sends.weak (n := 0) (t := putCtx e l _ s) ?_ (fetchCheck_sends ..) (by omega)
  obtain ⟨y, hy⟩ := putCtx_parts e l { engCtx s e l with pc := pc, used := used, flight := _ } s
  rw [hy]
  exact .same rfl rfl

end Sys2Proof.Machine
end

