-- ==== Sys2Proof/Laws/Lanes.lean ====
section
/-!
SUPPORT. What the start and the end of a lane, a trap and a fetch leave of the other engines, of the registers and of the probation.
-/
namespace Sys2Proof.Machine

theorem CollectOnly.engSt {s t : State} (h : CollectOnly s t) (e : Nat) : engSt t e = engSt s e := by
  obtain ⟨⟨_, _, _, _, rfl⟩, -⟩ := h; rfl

theorem setIrq_eng (p n : Nat) (s : State) : (setIrq p n s).eng = s.eng := rfl
theorem raise_eng (p i k a : Nat) (s : State) : (raise p i k a s).eng = s.eng := rfl

/-- An engine's own page and state change, or what the collector writes. -/
structure OnEng (e : Nat) (s t : State) : Prop where
  engines : ∀ k, k ≠ e → engSt t k = engSt s k
  regs : ∀ a, calm a → a / 0x400 ≠ 0x20 + e → rdReg t a = rdReg s a
  mem : t.mem = s.mem
  force : t.force = s.force
  pwr : t.pwr = s.pwr

theorem OnEng.refl (e : Nat) (s : State) : OnEng e s s := ⟨fun _ _ => rfl, fun _ _ _ => rfl, rfl, rfl, rfl⟩
theorem OnEng.trans {e : Nat} {s t u : State} (h : OnEng e s t) (g : OnEng e t u) : OnEng e s u :=
  ⟨fun k hk => (g.engines k hk).trans (h.engines k hk), fun a c p => (g.regs a c p).trans (h.regs a c p), g.mem.trans h.mem,
    g.force.trans h.force, g.pwr.trans h.pwr⟩
theorem CollectOnly.onEng {s t : State} (h : CollectOnly s t) (e : Nat) : OnEng e s t := by
  obtain ⟨⟨_, _, _, _, rfl⟩, g⟩ := h
  exact ⟨fun _ _ => rfl, fun a c _ => g a c, rfl, rfl, rfl⟩
theorem OnEng.setF (e : Nat) (f : Fld) (hf : f.off < 0x400) (v : Nat) (s : State) : OnEng e s (setF f (engPg e) 0 v s) :=
  ⟨fun _ _ => rfl, fun a _ hp => rdReg_setF_ne _ _ _ _ _ (by simp only [fldAddr, pageAddr, engPg, Nat.mul_zero, Nat.add_zero]; omega), rfl, rfl, rfl⟩
theorem OnEng.putEng (e : Nat) (v : EngState) (s : State) : OnEng e s (putEng e v s) :=
  ⟨fun _ hk => engSt_putEng_ne s v (Ne.symm hk), fun _ _ _ => rfl, rfl, rfl, rfl⟩
theorem OnEng.setIrq (e n : Nat) (s : State) : OnEng e s (setIrq (engPg e) n s) := (setIrq_only ..).onEng e
theorem OnEng.raise (e p i k a : Nat) (s : State) : OnEng e s (raise p i k a s) := (raise_only ..).onEng e
theorem OnEng.putCtx (e : Nat) (l : Lane) (v : EngCtx) (s : State) : OnEng e s (putCtx e l v s) := by
  cases l <;> exact .putEng ..

theorem OnEng.probFail (e cause : Nat) (s : State) : OnEng e s (probFail e cause s) := by
  unfold Machine.probFail
  simp only
  split
  · exact .refl e s
  · refine .trans ?_ (.raise ..)
    refine .trans ?_ (.setIrq ..)
    unfold Machine.setB
    refine .trans ?_ (.setF e _ (by decide) _ _)
    exact (OnEng.putEng ..).trans (.setF e _ (by decide) _ _)

/-- What the deadline count of a tick leaves of its engine: all but the WCET episode and the probation. -/
theorem deadlineCount_eng {e : Nat} (he : e < 16) (n : Nat) (s : State) :
    OnEng e s (deadlineCount e n s)
      ∧ (∃ w p r, engSt (deadlineCount e n s) e = { engSt s e with wcetEp := w, prob := p, ret := r })
      ∧ getW ENG.DLCYC_LAST (engPg e) 0 (deadlineCount e n s) = n % 65536 := by
  have pf (k : Nat) (s : State) : (∃ p r, engSt (probFail e k s) e = { engSt s e with prob := p, ret := r })
      ∧ rdReg (probFail e k s) (pageAddr (engPg e) 0x110) = rdReg s (pageAddr (engPg e) 0x110) := by
    unfold probFail
    simp only
    split
    · exact ⟨⟨_, _, rfl⟩, rfl⟩
    · rename_i q _
      refine ⟨⟨none, some q.dataClr, ?_⟩, ?_⟩
      · rw [engSt_of_eng (s := putEng e { engSt s e with prob := none, ret := some q.dataClr } s) (by unfold setB; rw [raise_eng, setIrq_eng, setF_eng, setF_eng])]
        simp
      · rw [rdReg_raise, rdReg_setIrq_ne _ _ _ (by simp [pageAddr]), rdReg_setB_ne _ _ _ _ _ (by simp [fldAddr, pageAddr, ENG.STAT_PROB]),
          rdReg_setF_ne _ _ _ _ _ (by simp [fldAddr, pageAddr, ENG.PROB_CAUSE])]
        rfl
  have cl : calm (pageAddr (engPg e) 0x110) := by unfold calm engPg pageAddr; omega
  have ra : fldAddr ENG.DLCYC_LAST (engPg e) 0 = pageAddr (engPg e) 0x110 := rfl
  unfold deadlineCount
  extract_lets p s1 s2 x high
  have w1 : getW ENG.DLCYC_LAST p 0 s1 = n % 65536 := getW_setF _ _ _ _ _ (by decide) (by decide)
  have b2 : OnEng e s s2 ∧ engSt s2 e = engSt s e ∧ getW ENG.DLCYC_LAST p 0 s2 = n % 65536 := by
    have b1 : OnEng e s s1 := .setF e _ (by decide) _ _
    have key (c : Prop) [Decidable c] : OnEng e s (if c then setF ENG.DLCYC_MAX p 0 n s1 else s1)
        ∧ engSt (if c then setF ENG.DLCYC_MAX p 0 n s1 else s1) e = engSt s e
        ∧ getW ENG.DLCYC_LAST p 0 (if c then setF ENG.DLCYC_MAX p 0 n s1 else s1) = n % 65536 := by
      split
      · exact ⟨b1.trans (.setF e _ (by decide) _ _), rfl, by rw [getW_setF_beside _ _ (by decide) (by decide) (by decide)]; exact w1⟩
      · exact ⟨b1, rfl, w1⟩
    exact key _
  obtain ⟨b2, x2, w2⟩ := b2
  have keep {t : State} (h : CollectOnly s2 t) : OnEng e s t ∧ (∃ w p r, engSt t e = { engSt s e with wcetEp := w, prob := p, ret := r })
      ∧ getW ENG.DLCYC_LAST p 0 t = n % 65536 :=
    ⟨b2.trans (h.onEng e), ⟨_, _, _, by rw [h.engSt, x2]⟩, by rw [getW_congr (f := ENG.DLCYC_LAST) (p := p) (u := 0) (s := s2) (h.2 _ cl), w2]⟩
  split
  · split
    · obtain ⟨⟨q, r, h⟩, g⟩ := pf 4 (raise p 0x04 kEngWcet (satN 0xFFFF n) (setIrq p 20 (putEng e { x with wcetEp := some (satN 0xFFFF n) } s2)))
      refine ⟨b2.trans ((((OnEng.putEng ..).trans (.setIrq ..)).trans (.raise ..)).trans (.probFail ..)), ⟨some (satN 0xFFFF n), q, r, ?_⟩, ?_⟩
      · rw [h, engSt_of_eng (s := putEng e { x with wcetEp := some (satN 0xFFFF n) } s2) (by rw [raise_eng, setIrq_eng])]
        rw [engSt_putEng, show x = engSt s e from x2]
      · rw [← w2]
        refine getW_congr ?_
        rw [ra, g, rdReg_raise, rdReg_setIrq_ne _ _ _ (by show pageAddr (engPg e) 0x10 ≠ _; simp [pageAddr])]
        rfl
    · exact keep (.refl s2)
  · split
    · exact keep (.refl s2)
    · obtain ⟨c1, c2⟩ := endEp_only p kEngWcet _ (putEng e { x with wcetEp := none } s2)
      refine ⟨(b2.trans (.putEng ..)).trans ((endEp_only ..).onEng e), ⟨none, (engSt s e).prob, (engSt s e).ret, ?_⟩, ?_⟩
      · rw [(endEp_only ..).engSt, engSt_putEng]; rw [show x = engSt s e from x2]
      · rw [← w2]
        exact getW_congr ((c2 _ cl).trans rfl)

theorem probEnded_eng (e : Nat) (s : State) : OnEng e s (probEnded e s) ∧ ∃ p, engSt (probEnded e s) e = { engSt s e with prob := p } := by
  unfold probEnded
  simp only
  split
  · exact ⟨.refl e s, _, rfl⟩
  · exact ⟨.putEng .., _, by rw [engSt_putEng]⟩

/-- What the end of the deadline work leaves. -/
theorem laneEnd_deadline {e : Nat} (he : e < 16) (used : Nat) (s : State) :
    OnEng e s (laneEnd e .deadline used s)
      ∧ (∃ w q r, engSt (laneEnd e .deadline used s) e
        = { engSt s e with dl := ctxEnded used (engSt s e).dl, ended := true, wcetEp := w, prob := q, ret := r })
      ∧ getW ENG.DLCYC_LAST (engPg e) 0 (laneEnd e .deadline used s) = used % 65536 := by
  unfold laneEnd
  simp only
  set s2 := setB ENG.STAT_DL_BUSY (engPg e) 0 false (putEng e { engSt s e with dl := ctxEnded used (engSt s e).dl, ended := true } s) with hs2
  obtain ⟨d1, ⟨w, q, r, d2⟩, d3⟩ := deadlineCount_eng he used (probEnded e s2)
  obtain ⟨p1, ⟨q', p2⟩⟩ := probEnded_eng e s2
  have x2 : engSt s2 e = { engSt s e with dl := ctxEnded used (engSt s e).dl, ended := true } := by
    rw [engSt_of_eng (show s2.eng = (putEng e { engSt s e with dl := ctxEnded used (engSt s e).dl, ended := true } s).eng by rw [hs2]; unfold setB; rw [setF_eng]), engSt_putEng]
  exact ⟨(((OnEng.putEng ..).trans (.setF e _ (by decide) _ _)).trans p1).trans d1, ⟨w, q, r, by rw [d2, p2, x2]⟩, d3⟩

/-- What the end of a background pass leaves. -/
theorem laneEnd_background (e used : Nat) (s : State) :
    OnEng e s (laneEnd e .background used s)
      ∧ (∃ q, engSt (laneEnd e .background used s) e = { engSt s e with bg := ctxEnded used (engSt s e).bg, prob := q })
      ∧ getW ENG.BGCYC_PASSES (engPg e) 0 (laneEnd e .background used s) = (getW ENG.BGCYC_PASSES (engPg e) 0 s + 1) % 65536 := by
  unfold laneEnd
  simp only
  set s2 := incMod ENG.BGCYC_PASSES (engPg e) 0 (setB ENG.STAT_BG_BUSY (engPg e) 0 false
    (putEng e { engSt s e with bg := ctxEnded used (engSt s e).bg } s)) with hs2
  have x1 : engSt s2 e = { engSt s e with bg := ctxEnded used (engSt s e).bg } := by
    rw [engSt_of_eng (show s2.eng = (putEng e { engSt s e with bg := ctxEnded used (engSt s e).bg } s).eng by rw [hs2]; unfold incMod setB; rw [setF_eng, setF_eng]), engSt_putEng]
  have o2 : OnEng e s s2 := ((OnEng.putEng ..).trans (.setF e _ (by decide) _ _)).trans (.setF e _ (by decide) _ _)
  have w2 : getW ENG.BGCYC_PASSES (engPg e) 0 s2 = (getW ENG.BGCYC_PASSES (engPg e) 0 s + 1) % 65536 := by
    rw [hs2]
    unfold incMod
    rw [getW_setF _ _ _ _ _ (by decide) (by decide)]
    unfold setB
    rw [getW_setF_beside _ _ (by decide) (by decide) (by decide)]
    rfl
  split
  · exact ⟨o2, ⟨_, by rw [x1]⟩, w2⟩
  · obtain ⟨p1, ⟨q, p2⟩⟩ := probEnded_eng e s2
    refine ⟨o2.trans p1, ⟨q, by rw [p2, x1]⟩, ?_⟩
    rw [← w2]
    unfold probEnded
    simp only
    split <;> rfl

theorem engSt_setF (f : Fld) (p u v k : Nat) (s : State) : engSt (setF f p u v s) k = engSt s k := engSt_of_eng (setF_eng ..) k
theorem prob_putCtx (e : Nat) (l : Lane) (v : EngCtx) (s : State) : (engSt (putCtx e l v s) e).prob = (engSt s e).prob := by
  unfold putCtx; cases l <;> simp

/-- Off probation, and STAT.PROB as in `s`. -/
def Unprob (e : Nat) (s t : State) : Prop := (engSt t e).prob = none ∧ getW ENG.STAT_PROB (engPg e) 0 t = getW ENG.STAT_PROB (engPg e) 0 s

theorem Unprob.setF {e : Nat} {s t : State} (h : Unprob e s t) (f : Fld) (v : Nat)
    (hn : fldAddr f (engPg e) 0 ≠ fldAddr ENG.STAT_PROB (engPg e) 0) : Unprob e s (setF f (engPg e) 0 v t) :=
  ⟨by rw [engSt_setF]; exact h.1, (getW_congr (f := ENG.STAT_PROB) (p := engPg e) (u := 0) (rdReg_setF_ne _ _ _ _ _ hn)).trans h.2⟩

theorem restCtx_unprob (e : Nat) (l : Lane) (s : State) (h : (engSt s e).prob = none) : Unprob e s (restCtx e l s) := by
  have w (v : EngCtx) : getW ENG.STAT_PROB (engPg e) 0 (putCtx e l v s) = getW ENG.STAT_PROB (engPg e) 0 s := by
    obtain ⟨y, hy⟩ := putCtx_parts e l v s
    rw [hy]; rfl
  unfold restCtx setB
  simp only
  generalize hv : ({ engCtx s e l with act := false, pass := false, flight := [] } : EngCtx) = v
  have p := prob_putCtx e l v s
  have w' := w v
  clear w hv
  generalize putCtx e l v s = t at p w'
  cases l
  · exact ⟨by rw [engSt_setF, p, h], by rw [getW_setF_beside _ _ (by decide) (by decide) (by decide), w']⟩
  · exact ⟨by rw [engSt_setF, p, h], by rw [getW_setF_beside _ _ (by decide) (by decide) (by decide), w']⟩

theorem raise_unprob {e : Nat} {s t : State} (h : Unprob e s t) (p i k a : Nat) : Unprob e s (raise p i k a t) :=
  ⟨h.1, by rw [getW_congr (rdReg_raise ..)]; exact h.2⟩
theorem setIrq_unprob {e : Nat} {s t : State} (h : Unprob e s t) (n : Nat) : Unprob e s (setIrq (engPg e) n t) :=
  ⟨by rw [engSt_of_eng (s := t) (setIrq_eng ..)]; exact h.1,
    by rw [getW_congr (rdReg_setIrq_ne _ _ _ (by simp [fldAddr, pageAddr, ENG.STAT_PROB]))]; exact h.2⟩

theorem engTrap_unprob (e : Nat) (l : Lane) (cause pc : Nat) (s : State) (h : (engSt s e).prob = none) : Unprob e s (engTrap e l cause pc s) := by
  have r := restCtx_unprob e l s h
  unfold engTrap
  simp only
  generalize restCtx e l s = u at r
  have nt : Unprob e s (noteTrap (engPg e) (laneNum l) cause pc u) := by
    unfold noteTrap incSat
    have n (f : Fld) (hf : f.stride = 0 ∧ f.off ≠ ENG.STAT_PROB.off := by decide) : fldAddr f (engPg e) 0 ≠ fldAddr ENG.STAT_PROB (engPg e) 0 := by
      have := hf.2
      simp only [fldAddr, pageAddr, ne_eq, Nat.mul_zero, Nat.add_zero]
      omega
    exact (((r.setF ENG.TRAP_PC _ (n _)).setF ENG.TRAP_LANE _ (n _)).setF ENG.TRAP_CAUSE _ (n _)).setF ENG.TRAP_COUNT _ (n _)
  have w := raise_unprob (setIrq_unprob nt 19) (engPg e) (trapInst cause) kEngTrap (laneNum l * 32768 + pc % 16384)
  generalize raise (engPg e) (trapInst cause) kEngTrap (laneNum l * 32768 + pc % 16384) (setIrq (engPg e) 19 (noteTrap (engPg e) (laneNum l) cause pc u)) = v at w
  unfold probFail
  simp only [w.1]
  exact w

/-- A fetch off probation leaves the probation. -/
theorem fetchCheck_unprob (e : Nat) (l : Lane) (s : State) (h : (engSt s e).prob = none) : Unprob e s (fetchCheck e l s) := by
  have a (k : Nat) : engSt (atLane l k s) e = engSt s e ∧ getW ENG.STAT_PROB (engPg e) 0 (atLane l k s) = getW ENG.STAT_PROB (engPg e) 0 s := by
    refine ⟨engSt_atLane .., ?_⟩
    obtain ⟨y, hy, -⟩ := atLane_parts l k s
    rw [hy]; rfl
  have trap (cause pc k : Nat) : Unprob e s (engTrap e l cause pc (atLane l k s)) := by
    obtain ⟨t1, t2⟩ := engTrap_unprob e l cause pc (atLane l k s) (by rw [(a _).1]; exact h)
    exact ⟨t1, t2.trans (a _).2⟩
  unfold fetchCheck
  simp only
  split
  · exact ⟨h, rfl⟩
  · split
    · exact trap ..
    · split
      · exact ⟨h, rfl⟩
      · exact trap ..

end Sys2Proof.Machine
end

