-- ==== Sys2Proof/Laws/Cutoff.lean ====
section
/-!
SUPPORT. The ends of the lanes of all engines: what starting, resuming, suspending and cutting off contexts leaves of each engine.
-/
namespace Sys2Proof.Machine

/-- What engine `e` sees of two states: its own state, its page and the memory. -/
def SimE (e : Nat) (s t : State) : Prop :=
  engSt t e = engSt s e ∧ (∀ a, quiet a = true → a / 0x400 = 0x20 + e → rdReg t a = rdReg s a) ∧ t.mem = s.mem ∧ t.force = s.force

theorem SimE.refl (e : Nat) (s : State) : SimE e s s := ⟨rfl, fun _ _ _ => rfl, rfl, rfl⟩
theorem SimE.trans {e : Nat} (s t u : State) (h : SimE e s t) (g : SimE e t u) : SimE e s u :=
  ⟨g.1.trans h.1, fun a q p => (g.2.1 a q p).trans (h.2.1 a q p), g.2.2.1.trans h.2.2.1, g.2.2.2.trans h.2.2.2⟩
theorem OnEng.sim {i e : Nat} {s t : State} (h : OnEng i s t) (hi : i ≠ e) : SimE e s t :=
  ⟨h.engines e hi.symm, fun a q p => h.regs a (quiet_calm q) (by omega), h.mem, h.force⟩
theorem Fetched.sim {i e : Nat} {l : Lane} {s t : State} (h : Fetched i l s t) (hi : i ≠ e) : SimE e s t :=
  ⟨h.engines e hi.symm, fun a q p => h.regs a q (by omega), h.rest .mem (by decide), h.rest .force (by decide)⟩
theorem SimE.atPhase (e p c : Nat) (s : State) : SimE e s (atPhase p c s) := by
  unfold Machine.atPhase
  split <;> exact ⟨rfl, fun _ _ _ => rfl, rfl, rfl⟩

theorem SimE.getW {e : Nat} {s t : State} (h : SimE e s t) (f : Fld)
    (hf : f.off < 0x400 ∧ f.off ≠ 0x08 ∧ f.off ≠ 0x10 ∧ f.off ≠ 0x18 ∧ f.off ≠ 0x2C) (he : e < 16) :
    Machine.getW f (engPg e) 0 t = Machine.getW f (engPg e) 0 s := by
  refine getW_congr (h.2.1 _ ?_ ?_)
  · rw [quiet_iff]
    simp only [fldAddr, pageAddr, engPg, Nat.mul_zero, Nat.add_zero]
    omega
  · simp only [fldAddr, pageAddr, engPg, Nat.mul_zero, Nat.add_zero]
    omega

theorem SimE.due {e : Nat} {s t : State} (h : SimE e s t) (he : e < 16) : dlDue t e = dlDue s e ∧ bgDue t e = bgDue s e := by
  unfold dlDue bgDue running getB getF
  rw [h.getW CMN.STAT_RUNNING (by decide) he, h.getW ENG.CFG_DL_EN (by decide) he, h.getW ENG.CFG_BG_EN (by decide) he]
  unfold rdForce
  rw [h.2.2.2]
  exact ⟨rfl, rfl⟩

theorem rdWord_mem {s t : State} (h : t.mem = s.mem) (a : Nat) : rdWord t a = rdWord s a := by unfold rdWord rdByte; rw [h]

theorem SimE.entry {e : Nat} {s t : State} (h : SimE e s t) :
    imgDl (runBank e t) t = imgDl (runBank e s) s ∧ imgBg (runBank e t) t = imgBg (runBank e s) s := by
  unfold imgDl imgBg runBank
  rw [h.1, rdWord_mem h.2.2.1]
  exact ⟨rfl, rfl⟩

theorem OnEng.startDeadline (e : Nat) (s : State) : OnEng e s (startDeadline e s) := by
  unfold Machine.startDeadline setB
  simp only
  split
  · exact (OnEng.putEng ..).trans (.setF e _ (by decide) _ _)
  · exact .refl e s

theorem OnEng.resumeBackground (e : Nat) (s : State) : OnEng e s (resumeBackground e s) := by
  unfold Machine.resumeBackground setB
  simp only
  split
  · exact (OnEng.putEng ..).trans (.setF e _ (by decide) _ _)
  · exact .refl e s

theorem started_putCtx (e : Nat) (l : Lane) (v : EngCtx) (s : State) : (engSt (putCtx e l v s) e).started = (engSt s e).started := by
  unfold putCtx; cases l <;> simp

theorem probFail_started (e c : Nat) (s : State) : (engSt (probFail e c s) e).started = (engSt s e).started := by
  unfold probFail
  simp only
  split
  · rfl
  · rename_i q _
    rw [engSt_of_eng (s := putEng e { engSt s e with prob := none, ret := some q.dataClr } s) (by unfold setB; rw [raise_eng, setIrq_eng, setF_eng, setF_eng])]
    simp

theorem restCtx_started (e : Nat) (l : Lane) (s : State) : (engSt (restCtx e l s) e).started = (engSt s e).started := by
  unfold restCtx setB
  cases l
  · simp only; rw [engSt_setF, started_putCtx]
  · simp only; rw [engSt_setF, started_putCtx]

theorem noteTrap_eng (p l c pc : Nat) (s : State) : (noteTrap p l c pc s).eng = s.eng := by
  unfold noteTrap incSat; rw [setF_eng, setF_eng, setF_eng, setF_eng]
theorem engTrap_started (e : Nat) (l : Lane) (c pc : Nat) (s : State) : (engSt (engTrap e l c pc s) e).started = (engSt s e).started := by
  refine Eq.trans ?_ (restCtx_started e l s)
  have k (a : Nat) (u : State) : (engSt (probFail e 3 (raise (engPg e) (trapInst c) kEngTrap a (setIrq (engPg e) 19 (noteTrap (engPg e) (laneNum l) c pc u)))) e).started = (engSt u e).started := by
    rw [probFail_started]
    exact congrArg EngState.started (engSt_of_eng (by rw [raise_eng, setIrq_eng, noteTrap_eng]) e)
  exact k _ _

theorem fetchCheck_started (e : Nat) (l : Lane) (s : State) : (engSt (fetchCheck e l s) e).started = (engSt s e).started := by
  unfold fetchCheck
  simp only
  split
  · rfl
  · split
    · rw [engTrap_started, engSt_atLane]
    · split
      · rfl
      · rw [engTrap_started, engSt_atLane]

theorem startDeadline_eng {e : Nat} {s : State} (hd : dlDue s e = true) (hs : (engSt s e).started = false) :
    engSt (startDeadline e s) e = { engSt s e with
      started := true
      dl := { (engSt s e).dl with pc := imgDl (runBank e s) s, act := true, pass := true, used := 0, flight := [] } } := by
  unfold startDeadline setB
  simp only [hd, hs, Bool.not_false, Bool.and_self, if_true]
  rw [engSt_setF, engSt_putEng]

theorem resumeBackground_eng {e : Nat} {s : State} (hd : bgDue s e = true) :
    engSt (resumeBackground e s) e = { engSt s e with
      bg := { (engSt s e).bg with
        pc := if (engSt s e).bg.pass then (engSt s e).bg.pc else imgBg (runBank e s) s, act := true, pass := true, used := 0, flight := [] } } := by
  unfold resumeBackground setB
  simp only [hd, if_true]
  rw [engSt_setF, engSt_putEng]

/-- The engines after a command are those that its operation left. -/
theorem finish_engs {ps : List Part} {op : State → State} {s : State} (h : Awake s) (hp : Part.eng ∈ ps) (e : Nat) :
    engSt (finish (reach ps op) s) e = engSt (op (clearReports s)) e := by
  rw [finish_awake h, engSt_of_eng (s := op (clearReports s)) (by rw [keepQueue_eng, settle_eng, reach_eng _ _ _ hp])]

theorem finish_reg {ps : List Part} {op : State → State} {s : State} (h : Awake s) (hp : Part.regs ∈ ps) {a : Nat} (ha : quiet a = true) :
    rdReg (finish (reach ps op) s) a = rdReg (op (clearReports s)) a := by
  rw [finish_awake h, rdReg_keepQueue, settle_quiet ha, rdReg_reach _ _ _ hp]

theorem dueInstant_eng (p : Nat) (d : Bool) (l : List Nat) (s : State) : (dueInstant p d l s).eng = s.eng := by
  unfold dueInstant
  simp only
  generalize hx : (if l ≠ [] then _ else if d = true then _ else s : State) = x
  have xe : x.eng = s.eng := by
    rw [← hx]
    split
    · unfold incSat; rw [setF_eng, setIrq_eng]
    · split
      · split
        · have f (es : List Episode) (s : State) : (es.foldl (fun a e => endEp p e.kind e.addr a) s).eng = s.eng := by
            induction es generalizing s with
            | nil => rfl
            | cons x l ih => rw [List.foldl_cons, ih]; obtain ⟨⟨_, _, _, _, h⟩, -⟩ := endEp_only p x.kind x.addr s; rw [h]
          rw [f]; simp only; rw [setF_eng]
        · simp only; rw [setF_eng]
      · rfl
  split
  · exact xe
  · exact xe

theorem OnEng.dueInstant (e : Nat) (d : Bool) (l : List Nat) (s : State) : OnEng e s (dueInstant (engPg e) d l s) := by
  have time (x : TimeState) (s : State) : OnEng e s { s with time := x } := ⟨fun _ _ => rfl, fun _ _ _ => rfl, rfl, rfl, rfl⟩
  have eps (es : List Episode) (s : State) : OnEng e s (es.foldl (fun a x => endEp (engPg e) x.kind x.addr a) s) :=
    (CollectOnly.fold _ (fun _ _ => endEp_only ..) es s).onEng e
  unfold Machine.dueInstant
  simp only
  generalize hx : (if l ≠ [] then _ else if d = true then _ else s : State) = x
  have xs : OnEng e s x := by
    rw [← hx]
    split
    · exact ((OnEng.setIrq ..).trans (.setF e _ (by decide) _ _)).trans (time _ _)
    · split
      · split
        · exact ((OnEng.setF e _ (by decide) _ _).trans (time _ _)).trans (eps _ _)
        · exact (OnEng.setF e _ (by decide) _ _).trans (time _ _)
      · exact .refl e s
  split
  · exact (xs.trans (time _ _)).trans (.raise ..)
  · exact xs

theorem SimE.stale (e i : Nat) (s : State) : SimE e s (forN 16 (fun k a => stalePub (engSrc i k) a) s) := by
  have f (l : List Nat) (s : State) : SimE e s (l.foldl (fun a k => stalePub (engSrc i k) a) s) := by
    induction l generalizing s with
    | nil => exact .refl e s
    | cons k l ih =>
      rw [List.foldl_cons]
      exact .trans _ _ _ ⟨rfl, fun _ _ _ => rfl, rfl, rfl⟩ (ih _)
  exact f _ s

/-- One engine at the cut-off seen by another. -/
theorem SimE.cutoff {i e : Nat} (hi : i ≠ e) (h16 : i < 16) (s : State) : SimE e s (cutoffEngine i s) := by
  unfold cutoffEngine
  extract_lets p late x d1 s1 s2 s3
  have a1 : OnEng i s s1 := (OnEng.setF i _ (by decide) _ _).trans (.putEng ..)
  have a2 : OnEng i s1 s2 := .dueInstant ..
  have a3 : OnEng i s2 s3 := by
    have key (c : Prop) [Decidable c] : OnEng i s2 (if c then probFail i 2 s2 else s2) := by
      split
      · exact .probFail ..
      · exact .refl ..
    exact key _
  have a := (a1.trans a2).trans a3
  clear_value s3
  split
  · exact .trans _ _ _ ((a.trans (deadlineCount_eng h16 34000 s3).1).sim hi) (.stale ..)
  · exact a.sim hi

theorem probFail_parts (e c : Nat) (s : State) : ∃ p r, engSt (probFail e c s) e = { engSt s e with prob := p, ret := r } := by
  unfold probFail
  simp only
  split
  · exact ⟨_, _, rfl⟩
  · rename_i q _
    refine ⟨none, some q.dataClr, ?_⟩
    rw [engSt_of_eng (s := putEng e { engSt s e with prob := none, ret := some q.dataClr } s) (by unfold setB; rw [raise_eng, setIrq_eng, setF_eng, setF_eng])]
    simp

/-- One engine at the cut-off (R272). -/
theorem cutoffEngine_does {e : Nat} (he : e < 16) (s : State) :
    (engSt (cutoffEngine e s) e).bg = (engSt s e).bg
      ∧ (engSt (cutoffEngine e s) e).dl = { (engSt s e).dl with act := false, pass := false }
      ∧ (dlDue s e = true → (engSt s e).ended = false → getW ENG.DLCYC_LAST (engPg e) 0 (cutoffEngine e s) = 34000) := by
  unfold cutoffEngine
  extract_lets p late x d1 s1 s2 s3
  have x1 : engSt s1 e = { engSt s e with dl := { (engSt s e).dl with act := false, pass := false } } := engSt_putEng ..
  have x2 : engSt s2 e = engSt s1 e := engSt_of_eng (dueInstant_eng ..) e
  have x3 : ∃ p r, engSt s3 e = { engSt s2 e with prob := p, ret := r } := by
    have key (c : Prop) [Decidable c] : ∃ p r, engSt (if c then probFail e 2 s2 else s2) e = { engSt s2 e with prob := p, ret := r } := by
      split
      · exact probFail_parts ..
      · exact ⟨_, _, rfl⟩
    exact key _
  obtain ⟨q, r, x3⟩ := x3
  rw [x2, x1] at x3
  clear_value s3
  obtain ⟨-, ⟨w, q2, r2, x4⟩, g⟩ := deadlineCount_eng he 34000 s3
  have st := SimE.stale e e (deadlineCount e 34000 s3)
  have gg := st.getW ENG.DLCYC_LAST (by decide) he
  refine ⟨?_, ?_, fun hd hn => ?_⟩
  · split
    · rw [st.1, x4, x3]
    · rw [x3]
  · split
    · rw [st.1, x4, x3]
    · rw [x3]
  · have hl : late = true := by show (dlDue s e && !(engSt s e).ended) = true; rw [hd, hn]; rfl
    rw [if_pos hl, gg, g]

end Sys2Proof.Machine
end

