-- ==== Sys2Proof/Tests/Slice0.lean ====
section
/-!
SUPPORT. The modeller's own tests: ill-formed commands that the checks refuse, single commands on small states, and for every statement
that has hypotheses states and operands that meet them.
-/
namespace Sys2Proof.Tests
open Sys2Proof Sys2Proof.Machine
set_option Elab.async false

/-! ### Helpers -/

/-- The device right after reset. -/
def z : State := State.reset

/-- `z` in tick `t`, phase `ph`. -/
def zAt (t ph : Nat) : State := { z with time := { z.time with tick := t, ticks := t, phase := ph } }

/-- A state in which a page runs. -/
def runZ (p : Nat) (s : State) : State := setFF CMN.STAT_RUNNING p 0 1 (setFF CMN.CTRL_RUN p 0 1 s)

/-- A read of the state that a command answers; `d` where it answers none. -/
def after {α : Type} (i : Instr) (s : State) (d : α) (f : State → α) : α :=
  match exec i s with
  | .next t => f t
  | _ => d

/-- `CommandBitsZero`, as it is evaluated. -/
def cmdZero (page off : Nat) (s : State) : Bool :=
  match regAt page off with
  | none => true
  | some d => d.fields.all fun f => decide (f.acc = .wo → bitsOf (rdReg s (pageAddr page off)) f.hi f.lo = 0)

theorem commandBitsZero_of {page off : Nat} {s : State} (h : cmdZero page off s = true) : CommandBitsZero page off s := by
  intro d hd f hf ha
  unfold cmdZero at h
  rw [hd] at h
  exact of_decide_eq_true ((List.all_eq_true.mp h) f hf) ha

/-- Whether a device is awake and a party may write what the OWN of a page governs, LOCK or not. -/
def may (party : Party) (p : Nat) (s : State) : Bool :=
  decide (dormant s = false ∧ bitAt s.pwr.causes 4 = false ∧ pageOff p s = false ∧ partyBarred party (some p) s = false
    ∧ pageOwns p party s = true ∧ locked p s = false)

/-- The same for a unit of a page. -/
def mayUnit (party : Party) (p u : Nat) (s : State) : Bool :=
  decide (dormant s = false ∧ bitAt s.pwr.causes 4 = false ∧ pageOff p s = false ∧ partyBarred party (some p) s = false
    ∧ unitOwns p u party s = true ∧ locked p s = false)

theorem awake_of_may {party : Party} {p : Nat} {s : State} (h : may party p s = true) : Awake s :=
  ⟨(of_decide_eq_true h).1, (of_decide_eq_true h).2.1⟩

theorem mayWrite_of {party : Party} {p : Nat} {s : State} (oper : Bool) (h : may party p s = true) : MayWrite party p oper s :=
  have k := of_decide_eq_true h
  ⟨k.2.2.1, k.2.2.2.1, k.2.2.2.2.1, .inr (.inl k.2.2.2.2.2)⟩

theorem mayWriteUnit_of {party : Party} {p u : Nat} {s : State} (oper : Bool) (h : mayUnit party p u s = true) : MayWriteUnit party p u oper s :=
  have k := of_decide_eq_true h
  ⟨k.2.2.1, k.2.2.2.1, k.2.2.2.2.1, .inr (.inl k.2.2.2.2.2)⟩

/-- Whether a device is awake. -/
def up (s : State) : Bool := decide (dormant s = false ∧ bitAt s.pwr.causes 4 = false)

theorem awake_of {s : State} (h : up s = true) : Awake s := by
  have k := of_decide_eq_true h
  exact k

/-! ### Engines -/

/-- Engine 15, background lane, sound memories. -/
def c0 : EngAt := ⟨15, .background, .corrected 0⟩

/-- A state in which the context of `c` is about to execute the word `w` at word index 5, with g1 = `v`. -/
def engZ (c : EngAt) (w : Nat) (v : Word) : State :=
  let x : EngCtx := { EngCtx.idle with regs := [(1, v)], pc := 5, act := true, pass := true }
  let s := putCtx c.eng.val c.lane x { z with time := { z.time with phase := match c.lane with | .deadline => 40 | .background => 0 } }
  wrWord s (runBank c.eng.val s + 20) (ofN w)

/-- `Executes`, as it is evaluated. -/
def runs (c : EngAt) (m : EngForm) (s : State) : Bool :=
  up s && (engCtx s c.eng.val c.lane).act && laneOpen c.lane s && decide (c.ecc ≠ .program ∧ eccTrap c m = none)
    && matchesRow (fetched c.eng.val (engCtx s c.eng.val c.lane).pc s) m.row
    && decide (startCycle (engCtx s c.eng.val c.lane) m + m.fit + eccCycles c.ecc ≤ laneLen s c.lane)

theorem executes_of {c : EngAt} {m : EngForm} {s : State} (h : runs c m s = true) : Awake s ∧ Executes c m s := by
  simp only [runs, Bool.and_eq_true, decide_eq_true_eq] at h
  obtain ⟨⟨⟨⟨⟨h0, h1⟩, h2⟩, h3⟩, h4⟩, h5⟩ := h
  exact ⟨awake_of h0, ⟨h1, h2, h3, h4, h5⟩⟩

/-- Whether the word of a form, written out, is executed in both lanes. -/
def runsBoth (m : EngForm) : Bool := runs c0 m (engZ c0 m.row.pat 0) && runs ⟨0, .deadline, .corrected 1⟩ m (engZ ⟨0, .deadline, .corrected 1⟩ m.row.pat 0)

/-- Witness: the forms of the register and immediate instructions, with d, a, b and the shift at 31 and the immediate at 0xFFFF. -/
theorem witness_integer_forms :
    (((List.range 16).filter fun n => n ≠ 15).all fun n => runsBoth (formR n 1 31 31 31)) = true
    ∧ ([0x10, 0x11, 0x12, 0x13].all fun n => runsBoth (formRs n 31 31 31)) = true
    ∧ ([0x18, 0x19, 0x1A].all fun n => runsBoth (formR n 2 31 31 31)) = true
    ∧ ([0x1C, 0x1D, 0x1E].all fun n => runsBoth (formR n 34 31 31 31)) = true
    ∧ runsBoth (formR2 0x0F 31 31) = true ∧ runsBoth (formRbs 0x1B 2 31 31 31 31) = true ∧ runsBoth (formRbs 0x1F 34 31 31 31 31) = true
    ∧ ([4, 5].all fun k => [0, 1, 2].all fun n => runsBoth (formI k n 1 31 31 0xFFFF)) = true := by decide +kernel

/-- Witness: the float forms. -/
theorem witness_float_forms :
    ([0, 1, 2, 3, 4, 5, 8, 9, 10].all fun n => runsBoth (formF n 1 true 31 31 31)) = true
    ∧ runsBoth { formF 0x03 1 true 31 31 31 with reads := [31, 31, 31] } = true ∧ runsBoth (formF 0x0C 16 false 31 31 31) = true
    ∧ ([6, 7].all fun n => runsBoth (formF0 n 1 31 31)) = true ∧ runsBoth (formF0 0x0D 16 31 31) = true
    ∧ ([0x10, 0x11, 0x12, 0x13].all fun n => runsBoth (formFc n 31 31)) = true := by decide +kernel

/-- Witness: an instruction that ends with the last cycle of its lane. -/
theorem witness_last_cycle :
    let c : EngAt := ⟨15, .deadline, .corrected 0⟩
    let s := engZ c (formR 0x1C 34 31 31 31).row.pat 0
    runs c (formR 0x1C 34 31 31 31) (putCtx 15 .deadline { engCtx s 15 .deadline with used := laneLen s .deadline - 34 } s) = true := by decide +kernel

/-- Witness: loads and stores at the last aligned address, at the first address beyond, and misaligned ones. -/
theorem witness_memory_forms :
    ([(6, 0), (6, 1), (6, 2), (6, 3), (7, 0)].all fun k => runsBoth (formLd k.1 k.2 31 1 0xFFFF)) = true
    ∧ ([1, 2, 3].all fun k => runsBoth (formSt 7 k 31 1 0xFFFF)) = true
    ∧ (let n (v : Word) := (gOf c0 1 (engZ c0 0 v) + (0xFFFF : BitVec 16).signExtend 32).toNat
       n 0x7FFD = 0x7FFC ∧ n 0x8000 = 0x7FFF ∧ n 0x8001 = 0x8000 ∧ n 0 = 0xFFFFFFFF) := by decide +kernel

/-- Witness: branches, jumps, LOOP, CALL. -/
theorem witness_flow_forms :
    ([8, 9].all fun k => [0, 1, 2, 3].all fun n => [false, true].all fun t => (k = 9 ∧ 1 < n) || runsBoth (formB k n 31 31 0x8000 t)) = true
    ∧ runsBoth { formB 9 2 31 0 0x8000 true with reads := [31], writes := [31] } = true
    ∧ runsBoth { formI 4 3 2 0 31 0 with writes := [] } = true
    ∧ runsBoth ⟨⟨maskAll, encJ 0 0x4000000⟩, [], [], 2, 2, false, false⟩ = true
    ∧ runsBoth ⟨⟨maskAll, encJ 1 0x3FFFFFF⟩, [], [31], 2, 2, false, false⟩ = true := by decide +kernel

/-- Witness: SRR and SRW of every index, NOP, END, CNF, UFLT, PUB, POP, PST, SRD and SRDR. -/
theorem witness_system_forms :
    ((List.range 16).all fun sp => runsBoth (formX maskXds (encX 2 31 0 sp) [] [31] 1) && runsBoth (formX maskXas (encX 3 0 31 sp) [31] [] 1)) = true
    ∧ ([0, 1, 4].all fun n => runsBoth (formX maskX (encX n 0 0 0) [] [] 1)) = true
    ∧ runsBoth (formX maskXa (encX 6 0 31 0) [31] [] 2) = true
    ∧ runsBoth ⟨⟨maskAll, encI 11 2 31 0 15⟩, [31], [], 1, 1, false, false⟩ = true
    ∧ runsBoth (formX maskXd (encX 5 31 0 0) [] [31] 1) = true
    ∧ runsBoth ⟨⟨maskAll, encI 10 2 31 31 0xFFFF⟩, [31, 31], [], 4, 4, false, false⟩ = true
    ∧ runsBoth ⟨⟨maskAll, encI 11 0 31 0 0xFFFF⟩, [], [31], 8, 8, false, false⟩ = true
    ∧ runsBoth ⟨⟨maskAll, encI 11 1 31 31 0⟩, [31], [31], 8, 8, false, false⟩ = true := by decide +kernel
/-- Words written out from the formats of R257 and what they make of g1 in g2, by hand from R261: wraps, saturations, shifts by 32 and more, divisions
by 0. -/
theorem test_integer_results :
    ([(Instr.engAdd c0 2 1 1, 0x00108800, (0x80000001 : Word), (0x00000002 : Word)),
      (Instr.engSub c0 2 0 1, 0x00100810, (0x00000001 : Word), (0xFFFFFFFF : Word)),
      (Instr.engSra c0 2 1 1, 0x00108870, (0xFFFFFFFF : Word), (0xFFFFFFFF : Word)),
      (Instr.engClt c0 2 1 0, 0x00008880, (0x80000000 : Word), (0x00000001 : Word)),
      (Instr.engCltu c0 2 1 0, 0x00008890, (0x80000000 : Word), (0x00000000 : Word)),
      (Instr.engMin c0 2 1 0, 0x000088A0, (0x80000000 : Word), (0x80000000 : Word)),
      (Instr.engAdds c0 2 1 1, 0x001088C0, (0x7FFFFFFF : Word), (0x7FFFFFFF : Word)),
      (Instr.engSubs c0 2 0 1, 0x001008D0, (0x80000000 : Word), (0x7FFFFFFF : Word)),
      (Instr.engCmov c0 2 1 1, 0x001088E0, (0x00000007 : Word), (0x00000007 : Word)),
      (Instr.engClz c0 2 1, 0x000088F0, (0x00010000 : Word), (0x0000000F : Word)),
      (Instr.engSatq c0 2 1 7, 0x0E008930, (0x000000C8 : Word), (0x0000007F : Word)),
      (Instr.engMulh c0 2 1 1, 0x00108990, (0x80000000 : Word), (0x40000000 : Word)),
      (Instr.engMulhu c0 2 1 1, 0x001089A0, (0xFFFFFFFF : Word), (0xFFFFFFFE : Word)),
      (Instr.engQmul c0 2 1 1 16, 0x201089B0, (0xFFFE8000 : Word), (0x00024000 : Word)),
      (Instr.engDiv c0 2 1 0, 0x000089C0, (0xFFFFFFFF : Word), (0x80000000 : Word)),
      (Instr.engDivu c0 2 1 0, 0x000089D0, (0x00000005 : Word), (0xFFFFFFFF : Word)),
      (Instr.engRem c0 2 1 0, 0x000089E0, (0x00000005 : Word), (0x00000005 : Word)),
      (Instr.engQdiv c0 2 1 1 16, 0x201089F0, (0x12345678 : Word), (0x00010000 : Word)),
      (Instr.engAddi c0 2 1 0xFFFF, 0xFFFF0884, (0x00000000 : Word), (0xFFFFFFFF : Word)),
      (Instr.engLhi c0 2 0xABCD, 0xABCD00A4, (0x00000000 : Word), (0xABCD0000 : Word)),
      (Instr.engXori c0 2 1 0xFFFF, 0xFFFF08A5, (0xFFFFFFFF : Word), (0xFFFF0000 : Word)),
      (Instr.engSrr c0 2 8, 0x00800822, (0x00000000 : Word), (0x0000000F : Word))].all fun k => after k.1 (engZ c0 k.2.1 k.2.2.1) false fun t => decide (getG t 15 .background 2 = k.2.2.2)) = true := by
  decide +kernel

/-- The float words of R257 on values whose results are exact, or known: √2 (R262). -/
theorem test_float_results :
    ([(Instr.engFadd c0 2 1 1, 0x00108801, (0x3FC00000 : Word), (0x40400000 : Word)),
      (Instr.engFmac c0 2 1 1, 0x00108831, (0x3FC00000 : Word), (0x40100000 : Word)),
      (Instr.engFmin c0 2 1 0, 0x00008841, (0xBF800000 : Word), (0xBF800000 : Word)),
      (Instr.engFneg c0 2 1, 0x00008871, (0x40000000 : Word), (0xC0000000 : Word)),
      (Instr.engFeq c0 2 1 1, 0x001088A1, (0x7FC00000 : Word), (0x00000000 : Word)),
      (Instr.engFdiv c0 2 1 1, 0x001088C1, (0x40400000 : Word), (0x3F800000 : Word)),
      (Instr.engFsqrt c0 2 1, 0x000088D1, (0x40000000 : Word), (0x3FB504F3 : Word)),
      (Instr.engFcvtsi c0 2 1, 0x00008911, (0xC0400000 : Word), (0xFFFFFFFD : Word)),
      (Instr.engFcvtqs c0 2 1, 0x00008921, (0x00018000 : Word), (0x3FC00000 : Word)),
      (Instr.engFcvtsq c0 2 1, 0x00008931, (0x3FC00000 : Word), (0x00018000 : Word))].all fun k => after k.1 (engZ c0 k.2.1 k.2.2.1) false fun t => decide (getG t 15 .background 2 = k.2.2.2)) = true := by
  decide +kernel

/-- Witness: port and posted accesses at a near and at a far register, at a misaligned address and in the engine's own window. -/
theorem witness_port_accesses :
    ([0x104, 0x4104, 0x106, 0x3E0000 - 0x100000, 0x2FFFFC, 0x300000].all fun v =>
      let s := engZ c0 (encI 10 0 2 1 0) (ofN v)
      let w := engZ c0 (encI 10 1 2 1 0) (ofN v)
      let q := engZ c0 (encI 10 2 2 1 0) (ofN v)
      runs c0 (formPort c0 0 2 1 0 [1] [2] 804 s) s && runs c0 (formPort c0 1 2 1 0 [1, 2] [] 0 w) w
        && runs c0 ⟨⟨maskAll, encI 10 2 2 1 0⟩, [1, 2], [], 4, 4, false, false⟩ q) = true
    ∧ portBad 15 0x104 = false ∧ portBad 15 0x4104 = false ∧ portBad 15 0x106 = true ∧ portBad 15 0x2E0000 = true ∧ portBad 15 0x2FFFFC = true
    ∧ portBad 15 0x300000 = false ∧ bridged 0x104 = false ∧ bridged 0x4104 = true
    ∧ bitAt (contestedWrite ⟨.eng 15, 0x104, 5⟩ [] (engZ c0 (encI 10 1 2 1 0) 0x104)).2.pwr.causes 4 = false
    ∧ (let x := { engSt z 15 with posts := List.replicate 15 ⟨0x4104, 0, false⟩ }
       16 ≤ ({ x with outs := [5] } : EngState).posts.length + 1 ∧ x.posts.length + x.outs.length < 16) := by decide +kernel

/-- Witness: a source whose word is defined and sound, one whose record fails its CRC-8, and one that is not defined. -/
theorem witness_sources :
    srcValid 0x1300 none false = false ∧ srcValid 0x12FF none false = true ∧ (readSrc 0x12FF z).ok = true ∧ srcValid 0 none false = false
    ∧ (readSrc 0x1000 { z with sns := { z.sns with recs := [(0, { SnsRec.none with tick := some 0, crc := 1 })] } }).ok = false := by decide +kernel

/-- Witness: the ends, confirmations and messages of an engine. -/
theorem witness_engine_events :
    let s := engZ c0 (encX 4 0 0 0) 0
    let t := putEng 15 { engSt s 15 with prob := some ⟨0, 1000, true, true⟩ } s
    runs c0 (formX maskX (encX 4 0 0 0) [] [] 1) t = true ∧ usNow (atLane .background 0 t) < 1000
    ∧ (engZ c0 (encX 6 0 1 0) 0).flt.outbox = [] := by decide +kernel

/-- An engine page that runs with both lanes enabled. -/
def lanesZ (ph : Nat) : State := setFF ENG.CFG_DL_EN 0x2F 0 1 (setFF ENG.CFG_BG_EN 0x2F 0 1 (runZ 0x2F (zAt 0 ph)))

/-- Witness: contexts that are due and are not, in both lanes. -/
theorem witness_lanes :
    up (lanesZ 39) = true ∧ dlDue (lanesZ 39) 15 = true ∧ (engSt (lanesZ 39) 15).started = false ∧ (engSt (lanesZ 39) 15).ended = false
    ∧ bgDue (lanesZ 39) 15 = true ∧ (engSt (lanesZ 39) 15).bg.act = false ∧ (lanesZ 40).time.phase = 40 ∧ dlDue z 15 = false ∧ bgDue z 15 = false
    ∧ (engSt (putEng 15 { engSt z 15 with started := true, bg := { EngCtx.idle with act := true } } (lanesZ 0)) 15).started = true := by decide +kernel

/-! ### Time base and alignment -/

/-- Witness: a tide, a long tide, and none. -/
theorem witness_boundaries :
    up z = true ∧ gridTick (zAt 8128 0) % 64 = 0 ∧ gridTick (zAt 8128 0) % 8192 ≠ 0 ∧ gridTick (zAt 8192 0) % 8192 = 0
    ∧ (zAt 8192 0).time.tideDone ≠ some 8192 ∧ (zAt 8192 0).time.longDone ≠ some 8192 ∧ gridTick (zAt 8191 0) % 64 ≠ 0 := by decide +kernel

/-- A device in an alignment state, `t` ticks after its reset. -/
def alignZ (st t : Nat) : State := setFF TICK.SYNC_STAT_STATE tickPg 0 st (zAt t 0)

/-- Witness: the alignment states at the last tick before and at the first tick of each limit. -/
theorem witness_alignment :
    ([0, 1, 2, 3, 4].all fun n => up (alignZ n 64) && decide (alignSt (alignZ n 64) = n)) = true
    ∧ (0 + 8000) / 125 ≤ (alignZ 2 64).time.ticks ∧ ¬ (0 + 8000) / 125 ≤ (alignZ 2 63).time.ticks
    ∧ (alignZ 3 0).time.since + 64 * getF TICK.SYNC_CTRL_HOLD_LIMIT tickPg 0 (setFF TICK.SYNC_CTRL_HOLD_LIMIT tickPg 0 0 (alignZ 3 0)) ≤ 0
    ∧ getF TICK.SYNC_CTRL_ROLE tickPg 0 (setFF TICK.SYNC_CTRL_ROLE tickPg 0 1 (alignZ 0 16)) = 1
    ∧ (let t := 16 + 8 * linkRank z
       max (alignZ 0 t).time.since (((alignZ 0 t).time.lastSync.getD 0) / 125) + 16 + 8 * linkRank (alignZ 0 t) ≤ (alignZ 0 t).time.ticks) := by decide +kernel

/-! ### Common registers -/

/-- Every page that exists. -/
def pages : List Nat := (List.range 64).filter fun p => (pageKind p).isSome

/-- Witness: on every page a party that may write, command bits that are not stored, and a checker that can be armed. -/
theorem witness_common :
    (pages.all fun p => may .sup p z && cmdZero p 8 z && decide (bitsOf (rdReg z (pageAddr p 0x1C)) 31 31 = 0) && !(haltForce z && haltPage p)) = true
    ∧ 1 ∈ pageCheckers 0x10 ∧ alwaysRun 0x10 = false ∧ doubleBuffered 0x10 z = true ∧ doubleBuffered 0x12 z = true ∧ getB CMN.CTRL_RUN 0x10 0 z = false
    ∧ getB ENG.STAT_NOPROG 0x20 0 (setFF ENG.STAT_NOPROG 0x20 0 0 z) = false := by decide +kernel

/-- Witness: owners that are defined, an unlocked page in the host's hands, an open unlock sequence, and a permanent lock. -/
theorem witness_owner_and_lock :
    ownerValid 0 = true ∧ ownerValid 3 = true ∧ ownerValid 4 = false ∧ ownerValid 16 = true ∧ ownerValid 31 = true
    ∧ may .host 0x10 (setFF DEV.BOOT_STEP 0 0 7 z) = true ∧ locked 0x10 (setFF DEV.BOOT_STEP 0 0 7 z) = false
    ∧ 3 * 64 + 0x10 ∈ ({ z with bus := { z.bus with unlock := [208] } } : State).bus.unlock
    ∧ getW CMN.LOCK_PERM 0x10 0 (setFF CMN.LOCK_PERM 0x10 0 1 z) = 1 ∧ getW CMN.LOCK_PERM 0x10 0 z = 0 := by decide +kernel

/-! ### Reads and windows -/

/-- Whether a party may read an address as it stands. -/
def reads (party : Party) (a : Nat) (s : State) : Bool :=
  decide (heldWord party (holdKey a s) s = none) && (decide (0x10000 ≤ a) || !pageOff (a / 0x400) s)

theorem readable_of {party : Party} {a : Nat} {s : State} (h : reads party a s = true) : Readable party a s := by
  simp only [reads, Bool.and_eq_true, Bool.or_eq_true, decide_eq_true_eq, Bool.not_eq_true'] at h
  exact ⟨h.1, fun ha => h.2.resolve_left (by omega)⟩

/-- Witness: every address whose read captures, and every window's data register, may be read by the host right after reset. -/
theorem witness_reads :
    (pages.all fun p => reads .host (pageAddr p 0x28) z) = true
    ∧ ((List.range 48).all fun c => reads .host (pageAddr (snsPage c) (0x280 + 8 * (c % 16))) z) = true
    ∧ ((List.range 8).all fun m => reads .host (pageAddr moiPg (0x200 + 0x20 * m)) z) = true
    ∧ ([0x10, 0x11, 0x12].all fun p => reads .host (pageAddr p 0x304) z && reads .host (pageAddr p 0x3F4) z) = true
    ∧ ([0x300000, 0x33FFE0].all fun a => reads .host a z) = true
    ∧ ([(fltPg, 0x144), (recPg, 0x180), (clkPg, 0x100), (lnkPg, 0x154), (lnkPg, 0x164), (0, 0x104), (tickPg, 0x100), (moiPg, 0x314), (0x18, 0x38C),
        (0x19, 0x38C), (prfPg, 0x304), (ldgPg, 0x204), (fanPg, 0x344), (9, 0x144), (10, 0x144), (lnkPg, 0x144), (nvsPg, 0x104)].all fun a =>
          reads .host (pageAddr a.1 a.2) z) = true := by decide +kernel

/-- Witness: window writes at the first and the last word that takes them, with values that are not refused. -/
theorem witness_window_writes :
    ([0x10, 0x11, 0x12, moiPg, 9, 10, lnkPg, nvsPg, fltPg].all fun p => may .sup p z) = true
    ∧ getB SNS.COEF_ADDR_VIEW 0x12 0 z = false ∧ bitsOf (2 : Word) 1 0 ≠ 3 ∧ 12 ≤ getW SNS.COEF_ADDR_WORD 0x12 0 (setFF SNS.COEF_ADDR_WORD 0x12 0 15 z)
    ∧ getB MOI.TBL_ADDR_VIEW moiPg 0 z = false ∧ getB CMN.STAT_SWAP_PEND moiPg 0 z = false ∧ getW MOI.TBL_ADDR_AREA moiPg 0 (setFF MOI.TBL_ADDR_AREA moiPg 0 2 z) = 2
    ∧ ([0x18, 0x19].all fun l => mayUnit .sup l (lpaWinSlot 0 4095) z && !getB LPA.WIN_ADDR_VIEW l 0 z && !getB CMN.STAT_SWAP_PEND l 0 z
        && decide (getW LPA.WIN_ADDR_AREA l 0 z = 0)) = true
    ∧ gainBad 10 0xFF7FFFFF = false ∧ gainBad 3 0 = false ∧ gainBad 15 0 = false
    ∧ mayUnit .sup prfPg 31 z = true ∧ getW PRF.WIN_ADDR_AREA prfPg 0 z = 0 ∧ paramBad 31 7 0 z = false ∧ paramBad 0 1 1 z = false ∧ paramBad 0 5 0x7FFFFFFF z = false
    ∧ mayUnit .sup ldgPg 3 z = true ∧ getB LDG.WIN_ADDR_VIEW ldgPg 0 z = false ∧ getW LDG.WIN_ADDR_AREA ldgPg 0 (setFF LDG.WIN_ADDR_AREA ldgPg 0 2 z) = 2
    ∧ mayUnit .sup fanPg (fanWinUnit 0 191) z = true ∧ fanWordBad 0 191 0x03E80000 z = false ∧ fanWordBad 1 383 64 z = false ∧ fanWordBad 2 23 0 z = false
    ∧ moBit 9 canTxReqOff 63 z = false ∧ moBit 10 canTxReqOff 0 z = false
    ∧ lnkWin .sup { z with bus := { z.bus with pregs := [(pregKey .sup (pageAddr lnkPg 0x140), 0x103F)] } } = (1, 63)
    ∧ (let at_ (o : Nat) : State := { z with bus := { z.bus with pregs := [(pregKey .sup (pageAddr nvsPg nvsAddrOff), ofN o)] } }
       nvWritable (nvsOffset .sup (at_ slipImg)) .sup (at_ slipImg) = true ∧ nvWritable (nvsOffset .sup (at_ (backImg - 4))) .sup (at_ (backImg - 4)) = true
       ∧ nvWritable (nvsOffset .sup (at_ 0x65FFFC)) .sup (at_ 0x65FFFC) = true ∧ nvWritable (nvsOffset .sup (at_ 0x660000)) .sup (at_ 0x660000) = false)
    ∧ (let w := sevWritten 0x0101 z
       let v := w ||| 0xF0
       bitsOf v 2 0 ≤ 4 ∧ bitsOf w 10 8 ≤ bitsOf v 2 0 ∧ (bitsOf w 11 11 = 1 → bitsOf v 7 7 = 1)) := by decide +kernel

/-- Witness: writes into an engine's window at its program's ends and inside the permitted data words, and into a parcel slot. -/
theorem witness_engine_and_parcel_windows :
    up z = true ∧ partyBarred .sup none z = false ∧ engWinPermits 15 0 .sup z = true ∧ engWinPermits 15 0xFFFC .sup z = true
    ∧ engWinPermits 15 0x17FFC .sup (setFF ENG.DMWIN_FIRST 0x2F 0 0 (setFF ENG.DMWIN_LAST 0x2F 0 8191 z)) = true
    ∧ ([0, 8191].all fun l => decide (colMode (l / 2048) z = 0) && unitOwns ldgPg (l / 2048) .sup z && !locked ldgPg z && parcelOk z l) = true := by decide +kernel

/-! ### Sense and moisture -/

/-- Witness: what the sense pages' engines find: a page that runs and one that does not, a conversion that ends, a dwell at its last tick, clamps,
a landing with its conversion, a tone window, and a readback that has missed twice. -/
theorem witness_sense :
    up z = true ∧ snsOn 0x12 (runZ 0x12 z) = true ∧ snsOn 0x12 z = false
    ∧ (let s := setFF SNS.CH_CFG_EN 0x12 15 1 (runZ 0x12 z)
       chOn 47 s = true ∧ endsAt 47 (nextTick (zAt 2047 0)) { s with time := (zAt 2047 0).time } = true ∧ chOn 46 s = false)
    ∧ (snsBank z 5).clampEp = false
    ∧ (let s := putBank 5 { SnsBank.idle with seq := true, pos := 1 }
        (setFF SNS.BK_MUX_SETTLE 0x12 1 1 (setFF SNS.BK_MUX_CONV 0x12 1 1 (setFF SNS.BK_MUX_MUX_RATE 0x12 1 0 (setFF SNS.BK_MUX_MUX_EN 0x12 1 1 z))))
       (snsBank s 5).seq = true ∧ (snsBank s 5).pos + 1 = dwellLen 5 s)
    ∧ (let x : SnsLand := ⟨47, 15, true, 5, 1, false, 0, 2, false, false⟩
       let s : State := { z with sns := { z.sns with due := [(47, 15)], land := [x] } }
       s.sns.land.find? (fun x => decide (x.ch = 47 ∧ x.pt = 15)) = some x ∧ s.sns.lost.contains (47 * 16 + 15) = false)
    ∧ (zAt 2048 0).time.tick % 2048 = 0 ∧ tabGet (fun _ => 0) z.sns.toneDone 0x10 ≠ (zAt 2048 0).time.ticks + 1
    ∧ getB SNS.CH_DIAG_TONE_EN 0x12 15 (setFF SNS.CH_DIAG_TONE_EN 0x12 15 1 z) = true
    ∧ (rptOut (putRpt 3 ⟨none, none, false, 2⟩ z) 3).miss = 2 := by decide +kernel

/-- Witness: RANGE writes at the last range, and restarts with a bank in mux mode and with none. -/
theorem witness_sense_commands :
    may .sup 0x12 z = true ∧ getB SNS.CH_CFG_AUTO 0x12 15 z = false ∧ (10 : BitVec 4).toNat ≠ (snsCh z 47).range ∧ cmdZero 0x12 8 z = true
    ∧ muxEn 5 (setFF SNS.BK_MUX_MUX_EN 0x12 1 1 z) = true ∧ muxEn 4 z = false ∧ muxEn 5 z = false := by decide +kernel

/-- A moisture period of two ticks that started `a` ticks after reset, with one active point. -/
def perZ (a : Nat) : MoiPeriod := ⟨a, 2, [], 0x80000000 :: List.replicate 31 0, [], []⟩

/-- A device in which moisture channel 7 is `x`. -/
def moiZ (t : Nat) (x : MoiCh) : State := putMoi 7 x (runZ moiPg (zAt t 0))

/-- Witness: what the moisture block's engines find: a period that ended, complete and open sweeps, an evaluation to make, lost lock, a clamp,
and calibrations complete, abandoned and open. -/
theorem witness_moisture :
    let x : MoiCh := { MoiCh.idle with per := some (perZ 0), sweep := true }
    up (moiZ 2 x) = true ∧ periodEnded (moiZ 2 x) 7 = true ∧ (moiCh (moiZ 2 { x with result := some MoiRec.none }) 7).result = some MoiRec.none
    ∧ lastTick (moiZ 1 x) x = true ∧ lastTick (moiZ 0 x) x = false ∧ (moiZ 0 x).moi.unlock = none ∧ (activePoints (perZ 0).prog).length = 1
    ∧ lastTick (moiZ 1 x) { x with sweep := false, done := true } = true
    ∧ ({ z with moi := { z.moi with unlock := some 5 } } : State).moi.unlock.isSome = true ∧ tabGet (fun _ => 0) z.moi.clamp 1 = 0
    ∧ (let k : MoiCal := ⟨7, 1, true, [[(0, 0, 0, true)]]⟩
       k.ch < 8 ∧ k.sweeps ≠ [] ∧ k.navg ≤ k.sweeps.length ∧ (k.sweeps.flatMap id).any (fun r => ptOpen r || ptOver r) = true
       ∧ (({ k with sweeps := [[(0, 5000000, 0, false)]] } : MoiCal).sweeps.flatMap id).any (fun r => ptOpen r || ptOver r) = false
       ∧ ({ k with navg := 2 } : MoiCal).sweeps.length < 2) := by decide +kernel

/-- Witness: a sound, running MOI page with channel 7 enabled and no calibration under way, and one with. -/
theorem witness_calibration :
    let prog (s : State) := setAct moiPg 1 224 0x80000000 s
    let s := runZ moiPg (prog (setAct moiPg 0 0 1 (setAct moiPg 0 1 (ofN 0) z)))
    let s := setFF MOI.CH_CFG_EN moiPg 7 1 s
    may .sup moiPg s = true ∧ s.moi.cal = none ∧ getB CMN.STAT_SWAP_PEND moiPg 0 s = false ∧ running moiPg s = true ∧ getB MOI.CH_CFG_EN moiPg 7 s = true
    ∧ moiBroken false s = none
    ∧ ({ s with moi := { s.moi with cal := some ⟨7, 63, false, []⟩ } } : State).moi.cal.isSome = true := by decide +kernel

/-! ### Loops, profiles, traces and ledgers -/

/-- Witness: loop slots that are due, computed and not, a generator that runs and one that does not, and a landing that asks for no reset. -/
theorem witness_loops :
    let s := setFF LPA.SL_CTRL_MODE 0x19 31 1 (runZ 0x19 z)
    up s = true ∧ slotDue s 63 = true ∧ slotDue s 62 = false
    ∧ (let t : State := { s with lpa := { s.lpa with due := [63] } }
       63 ∈ t.lpa.due ∧ (lpaSlot t 63).out = none ∧ (lpaSlot (putSlot 63 { LpaSlot.idle with out := some 5 } t) 63).out = some 5)
    ∧ bitAt (landing [] ⟨[], [], [], [], []⟩ (clearReports z)).pwr.causes 4 = false
    ∧ genDue (setFF PRF.PG_CTRL_MODE prfPg 31 1 (runZ prfPg z)) 31 = true ∧ genDue z 31 = false
    ∧ (prfGen (putGen 31 { PrfGen.idle with due := true, done := true } z) 31).done = true
    ∧ (prfGen (putGen 31 { PrfGen.idle with due := true } z) 31).done = false := by decide +kernel

/-- Witness: a trace unit at an instant of its own and at none, in each kind of state, with and without samples before the trigger. -/
theorem witness_traces :
    let on (st : Nat) : State := putTrc 3 { TrcUnit.idle with state := st } (setFF TRC.U_CFG_SPH trcPg 3 124 (runZ trcPg (zAt 0 124)))
    up (on 2) = true ∧ may .sup trcPg (on 2) = true
    ∧ (let s := atPhase 124 (phaseLen (on 2) 124 - 1) (on 2)
       samplesNow 124 s 3 = true ∧ samplesNow 123 s 3 = false ∧ (trcUnit (on 2) 3).nc ≠ 0)
    ∧ 123 < (on 2).time.phase ∧ trcQuiet 3 (on 0) = true ∧ trcQuiet 3 (on 4) = true ∧ trcQuiet 3 (on 1) = false ∧ trcQuiet 3 (on 3) = false
    ∧ (trcUnit (on 3) 3).state ≠ 1 ∧ getF TRC.U_PRE_PRE trcPg 3 (setFF TRC.U_PRE_PRE trcPg 3 1 (on 0)) = 1 ∧ getF TRC.U_PRE_PRE trcPg 3 (setFF TRC.U_PRE_PRE trcPg 3 0 (on 0)) = 0
    ∧ may .sup 0x18 z = true ∧ may .sup 0x19 z = true := by decide +kernel

/-- A ledger in tick `t` whose column 3 has a mode and an interval of one long tide. -/
def ledgerZ (t mode : Nat) : State := setAct ldgPg 1 (3 * 32 + 11) 0x00010000 (setFF LDG.COL_CTRL_MODE ldgPg 3 mode (runZ ldgPg (zAt t 0)))

/-- Witness: columns that run, batch columns and idle ones, at the instants of sampling and of an interval's end. -/
theorem witness_ledger :
    up (ledgerZ 8192 1) = true ∧ mayUnit .sup ldgPg 3 (ledgerZ 0 0) = true ∧ colMode 3 (ledgerZ 0 1) = 1 ∧ colMode 3 (ledgerZ 0 2) = 2
    ∧ colMode 3 (ledgerZ 0 0) = 0 ∧ running ldgPg (ledgerZ 0 1) = true ∧ running ldgPg z = false
    ∧ (let x := putPub (cntSrc (bitsOf (colWord 3 6 (ledgerZ 0 1)) 18 16)) ⟨7, some 0, false, 0⟩ (ledgerZ 0 1)
       (getPub (cntSrc (bitsOf (colWord 3 6 x) 18 16)) x).stale = false)
    ∧ (ledgerZ 512 1).time.tick % 512 = 0 ∧ (ledgerZ 512 1).ldg.sampled ≠ 513 ∧ (ledgerZ 513 1).time.tick % 512 ≠ 0 ∧ colOn 3 (ledgerZ 512 0) = false
    ∧ colOn 3 (ledgerZ 8192 1) = true ∧ bitsOf (colWord 3 11 (ledgerZ 8192 1)) 31 16 = 1 ∧ (ledgerZ 8192 1).time.tick / 8192 % 1 = 0
    ∧ ({ z with ldg := { z.ldg with pass := some ⟨0, [], none⟩ } } : State).ldg.pass.isSome = true
    ∧ (let s := setAct ldgPg 1 (3 * 32 + 1) 256 (setAct ldgPg 1 (3 * 32 + 2) 2047 (ledgerZ 0 0))
       colMode 3 s = 0 ∧ getW LDG.COL_CTRL_MODE ldgPg 3 s = 0 ∧ (colWord 3 1 s).toNat ≠ 0 ∧ parcelCount (colWord 3 2 s).toNat (colWord 3 1 s).toNat = 2047) := by
  decide +kernel

/-! ### Engine pages and valves -/

/-- An engine 15 whose shadow bank holds the smallest sound image, written out from R279; its CRC-32 is the model's. -/
def imageZ : State :=
  let s := wrWords z (shadowBank 15 z) [0x554D0001, 64, 0x00080008, 34000, 0, 0, 0, 0]
  wrWord s (shadowBank 15 z + 28) (ofN (crc32 (memBytes s (shadowBank 15 z) 28 ++ memBytes s (shadowBank 15 z + 32) 32)))

/-- Witness: requests, image checks, probations and posted writes of an engine page in each of their cases. -/
theorem witness_engine_pages :
    may .sup 0x2F imageZ = true ∧ cmdZero 0x2F 8 imageZ = true ∧ doubleBuffered 0x2F imageZ = true ∧ (engSt imageZ 15).req = none
    ∧ engSwapCause 15 true imageZ = 0 ∧ engSwapCause 15 true z = 1 ∧ imgCrcOk (shadowBank 15 imageZ) imageZ = true
    ∧ imgCrcOk (shadowBank 15 z) (wrWord z (shadowBank 15 z + 28) 1) = false
    ∧ (let s := putEng 15 { engSt z 15 with req := some ⟨1, true, 0, false⟩, prob := some ⟨0, 1000, true, false⟩, posts := [⟨0x4010, 1, false⟩] } (zAt 8 0)
       (engSt s 15).req = some ⟨1, true, 0, false⟩ ∧ (engSt s 15).prob = some ⟨0, 1000, true, false⟩ ∧ (0 + 1000) / 125 ≤ s.time.ticks
       ∧ bitAt (contestedWrite ⟨.eng 15, 0x4010, 1⟩ [] (putEng 15 { engSt s 15 with posts := [] } (clearReports s))).2.pwr.causes 4 = false)
    ∧ (zAt 7 0).time.ticks < (0 + 1000) / 125 := by decide +kernel

/-- A device in which leg 15 is `x`, in tick 8, on a page that runs with both legs of the pair enabled. -/
def legZ (x : LegState) : State :=
  putLeg 15 x (setFF VLV.LG_CTRL_EN 0x31 6 1 (setFF VLV.LG_CTRL_EN 0x31 7 1 (runZ 0x31 (zAt 8 0))))

/-- Witness: legs that can act, forced legs, legs that are off, and the clears of legs and switches. -/
theorem witness_valve_commands :
    let s := legZ LegState.idle
    mayUnit .sup 0x31 7 s = true ∧ may .sup 0x31 s = true ∧ legForced 15 s = false ∧ stopped 0x31 s = false ∧ legF VLV.LG_CTRL_EN 15 s ≠ 0
    ∧ stopped 0x31 z = true ∧ legF VLV.LG_CTRL_EN 15 z = 0
    ∧ legForced 15 (putScope 8 { Scope.idle with react := true } s) = true
    ∧ cmdZero 0x31 0x1E0 s = true ∧ cmdZero 0x31 0x218 s = true ∧ hsTripped 15 s = false
    ∧ pairCause (getW VLV.PR_CFG_OVL 0x31 3 s) (bitsOf (curWord 0x31 s 6) 25 16) (bitsOf (curWord 0x31 s 6) 9 0) (bitsOf (curWord 0x31 s 7) 25 16)
        (bitsOf (curWord 0x31 s 7) 9 0) = 0 := by decide +kernel

/-- Witness: the start instant of a leg that is idle, and of one in its profile. -/
theorem witness_command_start :
    let s := setFF VLV.PR_CFG_OVL 0x31 3 2 (legZ { LegState.idle with cmd := some ⟨2, 0, 7⟩ })
    let t := legZ { LegState.idle with st := 1, cmd := some ⟨3, 0, 7⟩ }
    dueCmd s 15 = some ⟨2, 0, 7⟩ ∧ dueCmd s (partnerOf 15) = none ∧ (legSt s 15).ownOff = false ∧ (legSt s 15).dutyOff = false ∧ legSafe 15 s = false
    ∧ legF VLV.LG_STAT_DUTY_EP 15 s = 0 ∧ (legSt s 15).wait = none ∧ (legSt s 15).st = 0 ∧ pairF VLV.PR_CFG_OVL 15 s = 2
    ∧ dueCmd t 15 = some ⟨3, 0, 7⟩ ∧ inProfile (legSt t 15) = true ∧ (legSt t 15).endAt = none ∧ dueCmd t (partnerOf 15) = none
    ∧ dueCmd (legZ { LegState.idle with cmd := some ⟨2, 0, 8⟩ }) 15 = none := by decide +kernel

/-- Witness: what happens in a leg, in each state in which it does, at the instants that end its intervals. -/
theorem witness_valve_events :
    let x := LegState.idle
    let ov := setFF VLV.PR_CFG_DMAX 0x31 3 0 (setFF VLV.PR_CFG_OVL 0x31 3 1 (putLeg 14 { x with st := 1 } (legZ { x with wait := some ⟨1, 0, 1000⟩ })))
    up (legZ x) = true ∧ 1000 / 125 ≤ (legZ x).time.ticks ∧ ¬ 1008 / 125 + 1 ≤ (legZ x).time.ticks
    ∧ pullPermitted 15 0 (legZ { x with wait := some ⟨1, 0, 1000⟩ }) = true ∧ pairF VLV.PR_CFG_OVL 15 (legZ x) ≠ 1 ∧ legSafe 15 (legZ x) = false
    ∧ legF VLV.LG_STAT_DUTY_EP 15 (legZ x) = 0
    ∧ pairF VLV.PR_CFG_OVL 15 ov = 1 ∧ inTransition (legSt ov (partnerOf 15)) = true ∧ (1000 + pairF VLV.PR_CFG_DMAX 15 ov) / 125 ≤ ov.time.ticks
    ∧ epActive 0x31 kVlvOvercurrent 15 (legZ x) = false ∧ hsOn 14 (legZ { x with sw := .on }) = true ∧ hsOn 14 (legZ x) = false
    ∧ epActive 0x31 kVlvOvercurrent 0x17 (legZ x) = false ∧ hsTripped 15 (legZ x) = false ∧ inProfile { x with st := 2, chop := true } = true
    ∧ (1000 + legF VLV.LG_DECAY_MIXT 15 (legZ x)) / 125 ≤ 8
    ∧ (let d : LegState := { x with st := 1, ramp := true }
       d.st = 1 ∧ d.ramp = true ∧ 10 + legF VLV.LG_TIME_DIP_TH 15 (legZ d) ≤ 1000)
    ∧ ({ z with drv := { z.drv with loss := some 0 } } : State).drv.loss.isSome = true ∧ z.drv.loss = none ∧ epActive 0 kDevBridgeLoss 0 z = false := by
  decide +kernel

/-! ### Fans, inputs and outputs -/

/-- A device in which fan 11 is `x`, `t` ticks after its reset. -/
def fanZ (t : Nat) (x : FanState) : State := putFan 11 x (zAt t 0)

/-- Witness: fans in their states at the ends of their intervals, doubtful tachometers with and without evidence, and the clears. -/
theorem witness_fans :
    let x := FanState.idle
    up (fanZ 8 x) = true ∧ mayUnit .sup fanPg 11 z = true ∧ cmdZero fanPg (0x100 + 0x20 * 11) z = true
    ∧ ([3, 2].all fun r => decide ((fanSt (fanZ 8 { x with st := 1, due := 1000, retry := r }) 11).due / 125 ≤ 8)) = true
    ∧ (fanSt (fanZ 8 { x with st := 3, due := 1000 }) 11).st = 3 ∧ (fanSt (fanZ 8192 { x with doubt := some 0 }) 11).doubt = some 0
    ∧ (fanZ 8192 x).time.ticks = 0 + 8192 ∧ (fanZ 8191 x).time.ticks < 0 + 8192
    ∧ fanEvidence 11 0 (setFF FAN.CH_EVID_IBAND_LO fanPg 11 0 z) = true ∧ fanEvidence 11 0 (setFF FAN.CH_EVID_IBAND_LO fanPg 11 1 z) = false
    ∧ (fanSt (fanZ 0 { x with st := 4 }) 11).st = 4 ∧ (fanSt (fanZ 0 { x with st := 5 }) 11).st = 5 := by decide +kernel

/-- Witness: raw changes with and without debouncing, the end of a window, edges that a counter takes or not, and a gate. -/
theorem witness_inputs :
    let s := runZ dinPg (zAt 8 0)
    up s = true ∧ dinRaw 31 s ≠ true ∧ running dinPg s = true ∧ getF DIN.IN_CFG_DEB dinPg 31 (setFF DIN.IN_CFG_DEB dinPg 31 0 s) = 0
    ∧ getF DIN.IN_CFG_DEB dinPg 31 (setFF DIN.IN_CFG_DEB dinPg 31 8 s) ≠ 0 ∧ debEnd (putDeb 31 1000 s) 31 / 125 ≤ 8 ∧ debEnd s 31 = 0
    ∧ getF DIN.CNT_CFG_CFILT dinPg 7 s ≤ 65535 ∧ (cntSt s 7).level ≠ true ∧ ((cntSt (putCnt 7 { CntState.idle with level := true } s) 7).level ≠ false)
    ∧ ([0, 1, 2].all fun e => decide (getF DIN.CNT_CFG_EDGE dinPg 7 (setFF DIN.CNT_CFG_EDGE dinPg 7 e s) = e)) = true
    ∧ s.time.tick % 2 ^ getF DIN.CNT_CFG_GATE dinPg 7 (setFF DIN.CNT_CFG_GATE dinPg 7 3 s) = 0 := by decide +kernel

/-- A device in which digital output 23 is `x`, in tick 8. -/
def doZ (x : DoState) : State := putDo 23 x (runZ douPg (zAt 8 0))

/-- Witness: time-proportioning periods and on-times at their ends, trips at the limit time, contrary readbacks, and measured outputs. -/
theorem witness_outputs :
    let x := DoState.idle
    up (doZ x) = true ∧ mayUnit .sup douPg 23 (doZ x) = true ∧ cmdZero douPg (0x100 + 8 * 23) z = true
    ∧ (doSt (doZ { x with mode := 2, next := 8 }) 23).next ≤ 8 ∧ running douPg (doZ x) = true
    ∧ (let y := doSt (doZ { x with mode := 2, tpOn := true, start := 3, onT := 5 }) 23
       y.mode = 2 ∧ y.tpOn = true ∧ y.start + y.onT ≤ 8 ∧ y.onT < getF DOU.CH_CTRL_TPER douPg 23 (setFF DOU.CH_CTRL_TPER douPg 23 6 (doZ x)))
    ∧ getF DOU.ILT_ILT douPg 0 (setFF DOU.ILT_ILT douPg 0 5 z) ≤ 5 ∧ (doSt (doZ { x with trip := true }) 23).trip = true
    ∧ epActive douPg 0 23 z = false ∧ (doSt (doZ { x with out := true }) 23).lim = false ∧ (doSt (doZ { x with rbEp := true }) 23).rbEp = true
    ∧ (let s := putAo 7 { AoState.idle with mode := 1, changed := true } (runZ aouPg z)
       running aouPg s = true ∧ (aoSt s 7).mode ≠ 0 ∧ (aoSt s 7).changed = true)
    ∧ (List.replicate 8 (⟨0, false, false⟩ : AoReading))[7]? ≠ none := by decide +kernel

/-! ### Faults and injections -/

/-- A device in which scope 8 is `x`, `t` ticks after its reset. -/
def scopeZ (t : Nat) (x : Scope) : State := putScope 8 x (zAt t 0)

/-- Witness: quiet windows before and at their ends, recoveries within the limit and at it, clear sequences, injections open, over and not armed, and a
scrub cycle. -/
theorem witness_faults :
    let q : Scope := { Scope.idle with react := true, quiet := some (0, 1000) }
    up (scopeZ 8 q) = true ∧ may .sup fltPg z = true ∧ 0 + 1000 ≤ usNow (scopeZ 8 q) ∧ usNow (scopeZ 7 q) < 0 + 1000
    ∧ recentRecov q 1000 + 1 < getF FLT.RECOV_REC_LIM fltPg 0 (setFF FLT.RECOV_REC_LIM fltPg 0 15 z)
    ∧ getF FLT.RECOV_REC_LIM fltPg 0 (setFF FLT.RECOV_REC_LIM fltPg 0 1 z) ≤ recentRecov q 1000 + 1
    ∧ (8 : BitVec 4).toNat ≤ 8 ∧ (15 : BitVec 4).toNat = 15 ∧ 9 ≤ (14 : BitVec 4).toNat ∧ (14 : BitVec 4).toNat ≤ 14
    ∧ clearable 8 (scopeZ 0 { q with latched := true }) = true ∧ clearable 8 (scopeZ 0 q) = false
    ∧ (let a := setFF CMN.FINJ_ARM 0x10 0 1 z
       injOpen 0x10 a = true ∧ injOpen 0x10 { a with time := { a.time with ticks := 16384 } } = false
       ∧ injOpen 0x10 { a with time := { a.time with ticks := 16383, phase := 124 } } = true ∧ injOpen 0x10 z = false)
    ∧ (zAt 16384 0).flt.scrubStart + 16384 ≤ (zAt 16384 0).time.ticks ∧ (zAt 16383 0).time.ticks < (zAt 16383 0).flt.scrubStart + 16384
    ∧ epActive fltPg kFltSafeIn 0 z = false ∧ ({ z with flt := { z.flt with flash := true } } : State).flt.flash = true := by decide +kernel

/-! ### Recorder, calendar and watch island -/

/-- A recorder with one record waiting, in tick `t`. -/
def recZ (t : Nat) : State := { zAt t 0 with recd := { z.recd with queue := [⟨2, 4, 0, [], 0, 0, 0⟩] } }

/-- Witness: records for both areas, a clear under way and at its end, clear sequences, and an hour that passed. -/
theorem witness_recorder :
    up (recZ 1) = true ∧ may .sup recPg z = true ∧ (recZ 1).recd.clearing.isSome = false ∧ (recZ 1).recd.lastWrite ≠ 2
    ∧ commMode (recZ 1) = true ∧ commMode (setFF DEV.BOOT_STEP 0 0 7 (setFF REC.CTRL_COMM recPg 0 0 (recZ 1))) = false
    ∧ serviceSlot 4 (recZ 1) = some 0 ∧ areaSize 1 = 2048 ∧ areaSize 0 = 24576
    ∧ ({ z with clk := { z.clk with secs := 3600 } } : State).clk.secs / 3600 ≠ z.recd.hourly ∧ z.clk.secs / 3600 = z.recd.hourly
    ∧ (let s : State := { z with recd := { z.recd with clrSeq := [0, 1], clearing := some (0, 24575) } }
       1 ∈ s.recd.clrSeq ∧ 24575 < areaSize 0 ∧ s.recd.clearing.isSome = true)
    ∧ 0 ∉ z.recd.clrSeq ∧ getB REC.STAT_DROP_EP recPg 0 z = false := by decide +kernel

/-- Witness: a clock that may be set, in a device that is awake and in one that is dormant. -/
theorem witness_calendar :
    may .sup clkPg z = true ∧ dormant z = false ∧ dormant { z with pwr := { z.pwr with deep := true } } = true
    ∧ ({ z with clk := { z.clk with secs := 63 } } : State).clk.secs + 1 = 64 := by decide +kernel

/-- Witness: a scan that starts, and intervals before and at their last scan. -/
theorem witness_watch :
    let s := setFF WCH.CFG_EN wchPg 0 1 (setFF WCH.CFG_PERIOD wchPg 0 1 (setFF CLK.STAT_VALID clkPg 0 1 (runZ wchPg
      { z with pwr := { z.pwr with standby := true }, clk := { z.clk with secs := 60 } })))
    let it : WatchInterval := ⟨1, 2, 0, 1, 0, 2, 0, [], [], none, [], []⟩
    getB WCH.CFG_EN wchPg 0 s = true ∧ running wchPg s = true ∧ getB CLK.STAT_VALID clkPg 0 s = true ∧ senseOff s = true ∧ s.wch.scan = none
    ∧ s.clk.secs % (60 * getW WCH.CFG_PERIOD wchPg 0 s) = 0 ∧ s.wch.started ≠ some s.clk.secs
    ∧ it.histN ≤ it.scans ∧ ({ it with scans := 1 } : WatchInterval).scans < 2 := by decide +kernel

/-! ### Host port, CAN and link -/

/-- A host request of one word at an address. -/
def reqZ (rd : Bool) (a : BitVec 24) : HostReq :=
  let q : HostReq := ⟨false, false, 0b10110, a, 0, if rd then [] else [5], 0, .complete⟩
  { q with crc := BitVec.ofNat 16 (crcHost (hostCovered rd q)) }

/-- Witness: a host request without a fault, one of each fault, a reply that is under way, and a silence window at its end. -/
theorem witness_host :
    up z = true ∧ z.hst.busy = false ∧ (reqZ true 0x104).addr.toNat % 4 = 0 ∧ crcHost (hostCovered true (reqZ true 0x104)) = (reqZ true 0x104).crc.toNat
    ∧ crcHost (hostCovered false (reqZ false 0x102)) = (reqZ false 0x102).crc.toNat ∧ (reqZ false 0x102).addr.toNat % 4 ≠ 0
    ∧ crcHost (hostCovered true { reqZ true 0x104 with addr := 0x108 }) ≠ (reqZ true 0x104).crc.toNat
    ∧ (reqZ false 0x104).data.length = 1 ∧ (reqZ true 0x104).data.length ≠ 1 ∧ (reqZ true 0x104).code = 0b10110 ∧ may .host hstPg z = true
    ∧ getB HST.SILSTAT_SILENT hstPg 0 z = false
    ∧ (let s := setFF HST.SIL_EN hstPg 0 1 (setFF HST.SIL_TO hstPg 0 1 (zAt 8 0))
       getB HST.SIL_EN hstPg 0 s = true ∧ (silenceStart s + getF HST.SIL_TO hstPg 0 s * 1000) / 125 = s.time.ticks)
    ∧ epActive hstPg kHstSilence 0 z = false
    ∧ ({ z with hst := { z.hst with busy := true, last := some (1, some [2]) } } : State).hst.last = some (1, some [2]) := by decide +kernel

/-- CAN 1 live, with object 63 enabled as `w0` and `w2` say. -/
def canZ (w0 w2 : Word) : State := putMo 10 63 0 w0 (putMo 10 63 2 w2 (runZ 10 z))

/-- Witness: frames that match the last object and none, remote frames, requests that are refused and not, frames sent, and recoveries. -/
theorem witness_can :
    let f : CanFrame := ⟨false, 0, false, false, false, false, 0, []⟩
    up (canZ 0x80000000 0) = true ∧ may .sup 10 (canZ 0 0) = true ∧ cmdZero 10 8 (canZ 0 0) = true ∧ canLive 10 (canZ 0 0) = true ∧ canLive 10 z = false
    ∧ (List.range 64).find? (fun k => moMatches 10 k f (canZ 0x80000000 0)) = some 63
    ∧ (List.range 64).find? (fun k => moMatches 10 k f (canZ 0 0)) = none
    ∧ moBit 10 canNew 63 (putMoBit 10 canNew 63 true (canZ 0 0)) = true ∧ moBit 10 canNew 63 (canZ 0 0) = false
    ∧ bitsOf (moWord 10 63 1 (putMo 10 63 1 0x40000000 z)) 30 30 = 1 ∧ bitsOf (moWord 10 63 1 z) 30 30 = 0
    ∧ (let s := putMoBit 10 canTxReqOff 63 true (canZ 0xC0000000 0)
       getB CAN.CTRL_MON 10 0 s = false ∧ bitsOf (moWord 10 63 0 s) 31 30 = 3 ∧ moBit 10 canTxReqOff 63 s = true)
    ∧ txBad 10 63 (canZ 0xC0000000 0) = false ∧ txBad 10 63 (canZ 0xC0000000 0x00090000) = true
    ∧ (let s := putCan 10 { CanState.idle with recov := true } (setFF CAN.STAT_ESTATE 10 0 2 z)
       getW CAN.STAT_ESTATE 10 0 s = 2 ∧ (canSt s 10).recov = true ∧ getB CAN.CTRL_ABR 10 0 (setFF CAN.CTRL_ABR 10 0 0 s) = false)
    ∧ getB CAN.CTRL_ONESHOT 10 0 (setFF CAN.CTRL_ONESHOT 10 0 1 z) = true := by decide +kernel

/-- A frame of device 31. -/
def frameZ (typ dest : Byte) (body : List Byte) : LinkFrame :=
  let f : LinkFrame := ⟨1, typ, 31, 30, 1, BitVec.ofNat 16 body.length, 0, 2, dest, 0, body, 0⟩
  { f with lcrc := ofN (frameCrc f) }

/-- Device 1 with both ports up, in tick `t`, in an alignment state. -/
def linkZ (st t : Nat) : State :=
  setFF LNK.CFG_ADDR lnkPg 0 1 ([0x0B, 0x0C].foldl (fun s p => setFF LNK.PSTAT_UP p 0 1 (setFF LNK.PCFG_EN p 0 1 s)) (alignZ st t))

/-- Whether a frame is heard at port 1. -/
def hears (f : LinkFrame) (s : State) : Bool := up s && portUp 1 s && decide (judgeFrame f s = .accepted)

theorem heard_of {f : LinkFrame} {s : State} (h : hears f s = true) : Awake s ∧ Heard 1 f.typ.toNat f s := by
  simp only [hears, Bool.and_eq_true, decide_eq_true_eq] at h
  exact ⟨awake_of h.1.1, h.1.2, rfl, h.2⟩

/-- Witness: a frame of each TYPE is heard, and frames are dropped, counted as duplicates and found in violation. -/
theorem witness_frames :
    let s := linkZ 2 100
    ([(0x01, 12), (0x02, 0), (0x03, 16), (0x20, 8), (0x31, 3), (0x32, 3), (0x33, 20)].all fun e =>
      hears (frameZ (BitVec.ofNat 8 e.1) 255 (List.replicate e.2 0)) s) = true
    ∧ hears (frameZ 0x10 255 [1, 1, 63, 0, 0, 0, 0, 0, 0, 5]) s = true ∧ hears (frameZ 0x21 1 [3, 15, 0, 7]) s = true
    ∧ hears (frameZ 0x22 1 [1, 0, 0, 7, 0, 0, 0, 0, 0, 0, 0, 0, 0, 0, 0, 9]) s = true
    ∧ hears (frameZ 0x30 255 ([0, 9, 0, 0, 0, 0, 1, 0, 0, 0, 0, 2, 1, 0, 0, 0] ++ [0, 0, 1, 4, 0, 0, 0, 5])) s = true
    ∧ hears (frameZ 0x40 255 (1 :: List.replicate 16 0)) s = true
    ∧ judgeFrame { frameZ 0x02 255 [] with lcrc := 0 } s = .violation 3 ∧ judgeFrame (frameZ 0x21 1 [0, 0, 0, 0]) s = .violation 4
    ∧ judgeFrame (frameZ 0x02 255 []) (setFF LNK.CFG_ADDR lnkPg 0 31 { s with lnk := { s.lnk with seq := 5 } }) = .ownFrame
    ∧ judgeFrame (frameZ 0x02 255 []) (setFF LNK.CFG_ADDR lnkPg 0 31 s) = .violation 5
    ∧ judgeFrame (frameZ 0x02 255 []) (putPartner 31 { Partner.none with seq := 1, heard := 100 } s) = .duplicate
    ∧ judgeFrame (frameZ 0x01 255 (List.replicate 12 255)) { s with lnk := { s.lnk with rank := some 5, rankAt := 38 } } = .violation 7
    ∧ judgeFrame (frameZ 0x01 255 (List.replicate 12 255)) { s with lnk := { s.lnk with rank := some 5, rankAt := 37 } } = .accepted
    ∧ (frameZ 0x02 255 []).hops.toNat < 31 ∧ portUp 0 s = true ∧ portUp 1 z = false := by decide +kernel

/-- Witness: a master at its sync tick, ports with a request under way, SYNC frames of a master to follow in each alignment state, and faults to be sent. -/
theorem witness_time_frames :
    alignSt (linkZ 4 8) = 4 ∧ (linkZ 4 8).time.tick % 8 = 0 ∧ (linkZ 4 9).time.tick % 8 ≠ 0 ∧ 1 < z.lnk.pdT1.length
    ∧ nthN ({ z.lnk with pdT1 := [0, 5] } : LnkState).pdT1 1 ≠ 0
    ∧ getF TICK.SYNC_CTRL_ROLE tickPg 0 (setFF TICK.SYNC_CTRL_ROLE tickPg 0 1 z) ≠ 0
    ∧ bodyN (frameZ 0x01 255 (List.replicate 12 0)) 10 2 < linkRank (linkZ 4 0)
    ∧ nearest (syncOffset 1 0 (frameZ 0x01 255 (List.replicate 12 0)) (linkZ 2 0)) 250000 = 0
    ∧ -2000 ≤ syncOffset 1 0 (frameZ 0x01 255 (List.replicate 12 0)) (linkZ 2 0)
    ∧ nearest (syncOffset 1 100000 (frameZ 0x01 255 (List.replicate 12 0)) (linkZ 2 0)) 250000 ≠ 0
    ∧ ({ z with flt := { z.flt with fbOut := [⟨0, 0, 0, 0, 0, 0, 3, 0⟩] } } : State).flt.fbOut.length ≠ 0 ∧ z.lnk.fbSent ≠ some 0
    ∧ bitAt (getF LNK.RFMASK_MASK lnkPg 0 (setFF LNK.RFMASK_MASK lnkPg 0 0x80000000 z)) 31 = true
    ∧ getF LNK.FCFG_RF_MIN lnkPg 0 (setFF LNK.FCFG_RF_MIN lnkPg 0 0 z) ≤ bodyN (frameZ 0x40 255 (1 :: List.replicate 16 0)) 11 1
    ∧ (1 : Nat) ∉ z.lnk.told := by decide +kernel

/-- Witness: cargo that is due and missed, and partners that are lost. -/
theorem witness_cargo :
    let s := putPartner 31 { Partner.none with due := some 100, heard := 1 } (linkZ 2 100)
    cargoMissed s = [31] ∧ 31 ∈ cargoMissed s ∧ 30 ∉ cargoMissed s ∧ cargoMissed (linkZ 2 100) = []
    ∧ (linkZ 2 2).time.tick % (64 * cargoPeriod (linkZ 2 2)) = 2 * linkAddr (linkZ 2 2)
    ∧ (getPub (cargoKey 31 63) (putPub (cargoKey 31 63) ⟨5, some 0, false, 0⟩ s)).tick.isSome = true
    ∧ (let t := setFF LNK.PMASK_MASK lnkPg 0 0x80000000 (setFF LNK.LOST_LOST_T lnkPg 0 0 s)
       bitAt (getF LNK.PMASK_MASK lnkPg 0 t) 31 = true ∧ (partnerAt t 31).lost = false
       ∧ (partnerAt t 31).heard - 1 + 8192 * getF LNK.LOST_LOST_T lnkPg 0 t ≤ t.time.ticks)
    ∧ epActive lnkPg kLnkPartnerLost 31 s = false := by decide +kernel

/-- Witness: digests at their tick, compared ones, queries that are open, answered, refused and timed out. -/
theorem witness_digests :
    let s := linkZ 2 66
    let f := frameZ 0x20 255 [0, 0, 0, 0, 0, 0, 0, 9]
    s.time.tick % 8192 = 64 + 2 * linkAddr s ∧ up s = true ∧ may .sup lnkPg s = true
    ∧ bitAt (getF DIG.CMPMASK_MASK digPg 0 (setFF DIG.CMPMASK_MASK digPg 0 0x80000000 s)) 31 = true ∧ f.state.toNat % 8 = 2 ∧ aligned s = true
    ∧ getW DIG.MM_MASK digPg 0 s = 0 ∧ bodyN f 0 8 ≠ getPair digPg 0x108 s ∧ s.lnk.query = none
    ∧ (let g := frameZ 0x22 1 [1, 0, 0, 7, 0, 0, 0, 0, 0, 0, 0, 0, 0, 0, 0, 9]
       g.dest.toNat = linkAddr s ∧ bodyN g 2 2 = 7 ∧ g.origin.toNat = 31 ∧ bodyN g 4 1 = 0 ∧ bodyN (frameZ 0x22 1 [1, 0, 0, 7, 1, 0]) 4 1 ≠ 0)
    ∧ 0 + 512 ≤ (linkZ 2 512).time.ticks ∧ (linkZ 2 511).time.ticks < 0 + 512 ∧ forMe (frameZ 0x21 1 []) s = true ∧ forMe (frameZ 0x21 2 []) s = false := by
  decide +kernel

/-- A commit of the coordinator with target 31, started at reset. -/
def commitZ (voted : Nat) : Commit := ⟨7, 0, 256, 0x80000000, [(0x104, 5)], voted, none⟩

/-- A coordinator in a state, in tick `t`. -/
def coordZ (st t : Nat) : State :=
  setFF LNK.CMT_STAT_STATE lnkPg 0 st { linkZ 2 t with lnk := { z.lnk with commit := some (commitZ 0) } }

/-- Witness: starts that may be made and not, votes that complete, DONE frames that complete, and limits at their ticks. -/
theorem witness_coordinator :
    let s := setFF LNK.CMT_NW_NW lnkPg 0 32 (setFF LNK.CMT_ARM_LO_ARM lnkPg 0 356 (linkZ 2 100))
    may .sup lnkPg s = true ∧ aligned s = true ∧ s.time.tick + 256 ≤ armTick s ∧ getW LNK.CMT_NW_NW lnkPg 0 s = 32 ∧ cmtBusy s = false
    ∧ cmtBusy (coordZ 1 0) = true ∧ cmtState (coordZ 1 0) = 1
    ∧ ((coordZ 1 56).time.ticks - 0) % 8 = 0 ∧ (coordZ 1 56).time.ticks - 0 < 64 ∧ (coordZ 1 57).time.ticks % 8 ≠ 0 ∧ 64 ≤ (coordZ 1 64).time.ticks - 0
    ∧ hears (frameZ 0x31 1 [0, 7, 0]) (coordZ 1 8) = true ∧ forMe (frameZ 0x31 1 [0, 7, 0]) (coordZ 1 8) = true ∧ bodyN (frameZ 0x31 1 [0, 7, 0]) 0 2 = 7
    ∧ bitAt (commitZ 0).targets 31 = true ∧ bodyN (frameZ 0x31 1 [0, 7, 0]) 2 1 = 0 ∧ putBit 0 31 true = (commitZ 0).targets
    ∧ putBit 0 31 true ≠ ({ commitZ 0 with targets := 0xC0000000 } : Commit).targets
    ∧ hears (frameZ 0x33 1 ([0, 7] ++ List.replicate 18 0)) (coordZ 2 8) = true ∧ bitAt (commitZ 0).targets 1 = false
    ∧ bodyN (frameZ 0x33 1 ([0, 7, 1] ++ List.replicate 17 0)) 2 1 ≠ 0
    ∧ (coordZ 2 383).time.tick < (commitZ 0).arm + 128 ∧ (commitZ 0).arm + 128 ≤ (coordZ 2 384).time.tick := by decide +kernel

/-- A target that holds a commit of device 31 for tick 256, in a state, in tick `t`. -/
def targetZ (st align t : Nat) : State :=
  setFF LNK.TGT_STAT_STATE lnkPg 0 st { linkZ align t with lnk := { z.lnk with target := some ⟨7, 31, 256, [(0x104, 5)], [], 0, none⟩ } }

/-- Witness: PREPARE frames that get each kind of vote, DECIDE frames before tick A - 64, and the ticks A - 64 and A. -/
theorem witness_target :
    let body (arm : Byte) (mask : Byte) : List Byte := [0, 7, 0, 0, 0, 0, arm, 0, 0, 0, 0, mask, 1, 0, 0, 0] ++ [0, 0, 1, 4, 0, 0, 0, 5]
    hears (frameZ 0x30 255 (body 1 2)) (linkZ 2 128) = true
    ∧ bitAt (bodyN (frameZ 0x30 255 (body 1 2)) 8 4) 1 = true ∧ bitAt (bodyN (frameZ 0x30 255 (body 1 1)) 8 4) 1 = false
    ∧ voteOn 256 1 (prepareWrites (frameZ 0x30 255 (body 1 2))) (linkZ 2 128) = 0 ∧ voteOn 256 1 [] (linkZ 2 129) = 2
    ∧ voteOn 256 1 [] (linkZ 0 128) = 1 ∧ voteOn (128 + 8388609) 1 [] (linkZ 2 128) = 3 ∧ voteOn 256 0 [] (linkZ 2 128) = 5 ∧ voteOn 256 33 [] (linkZ 4 128) = 5
    ∧ voteOn 256 1 [] (targetZ 1 2 128) = 4
    ∧ hears (frameZ 0x32 1 [0, 7, 1]) (targetZ 1 2 191) = true ∧ (targetZ 1 2 191).time.tick + 64 < 256 ∧ tgtState (targetZ 1 2 191) = 1
    ∧ 256 ≤ (targetZ 1 2 192).time.tick + 64 ∧ tgtState (targetZ 2 2 256) = 2 ∧ aligned (targetZ 2 3 256) = false ∧ (targetZ 2 2 255).time.tick < 256
    ∧ (let t := targetZ 2 2 256
       (commitWrites [(0x104, 5)] [] [] (atPhase 42 0 (clearReports t))).2.lnk.target = some ⟨7, 31, 256, [(0x104, 5)], [], 0, none⟩)
    ∧ (linkZ 2 100).lnk.target = none := by decide +kernel

/-! ### NV store, supervisor and digests -/

/-- The word of an NV offset. -/
def nvZ (off : Nat) (v : Word) (s : State) : State := wrWord s (nvBase + off) v

/-- Witness: commands that are fit and not, ends that wait, fail and succeed. -/
theorem witness_nvs :
    let runs (c : NvsCmd) : State := { z with nvs := { z.nvs with cmd := some c } }
    may .sup nvsPg z = true ∧ z.nvs.cmd = none ∧ getB NVS.STAT_SUPSTART nvsPg 0 z = false ∧ inRecovery z = false
    ∧ inRecovery (setFF DEV.BOOT_NOIMG 0 0 1 z) = true ∧ slipState (nvZ (stateBlock + 0x8C) 2 z) = 2 ∧ slipState (nvZ (stateBlock + 0x8C) 3 z) = 3
    ∧ (let s := setFF ENG.STAT_NOPROG 0x2F 0 0 z
       getB ENG.STAT_NOPROG (engPg 15) 0 s = false ∧ (engSt s 15).req = none ∧ (engSt s 15).prob = none ∧ (engSt s 15).ret = none ∧ regionState runImg s ≠ 1)
    ∧ keyProgrammed 1 z = false ∧ keyProgrammed 1 (nvZ (stateBlock + 0x84) 2 z) = true
    ∧ onProbation { z with nvs := { z.nvs with prob := some (0, 1) } } = true
    ∧ (runs ⟨4, 0, none⟩).nvs.cmd = some ⟨4, 0, none⟩ ∧ ({ z.nvs with ask := some 0 } : NvsState).ask.isSome = true
    ∧ (runs ⟨5, 15, some [1]⟩).nvs.cmd = some ⟨5, 15, some [1]⟩ := by decide +kernel

/-- Witness: pages with and without a shadow copy, and a digest disturbed and not. -/
theorem witness_shadow_digest :
    may .sup digPg z = true ∧ z.dig.shd = none ∧ shadowable 0x2F = true ∧ shadowable 0x00 = false
    ∧ ([true, false].all fun d => decide ((some (⟨0x10, 5, d⟩ : ShadowDigest)).isSome)) = true := by decide +kernel

/-! ### Power, start-up and bus -/

/-- Witness: devices that are in DEEP, held, waiting for the debug release, at step 6 and with DEV_DBG.EN = 1; mode requests that may be made; and a
wake alarm that is due. -/
theorem witness_power :
    let deep : State := { z with pwr := { z.pwr with deep := true, alarm := some 0 } }
    may .sup 0 z = true ∧ may .host 0 (setFF DEV.BOOT_STEP 0 0 7 z) = true ∧ may .sup pwrPg z = true ∧ dormant deep = true
    ∧ Party.host.code ∈ ({ z.pwr with swrst := [3] } : PwrState).swrst ∧ Party.host.code ∉ z.pwr.swrst
    ∧ getW DEV.BOOT_STEP 0 0 z = 0 ∧ z.pwr.deep = false ∧ ({ z.pwr with debugWait := true } : PwrState).debugWait = true
    ∧ getW DEV.BOOT_STEP 0 0 (setFF DEV.BOOT_STEP 0 0 6 z) = 6 ∧ getB DEV.DBG_EN 0 0 (setFF DEV.DBG_EN 0 0 1 z) = true ∧ getB DEV.DBG_EN 0 0 z = false
    ∧ ([0, 1, 2].all fun m => decide (pwrMode (setFF PWR.STAT_MODE pwrPg 0 m z) = m)) = true ∧ z.pwr.req = none ∧ getB NVS.STAT_BUSY nvsPg 0 z = false
    ∧ ({ z.pwr with req := some (3, 0), begun := true } : PwrState).begun = true ∧ z.recd.queue = [] ∧ z.recd.inbox = [] ∧ z.nvs.cmd = none
    ∧ deep.pwr.alarm = some 0 ∧ 0 ≤ deep.clk.secs ∧ getB PWR.STAT_VF_OV pwrPg 0 z = false := by decide +kernel

/-- A bridge frame with its CRC right and sequence number `n`. -/
def bridgeZ (n : Byte) : BridgeFrameIn :=
  ⟨1, 0x104, 5, n, BitVec.ofNat 16 (crcBridge ([1] ++ bytesOf 2 0x104 ++ bytesOf 4 5 ++ [n.toNat])), .other⟩

/-- Witness: addresses of no register at the ends of each gap, a page without power, a party without right, two that meet, and bridge frames right, wrong
once and wrong twice. -/
theorem witness_bus :
    (0x105 % 4 ≠ 0) ∧ pageKind (0xFFFC / 0x400) = none ∧ regAt 0 0x3FC = none ∧ pageOff 0 z = false
    ∧ pageOff 0x10 { z with pwr := { z.pwr with standby := true } } = true
    ∧ may .sup 0x10 z = true ∧ may .flt 0x10 z = true ∧ Party.sup.rank < Party.flt.rank ∧ pageOwns 0x10 .link z = false
    ∧ (match regAt 0x10 0x14 with
       | some d => d.fields.any fun g => decide (bitsOf (rdReg z (pageAddr 0x10 0x14)) g.hi g.lo ≠ bitsOf (0xFFFFFFFF : Word) g.hi g.lo)
       | none => false) = true
    ∧ (regAt 0x10 0x10).isSome = true
    ∧ bridgeOk (bridgeZ 0) = true ∧ bridgeOk { bridgeZ 0 with crc := 0 } = false ∧ (bridgeZ 255).seq.toNat ≠ BridgeRx.fresh.seq
    ∧ ({ BridgeRx.fresh with again := true } : BridgeRx).again = true ∧ z.pwr.standby = false ∧ may .sup tickPg z = true := by decide +kernel

/-- Witness: a cycle within a phase, and the last cycle of a phase but the last. -/
theorem witness_idle_step :
    (zAt 0 123).time.cycle + 1 < phaseLen z 123
    ∧ ¬ (({ zAt 0 123 with time := { (zAt 0 123).time with cycle := phaseLen z 123 - 1 } } : State).time.cycle + 1 < phaseLen z 123) := by
  decide +kernel

/-! ### Single commands -/

/-- SUP stops and starts a page, the host may not before step 7, and a write to no register has an address error (R27, R480, R21). -/
theorem test_register_commands :
    after (.runControl .sup ⟨0x10, by decide⟩ true) z false (fun t => getB CMN.CTRL_RUN 0x10 0 t && !running 0x10 t) = true
    ∧ after (.runControl .host ⟨0x10, by decide⟩ true) z false (fun t => decide (t.bus.reports = [⟨.host, 0x4008, .refused⟩])) = true
    ∧ after (.registerWrite [⟨.sup, 0x10000, 5⟩]) z false (fun t => decide (t.bus.reports = [⟨.sup, 0x10000, .addrErr⟩])) = true := by decide +kernel

/-- The identification code of the test access port (R498). -/
theorem test_identification : after .jtagIdcode z false (fun t => decide (t.tap.dr = 0x248164EB)) = true := by decide +kernel

/-- The commands of a queue are carried out from its front. -/
theorem test_queue :
    (match step { z with pending := [.jtagIdcode, .jtagBypass] } with
     | .next t => decide (t.tap.ir = .idcode ∧ t.pending = [.jtagBypass])
     | _ => false) = true := by decide +kernel

/-! ### Ill-formed commands -/

/-- What a slice sees in a frame, as it must be. -/
def sliceOk : SliceIn := ⟨List.replicate 250 0, List.replicate 250 0, some 124, none, false, false, 0, 0, false⟩

/-- A sense frame as it must be. -/
def senseOk : SenseIn :=
  ⟨List.replicate 16 sliceOk, [2500000, 2500000], [2500000, 2500000], [0, 0], List.replicate 8 false⟩

/-- A frame whose body is longer than a frame can carry. -/
def frameBad : LinkFrame := frameZ 0x02 255 (List.replicate 1501 0)

/-- For each check a command that it refuses. -/
theorem test_ill_formed :
    ([.registerWrite [⟨.sup, 0x101, 0⟩], .registerWrite [⟨.sup, 16777216, 0⟩], .registerWrite [⟨.sup, 0x104, 0⟩, ⟨.sup, 0x108, 0⟩],
      .landing [] ⟨[], [], [], [], []⟩, .landing [⟨.sup, 1, 0⟩] ⟨List.replicate 16 0, List.replicate 8 0, List.replicate 24 0, List.replicate 24 false,
        List.replicate 12 0⟩,
      .engSt c0 0 0 0 [⟨.sup, 1, 0⟩], .engSth c0 0 0 0 [⟨.sup, 1, 0⟩], .engStb c0 0 0 0 [⟨.sup, 1, 0⟩], .engPwr c0 0 0 0 0 [⟨.sup, 1, 0⟩],
      .postedWriteOutcome 0 [⟨.sup, 1, 0⟩], .commitApply [[⟨.sup, 1, 0⟩]], .senseFrame 0 { senseOk with cj := [0] }, .senseFrame 0 { senseOk with refNeg := [] },
      .senseFrame 0 { senseOk with slices := senseOk.slices.map fun x => { x with ovlPos := some 125 } },
      .senseFrame 0 { senseOk with slices := senseOk.slices.map fun x => { x with ovlNeg := some 125 } },
      .senseFrame 0 { senseOk with slices := senseOk.slices.map fun x => { x with pos := [] } },
      .moiSweepComplete 0 (List.replicate 17 ⟨0, 0, false⟩), .loopArrayPass [(0, 1), (0, 2)], .profileStep [(0, 1), (0, 2)], .commandStart [],
      .armatureDip 0 0 1 2 0, .tachEdge 0 (some 0), .aoReadbackMeasure [], .faultMessage [], .faultMessage [⟨64, 0, 0, 0, 0⟩],
      .watchScanEnd [⟨8, 0, [], 0⟩], .watchScanEnd [⟨0, 0, [⟨{ sliceOk with neg := [] }, false, false⟩], 0⟩],
      .hostWriteFrame { reqZ false 0 with data := List.replicate 65 0 } [], .hostWriteFrame (reqZ false 0) [[⟨.sup, 1, 0⟩]],
      .hostReadFrame { reqZ true 0 with data := List.replicate 65 0 }, .canFrameReceive 0 ⟨false, 0, false, false, false, false, 0, List.replicate 9 0⟩,
      .canFrameReceive 0 ⟨false, 0, false, true, false, false, 0, List.replicate 65 0⟩, .engineWindowWrite .sup 0 2 0, .jtagDebugAccess 2 none,
      .syncReceive 0 frameBad 0 0, .pdreqReceive 0 frameBad 0 0, .pdrespReceive 0 frameBad 0, .cargoReceive 0 frameBad, .digestReceive 0 frameBad,
      .dqueryReceive 0 frameBad, .dreplyReceive 0 frameBad, .prepareReceive 0 frameBad, .voteReceive 0 frameBad, .decideReceive 0 frameBad,
      .doneReceive 0 frameBad, .faultFrameReceive 0 frameBad, .linkFrameDiscard 0 true linkType frameBad] : List Instr).all (fun i => !i.wf) = true := by
  decide +kernel

/-- Commands that the same checks accept, at the ends of their ranges. -/
theorem test_well_formed :
    ([.registerWrite [⟨.sup, 0xFFFFFC, 0⟩, ⟨.host, 0, 0⟩], .senseFrame 0 senseOk, .moiSweepComplete 0 (List.replicate 16 ⟨0, 0, false⟩),
      .loopArrayPass [(0, 1), (63, 2)], .commandStart (List.replicate 16 0), .armatureDip 0 0 2 2 0, .tachEdge 0 (some 1), .tachEdge 0 none,
      .faultMessage [⟨63, 255, 65535, 65535, 124⟩], .watchScanEnd [⟨7, 15, [⟨sliceOk, true, true⟩], 0⟩],
      .hostWriteFrame (reqZ false 0) [[⟨.sup, 0x104, 0⟩]], .hostReadFrame (reqZ true 0x104),
      .canFrameReceive 0 ⟨false, 0, false, true, false, false, 15, List.replicate 64 0⟩, .engineWindowWrite .sup 15 0x1FFFC 0,
      .linkFrameDiscard 1 true linkType (frameZ 0x02 255 (List.replicate 1500 0))] : List Instr).all Instr.wf = true := by
  decide +kernel

/-! ### A supervisor image that the checks accept -/

/-- A supervisor image of one firmware word, signed for key slot 1 outside the model (SHA-256 and ECDSA on P-256 as R444 names them), with SVN 1 and
PROB_TO 3600. -/
def supImage : List Word :=
  [0x53570001, 0x00000004, 0x00000000, 0x00000001, 0x00000001, 0x00000000, 0x00000E10, 0x00000000, 0x75F7796D, 0xF1319CF6, 0xE0117659, 0x5703F352,
   0xB33067F4, 0x14309BFD, 0x77CB7684, 0xA682992C, 0x84C02A9F, 0xF288E2D9, 0xC5CE5DF1, 0x26519417, 0xE7268CBA, 0xAB72DA7C, 0xFE40F93A, 0xCB86AD02,
   0x8FC539F8, 0x68485CF7, 0x8DD0C15C, 0x6136A09B, 0x9FAF4311, 0x49438FF1, 0x2BF45B70, 0x494909B7]

/-- The public key of that signature, X then Y. -/
def supKey : List Word :=
  [0x088BB9FF, 0x22AB291A, 0x74C86FC6, 0x77BA897B, 0xAADEE370, 0xCC6129B8, 0x2D170BA3, 0xFC26415C, 0x442DA9A7, 0x16067956,
    0xD91EAA02, 0xB93AD409, 0x490E87CD, 0x5E758EA6, 0xA331A1DE, 0xB75BA846]

/-- A device whose customer key is programmed, with that image in a region whose STATE is `st`. -/
def supZ (base st : Nat) : State :=
  let s := wrWords z (nvBase + stateBlock + 0x40) supKey
  let s := nvZ (stateBlock + 0x84) 2 (nvZ (base + 0x1000) 0x574F4F44 (wrWords s (nvBase + base) supImage))
  nvZ (base + 0xF00) (ofN st) s

/-- Words as one number, the first most significant. -/
def wordsNat (l : List Word) : Nat := l.foldl (fun a w => a * 4294967296 + w.toNat) 0

theorem test_firmware_digest : wordsNat ((supImage.drop 8).take 8) = sha256 [0x574F4F44] := by decide +kernel

theorem test_signature : ecdsaValid (wordsNat (supKey.take 8)) (wordsNat (supKey.drop 8)) (sha256 (supImage.take 16))
    (wordsNat ((supImage.drop 16).take 8)) (wordsNat (supImage.drop 24)) = true := by decide +kernel

/-- A byte at an address that no cell holds reads as fresh memory. -/
theorem rdByte_fresh (s : State) (lo hi a : Nat) (h : s.mem.all (fun c => decide (c.1 < lo ∨ hi ≤ c.1)) = true) (h1 : lo ≤ a) (h2 : a < hi) :
    rdByte s a = 0 := by
  unfold rdByte
  generalize s.mem = m at h
  induction m with
  | nil => rfl
  | cons c t ih =>
    simp only [List.all_cons, Bool.and_eq_true, decide_eq_true_eq] at h
    unfold tabGet
    rw [if_neg (by omega)]
    exact ih h.2

/-- Words of the NV store in which no cell lies read 0. -/
theorem words_fresh (off n : Nat) (s : State) (hb : off + 4 * n ≤ 0x660000)
    (h : s.mem.all (fun c => decide (c.1 < nvBase + off ∨ nvBase + off + 4 * n ≤ c.1)) = true) :
    ((nvWords off n s).all fun v => decide (v = 0)) = true := by
  simp only [List.all_eq_true, nvWords, List.mem_map, List.mem_range, decide_eq_true_eq]
  rintro v ⟨i, hi, rfl⟩
  unfold nvWord
  rw [if_pos (by omega)]
  have r (k : Nat) (hk : k < 4) : rdByte s (nvBase + (off + 4 * i) + k) = 0 := rdByte_fresh s _ _ _ h (by omega) (by omega)
  have r0 : rdByte s (nvBase + (off + 4 * i)) = 0 := r 0 (by omega)
  unfold rdWord
  rw [r0, r 1 (by omega), r 2 (by omega), r 3 (by omega)]
  rfl

/-- What `imageCause` reads of an image that is `supImage`, signed by the customer's key. -/
def SupHeld (base : Nat) (s : State) : Prop :=
  base + 0x1000 < 0x660000
  ∧ s.mem.all (fun c => decide (c.1 < nvBase + (base + 0x80) ∨ nvBase + (base + 0x80) + 4 * 0x3A0 ≤ c.1)) = true
  ∧ s.mem.all (fun c => decide (c.1 < nvBase + (base + 0xF08) ∨ nvBase + (base + 0xF08) + 4 * 62 ≤ c.1)) = true
  ∧ (let w (o : Nat) : Nat := (nvWord (base + o) s).toNat
     decide (w 0 = 0x53570001 ∧ w 4 % 4 = 0 ∧ 4 ≤ w 4 ∧ w 4 ≤ 1044480 ∧ w 0xC < 256 ∧ w 0x10 < 2 ∧ w 0x14 < 65536
       ∧ w 0x18 ≤ 3600 ∧ w 0x1C = 0)) = true
  ∧ bitsOf (nvWord (base + 0x10) s) 0 0 = 1
  ∧ nvNum (base + 0x20) s = wordsNat ((supImage.drop 8).take 8)
  ∧ nvWords (base + 0x1000) (imgFwLen base s / 4) s = [0x574F4F44]
  ∧ nvWords base 16 s = supImage.take 16
  ∧ nvNum (base + 0x40) s = wordsNat ((supImage.drop 16).take 8) ∧ nvNum (base + 0x60) s = wordsNat (supImage.drop 24)
  ∧ keyNum 1 0 s = wordsNat (supKey.take 8) ∧ keyNum 1 32 s = wordsNat (supKey.drop 8)
  ∧ minSvn s = 0

/-- The cause of such an image: none where the key is programmed, 4 where it is not. -/
theorem supHeld_cause {base : Nat} {s : State} (h : SupHeld base s) : imageCause base s = if keyProgrammed 1 s then 0 else 4 := by
  obtain ⟨low, fresh, tail, fixed, key, digest, words, head, sigR, sigS, keyX, keyY, svn⟩ := h
  have e1 : headerOk base s = true := by
    unfold headerOk
    rw [Bool.and_eq_true, List.all_append, Bool.and_eq_true]
    exact ⟨fixed, words_fresh _ _ s (by omega) fresh, words_fresh _ _ s (by omega) tail⟩
  unfold imageCause
  simp only [e1, key, digest, words, test_firmware_digest, head, sigR, sigS, keyX, keyY, test_signature, svn]
  cases keyProgrammed 1 s <;> simp

/-- Witness: a running image that is accepted. -/
theorem witness_supervisor_run :
    let s := supZ runImg 3
    (SupHeld runImg s ∧ up s = true ∧ regionState runImg s = 3 ∧ slipState s ≠ 3) ∧ imageCause runImg s = 0 := by
  have h : SupHeld runImg (supZ runImg 3) ∧ up (supZ runImg 3) = true ∧ regionState runImg (supZ runImg 3) = 3 ∧ slipState (supZ runImg 3) ≠ 3
      ∧ keyProgrammed 1 (supZ runImg 3) = true := by unfold SupHeld; decide +kernel
  exact ⟨⟨h.1, h.2.1, h.2.2.1, h.2.2.2.1⟩, by rw [supHeld_cause h.1, h.2.2.2.2]; rfl⟩

/-- The same image for a device without its key (R444). -/
theorem test_keyless_image : imageCause runImg (nvZ (stateBlock + 0x84) 0 (supZ runImg 3)) = 4 := by
  have h : SupHeld runImg (nvZ (stateBlock + 0x84) 0 (supZ runImg 3)) ∧ keyProgrammed 1 (nvZ (stateBlock + 0x84) 0 (supZ runImg 3)) = false := by
    unfold SupHeld; decide +kernel
  rw [supHeld_cause h.1, h.2]; rfl

/-- Witness: an image on trial that is accepted. -/
theorem witness_supervisor_trial :
    let s := nvZ (runImg + 0xF04) 1 (supZ runImg 2)
    (SupHeld runImg s ∧ regionState runImg s = 2 ∧ startCnt s = 1 ∧ slipState s ≠ 3) ∧ imageCause runImg s = 0 := by
  have h : SupHeld runImg (nvZ (runImg + 0xF04) 1 (supZ runImg 2)) ∧ regionState runImg (nvZ (runImg + 0xF04) 1 (supZ runImg 2)) = 2
      ∧ startCnt (nvZ (runImg + 0xF04) 1 (supZ runImg 2)) = 1 ∧ slipState (nvZ (runImg + 0xF04) 1 (supZ runImg 2)) ≠ 3
      ∧ keyProgrammed 1 (nvZ (runImg + 0xF04) 1 (supZ runImg 2)) = true := by unfold SupHeld; decide +kernel
  exact ⟨⟨h.1, h.2.1, h.2.2.1, h.2.2.2.1⟩, by rw [supHeld_cause h.1, h.2.2.2.2]; rfl⟩

/-- Witness: a fallback image that is accepted. -/
theorem witness_supervisor_back : regionState backImg (supZ backImg 3) = 3 ∧ imageCause backImg (supZ backImg 3) = 0 := by
  have h : SupHeld backImg (supZ backImg 3) ∧ regionState backImg (supZ backImg 3) = 3 ∧ keyProgrammed 1 (supZ backImg 3) = true := by
    unfold SupHeld; decide +kernel
  exact ⟨h.2.1, by rw [supHeld_cause h.1, h.2.2]; rfl⟩

/-- Witness: an image on the slipway that is accepted. -/
theorem witness_supervisor_slip :
    let s := nvZ (stateBlock + 0x8C) 3 (supZ slipImg 0)
    slipState s = 3 ∧ imageCause slipImg s = 0 := by
  have h : SupHeld slipImg (nvZ (stateBlock + 0x8C) 3 (supZ slipImg 0)) ∧ slipState (nvZ (stateBlock + 0x8C) 3 (supZ slipImg 0)) = 3
      ∧ keyProgrammed 1 (nvZ (stateBlock + 0x8C) 3 (supZ slipImg 0)) = true := by unfold SupHeld; decide +kernel
  exact ⟨h.2.1, by rw [supHeld_cause h.1, h.2.2]; rfl⟩

/-- Witness: the states in which a supervisor start finds no image, and those in which a probation ends. -/
theorem witness_supervisor :
    slipState (nvZ (stateBlock + 0x8C) 3 z) = 3 ∧ imageCause slipImg (nvZ (stateBlock + 0x8C) 3 z) = 1
    ∧ startCnt (nvZ (runImg + 0xF04) 2 (nvZ (runImg + 0xF00) 2 z)) = 2 ∧ regionState runImg (nvZ (runImg + 0xF04) 2 (nvZ (runImg + 0xF00) 2 z)) = 2
    ∧ regionState runImg z = 0 ∧ imageCause runImg z = 1 ∧ regionState backImg z = 0
    ∧ (let s := zAt 8000 0
       (0 + 1000000) / 125 ≤ s.time.ticks ∧ ({ s with nvs := { s.nvs with prob := some (0, 1000000) } } : State).nvs.prob.isSome = true)
    ∧ onProbation { nvZ (runImg + 0xF00) 2 z with nvs := { z.nvs with prob := some (0, 1) } } = true ∧ may .sup nvsPg z = true ∧ may .link nvsPg z = false
    ∧ may .host nvsPg (setFF DEV.BOOT_STEP 0 0 7 z) = true := by decide +kernel

/-! ### Further clauses -/

/-- Witness: cycles in which a reaction stopped an engine or a message came, and in which neither did. -/
theorem witness_same_cycle :
    let c : State := { z with cyc := { Cycle.empty (cycleNow z) with runs := [(1, 15)], sent := [0x2F], set := [(pageAddr 0x10 0x10, 16)] } }
    (thisCycle z).runs.contains (1, 15) = false ∧ (thisCycle c).runs.contains (1, 15) = true ∧ (thisCycle c).sent.contains 0x2F = true
    ∧ (thisCycle z).sent.contains 0x2F = false ∧ (thisCycle c).set.contains (pageAddr 0x10 0x10, 16) = true
    ∧ (thisCycle { c with time := { c.time with cycle := 1 } }).set = [] := by decide +kernel

/-- Witness: the adopted count at a window's end, frames with and without a parity failure, and repeater outputs at an edge and between edges. -/
theorem witness_sense_engines :
    let a : State := { zAt 2000 0 with time := { (zAt 2000 0).time with adopt := some (48, 1999) } }
    gridTick a % 2048 = 0 ∧ (zAt 2000 0).time.tick % 2048 ≠ 0
    ∧ (senseOk.slices.all fun x => x.parity == false) = true ∧ ([{ sliceOk with parity := true }].all fun x => x.parity == false) = false
    ∧ (let s := putRpt 3 ⟨some (500, false), some 0, false, 0⟩ z
       (rptOut s 3).next = some (500, false) ∧ (rptOut s 3).start.isSome = true ∧ (rptOut s 3).level = false)
    ∧ (let s := putRpt 3 ⟨some (500, false), some 1000, true, 0⟩ (setFF RPT.OUT_CFG_MODE 0x38 3 0 z)
       (rptOut s 3).level = true ∧ rptDue 3 s = none) := by decide +kernel

/-- Witness: channels that limit their current and that do not, and a column whose meter is unfit and fit. -/
theorem witness_limits :
    let s := putAo 7 { AoState.idle with limit := true } z
    limiting aouPg 7 s = true ∧ switchedOff aouPg 7 s = false ∧ limiting aouPg 7 z = false
    ∧ meterFit 3 (ledgerZ 0 1) = false
    ∧ meterFit 3 (putPub (cntSrc (bitsOf (colWord 3 6 (ledgerZ 0 1)) 18 16)) ⟨7, some 0, false, 0⟩
        (setAct ldgPg 1 (3 * 32 + 4) 1 (ledgerZ 0 1))) = true
    ∧ (ldgCol (ledgerZ 8192 1) 3).handed ≠ 8192 + 1 := by decide +kernel

/-- Witness: a leg whose command of the tick before is still due, and one whose command is of the present tick. -/
theorem witness_leg_commands :
    let x (t : Nat) : LegState := { LegState.idle with cmd := some ⟨3, 0, t⟩ }
    (legSt (legZ (x 7)) 15).cmd = some ⟨3, 0, 7⟩ ∧ 7 < (legZ (x 7)).time.ticks ∧ ¬ 8 < (legZ (x 8)).time.ticks
    ∧ (dueCmd (legZ (x 7)) 15).isSome = true ∧ (dueCmd (legZ (x 8)) 15).isSome = false := by decide +kernel

/-- Witness: the fan commands where they act: kicks before and after the last retry, back-offs with and without a governed duty, doubts with and
without evidence, a channel that can trip, and one whose clears may be written. -/
theorem witness_fan_completions :
    let x := FanState.idle
    let kick (r : Nat) := fanSt (fanZ 8 { x with st := 1, due := 1000, retry := r }) 11
    let back (m : Nat) := fanBackoffEnd 11 (runZ fanPg (fanZ 8 { x with st := 3, due := 1000, mode := 2, man := m, gov := { ChanGov.idle with row5 := false } }))
    let doubt := fanZ 8192 { x with st := 2, doubt := some 0 }
    (kick 2).st = 1 ∧ (kick 2).due / 125 ≤ 8 ∧ (kick 2).retry < 3 ∧ 3 ≤ (kick 3).retry
    ∧ (fanSt (fanZ 8 { x with st := 3, due := 1000 }) 11).st = 3
    ∧ fanGoverned 11 (back 0) = 0 ∧ 0 < fanGoverned 11 (back 500)
    ∧ (fanSt doubt 11).doubt = some 0 ∧ 0 + 8192 ≤ doubt.time.ticks ∧ (fanSt doubt 11).st = 2
    ∧ fanEvidence 11 0 (setFF FAN.CH_EVID_IBAND_LO fanPg 11 0 doubt) = true ∧ fanEvidence 11 0 (setFF FAN.CH_EVID_IBAND_LO fanPg 11 1 doubt) = false
    ∧ (fanSt doubt 11).st ≠ 5 ∧ mayUnit .sup fanPg 11 z = true ∧ cmdZero fanPg (0x100 + 0x20 * 11) z = true := by decide +kernel

/-- Witness: a rate whose word was lost and one whose word came. -/
theorem witness_rates :
    (cntSt (putCnt 7 { CntState.idle with rateLost := true } z) 7).rateLost = true ∧ (cntSt z 7).rateLost = false := by decide +kernel

/-- Witness: injections of each class of checker, concluded by the expected syndrome, by another and by none. -/
theorem witness_injections :
    let a := setFF CMN.FINJ_INV_MASK 0x10 0 1 (setFF CMN.FINJ_ARM 0x10 0 1 z)
    injOpen 0x10 a = true ∧ (injExpected 0x10 a).isSome = true ∧ some Shown.uncorrectable ≠ injExpected 0x10 a
    ∧ (scrubShown .clean).map Prod.fst = none ∧ (scrubShown (.corrected 0)).isSome = true := by decide +kernel

/-- Witness: writes of a record that are whole, and that stop at one of its words. -/
theorem witness_record_stops :
    (∀ x, some (⟨17, false⟩ : NvStop) = some x → 17 ≤ x.left) ∧ (⟨16, false⟩ : NvStop).left < 17 ∧ (⟨16, false⟩ : NvStop).cut = false := by
  refine ⟨fun x h => ?_, by decide, rfl⟩
  cases h; decide

/-- Witness: a scan of one point and one channel, at the ends of its dwell. -/
theorem witness_scan_dwell :
    let sc : WatchScan := ⟨0, 0x00010001, [1, 0, 0, 0, 0, 0, 0, 0], [0, 0, 0, 0], []⟩
    0 < sc.mux.length ∧ 0 < sc.dwellUs ∧ sc.mxsAt 5000 = sc.mux[0]? ∧ sc.railOn 5000 = true ∧ sc.railOn sc.lengthUs = false := by decide +kernel

/-- Witness: host requests that are right, truncated, wrong in two ways, and begun while the device is busy, with a reply that ends. -/
theorem witness_host_causes :
    let q := reqZ false 0x104
    q.ending = .complete ∧ crcHost (hostCovered false q) = q.crc.toNat ∧ q.addr.toNat % 4 = 0 ∧ q.data = [5]
    ∧ ({ q with ending := .truncated } : HostReq).ending = .truncated ∧ ({ q with code := 0 } : HostReq).code ≠ 0b10110
    ∧ ({ z with hst := { z.hst with busy := true, risen := true } } : State).hst.risen = true ∧ z.hst.risen = false := by decide +kernel

/-- Witness: an object that arbitration brought to the bus, a controller that hears itself alone, and one on the bus. -/
theorem witness_can_loops :
    let s := setFF CAN.CTRL_LBK 10 0 1 (canZ 0x80000000 0)
    canLive 10 s = true ∧ getB CAN.CTRL_LBK 10 0 s = true ∧ getB CAN.CTRL_LBK 10 0 (canZ 0 0) = false
    ∧ 63 ∈ ({ CanState.idle with won := [63] } : CanState).won ∧ 63 ∈ ({ CanState.idle with aborted := [63] } : CanState).aborted
    ∧ (List.range 64).find? (fun k => moMatches 10 k (sentFrame 10 63 s) s) = some 63 := by decide +kernel

/-- Witness: EtherTypes of the link and of others, and a repeated and a first PREPARE of a coordinator. -/
theorem witness_link_votes :
    let s := linkZ 2 100
    let v : State := { s with lnk := { s.lnk with voted := [(31, 7, 0)] } }
    linkType = 0x88B5 ∧ (0x0800 : BitVec 16) ≠ linkType ∧ votedFor 31 7 v = some 0 ∧ votedFor 31 8 v = none ∧ votedFor 31 7 s = none
    ∧ bitAt (commitZ 0).targets 31 = true ∧ bitAt (commitZ 0).targets (linkAddr (coordZ 1 8)) = false := by decide +kernel

/-- Witness: NVS commands whose writes fail at a word and at none, and starts and confirmations that are cut off and that are not. -/
theorem witness_nvs_stops :
    let c : NvsCmd := ⟨2, 0, none⟩
    (nvsWrites c z).any (fun w => w.1 == stateBlock + 0x8C) = true ∧ (nvsWrites c z).any (fun w => w.1 == 0) = false
    ∧ (nvsWrites ⟨5, 15, some [1, 2]⟩ z).map Prod.fst = [runImg + 0x1F0000, runImg + 0x1F0004]
    ∧ ({ z with nvs := { z.nvs with ask := some 7 } } : State).nvs.ask = some 7 ∧ inRecovery z = false
    ∧ (⟨0, true⟩ : NvStop).left = 0 ∧ (⟨0, false⟩ : NvStop).cut = false
    ∧ (some (⟨5, true⟩ : NvStop)).all (fun x => !x.cut) = false ∧ (none : Option NvStop).all (fun x => !x.cut) = true := by decide +kernel

/-- Witness: counts of the bridges and of the recorder that a clear of the same cycle leaves at 1 and at 0. -/
theorem witness_fresh_counts :
    let c : State := { z with cyc := { Cycle.empty (cycleNow z) with set := [(pageAddr 0 0x118, 0)] } }
    bitAt (freshBits (pageAddr 0 0x118) c) 0 = true ∧ bitAt (freshBits (pageAddr 0 0x118) z) 0 = false ∧ may .sup 0 c = true := by decide +kernel

end Sys2Proof.Tests
end

section
/-!
PROOFS. Refutations of three statements of chapter 1. Each asks that a field reads what an accepted write gave it, in every awake state.
`storeFields` keeps every bit of a register that the notes of the present cycle name, whatever the field's access code, while R28 and R104
say this of W1C bits alone; and the statements leave the notes open. A state whose notes name a bit of FINJ, OWN or IRQ_EN refutes
them. No event of the model notes a bit of these registers: what the statements lack is the hypothesis that the notes name none.
-/
namespace Sys2Proof.Machine

/-! ### What a command leaves of a register that nothing after it writes -/

/-- All states that settle to the same end of a command agree on the quiet registers. -/
theorem quiet_of_settle {s u v : State} (h : keepQueue s (settle u) = keepQueue s (settle v)) {a : Nat} (ha : quiet a = true) :
    rdReg u a = rdReg v a := by
  have e := congrArg (rdReg · a) h
  simpa only [rdReg_keepQueue, settle_quiet ha] using e

/-- What a command's operation leaves in a quiet register holds of every state that `Does` may name. -/
theorem Does.quiet {i : Instr} {s v : State} {P : State → Prop} (h : Does i s P) (hv : Settles i s v) :
    ∃ u, P u ∧ ∀ a, quiet a = true → rdReg u a = rdReg v a := by
  obtain ⟨u, hu, hP⟩ := h
  have e : keepQueue s (settle u) = keepQueue s (settle v) := Host.Outcome.next.inj (hu.symm.trans hv)
  exact ⟨u, hP, fun a ha => quiet_of_settle e ha⟩

/-- A software reset holds the device, so a device that is not held afterwards has not been reset (R475, R500). -/
theorem softwareReset_of_not_held {s : State} (h : (softwareReset s).pwr.held = false) : softwareReset s = s := by
  unfold softwareReset at h ⊢
  split
  · next hr => rw [if_pos hr] at h; exact absurd h (by simp [resetDevice])
  · rfl

/-- The same of a command that writes registers, where no reset follows it. -/
theorem DoesWrite.quiet {i : Instr} {s v : State} {P : State → Prop} (h : DoesWrite i s P) (hv : Settles i s v)
    (held : v.pwr.held = false) : ∃ u, P u ∧ ∀ a, quiet a = true → rdReg u a = rdReg v a := by
  obtain ⟨u, hu, hP⟩ := h
  have e : keepQueue s (softwareReset (settle u)) = keepQueue s (settle v) := Host.Outcome.next.inj (hu.symm.trans hv)
  have awake : (softwareReset (settle u)).pwr.held = false := by
    have p := congrArg (fun x : State => x.pwr.held) e
    simpa only [keepQueue_pwr, settle_pwr, held] using p
  rw [softwareReset_of_not_held awake] at e
  exact ⟨u, hP, fun a ha => quiet_of_settle e ha⟩

/-! ### A state whose notes name a bit -/

/-- The device right after reset, but that the register at offset `off` of page FLT reads 1 in bit `n` and 0 beside it, and that the
notes of the present cycle name this bit. -/
def notedBit (off n : Nat) : State := noteBit (pageAddr fltPg off) n (wrReg State.reset (pageAddr fltPg off) (ofN (2 ^ n)))

theorem notedBit_awake (off n : Nat) : Awake (notedBit off n) := ⟨rfl, by change bitAt 0 4 = false; decide⟩

/-- No supervisor start bars SUP there (R449). -/
theorem sup_not_barred {off : Nat} (n : Nat) (h : off < 0x400) : partyBarred .sup (some fltPg) (notedBit off n) = false := by
  have other : pageAddr fltPg off ≠ fldAddr NVS.STAT_SUPSTART nvsPg 0 := by
    simp only [pageAddr, fldAddr, fltPg, nvsPg, NVS.STAT_SUPSTART]; omega
  have same : rdReg (notedBit off n) (fldAddr NVS.STAT_SUPSTART nvsPg 0) = rdReg State.reset (fldAddr NVS.STAT_SUPSTART nvsPg 0) := by
    rw [notedBit, rdReg_noteBit, rdReg_wrReg_ne _ _ other]
  rw [partyBarred, getB, getF_eq (by decide), getW_congr same]
  decide +kernel

/-- SUP may write such a state's registers: neither ownership nor LOCK binds it (R31, R33). -/
theorem sup_mayWrite {off : Nat} (n : Nat) (oper : Bool) (h : off < 0x400) : MayWrite .sup fltPg oper (notedBit off n) :=
  ⟨rfl, sup_not_barred n h, rfl, .inr (.inr rfl)⟩

end Sys2Proof.Machine

namespace Sys2Proof.Proofs
open Sys2Proof Sys2Proof.Machine

/-- Refutes O17: FINJ.INV_MASK of page FLT reads 1, and the notes of the cycle name its bit; SUP arms checker 0 with mask 2, the write is
done, and INV_MASK reads 3. -/
theorem not_commonRegistersTakeTheirCommands : ¬ Obligations.Common_Registers_Take_Their_Commands := by
  unfold Obligations.Common_Registers_Take_Their_Commands
  intro h
  have awake := notedBit_awake 0x1C 8
  obtain ⟨-, -, arm⟩ := h .sup 2 false 0 2 (notedBit 0x1C 8) awake (by decide)
  have does := arm (sup_mayWrite 8 false (by decide)) (by decide +kernel) (by decide) (by decide)
  obtain ⟨u, ⟨-, -, -, mask, -⟩, same⟩ := Does.quiet does (settles_write awake (by decide) rfl)
  rw [getW_congr (same _ (by decide))] at mask
  exact absurd mask (by decide +kernel)

/-- Refutes O18: OWN.OWNER of page FLT reads 1, and the notes of the cycle name its bit 0; SUP names owner 2, the write is done, and
OWNER reads 3. -/
theorem not_ownerAndLockFollowTheirWrites : ¬ Obligations.Owner_And_Lock_Follow_Their_Writes := by
  unfold Obligations.Owner_And_Lock_Follow_Their_Writes
  intro h
  have awake := notedBit_awake 0x20 0
  obtain ⟨own, -⟩ := h .sup 2 2 false (notedBit 0x20 0) awake (by decide)
  have does := own rfl (sup_not_barred 0 (by decide)) (.inl rfl) (by decide)
  obtain ⟨u, ⟨-, owner, -⟩, same⟩ := Does.quiet does (settles_write awake (by decide) rfl)
  rw [getW_congr (same _ (by decide))] at owner
  exact absurd owner (by decide +kernel)

/-- Refutes O53: bit 0 of IRQ_EN of page FLT reads 1, and the notes of the cycle name it; SUP writes 2, the write is done, and bits [3:0] of
IRQ_EN read 3. -/
theorem not_busWritesAndBridgeFramesAreJudged : ¬ Obligations.Bus_Writes_And_Bridge_Frames_Are_Judged := by
  unfold Obligations.Bus_Writes_And_Bridge_Frames_Are_Judged
  intro h
  have awake := notedBit_awake 0x14 0
  obtain ⟨-, page, -⟩ := h .sup .sup 2 0 2 0 .ca ⟨0, 0, 0, 0, 0, .other⟩ (notedBit 0x14 0) awake
  obtain ⟨-, written, -⟩ := page (by decide)
  obtain ⟨done, -⟩ := written (sup_mayWrite 0 true (by decide))
  obtain ⟨u, ⟨-, takes, -⟩, same⟩ := DoesWrite.quiet done (settles_write_pwr awake (by decide +kernel) rfl) (by decide +kernel)
  have low := takes _ rfl (rfOp 3 0 .rw 0) (by decide)
  rw [same _ (by decide)] at low
  exact absurd low (by decide +kernel)

end Sys2Proof.Proofs
end

section
/-!
PROOFS. Chapters 1 and 2: what the reset leaves, what the boundaries of ticks, tides and long tides do, and how the alignment states move.
-/
namespace Sys2Proof.Machine

/-! ### The device right after reset -/

/-- No scope of the collector has reacted yet. -/
theorem scopeAt_reset (k : Nat) : scopeAt State.reset k = Scope.idle := rfl

/-- The outputs' pages are stopped, so row 5 governs every digital output (R320). -/
theorem govRow_dou_reset : ∀ j < 24, govRow douPg j State.reset = 5 := by decide +kernel

/-- The same for the analog outputs. -/
theorem govRow_aou_reset : ∀ k < 8, govRow aouPg k State.reset = 5 := by decide +kernel

/-- Every output is off, as the rows that govern it demand: a fan in OFF has no duty, and row 5 switches the other outputs off. -/
theorem reset_governed : Governed State.reset := by
  refine ⟨fun n _ => ?_, fun j hj => ?_, fun k hk => ?_⟩
  · have off : (fanSt State.reset n).st = 0 := rfl
    rw [fanDemanded, if_pos (.inr (.inr (.inl off)))]
    rfl
  · have row := govRow_dou_reset j hj
    simp only [doDemanded, row]
    rfl
  · have row := govRow_aou_reset k hk
    simp only [aoDemanded, row]
    rfl

/-- The reset columns of the common registers, page by page (chapter 1). -/
theorem common_registers_reset : ∀ p < 64, (pageKind p).isSome = true →
    getF CMN.OWN_OWNER p 0 State.reset = 3 ∧ getW CMN.OWN_PREV_OWNER p 0 State.reset = 3 ∧ getW CMN.CTRL_LATE_LIMIT p 0 State.reset = 3
    ∧ getB CMN.LOCK_LOCKED p 0 State.reset = false ∧ getB CMN.LOCK_PERM p 0 State.reset = false
    ∧ rdReg State.reset (pageAddr p 0x10) = 0 ∧ rdReg State.reset (pageAddr p 0x14) = 0
    ∧ getB CMN.CTRL_RUN p 0 State.reset = alwaysRun p := by decide +kernel

/-! ### Interrupts and messages seen through a command's reach -/

theorem irq_reach {ps : List Part} {f : State → State} {s : State} (h : Part.regs ∈ ps) (p n : Nat) :
    irq p n (reach ps f s) = irq p n (f s) := by
  rw [irq, irq, rdReg_reach _ _ _ h]

theorem irq_time (x : TimeState) (p n : Nat) (s : State) : irq p n { s with time := x } = irq p n s := rfl

theorem sent_reach {ps : List Part} {f : State → State} {s t : State} {page inst kind addr : Nat} (h : Part.flt ∈ ps)
    (hs : Sent page inst kind addr s (f t)) : Sent page inst kind addr s (reach ps f t) := by
  unfold Sent
  rw [reach_flt _ _ _ h]
  exact hs

/-! ### Tick boundaries -/

/-- The next tick begins: one tick further, at phase 0 (R36, R37); only the correction of its phase 39 is drawn besides. -/
theorem nextTickBegins_time (s : State) : ∃ c, (nextTickBegins s).time
    = { s.time with tick := (s.time.tick + 1) % tickMod, ticks := s.time.ticks + 1, phase := 0, cycle := 0, corr := c } := by
  unfold nextTickBegins drawCorr
  split
  · exact ⟨_, rfl⟩
  · split <;> exact ⟨_, rfl⟩

/-- The work of a boundary takes no time: its instant is that of the tick that it opens. -/
theorem tickBoundary_instant (oscLen : Nat) (rails : RailMv) (s : State) :
    let t := (tickBoundary oscLen rails s).time
    t.tick = (nextTickBegins s).time.tick ∧ t.ticks = (nextTickBegins s).time.ticks
      ∧ t.phase = (nextTickBegins s).time.phase ∧ t.cycle = (nextTickBegins s).time.cycle := ⟨rfl, rfl, rfl, rfl⟩

/-! ### Tides and long tides -/

/-- The boundary just passed ends a tide that has not been ended yet (R38). -/
def tideDue (s : State) : Prop := gridTick s % 64 = 0 ∧ s.time.tideDone ≠ some s.time.ticks

/-- The boundary just passed ends a long tide that has not been ended yet (R38). -/
def longTideDue (s : State) : Prop := gridTick s % 8192 = 0 ∧ s.time.longDone ≠ some s.time.ticks

theorem tideBoundary_idle {temps : DieTemps} {s : State} (h : ¬ tideDue s) : tideBoundary temps s = s := if_neg h

theorem longTideBoundary_idle {vbat : Nat} {s : State} (h : ¬ longTideDue s) : longTideBoundary vbat s = s := if_neg h

theorem tideBoundary_eq {temps : DieTemps} {s : State} (h : tideDue s) : ∃ x : TimeState, x.tideDone = some s.time.ticks
    ∧ tideBoundary temps s = { setIrq tickPg 16 (tideTemps temps (fanTide s)) with time := x } := by
  unfold tideBoundary
  exact ⟨_, rfl, if_pos h⟩

theorem longTideBoundary_eq {vbat : Nat} {s : State} (h : longTideDue s) : ∃ x : TimeState, x.longDone = some s.time.ticks
    ∧ longTideBoundary vbat s
      = { setIrq tickPg 17 (measureVbat vbat (digPublish (lnkLongTide (ledgerSnapshot s)))) with time := x } := by
  unfold longTideBoundary
  exact ⟨_, rfl, if_pos h⟩

/-- A tide that ends is noted, with its interrupt and the temperatures read (R38, R490). -/
theorem tideBoundary_due {temps : DieTemps} {s : State} (h : tideDue s) :
    let u := tideBoundary temps s
    irq tickPg 16 u = true ∧ u.time.tideDone = some s.time.ticks ∧ getW PWR.TEMP0_C_DIE pwrPg 0 u = (temps.cDie % 65536).toNat
      ∧ getW PWR.TEMP0_A_DIE pwrPg 0 u = (temps.aDie % 65536).toNat ∧ getW PWR.TEMP1_P_DIE pwrPg 0 u = (temps.pDie % 65536).toNat := by
  obtain ⟨x, hx, e⟩ := tideBoundary_eq (temps := temps) h
  obtain ⟨c, a, p⟩ := getW_temps temps (fanTide s)
  rw [e]
  generalize tideTemps temps (fanTide s) = v at c a p
  refine ⟨?_, hx, ?_, ?_, ?_⟩
  · rw [irq_time]
    exact irq_setIrq _ _ (by decide)
  · rw [getW_time, getW_setIrq _ (by decide), c]
  · rw [getW_time, getW_setIrq _ (by decide), a]
  · rw [getW_time, getW_setIrq _ (by decide), p]

/-- VBAT_MV shows the voltage measured, at most 65,535 mV (R404). -/
theorem getW_measureVbat (mv : Nat) (s : State) : getW CLK.VBAT_MV clkPg 0 (measureVbat mv s) = min mv 65535 := by
  rw [measureVbat, getW_setF _ _ _ _ _ (by decide) (by decide)]
  simp only [CLK.VBAT_MV, satN]
  split <;> omega

/-- A long tide that ends is noted, with its interrupt and the voltage measured (R38, R404). -/
theorem longTideBoundary_due {vbat : Nat} {s : State} (h : longTideDue s) :
    let u := longTideBoundary vbat s
    irq tickPg 17 u = true ∧ u.time.longDone = some s.time.ticks ∧ getW CLK.VBAT_MV clkPg 0 u = min vbat 65535 := by
  obtain ⟨x, hx, e⟩ := longTideBoundary_eq (vbat := vbat) h
  rw [e]
  generalize digPublish (lnkLongTide (ledgerSnapshot s)) = v
  refine ⟨?_, hx, ?_⟩
  · rw [irq_time]
    exact irq_setIrq _ _ (by decide)
  · rw [getW_time, getW_setIrq _ (by decide), getW_measureVbat]

/-! ### Alignment states -/

@[simp] theorem rdReg_raiseIf (b : Bool) (p i k d : Nat) (s : State) (a : Nat) : rdReg (raiseIf b p i k d s) a = rdReg s a := by
  cases b <;> rfl

/-- What a change of the alignment state leaves in the registers: the new state and its interrupt; OFFSET aside where the new state shows
none (R59, R62). -/
theorem rdReg_setAlign {st a : Nat} {s : State} (hs : alignSt s ≠ st) (ha : a ≠ pageAddr tickPg 0x118 ∨ st ≠ 0 ∧ st ≠ 4) :
    rdReg (setAlign st s) a = rdReg (setIrq tickPg 18 (setF TICK.SYNC_STAT_STATE tickPg 0 st s)) a := by
  unfold setAlign
  simp only [if_neg hs, rdReg_raiseIf]
  split
  · next off => exact rdReg_setF_ne _ _ _ _ _ (ha.resolve_right (by omega)).symm
  · rfl

theorem alignSt_setAlign {st : Nat} {s : State} (hs : alignSt s ≠ st) (h8 : st < 8) : alignSt (setAlign st s) = st := by
  unfold alignSt
  rw [getW_congr (rdReg_setAlign hs (.inl (by decide))), getW_setIrq _ (by decide), getW_setF _ _ _ _ _ (by decide) (by decide)]
  exact Nat.mod_eq_of_lt h8

theorem irq_setAlign {st : Nat} {s : State} (hs : alignSt s ≠ st) : irq tickPg 18 (setAlign st s) = true := by
  rw [irq, rdReg_setAlign hs (.inl (by decide))]
  exact irq_setIrq _ _ (by decide)

/-- A change to a state that shows an offset changes no other register than SYNC_STAT and IRQ_STAT. -/
theorem setAlign_regsBut {st : Nat} {s : State} (h0 : st ≠ 0) (h4 : st ≠ 4) :
    RegsBut [pageAddr tickPg 0x114, pageAddr tickPg 0x10] s (setAlign st s) := by
  intro a ha
  simp only [List.mem_cons, List.not_mem_nil, or_false, not_or] at ha
  by_cases hs : alignSt s = st
  · rw [setAlign, if_pos hs]
  · rw [rdReg_setAlign hs (.inr ⟨h0, h4⟩), rdReg_setIrq_ne _ _ _ (Ne.symm ha.2)]
    exact rdReg_setF_ne _ _ _ _ _ (Ne.symm ha.1)

@[simp] theorem setAlign_lnk (st : Nat) (s : State) : (setAlign st s).lnk = s.lnk := by
  have msg (b : Bool) (p i k d : Nat) (s : State) : (raiseIf b p i k d s).lnk = s.lnk := by cases b <;> rfl
  unfold setAlign
  simp only
  split
  · rfl
  · rw [msg, msg]
    split <;> rfl

/-- The end of a HOLDOVER in FREE is reported with the master last followed (R59). -/
theorem sent_setAlign_free {s : State} (h : alignSt s = 3) : Sent tickPg 0xFF kTickSyncLost (masterAddr s) s (setAlign 0 s) := by
  have m : masterAddr (setF TICK.OFFSET_OFFSET tickPg 0 0 (setIrq tickPg 18 (setF TICK.SYNC_STAT_STATE tickPg 0 0 s))) = masterAddr s := by
    unfold masterAddr
    rw [getW_setF_beside _ _ (by decide) (by decide) (by decide), getW_setIrq _ (by decide),
      getW_setF_beside _ _ (by decide) (by decide) (by decide)]
  have e : setAlign 0 s = _ := if_neg (show ¬ alignSt s = 0 by omega)
  rw [e, h]
  refine ⟨_, List.mem_append_right _ (List.mem_singleton.2 rfl), rfl, rfl, ?_, rfl⟩
  exact congrArg (· % 65536) m

/-- The instant of an event leaves the registers. -/
theorem reachUs_regs {t : Nat} {s u : State} (h : reachUs t s = some u) : u.regs = s.regs := by
  unfold reachUs at h
  split at h
  · exact absurd h (by simp)
  · split at h
    · rw [← Option.some.inj h, atPhase_regs]
    · rw [← Option.some.inj h]

/-- Once an event's tick has begun, its instant is there. -/
theorem reachUs_isSome {t : Nat} {s : State} (h : t / 125 ≤ s.time.ticks) : ∃ u, reachUs t s = some u := by
  unfold reachUs
  rw [if_neg (by omega)]
  split <;> exact ⟨_, rfl⟩

/-- SYNC_TIMEOUT is without effect or enters HOLDOVER, at its instant (R59). -/
theorem syncTimeout_cases (s : State) : syncTimeout s = s ∨ ∃ u, u.regs = s.regs ∧ syncTimeout s = setAlign 3 u := by
  unfold syncTimeout
  split
  · split
    · split
      · exact .inl rfl
      · next u hu => exact .inr ⟨u, reachUs_regs hu, rfl⟩
    · exact .inl rfl
  · exact .inl rfl

theorem syncTimeout_regsBut (s : State) : RegsBut [pageAddr tickPg 0x114, pageAddr tickPg 0x10] s (syncTimeout s) := by
  obtain e | ⟨u, hu, e⟩ := syncTimeout_cases s
  · rw [e]
    exact fun _ _ => rfl
  · rw [e]
    intro a ha
    rw [setAlign_regsBut (by decide) (by decide) a ha, rdReg, rdReg, hu]

/-- A LOCKED device that has heard nothing for one tide goes to HOLDOVER (R59). -/
theorem syncTimeout_holdover {s : State} {t : Nat} (ht : s.time.lastSync = some t) (hl : alignSt s = 2)
    (h : (t + 8000) / 125 ≤ s.time.ticks) : alignSt (syncTimeout s) = 3 ∧ irq tickPg 18 (syncTimeout s) = true := by
  obtain ⟨u, hu⟩ := reachUs_isSome h
  have e : syncTimeout s = setAlign 3 u := by simp only [syncTimeout, ht, hl, hu, if_true]
  have lock : alignSt u ≠ 3 := by
    have : alignSt u = alignSt s := getW_congr (by rw [rdReg, rdReg, reachUs_regs hu])
    omega
  rw [e]
  exact ⟨alignSt_setAlign lock (by decide), irq_setAlign lock⟩

/-- A HOLDOVER that outlasts HOLD_LIMIT ends in FREE, with no master followed (R59). -/
theorem holdoverExpire_free {s : State} (h : alignSt s = 3) (ht : s.time.since + 64 * getF TICK.SYNC_CTRL_HOLD_LIMIT tickPg 0 s ≤ s.time.ticks) :
    let u := holdoverExpire s
    alignSt u = 0 ∧ u.lnk.rank = none ∧ Sent tickPg 0xFF kTickSyncLost (masterAddr s) s u := by
  have e : holdoverExpire s = setAlign 0 { s with lnk := { s.lnk with rank := none } } := if_pos ⟨h, ht⟩
  have hold : alignSt { s with lnk := { s.lnk with rank := none } } = 3 := h
  rw [e]
  exact ⟨alignSt_setAlign (by omega) (by decide), by rw [setAlign_lnk], sent_setAlign_free hold⟩

theorem holdoverExpire_idle {s : State} (h : alignSt s ≠ 3) : holdoverExpire s = s := if_neg fun c => h c.1

/-- A device in FREE with ROLE 1 that has heard nothing for 16 + 8 × RANK ticks becomes MASTER (R429). -/
theorem masterClaim_master {rank : Nat} {s : State} (h : alignSt s = 0) (hr : getF TICK.SYNC_CTRL_ROLE tickPg 0 s = 1)
    (ht : max s.time.since ((s.time.lastSync.getD 0) / 125) + 16 + 8 * rank ≤ s.time.ticks) :
    alignSt (masterClaim rank s) = 4 ∧ irq tickPg 18 (masterClaim rank s) = true := by
  have e : masterClaim rank s = setAlign 4 s := if_pos ⟨h, hr, ht⟩
  rw [e]
  exact ⟨alignSt_setAlign (by omega) (by decide), irq_setAlign (by omega)⟩

/-! ### The adoption of a tick count -/

/-- Operations that keep the time keep it one after another. -/
theorem foldl_time {β : Type} {f : State → β → State} (hf : ∀ s b, (f s b).time = s.time) (l : List β) (s : State) :
    (l.foldl f s).time = s.time := by
  induction l generalizing s with
  | nil => rfl
  | cons b l ih => rw [List.foldl_cons, ih, hf]

theorem forN_time {f : Nat → State → State} (hf : ∀ i s, (f i s).time = s.time) (n : Nat) (s : State) : (forN n f s).time = s.time :=
  foldl_time (fun s i => hf i s) _ s

theorem adoptChannel_time (d : Int) (c : Nat) (s : State) : (adoptChannel d c s).time = s.time := by
  unfold adoptChannel
  simp only
  split
  · rfl
  · split <;> rfl

theorem setParcel_time (loc : Nat) (p : Parcel) (s : State) : (setParcel loc p s).time = s.time := by
  unfold setParcel verifyParcel
  split
  · rfl
  · split <;> rfl

/-- Stated for any store, so that no proof about a particular word compares the stores themselves. -/
theorem withAct_time (x : Tab Word) (s : State) : { s with act := x }.time = s.time := rfl

theorem putMo_time (p o w : Nat) (v : Word) (s : State) : (putMo p o w v s).time = s.time := withAct_time _ s

theorem shiftCan_time (d : Int) (p : Nat) (s : State) : (shiftCan d p s).time = s.time := by
  unfold shiftCan
  rw [foldl_time]
  exact fun _ _ => putMo_time ..

theorem putCol_time (c : Nat) (v : LdgCol) (s : State) : (putCol c v s).time = s.time := rfl

theorem shiftLedger_time (d : Int) (s : State) : (shiftLedger d s).time = s.time := by
  unfold shiftLedger
  refine (forN_time (fun _ _ => ?_) 4 _).trans (foldl_time (fun _ _ => ?_) _ s)
  · exact putCol_time ..
  · split
    · exact setParcel_time ..
    · rfl

/-- At the boundary of its adoption the tick count takes Δ, and the adoption is done (R60, R61). -/
theorem tickAdopt_adopts {s : State} {d : Int} {e : Nat} (ha : s.time.adopt = some (d, e)) (he : e < s.time.ticks) :
    (tickAdopt s).time = { s.time with tick := shiftTick d s.time.tick, adopt := none } ∧ irq tickPg 19 (tickAdopt s) = true := by
  unfold tickAdopt
  simp only [ha, if_neg (Nat.not_le.2 he)]
  refine ⟨?_, irq_setIrq _ _ (by decide)⟩
  simp only [setIrq, noteBit_time, wrReg_time, incSat, setF_time]
  rw [shiftLedger_time, shiftCan_time, shiftCan_time, forN_time, forN_time (adoptChannel_time d)]
  exact fun _ _ => rfl

theorem tickAdopt_idle {s : State} (h : s.time.adopt = none) : tickAdopt s = s := by simp only [tickAdopt, h]

end Sys2Proof.Machine

namespace Sys2Proof.Proofs
open Sys2Proof Sys2Proof.Machine

/-- Settles O58: the stores of the reset state are empty, so its registers read their reset columns and its channels are off. -/
theorem resetLeavesWhatTheRegistersSay : Obligations.Reset_Leaves_What_The_Registers_Say := by
  unfold Obligations.Reset_Leaves_What_The_Registers_Say
  refine ⟨rfl, ⟨rfl, by decide⟩, tabWf_nil _, reset_governed, rfl, rfl, common_registers_reset, fun k _ => ?_⟩
  rw [scopeAt_reset]
  exact ⟨rfl, rfl⟩

/-- Settles O15: each boundary's command runs its operation, which either is due and acts or leaves the state as it stands. -/
theorem boundariesOpenTicksAndTides : Obligations.Boundaries_Open_Ticks_And_Tides := by
  unfold Obligations.Boundaries_Open_Ticks_And_Tides
  intro oscLen rails temps vbat s awake
  refine ⟨⟨_, settles_finish awake rfl, ?_⟩, ⟨_, settles_finish awake rfl, fun due => ?_, fun idle => ?_⟩,
    ⟨_, settles_finish awake rfl, fun due => ?_, fun idle => ?_⟩⟩
  · obtain ⟨c, next⟩ := nextTickBegins_time (clearReports s)
    obtain ⟨tick, ticks, phase, cycle⟩ := tickBoundary_instant oscLen rails (clearReports s)
    rw [reach_time _ _ _ (by decide), tick, ticks, phase, cycle, next]
    exact ⟨rfl, rfl, rfl, rfl⟩
  · rw [irq_reach (by decide), reach_time _ _ _ (by decide), getW_reach _ _ (by decide), getW_reach _ _ (by decide), getW_reach _ _ (by decide)]
    exact tideBoundary_due (s := clearReports s) due
  · exact reach_self (tideBoundary_idle (s := clearReports s) idle)
  · rw [irq_reach (by decide), reach_time _ _ _ (by decide), getW_reach _ _ (by decide)]
    exact longTideBoundary_due (s := clearReports s) due
  · exact reach_self (longTideBoundary_idle (s := clearReports s) idle)

/-- Settles O16: each command of the alignment runs its operation, whose effect is a change of the alignment state or of the count. -/
theorem alignmentFollowsTheFramesHeard : Obligations.Alignment_Follows_The_Frames_Heard := by
  unfold Obligations.Alignment_Follows_The_Frames_Heard
  intro s awake
  refine ⟨⟨_, settles_finish awake rfl, ?_, ?_⟩, ⟨_, settles_finish awake rfl, ?_, ?_⟩, ⟨_, settles_finish awake rfl, ?_, ?_⟩,
    ⟨_, settles_finish awake rfl, ?_, ?_⟩, ⟨_, settles_finish awake rfl, ?_⟩⟩
  · exact sent_reach (by decide) (sent_raise _ _ _ _ (clearReports s))
  · exact fun a _ => rdReg_reach_not _ _ _ (by decide) a
  · intro a ha
    rw [rdReg_reach _ _ _ (by decide)]
    exact syncTimeout_regsBut (clearReports s) a ha
  · intro t last locked due
    rw [irq_reach (by decide), alignSt, getW_reach _ _ (by decide)]
    exact syncTimeout_holdover (s := clearReports s) last locked due
  · intro hold due
    obtain ⟨free, rank, sent⟩ := holdoverExpire_free (s := clearReports s) hold due
    rw [alignSt, getW_reach _ _ (by decide), reach_lnk _ _ _ (by decide)]
    exact ⟨free, rank, sent_reach (by decide) sent⟩
  · exact fun other => reach_self (holdoverExpire_idle (s := clearReports s) other)
  · intro d e adopt due
    obtain ⟨time, shown⟩ := tickAdopt_adopts (s := clearReports s) adopt due
    rw [irq_reach (by decide), reach_time _ _ _ (by decide), time]
    exact ⟨rfl, rfl, rfl, shown⟩
  · exact fun none => reach_self (tickAdopt_idle (s := clearReports s) none)
  · intro free role silent
    rw [irq_reach (by decide), alignSt, getW_reach _ _ (by decide)]
    exact masterClaim_master (s := clearReports s) free role silent

end Sys2Proof.Proofs
end

section
/-!
PROOFS. Refutations of the two statements about the sense channels (chapter 3). Of a repeater output that is high with no value due, O22
asks that a readback check leaves every register but OUT_STAT. A check that agrees ends the readback's episode, and `endEp` first has the
collector take a message of it that is still on its way, which writes IRQ_STAT and FLT_STAT of the page; no state that leaves these registers
settles to the same end. O23 asks that RANGE reads what an accepted write gave it, where the notes of the present cycle name one of its bits.
What the statements lack are the hypotheses that no message is on its way and that the notes name no bit of RANGE.
-/
namespace Sys2Proof.Machine

/-! ### Active faults beside the interrupt of the repeater page -/

/-- Register IRQ_STAT of the repeater page. -/
def rptIrqStat : Nat := pageAddr 0x38 0x10

/-- The collector holds an active fault: an episode or an event (R351). -/
def FaultActive (s : State) : Prop := s.flt.eps ≠ [] ∨ s.flt.evts ≠ []

/-- Where IRQ_STAT of the repeater page shows anything, a fault is active. -/
def RptIrqHasFault (s : State) : Prop := rdReg s rptIrqStat = 0 ∨ FaultActive s

/-- A change that leaves IRQ_STAT of the repeater page and neither brings nor ends an active fault. -/
structure Mute (s t : State) : Prop where
  irqStat : rdReg t rptIrqStat = rdReg s rptIrqStat
  eps : t.flt.eps = [] ↔ s.flt.eps = []
  evts : t.flt.evts = s.flt.evts

namespace Mute

theorem refl (s : State) : Mute s s := ⟨rfl, .rfl, rfl⟩

theorem trans {s t u : State} (h : Mute s t) (g : Mute t u) : Mute s u :=
  ⟨g.irqStat.trans h.irqStat, g.eps.trans h.eps, g.evts.trans h.evts⟩

/-- A change of neither the registers nor the collector's active faults. -/
theorem of_same {s t : State} (hr : t.regs = s.regs) (he : t.flt.eps = s.flt.eps) (hv : t.flt.evts = s.flt.evts) : Mute s t :=
  ⟨by rw [rdReg, rdReg, hr], by rw [he], hv⟩

/-- A change of a register elsewhere. -/
theorem of_reg {s t : State} (hr : rdReg t rptIrqStat = rdReg s rptIrqStat) (hf : t.flt = s.flt) : Mute s t :=
  ⟨hr, by rw [hf], by rw [hf]⟩

theorem ite {c : Prop} [Decidable c] {s t : State} (h : Mute s t) : Mute s (if c then t else s) := by
  split
  · exact h
  · exact refl s

theorem fold {β : Type} {f : State → β → State} (hf : ∀ s b, Mute s (f s b)) (l : List β) (s : State) : Mute s (l.foldl f s) :=
  List.foldlRecOn l f (refl s) fun t h b _ => h.trans (hf t b)

theorem forN {n : Nat} {f : Nat → State → State} (hf : ∀ i < n, ∀ s, Mute s (f i s)) (s : State) : Mute s (forN n f s) :=
  List.foldlRecOn _ _ (refl s) fun t h i hi => h.trans (hf i (List.mem_range.1 hi) t)

theorem faultActive {s t : State} (h : Mute s t) (ha : FaultActive s) : FaultActive t := by
  unfold FaultActive at ha ⊢
  rwa [ne_eq, h.eps, h.evts]

theorem rptIrqHasFault {s t : State} (h : Mute s t) (hs : RptIrqHasFault s) : RptIrqHasFault t :=
  hs.imp h.irqStat.trans h.faultActive

end Mute

/-! ### Steps of the collector -/

theorem setF_mute {f : Fld} {p u : Nat} (v : Nat) (s : State) (h : fldAddr f p u ≠ rptIrqStat) : Mute s (setF f p u v s) :=
  .of_reg (rdReg_setF_ne _ _ _ _ _ h) rfl

theorem incSat_mute {f : Fld} {p u : Nat} (s : State) (h : fldAddr f p u ≠ rptIrqStat) : Mute s (incSat f p u s) := setF_mute _ _ h

theorem setIrq_mute {p : Nat} (n : Nat) (s : State) (h : p ≠ 0x38) : Mute s (setIrq p n s) :=
  .of_reg (rdReg_setIrq_ne _ _ _ (by simp only [rptIrqStat, pageAddr]; omega)) rfl

theorem faultActive_setIrq (p n : Nat) (s : State) : FaultActive (setIrq p n s) ↔ FaultActive s := .rfl

theorem putScope_mute (k : Nat) (c : Scope) (s : State) : Mute s (putScope k c s) := .of_same rfl rfl rfl

theorem recPush_mute (k v j : Nat) (b : List (Nat × Word)) (c y : Nat) (s : State) : Mute s (recPush k v j b c y s) :=
  .of_same rfl rfl rfl

theorem raise_mute (p i k a : Nat) (s : State) : Mute s (raise p i k a s) := .of_same rfl rfl rfl

theorem noteCycle_mute (f : Cycle → Cycle) (s : State) : Mute s (noteCycle f s) := .of_same rfl rfl rfl

theorem noteBit_mute (a n : Nat) (s : State) : Mute s (noteBit a n s) := noteCycle_mute ..

theorem putRun_mute (p : Nat) (run : Bool) (s : State) : Mute s (putRun p run s) := by
  unfold putRun
  split
  · exact .refl s
  · exact (setF_mute _ _ (by simp only [fldAddr, pageAddr, rptIrqStat, CMN.CTRL_RUN]; omega)).trans
      (setF_mute _ _ (by simp only [fldAddr, pageAddr, rptIrqStat, CMN.GEN_WRITE_GEN]; omega))

theorem reactionRun_mute (e : Nat) (run : Bool) (s : State) : Mute s (reactionRun e run s) := by
  unfold reactionRun
  split
  · exact .of_same rfl rfl rfl
  · split
    · exact .refl s
    · exact (putRun_mute _ run s).trans (noteCycle_mute ..)

theorem retryRuns_mute (s : State) : Mute s (retryRuns s) := by
  unfold retryRuns
  extract_lets due
  split
  · exact .refl s
  · refine Mute.trans ?_ (.fold (fun a r => reactionRun_mute _ _ a) due _)
    exact .of_same rfl rfl rfl

theorem stopEngine_mute (k e : Nat) (s : State) : Mute s (stopEngine k e s) := by
  unfold stopEngine
  split
  · exact (putScope_mute ..).trans (reactionRun_mute ..)
  · exact .refl s

theorem startQuiet_mute (k t : Nat) (s : State) : Mute s (startQuiet k t s) := by
  unfold startQuiet
  extract_lets c
  exact .ite (putScope_mute ..)

theorem latchScope_mute (k : Nat) (s : State) : Mute s (latchScope k s) := by
  have push (c : Scope) : Mute s (setIrq 2 18 (scopeRecord k 2 (putScope k c s))) :=
    ((putScope_mute k c s).trans (recPush_mute ..)).trans (setIrq_mute _ _ (by decide))
  unfold latchScope
  extract_lets c
  split
  · exact .refl s
  · split <;> exact push _

theorem reactScope_mute (k sev q t : Nat) (m : Msg) (latch : Bool) (s : State) : Mute s (reactScope k sev q t m latch s) := by
  unfold reactScope
  extract_lets c begins c' s1 s2 s3 s4 s5
  have h1 : Mute s s1 := putScope_mute ..
  have h2 : Mute s1 s2 := .ite (setIrq_mute _ _ (by decide))
  have h3 : Mute s2 s3 := .fold (fun a e => stopEngine_mute k e a) _ _
  have h4 : Mute s3 s4 := startQuiet_mute ..
  have h5 : Mute s4 s5 := .ite (.forN (fun g _ a => startQuiet_mute g t a) _)
  exact (((h1.trans h2).trans h3).trans h4).trans (h5.trans (.ite (latchScope_mute ..)))

/-- A message brings an active fault or, for an injected pass, has severity 0 and sets no interrupt (R351, R354, R368). -/
theorem receive_rptIrqHasFault (grp : Bool) (m : Msg) {s : State} (h : RptIrqHasFault s) : RptIrqHasFault (receive grp m s) := by
  unfold receive
  extract_lets e sev k latch latches flags q h' page high epis fs s1 s2 s3 s4 s5 s6
  have idle (inj : m.inj = 1) : Mute s s1 := .of_same rfl (if_neg fun c => c.2 inj) (if_pos (.inr inj))
  have active (inj : m.inj ≠ 1) : FaultActive s1 := by
    by_cases c : epis
    · exact .inl (by simp [s1, c, inj])
    · exact .inr (by simp [s1, c, inj])
  clear_value s1
  have h3 : Mute s1 s3 := by
    refine Mute.trans (t := s2) (setF_mute _ _ ?_) (Mute.trans (incSat_mute _ ?_) (noteCycle_mute ..))
    · simp only [fldAddr, pageAddr, rptIrqStat, CMN.FLT_STAT_LAST_KIND]
      omega
    · simp only [fldAddr, pageAddr, rptIrqStat, CMN.FLT_STAT_COUNT]
      omega
  clear_value s3
  have h4 : RptIrqHasFault s4 := by
    by_cases inj : m.inj = 1
    · have silent : sev = 0 := if_pos inj
      have same : s4 = s3 := if_neg (by omega)
      rw [same]
      exact ((idle inj).trans h3).rptIrqHasFault h
    · have active3 : FaultActive s3 := h3.faultActive (active inj)
      refine .inr ?_
      simp only [s4]
      split
      · exact (faultActive_setIrq ..).2 active3
      · exact active3
  have h5 : Mute s4 s5 := .ite (reactScope_mute ..)
  have h6 : Mute s5 s6 := recPush_mute ..
  refine Mute.rptIrqHasFault ?_ ((h5.trans h6).rptIrqHasFault h4)
  refine .ite ?_
  split
  · exact .of_same rfl rfl rfl
  · exact incSat_mute _ (by decide)

theorem regroup_mute (s : State) : Mute s (regroup s) := by
  unfold regroup
  extract_lets mine order new
  split
  · exact .refl s
  · exact ⟨rfl, List.map_eq_nil_iff, rfl⟩

theorem collect_rptIrqHasFault {s : State} (h : RptIrqHasFault s) : RptIrqHasFault (collect s) := by
  unfold collect receiveGroup
  refine (regroup_mute _).rptIrqHasFault ?_
  exact List.foldlRecOn _ _ h fun _ ha _ _ => List.foldlRecOn _ _ ha fun _ hb m _ => receive_rptIrqHasFault _ m hb

/-! ### Steps of the legs, the outputs and the recorder -/

theorem setLegF_mute {f : Fld} {l : Nat} (v : Nat) (s : State) (hf : f.off + 7 * f.stride < 0x400) (hl : l < 16) :
    Mute s (setLegF f l v s) := by
  refine setF_mute _ _ ?_
  have : f.stride * (l % 8) ≤ 7 * f.stride := by
    rw [Nat.mul_comm 7]
    exact Nat.mul_le_mul_left _ (by omega)
  simp only [fldAddr, pageAddr, legPg, rptIrqStat]
  omega

theorem putLeg_mute (l : Nat) (x : LegState) (s : State) : Mute s (putLeg l x s) := .of_same rfl rfl rfl

theorem refreshLeg_mute {l : Nat} (hl : l < 16) (s : State) : Mute s (refreshLeg l s) := by
  unfold refreshLeg
  extract_lets x
  split
  · exact .refl s
  · refine .ite ?_
    split
    · refine Mute.trans ?_ (putLeg_mute ..)
      split
      · exact .refl s
      · exact (setLegF_mute _ _ (by decide) hl).trans (setLegF_mute _ _ (by decide) hl)
    · exact putLeg_mute ..

theorem beginDecay_mute {l : Nat} (m : Nat) (hl : l < 16) (s : State) : Mute s (beginDecay l m s) := by
  unfold beginDecay refreshPair
  refine ((putLeg_mute ..).trans (refreshLeg_mute hl _)).trans (refreshLeg_mute ?_ _)
  unfold partnerOf
  split <;> omega

theorem endProfile_mute {l : Nat} (st m : Nat) (hl : l < 16) (s : State) : Mute s (endProfile l st m s) := by
  have count : Mute s (countOn l s) := by
    unfold countOn
    extract_lets x
    split
    · exact .refl s
    · exact putLeg_mute ..
  have ramp (s : State) : Mute s (endRamp l s) := by
    unfold endRamp
    extract_lets x
    exact .ite ((putLeg_mute ..).trans (setLegF_mute _ _ (by decide) hl))
  unfold endProfile
  exact ((count.trans (ramp _)).trans (putLeg_mute ..)).trans (beginDecay_mute m hl _)

theorem legSettle_mute {l : Nat} (hl : l < 16) (s : State) : Mute s (legSettle l s) := by
  have block (s : State) : Mute s (blockCmd l s) :=
    ((setLegF_mute _ _ (by decide) hl).trans (setLegF_mute _ _ (by decide) hl)).trans
      (setIrq_mute _ _ (by unfold legPg; omega))
  unfold legSettle
  refine .ite ?_
  extract_lets x s1
  have h1 : Mute s s1 := .ite ((putLeg_mute ..).trans (block _))
  split
  · exact h1.trans (endProfile_mute 3 1 hl _)
  · exact h1.trans (.ite (beginDecay_mute 1 hl _))

theorem settleLegs_mute (s : State) : Mute s (settleLegs s) := by
  have edge (s : State) : Mute s (dinEdge s) := by
    unfold dinEdge
    extract_lets r
    split
    · exact .refl s
    · exact setIrq_mute _ _ (by decide)
  exact (Mute.forN (fun l hl a => legSettle_mute hl a) s).trans (edge _)

theorem settleOutputs_mute (s : State) : Mute s (settleOutputs s) := by
  obtain ⟨d, hd⟩ := settleOutputs_withDrv s
  rw [hd]
  exact .of_same rfl rfl rfl

theorem dropRecord_mute (r : RecReq) (s : State) : Mute s (dropRecord r s) := by
  unfold dropRecord
  extract_lets sev s1 src s2
  have h1 : Mute s s1 := by
    refine (incSat_mute _ ?_).trans (noteBit_mute ..)
    have : Nat.min 4 sev ≤ 4 := Nat.min_le_left _ _
    simp only [fldAddr, pageAddr, REC.DROP_COUNT, recPg, rptIrqStat]
    omega
  have h2 : Mute s1 s2 := .ite (.of_same rfl rfl rfl)
  split
  · exact h1.trans h2
  · have episode : Mute s2 (setB REC.STAT_DROP_EP recPg 0 true s2) := setF_mute _ _ (by decide)
    have irq (t : State) : Mute t (setIrq recPg 16 t) := setIrq_mute _ _ (by decide)
    exact (((h1.trans h2).trans episode).trans (irq _)).trans (raise_mute ..)

theorem enqueue_mute (r : RecReq) (s : State) : Mute s (enqueue r s) := by
  unfold enqueue queueDepth
  split
  · refine Mute.trans ?_ ((setF_mute _ _ (by decide)).trans (setF_mute _ _ (by decide)))
    exact .of_same rfl rfl rfl
  · exact (incSat_mute _ (by decide)).trans (dropRecord_mute ..)

theorem intake_mute (s : State) : Mute s (intake s) := by
  unfold intake
  extract_lets now l
  split
  · exact .refl s
  · refine Mute.trans ?_ (.fold (fun a r => enqueue_mute r a) l _)
    exact .of_same rfl rfl rfl

/-! ### Settling -/

theorem rptIrqHasFault_keepQueue (s t : State) : RptIrqHasFault (keepQueue s t) ↔ RptIrqHasFault t := .rfl

theorem settleRounds_rptIrqHasFault (n : Nat) {s : State} (h : RptIrqHasFault s) : RptIrqHasFault (settleRounds n s) := by
  have one {s : State} (h : RptIrqHasFault s) : RptIrqHasFault (settleRound s) :=
    (((settleLegs_mute _).trans (settleOutputs_mute _)).trans (intake_mute _)).rptIrqHasFault (collect_rptIrqHasFault h)
  induction n generalizing s with
  | zero => exact one h
  | succ n ih =>
    unfold settleRounds
    extract_lets t
    split
    · exact one h
    · exact ih (one h)

/-- Settling sets no bit of the repeater page's IRQ_STAT without an active fault beside it: the collector sets bits there for the messages
that it takes, and none of what settling does ends a fault. -/
theorem settle_rptIrqHasFault {s : State} (h : RptIrqHasFault s) : RptIrqHasFault (settle s) := by
  unfold settle
  refine (settleOutputs_mute _).rptIrqHasFault ?_
  refine Mute.rptIrqHasFault (s := settleLegs (collect (settleRounds 6 (retryRuns s))))
    (.of_reg (rdReg_reach _ _ _ (by decide) _) (reach_flt _ _ _ (by decide))) ?_
  exact (settleLegs_mute _).rptIrqHasFault
    (collect_rptIrqHasFault (settleRounds_rptIrqHasFault 6 ((retryRuns_mute s).rptIrqHasFault h)))

/-! ### A readback episode that ends with its message on its way -/

/-- The device right after reset, but that repeater output 0 is high, and that a message of its readback has not reached the collector. -/
def readbackOnItsWay : State :=
  putRpt 0 { RptOut.idle with level := true }
    { State.reset with flt := { State.reset.flt with outbox := [⟨0x38 * 256 + 1, kRptReadback, 0, 0, 0, 0, 0, 0, 0⟩] } }

theorem readbackOnItsWay_awake : Awake readbackOnItsWay := ⟨rfl, by change bitAt 0 4 = false; decide⟩

/-- A readback that agrees there ends the episode, for which the collector takes the message: IRQ_STAT shows it, and no fault is active. -/
theorem rptEdgeCheck_readbackOnItsWay :
    ¬ RptIrqHasFault (settle (reach [.regs, .flt, .recd, .rpt] (rptEdgeCheck 0 true) (clearReports readbackOnItsWay))) := by
  unfold RptIrqHasFault FaultActive
  decide +kernel

/-! ### A RANGE write to a bit that the notes name -/

/-- The device right after reset, but that CHi_RANGE.RANGE of channel 0 reads 1, and that the notes of the present cycle name this bit. -/
def notedRange : State := noteBit (pageAddr 0x10 0x104) 0 (wrReg State.reset (pageAddr 0x10 0x104) 1)

theorem notedRange_awake : Awake notedRange := ⟨rfl, by change bitAt 0 4 = false; decide⟩

/-- SUP may write the RANGE field there: neither ownership nor LOCK binds it (R31, R33). -/
theorem sup_mayWrite_notedRange : MayWrite .sup (snsPage 0) true notedRange := ⟨rfl, by decide +kernel, rfl, .inl rfl⟩

end Sys2Proof.Machine

namespace Sys2Proof.Proofs
open Sys2Proof Sys2Proof.Machine

/-- Refutes O22: repeater output 0 is high, and a message of its readback is on its way to the collector; a readback that agrees ends the
episode, for which the collector takes the message, and IRQ_STAT of the repeater page changes beside OUT_STAT. -/
theorem not_senseEnginesActOnTheirChannels : ¬ Obligations.Sense_Engines_Act_On_Their_Channels := by
  unfold Obligations.Sense_Engines_Act_On_Their_Channels
  intro h
  obtain ⟨-, -, -, -, -, -, u, settles, -, -, -, high, -, -⟩ :=
    h 0 ⟨[], [], [], [], []⟩ 0 0 0 true readbackOnItsWay readbackOnItsWay_awake
  obtain ⟨-, regs⟩ := high rfl rfl
  have clear : RptIrqHasFault u := .inl (regs rptIrqStat (by decide))
  have same : keepQueue readbackOnItsWay (settle u) = keepQueue readbackOnItsWay (settle _) :=
    Host.Outcome.next.inj (settles.symm.trans (settles_finish readbackOnItsWay_awake rfl))
  have settled := settle_rptIrqHasFault clear
  rw [← rptIrqHasFault_keepQueue readbackOnItsWay, same, rptIrqHasFault_keepQueue] at settled
  exact rptEdgeCheck_readbackOnItsWay settled

/-- Refutes O23: RANGE of channel 0 reads 1, and the notes of the cycle name its bit 0; SUP writes range 4, the write is done, and RANGE
reads 5. -/
theorem not_senseCommandsActOnTheirPage : ¬ Obligations.Sense_Commands_Act_On_Their_Page := by
  unfold Obligations.Sense_Commands_Act_On_Their_Page
  intro h
  obtain ⟨write, -⟩ := h .sup 0 4 0 notedRange notedRange_awake
  have does := write sup_mayWrite_notedRange (by decide) (by decide +kernel) (by decide +kernel)
  obtain ⟨u, ⟨-, -, range, -⟩, same⟩ := Does.quiet does (settles_write notedRange_awake (by decide) rfl)
  rw [same _ (by decide)] at range
  exact absurd range (by decide +kernel)

end Sys2Proof.Proofs
end

section
/-!
PROOFS. Accesses to windows (O20, O21). A read of a window's data register shows the addressed word, and a permitted write puts it. Both leave
the same trail beside the word: holds, the advance of the window's address (R504), the report, notes of the cycle, and the mark of a running
shadow digest (R465); of the registers they touch those of the window's page alone. `Window` says once for every window what its data
register is, shows and moves; the two statements are then a line for each read and the chapter's own effect for each write.
-/
namespace Sys2Proof.Machine

/-! ### What an access leaves beside its word -/

/-- An operation that touches, of the registers, those of page `p` alone, and asks for no reset. -/
def OnlyPage (p : Nat) (s t : State) : Prop := t.pwr = s.pwr ∧ ∀ a, a / 0x400 ≠ p → rdReg t a = rdReg s a

/-- What an access to page `p` leaves beside its effect: registers of the page, the bus, notes of the cycle and the shadow digest. -/
def Trails (p : Nat) (s t : State) : Prop :=
  (∃ r b c d, t = { s with regs := r, bus := b, cyc := c, dig := d }) ∧ ∀ a, a / 0x400 ≠ p → rdReg t a = rdReg s a

theorem OnlyPage.trans {p : Nat} {s t u : State} (h : OnlyPage p s t) (g : OnlyPage p t u) : OnlyPage p s u :=
  ⟨g.1.trans h.1, fun a ha => (g.2 a ha).trans (h.2 a ha)⟩

namespace Trails

theorem refl (p : Nat) (s : State) : Trails p s s := ⟨⟨s.regs, s.bus, s.cyc, s.dig, rfl⟩, fun _ _ => rfl⟩

theorem trans {p : Nat} {s t u : State} (h : Trails p s t) (g : Trails p t u) : Trails p s u := by
  obtain ⟨⟨_, _, _, _, rfl⟩, h⟩ := h
  obtain ⟨⟨_, _, _, _, rfl⟩, g⟩ := g
  exact ⟨⟨_, _, _, _, rfl⟩, fun a ha => (g a ha).trans (h a ha)⟩

/-- A step that leaves the registers. -/
theorem of_regs {p : Nat} {s : State} (b : BusState) (c : Cycle) (d : DigState) : Trails p s { s with bus := b, cyc := c, dig := d } :=
  ⟨⟨s.regs, b, c, d, rfl⟩, fun _ _ => rfl⟩

theorem setF {f : Fld} (hf : f.off < 0x400) (p v : Nat) (s : State) : Trails p s (setF f p 0 v s) := by
  refine ⟨⟨_, _, _, _, rfl⟩, fun a ha => rdReg_setF_ne f p 0 v s fun e => ha ?_⟩
  rw [← e, fldAddr, pageAddr]
  omega

theorem ite {p : Nat} {c : Prop} [Decidable c] {s t : State} (h : Trails p s t) : Trails p s (if c then t else s) := by
  split
  · exact h
  · exact refl p s

theorem onlyPage {p : Nat} {s t : State} (h : Trails p s t) : OnlyPage p s t := by
  obtain ⟨⟨_, _, _, _, rfl⟩, h⟩ := h
  exact ⟨rfl, h⟩

/-- Every other part stands. -/
theorem keeps {p : Nat} {s t : State} (h : Trails p s t) {q : Part} (hq : q ∉ [Part.regs, .bus, .dig]) : agree q s t := by
  obtain ⟨⟨_, _, _, _, rfl⟩, -⟩ := h
  cases q
  case regs | bus | dig => simp at hq
  all_goals rfl

end Trails

theorem shadowTouched_trails (p q : Nat) (s : State) : Trails p s (shadowTouched q s) := by
  unfold shadowTouched
  split
  · exact .ite (.of_regs _ _ _)
  · exact .refl p s

theorem withHolds_onlyPage (p : Nat) (s : State) (l : List Hold) : OnlyPage p s (withHolds s l) := ⟨rfl, fun _ _ => rfl⟩

/-! ### Words of windows -/

theorem getShd_setShd (p area k : Nat) (v : Word) (s : State) : getShd p area k (setShd p area k v s) = v := by simp only [getShd, setShd, tabGet_set_self]

theorem getAct_setAct (p area k : Nat) (v : Word) (s : State) : getAct p area k (setAct p area k v s) = v := by simp only [getAct, setAct, tabGet_set_self]

theorem getShd_congr {p area k : Nat} {s t : State} (h : t.win = s.win) : getShd p area k t = getShd p area k s := by simp only [getShd, h]

theorem getAct_congr {p area k : Nat} {s t : State} (h : t.act = s.act) : getAct p area k t = getAct p area k s := by simp only [getAct, h]

theorem setShd_onlyPage (p q area k : Nat) (v : Word) (s : State) : OnlyPage p s (setShd q area k v s) :=
  ⟨by rw [setShd], fun a _ => by rw [setShd, rdReg, rdReg]⟩

theorem setAct_onlyPage (p q area k : Nat) (v : Word) (s : State) : OnlyPage p s (setAct q area k v s) :=
  ⟨by rw [setAct], fun a _ => by rw [setAct, rdReg, rdReg]⟩

/-! ### From an access to its command -/

/-- The command of one access that touches one page's registers: it is reported done, and the facts about its effect stand. -/
theorem does_access {i : Instr} {ps : List Part} {f : State → State} {party : Party} {a p : Nat} {fact : State → Prop} {s : State} (awake : Awake s)
    (he : exec i s = .next (finishWrite (reach ps f) s)) (hregs : Part.regs ∈ ps) (hbus : Part.bus ∈ ps)
    (page : OnlyPage p (clearReports s) (f (clearReports s))) (acked : Acked party a (f (clearReports s))) (holds : fact (reach ps f (clearReports s))) :
    Does i s fun u => Acked party a u ∧ Outside [p] s u ∧ fact u := by
  have pwr : (reach ps f (clearReports s)).pwr = s.pwr := by
    by_cases h : Part.pwr ∈ ps
    · rw [reach_pwr _ _ _ h, page.1, clearReports_pwr]
    · rw [(reach_agree h (clearReports s) : (reach ps f (clearReports s)).pwr = (clearReports s).pwr), clearReports_pwr]
  refine ⟨_, settles_write_pwr awake (by rw [pwr]; exact awake.2) he, ?_, fun b _ hb => ?_, holds⟩
  · rw [Acked, reach_bus _ _ _ hbus]
    exact acked
  · rw [rdReg_reach _ _ _ hregs]
    exact page.2 b fun e => hb (List.mem_singleton.2 e)

/-- A part that a command reaches stands as its operation leaves it. -/
theorem reach_agree_mem {ps : List Part} {f : State → State} {q : Part} (h : q ∈ ps) (s : State) : agree q (f s) (reach ps f s) := by
  cases q <;> simp [agree, reach, h]

/-! ### A write that is alone in its cycle -/

/-- A write that its place takes: it is reported done, and the state is what the place makes of it. -/
theorem writeAccess_done {party : Party} {a : Nat} {v : Word} {pl : Place} {s : State} {out : List Hold → State} (hpl : placeOf a s = pl)
    (hrun : runTouched s ⟨party, a, v⟩ = none) (hw : ∀ l, placeWriteSeen s party v pl (withHolds s l) = (.done, out l)) :
    ∃ l c, writeAccess ⟨party, a, v⟩ s = withReports (withCyc (out l) c) (s.bus.reports ++ [⟨party, a, .done⟩]) := by
  obtain ⟨l, hl⟩ := touchHolds_eq party a (holdKey a s) false s
  obtain ⟨c, hc⟩ := noteWas_eq a (placeWord party pl s) (out l)
  have lose : losesToReaction s ⟨party, a, v⟩ s = false := by simp only [losesToReaction, hrun, Bool.and_false]
  have run (t u : State) : noteRun s ⟨party, a, v⟩ t u = u := by simp only [noteRun, hrun, ite_self]
  have seen : busWriteSeen s ⟨party, a, v⟩ s = (.done, withCyc (out l) c) := by
    simp only [busWriteSeen, hl, hpl, hw, if_true, run, hc]
  refine ⟨l, c, ?_⟩
  rw [writeAccess_eq, busWrite, lose, if_neg (by decide), seen]

/-- A register takes a write that its judgement accepts. -/
theorem placeWrite_taken {party : Party} {p off : Nat} {v : Word} {d : RegDesc} {s t u : State}
    (h : judgeReg (cycleCx s party v p off d t) t = .ok u) : placeWriteSeen s party v (.register p off d) t
      = (.done, regAdvance party p off false (if Res.done = .done ∧ shadowData p off = true then shadowTouched p u else u)) := by
  simp only [placeWriteSeen, h]

/-- The trail of a write that its place takes. -/
theorem writeAccess_trails (p : Nat) {party : Party} {a : Nat} {v : Word} {pl : Place} {s : State} {out : List Hold → State}
    (hpl : placeOf a s = pl) (hrun : runTouched s ⟨party, a, v⟩ = none)
    (hw : ∀ l, placeWriteSeen s party v pl (withHolds s l) = (.done, out l)) :
    ∃ l, Trails p (out l) (writeAccess ⟨party, a, v⟩ s) ∧ (writeAccess ⟨party, a, v⟩ s).bus.reports = s.bus.reports ++ [⟨party, a, .done⟩] := by
  obtain ⟨l, c, e⟩ := writeAccess_done hpl hrun hw
  exact ⟨l, by rw [e]; exact .of_regs _ _ _, by rw [e]; rfl⟩

/-! ### Windows -/

/-- The row of a window's data register (R502). -/
def winDesc (off : Nat) : RegDesc := ⟨off, 0, 1, [rfWin 31 0 .rw 0]⟩

/-- Whether the register at an offset of a page is a window's data register. -/
def isWindow (p off : Nat) : Bool :=
  decide (p < 64 ∧ 0x100 ≤ off ∧ off < 0x400 ∧ off % 4 = 0 ∧ (pageKind p).isNone = false ∧ regAt p off = some (winDesc off))

/-- The register at an offset of a page is the data register of a window, which shows a party the addressed word `word` and whose writes
are judged by `write`; the holds that a read of it makes and the advance of its address leave nothing but their trail. -/
structure Window (party : Party) (p off : Nat) (word : State → Word) (write : WriteCx → State → WrOut) : Prop where
  row : isWindow p off = true
  shows : ∀ s, blockRead party p off s = some (word s)
  still : ∀ s l, word (withHolds s l) = word s
  holds : ∀ s, Trails p s (regReadHold party p off s)
  advances : ∀ read s, Trails p s (regAdvance party p off read s)
  chapter : ∀ v d s l, blockWrite (cxOf party p off v d s l) (withHolds s l) = write (cxOf party p off v d s l) (withHolds s l)

/-- A party may write a window of a page, its chapter's own checks apart: the page has power, the party is not barred, and no LOCK
stands against it (R20, R33, R449). -/
def Open (party : Party) (p : Nat) (s : State) : Prop :=
  pageOff p s = false ∧ partyBarred party (some p) s = false ∧ (locked p s = false ∨ party = .sup)

theorem MayWrite.isOpen {party : Party} {p : Nat} {s : State} (h : MayWrite party p false s) : Open party p s :=
  ⟨h.1, h.2.1, h.2.2.2.resolve_left (by decide)⟩

theorem MayWrite.owns {party : Party} {p : Nat} {oper : Bool} {s : State} (h : MayWrite party p oper s) : pageOwns p party s = true := h.2.2.1

theorem MayWriteUnit.owns {party : Party} {p u : Nat} {oper : Bool} {s : State} (h : MayWriteUnit party p u oper s) : unitOwns p u party s = true :=
  h.2.2.1

theorem MayWriteUnit.isOpen {party : Party} {p u : Nat} {s : State} (h : MayWriteUnit party p u false s) : Open party p s :=
  ⟨h.1, h.2.1, h.2.2.2.resolve_left (by decide)⟩

namespace Window
variable {party : Party} {p off : Nat} {word : State → Word} {write : WriteCx → State → WrOut} (w : Window party p off word write)
include w

theorem facts : p < 64 ∧ 0x100 ≤ off ∧ off < 0x400 ∧ off % 4 = 0 ∧ (pageKind p).isNone = false ∧ regAt p off = some (winDesc off) :=
  of_decide_eq_true w.row

theorem page : pageAddr p off / 0x400 = p := by
  have := w.facts.2.2.1
  unfold pageAddr
  omega

theorem place {s : State} (h : pageOff p s = false) : placeOf (pageAddr p off) s = .register p off (winDesc off) := by
  obtain ⟨hp, -, ho, h4, hk, hd⟩ := w.facts
  exact placeOf_page hp ho h4 hk h hd

/-- The data register shows its party the addressed word. -/
theorem regWord_eq (s : State) : regWord party p off (winDesc off) s = word s := by
  have ho := w.facts.2.1
  unfold regWord
  rw [if_neg (by omega), if_neg (by omega), if_neg (by omega), if_neg (by omega), w.shows]

/-! #### Reads -/

/-- A read of a window's data register returns the addressed word and leaves its trail. -/
theorem regRead_done {s : State} (h : Readable party (pageAddr p off) s) :
    (regRead party p off s).bus.reports = s.bus.reports ++ [⟨party, pageAddr p off, .done⟩]
    ∧ (regRead party p off s).bus.readData = s.bus.readData ++ [word s] ∧ Trails p s (regRead party p off s) := by
  obtain ⟨hp, -, ho, -⟩ := w.facts
  have on : pageOff p s = false := by
    have := h.2 (by unfold pageAddr; omega)
    rwa [w.page] at this
  obtain ⟨l, hl⟩ := touchHolds_eq party (pageAddr p off) (holdKey (pageAddr p off) s) true s
  have read : busRead party (pageAddr p off) s
      = (word s, .done, regAdvance party p off true (regReadHold party p off (withHolds s l))) := by
    simp only [busRead, h.1, w.place on, hl, placeRead, w.regWord_eq, w.still]
  simp only [regRead, readAccess, read]
  exact ⟨trivial, trivial, ((Trails.of_regs _ _ _).trans (w.holds _)).trans ((w.advances _ _).trans (.of_regs _ _ _))⟩

/-- The command of a read of a window's data register. -/
theorem does_read {i : Instr} {ps : List Part} {s : State} (awake : Awake s)
    (he : exec i s = .next (finishWrite (reach ps (regRead party p off)) s)) (hregs : Part.regs ∈ ps) (hbus : Part.bus ∈ ps)
    (h : Readable party (pageAddr p off) s) :
    Does i s fun u => Acked party (pageAddr p off) u ∧ u.bus.readData = [word (clearReports s)] ∧ Outside [p] s u := by
  obtain ⟨reports, data, trail⟩ := w.regRead_done (s := clearReports s) h
  obtain ⟨u, settles, acked, outside, read⟩ := does_access (fact := fun u => u.bus.readData = [word (clearReports s)])
    awake he hregs hbus trail.onlyPage reports (by rw [reach_bus _ _ _ hbus, data]; rfl)
  exact ⟨u, settles, acked, read, outside⟩

/-! #### Writes -/

/-- A write of a window's data register that is open to the party is judged by the window's own chapter. -/
theorem judgeReg_eq {v : Word} {s : State} (h : Open party p s) (l : List Hold) :
    judgeReg (cxOf party p off v (winDesc off) s l) (withHolds s l) = write (cxOf party p off v (winDesc off) s l) (withHolds s l) := by
  obtain ⟨-, barred, lock⟩ := h
  have fields : (cxOf party p off v (winDesc off) s l).fields = [rfWin 31 0 .rw 0] := rfl
  have unlocked : locked (cxOf party p off v (winDesc off) s l).page (withHolds s l) = false
      ∨ (cxOf party p off v (winDesc off) s l).party = .sup := lock
  have permitted : fieldsPermitted (cxOf party p off v (winDesc off) s l) (withHolds s l) = true := by
    rw [fieldsPermitted, fields]
    rcases unlocked with e | e <;> simp [e, ownerPermits, rfWin]
  rw [judgeReg_block barred rfl permitted (.inl (by simp [fields])) (Nat.not_lt.2 w.facts.2.1), w.chapter]

/-- A write that the window's chapter takes is reported done and leaves its trail beside the chapter's effect. -/
theorem regWrite_done {v : Word} {s : State} {put : List Hold → State} (h : Open party p s)
    (hw : ∀ l, ∃ t, write (cxOf party p off v (winDesc off) s l) (withHolds s l) = .ok t ∧ Trails p (put l) t) :
    ∃ l, Trails p (put l) (regWrite party p off v s)
      ∧ (regWrite party p off v s).bus.reports = s.bus.reports ++ [⟨party, pageAddr p off, .done⟩] := by
  choose out taken puts using hw
  have pl := w.place h.1
  have run : runTouched s ⟨party, pageAddr p off, v⟩ = none := runTouched_none pl fun e => by
    have := w.facts.2.1
    omega
  obtain ⟨l, trail, reports⟩ := writeAccess_trails p pl run fun l => placeWrite_taken ((w.judgeReg_eq h l).trans (taken l))
  exact ⟨l, (((puts l).trans (.ite (shadowTouched_trails p p (out l)))).trans (w.advances _ _)).trans trail, reports⟩

/-- The command of a write of a window's data register: what the chapter's effect fixes stands when the command has ended. -/
theorem does_write {i : Instr} {ps : List Part} {v : Word} {s : State} {put : List Hold → State} {fact : State → Prop} (awake : Awake s)
    (he : exec i s = .next (finishWrite (reach ps (regWrite party p off v)) s)) (hregs : Part.regs ∈ ps) (hbus : Part.bus ∈ ps)
    (h : Open party p s)
    (hw : ∀ l, ∃ t, write (cxOf party p off v (winDesc off) (clearReports s) l) (withHolds (clearReports s) l) = .ok t ∧ Trails p (put l) t)
    (page : ∀ l, OnlyPage p (clearReports s) (put l)) (hf : ∀ l u, (∀ q ∈ ps, q ∉ [Part.regs, .bus, .dig] → agree q (put l) u) → fact u) :
    Does i s fun u => Acked party (pageAddr p off) u ∧ Outside [pageAddr p off / 0x400] s u ∧ fact u := by
  obtain ⟨l, trail, reports⟩ := w.regWrite_done (s := clearReports s) h hw
  rw [w.page]
  refine does_access awake he hregs hbus ((page l).trans trail.onlyPage) reports (hf l _ fun q hq other => ?_)
  exact agree_trans (trail.keeps other) (reach_agree_mem hq _)

/-- A write whose effect is a word of a shadow copy. -/
theorem puts_shd {i : Instr} {ps : List Part} {v x : Word} {q area k : Nat} {s : State} (awake : Awake s)
    (he : exec i s = .next (finishWrite (reach ps (regWrite party p off v)) s)) (hps : Part.regs ∈ ps ∧ Part.bus ∈ ps ∧ Part.win ∈ ps)
    (h : Open party p s)
    (hw : ∀ l, ∃ t, write (cxOf party p off v (winDesc off) (clearReports s) l) (withHolds (clearReports s) l) = .ok t
      ∧ Trails p (setShd q area k x (withHolds (clearReports s) l)) t) :
    Does i s fun u => Acked party (pageAddr p off) u ∧ Outside [pageAddr p off / 0x400] s u ∧ getShd q area k u = x := by
  refine w.does_write awake he hps.1 hps.2.1 h hw (fun _ => (withHolds_onlyPage ..).trans (setShd_onlyPage ..)) fun l u same => ?_
  exact (getShd_congr (same .win hps.2.2 (by decide))).trans (getShd_setShd ..)

/-- A write whose effect is a word of an active copy. -/
theorem puts_act {i : Instr} {ps : List Part} {v x : Word} {q area k : Nat} {s : State} (awake : Awake s)
    (he : exec i s = .next (finishWrite (reach ps (regWrite party p off v)) s)) (hps : Part.regs ∈ ps ∧ Part.bus ∈ ps ∧ Part.act ∈ ps)
    (h : Open party p s)
    (hw : ∀ l, ∃ t, write (cxOf party p off v (winDesc off) (clearReports s) l) (withHolds (clearReports s) l) = .ok t
      ∧ Trails p (setAct q area k x (withHolds (clearReports s) l)) t) :
    Does i s fun u => Acked party (pageAddr p off) u ∧ Outside [pageAddr p off / 0x400] s u ∧ getAct q area k u = x := by
  refine w.does_write awake he hps.1 hps.2.1 h hw (fun _ => (withHolds_onlyPage ..).trans (setAct_onlyPage ..)) fun l u same => ?_
  exact (getAct_congr (same .act hps.2.2 (by decide))).trans (getAct_setAct ..)

end Window

/-! ### Every window of the device -/

/-- A window whose address register stands in the page moves one of its fields. -/
theorem field_advances {f : Fld} (hf : f.off < 0x400) (p v : Nat) (c : Prop) [Decidable c] (s : State) :
    Trails p s (if c then setF f p 0 v s else s) := .ite (.setF hf p v s)

/-- A window whose address register each party has for itself moves that. -/
theorem party_advances (party : Party) (a : Nat) (v : Word) (p : Nat) (c : Prop) [Decidable c] (s : State) :
    Trails p s (if c then wrParty party a v s else s) := .ite (.of_regs _ _ _)

theorem coef_window (party : Party) : ∀ sp : Fin 3, Window party (snsPageOf sp) 0x3F4 (coefRead (snsPageOf sp)) coefWrite
  | 0 | 1 | 2 => ⟨by decide, fun _ => rfl, fun _ _ => rfl, fun s => .refl _ s, fun _ _ => field_advances (by decide) _ _ _ _, fun _ _ _ _ => rfl⟩

theorem tbl_window (party : Party) : Window party moiPg 0x314 tblRead tblWrite :=
  ⟨by decide, fun _ => rfl, fun _ _ => rfl, fun s => .refl _ s, fun _ _ => field_advances (by decide) _ _ _ _, fun _ _ _ _ => rfl⟩

theorem lpa_window (party : Party) : ∀ lp : Fin 2, Window party (0x18 + lp.val) 0x38C (lpaWinRead (0x18 + lp.val)) lpaWinWrite
  | 0 | 1 => ⟨by decide, fun _ => rfl, fun _ _ => rfl, fun s => .refl _ s, fun _ _ => field_advances (by decide) _ _ _ _, fun _ _ _ _ => rfl⟩

theorem prf_window (party : Party) : Window party prfPg 0x304 prfWinRead prfWinWrite :=
  ⟨by decide, fun _ => rfl, fun _ _ => rfl, fun s => .refl _ s, fun _ _ => field_advances (by decide) _ _ _ _, fun _ _ _ _ => rfl⟩

theorem ldg_window (party : Party) : Window party ldgPg 0x204 ldgWinRead ldgWinWrite :=
  ⟨by decide, fun _ => rfl, fun _ _ => rfl, fun s => .refl _ s, fun _ _ => field_advances (by decide) _ _ _ _, fun _ _ _ _ => rfl⟩

theorem fan_window (party : Party) : Window party fanPg 0x344
    (fun s => getShd fanPg (getW FAN.WIN_ADDR_AREA fanPg 0 s) (getW FAN.WIN_ADDR_WORD fanPg 0 s) s) fanWinWrite :=
  ⟨by decide, fun _ => rfl, fun _ _ => rfl, fun s => .refl _ s, fun _ _ => field_advances (by decide) _ _ _ _, fun _ _ _ _ => rfl⟩

theorem mo_window (party : Party) : ∀ ctl : Fin 2, Window party (canPg ctl.val) 0x144
    (fun s => moWord (canPg ctl.val) (getW CAN.MO_ADDR_OBJ (canPg ctl.val) 0 s) (getW CAN.MO_ADDR_WORD (canPg ctl.val) 0 s) s) moWrite
  | 0 | 1 => ⟨by decide, fun _ => rfl, fun _ _ => rfl, fun _ => .ite (.of_regs _ _ _), fun _ _ => field_advances (by decide) _ _ _ _, fun _ _ _ _ => rfl⟩

theorem lnk_window (party : Party) : Window party lnkPg 0x144 (lnkWinRead party) lnkWinWrite :=
  ⟨by decide, fun _ => rfl, fun _ _ => rfl, fun s => .refl _ s, fun _ _ => party_advances _ _ _ _ _ _, fun _ _ _ _ => rfl⟩

theorem nvs_window (party : Party) : Window party nvsPg 0x104 (fun s => nvWord (nvsOffset party s) s)
    fun cx s => nvDataWrite cx.party cx.data s :=
  ⟨by decide, fun _ => rfl, fun _ _ => rfl, fun s => .refl _ s, fun _ _ => party_advances _ _ _ _ _ _, fun _ _ _ _ => rfl⟩

/-! ### What the windows' chapters make of a permitted write -/

/-- A write that counts in WRITE_GEN only where it changes the word leaves the count as its trail (R35). -/
theorem Trails.bump (p : Nat) (c : Prop) [Decidable c] (s : State) : Trails p s (if c then bumpWriteGen p s else s) :=
  .ite (.setF (by decide) ..)

theorem coefWrite_puts {cx : WriteCx} {s : State} (own : pageOwns cx.page cx.party s = true) (view : getB SNS.COEF_ADDR_VIEW cx.page 0 s = false)
    (form : getW SNS.COEF_ADDR_WORD cx.page 0 s = 0 → cxBits cx 1 0 ≠ 3) (zero : 12 ≤ getW SNS.COEF_ADDR_WORD cx.page 0 s → cx.data = 0) :
    ∃ t, coefWrite cx s = .ok t ∧ Trails cx.page
      (setShd cx.page 0 (coefIx cx.page s) (if getW SNS.COEF_ADDR_WORD cx.page 0 s = 0 then ofN (cxBits cx 1 0) else cx.data) s) t := by
  refine ⟨_, ?_, .refl ..⟩
  simpa [coefWrite, own, view] using ⟨form, zero⟩

/-- A calibration word is stored as written (R158). -/
theorem tblWrite_puts {cx : WriteCx} {s : State} (own : pageOwns moiPg cx.party s = true) (view : getB MOI.TBL_ADDR_VIEW moiPg 0 s = false)
    (swap : getB CMN.STAT_SWAP_PEND moiPg 0 s = false) (area : getW MOI.TBL_ADDR_AREA moiPg 0 s = 2) :
    ∃ t, tblWrite cx s = .ok t ∧ Trails moiPg (setShd moiPg 2 (getW MOI.TBL_ADDR_WORD moiPg 0 s) cx.data s) t :=
  ⟨_, by simp [tblWrite, own, view, swap, area], .refl ..⟩

/-- A gain set word is stored as written (R185, R196). -/
theorem lpaWinWrite_puts {cx : WriteCx} {s : State}
    (own : unitOwns cx.page (lpaWinSlot (getW LPA.WIN_ADDR_AREA cx.page 0 s) (getW LPA.WIN_ADDR_WORD cx.page 0 s)) cx.party s = true)
    (view : getB LPA.WIN_ADDR_VIEW cx.page 0 s = false) (swap : getB CMN.STAT_SWAP_PEND cx.page 0 s = false)
    (area : getW LPA.WIN_ADDR_AREA cx.page 0 s = 0) (good : gainBad (getW LPA.WIN_ADDR_WORD cx.page 0 s % 16) cx.data = false) :
    ∃ t, lpaWinWrite cx s = .ok t ∧ Trails cx.page (setShd cx.page 0 (getW LPA.WIN_ADDR_WORD cx.page 0 s) cx.data s) t := by
  rw [area] at own
  exact ⟨_, by simp [lpaWinWrite, own, view, swap, area, good], .refl ..⟩

/-- A parameter word is stored as written (R219). -/
theorem prfWinWrite_puts {cx : WriteCx} {s : State} (own : unitOwns prfPg (getW PRF.WIN_ADDR_WORD prfPg 0 s / 8) cx.party s = true)
    (area : getW PRF.WIN_ADDR_AREA prfPg 0 s = 0)
    (good : paramBad (getW PRF.WIN_ADDR_WORD prfPg 0 s / 8) (getW PRF.WIN_ADDR_WORD prfPg 0 s % 8) cx.data s = false) :
    ∃ t, prfWinWrite cx s = .ok t ∧ Trails prfPg (setShd prfPg 0 (getW PRF.WIN_ADDR_WORD prfPg 0 s) cx.data s) t :=
  ⟨_, by simp only [prfWinWrite, own, area, good]; rfl, .bump ..⟩

/-- The first word of a zone is stored as written (R252). -/
theorem ldgWinWrite_puts {cx : WriteCx} {s : State} (own : unitOwns ldgPg (getW LDG.WIN_ADDR_WORD ldgPg 0 s / 32) cx.party s = true)
    (view : getB LDG.WIN_ADDR_VIEW ldgPg 0 s = false) (swap : getB CMN.STAT_SWAP_PEND ldgPg 0 s = false)
    (area : getW LDG.WIN_ADDR_AREA ldgPg 0 s = 2) (first : getW LDG.WIN_ADDR_WORD ldgPg 0 s % 4 = 0) :
    ∃ t, ldgWinWrite cx s = .ok t ∧ Trails ldgPg (setShd ldgPg 2 (getW LDG.WIN_ADDR_WORD ldgPg 0 s) cx.data s) t :=
  ⟨_, by simp [ldgWinWrite, own, view, swap, area, first], .refl ..⟩

/-- A word of the fan window is stored without its reserved bits (R12, R344). -/
theorem fanWinWrite_puts {cx : WriteCx} {s : State}
    (own : unitOwns fanPg (fanWinUnit (getW FAN.WIN_ADDR_AREA fanPg 0 s) (getW FAN.WIN_ADDR_WORD fanPg 0 s)) cx.party s = true)
    (good : fanWordBad (getW FAN.WIN_ADDR_AREA fanPg 0 s) (getW FAN.WIN_ADDR_WORD fanPg 0 s) cx.data s = false) :
    ∃ t, fanWinWrite cx s = .ok t ∧ Trails fanPg (setShd fanPg (getW FAN.WIN_ADDR_AREA fanPg 0 s) (getW FAN.WIN_ADDR_WORD fanPg 0 s)
      (fanStored (getW FAN.WIN_ADDR_AREA fanPg 0 s) (getW FAN.WIN_ADDR_WORD fanPg 0 s) cx.data) s) t :=
  ⟨_, by simp only [fanWinWrite, own, good]; rfl, .bump ..⟩

/-- A word of a message object that waits for no transmission is stored without its reserved bits (R12, R418). -/
theorem moWrite_puts {cx : WriteCx} {s : State} (own : pageOwns cx.page cx.party s = true) (word : getW CAN.MO_ADDR_WORD cx.page 0 s ≠ 3)
    (free : moBit cx.page canTxReqOff (getW CAN.MO_ADDR_OBJ cx.page 0 s) s = false) :
    ∃ t, moWrite cx s = .ok t ∧ Trails cx.page (setAct cx.page 0 (getW CAN.MO_ADDR_OBJ cx.page 0 s * 20 + getW CAN.MO_ADDR_WORD cx.page 0 s)
      (moStored (getW CAN.MO_ADDR_WORD cx.page 0 s) cx.data) s) t :=
  ⟨_, by simp only [moWrite, own, word, free]; rfl, .bump ..⟩

/-- What a write of a cargo value leaves: the word, and the tick of its write, one up (R430). -/
def cvalPut (k : Nat) (v : Word) (s : State) : State :=
  { setAct lnkPg 1 k v s with lnk := { s.lnk with cvalTick := tabSet (fun _ => 0) s.lnk.cvalTick k (s.time.tick + 1) } }

theorem lnkWinWrite_puts {cx : WriteCx} {s : State} (own : pageOwns lnkPg cx.party s = true) {k : Nat} (at_ : lnkWin cx.party s = (1, k)) (hk : k < 64) :
    ∃ t, lnkWinWrite cx s = .ok t ∧ Trails lnkPg (cvalPut k cx.data s) t :=
  ⟨_, by simp [lnkWinWrite, own, at_, Nat.not_le.2 hk, cvalPut], .refl ..⟩

theorem cvalPut_onlyPage (p k : Nat) (v : Word) (s : State) : OnlyPage p s (cvalPut k v s) :=
  ⟨by rw [cvalPut, setAct], fun a _ => by rw [cvalPut, setAct, rdReg, rdReg]⟩

/-- The command of a permitted write of a cargo value (R430). -/
theorem cargoValue_does_write {party : Party} {v : Word} {s : State} (awake : Awake s) (h : MayWrite party lnkPg false s)
    (at_ : lnkWin party s = (1, (lnkWin party s).2)) (hk : (lnkWin party s).2 < 64) :
    Does (.lnkWinDataAccess party (some v)) s fun u => Acked party (pageAddr lnkPg 0x144) u ∧ Outside [pageAddr lnkPg 0x144 / 0x400] s u
      ∧ getAct lnkPg 1 (lnkWin party s).2 u = v ∧ tabGet (fun _ => (0 : Nat)) u.lnk.cvalTick (lnkWin party s).2 = s.time.tick + 1 := by
  refine (lnk_window party).does_write awake rfl (by decide) (by decide) h.isOpen (fun _ => lnkWinWrite_puts h.owns at_ hk)
    (fun _ => (withHolds_onlyPage ..).trans (cvalPut_onlyPage ..)) fun l u same => ⟨?_, ?_⟩
  · rw [getAct_congr (same .act (by decide) (by decide)), cvalPut]
    exact getAct_setAct ..
  · have stamp : u.lnk.cvalTick = tabSet (fun _ => 0) s.lnk.cvalTick (lnkWin party s).2 (s.time.tick + 1) :=
      congrArg LnkState.cvalTick (same .lnk (by decide) (by decide))
    rw [stamp, tabGet_set_self]

/-! ### The NV store -/

theorem wrByte_onlyPage (p a : Nat) (v : Byte) (s : State) : OnlyPage p s (wrByte s a v) :=
  ⟨by rw [wrByte], fun b _ => by rw [wrByte, rdReg, rdReg]⟩

theorem wrWord_onlyPage (p a : Nat) (v : Word) (s : State) : OnlyPage p s (wrWord s a v) :=
  (((wrByte_onlyPage ..).trans (wrByte_onlyPage ..)).trans (wrByte_onlyPage ..)).trans (wrByte_onlyPage ..)

/-- A state in which no word write of an operation stops. -/
def nvFree (s : State) : State := { s with nvs := { s.nvs with stop := none, ended := false } }

/-- What a write of NVS_DATA puts: the word at its offset, and the slipway's state where it lies there (R448). -/
def nvWindowPut (off : Nat) (v : Word) (s : State) : State :=
  putNv off v (if slipImg ≤ off ∧ off < backImg then putNv (stateBlock + 0x8C) 1 s else s)

/-- An operation whose writes have no stop makes every word write. -/
theorem nvPut_free {s : State} (h : s.nvs.ended = false ∧ s.nvs.stop = none) (off : Nat) (v : Word) : nvPut off v s = putNv off v s := by
  simp [nvPut, nvTake, h]

theorem nvDataWrite_puts {party : Party} {v : Word} {s : State} (free : s.nvs.ended = false ∧ s.nvs.stop = none)
    (ok : nvWritable (nvsOffset party s) party s = true) : nvDataWrite party v s = .ok (nvWindowPut (nvsOffset party s) v s) := by
  have going (c : Prop) [Decidable c] (x : Word) (a : Nat) : (if c then putNv a x s else s).nvs = s.nvs := by
    split <;> rfl
  have goesOn : (nvWindowPut (nvsOffset party s) v s).nvs.ended = false := by
    rw [← free.1, ← going (slipImg ≤ nvsOffset party s ∧ nvsOffset party s < backImg) 1 (stateBlock + 0x8C)]
    rfl
  rw [nvDataWrite, if_pos ok, nvPut_free (by rw [going]; exact free)]
  exact if_neg (by rw [← nvWindowPut, goesOn]; decide)

theorem nvWindowPut_onlyPage (p off : Nat) (v : Word) (s : State) : OnlyPage p s (nvWindowPut off v s) := by
  unfold nvWindowPut
  split
  · exact (wrWord_onlyPage ..).trans (wrWord_onlyPage ..)
  · exact wrWord_onlyPage ..

theorem rdWord_nvWindowPut (off : Nat) (v : Word) (s : State) : rdWord (nvWindowPut off v s) (nvBase + off) = v := rdWord_wrWord ..

/-- The command of a write of NVS_DATA whose word can be written. -/
theorem nvData_does_write {party : Party} {v : Word} {s : State} (awake : Awake s) (h : Open party nvsPg s)
    (ok : nvWritable (nvsOffset party s) party s = true) :
    Does (.nvsDataAccess party (some v) false) s fun u => Acked party (pageAddr nvsPg 0x104) u ∧ Outside [pageAddr nvsPg 0x104 / 0x400] s u
      ∧ rdWord u (nvBase + nvsOffset party s) = v := by
  obtain ⟨l, trail, reports⟩ := (nvs_window party).regWrite_done (v := v) (s := nvFree (clearReports s))
    (put := fun l => nvWindowPut (nvsOffset party s) v (withHolds (nvFree (clearReports s)) l)) h fun l => ⟨_, nvDataWrite_puts ⟨rfl, rfl⟩ ok, .refl ..⟩
  have page := ((withHolds_onlyPage _ _ l).trans (nvWindowPut_onlyPage ..)).trans trail.onlyPage
  have mem := trail.keeps (q := .mem) (by decide)
  rw [(nvs_window party).page]
  refine does_access awake rfl (by decide) (by decide) page reports ?_
  rw [rdWord_mem (reach_mem _ _ _ (by decide))]
  exact (rdWord_mem mem _).trans (rdWord_nvWindowPut ..)

/-! ### Engine windows and parcel slots -/

theorem placeOf_engine {e off : Nat} (he : e < 16) (h4 : off % 4 = 0) (ho : off < 0x18000) (s : State) :
    placeOf (0x100000 + 0x20000 * e + off) s = .engine e off := by
  have engine : (0x100000 + 0x20000 * e + off - 0x100000) / 0x20000 = e := by omega
  have offset : (0x100000 + 0x20000 * e + off - 0x100000) % 0x20000 = off := by omega
  rw [placeOf, if_neg (by omega), if_neg (by omega), if_neg (by omega), if_pos (by omega), engine, offset, if_pos ho]

theorem placeOf_parcel {loc : Nat} (hl : loc < 8192) (s : State) : placeOf (0x300000 + 32 * loc) s = .parcel loc 0 := by
  have slot : (0x300000 + 32 * loc - 0x300000) / 32 = loc := by omega
  have word : (0x300000 + 32 * loc - 0x300000) % 32 / 4 = 0 := by omega
  rw [placeOf, if_neg (by omega), if_neg (by omega), if_neg (by omega), if_neg (by omega), if_pos (by omega), slot, word]

/-- A byte rests on the memory alone. -/
theorem rdByte_mem {s t : State} (h : t.mem = s.mem) (a : Nat) : rdByte t a = rdByte s a := by rw [rdByte, rdByte, h]

/-- A parcel rests on the ledger's state alone. -/
theorem parcelAt_ldg {s t : State} (h : t.ldg = s.ldg) (loc : Nat) : parcelAt t loc = parcelAt s loc := by rw [parcelAt, parcelAt, h]

theorem placeWrite_engine {seen s : State} {party : Party} {v : Word} {e off : Nat} (barred : partyBarred party none s = false)
    (ok : engWinPermits e off party s = true) : placeWriteSeen seen party v (.engine e off) s
      = (.done, if off < 0x10000 then shadowTouched (engPg e) (wrWord s (engWinAddr e off s) v) else wrWord s (engWinAddr e off s) v) := by
  simp only [placeWriteSeen, barred, ok]
  rfl

theorem placeWrite_parcel {seen s u : State} {party : Party} {v : Word} {loc w : Nat} (barred : partyBarred party none s = false)
    (h : parcelWrite party loc w v s = .ok u) : placeWriteSeen seen party v (.parcel loc w) s = (.done, u) := by
  simp only [placeWriteSeen, barred, h]
  rfl

theorem engineWrite_trails {party : Party} {e off : Nat} {v : Word} {s : State} (he : e < 16) (h4 : off % 4 = 0) (ho : off < 0x18000)
    (barred : partyBarred party none s = false) (ok : engWinPermits e off party s = true) :
    ∃ l, Trails ((0x100000 + 0x20000 * e + off) / 0x400) (wrWord (withHolds s l) (engWinAddr e off s) v)
        (writeAccess ⟨party, 0x100000 + 0x20000 * e + off, v⟩ s)
      ∧ (writeAccess ⟨party, 0x100000 + 0x20000 * e + off, v⟩ s).bus.reports
        = s.bus.reports ++ [⟨party, 0x100000 + 0x20000 * e + off, .done⟩] := by
  have pl := placeOf_engine he h4 ho s
  obtain ⟨l, trail, reports⟩ := writeAccess_trails ((0x100000 + 0x20000 * e + off) / 0x400) pl (by simp only [runTouched, pl])
    fun l => placeWrite_engine (v := v) (s := withHolds s l) barred ok
  exact ⟨l, (Trails.ite (shadowTouched_trails ..)).trans trail, reports⟩

/-- A permitted write to an engine's window puts its word and no other byte (R265). -/
theorem engineWindow_does_write {party : Party} {e : Fin 16} {off : BitVec 17} {v : Word} {s : State} (awake : Awake s)
    (barred : partyBarred party none s = false) (h4 : off.toNat % 4 = 0) (ho : off.toNat < 0x18000)
    (ok : engWinPermits e.val off.toNat party s = true) :
    Does (.engineWindowWrite party e off v) s fun u => Acked party (0x100000 + 0x20000 * e.val + off.toNat) u
      ∧ Outside [(0x100000 + 0x20000 * e.val + off.toNat) / 0x400] s u ∧ (rdWord u (engWinAddr e.val off.toNat s) = v
      ∧ ∀ b, b < engWinAddr e.val off.toNat s ∨ engWinAddr e.val off.toNat s + 4 ≤ b → rdByte u b = rdByte s b) := by
  obtain ⟨l, trail, reports⟩ := engineWrite_trails (v := v) e.isLt h4 ho (s := clearReports s) barred ok
  have mem := trail.keeps (q := .mem) (by decide)
  have page := ((withHolds_onlyPage _ _ l).trans (wrWord_onlyPage ..)).trans trail.onlyPage
  refine does_access awake rfl (by decide) (by decide) page reports ⟨?_, fun b out => ?_⟩
  · rw [rdWord_mem (reach_mem _ _ _ (by decide)), rdWord_mem mem]
    exact rdWord_wrWord ..
  · rw [rdByte_mem (reach_mem _ _ _ (by decide)), rdByte_mem mem]
    exact rdByte_wrWord _ _ _ _ out

/-- What a write of the volume of a slot makes of its parcel (R248). -/
def volPut (loc : Nat) (v : Word) (s : State) : State :=
  setParcel loc (loaded { parcelAt s loc with vol := v.toNat } s.time.ticks) s

theorem vol_volPut {loc : Nat} {v : Word} {s : State} (ok : parcelOk s loc = true) : (parcelAt (volPut loc v s) loc).vol = v.toNat := by
  rw [volPut, setParcel, if_pos ok, putParcel, parcelAt, tabGet_set_self]
  rfl

theorem volPut_onlyPage (p : Nat) {loc : Nat} {v : Word} {s : State} (ok : parcelOk s loc = true) : OnlyPage p s (volPut loc v s) := by
  rw [volPut, setParcel, if_pos ok]
  exact ⟨by rw [putParcel], fun a _ => by rw [putParcel, rdReg, rdReg]⟩

theorem parcelWrite_puts {party : Party} {loc : Nat} {v : Word} {s : State} (mode : colMode (loc / 2048) s = 0)
    (own : unitOwns ldgPg (loc / 2048) party s = true) (lock : locked ldgPg s = false ∨ party = .sup) (hv : v ≠ 0) :
    parcelWrite party loc 0 v s = .ok (volPut loc v s) := by
  have free : ¬ (locked ldgPg s = true ∧ party ≠ .sup ∧ party ≠ .flt) := by
    rintro ⟨locked, other, -⟩
    rcases lock with unlocked | sup
    · exact absurd locked (by rw [unlocked]; decide)
    · exact other sup
  rw [parcelWrite, if_neg (by simp [mode, own, free]), if_neg fun zero => hv zero.2]
  rfl

theorem parcelVolume_trails {party : Party} {loc : Nat} {v : Word} {s : State} (hl : loc < 8192) (barred : partyBarred party none s = false)
    (mode : colMode (loc / 2048) s = 0) (own : unitOwns ldgPg (loc / 2048) party s = true)
    (lock : locked ldgPg s = false ∨ party = .sup) (hv : v ≠ 0) :
    ∃ l, Trails ((0x300000 + 32 * loc) / 0x400) (volPut loc v (withHolds s l)) (writeAccess ⟨party, 0x300000 + 32 * loc, v⟩ s)
      ∧ (writeAccess ⟨party, 0x300000 + 32 * loc, v⟩ s).bus.reports = s.bus.reports ++ [⟨party, 0x300000 + 32 * loc, .done⟩] := by
  have pl := placeOf_parcel hl s
  exact writeAccess_trails _ pl (by simp only [runTouched, pl]) fun l =>
    placeWrite_parcel (s := withHolds s l) barred (parcelWrite_puts mode own lock hv)

/-- A permitted write of the volume of a parcel slot puts it (R248). -/
theorem parcelVolume_does_write {party : Party} {loc : Fin 8192} {v : Word} {s : State} (awake : Awake s)
    (barred : partyBarred party none s = false) (mode : colMode (loc.val / 2048) s = 0)
    (own : unitOwns ldgPg (loc.val / 2048) party s = true) (lock : locked ldgPg s = false ∨ party = .sup)
    (ok : parcelOk s loc.val = true) (hv : v ≠ 0) :
    Does (.parcelWindowWrite party loc 0 v) s fun u => Acked party (0x300000 + 32 * loc.val) u
      ∧ Outside [(0x300000 + 32 * loc.val) / 0x400] s u ∧ (parcelAt u loc.val).vol = v.toNat := by
  obtain ⟨l, trail, reports⟩ := parcelVolume_trails loc.isLt (s := clearReports s) barred mode own lock hv
  have page := ((withHolds_onlyPage _ _ l).trans (volPut_onlyPage (s := withHolds (clearReports s) l) _ ok)).trans trail.onlyPage
  refine does_access (f := writeAccess ⟨party, 0x300000 + 32 * loc.val, v⟩) awake rfl (by decide) (by decide) page reports ?_
  rw [parcelAt_ldg (reach_ldg _ _ _ (by decide)), parcelAt_ldg (trail.keeps (q := .ldg) (by decide))]
  exact vol_volPut ok

/-! ### The severity table -/

/-- The row of FLT_SEV_DATA. -/
def sevDesc : RegDesc :=
  ⟨0x164, 0x0, 1, [rfRo 14 12 0x0, rfRo 11 11 0x0, rfRo 10 8 0x0, rfWin 7 7 .rwd 0x0, rfWin 6 4 .rwd 0x0, rfWin 2 0 .rwd 0x0]⟩

/-- A severity-table entry that takes the written LATCH, group and severity. -/
def sevMerge (old v : Word) : Word := setBits (setBits (setBits old 7 7 (bitsOf v 7 7)) 6 4 (bitsOf v 6 4)) 2 0 (bitsOf v 2 0)

/-- A field that takes the bits of a word. -/
theorem getLsbD_takeBits (w v : Word) {hi lo : Nat} (h : lo ≤ hi) (h' : hi < 32) (i : Nat) :
    (setBits w hi lo (bitsOf v hi lo)).getLsbD i = if lo ≤ i ∧ i ≤ hi then v.getLsbD i else w.getLsbD i := by
  rw [setBits_getLsbD _ _ _ _ _ h h']
  split
  · next inside =>
    rw [bitsOf_testBit, Nat.add_sub_cancel' inside.1, decide_eq_true (by omega), Bool.true_and]
  · rfl

theorem bitsOf_congr {w v : Word} {hi lo : Nat} (h : ∀ i, lo ≤ i → i ≤ hi → w.getLsbD i = v.getLsbD i) (hl : lo ≤ hi) :
    bitsOf w hi lo = bitsOf v hi lo := by
  apply Nat.eq_of_testBit_eq
  intro i
  rw [bitsOf_testBit, bitsOf_testBit]
  by_cases hi' : i < hi - lo + 1
  · rw [h (lo + i) (by omega) (by omega)]
  · simp only [hi', decide_false, Bool.false_and]

/-- Bit 3 is reserved; the bits below 8 beside it are the written word's, those above the old entry's. -/
theorem getLsbD_sevMerge (old v : Word) (i : Nat) :
    (sevMerge old v).getLsbD i = if i < 8 ∧ i ≠ 3 then v.getLsbD i else old.getLsbD i := by
  rw [sevMerge, getLsbD_takeBits _ _ (by decide) (by decide), getLsbD_takeBits _ _ (by decide) (by decide),
    getLsbD_takeBits _ _ (by decide) (by decide)]
  by_cases new : i < 8 ∧ i ≠ 3
  · rw [if_pos new]
    split_ifs
    exacts [rfl, rfl, rfl, by omega]
  · rw [if_neg new, if_neg (by omega), if_neg (by omega), if_neg (by omega)]

theorem bitsOf_sevMerge_new (old v : Word) {hi lo : Nat} (hl : lo ≤ hi) (h : hi < 3 ∨ 4 ≤ lo ∧ hi < 8) :
    bitsOf (sevMerge old v) hi lo = bitsOf v hi lo :=
  bitsOf_congr (fun i _ _ => by rw [getLsbD_sevMerge, if_pos (by omega)]) hl

theorem bitsOf_sevMerge_old (old v : Word) {hi lo : Nat} (hl : lo ≤ hi) (h : 8 ≤ lo) : bitsOf (sevMerge old v) hi lo = bitsOf old hi lo :=
  bitsOf_congr (fun i _ _ => by rw [getLsbD_sevMerge, if_neg (by omega)]) hl

/-- What a write of FLT_SEV_DATA puts. -/
def sevPut (k : Nat) (v : Word) (s : State) : State := { s with flt := { s.flt with sevTab := tabSet sevReset s.flt.sevTab k v } }

theorem sevPut_onlyPage (p k : Nat) (v : Word) (s : State) : OnlyPage p s (sevPut k v s) :=
  ⟨by rw [sevPut], fun a _ => by rw [sevPut, rdReg, rdReg]⟩

theorem sevWritten_sevPut (k : Nat) (v : Word) (s : State) : sevWritten k (sevPut k v s) = v := by simp only [sevWritten, sevPut, tabGet_set_self]

/-- The severity table rests on the collector's state alone. -/
theorem sevWritten_flt {s t : State} (h : t.flt = s.flt) (k : Nat) : sevWritten k t = sevWritten k s := by rw [sevWritten, sevWritten, h]

theorem cxMerged_sev (party : Party) (v : Word) (s : State) (l : List Hold) :
    cxMerged (cxOf party fltPg 0x164 v sevDesc s l) = sevMerge (sevWritten (getW FLT.SEV_ADDR_KIND fltPg 0 s) s) v := rfl

/-- A severity from the kind's floor up to 4 that keeps the latch of a floor that latches is taken (R352). -/
theorem sevWrite_puts {cx : WriteCx} {s : State} {old v : Word} (merged : cxMerged cx = sevMerge old v) (own : pageOwns fltPg cx.party s = true)
    (range : bitsOf v 2 0 ≤ 4) (floor : bitsOf old 10 8 ≤ bitsOf v 2 0) (latch : bitsOf old 11 11 = 1 → bitsOf v 7 7 = 1) :
    ∃ t, sevWrite cx s = .ok t ∧ Trails fltPg (sevPut (getW FLT.SEV_ADDR_KIND fltPg 0 s) (sevMerge old v) s) t := by
  have good : (!pageOwns fltPg cx.party s || decide (4 < bitsOf (sevMerge old v) 2 0)
      || decide (bitsOf (sevMerge old v) 2 0 < bitsOf (sevMerge old v) 10 8)
      || decide (bitsOf (sevMerge old v) 11 11 = 1 ∧ bitsOf (sevMerge old v) 7 7 = 0)) = false := by
    rw [bitsOf_sevMerge_new (hi := 2) _ _ (by decide) (by decide), bitsOf_sevMerge_new (hi := 7) _ _ (by decide) (by decide),
      bitsOf_sevMerge_old (hi := 10) _ _ (by decide) (by decide), bitsOf_sevMerge_old (hi := 11) _ _ (by decide) (by decide), own]
    simp only [Bool.or_eq_false_iff, decide_eq_false_iff_not, Bool.not_true]
    refine ⟨⟨⟨trivial, by omega⟩, by omega⟩, fun bad => ?_⟩
    have := latch bad.1
    omega
  exact ⟨_, by simp only [sevWrite, merged, good]; rfl, .bump ..⟩

theorem sevRegWrite_trails {party : Party} {k : Nat} {old v : Word} {s : State} (kind : getW FLT.SEV_ADDR_KIND fltPg 0 s = k)
    (entry : sevWritten k s = old) (h : MayWrite party fltPg false s) (range : bitsOf v 2 0 ≤ 4) (floor : bitsOf old 10 8 ≤ bitsOf v 2 0)
    (latch : bitsOf old 11 11 = 1 → bitsOf v 7 7 = 1) :
    ∃ l, Trails fltPg (sevPut k (sevMerge old v) (withHolds s l)) (regWrite party fltPg 0x164 v s)
      ∧ (regWrite party fltPg 0x164 v s).bus.reports = s.bus.reports ++ [⟨party, pageAddr fltPg 0x164, .done⟩] := by
  subst kind entry
  obtain ⟨t, c, e, l, trail⟩ := pageCmd_done (w := v) (P := fun t => ∃ l, Trails fltPg (sevPut (getW FLT.SEV_ADDR_KIND fltPg 0 s)
      (sevMerge (sevWritten (getW FLT.SEV_ADDR_KIND fltPg 0 s) s) v) (withHolds s l)) t)
    (off := 0x164) (by decide) (by decide) h fun l d hd => by
      obtain rfl : sevDesc = d := Option.some.inj hd
      obtain ⟨t, taken, trail⟩ := sevWrite_puts (s := withHolds s l) (cxMerged_sev party v s l) h.owns range floor latch
      exact ⟨t, .inl (List.cons_ne_nil _ _), taken, l, trail⟩
  exact ⟨l, by rw [e]; exact trail.trans (.of_regs _ _ _), by rw [e]; rfl⟩

/-- The command of a permitted write of FLT_SEV_DATA: the entry as last written takes the written fields (R352). -/
theorem sevData_does_write {party : Party} {v : Word} {s : State} (awake : Awake s) (h : MayWrite party fltPg false s) (range : bitsOf v 2 0 ≤ 4)
    (floor : bitsOf (sevWritten (getW FLT.SEV_ADDR_KIND fltPg 0 s) s) 10 8 ≤ bitsOf v 2 0)
    (latch : bitsOf (sevWritten (getW FLT.SEV_ADDR_KIND fltPg 0 s) s) 11 11 = 1 → bitsOf v 7 7 = 1) :
    Does (.sevDataWrite party v) s fun u => Acked party (pageAddr fltPg 0x164) u ∧ Outside [pageAddr fltPg 0x164 / 0x400] s u
      ∧ bitsOf (sevWritten (getW FLT.SEV_ADDR_KIND fltPg 0 s) u) 2 0 = bitsOf v 2 0
      ∧ bitsOf (sevWritten (getW FLT.SEV_ADDR_KIND fltPg 0 s) u) 7 4 = bitsOf v 7 4
      ∧ bitsOf (sevWritten (getW FLT.SEV_ADDR_KIND fltPg 0 s) u) 11 8 = bitsOf (sevWritten (getW FLT.SEV_ADDR_KIND fltPg 0 s) s) 11 8 := by
  obtain ⟨l, trail, reports⟩ := sevRegWrite_trails (s := clearReports s)
    (k := getW FLT.SEV_ADDR_KIND fltPg 0 s) (old := sevWritten (getW FLT.SEV_ADDR_KIND fltPg 0 s) s) rfl rfl h range floor latch
  have page := ((withHolds_onlyPage _ _ l).trans (sevPut_onlyPage ..)).trans trail.onlyPage
  refine does_access awake rfl (by decide) (by decide) page reports ?_
  rw [sevWritten_flt (reach_flt _ _ _ (by decide)), sevWritten_flt (trail.keeps (q := .flt) (by decide)), sevWritten_sevPut]
  exact ⟨bitsOf_sevMerge_new _ _ (by decide) (by decide), bitsOf_sevMerge_new _ _ (by decide) (by decide),
    bitsOf_sevMerge_old _ _ (by decide) (by decide)⟩

end Sys2Proof.Machine

namespace Sys2Proof.Proofs
open Sys2Proof Sys2Proof.Machine

/-- Settles O20: each data register is a window's, whose reads `Window.does_read` describes once for all. -/
theorem windowReadsGiveTheAddressedWord : Obligations.Window_Reads_Give_The_Addressed_Word := by
  unfold Obligations.Window_Reads_Give_The_Addressed_Word
  intro party sp lp ctl failed s awake
  exact ⟨(coef_window party sp).does_read awake rfl (by decide) (by decide), (tbl_window party).does_read awake rfl (by decide) (by decide),
    (lpa_window party lp).does_read awake rfl (by decide) (by decide), (prf_window party).does_read awake rfl (by decide) (by decide),
    (ldg_window party).does_read awake rfl (by decide) (by decide), (fan_window party).does_read awake rfl (by decide) (by decide),
    (mo_window party ctl).does_read awake rfl (by decide) (by decide), (lnk_window party).does_read awake rfl (by decide) (by decide),
    (nvs_window party).does_read awake rfl (by decide) (by decide)⟩

/-- Settles O21: each window's chapter takes a write that its own checks accept, and what it puts stands beside the trail of the access. -/
theorem windowWritesPutTheirWord : Obligations.Window_Writes_Put_Their_Word := by
  unfold Obligations.Window_Writes_Put_Their_Word
  intro party sp lp ctl e off loc v s awake
  refine ⟨fun may view form zero => ?_, fun may view swap area => ?_, fun may view swap area good => ?_, fun may area good => ?_,
    fun may view swap area first => ?_, fun may good => ?_, fun may word free => ?_, fun may window word => ?_, fun may ok => ?_,
    fun may range floor latch => ?_, fun barred aligned inside ok => ?_, fun barred mode own lock ok nonzero => ?_⟩
  · exact (coef_window party sp).puts_shd awake rfl (by decide) may.isOpen fun _ => coefWrite_puts may.owns view form zero
  · exact (tbl_window party).puts_shd awake rfl (by decide) may.isOpen fun _ => tblWrite_puts may.owns view swap area
  · exact (lpa_window party lp).puts_shd awake rfl (by decide) may.isOpen fun _ => lpaWinWrite_puts may.owns view swap area good
  · exact (prf_window party).puts_shd awake rfl (by decide) may.isOpen fun _ => prfWinWrite_puts may.owns area good
  · exact (ldg_window party).puts_shd awake rfl (by decide) may.isOpen fun _ => ldgWinWrite_puts may.owns view swap area first
  · exact (fan_window party).puts_shd awake rfl (by decide) may.isOpen fun _ => fanWinWrite_puts may.owns good
  · exact (mo_window party ctl).puts_act awake rfl (by decide) may.isOpen fun _ => moWrite_puts may.owns word free
  · exact cargoValue_does_write awake may window word
  · exact nvData_does_write awake may.isOpen ok
  · exact sevData_does_write awake may range floor latch
  · exact engineWindow_does_write awake barred aligned inside ok
  · exact parcelVolume_does_write awake barred mode own lock ok nonzero

end Sys2Proof.Proofs
end

section
/-!
PROOFS. The moisture analyser (chapter 5): what its engines make of a channel (O24), and a refutation about the start of a calibration (O25).
Every engine works channel by channel, and the work on one channel leaves the others (`OnCh`); what an engine makes of a channel is then what
the one operation of that channel makes of it (`forN_onCh`). O25 asks that a calibration takes the NAVG of an accepted write, where the notes
of the present cycle name one of its bits: `storeFields` keeps such a bit whatever the field's access code, as the refutation
of O17 has it of other fields. What the statement lacks is the hypothesis that the notes name no bit of CAL_CTRL.
-/
namespace Sys2Proof.Machine

/-! ### Updates that leave the analyser and the time -/

@[simp] theorem setF_moi (f : Fld) (p u v : Nat) (s : State) : (setF f p u v s).moi = s.moi := rfl
@[simp] theorem setB_moi (f : Fld) (p u : Nat) (b : Bool) (s : State) : (setB f p u b s).moi = s.moi := rfl
@[simp] theorem setB_time (f : Fld) (p u : Nat) (b : Bool) (s : State) : (setB f p u b s).time = s.time := rfl
@[simp] theorem incSat_moi (f : Fld) (p u : Nat) (s : State) : (incSat f p u s).moi = s.moi := rfl
@[simp] theorem noteBit_moi (a n : Nat) (s : State) : (noteBit a n s).moi = s.moi := rfl
@[simp] theorem setIrq_moi (p n : Nat) (s : State) : (setIrq p n s).moi = s.moi := rfl
@[simp] theorem setIrq_time (p n : Nat) (s : State) : (setIrq p n s).time = s.time := rfl
@[simp] theorem raise_moi (p i k a : Nat) (s : State) : (raise p i k a s).moi = s.moi := rfl
@[simp] theorem atPhase_moi (p c : Nat) (s : State) : (atPhase p c s).moi = s.moi := by unfold atPhase; split <;> rfl

theorem CollectOnly.moi {s t : State} (h : CollectOnly s t) : t.moi = s.moi := by
  obtain ⟨⟨_, _, _, _, rfl⟩, -⟩ := h
  rfl

theorem CollectOnly.time {s t : State} (h : CollectOnly s t) : t.time = s.time := by
  obtain ⟨⟨_, _, _, _, rfl⟩, -⟩ := h
  rfl

theorem setEp_only (on : Bool) (p i k a : Nat) (s : State) : CollectOnly s (setEp on p i k a s) := by
  unfold setEp beginEp
  split
  · split
    · exact .refl s
    · exact raise_only ..
  · exact .ite _ (endEp_only ..)

/-- A due instant counts, shows and reports lateness, of which nothing lies in the analyser (R50 to R52). -/
theorem dueBoundary_moi (p : Nat) (d : Bool) (late : List Nat) (s : State) : (dueBoundary p d late s).moi = s.moi := by
  have ended (es : List Episode) (t : State) : (es.foldl (fun a e => endEp p e.kind e.addr a) t).moi = t.moi :=
    (CollectOnly.fold _ (fun _ _ => endEp_only ..) es t).moi
  have instant : (dueInstant p d late s).moi = s.moi := by
    unfold dueInstant
    extract_lets s1 t1 sent s2 t2 s3 s4
    have h4 : s4.moi = s.moi := by
      simp only [s4]
      split
      · rfl
      · split
        · split
          · exact ended ..
          · rfl
        · rfl
    clear_value s4
    split <;> exact h4
  unfold dueBoundary
  extract_lets s1 a s2
  split <;> exact instant

/-! ### Channels -/

/-- A state in which the analyser is `x`. -/
def withMoi (x : MoiState) (s : State) : State := { s with moi := x }

@[simp] theorem withMoi_moi (x : MoiState) (s : State) : (withMoi x s).moi = x := rfl
@[simp] theorem withMoi_time (x : MoiState) (s : State) : (withMoi x s).time = s.time := rfl

@[simp] theorem moiCh_putMoi (m : Nat) (v : MoiCh) (s : State) : moiCh (putMoi m v s) m = v := by simp [moiCh, putMoi]

theorem moiCh_putMoi_ne {m k : Nat} (v : MoiCh) (s : State) (h : m ≠ k) : moiCh (putMoi m v s) k = moiCh s k := by
  simp [moiCh, putMoi, tabGet_set_ne _ _ _ h]

theorem moiCh_congr {s t : State} (h : t.moi.chs = s.moi.chs) (m : Nat) : moiCh t m = moiCh s m := by rw [moiCh, moiCh, h]

/-- An operation on no channel: all channels and the time stay. -/
def KeepsChannels (s t : State) : Prop := t.moi.chs = s.moi.chs ∧ t.time = s.time

theorem CollectOnly.keepsChannels {s t : State} (h : CollectOnly s t) : KeepsChannels s t := ⟨by rw [h.moi], h.time⟩

theorem KeepsChannels.ch {s t : State} (h : KeepsChannels s t) (m : Nat) : moiCh t m = moiCh s m := moiCh_congr h.1 m

/-- An operation on channel `m`: the other channels and the time stay. -/
def OnCh (m : Nat) (s t : State) : Prop := (∀ k, k ≠ m → moiCh t k = moiCh s k) ∧ t.time = s.time

namespace OnCh
variable {m : Nat} {s t u : State}

theorem refl (m : Nat) (s : State) : OnCh m s s := ⟨fun _ _ => rfl, rfl⟩

theorem trans (h : OnCh m s t) (g : OnCh m t u) : OnCh m s u := ⟨fun k hk => (g.1 k hk).trans (h.1 k hk), g.2.trans h.2⟩

theorem keep (h : KeepsChannels s t) : OnCh m s t := ⟨fun k _ => h.ch k, h.2⟩

theorem put (m : Nat) (v : MoiCh) (s : State) : OnCh m s (putMoi m v s) := ⟨fun _ hk => moiCh_putMoi_ne v s hk.symm, rfl⟩

theorem ite {c : Prop} [Decidable c] (h : OnCh m s t) : OnCh m s (if c then t else s) := by
  split
  · exact h
  · exact refl m s

end OnCh

/-- What an operation on one channel after another makes of channel `m`: its own operation does it, on a state in which channel `m` and the
time are the first ones. -/
theorem forN_onCh {f : Nat → State → State} {n m : Nat} (hm : m < n) (hf : ∀ i s, OnCh i s (f i s)) (s : State) :
    ∃ u, moiCh u m = moiCh s m ∧ u.time = s.time ∧ moiCh (forN n f s) m = moiCh (f m u) m := by
  obtain ⟨u, ⟨hu, tu⟩, hv, -⟩ := forN_visit (Sim := fun s t => moiCh t m = moiCh s m ∧ t.time = s.time) n m hm (fun _ => ⟨rfl, rfl⟩)
    (fun _ _ _ h g => ⟨g.1.trans h.1, g.2.trans h.2⟩) (fun i s hi => ⟨(hf i s).1 m hi.symm, (hf i s).2⟩) s
  exact ⟨u, hu, tu, hv⟩

theorem lastTick_congr {s t : State} (h : t.time.ticks = s.time.ticks) (c : MoiCh) : lastTick t c = lastTick s c := by
  unfold lastTick
  rw [h]

/-- A channel in the last tick of its period has one. -/
theorem per_of_lastTick {s : State} {c : MoiCh} (h : lastTick s c = true) : ∃ p, c.per = some p := by
  unfold lastTick at h
  split at h
  · next p e => exact ⟨p, e⟩
  · exact absurd h (by decide)

/-- The same at an instant of the tick. -/
theorem forN_atPhase_onCh {f : Nat → State → State} {n m : Nat} (hm : m < n) (hf : ∀ i s, OnCh i s (f i s)) (ph cy : Nat) (s : State) :
    ∃ u, moiCh u m = moiCh s m ∧ lastTick u (moiCh u m) = lastTick s (moiCh s m) ∧ moiCh (forN n f (atPhase ph cy s)) m = moiCh (f m u) m := by
  obtain ⟨u, hu, tu, hv⟩ := forN_onCh hm hf (atPhase ph cy s)
  have same : moiCh u m = moiCh s m := hu.trans (moiCh_congr (by rw [atPhase_moi]) m)
  exact ⟨u, same, by rw [same]; exact lastTick_congr (by rw [tu, atPhase_ticks]) _, hv⟩

/-! ### Registers of one page -/

theorem OnlyPage.refl (p : Nat) (s : State) : OnlyPage p s s := ⟨rfl, fun _ _ => rfl⟩

theorem OnlyPage.of_regs {p : Nat} {s t : State} (hp : t.pwr = s.pwr) (h : t.regs = s.regs) : OnlyPage p s t :=
  ⟨hp, fun a _ => by rw [rdReg, rdReg, h]⟩

theorem OnlyPage.forN {p n : Nat} {f : Nat → State → State} (hf : ∀ i < n, ∀ s, OnlyPage p s (f i s)) (s : State) :
    OnlyPage p s (forN n f s) :=
  List.foldlRecOn _ _ (.refl p s) fun t h i hi => h.trans (hf i (List.mem_range.1 hi) t)

theorem setF_onlyPage {f : Fld} {u : Nat} (p v : Nat) (s : State) (h : f.off + f.stride * u < 0x400) : OnlyPage p s (setF f p u v s) :=
  ⟨rfl, fun a ha => rdReg_setF_ne _ _ _ _ _ fun e => ha (by rw [← e, fldAddr, pageAddr]; omega)⟩

theorem setIrq_onlyPage (p n : Nat) (s : State) : OnlyPage p s (setIrq p n s) :=
  ⟨rfl, fun a ha => rdReg_setIrq_ne _ _ _ fun e => ha (by rw [← e, pageAddr]; omega)⟩

theorem putMoi_onlyPage (p m : Nat) (v : MoiCh) (s : State) : OnlyPage p s (putMoi m v s) :=
  .of_regs (by rw [putMoi]) (by rw [putMoi])

/-- A command that reaches registers leaves those outside the page of its operation. -/
theorem OnlyPage.outside {ps : List Part} {f : State → State} {p : Nat} {s : State} (h : OnlyPage p (clearReports s) (f (clearReports s)))
    (hps : Part.regs ∈ ps) : Outside [p] s (reach ps f (clearReports s)) := fun a _ ha => by
  rw [rdReg_reach _ _ _ hps]
  exact h.2 a fun e => ha (List.mem_singleton.2 e)

/-! ### Calibrations -/

/-- The registers of a calibration's end: BUSY and RESULT, the busy bits of the page and of channel `c`, and the interrupt (R152). -/
def calEnded (c result : Nat) (s : State) : State :=
  setIrq moiPg 16 (setB MOI.STAT_CAL_BUSY moiPg 0 false (setB MOI.CH_STAT_CAL moiPg c false
    (setF MOI.CAL_STAT_RESULT moiPg 0 result (setB MOI.CAL_STAT_BUSY moiPg 0 false s))))

theorem endCal_none {s : State} (h : s.moi.cal = none) (result : Nat) : endCal result s = s := by simp only [endCal, h]

theorem endCal_some {s : State} {k : MoiCal} (h : s.moi.cal = some k) (result : Nat) :
    endCal result s = calEnded k.ch result (withMoi { s.moi with cal := none } s) := by simp only [endCal, h, calEnded, withMoi]

theorem irq_calEnded (c result : Nat) (s : State) : irq moiPg 16 (calEnded c result s) = true := irq_setIrq _ _ (by decide)

/-- RESULT lies in no register that a channel's busy bit lies in, whatever the channel. -/
theorem result_calEnded {result : Nat} (h : result < 8) (c : Nat) (s : State) :
    getW MOI.CAL_STAT_RESULT moiPg 0 (calEnded c result s) = result := by
  have busy : fldAddr MOI.CH_STAT_CAL moiPg c ≠ fldAddr MOI.CAL_STAT_RESULT moiPg 0 := by
    simp only [fldAddr, pageAddr, MOI.CH_STAT_CAL, MOI.CAL_STAT_RESULT]
    omega
  unfold calEnded setB
  rw [getW_setIrq _ (by decide), getW_setF_other _ _ (by decide) (by decide) (.inl (by decide)),
    getW_setF_other _ _ (by decide) (by decide) (.inl busy), getW_setF _ _ _ _ _ (by decide) (by decide)]
  exact Nat.mod_eq_of_lt h

/-- A calibration that ends is no longer under way, and its RESULT shows why (R152). -/
theorem endCal_ends {result : Nat} {s : State} {k : MoiCal} (h : s.moi.cal = some k) (small : result < 8) :
    (endCal result s).moi.cal = none ∧ irq moiPg 16 (endCal result s) = true ∧ getW MOI.CAL_STAT_RESULT moiPg 0 (endCal result s) = result := by
  rw [endCal_some h]
  exact ⟨rfl, irq_calEnded .., result_calEnded small ..⟩

theorem calEnded_onlyPage {c : Nat} (h : c < 8) (result : Nat) (s : State) : OnlyPage moiPg s (calEnded c result s) := by
  have channel : MOI.CH_STAT_CAL.off + MOI.CH_STAT_CAL.stride * c < 0x400 := by
    simp only [MOI.CH_STAT_CAL]
    omega
  exact ((((setF_onlyPage _ _ _ (by decide)).trans (setF_onlyPage _ _ _ (by decide))).trans (setF_onlyPage _ _ _ channel)).trans
    (setF_onlyPage _ _ _ (by decide))).trans (setIrq_onlyPage ..)

theorem endCal_keepsChannels (result : Nat) (s : State) : KeepsChannels s (endCal result s) := by
  cases h : s.moi.cal with
  | none => rw [endCal_none h]; exact ⟨rfl, rfl⟩
  | some k => rw [endCal_some h]; exact ⟨rfl, rfl⟩

theorem endCal_onlyPage {result : Nat} {s : State} (h : ∀ k, s.moi.cal = some k → k.ch < 8) : OnlyPage moiPg s (endCal result s) := by
  cases e : s.moi.cal with
  | none => rw [endCal_none e]; exact .refl _ s
  | some k =>
    rw [endCal_some e]
    exact OnlyPage.trans (.of_regs rfl rfl) (calEnded_onlyPage (h k e) ..)

/-- A late sweep ends a calibration of its own channel alone, or nothing (R153). -/
theorem calLate_cases (m : Nat) (s : State) : calLate m s = s ∨ (∃ k, s.moi.cal = some k ∧ k.ch = m) ∧ calLate m s = endCal 5 s := by
  unfold calLate
  split
  · next k e =>
    split
    · next h => exact .inr ⟨⟨k, e, h.1⟩, rfl⟩
    · exact .inl rfl
  · exact .inl rfl

theorem calLate_keepsChannels (m : Nat) (s : State) : KeepsChannels s (calLate m s) := by
  obtain e | ⟨-, e⟩ := calLate_cases m s <;> rw [e]
  · exact ⟨rfl, rfl⟩
  · exact endCal_keepsChannels ..

theorem calLate_onlyPage {m : Nat} (h : m < 8) (s : State) : OnlyPage moiPg s (calLate m s) := by
  obtain e | ⟨⟨k, hk, hch⟩, e⟩ := calLate_cases m s <;> rw [e]
  · exact .refl _ s
  · exact endCal_onlyPage fun j hj => by
      obtain rfl := Option.some.inj (hk.symm.trans hj)
      omega

/-- A state in which the shadow copies are `w`. -/
def withWin (w : Tab Word) (s : State) : State := { s with win := w }

/-- The mean pairs that a calibration leaves lie in the shadow copy (R152). -/
theorem setShd_pairs (p area : Nat) (i j : Nat → Nat) (x y : Nat → Word) (l : List Nat) (s : State) :
    ∃ w, l.foldl (fun a q => setShd p area (i q) (x q) (setShd p area (j q) (y q) a)) s = withWin w s := by
  induction l generalizing s with
  | nil => exact ⟨s.win, rfl⟩
  | cons q l ih =>
    obtain ⟨w, hw⟩ := ih (setShd p area (i q) (x q) (setShd p area (j q) (y q) s))
    exact ⟨w, by rw [List.foldl_cons, hw, withWin, withWin, setShd, setShd]⟩

/-- A complete calibration ends with RESULT 2 where a reading is open or over, else with 3 or, its means put, with 1 (R152). -/
theorem calFinish_complete {s : State} {k : MoiCal} (hk : s.moi.cal = some k) (nonempty : k.sweeps ≠ []) (complete : k.navg ≤ k.sweeps.length) :
    ∃ result w, calFinish s = endCal result (withWin w s)
      ∧ if (k.sweeps.flatMap id).any (fun r => ptOpen r || ptOver r) = true then result = 2 else result ∈ [1, 3] := by
  have going : ¬ (k.sweeps.length < k.navg ∨ k.sweeps = []) := not_or.2 ⟨by omega, nonempty⟩
  simp only [calFinish, hk, if_neg going]
  split
  · exact ⟨2, s.win, rfl, rfl⟩
  · split
    · exact ⟨3, s.win, rfl, by decide⟩
    · obtain ⟨w, hw⟩ := setShd_pairs ..
      exact ⟨1, w, congrArg (endCal 1) hw, by decide⟩

theorem calFinish_open {s : State} {k : MoiCal} (hk : s.moi.cal = some k) (h : k.sweeps.length < k.navg) : calFinish s = s := by
  simp only [calFinish, hk, if_pos (Or.inl h)]

theorem calFinish_cases (s : State) : calFinish s = s ∨ ∃ result w, calFinish s = endCal result (withWin w s) := by
  cases hk : s.moi.cal with
  | none => exact .inl (by simp only [calFinish, hk])
  | some k =>
    by_cases h : k.sweeps.length < k.navg ∨ k.sweeps = []
    · exact .inl (by simp only [calFinish, hk, if_pos h])
    · rw [not_or] at h
      obtain ⟨result, w, e, -⟩ := calFinish_complete hk h.2 (by omega)
      exact .inr ⟨result, w, e⟩

theorem calFinish_onlyPage {s : State} (h : ∀ k, s.moi.cal = some k → k.ch < 8) : OnlyPage moiPg s (calFinish s) := by
  obtain e | ⟨result, w, e⟩ := calFinish_cases s <;> rw [e]
  · exact .refl _ s
  · exact OnlyPage.trans (.of_regs rfl rfl) (endCal_onlyPage h)

/-! ### Sweeps -/

/-- A sweep in progress completes with a reading for each active point, where lock holds (R143, R149). -/
theorem sweepComplete_taken {m : Nat} {points : List CellPoint} {s : State} {p : MoiPeriod} (hp : (moiCh s m).per = some p)
    (sweep : (moiCh s m).sweep = true) (lock : s.moi.unlock = none) (len : points.length = (activePoints p.prog).length) :
    moiCh (sweepComplete m points s) m = { moiCh s m with
      sweep := false, done := true, pts := readPoints p.prog (activePoints p.prog) points
      reads := shownReads (readPoints p.prog (activePoints p.prog) points) } := by
  simp only [sweepComplete, hp, sweep, lock, len, decide_true, Bool.not_false, Bool.and_true, if_true]
  exact moiCh_putMoi ..

theorem sweepComplete_idle {m : Nat} {s : State} (points : List CellPoint) (h : (moiCh s m).sweep = false ∨ (moiCh s m).per = none) :
    sweepComplete m points s = s := by
  unfold sweepComplete
  extract_lets c
  split
  · rfl
  · next p hp =>
    have still : c.sweep = false := h.resolve_right (by simp [c, hp])
    simp only [still, Bool.false_and, Bool.false_eq_true, if_false]

theorem sweepComplete_onlyPage {m : Nat} (h : m < 8) (points : List CellPoint) (s : State) : OnlyPage moiPg s (sweepComplete m points s) := by
  unfold sweepComplete
  extract_lets c
  split
  · exact .refl _ s
  · extract_lets len stuck pts t
    split
    · exact ((putMoi_onlyPage ..).trans (setF_onlyPage _ _ _ (by simp only [MOI.CH_STAT_REPEATS]; omega))).trans
        (setF_onlyPage _ _ _ (by simp only [MOI.CH_STAT_LAST_LEN]; omega))
    · exact .refl _ s

/-- A sweep that its deadline finds in progress is cut off (R146). -/
theorem cutOff_cut {m : Nat} {s : State} (h : (lastTick s (moiCh s m) && (moiCh s m).sweep) = true) :
    moiCh (cutOff m s) m = { moiCh s m with sweep := false, done := false, pts := [] } := by
  simp only [cutOff, h, if_true]
  exact ((calLate_keepsChannels ..).ch m).trans (moiCh_putMoi ..)

theorem cutOff_idle {m : Nat} {s : State} (h : (lastTick s (moiCh s m) && (moiCh s m).sweep) = false) : cutOff m s = s := by
  simp only [cutOff, h, Bool.false_eq_true, if_false]

theorem cutOff_onCh (m : Nat) (s : State) : OnCh m s (cutOff m s) := by
  unfold cutOff
  exact .ite (((OnCh.put ..).trans (.keep ⟨rfl, rfl⟩)).trans (.keep (calLate_keepsChannels ..)))

theorem cutOff_onlyPage {m : Nat} (h : m < 8) (s : State) : OnlyPage moiPg s (cutOff m s) := by
  unfold cutOff
  extract_lets c
  split
  · exact ((putMoi_onlyPage ..).trans (setF_onlyPage _ _ _ (by simp only [MOI.CH_STAT_REPEATS]; omega))).trans (calLate_onlyPage h _)
  · exact .refl _ s

theorem atPhase_onlyPage (p ph cy : Nat) (s : State) : OnlyPage p s (atPhase ph cy s) := .of_regs (atPhase_pwr ..) (atPhase_regs ..)

theorem sweepDeadline_onlyPage (s : State) : OnlyPage moiPg s (sweepDeadline s) :=
  (atPhase_onlyPage ..).trans (.forN (fun _ hi t => cutOff_onlyPage hi t) _)

/-- The deadline makes of a channel what its own cut-off makes of it. -/
theorem sweepDeadline_ch {m : Nat} (hm : m < 8) (s : State) :
    ∃ u, moiCh u m = moiCh s m ∧ lastTick u (moiCh u m) = lastTick s (moiCh s m) ∧ moiCh (sweepDeadline s) m = moiCh (cutOff m u) m :=
  forN_atPhase_onCh hm cutOff_onCh 99 399 s

/-! ### Lock of the PLL -/

/-- A message bears the tick in which it is sent. -/
theorem sent_raise_of_time {s t : State} (h : t.time = s.time) (page inst kind addr : Nat) :
    Sent page inst kind addr s (raise page inst kind addr t) := by
  obtain ⟨x, hx, src, kd, ad, tick⟩ := sent_raise page inst kind addr t
  exact ⟨x, hx, src, kd, ad, by rw [tick, h]⟩

/-- The loss of lock begins its episode, which is shown, counted and reported (R148). -/
theorem pllUnlock_eq {s : State} (h : s.moi.unlock = none) : pllUnlock s = raise moiPg 0x03 kMoiPllUnlock 0 (setIrq moiPg 19
    (incSat MOI.PLL_STAT_UNLOCK_CNT moiPg 0 (setB MOI.STAT_PLL_LOCK moiPg 0 false (setB MOI.PLL_STAT_LOCK moiPg 0 false
      (withMoi { s.moi with unlock := some (usNow s) } s))))) := by
  simp only [pllUnlock, h, Option.isSome_none, Bool.false_eq_true, if_false, withMoi]

theorem pllUnlock_begins {s : State} (h : s.moi.unlock = none) :
    (pllUnlock s).moi.unlock = some (usNow s) ∧ getW MOI.PLL_STAT_LOCK moiPg 0 (pllUnlock s) = 0 ∧ irq moiPg 19 (pllUnlock s) = true
      ∧ Sent moiPg 3 kMoiPllUnlock 0 s (pllUnlock s) := by
  rw [pllUnlock_eq h]
  refine ⟨?_, ?_, ?_, sent_raise_of_time ?_ ..⟩
  · rw [raise_moi, setIrq_moi, incSat_moi, setB_moi, setB_moi, withMoi_moi]
  · unfold incSat setB
    rw [getW_congr (rdReg_raise ..), getW_setIrq _ (by decide), getW_setF_beside _ _ (by decide) (by decide) (by decide),
      getW_setF_other _ _ (by decide) (by decide) (by decide), getW_setF _ _ _ _ _ (by decide) (by decide)]
    rfl
  · rw [irq, rdReg_raise]
    exact irq_setIrq _ _ (by decide)
  · rw [setIrq_time, incSat, setF_time, setB_time, setB_time, withMoi_time]

theorem pllUnlock_idle {s : State} (h : s.moi.unlock.isSome = true) : pllUnlock s = s := if_pos h

theorem repeatPoint_quiet {a u m : Nat} (s : State) (h : fldAddr MOI.CH_STAT_REPEATS moiPg m ≠ a) : rdReg (repeatPoint u m s) a = rdReg s a := by
  unfold repeatPoint
  extract_lets c
  split
  · rfl
  · extract_lets first t0
    split
    · split
      · rfl
      · exact rdReg_setF_ne _ _ _ _ _ h
    · rfl

/-- Lock that holds again ends the episode, if there is one, and shows in LOCK (R148). -/
theorem pllRelock_locks (s : State) : (pllRelock s).moi.unlock = none ∧ getW MOI.PLL_STAT_LOCK moiPg 0 (pllRelock s) = 1 := by
  have shown : getW MOI.PLL_STAT_LOCK moiPg 0 (setB MOI.STAT_PLL_LOCK moiPg 0 true (setB MOI.PLL_STAT_LOCK moiPg 0 true s)) = 1 := by
    unfold setB
    rw [getW_setF_other _ _ (by decide) (by decide) (by decide), getW_setF _ _ _ _ _ (by decide) (by decide)]
    rfl
  unfold pllRelock
  extract_lets t
  split
  · next h => exact ⟨h, shown⟩
  · next u h =>
    extract_lets v
    have ends := endEp_only moiPg kMoiPllUnlock 0 (withMoi { v.moi with unlock := none } v)
    have lasts : rdReg v (fldAddr MOI.PLL_STAT_LOCK moiPg 0) = rdReg t (fldAddr MOI.PLL_STAT_LOCK moiPg 0) := by
      refine forN_rdReg 8 _ (fun m hm s => repeatPoint_quiet s ?_) t
      simp only [fldAddr, pageAddr, MOI.CH_STAT_REPEATS, MOI.PLL_STAT_LOCK]
      omega
    clear_value v
    refine ⟨congrArg MoiState.unlock ends.moi, ?_⟩
    rw [← shown]
    exact getW_congr ((ends.2 _ (quiet_calm (by decide))).trans lasts)

/-! ### Clamps -/

/-- A channel whose sweep a detection of clamp current meets is marked. -/
def markClamped (m : Nat) (s : State) : State := if (moiCh s m).sweep then putMoi m { moiCh s m with clamped := true } s else s

theorem markClamped_chs (b n : Nat) (s : State) : ∃ x, forN n (fun i => markClamped (b + i)) s = withMoi { s.moi with chs := x } s := by
  refine List.foldlRecOn (motive := fun t => ∃ x, t = withMoi { s.moi with chs := x } s) _ _ ⟨s.moi.chs, rfl⟩ fun t h i _ => ?_
  obtain ⟨x, rfl⟩ := h
  change ∃ y, markClamped (b + i) _ = _
  unfold markClamped
  split
  · exact ⟨_, rfl⟩
  · exact ⟨x, rfl⟩

/-- What a detection leaves in any case: its pin, and the tick up to which the episode lasts. -/
def clampNoted (b pin : Nat) (s : State) : State := noteBit (fldAddr MOI.BK_STAT_PIN moiPg b) (16 + pin)
  (setF MOI.BK_STAT_PIN moiPg b (putBit (getW MOI.BK_STAT_PIN moiPg b s) pin true)
    (withMoi { s.moi with clamp := tabSet (fun _ => 0) s.moi.clamp b (s.time.ticks + 1) } s))

/-- The first detection of an episode is shown and reported. -/
def clampShown (b : Nat) (s : State) : State :=
  raise moiPg 0x06 kMoiClamp b (setIrq moiPg 20 (setB MOI.BK_STAT_CLAMP moiPg b true (setSeen MOI.BK_STAT_CLAMP_SEEN moiPg b s)))

/-- A detection of clamp current (R141): sweeps of the bank in progress are marked besides. -/
theorem moiClampDetect_cases (b pin : Nat) (s : State) : ∃ x,
    let t := withMoi { (clampNoted b pin s).moi with chs := x } (clampNoted b pin s)
    moiClampDetect b pin s = if tabGet (fun _ => 0) s.moi.clamp b ≠ 0 then t else clampShown b t := by
  obtain ⟨x, hx⟩ := markClamped_chs (4 * b) 4 (clampNoted b pin s)
  refine ⟨x, ?_⟩
  rw [← hx]
  rfl

theorem clampNoted_moi (b pin : Nat) (s : State) :
    (clampNoted b pin s).moi = { s.moi with clamp := tabSet (fun _ => 0) s.moi.clamp b (s.time.ticks + 1) } := by
  rw [clampNoted, noteBit_moi, setF_moi, withMoi_moi]

theorem clampNoted_time (b pin : Nat) (s : State) : (clampNoted b pin s).time = s.time := by
  rw [clampNoted, noteBit_time, setF_time, withMoi_time]

theorem noteBit_onlyPage (p a n : Nat) (s : State) : OnlyPage p s (noteBit a n s) := ⟨rfl, fun _ _ => rfl⟩

theorem withMoi_onlyPage (p : Nat) (x : MoiState) (s : State) : OnlyPage p s (withMoi x s) := ⟨rfl, fun _ _ => rfl⟩

theorem raise_onlyPage (p q i k a : Nat) (s : State) : OnlyPage p s (raise q i k a s) := ⟨rfl, fun _ _ => rfl⟩

theorem clampNoted_onlyPage {b : Nat} (h : b < 2) (pin : Nat) (s : State) : OnlyPage moiPg s (clampNoted b pin s) :=
  ((withMoi_onlyPage ..).trans (setF_onlyPage _ _ _ (by simp only [MOI.BK_STAT_PIN]; omega))).trans (noteBit_onlyPage ..)

theorem clampShown_onlyPage {b : Nat} (h : b < 2) (s : State) : OnlyPage moiPg s (clampShown b s) :=
  ((((setF_onlyPage _ _ _ (by simp only [MOI.BK_STAT_CLAMP_SEEN]; omega)).trans (noteBit_onlyPage ..)).trans
    (setF_onlyPage _ _ _ (by simp only [MOI.BK_STAT_CLAMP]; omega))).trans (setIrq_onlyPage ..)).trans (raise_onlyPage ..)

theorem clampShown_moi (b : Nat) (s : State) : (clampShown b s).moi = s.moi := by
  rw [clampShown, raise_moi, setIrq_moi, setB_moi, setSeen, noteBit_moi, setB_moi]

theorem clampShown_reports {b : Nat} {s t : State} (h : t.time = s.time) :
    Sent moiPg 6 kMoiClamp b s (clampShown b t) ∧ irq moiPg 20 (clampShown b t) = true := by
  refine ⟨sent_raise_of_time ?_ .., ?_⟩
  · rw [setIrq_time, setB_time, setSeen, noteBit_time, setB_time, h]
  · rw [clampShown, irq, rdReg_raise]
    exact irq_setIrq _ _ (by decide)

/-- What a detection does, whether it begins an episode or not. -/
theorem moiClampDetect_effect {b : Nat} (h : b < 2) (pin : Nat) (s : State) : OnlyPage moiPg s (moiClampDetect b pin s)
    ∧ tabGet (fun _ => 0) (moiClampDetect b pin s).moi.clamp b = s.time.ticks + 1
    ∧ (tabGet (fun _ => 0) s.moi.clamp b = 0 → Sent moiPg 6 kMoiClamp b s (moiClampDetect b pin s)
      ∧ irq moiPg 20 (moiClampDetect b pin s) = true) := by
  obtain ⟨x, e⟩ := moiClampDetect_cases b pin s
  have page := (clampNoted_onlyPage h pin s).trans (withMoi_onlyPage _ { (clampNoted b pin s).moi with chs := x } _)
  have lasts : tabGet (fun _ => 0) (clampNoted b pin s).moi.clamp b = s.time.ticks + 1 := by
    simp only [clampNoted_moi, tabGet_set_self]
  rw [e]
  by_cases first : tabGet (fun _ => 0) s.moi.clamp b = 0
  · rw [if_neg (not_not.2 first), clampShown_moi]
    exact ⟨page.trans (clampShown_onlyPage h _), lasts, fun _ => clampShown_reports (by rw [withMoi_time, clampNoted_time])⟩
  · rw [if_pos first]
    exact ⟨page, lasts, fun fresh => absurd fresh first⟩

/-! ### The evaluator -/

/-- An operation on channel `m` that keeps its period and the readings of its sweep. -/
structure KeepsSweep (m : Nat) (s t : State) : Prop where
  onCh : OnCh m s t
  per : (moiCh t m).per = (moiCh s m).per
  pts : (moiCh t m).pts = (moiCh s m).pts

namespace KeepsSweep
variable {m : Nat} {s t u : State}

theorem refl (m : Nat) (s : State) : KeepsSweep m s s := ⟨.refl m s, rfl, rfl⟩

theorem trans (h : KeepsSweep m s t) (g : KeepsSweep m t u) : KeepsSweep m s u :=
  ⟨h.onCh.trans g.onCh, g.per.trans h.per, g.pts.trans h.pts⟩

theorem keep (h : KeepsChannels s t) : KeepsSweep m s t := ⟨.keep h, by rw [h.ch], by rw [h.ch]⟩

theorem put {v : MoiCh} {s : State} (per : v.per = (moiCh s m).per) (pts : v.pts = (moiCh s m).pts) : KeepsSweep m s (putMoi m v s) :=
  ⟨.put .., by rw [moiCh_putMoi, per], by rw [moiCh_putMoi, pts]⟩

theorem ite {c : Prop} [Decidable c] (h : KeepsSweep m s t) : KeepsSweep m s (if c then t else s) := by
  split
  · exact h
  · exact refl m s

end KeepsSweep

theorem verifyRec_keepsSweep (m loc : Nat) (s : State) : KeepsSweep m s (verifyRec loc s) := by
  unfold verifyRec
  extract_lets r
  split
  · exact .refl m s
  · exact .keep ⟨rfl, rfl⟩

theorem cellEpisodes_keepsSweep (m : Nat) (opens overs : Bool) (inst : Nat) (s : State) : KeepsSweep m s (cellEpisodes m opens overs inst s) := by
  unfold cellEpisodes
  extract_lets c s1 s2 s3
  have h1 : KeepsSweep m s s1 := .put rfl rfl
  have h2 : KeepsSweep m s1 s2 := .ite (.keep ⟨rfl, rfl⟩)
  have h3 : KeepsSweep m s2 s3 := .keep (setEp_only ..).keepsChannels
  exact ((h1.trans h2).trans h3).trans (.keep (setEp_only ..).keepsChannels)

theorem foulCheck_keepsSweep (m : Nat) (dc dl : Int) (s : State) : KeepsSweep m s (foulCheck m dc dl s) := by
  unfold foulCheck
  extract_lets c s1
  split
  · exact .refl m s
  · extract_lets diag fouled cnt begins s2
    have shown : KeepsChannels s s1 := ⟨by rw [setF_moi, setF_moi], by rw [setF_time, setF_time]⟩
    have h1 : KeepsSweep m s s1 := .keep shown
    have h2 : KeepsSweep m s1 s2 := .put (by rw [shown.ch]) (by rw [shown.ch])
    split
    · exact (h1.trans h2).trans (.keep ((setIrq_only ..).trans (raise_only ..)).keepsChannels)
    · exact (h1.trans h2).trans (.ite (.keep (endEp_only ..).keepsChannels))

/-- A complete sweep of a period in its last tick gets its record; besides, episodes begin and end (R154, R165, R166). -/
def Evaluated (m : Nat) (s u : State) : Prop :=
  ∃ t r, KeepsSweep m s t ∧ u = putMoi m { moiCh t m with result := some r } t

theorem evaluateCh_evaluates {m : Nat} {s : State} (h : (lastTick s (moiCh s m) && (moiCh s m).done && (moiCh s m).result.isNone) = true) :
    Evaluated m s (evaluateCh m s) := by
  obtain ⟨p, hp⟩ := per_of_lastTick (Bool.and_eq_true_iff.1 (Bool.and_eq_true_iff.1 h).1).1
  unfold evaluateCh
  extract_lets c rd
  split
  · next e => exact absurd (hp.symm.trans e) (by simp)
  · rw [if_pos h]
    extract_lets pointOf sp lp rs rl opens overs ces les tmp loc ext ok temp0 temp s1 cell e s2 dc dl s3 s4 c' status
    have h1 : KeepsSweep m s s1 := .ite (verifyRec_keepsSweep ..)
    have h2 : KeepsSweep m s1 s2 := cellEpisodes_keepsSweep ..
    have h3 : KeepsSweep m s2 s3 := .ite (foulCheck_keepsSweep ..)
    have h4 : KeepsSweep m s3 s4 := .keep ⟨rfl, rfl⟩
    exact ⟨s4, _, ((h1.trans h2).trans h3).trans h4, rfl⟩

theorem evaluateCh_idle {m : Nat} {s : State} (h : (lastTick s (moiCh s m) && (moiCh s m).done && (moiCh s m).result.isNone) = false) :
    evaluateCh m s = s := by
  unfold evaluateCh
  extract_lets c
  split
  · rfl
  · exact if_neg (by rw [h]; decide)

theorem evaluateCh_onCh (m : Nat) (s : State) : OnCh m s (evaluateCh m s) := by
  cases h : lastTick s (moiCh s m) && (moiCh s m).done && (moiCh s m).result.isNone with
  | false => rw [evaluateCh_idle h]; exact .refl m s
  | true =>
    obtain ⟨t, r, keeps, e⟩ := evaluateCh_evaluates h
    rw [e]
    exact keeps.onCh.trans (.put ..)

/-- The evaluator makes of a channel what its own evaluation makes of it. -/
theorem moiEvaluate_ch {m : Nat} (hm : m < 8) (s : State) :
    ∃ u, moiCh u m = moiCh s m ∧ lastTick u (moiCh u m) = lastTick s (moiCh s m) ∧ moiCh (moiEvaluate s) m = moiCh (evaluateCh m u) m :=
  forN_atPhase_onCh hm evaluateCh_onCh 100 0 s

/-! ### Publication -/

theorem verifyMoi_onCh (m : Nat) (s : State) : OnCh m s (verifyMoi m s) := by
  unfold verifyMoi
  extract_lets c
  split
  · exact .refl m s
  · exact (OnCh.put ..).trans (.keep ⟨rfl, rfl⟩)

theorem staleMoi_onCh (m : Nat) (s : State) : OnCh m s (staleMoi m s) := by
  unfold staleMoi
  extract_lets c r
  split
  · exact .put ..
  · exact verifyMoi_onCh m s

theorem calSweep_keepsChannels (m : Nat) (s : State) : KeepsChannels s (calSweep m s) := by
  unfold calSweep
  extract_lets c
  split
  · split <;> exact ⟨rfl, rfl⟩
  · exact ⟨rfl, rfl⟩

theorem calStopped_keepsChannels (m : Nat) (s : State) : KeepsChannels s (calStopped m s) := by
  unfold calStopped
  split
  · split
    · exact endCal_keepsChannels ..
    · exact ⟨rfl, rfl⟩
  · exact ⟨rfl, rfl⟩

/-- A period that starts puts its channel's state, with the record that stands published, and of the calibration whether it has begun
(R144, R152). -/
theorem startPeriod_cases (m start : Nat) (s : State) : ∃ v t, startPeriod m start s = putMoi m v t ∧ v.recd = (moiCh s m).recd
    ∧ OnCh m s t := by
  unfold startPeriod
  extract_lets cfg get c p s1 calHere x s2
  have h1 : OnCh m s s1 := .ite (.keep (endEp_only ..).keepsChannels)
  refine ⟨_, s2, rfl, rfl, h1.trans ?_⟩
  simp only [s2]
  split
  · exact .ite (.keep ⟨rfl, rfl⟩)
  · exact .refl m s1

theorem startPeriod_onCh (m start : Nat) (s : State) : OnCh m s (startPeriod m start s) := by
  obtain ⟨v, t, e, -, h⟩ := startPeriod_cases m start s
  rw [e]
  exact h.trans (.put ..)

theorem startPeriod_recd (m start : Nat) (s : State) : (moiCh (startPeriod m start s) m).recd = (moiCh s m).recd := by
  obtain ⟨v, t, e, h, -⟩ := startPeriod_cases m start s
  rw [e, moiCh_putMoi, h]

/-- A channel goes on with its next period, or stops (R145). -/
def periodFollows (m : Nat) (s : State) : State :=
  if moiOn m s then startPeriod m s.time.ticks s
  else calStopped m (putMoi m { moiCh s m with per := none, sweep := false, done := false, result := none } s)

theorem periodFollows_onCh (m : Nat) (s : State) : OnCh m s (periodFollows m s) := by
  unfold periodFollows
  split
  · exact startPeriod_onCh ..
  · exact (OnCh.put ..).trans (.keep (calStopped_keepsChannels ..))

theorem periodFollows_recd (m : Nat) (s : State) : (moiCh (periodFollows m s) m).recd = (moiCh s m).recd := by
  unfold periodFollows
  split
  · exact startPeriod_recd ..
  · rw [(calStopped_keepsChannels ..).ch, moiCh_putMoi]

/-- A record as its publication at tick `t` leaves it (R161). -/
def publishedAt (m t : Nat) (r : MoiRec) : MoiRec := { r with tick := some t, crc := moiCrc m { r with tick := some t } (t % 65536) }

theorem endPeriod_published {m : Nat} {s : State} {r : MoiRec} (h : (moiCh s m).result = some r) (sound : (moiCh s m).lost = false) :
    endPeriod m s = periodFollows m (calSweep m (putMoi m { moiCh s m with recd := publishedAt m s.time.tick r, miss := [] } s)) := by
  unfold endPeriod
  simp only [h, sound]
  rfl

theorem endPeriod_recd {m : Nat} {s : State} {r : MoiRec} (h : (moiCh s m).result = some r) (sound : (moiCh s m).lost = false) :
    (moiCh (endPeriod m s) m).recd = publishedAt m s.time.tick r := by
  rw [endPeriod_published h sound, periodFollows_recd, (calSweep_keepsChannels ..).ch, moiCh_putMoi]

theorem endPeriod_onCh (m : Nat) (s : State) : OnCh m s (endPeriod m s) := by
  unfold endPeriod
  extract_lets c s1
  have h1 : OnCh m s s1 := by
    simp only [s1]
    split
    · exact (OnCh.put ..).trans (.keep (calSweep_keepsChannels ..))
    · exact (staleMoi_onCh m s).trans (.keep (calLate_keepsChannels ..))
  exact h1.trans (periodFollows_onCh m s1)

/-- The boundary makes of a channel whose period it ends what the end of that period makes of it. -/
theorem moiPeriodEnd_ch {m : Nat} (hm : m < 8) {s : State} (h : periodEnded s m = true) :
    ∃ u, moiCh u m = moiCh s m ∧ u.time = s.time ∧ moiCh (moiPeriodEnd s) m = moiCh (endPeriod m u) m := by
  obtain ⟨u, hu, tu, hv⟩ := forN_onCh hm (f := fun i a => if periodEnded s i then endPeriod i a else a) (fun i a => .ite (endPeriod_onCh i a)) s
  refine ⟨u, hu, tu, ?_⟩
  unfold moiPeriodEnd
  extract_lets ends late t
  have fold : t = forN 8 (fun i a => if periodEnded s i then endPeriod i a else a) s := List.foldl_filter
  rw [h, if_pos rfl] at hv
  rw [← hv, ← fold]
  exact moiCh_congr (congrArg MoiState.chs (dueBoundary_moi ..)) m

/-! ### The engines' commands -/

theorem moiCh_reach {ps : List Part} {f : State → State} {s : State} (h : Part.moi ∈ ps) (m : Nat) : moiCh (reach ps f s) m = moiCh (f s) m :=
  moiCh_congr (by rw [reach_moi _ _ _ h]) m

theorem periodEnd_does {s : State} (awake : Awake s) (ch : Fin 8) :
    Does .moiPeriodEnd s fun u => ∀ r, periodEnded s ch.val = true → (moiCh s ch.val).result = some r → (moiCh s ch.val).lost = false →
      (moiCh u ch.val).recd.words = r.words ∧ (moiCh u ch.val).recd.status = r.status ∧ (moiCh u ch.val).recd.tick = some s.time.tick := by
  refine ⟨_, settles_finish awake rfl, fun r ends result sound => ?_⟩
  obtain ⟨u, same, time, e⟩ := moiPeriodEnd_ch (s := clearReports s) ch.isLt ends
  have recd := endPeriod_recd (s := u) (m := ch.val) (r := r) (by rw [same]; exact result) (by rw [same]; exact sound)
  rw [moiCh_reach (by decide), e, recd, time]
  exact ⟨rfl, rfl, rfl⟩

theorem sweepComplete_does {s : State} (awake : Awake s) (ch : Fin 8) (points : List CellPoint) :
    Does (.moiSweepComplete ch points) s fun u => Outside [moiPg] s u
      ∧ (∀ p, (moiCh s ch.val).per = some p → (moiCh s ch.val).sweep = true → s.moi.unlock = none → points.length = (activePoints p.prog).length →
          (moiCh u ch.val).done = true ∧ (moiCh u ch.val).sweep = false ∧ (moiCh u ch.val).pts = readPoints p.prog (activePoints p.prog) points)
      ∧ ((moiCh s ch.val).sweep = false ∨ (moiCh s ch.val).per = none → u = clearReports s) := by
  refine ⟨_, settles_finish awake rfl, (sweepComplete_onlyPage ch.isLt ..).outside (by decide), fun p per sweep lock len => ?_, fun idle => ?_⟩
  · have e := sweepComplete_taken (s := clearReports s) per sweep lock len
    rw [moiCh_reach (by decide), e]
    exact ⟨rfl, rfl, rfl⟩
  · exact reach_self (sweepComplete_idle (s := clearReports s) points idle)

theorem sweepDeadline_does {s : State} (awake : Awake s) (ch : Fin 8) :
    Does .moiSweepDeadline s fun u => Outside [moiPg] s u
      ∧ (lastTick s (moiCh s ch.val) = true → (moiCh s ch.val).sweep = true →
          (moiCh u ch.val).sweep = false ∧ (moiCh u ch.val).done = false ∧ (moiCh u ch.val).pts = [])
      ∧ (lastTick s (moiCh s ch.val) = false ∨ (moiCh s ch.val).sweep = false → moiCh u ch.val = moiCh s ch.val) := by
  obtain ⟨u, same, last, e⟩ := sweepDeadline_ch ch.isLt (clearReports s)
  change moiCh u ch.val = moiCh s ch.val at same
  change _ = lastTick s (moiCh s ch.val) at last
  refine ⟨_, settles_finish awake rfl, (sweepDeadline_onlyPage ..).outside (by decide), fun ending sweep => ?_, fun idle => ?_⟩ <;>
    rw [moiCh_reach (by decide), e]
  · rw [cutOff_cut (by rw [last, same, ending, sweep]; rfl)]
    exact ⟨rfl, rfl, rfl⟩
  · rw [cutOff_idle (by rw [last, same]; exact Bool.and_eq_false_iff.2 idle), same]

theorem moiEvaluate_does {s : State} (awake : Awake s) (ch : Fin 8) :
    Does .moiEvaluate s fun u => (lastTick s (moiCh s ch.val) = true → (moiCh s ch.val).done = true → (moiCh s ch.val).result = none →
        (moiCh u ch.val).result.isSome = true ∧ (moiCh u ch.val).per = (moiCh s ch.val).per ∧ (moiCh u ch.val).pts = (moiCh s ch.val).pts)
      ∧ (lastTick s (moiCh s ch.val) = false ∨ (moiCh s ch.val).done = false ∨ (moiCh s ch.val).result.isSome = true →
          moiCh u ch.val = moiCh s ch.val) := by
  obtain ⟨u, same, last, e⟩ := moiEvaluate_ch ch.isLt (clearReports s)
  change moiCh u ch.val = moiCh s ch.val at same
  change _ = lastTick s (moiCh s ch.val) at last
  refine ⟨_, settles_finish awake rfl, fun ending done fresh => ?_, fun idle => ?_⟩ <;> rw [moiCh_reach (by decide), e]
  · obtain ⟨t, r, keeps, e⟩ := evaluateCh_evaluates (s := u) (m := ch.val) (by rw [last, same, ending, done, fresh]; rfl)
    rw [e, moiCh_putMoi, ← same]
    exact ⟨rfl, keeps.per, keeps.pts⟩
  · have still : (lastTick s (moiCh s ch.val) && (moiCh s ch.val).done && (moiCh s ch.val).result.isNone) = false := by
      rcases idle with h | h | h
      · rw [h, Bool.false_and, Bool.false_and]
      · rw [h, Bool.and_false, Bool.false_and]
      · rw [Option.isNone_eq_false_iff.2 h, Bool.and_false]
    rw [evaluateCh_idle (by rw [last, same, still]), same]

theorem pllUnlock_does {s : State} (awake : Awake s) :
    Does .moiPllUnlock s fun u => (s.moi.unlock = none → u.moi.unlock = some (usNow s) ∧ getW MOI.PLL_STAT_LOCK moiPg 0 u = 0
        ∧ irq moiPg 19 u = true ∧ Sent moiPg 3 kMoiPllUnlock 0 s u)
      ∧ (s.moi.unlock.isSome = true → u = clearReports s) := by
  refine ⟨_, settles_finish awake rfl, fun locked => ?_, fun lost => reach_self (pllUnlock_idle (s := clearReports s) lost)⟩
  obtain ⟨begun, shown, interrupt, sent⟩ := pllUnlock_begins (s := clearReports s) locked
  rw [reach_moi _ _ _ (by decide), getW_reach _ _ (by decide), irq_reach (by decide)]
  exact ⟨begun, shown, interrupt, sent_reach (by decide) sent⟩

theorem pllRelock_does {s : State} (awake : Awake s) :
    Does .moiPllRelock s fun u => u.moi.unlock = none ∧ getW MOI.PLL_STAT_LOCK moiPg 0 u = 1 := by
  obtain ⟨ended, shown⟩ := pllRelock_locks (clearReports s)
  exact ⟨_, settles_finish awake rfl, by rw [reach_moi _ _ _ (by decide), ended], by rw [getW_reach _ _ (by decide), shown]⟩

theorem clampDetect_does {s : State} (awake : Awake s) (bank : Fin 2) (pin : Fin 12) :
    Does (.moiClampDetect bank pin) s fun u => Outside [moiPg] s u ∧ tabGet (fun _ => 0) u.moi.clamp bank.val = s.time.ticks + 1
      ∧ (tabGet (fun _ => 0) s.moi.clamp bank.val = 0 → Sent moiPg 6 kMoiClamp bank.val s u ∧ irq moiPg 20 u = true) := by
  obtain ⟨page, lasts, first⟩ := moiClampDetect_effect bank.isLt pin.val (clearReports s)
  refine ⟨_, settles_finish awake rfl, page.outside (by decide), ?_, fun fresh => ?_⟩
  · rw [reach_moi _ _ _ (by decide)]
    exact lasts
  · obtain ⟨sent, interrupt⟩ := first fresh
    exact ⟨sent_reach (by decide) sent, by rw [irq_reach (by decide)]; exact interrupt⟩

theorem calEnd_does {s : State} (awake : Awake s) :
    Does .calEnd s fun u => ((∀ k, s.moi.cal = some k → k.ch < 8) → Outside [moiPg] s u)
      ∧ (∀ k, s.moi.cal = some k → k.sweeps ≠ [] → k.navg ≤ k.sweeps.length → u.moi.cal = none ∧ irq moiPg 16 u = true
        ∧ ((k.sweeps.flatMap id).any (fun r => ptOpen r || ptOver r) = true → getW MOI.CAL_STAT_RESULT moiPg 0 u = 2)
        ∧ ((k.sweeps.flatMap id).any (fun r => ptOpen r || ptOver r) = false → getW MOI.CAL_STAT_RESULT moiPg 0 u ∈ [1, 3]))
      ∧ (∀ k, s.moi.cal = some k → k.sweeps.length < k.navg → u = clearReports s) := by
  refine ⟨_, settles_finish awake rfl, fun inside => (calFinish_onlyPage (s := clearReports s) inside).outside (by decide),
    fun k cal nonempty complete => ?_, fun k cal going => reach_self (calFinish_open (s := clearReports s) cal going)⟩
  obtain ⟨result, w, e, checked⟩ := calFinish_complete (s := clearReports s) cal nonempty complete
  have small : result < 8 := by
    split at checked
    · omega
    · simp only [List.mem_cons, List.not_mem_nil, or_false] at checked
      omega
  rw [reach_moi _ _ _ (by decide), irq_reach (by decide), getW_reach _ _ (by decide), e]
  obtain ⟨ended, interrupt, shown⟩ := endCal_ends (s := withWin w (clearReports s)) cal small
  rw [shown]
  refine ⟨ended, interrupt, fun bad => ?_, fun good => ?_⟩
  · rwa [if_pos bad] at checked
  · rwa [good, if_neg (by decide)] at checked

/-! ### A start of a calibration to a bit that the notes name -/

/-- The device right after reset, but that the moisture page runs and that channel 0 is enabled, with one active point in its programme and
with grain table 0 assigned. -/
def calReady : State :=
  setFF MOI.CH_CFG_EN moiPg 0 1 (setB CMN.STAT_RUNNING moiPg 0 true
    (setAct moiPg 1 0 0x80000000 (setAct moiPg 0 0 1 (setAct moiPg 0 1 0 (setAct moiPg 0 2 0 State.reset)))))

/-- The same device, but that the notes of the present cycle name the bit of CAL_CTRL.NAVG that its reset value 16 sets. -/
def notedNavg : State := noteBit (pageAddr moiPg 0x300) 20 calReady

theorem notedNavg_awake : Awake notedNavg := ⟨rfl, by change bitAt 0 4 = false; decide⟩

/-- SUP may write CAL_CTRL there: neither ownership nor LOCK binds it (R31, R33). -/
theorem sup_mayWrite_notedNavg : MayWrite .sup moiPg true notedNavg := ⟨rfl, by decide +kernel, rfl, .inl rfl⟩

/-- All states that settle to the same end of a command agree on the analyser. -/
theorem Does.moi {i : Instr} {s v : State} {P : State → Prop} (h : Does i s P) (hv : Settles i s v) : ∃ u, P u ∧ u.moi = v.moi := by
  obtain ⟨u, hu, hP⟩ := h
  have e : keepQueue s (settle u) = keepQueue s (settle v) := Host.Outcome.next.inj (hu.symm.trans hv)
  have analyser := congrArg State.moi e
  exact ⟨u, hP, by simpa only [keepQueue_moi, settle_moi] using analyser⟩

end Sys2Proof.Machine

namespace Sys2Proof.Proofs
open Sys2Proof Sys2Proof.Machine

/-- Settles O24: each engine's command runs its operation, which makes of a channel, of the lock, of a clamp episode or of a calibration what
its own lemma says. -/
theorem moistureEnginesActOnTheirChannels : Obligations.Moisture_Engines_Act_On_Their_Channels := by
  unfold Obligations.Moisture_Engines_Act_On_Their_Channels
  intro ch points bank pin s awake
  exact ⟨periodEnd_does awake ch, sweepComplete_does awake ch points, sweepDeadline_does awake ch, moiEvaluate_does awake ch,
    pllUnlock_does awake, pllRelock_does awake, clampDetect_does awake bank pin, calEnd_does awake⟩

/-- Refutes O25: NAVG reads 16, and the notes of the cycle name its bit; SUP starts a calibration of one sweep, the write is done, and the
calibration takes 17 sweeps. -/
theorem not_calibrationsStartAndAbort : ¬ Obligations.Calibrations_Start_And_Abort := by
  unfold Obligations.Calibrations_Start_And_Abort
  intro h
  obtain ⟨start, -⟩ := h .sup 0 1 notedNavg notedNavg_awake sup_mayWrite_notedNavg
  have does := start (by decide) rfl (by decide +kernel) (by decide +kernel) (by decide +kernel) (by decide +kernel)
  obtain ⟨u, ⟨-, taken, -⟩, same⟩ := Does.moi does (settles_write notedNavg_awake (by decide) rfl)
  rw [same] at taken
  exact absurd taken (by decide +kernel)

end Sys2Proof.Proofs
end

section
/-!
PROOFS. The trace units (chapter 7): the statement about their samples and commands, and CLR of LOADMAX (O27). A sample and a command put the state
of one unit and mark registers of the page alone (`PutsUnit`), so that a sample instant is one unit's work after another. What a node
reads does not depend on the reports of the last command, with which every command begins anew.
-/
namespace Sys2Proof.Machine

/-! ### Reads without the reports of the last command -/

section
variable (s : State) (party : Party) (p off : Nat)

theorem blockStale_clearReports : blockStale p (clearReports s) = blockStale p s := by
  unfold blockStale
  split <;> rfl

theorem statWord_clearReports : statWord p (clearReports s) = statWord p s := by
  simp only [statWord, blockStale_clearReports]
  rfl

theorem blockRead_clearReports : blockRead party p off (clearReports s) = blockRead party p off s := by
  unfold blockRead
  split <;> rfl

theorem regWord_clearReports (d : RegDesc) : regWord party p off d (clearReports s) = regWord party p off d s := by
  simp only [regWord, statWord_clearReports, blockRead_clearReports]
  rfl

theorem placeRead_clearReports (held : Option Word) (pl : Place) :
    (placeRead party held pl (clearReports s)).1 = (placeRead party held pl s).1 := by
  cases pl with
  | register p off d =>
    cases held with
    | none => exact regWord_clearReports ..
    | some w => rfl
  | parcel loc w => cases held <;> rfl
  | nowhere | unpowered _ | engine _ _ | trace _ _ => rfl

theorem nodeSample_clearReports (cls i : Nat) : nodeSample cls i (clearReports s) = nodeSample cls i s := by
  simp only [nodeSample, placeRead_clearReports]
  rfl

theorem unitNode_clearReports (u c : Nat) : unitNode u c (clearReports s) = unitNode u c s := nodeSample_clearReports ..

theorem atPhase_clearReports (ph cy : Nat) : atPhase ph cy (clearReports s) = clearReports (atPhase ph cy s) := by
  rw [atPhase, atPhase, apply_ite clearReports]
  rfl

end

/-! ### Trace units -/

@[simp] theorem trcUnit_putTrc (u : Nat) (x : TrcUnit) (s : State) : trcUnit (putTrc u x s) u = x := by simp [trcUnit, putTrc]

theorem trcUnit_putTrc_ne {u k : Nat} (x : TrcUnit) (s : State) (h : u ≠ k) : trcUnit (putTrc u x s) k = trcUnit s k := by
  simp [trcUnit, putTrc, tabGet_set_ne _ _ _ h]

theorem getW_putTrc (f : Fld) (p k u : Nat) (x : TrcUnit) (s : State) : getW f p k (putTrc u x s) = getW f p k s := rfl

theorem trcUnit_congr {s t : State} (h : t.trc = s.trc) (u : Nat) : trcUnit t u = trcUnit s u := by rw [trcUnit, trcUnit, h]

@[simp] theorem atPhase_trc (ph cy : Nat) (s : State) : (atPhase ph cy s).trc = s.trc := by unfold atPhase; split <;> rfl

/-- An operation that marks registers of unit `u` and of its page: the units and the time stay. -/
structure TrcMarks (u : Nat) (s t : State) : Prop where
  trc : t.trc = s.trc
  time : t.time = s.time
  page : u < 4 → OnlyPage trcPg s t

namespace TrcMarks
variable {u : Nat} {s t v : State}

theorem trans (h : TrcMarks u s t) (g : TrcMarks u t v) : TrcMarks u s v :=
  ⟨g.trc.trans h.trc, g.time.trans h.time, fun hu => (h.page hu).trans (g.page hu)⟩

theorem irq (u n : Nat) (s : State) : TrcMarks u s (setIrq trcPg n s) := ⟨rfl, rfl, fun _ => setIrq_onlyPage ..⟩

/-- A field of a unit's own registers. -/
theorem field {f : Fld} (hf : f.off < 0x300 ∧ f.stride = 0x40) (u v : Nat) (s : State) : TrcMarks u s (setF f trcPg u v s) :=
  ⟨rfl, rfl, fun _ => setF_onlyPage _ _ _ (by rw [hf.2]; omega)⟩

theorem holds (u : Nat) (s : State) (l : List Hold) : TrcMarks u s (withHolds s l) := ⟨rfl, rfl, fun _ => withHolds_onlyPage ..⟩

end TrcMarks

/-- An operation that puts unit `u` as `y` and marks its registers: the other units and the time stay. -/
structure PutsUnit (u : Nat) (y : TrcUnit) (s t : State) : Prop where
  unit : trcUnit t u = y
  others : ∀ k, k ≠ u → trcUnit t k = trcUnit s k
  time : t.time = s.time
  page : u < 4 → OnlyPage trcPg s t

namespace PutsUnit
variable {u : Nat} {x y : TrcUnit} {s t v : State}

theorem refl (u : Nat) (s : State) : PutsUnit u (trcUnit s u) s s := ⟨rfl, fun _ _ => rfl, rfl, fun _ => .refl ..⟩

theorem put (u : Nat) (y : TrcUnit) (s : State) : PutsUnit u y s (putTrc u y s) :=
  ⟨trcUnit_putTrc .., fun _ hk => trcUnit_putTrc_ne _ _ hk.symm, rfl, fun _ => .of_regs rfl rfl⟩

theorem trans (h : PutsUnit u x s t) (g : PutsUnit u y t v) : PutsUnit u y s v :=
  ⟨g.unit, fun k hk => (g.others k hk).trans (h.others k hk), g.time.trans h.time, fun hu => (h.page hu).trans (g.page hu)⟩

theorem of_marks (h : TrcMarks u s t) : PutsUnit u (trcUnit s u) s t :=
  ⟨trcUnit_congr h.trc u, fun k _ => trcUnit_congr h.trc k, h.time, h.page⟩

theorem after (h : TrcMarks u s t) (g : PutsUnit u y t v) : PutsUnit u y s v := (of_marks h).trans g

theorem marked (h : PutsUnit u y s t) (g : TrcMarks u t v) : PutsUnit u y s v := by
  have put := of_marks g
  rw [h.unit] at put
  exact h.trans put

end PutsUnit

/-- A unit of which FILL becomes WAIT where its samples before the trigger number `pre` (R214). -/
def filled (pre : Nat) (x : TrcUnit) : TrcUnit := if x.state = 1 ∧ x.pre = pre then { x with state := 2 } else x

theorem trcFill_puts (u : Nat) (s : State) : PutsUnit u (filled (getF TRC.U_PRE_PRE trcPg u s) (trcUnit s u)) s (trcFill u s) := by
  unfold trcFill filled
  extract_lets x
  split
  · exact .put ..
  · exact .refl ..

/-! ### Samples -/

/-- What every sample leaves of a unit `x` in `y`, whatever it makes of the capture: the instant, NC, and the word of its first node. -/
structure Sampled (now : Nat) (w : Word) (x y : TrcUnit) : Prop where
  last : y.last = now
  nc : y.nc = x.nc
  prev : y.prev = some w

theorem Sampled.filled {now pre : Nat} {w : Word} {x y : TrcUnit} (h : Sampled now w x y) : Sampled now w x (filled pre y) := by
  unfold Machine.filled
  split
  · exact ⟨h.last, h.nc, h.prev⟩
  · exact h

/-- The registers of a recognised trigger: its interrupt, and the stamp and cause (R215). -/
def triggerShown (u cause : Nat) (s : State) : State :=
  setF TRC.U_TTICK_HI_CAUSE trcPg u cause (setF TRC.U_TTICK_HI_PHASE trcPg u s.time.phase
    (setF TRC.U_TTICK_HI_TICK_HI trcPg u (s.time.tick / 4294967296) (setF TRC.U_TTICK_LO_TICK_LO trcPg u s.time.tick (setIrq trcPg (20 + u) s))))

theorem triggerShown_marks (u cause : Nat) (s : State) : TrcMarks u s (triggerShown u cause s) :=
  ((((TrcMarks.irq ..).trans (.field (by decide) ..)).trans (.field (by decide) ..)).trans (.field (by decide) ..)).trans
    (.field (by decide) ..)

/-- A unit that takes its sample puts its own state alone (R214, R215). -/
theorem takeSample_puts (u cause : Nat) (sample : List Word) (s : State) :
    ∃ y, PutsUnit u y s (takeSample u cause sample s) ∧ Sampled (usNow s * 512 + s.time.cycle + 1) (nthW sample 0) (trcUnit s u) y := by
  unfold takeSample
  extract_lets x now n x' triggered s1 s2 s3 s4 s5
  have shown : TrcMarks u s s5 := triggerShown_marks u cause s
  split
  · split
    · exact ⟨_, (PutsUnit.after shown (.put ..)).marked (.irq ..), rfl, rfl, rfl⟩
    · exact ⟨_, .after shown (.put ..), rfl, rfl, rfl⟩
  · split
    · have filling := trcFill_puts u (putTrc u { x' with samples := sample :: x'.samples, pre := x'.pre + 1 } s)
      rw [trcUnit_putTrc] at filling
      exact ⟨_, (PutsUnit.put ..).trans filling, .filled ⟨rfl, rfl, rfl⟩⟩
    · split
      · exact ⟨_, .put .., rfl, rfl, rfl⟩
      · split
        · exact ⟨_, (PutsUnit.put ..).marked (.irq ..), rfl, rfl, rfl⟩
        · exact ⟨_, .put .., rfl, rfl, rfl⟩

/-- What the instant `s` of phase `ph` makes of unit `u` in a state `t` of the same instant. -/
def sampleUnit (ph : Nat) (s : State) (u : Nat) (t : State) : State :=
  if samplesNow ph s u then
    takeSample u (triggerCause (crossClose ((List.range 4).filter (samplesNow ph s)) s 5 []) u s)
      ((List.range (trcUnit s u).nc).map fun c => unitNode u c s) t
  else t

theorem sampleUnit_idle {ph u : Nat} {s : State} (h : samplesNow ph s u = false) (t : State) : sampleUnit ph s u t = t := by
  rw [sampleUnit, h, if_neg (by decide)]

/-- A unit whose instant this is takes its sample, of whose nodes the first is read as the instant finds it (R212). -/
theorem sampleUnit_takes {ph u : Nat} {s : State} (h : samplesNow ph s u = true) (t : State) :
    ∃ y w, PutsUnit u y t (sampleUnit ph s u t) ∧ Sampled (usNow t * 512 + t.time.cycle + 1) w (trcUnit t u) y
      ∧ ((trcUnit s u).nc ≠ 0 → w = unitNode u 0 s) := by
  rw [sampleUnit, h, if_pos rfl]
  obtain ⟨y, puts, sampled⟩ := takeSample_puts u _ _ t
  refine ⟨y, _, puts, sampled, fun nodes => ?_⟩
  obtain ⟨k, hk⟩ := Nat.exists_eq_succ_of_ne_zero nodes
  rw [hk, List.range_succ_eq_map]
  rfl

theorem sampleUnit_puts (ph u : Nat) (s t : State) : ∃ y, PutsUnit u y t (sampleUnit ph s u t) := by
  cases h : samplesNow ph s u with
  | false => exact ⟨_, by rw [sampleUnit_idle h]; exact .refl ..⟩
  | true =>
    obtain ⟨y, _, puts, -⟩ := sampleUnit_takes h t
    exact ⟨y, puts⟩

theorem traceSample_past {ph : Nat} {s : State} (h : ph < s.time.phase) : traceSample ph s = s := if_pos h

/-- A sample instant is one unit's work after another (R212). -/
theorem traceSample_eq {ph : Nat} {s : State} (h : s.time.phase ≤ ph) :
    traceSample ph s = forN 4 (sampleUnit ph (atPhase ph (phaseLen s ph - 1) s)) (atPhase ph (phaseLen s ph - 1) s) := by
  rw [traceSample, if_neg (by omega)]
  simp only [List.foldl_map, List.foldl_filter]
  rfl

theorem traceSample_onlyPage (ph : Nat) (s : State) : OnlyPage trcPg s (traceSample ph s) := by
  rcases Nat.lt_or_ge ph s.time.phase with h | h
  · rw [traceSample_past h]
    exact .refl ..
  · rw [traceSample_eq h]
    refine (atPhase_onlyPage ..).trans (.forN (fun u hu t => ?_) _)
    obtain ⟨y, puts⟩ := sampleUnit_puts ph u _ t
    exact puts.page hu

/-- Samples at an instant `st` make of a unit what its own sample makes of it. -/
theorem forN_sampleUnit {n : Nat} (hn : n < 4) (ph : Nat) (st : State) :
    ∃ t, trcUnit t n = trcUnit st n ∧ t.time = st.time
      ∧ trcUnit (forN 4 (sampleUnit ph st) st) n = trcUnit (sampleUnit ph st n t) n ∧ (forN 4 (sampleUnit ph st) st).time = st.time := by
  have step (u : Nat) (t : State) : (u ≠ n → trcUnit (sampleUnit ph st u t) n = trcUnit t n) ∧ (sampleUnit ph st u t).time = t.time := by
    obtain ⟨y, puts⟩ := sampleUnit_puts ph u st t
    exact ⟨fun hu => puts.others n hu.symm, puts.time⟩
  obtain ⟨t, ⟨unit, time⟩, own, last⟩ := forN_visit (f := sampleUnit ph st) (Sim := fun s t => trcUnit t n = trcUnit s n ∧ t.time = s.time) 4 n hn
    (fun _ => ⟨rfl, rfl⟩) (fun _ _ _ h g => ⟨g.1.trans h.1, g.2.trans h.2⟩) (fun u t hu => ⟨(step u t).1 hu, (step u t).2⟩) st
  exact ⟨t, unit, time, own, last.trans ((step n t).2.trans time)⟩

/-- What an instant `st` makes of unit `n`: a sample where it is one of the unit's, and nothing else (R212). -/
theorem forN_sampleUnit_unit {n : Nat} (hn : n < 4) (ph : Nat) (st : State) :
    (samplesNow ph st n = true → ∃ w, Sampled (usNow st * 512 + st.time.cycle + 1) w (trcUnit st n) (trcUnit (forN 4 (sampleUnit ph st) st) n)
        ∧ ((trcUnit st n).nc ≠ 0 → w = unitNode n 0 st))
      ∧ (samplesNow ph st n = false → trcUnit (forN 4 (sampleUnit ph st) st) n = trcUnit st n) := by
  obtain ⟨t, unit, time, own, -⟩ := forN_sampleUnit hn ph st
  have now : usNow t * 512 + t.time.cycle + 1 = usNow st * 512 + st.time.cycle + 1 := by rw [usNow, usNow, time]
  rw [own]
  refine ⟨fun due => ?_, fun idle => ?_⟩
  · obtain ⟨y, w, puts, sampled, first⟩ := sampleUnit_takes due t
    rw [now, unit] at sampled
    exact ⟨w, by rw [puts.unit]; exact sampled, first⟩
  · rw [sampleUnit_idle idle, unit]

/-- The command of a sample instant (R212). -/
theorem traceSample_does {s : State} (awake : Awake s) (ph : Fin 125) (n : Fin 4) :
    let st := atPhase ph.val (phaseLen s ph.val - 1) s
    Does (.traceSample ph) s fun u => Outside [trcPg] s u ∧ (ph.val < s.time.phase → u = clearReports s)
      ∧ (s.time.phase ≤ ph.val → u.time = st.time
        ∧ (samplesNow ph.val st n.val = true → (trcUnit u n.val).last = usNow st * 512 + st.time.cycle + 1 ∧ (trcUnit u n.val).nc = (trcUnit s n.val).nc
            ∧ ((trcUnit s n.val).nc ≠ 0 → (trcUnit u n.val).prev = some (unitNode n.val 0 st)))
        ∧ (samplesNow ph.val st n.val = false → trcUnit u n.val = trcUnit s n.val)) := by
  intro st
  have begun : atPhase ph.val (phaseLen (clearReports s) ph.val - 1) (clearReports s) = clearReports st := atPhase_clearReports ..
  have same : trcUnit st n.val = trcUnit s n.val := trcUnit_congr (atPhase_trc ..) _
  refine ⟨_, settles_finish awake rfl, (traceSample_onlyPage ..).outside (by decide),
    fun past => reach_self (traceSample_past (s := clearReports s) past), fun coming => ?_⟩
  have walk : traceSample ph.val (clearReports s) = forN 4 (sampleUnit ph.val (clearReports st)) (clearReports st) := by
    rw [traceSample_eq (s := clearReports s) coming, begun]
  obtain ⟨-, -, -, -, time⟩ := forN_sampleUnit n.isLt ph.val (clearReports st)
  obtain ⟨due, idle⟩ := forN_sampleUnit_unit n.isLt ph.val (clearReports st)
  rw [reach_time _ _ _ (by decide), trcUnit_congr (reach_trc _ _ _ (by decide)), walk, ← same]
  refine ⟨time, fun now => ?_, idle⟩
  obtain ⟨w, sampled, first⟩ := due now
  exact ⟨sampled.last, sampled.nc, fun nodes => by rw [sampled.prev, first nodes, unitNode_clearReports]⟩

/-! ### The command of one write -/

/-- The command of a write that its register judges: its report, and the parts that the judgement leaves. -/
theorem does_regWrite {i : Instr} {ps : List Part} {party : Party} {p off : Nat} {w : Word} {s t : State} {c : Cycle} {r : Report} (awake : Awake s)
    (hps : Part.pwr ∉ ps ∧ Part.regs ∈ ps ∧ Part.bus ∈ ps) (he : exec i s = .next (finishWrite (reach ps (regWrite party p off w)) s))
    (e : regWrite party p off w (clearReports s) = withReports (withCyc t c) ((clearReports s).bus.reports ++ [r])) :
    Does i s fun u => u.bus.reports = [r] ∧ RegsBut [] t u ∧ ∀ q ∈ ps, q ≠ .bus → agree q t u := by
  refine ⟨_, settles_write awake hps.1 he, ?_, fun a _ => ?_, fun q hq other => ?_⟩
  · rw [reach_bus _ _ _ hps.2.2, e]
    rfl
  · rw [rdReg_reach _ _ _ hps.2.1, e]
    rfl
  · have left : agree q t (regWrite party p off w (clearReports s)) := by
      rw [e]
      cases q
      case bus => exact absurd rfl other
      all_goals rfl
    exact agree_trans left (reach_agree_mem hq _)

/-! ### Commands of the units -/

/-- A unit as ARM leaves it in FILL, with `nc` nodes: no samples, and no command waiting (R214). -/
def armed (nc : Nat) (x : TrcUnit) : TrcUnit := { x with state := 1, nc := nc, samples := [], pre := 0, prev := none, force := false }

theorem filled_armed (pre nc : Nat) (x : TrcUnit) : (filled pre (armed nc x)).samples = [] ∧ (filled pre (armed nc x)).force = false
    ∧ (filled pre (armed nc x)).state = if pre = 0 then 2 else 1 := by
  by_cases h : pre = 0
  · rw [filled, if_pos ⟨rfl, h.symm⟩, if_pos h]
    exact ⟨rfl, rfl, rfl⟩
  · rw [filled, if_neg fun e => h e.2.symm, if_neg h]
    exact ⟨rfl, rfl, rfl⟩

/-- The trigger's cause, which ARM clears, lies in another register than PRE. -/
theorem getF_pre_putTrc (u : Nat) (x : TrcUnit) (s : State) :
    getF TRC.U_PRE_PRE trcPg u (putTrc u x (setF TRC.U_TTICK_HI_CAUSE trcPg u 0 s)) = getF TRC.U_PRE_PRE trcPg u s := by
  rw [getF_eq (by decide), getF_eq (by decide), getW_putTrc, getW_setF_beside _ _ (by decide) (by decide) (.inl (by decide))]

theorem trcCmd_arm {u : Nat} {s : State} (h : trcQuiet u s = true) :
    ∃ t nc, trcCmd u 1 s = .ok t ∧ PutsUnit u (filled (getF TRC.U_PRE_PRE trcPg u s) (armed nc (trcUnit s u))) s t := by
  have put (nc : Nat) : PutsUnit u (armed nc (trcUnit s u)) s (putTrc u (armed nc (trcUnit s u)) (setF TRC.U_TTICK_HI_CAUSE trcPg u 0 s)) :=
    .after (.field (by decide) ..) (.put ..)
  have filling (nc : Nat) := (put nc).trans (trcFill_puts ..)
  simp only [(put _).unit, getF_pre_putTrc] at filling
  exact ⟨_, _, if_pos h, filling _⟩

theorem trcCmd_arm_refused {u : Nat} {s : State} (h : trcQuiet u s = false) : trcCmd u 1 s = .refuse := by
  simp only [trcCmd, h, if_true, Bool.false_eq_true, if_false]

theorem trcCmd_force {u : Nat} {s : State} (h : (trcUnit s u).state = 1 ∨ (trcUnit s u).state = 2) :
    trcCmd u 2 s = .ok (putTrc u { trcUnit s u with force := true } s) := if_pos h

theorem trcCmd_force_refused {u : Nat} {s : State} (h : ¬ ((trcUnit s u).state = 1 ∨ (trcUnit s u).state = 2)) : trcCmd u 2 s = .refuse :=
  if_neg h

theorem trcCmd_abort (u : Nat) (s : State) : ∃ t y, trcCmd u 3 s = .ok t ∧ PutsUnit u y s t ∧ y.state = 0 ∧ y.samples = [] :=
  ⟨_, _, rfl, .put .., rfl, rfl⟩

/-- The row of the units' command registers (R220). -/
def trcCmdDesc : RegDesc := ⟨0x124, 0x40, 4, [rfOp 1 0 .wo 0]⟩

theorem trcCmd_row : ∀ n : Fin 4, plainReg trcPg (0x124 + 0x40 * n.val) (pageField true) = true
    ∧ regAt trcPg (0x124 + 0x40 * n.val) = some trcCmdDesc ∧ regUnit trcCmdDesc (0x124 + 0x40 * n.val) = n.val := by decide

section
variable {party : Party} {n : Fin 4} {w : Word} {cmd : Nat} {i : Instr} {s : State}

/-- A permitted write of a command register is judged as the unit's command (R214). -/
theorem judgeReg_trcCmd (h : MayWrite party trcPg true s) (hw : bitsOf w 1 0 = cmd) (nonzero : cmd ≠ 0) (l : List Hold) :
    judgeReg (cxOf party trcPg (0x124 + 0x40 * n.val) w trcCmdDesc s l) (withHolds s l) = trcCmd n.val cmd (withHolds s l) := by
  obtain ⟨-, -, unit⟩ := trcCmd_row n
  have fields : (cxOf party trcPg (0x124 + 0x40 * n.val) w trcCmdDesc s l).fields ≠ [] :=
    List.ne_nil_of_mem (List.mem_filter.2 ⟨List.mem_singleton.2 rfl, by simp [writesField, rfOp, hw, nonzero]⟩)
  have block : ¬ 0x124 + 0x40 * n.val < 0x100 := by omega
  have command : (0x124 + 0x40 * n.val - 0x100) % 0x40 = 0x24 := by omega
  rw [judgeReg_block h.2.1 rfl (permitted_page l h (by simp [rangeReg, trcPg, pageKind]) (by decide)) (.inl fields) block, blockWrite_trc _ rfl]
  unfold trcWrite
  extract_lets u k
  rw [if_pos (show k = 0x24 from command)]
  exact congrArg₂ (trcCmd · · _) unit hw

/-- The command of a write that a unit's command register takes: reported done, with the units and registers that the unit's command leaves. -/
theorem trcCmd_does {fact : State → Prop} (awake : Awake s) (h : MayWrite party trcPg true s) (hw : bitsOf w 1 0 = cmd) (nonzero : cmd ≠ 0)
    (he : exec i s = .next (finishWrite (reach [.regs, .bus, .trc] (regWrite party trcPg (0x124 + 0x40 * n.val) w)) s))
    (taken : ∀ l, ∃ t, trcCmd n.val cmd (withHolds (clearReports s) l) = .ok t ∧ fact t) :
    Does i s fun u => Acked party (pageAddr trcPg (0x124 + 0x40 * n.val)) u ∧ ∃ t, fact t ∧ u.trc = t.trc ∧ RegsBut [] t u := by
  obtain ⟨plain, row, -⟩ := trcCmd_row n
  obtain ⟨h1, h2, h3, h4, h5, h6, -⟩ := plainReg_facts plain
  obtain ⟨t, c, e, ht⟩ := regWrite_done (w := w) (s := clearReports s) h1 h2 h3 h4 h.1 row h5 (regAdvance_none h6 party) (by omega) fun l => by
    rw [judgeReg_trcCmd (s := clearReports s) h hw nonzero]
    exact taken l
  obtain ⟨u, settles, done, regs, parts⟩ := does_regWrite awake (by decide) he e
  exact ⟨u, settles, done, t, ht, parts .trc (by decide) (by decide), regs⟩

/-- The command of a write that a unit's command register refuses: reported refused, with units and registers as they were. -/
theorem trcCmd_refuses (awake : Awake s) (h : MayWrite party trcPg true s) (hw : bitsOf w 1 0 = cmd) (nonzero : cmd ≠ 0)
    (he : exec i s = .next (finishWrite (reach [.regs, .bus, .trc] (regWrite party trcPg (0x124 + 0x40 * n.val) w)) s))
    (refused : ∀ l, trcCmd n.val cmd (withHolds (clearReports s) l) = .refuse) :
    Does i s fun u => u.bus.reports = [⟨party, pageAddr trcPg (0x124 + 0x40 * n.val), .refused⟩] ∧ u.trc = s.trc ∧ RegsBut [] s u := by
  obtain ⟨plain, row, -⟩ := trcCmd_row n
  obtain ⟨h1, h2, h3, h4, h5, h6, -⟩ := plainReg_facts plain
  obtain ⟨l, c, e⟩ := regWrite_refused (w := w) (s := clearReports s) h1 h2 h3 h4 h.1 row h5 (regAdvance_none h6 party) (by omega) fun l =>
    (judgeReg_trcCmd (s := clearReports s) h hw nonzero l).trans (refused l)
  obtain ⟨u, settles, report, regs, parts⟩ := does_regWrite awake (by decide) he e
  exact ⟨u, settles, report, parts .trc (by decide) (by decide), regs⟩

/-- The command of a write that puts the unit: the other units and the registers of other pages stay. -/
theorem trcCmd_puts {fact : TrcUnit → Prop} (awake : Awake s) (h : MayWrite party trcPg true s) (hw : bitsOf w 1 0 = cmd) (nonzero : cmd ≠ 0)
    (he : exec i s = .next (finishWrite (reach [.regs, .bus, .trc] (regWrite party trcPg (0x124 + 0x40 * n.val) w)) s))
    (taken : ∀ l, ∃ t y, trcCmd n.val cmd (withHolds (clearReports s) l) = .ok t ∧ PutsUnit n.val y (withHolds (clearReports s) l) t ∧ fact y) :
    Does i s fun u => Acked party (pageAddr trcPg (0x124 + 0x40 * n.val)) u ∧ fact (trcUnit u n.val)
      ∧ (∀ k, k ≠ n.val → trcUnit u k = trcUnit s k) ∧ Outside [trcPg] s u := by
  obtain ⟨u, settles, acked, t, ⟨y, puts, holds⟩, trc, regs⟩ := trcCmd_does (fact := fun t => ∃ y, PutsUnit n.val y (clearReports s) t ∧ fact y)
    awake h hw nonzero he fun l => by
      obtain ⟨t, y, e, puts, holds⟩ := taken l
      exact ⟨t, e, y, .after (.holds ..) puts, holds⟩
  refine ⟨u, settles, acked, ?_, fun k hk => (trcUnit_congr trc k).trans (puts.others k hk), fun a _ ha => ?_⟩
  · rw [trcUnit_congr trc, puts.unit]
    exact holds
  · exact (regs a List.not_mem_nil).trans ((puts.page n.isLt).2 a fun e => ha (List.mem_singleton.2 e))

end

section
variable {party : Party} {s : State} (awake : Awake s) (n : Fin 4) (h : MayWrite party trcPg true s)
include awake h

theorem traceArm_does (quiet : trcQuiet n.val s = true) :
    Does (.traceArm party n) s fun u => Acked party (pageAddr trcPg (0x124 + 0x40 * n.val)) u ∧ (trcUnit u n.val).samples = []
      ∧ (trcUnit u n.val).force = false ∧ (trcUnit u n.val).state = (if getF TRC.U_PRE_PRE trcPg n.val s = 0 then 2 else 1)
      ∧ (∀ k, k ≠ n.val → trcUnit u k = trcUnit s k) := by
  obtain ⟨u, settles, acked, ⟨samples, force, state⟩, others, -⟩ := trcCmd_puts
    (fact := fun y => y.samples = [] ∧ y.force = false ∧ y.state = if getF TRC.U_PRE_PRE trcPg n.val s = 0 then 2 else 1)
    (i := .traceArm party n) awake h (w := 1) (cmd := 1) (by decide) (by decide) rfl fun l => by
      obtain ⟨t, nc, e, puts⟩ := trcCmd_arm (s := withHolds (clearReports s) l) quiet
      exact ⟨t, _, e, puts, filled_armed ..⟩
  exact ⟨u, settles, acked, samples, force, state, others⟩

theorem traceArm_refuses (busy : trcQuiet n.val s = false) :
    Does (.traceArm party n) s fun u => u.bus.reports = [⟨party, pageAddr trcPg (0x124 + 0x40 * n.val), .refused⟩] ∧ u.trc = s.trc ∧ RegsBut [] s u :=
  trcCmd_refuses awake h (w := 1) (cmd := 1) (by decide) (by decide) rfl fun l => trcCmd_arm_refused (s := withHolds (clearReports s) l) busy

theorem traceForce_does (recording : (trcUnit s n.val).state = 1 ∨ (trcUnit s n.val).state = 2) :
    Does (.traceForce party n) s fun u => Acked party (pageAddr trcPg (0x124 + 0x40 * n.val)) u ∧ RegsBut [] s u
      ∧ trcUnit u n.val = { trcUnit s n.val with force := true } ∧ (∀ k, k ≠ n.val → trcUnit u k = trcUnit s k) := by
  obtain ⟨u, settles, acked, t, ⟨l, rfl⟩, trc, regs⟩ := trcCmd_does (i := .traceForce party n)
    (fact := fun t => ∃ l, t = putTrc n.val { trcUnit s n.val with force := true } (withHolds (clearReports s) l))
    awake h (w := 2) (cmd := 2) (by decide) (by decide) rfl fun l => ⟨_, trcCmd_force (s := withHolds (clearReports s) l) recording, l, rfl⟩
  exact ⟨u, settles, acked, regs, (trcUnit_congr trc _).trans (trcUnit_putTrc ..),
    fun k hk => (trcUnit_congr trc k).trans (trcUnit_putTrc_ne _ _ hk.symm)⟩

theorem traceForce_refuses (idle : (trcUnit s n.val).state ≠ 1 ∧ (trcUnit s n.val).state ≠ 2) :
    Does (.traceForce party n) s fun u => u.bus.reports = [⟨party, pageAddr trcPg (0x124 + 0x40 * n.val), .refused⟩] ∧ u.trc = s.trc := by
  obtain ⟨u, settles, refused, trc, -⟩ := trcCmd_refuses (i := .traceForce party n) awake h (w := 2) (cmd := 2) (by decide) (by decide) rfl fun l =>
    trcCmd_force_refused (s := withHolds (clearReports s) l) (not_or.2 idle)
  exact ⟨u, settles, refused, trc⟩

theorem traceAbort_does :
    Does (.traceAbort party n) s fun u => Acked party (pageAddr trcPg (0x124 + 0x40 * n.val)) u ∧ (trcUnit u n.val).state = 0
      ∧ (trcUnit u n.val).samples = [] ∧ (∀ k, k ≠ n.val → trcUnit u k = trcUnit s k) ∧ Outside [trcPg] s u := by
  obtain ⟨u, settles, acked, ⟨state, samples⟩, others, outside⟩ := trcCmd_puts (fact := fun y => y.state = 0 ∧ y.samples = [])
    (i := .traceAbort party n) awake h (w := 3) (cmd := 3) (by decide) (by decide) rfl fun l => trcCmd_abort ..
  exact ⟨u, settles, acked, state, samples, others, outside⟩

end

/-! ### CLR of LOADMAX -/

/-- A state in which the clear of LOADMAX waits for the boundary (R173). -/
def loadmaxClearing (s : State) : State := { s with lpa := { s.lpa with clr := true } }

theorem lpaWrite_loadmax {cx : WriteCx} (s : State) (off : cx.off = 0x384) (clr : cxBits cx 31 31 = 1) :
    lpaWrite cx s = .ok (loadmaxClearing s) := by
  simp [lpaWrite, off, clr, loadmaxClearing]

theorem loadmax_row : ∀ page : Fin 2, plainReg (0x18 + page.val) 0x384 (pageField false) = true
    ∧ pageKind (0x18 + page.val) = some .lpa ∧ regAt (0x18 + page.val) 0x384 = some ⟨0x384, 0, 1, [rfNc 31 31 .wo 0, rfRo 15 0 0]⟩ := by decide

theorem loadmaxClr_does {party : Party} {s : State} (awake : Awake s) (page : Fin 2) (h : MayWrite party (0x18 + page.val) false s) :
    Does (.loadmaxClr party page) s fun u => Acked party (pageAddr (0x18 + page.val) 0x384) u ∧ u.lpa = { s.lpa with clr := true } ∧ RegsBut [] s u := by
  obtain ⟨plain, kind, row⟩ := loadmax_row page
  obtain ⟨t, c, e, l, rfl⟩ := pageCmd_done (s := clearReports s) (w := 0x80000000) (P := fun t => ∃ l, t = loadmaxClearing (withHolds (clearReports s) l))
    plain (by decide) h fun l d hd => by
      obtain rfl := Option.some.inj (row.symm.trans hd)
      exact ⟨_, .inl (List.cons_ne_nil _ _), (blockWrite_lpa _ kind).trans (lpaWrite_loadmax _ rfl (by change bitsOf 0x80000000 31 31 = 1; decide)), l, rfl⟩
  obtain ⟨u, settles, done, regs, parts⟩ := does_regWrite (i := .loadmaxClr party page) awake (by decide) rfl e
  exact ⟨u, settles, done, parts .lpa (by decide) (by decide), regs⟩

end Sys2Proof.Machine

namespace Sys2Proof.Proofs
open Sys2Proof Sys2Proof.Machine

/-- Settles O27: a sample instant is one unit's work after another; a write of a unit's command register is judged as the command, which puts
the unit or is refused; a write of LOADMAX.CLR leaves the clear waiting. -/
theorem tracesFollowTheirCommands : Obligations.Traces_Follow_Their_Commands := by
  unfold Obligations.Traces_Follow_Their_Commands
  intro party page n ph s awake
  exact ⟨traceSample_does awake ph n,
    fun may => ⟨traceArm_does awake n may, traceArm_refuses awake n may, traceForce_does awake n may, traceForce_refuses awake n may,
      traceAbort_does awake n may⟩,
    loadmaxClr_does awake page⟩

end Sys2Proof.Proofs
end

section
/-!
PROOFS. The column ledger (chapter 8): the statement about its columns (O28). Whatever the ledger does for one column leaves the other
columns and their registers, the page's STAT and everything that a column reads besides (`OnColumns`), so that an advance and a sampling are
one column's work after another. Of the column itself the moves of parcels keep the count and the number of reference samples
(`KeepsCounts`): these change where the meter is taken and where a sample is pushed, and nowhere else.
-/
namespace Sys2Proof.Machine

/-! ### Columns and parcels -/

@[simp] theorem ldgCol_putCol (c : Nat) (v : LdgCol) (s : State) : ldgCol (putCol c v s) c = v := by simp [ldgCol, putCol]

theorem ldgCol_putCol_ne {c k : Nat} (v : LdgCol) (s : State) (h : c ≠ k) : ldgCol (putCol c v s) k = ldgCol s k := by
  simp [ldgCol, putCol, tabGet_set_ne _ _ _ h]

theorem ldgCol_setB (f : Fld) (p u : Nat) (b : Bool) (s : State) (c : Nat) : ldgCol (setB f p u b s) c = ldgCol s c := rfl

theorem parcelAt_setF (f : Fld) (p u v : Nat) (s : State) (loc : Nat) : parcelAt (setF f p u v s) loc = parcelAt s loc := rfl

theorem parcelAt_putCol (c : Nat) (v : LdgCol) (s : State) (loc : Nat) : parcelAt (putCol c v s) loc = parcelAt s loc := rfl

theorem ldgCol_congr {s t : State} (h : t.ldg.cols = s.ldg.cols) (c : Nat) : ldgCol t c = ldgCol s c := by rw [ldgCol, ldgCol, h]

@[simp] theorem atPhase_ldg (p cy : Nat) (s : State) : (atPhase p cy s).ldg = s.ldg := by unfold atPhase; split <;> rfl
@[simp] theorem atPhase_act (p cy : Nat) (s : State) : (atPhase p cy s).act = s.act := by unfold atPhase; split <;> rfl
@[simp] theorem atPhase_pubs (p cy : Nat) (s : State) : (atPhase p cy s).pubs = s.pubs := by unfold atPhase; split <;> rfl

@[simp] theorem parcelAt_putParcel (loc : Nat) (p : Parcel) (s : State) : parcelAt (putParcel loc p s) loc = p := by simp [parcelAt, putParcel]

theorem parcelAt_putParcel_ne {loc k : Nat} (p : Parcel) (s : State) (h : loc ≠ k) : parcelAt (putParcel loc p s) k = parcelAt s k := by
  simp [parcelAt, putParcel, tabGet_set_ne _ _ _ h]

/-- Work on the columns `cs`: it leaves the other columns, their registers and those of the page, and what a column reads of the words in force,
of published values and of the tick count. The registers of column `k` are the 64 bytes from (0x1C4 + k) · 0x40 (R252). -/
structure OnColumns (cs : Set Nat) (s t : State) : Prop where
  cols : ∀ k, k ∉ cs → ldgCol t k = ldgCol s k
  regs : ∀ a, calm a → (∀ k ∈ cs, a / 0x40 ≠ 0x1C4 + k) → rdReg t a = rdReg s a
  force : t.force = s.force
  act : t.act = s.act
  pubs : t.pubs = s.pubs
  tick : t.time.tick = s.time.tick
  sampled : t.ldg.sampled = s.ldg.sampled

namespace OnColumns
variable {cs ds : Set Nat} {c : Nat} {s t u : State}

theorem refl (cs : Set Nat) (s : State) : OnColumns cs s s := ⟨fun _ _ => rfl, fun _ _ _ => rfl, rfl, rfl, rfl, rfl, rfl⟩

theorem trans (h : OnColumns cs s t) (g : OnColumns cs t u) : OnColumns cs s u :=
  ⟨fun k hk => (g.cols k hk).trans (h.cols k hk), fun a ca ha => (g.regs a ca ha).trans (h.regs a ca ha), g.force.trans h.force,
    g.act.trans h.act, g.pubs.trans h.pubs, g.tick.trans h.tick, g.sampled.trans h.sampled⟩

theorem mono (h : OnColumns cs s t) (sub : cs ⊆ ds) : OnColumns ds s t :=
  ⟨fun k hk => h.cols k fun m => hk (sub m), fun a ca ha => h.regs a ca fun k hk => ha k (sub hk), h.force, h.act, h.pubs, h.tick, h.sampled⟩

theorem forN {n : Nat} {f : Nat → State → State} (hf : ∀ i < n, ∀ s, OnColumns cs s (f i s)) (s : State) : OnColumns cs s (forN n f s) :=
  List.foldlRecOn _ _ (refl cs s) fun t h i hi => h.trans (hf i (List.mem_range.1 hi) t)

theorem put (c : Nat) (x : LdgCol) (s : State) : OnColumns {c} s (putCol c x s) :=
  ⟨fun _ hk => ldgCol_putCol_ne x s fun e => hk e.symm, fun _ _ _ => rfl, rfl, rfl, rfl, rfl, rfl⟩

/-- A command begins without the reports of the last one, and at its instant. -/
theorem begun (p cy : Nat) (s : State) : OnColumns cs s (atPhase p cy (clearReports s)) :=
  ⟨fun k _ => ldgCol_congr (by rw [atPhase_ldg]; rfl) k, fun a _ _ => rdReg_atPhase .., atPhase_force .., by rw [atPhase_act]; rfl,
    by rw [atPhase_pubs]; rfl, atPhase_tick .., by rw [atPhase_ldg]; rfl⟩

/-- Messages, records and ends of episodes are no column's. -/
theorem collected (h : CollectOnly s t) : OnColumns cs s t := by
  obtain ⟨⟨_, _, _, _, rfl⟩, calm⟩ := h
  exact ⟨fun _ _ => rfl, fun a ca _ => calm a ca, rfl, rfl, rfl, rfl, rfl⟩

/-- The page runs or stands as before. -/
theorem running (h : OnColumns cs s t) : running ldgPg t = running ldgPg s := by
  have stat : rdReg t 0x700C = rdReg s 0x700C := h.regs _ (by rw [calm_iff]; decide) fun k _ e => by omega
  simp only [Machine.running, getB, getF_eq (show CMN.STAT_RUNNING.acc ≠ .rwd by decide)]
  rw [getW_congr stat]

theorem colMode (h : OnColumns cs s t) (k : Nat) : colMode k t = colMode k s := by
  simp only [Machine.colMode, getF, rdForce, h.force, if_pos (show LDG.COL_CTRL_MODE.acc = .rwd from rfl)]

theorem colOn (h : OnColumns cs s t) (k : Nat) : colOn k t = colOn k s := by rw [Machine.colOn, Machine.colOn, h.running, h.colMode]

theorem colWord (h : OnColumns cs s t) (k w : Nat) : colWord k w t = colWord k w s := getAct_congr h.act

theorem getPub (h : OnColumns cs s t) (k : Nat) : getPub k t = getPub k s := by rw [Machine.getPub, Machine.getPub, h.pubs]

/-- Fields of another column's unit. -/
theorem getW (h : OnColumns cs s t) {f : Fld} {k : Nat} (hf : f.stride = 0x40 ∧ 0x118 ≤ f.off ∧ f.off < 0x12C) (hk : k < 4) (out : k ∉ cs) :
    getW f ldgPg k t = getW f ldgPg k s := by
  obtain ⟨stride, low, high⟩ := hf
  have addr : fldAddr f ldgPg k = 0x7000 + (f.off + 0x40 * k) := by rw [fldAddr, pageAddr, stride]; rfl
  refine getW_congr (h.regs _ ?_ fun j hj e => out ?_) <;> rw [addr] at *
  · rw [calm_iff]; omega
  · rwa [show k = j by omega]

/-- Work on one of the four columns is the ledger's. -/
theorem of_column (h : OnColumns {c} s t) (hc : c < 4) : OnColumns (Set.Iio 4) s t := h.mono (Set.singleton_subset_iff.2 hc)

theorem outside (h : OnColumns (Set.Iio 4) s t) : Outside [ldgPg] s t := fun a qa ha => by
  refine h.regs a (quiet_calm qa) fun k hk e => ha (List.mem_singleton.2 ?_)
  have : k < 4 := hk
  change a / 0x400 = 0x1C
  omega

end OnColumns

/-! ### A count and the samples of reference that a move keeps -/

/-- Work on column `c` that takes neither its meter nor a sample of its reference. -/
structure KeepsCounts (c : Nat) (s t : State) : Prop where
  on : OnColumns {c} s t
  count : (ldgCol t c).count = (ldgCol s c).count
  refNum : (ldgCol t c).refNum = (ldgCol s c).refNum

namespace KeepsCounts
variable {c : Nat} {s t u : State}

theorem refl (c : Nat) (s : State) : KeepsCounts c s s := ⟨.refl .., rfl, rfl⟩

theorem trans (h : KeepsCounts c s t) (g : KeepsCounts c t u) : KeepsCounts c s u :=
  ⟨h.on.trans g.on, g.count.trans h.count, g.refNum.trans h.refNum⟩

theorem ite {p : Prop} [Decidable p] (h : KeepsCounts c s t) (g : KeepsCounts c s u) : KeepsCounts c s (if p then t else u) := by
  split <;> assumption

theorem of_on (h : OnColumns ∅ s t) : KeepsCounts c s t := by
  have same := h.cols c (Set.notMem_empty c)
  exact ⟨h.mono (Set.empty_subset _), by rw [same], by rw [same]⟩

theorem collected (h : CollectOnly s t) : KeepsCounts c s t := of_on (.collected h)

theorem putCol {v : LdgCol} (count : v.count = (ldgCol s c).count := by rfl) (refNum : v.refNum = (ldgCol s c).refNum := by rfl) :
    KeepsCounts c s (putCol c v s) :=
  ⟨.put .., by rw [ldgCol_putCol, count], by rw [ldgCol_putCol, refNum]⟩

/-- A field of the column's own registers. -/
theorem setF {f : Fld} {v : Nat} (hf : f.stride = 0x40 ∧ 0x100 ≤ f.off ∧ f.off < 0x140 := by decide) : KeepsCounts c s (setF f ldgPg c v s) := by
  obtain ⟨stride, low, high⟩ := hf
  refine ⟨⟨fun _ _ => rfl, fun a _ ha => rdReg_setF_ne _ _ _ _ _ fun e => ha c rfl ?_, rfl, rfl, rfl, rfl, rfl⟩, rfl, rfl⟩
  rw [← e, fldAddr, pageAddr, stride]
  change (0x1C * 0x400 + (f.off + 0x40 * c)) / 0x40 = 0x1C4 + c
  omega

theorem putParcel (loc : Nat) (p : Parcel) (s : State) : KeepsCounts c s (putParcel loc p s) :=
  of_on ⟨fun _ _ => rfl, fun _ _ _ => rfl, rfl, rfl, rfl, rfl, rfl⟩

theorem raise (i k d : Nat) (s : State) : KeepsCounts c s (raise ldgPg i k d s) := .collected (raise_only ..)

theorem setIrq (n : Nat) (s : State) : KeepsCounts c s (setIrq ldgPg n s) := .collected (setIrq_only ..)

theorem endEp (k d : Nat) (s : State) : KeepsCounts c s (endEp ldgPg k d s) := .collected (endEp_only ..)

end KeepsCounts

/-! ### Moves of parcels -/

section
variable (c : Nat)

theorem verifyParcel_keeps (loc : Nat) (s : State) : KeepsCounts c s (verifyParcel loc s) :=
  .ite (.refl ..) ((KeepsCounts.putParcel ..).trans (.raise ..))

theorem setParcel_keeps (loc : Nat) (p : Parcel) (s : State) : KeepsCounts c s (setParcel loc p s) :=
  .ite (.putParcel ..) (verifyParcel_keeps ..)

theorem newParcel_keeps (loc : Nat) (p : Parcel) (s : State) : KeepsCounts c s (newParcel loc p s) :=
  (verifyParcel_keeps ..).trans (.putParcel ..)

theorem usable_keeps (locs : List Nat) (s : State) : KeepsCounts c s (usable locs s).1 :=
  List.foldlRecOn _ _ (.refl c s) fun _ h l _ => h.trans (verifyParcel_keeps c l _)

theorem parcelRecord_keeps (p : Parcel) (mm : Option Int) (s : State) : KeepsCounts c s (parcelRecord c p mm s) :=
  .ite (.collected (recPush_only ..)) (.refl ..)

theorem retire_keeps (mm : Option Int) (s : State) : KeepsCounts c s (retire c mm s) := by
  unfold retire
  extract_lets tail loc p ok mm' col s1 s2 s3
  have h1 : KeepsCounts c s s1 := .ite (parcelRecord_keeps ..) (.refl ..)
  have h2 : KeepsCounts c s1 s2 := .putCol h1.count.symm h1.refNum.symm
  exact ((h1.trans h2).trans (newParcel_keeps ..)).trans .setF

theorem openParcel_keeps (slot vol : Nat) (s : State) : KeepsCounts c s (openParcel c slot vol s) :=
  .trans .putCol (newParcel_keeps ..)

theorem discharge_keeps (s : State) : KeepsCounts c s (discharge c s) :=
  ((setParcel_keeps ..).trans .putCol).trans .setF

theorem closeHead_keeps (pvol : Nat) (s : State) : KeepsCounts c s (closeHead c pvol s) := by
  unfold closeHead
  extract_lets head loc p col m t est s1 x1 s2 next full s3 x3 x2 s4
  have lost (s : State) : KeepsCounts c s (incSat LDG.COL_LOST_RING ldgPg c (retire c none s)) := (retire_keeps ..).trans .setF
  have rings : KeepsCounts c s2 s4 :=
    .ite ((lost _).trans (.ite (.refl ..) (.trans (.trans .putCol (.setIrq ..)) (.raise ..))))
      (.ite (.trans .putCol (.endEp ..)) (.refl ..))
  exact ((((setParcel_keeps ..).trans .putCol).trans rings).trans (openParcel_keeps ..)).trans .setF

/-- The moves of one tick keep the count from which the next tick's volume is measured (R227). -/
theorem moveVolume_keeps (pvol fuel n : Nat) (s : State) : KeepsCounts c s (moveVolume c pvol fuel n s) := by
  induction fuel generalizing n s with
  | zero => exact .refl ..
  | succ fuel ih =>
    unfold moveVolume
    extract_lets col bot head lb lh q take s1 pb s2 ph s3 empty s4 full s5
    refine .ite (.refl ..) (.ite (usable_keeps ..) ?_)
    have moved : KeepsCounts c s s3 := .trans (.trans .putCol (setParcel_keeps ..)) (setParcel_keeps ..)
    have emptied : KeepsCounts c s3 s4 := .ite (discharge_keeps ..) (.refl ..)
    have filled : KeepsCounts c s4 s5 := .ite (closeHead_keeps ..) (.refl ..)
    exact ((moved.trans emptied).trans filled).trans (ih ..)

theorem entrySample_keeps (s : State) : KeepsCounts c s (entrySample c s) :=
  .ite (verifyParcel_keeps ..) (.ite (.trans .putCol (setParcel_keeps ..)) (.refl ..))

theorem matureAll_keeps (fuel : Nat) (s : State) : KeepsCounts c s (matureAll c fuel s) := by
  induction fuel generalizing s with
  | zero => exact .refl ..
  | succ fuel ih =>
    have unmatched (off : Prop) [Decidable off] : KeepsCounts c s (if off then s else incSat LDG.COL_LOST_NOOUT ldgPg c s) :=
      .ite (.refl ..) .setF
    unfold matureAll
    exact .ite (.refl ..) (.ite (((unmatched _).trans (retire_keeps ..)).trans (ih _)) ((retire_keeps ..).trans (ih _)))

theorem outletSample_keeps (v : Int) (fit : Bool) (s : State) : KeepsCounts c s (outletSample c v fit s) :=
  .ite .putCol (.refl ..)

theorem stallSample_keeps (s : State) : KeepsCounts c s (stallSample c s) := by
  unfold stallSample
  extract_lets col w16 cnt begins s1
  have h1 : KeepsCounts c s s1 := .putCol
  exact .ite ((h1.trans (.setIrq ..)).trans (.raise ..)) h1

end

/-! ### Sources -/

/-- A reader's check of a record touches the record and a message (R111, R164). -/
theorem verifySrc_keeps (c w : Nat) (s : State) : KeepsCounts c s (verifySrc w s) := by
  have result (loc : Nat) (r : SnsRec) : KeepsCounts c s (putRec loc r s) := .of_on ⟨fun _ _ => rfl, fun _ _ _ => rfl, rfl, rfl, rfl, rfl, rfl⟩
  have moi (m : Nat) (x : MoiCh) : KeepsCounts c s (putMoi m x s) := .of_on ⟨fun _ _ => rfl, fun _ _ _ => rfl, rfl, rfl, rfl, rfl, rfl⟩
  exact .ite (.ite (.refl ..) ((result ..).trans (.collected (raise_only ..))))
    (.ite (.ite (.refl ..) ((moi ..).trans (.collected (raise_only ..)))) (.refl ..))

theorem ldgSource_keeps (c x w : Nat) (s : State) : KeepsCounts c s (ldgSource c x w s).1 := by
  unfold ldgSource
  extract_lets s1 w6 r unfit col was col' s2 s3
  have h2 : KeepsCounts c s s2 := (verifySrc_keeps ..).trans .putCol
  exact h2.trans (.ite ((KeepsCounts.setIrq ..).trans (.raise ..)) (.ite (.endEp ..) (.refl ..)))

/-! ### Advance -/

theorem meterFit_congr {c : Nat} {s t : State} (act : t.act = s.act) (pubs : t.pubs = s.pubs) (tick : t.time.tick = s.time.tick) :
    meterFit c t = meterFit c s := by
  have word : colWord c 6 t = colWord c 6 s := getAct_congr act
  have pub (k : Nat) : getPub k t = getPub k s := by rw [getPub, getPub, pubs]
  have age (o : Option Nat) : age16 t o = age16 s o := by cases o <;> simp only [age16, ageOf, tick]
  have small : bitsOf (colWord c 6 s) 18 16 < 8 := bitsOf_lt ..
  have kind : cntSrc (bitsOf (colWord c 6 s) 18 16) / 4096 = 8 := by unfold cntSrc; omega
  simp [meterFit, readSrc, word, pub, age, kind]

theorem OnColumns.meterFit {cs : Set Nat} {s t : State} (h : OnColumns cs s t) (c : Nat) : meterFit c t = meterFit c s :=
  meterFit_congr h.act h.pubs h.tick

/-- The published count of a column's meter (R227). -/
def meterCount (c : Nat) (s : State) : Nat := (getPub (cntSrc (bitsOf (colWord c 6 s) 18 16)) s).value.toNat

theorem OnColumns.meterCount {cs : Set Nat} {s t : State} (h : OnColumns cs s t) (c : Nat) : meterCount c t = meterCount c s := by
  rw [Machine.meterCount, Machine.meterCount, h.getPub, h.colWord]

/-- What an advance leaves of a column whose meter is not fit: the flag, and the count and the volume from which it goes on (R228). -/
structure MeterUnfit (c : Nat) (s t : State) : Prop where
  stale : getW LDG.COL_STAT_METER_STALE ldgPg c t = 1
  count : (ldgCol t c).count = (ldgCol s c).count
  q : (ldgCol t c).q = (ldgCol s c).q

theorem takeCount_unfit {c : Nat} {s : State} (h : meterFit c s = false) :
    takeCount c s = setB LDG.COL_STAT_METER_STALE ldgPg c true s := by
  rw [takeCount, h]
  rfl

theorem takeCount_on (c : Nat) (s : State) : OnColumns {c} s (takeCount c s) := by
  unfold takeCount
  extract_lets fit now s1 col d jump dq s2 s3
  have stale : OnColumns {c} s s1 := (KeepsCounts.setF (c := c)).on
  have stall : KeepsCounts c s2 s3 := .ite (.endEp ..) (.refl ..)
  have jumps : KeepsCounts c s3 (raiseIf jump ldgPg 0xFF kLdgMeterJump c s3) := .ite (.raise ..) (.refl ..)
  split
  · exact stale
  · exact ((stale.trans (.put ..)).trans stall.on).trans jumps.on

theorem takeCount_fit {c : Nat} {s : State} (h : meterFit c s = true) : (ldgCol (takeCount c s) c).count = some (meterCount c s) := by
  unfold takeCount
  extract_lets fit now s1 col d jump dq s2 s3
  have stall : KeepsCounts c s2 s3 := .ite (.endEp ..) (.refl ..)
  have jumps : KeepsCounts c s3 (raiseIf jump ldgPg 0xFF kLdgMeterJump c s3) := .ite (.raise ..) (.refl ..)
  rw [if_neg (by simp [fit, h]), jumps.count, stall.count, ldgCol_putCol]
  rfl

/-- Whether a column takes its meter's count at an advance (R227). -/
def advances (c : Nat) (s : State) : Bool := running ldgPg s && decide (colMode c s = 1)

theorem OnColumns.advances {cs : Set Nat} {s t : State} (h : OnColumns cs s t) (c : Nat) : advances c t = advances c s := by
  rw [Machine.advances, Machine.advances, h.running, h.colMode]

theorem advanceCol_idle {c : Nat} {s : State} (h : advances c s = false) : advanceCol c s = s :=
  if_neg fun e => Bool.false_ne_true (h.symm.trans e)

/-- A column that notes whether its discharge ran in this tick (R231). -/
def runNoted (c : Nat) (s : State) : State :=
  putCol c { ldgCol s c with
    runOn := (ldgCol s c).runOn && bitAt (rdReg s (pageAddr 0x33 0x190)).toNat (bitsOf (colWord c 16 s) 28 24) } s

theorem runNoted_keeps (c : Nat) (s : State) : KeepsCounts c s (runNoted c s) := .putCol

theorem advanceCol_takes {c : Nat} {s : State} (h : advances c s = true) : advanceCol c s =
    if meterFit c (runNoted c s) then moveVolume c (colWord c 1 (runNoted c s)).toNat 20 0 (takeCount c (runNoted c s))
    else takeCount c (runNoted c s) := by
  unfold advanceCol
  rw [if_pos (show (running ldgPg s && decide (colMode c s = 1)) = true from h)]
  rfl

theorem advanceCol_on (c : Nat) (s : State) : OnColumns {c} s (advanceCol c s) := by
  cases h : advances c s with
  | false =>
    rw [advanceCol_idle h]
    exact .refl ..
  | true =>
    have took := (runNoted_keeps c s).on.trans (takeCount_on c _)
    rw [advanceCol_takes h]
    split
    · exact took.trans (moveVolume_keeps ..).on
    · exact took

theorem advanceCol_fit {c : Nat} {s : State} (h : advances c s = true) (fit : meterFit c s = true) :
    (ldgCol (advanceCol c s) c).count = some (meterCount c s) := by
  have noted := (runNoted_keeps c s).on
  have fit' := (noted.meterFit c).trans fit
  rw [advanceCol_takes h, if_pos fit', (moveVolume_keeps ..).count, takeCount_fit fit', noted.meterCount]

theorem advanceCol_unfit {c : Nat} {s : State} (h : advances c s = true) (unfit : meterFit c s = false) : MeterUnfit c s (advanceCol c s) := by
  have noted := runNoted_keeps c s
  have unfit' := (noted.on.meterFit c).trans unfit
  have own : (ldgCol (runNoted c s) c).q = (ldgCol s c).q := by rw [runNoted, ldgCol_putCol]
  rw [advanceCol_takes h, if_neg (by simp [unfit']), takeCount_unfit unfit']
  exact ⟨getW_setF _ _ _ _ _ (by decide) (by decide), by rw [ldgCol_setB, noted.count], by rw [ldgCol_setB, own]⟩

/-- The ledger's work on one column after another: column `c` is worked on in a state that has left it as it was, and what follows leaves it
again. -/
theorem forN_column {f : Nat → State → State} (hf : ∀ i s, OnColumns {i} s (f i s)) {c : Nat} (hc : c < 4) (s : State) :
    ∃ v, OnColumns {c}ᶜ s v ∧ OnColumns {c}ᶜ (f c v) (forN 4 f s) :=
  forN_visit 4 c hc (.refl _) (fun _ _ _ h g => h.trans g) (fun i s hi => (hf i s).mono (Set.singleton_subset_iff.2 hi)) s

theorem OnColumns.own {c : Nat} {s t : State} (h : OnColumns {c}ᶜ s t) : ldgCol t c = ldgCol s c := h.cols c fun out => out rfl

theorem forN_columns {f : Nat → State → State} (hf : ∀ i s, OnColumns {i} s (f i s)) (s : State) : OnColumns (Set.Iio 4) s (forN 4 f s) :=
  .forN (fun i hi s => (hf i s).of_column hi) s

theorem ldgCol_reach {ps : List Part} {f : State → State} {s : State} (h : Part.ldg ∈ ps) (c : Nat) : ldgCol (reach ps f s) c = ldgCol (f s) c :=
  ldgCol_congr (by rw [reach_ldg _ _ _ h]) c

theorem OnColumns.outside_reach {ps : List Part} {f : State → State} {s t : State} (h : OnColumns (Set.Iio 4) s (f t)) (hps : Part.regs ∈ ps) :
    Outside [ldgPg] s (reach ps f t) := fun a qa ha => by
  rw [rdReg_reach _ _ _ hps]
  exact h.outside a qa ha

theorem advances_iff (c : Nat) (s : State) : advances c s = true ↔ running ldgPg s = true ∧ colMode c s = 1 := by simp [advances]

/-- The command of an advance (R227, R228). -/
theorem ledgerAdvance_does {s : State} (awake : Awake s) (c : Fin 4) :
    Does .ledgerAdvance s fun u => Outside [ldgPg] s u
      ∧ (running ldgPg s = true → colMode c s = 1 → meterFit c s = true → (ldgCol u c).count = some (meterCount c s))
      ∧ (running ldgPg s = true → colMode c s = 1 → meterFit c s = false → getW LDG.COL_STAT_METER_STALE ldgPg c u = 1
          ∧ (ldgCol u c).count = (ldgCol s c).count ∧ (ldgCol u c).q = (ldgCol s c).q)
      ∧ (running ldgPg s = false ∨ colMode c s ≠ 1 → ldgCol u c = ldgCol s c) := by
  obtain ⟨v, before, after⟩ := forN_column advanceCol_on c.isLt (atPhase 30 0 (clearReports s))
  have same : OnColumns {c.val}ᶜ s v := (OnColumns.begun 30 0 s).trans before
  have taking (run : running ldgPg s = true) (mode : colMode c s = 1) : advances c v = true :=
    (same.advances c).trans ((advances_iff ..).2 ⟨run, mode⟩)
  have whole : OnColumns (Set.Iio 4) s (ledgerAdvance (clearReports s)) := (OnColumns.begun 30 0 s).trans (forN_columns advanceCol_on _)
  refine ⟨_, settles_finish awake rfl, whole.outside_reach (by decide), fun run mode fit => ?_, fun run mode unfit => ?_, fun idle => ?_⟩ <;>
    rw [ldgCol_reach (by decide)]
  · rw [ledgerAdvance, after.own, advanceCol_fit (taking run mode) ((same.meterFit c).trans fit), same.meterCount]
  · obtain ⟨stale, count, q⟩ := advanceCol_unfit (taking run mode) ((same.meterFit c).trans unfit)
    rw [getW_reach _ _ (by decide), ledgerAdvance, after.own, after.getW (by decide) c.isLt fun out => out rfl, stale, count, q, same.own]
    exact ⟨rfl, rfl, rfl⟩
  · have still : advances c v = false := by
      rw [same.advances, ← Bool.not_eq_true, advances_iff]
      rintro ⟨run, mode⟩
      rcases idle with stopped | other
      · exact absurd run (by simp [stopped])
      · exact other mode
    rw [ledgerAdvance, after.own, advanceCol_idle still, same.own]

/-! ### Sampling -/

/-- What a sampling instant makes of a column that runs: it has one more sample of its reference (R226, R232). -/
structure Samples (c : Nat) (s t : State) : Prop where
  on : OnColumns {c} s t
  refNum : (ldgCol t c).refNum = (ldgCol s c).refNum + 1

theorem Samples.after {c : Nat} {s t u : State} (h : Samples c s t) (g : KeepsCounts c t u) : Samples c s u :=
  ⟨h.on.trans g.on, g.refNum.trans h.refNum⟩

theorem sampleCol_idle {c : Nat} {s : State} (h : colOn c s = false) : sampleCol c s = s := if_neg fun e => Bool.false_ne_true (h.symm.trans e)

theorem sampleCol_samples {c : Nat} {s : State} (h : colOn c s = true) : Samples c s (sampleCol c s) := by
  have source {x w : Nat} {s t : State} {r : Int × Bool} (e : ldgSource c x w s = (t, r)) : KeepsCounts c s t := by
    have keeps := ldgSource_keeps c x w s
    rwa [e] at keeps
  unfold sampleCol
  rw [if_pos h]
  extract_lets w3 w4
  rcases e1 : ldgSource c 0 (bitsOf w3 31 16) s with ⟨s1, mv, mf⟩
  rcases e2 : ldgSource c 1 (bitsOf w3 15 0) s1 with ⟨s2, tv, tf⟩
  rcases e3 : ldgSource c 2 (bitsOf w4 31 16) s2 with ⟨s3, ov, of'⟩
  rcases e4 : ldgSource c 3 (bitsOf w4 15 0) s3 with ⟨s4, rv, rf⟩
  have read : KeepsCounts c s s4 := (((source e1).trans (source e2)).trans (source e3)).trans (source e4)
  simp only [e2, e3, e4]
  have pushed {x : LdgCol} (hx : x.refNum = (ldgCol s4 c).refNum + 1) : Samples c s (putCol c x s4) :=
    ⟨read.on.trans (.put ..), by rw [ldgCol_putCol, hx, read.refNum]⟩
  have worked (t : State) : KeepsCounts c t (stallSample c (outletSample c ov of' (matureAll c 2048 (entrySample c t)))) :=
    (((entrySample_keeps ..).trans (matureAll_keeps ..)).trans (outletSample_keeps ..)).trans (stallSample_keeps ..)
  exact (pushed rfl).after (.ite (worked _) (.refl ..))

theorem sampleCol_on (c : Nat) (s : State) : OnColumns {c} s (sampleCol c s) := by
  cases h : colOn c s with
  | false =>
    rw [sampleCol_idle h]
    exact .refl ..
  | true => exact (sampleCol_samples h).on

/-- A sampling instant whose samples are not yet taken (R226). -/
def sampleDue (s : State) : Prop := s.time.tick % 512 = 0 ∧ s.ldg.sampled ≠ s.time.ticks + 1

/-- The ledger notes the instant of its samples. -/
def sampledNow (s : State) : State := { s with ldg := { s.ldg with sampled := s.time.ticks + 1 } }

theorem ledgerSample_due {s : State} (h : sampleDue s) : ledgerSample s = forN 4 sampleCol (sampledNow (atPhase 30 0 s)) :=
  if_pos (by rw [atPhase_tick, atPhase_ldg, atPhase_ticks]; exact h)

theorem ledgerSample_idle {s : State} (h : ¬ sampleDue s) : ledgerSample s = atPhase 30 0 s :=
  if_neg (by rw [atPhase_tick, atPhase_ldg, atPhase_ticks]; exact h)

/-- The command of a sampling instant (R226). -/
theorem ledgerSample_does {s : State} (awake : Awake s) (c : Fin 4) :
    Does .ledgerSample s fun u => (sampleDue s → u.ldg.sampled = s.time.ticks + 1
        ∧ (colOn c s = true → (ldgCol u c).refNum = (ldgCol s c).refNum + 1) ∧ (colOn c s = false → ldgCol u c = ldgCol s c))
      ∧ (¬ sampleDue s → u.ldg = s.ldg ∧ RegsBut [] s u) := by
  refine ⟨_, settles_finish awake rfl, fun due => ?_, fun idle => ?_⟩
  · obtain ⟨v, before, after⟩ := forN_column sampleCol_on c.isLt (sampledNow (atPhase 30 0 (clearReports s)))
    have begun : OnColumns {c.val}ᶜ s (atPhase 30 0 (clearReports s)) := .begun ..
    have own : ldgCol v c = ldgCol s c := before.own.trans begun.own
    have on : colOn c v = colOn c s := (before.colOn c).trans (begun.colOn c)
    rw [ldgCol_reach (by decide), reach_ldg _ _ _ (by decide), ledgerSample_due (s := clearReports s) due, after.own, after.sampled]
    refine ⟨?_, fun runs => ?_, fun rests => ?_⟩
    · rw [(sampleCol_on ..).sampled, before.sampled, sampledNow, atPhase_ticks]
      rfl
    · rw [(sampleCol_samples (on.trans runs)).refNum, own]
    · rw [sampleCol_idle (on.trans rests), own]
  · refine ⟨?_, fun a _ => ?_⟩
    · rw [reach_ldg _ _ _ (by decide), ledgerSample_idle (s := clearReports s) idle, atPhase_ldg]
      rfl
    · rw [rdReg_reach _ _ _ (by decide), ledgerSample_idle (s := clearReports s) idle, rdReg_atPhase]
      rfl

/-! ### Passes -/

/-- The command of a pass that completes: its results are those of the elapsed ticks of a long tide without an adoption (R236). -/
theorem ledgerPassComplete_does {s : State} (awake : Awake s) :
    Does .ledgerPassComplete s fun u => RegsBut [] s u ∧ u.ldg.parcels = s.ldg.parcels
      ∧ (∀ p, s.ldg.pass = some p → u.ldg.pass = some { p with results := some (passResults p.snaps 8192) })
      ∧ (s.ldg.pass = none → u = clearReports s) := by
  refine ⟨_, settles_finish awake rfl, fun a _ => rdReg_reach_not _ _ _ (by decide) a, ?_, fun p running => ?_, fun none => reach_self ?_⟩
  · rw [reach_ldg _ _ _ (by decide), passComplete]
    split <;> rfl
  · rw [reach_ldg _ _ _ (by decide), passComplete, clearReports_ldg, running]
  · rw [passComplete, clearReports_ldg, none]

/-! ### Records -/

/-- An operation that hands records of certain kinds to the recorder, in this order (R386). -/
def Records (kinds : List Nat) (s t : State) : Prop := ∃ rs, t.recd.inbox = s.recd.inbox ++ rs ∧ rs.map RecReq.kind = kinds

theorem Records.kinds {kinds : List Nat} {s t : State} (h : Records kinds s t) :
    (t.recd.inbox.drop s.recd.inbox.length).map RecReq.kind = kinds := by
  obtain ⟨rs, inbox, kind⟩ := h
  rw [inbox, List.drop_left, kind]

/-- The end of an interval that is due and not yet handed over (R251). -/
def intervalEnds (c : Nat) (s : State) : Prop :=
  s.time.tick % 8192 = 0 ∧ bitsOf (colWord c 11 s) 31 16 ≠ 0 ∧ s.time.tick / 8192 % bitsOf (colWord c 11 s) 31 16 = 0
    ∧ (ldgCol s c).handed ≠ s.time.ticks + 1

/-- A column whose interval begins anew, and the interrupt (R251). -/
def handedOver (c : Nat) (s : State) : State :=
  setIrq ldgPg 21 (putCol c { ldgCol s c with sums := LdgSums.empty, handed := s.time.ticks + 1 } s)

/-- An interval that ends hands over its two records, and the column begins anew (R251, R378). -/
theorem intervalEnd_ends {c : Nat} {s : State} (h : intervalEnds c s) :
    ∃ t, Records [0x10, 0x11] s t ∧ t.ldg = s.ldg ∧ t.time = s.time ∧ intervalEnd c s = handedOver c t := by
  unfold intervalEnd
  extract_lets w11 nlt
  split
  case isFalse idle => exact absurd h idle
  refine ⟨_, ?_, ?_, ?_, rfl⟩
  · exact ⟨[_, _], List.append_assoc .., rfl⟩
  · rfl
  · rfl

theorem intervalEnd_idle {c : Nat} {s : State} (h : ¬ intervalEnds c s) : intervalEnd c s = s := if_neg h

/-- The command of an interval's end (R251). -/
theorem ledgerIntervalEnd_does {s : State} (awake : Awake s) (c : Fin 4) :
    Does (.ledgerIntervalEnd c) s fun u =>
      (intervalEnds c s → ldgCol u c = { ldgCol s c with sums := LdgSums.empty, handed := s.time.ticks + 1 } ∧ irq ldgPg 21 u = true
        ∧ (u.recd.inbox.drop s.recd.inbox.length).map RecReq.kind = [0x10, 0x11])
      ∧ (¬ intervalEnds c s → u = clearReports s) := by
  refine ⟨_, settles_finish awake rfl, fun ends => ?_, fun idle => reach_self (intervalEnd_idle (s := clearReports s) idle)⟩
  obtain ⟨t, records, ledger, time, e⟩ := intervalEnd_ends (s := clearReports s) ends
  have own : ldgCol t c = ldgCol s c := ldgCol_congr (by rw [ledger]; rfl) c
  rw [ldgCol_reach (by decide), irq_reach (by decide), reach_recd _ _ _ (by decide), e]
  refine ⟨?_, irq_setIrq _ _ (by decide), records.kinds⟩
  change ldgCol (putCol c _ t) c = _
  rw [ldgCol_putCol, own, time]
  rfl

/-! ### Readers of parcels -/

/-- What a reader's verification of parcels leaves besides the messages and the parcels' marks (R223). -/
structure Verifies (s t : State) : Prop where
  regs : t.regs = s.regs
  recd : t.recd = s.recd
  cols : t.ldg.cols = s.ldg.cols
  pass : t.ldg.pass = s.ldg.pass

theorem verifyParcel_verifies (loc : Nat) (s : State) : Verifies s (verifyParcel loc s) := by
  unfold verifyParcel
  split <;> exact ⟨rfl, rfl, rfl, rfl⟩

theorem verifyParcel_sound {loc : Nat} {s : State} (h : parcelOk s loc = true) : verifyParcel loc s = s := by
  rw [verifyParcel, h, Bool.true_or, if_pos rfl]

theorem usable_verifies (locs : List Nat) (s : State) : Verifies s (usable locs s).1 :=
  List.foldlRecOn _ _ ⟨rfl, rfl, rfl, rfl⟩ fun t h loc _ =>
    have v := verifyParcel_verifies loc t
    ⟨v.regs.trans h.regs, v.recd.trans h.recd, v.cols.trans h.cols, v.pass.trans h.pass⟩

/-- A reader of sound records changes nothing. -/
theorem usable_sound {locs : List Nat} {s : State} (h : ∀ l ∈ locs, parcelOk s l = true) : (usable locs s).1 = s :=
  List.foldlRecOn (motive := fun t => t = s) _ _ rfl fun t ht loc hl => by rw [ht, verifyParcel_sound (h loc hl)]

/-- The slots of a column's layers (R244). -/
def layerLocs (c : Nat) (s : State) : List Nat := (List.range (bitsOf (colWord c 15 s) 5 0 + 1)).map fun i => c * 2048 + i

theorem mem_layerLocs {c l : Nat} {s : State} (h : l ∈ layerLocs c s) : ∃ i < 64, l = c * 2048 + i := by
  obtain ⟨i, hi, rfl⟩ := List.mem_map.1 h
  have : bitsOf (colWord c 15 s) 5 0 < 64 := bitsOf_lt ..
  exact ⟨i, by have := List.mem_range.1 hi; omega, rfl⟩

/-- The BATCH record reads the layers, and is handed over (R251, R378). -/
theorem batchRecord_records (c : Nat) (s : State) : Records [0x13] s (batchRecord c s) ∧ (batchRecord c s).regs = s.regs
    ∧ (batchRecord c s).ldg = (usable (layerLocs c s) s).1.ldg := by
  have read := usable_verifies (layerLocs c s) s
  exact ⟨⟨[_], congrArg (fun x : RecState => x.inbox ++ [_]) read.recd, rfl⟩, read.regs, rfl⟩

/-! ### Filling a column -/

/-- The number of parcels that fill a column (R248). -/
def fillCount (c : Nat) (s : State) : Nat := parcelCount (colWord c 2 s).toNat (colWord c 1 s).toNat

/-- Puts slot `i` of a column that the words of `s` describe (R248). -/
def fillSlot (c : Nat) (s : State) (i : Nat) (a : State) : State :=
  putCol c { ldgCol a c with serial := (ldgCol a c).serial + 1 }
    (newParcel (c * 2048 + i) (loaded { freeParcel (c * 2048 + i) with
      vol := if i + 1 = fillCount c s then (colWord c 2 s).toNat * 256 - (fillCount c s - 1) * (colWord c 1 s).toNat else (colWord c 1 s).toNat
      minM := (colWord c 17 s).toInt, tin := (colWord c 18 s).toInt, serial := (ldgCol a c).serial % 256 } a.time.ticks) a)

/-- A column that INIT has filled from slot 0, with its ring around the parcels (R248). -/
def columnFilled (c : Nat) (s : State) : State :=
  setF LDG.COL_TAIL_TAIL ldgPg c 0 (setF LDG.COL_PTR_BOT ldgPg c 0 (setF LDG.COL_PTR_HEAD ldgPg c (fillCount c s)
    (forN (fillCount c s) (fillSlot c s) s)))

theorem ldgInit_fills {c : Nat} {s : State} (mode : colMode c s = 0) (asked : getW LDG.COL_CTRL_MODE ldgPg c s = 0)
    (volume : (colWord c 1 s).toNat ≠ 0) (fits : fillCount c s ≤ 2047) : ldgInit c s = .ok (columnFilled c s) := by
  refine if_neg ?_
  rintro (running | written | empty | full)
  · exact running mode
  · exact written asked
  · exact volume empty
  · exact absurd fits (Nat.not_le.2 full)

theorem fillSlot_on (c : Nat) (s : State) (i : Nat) (a : State) : OnColumns {c} a (fillSlot c s i a) := (newParcel_keeps ..).on.trans (.put ..)

/-- A filled slot holds a parcel of the column's load (R248). -/
theorem parcelAt_fillSlot (c : Nat) (s : State) (i : Nat) (a : State) : (parcelAt (fillSlot c s i a) (c * 2048 + i)).minM = (colWord c 17 s).toInt
    ∧ (parcelAt (fillSlot c s i a) (c * 2048 + i)).tin = (colWord c 18 s).toInt := by
  rw [fillSlot, parcelAt_putCol, newParcel, parcelAt_putParcel]
  exact ⟨rfl, rfl⟩

theorem parcelAt_fillSlot_ne {c i k : Nat} (s a : State) (h : i ≠ k) :
    parcelAt (fillSlot c s i a) (c * 2048 + k) = parcelAt a (c * 2048 + k) := by
  have other : c * 2048 + i ≠ c * 2048 + k := by omega
  have verified : parcelAt (verifyParcel (c * 2048 + i) a) (c * 2048 + k) = parcelAt a (c * 2048 + k) := by
    rw [verifyParcel]
    split
    · rfl
    · exact parcelAt_putParcel_ne _ _ other
  rw [fillSlot, parcelAt_putCol, newParcel, parcelAt_putParcel_ne _ _ other, verified]

theorem parcelAt_columnFilled {c i : Nat} {s : State} (hi : i < fillCount c s) :
    (parcelAt (columnFilled c s) (c * 2048 + i)).minM = (colWord c 17 s).toInt
      ∧ (parcelAt (columnFilled c s) (c * 2048 + i)).tin = (colWord c 18 s).toInt := by
  obtain ⟨u, -, own⟩ := forN_visit (f := fillSlot c s) (Sim := fun s t => parcelAt t (c * 2048 + i) = parcelAt s (c * 2048 + i)) _ i hi
    (fun _ => rfl) (fun _ _ _ h g => g.trans h) (fun k a hk => parcelAt_fillSlot_ne s a hk) s
  rw [columnFilled, parcelAt_setF, parcelAt_setF, parcelAt_setF, own]
  exact parcelAt_fillSlot ..

theorem columnFilled_on (c : Nat) (s : State) : OnColumns {c} s (columnFilled c s) :=
  (OnColumns.forN (fun _ _ a => fillSlot_on c s _ a) s).trans (KeepsCounts.trans (.trans .setF .setF) .setF).on

theorem columnFilled_pointers {c : Nat} {s : State} (fits : fillCount c s ≤ 2047) :
    getW LDG.COL_PTR_HEAD ldgPg c (columnFilled c s) = fillCount c s ∧ getW LDG.COL_PTR_BOT ldgPg c (columnFilled c s) = 0
      ∧ getW LDG.COL_TAIL_TAIL ldgPg c (columnFilled c s) = 0 := by
  refine ⟨?_, ?_, getW_setF _ _ _ _ _ (by decide) (by decide)⟩
  · rw [columnFilled, getW_setF_beside _ _ (by decide) (by decide) (by decide), getW_setF_beside _ _ (by decide) (by decide) (by decide),
      getW_setF _ _ _ _ _ (by decide) (by decide)]
    exact Nat.mod_eq_of_lt (Nat.lt_succ_of_le fits)
  · rw [columnFilled, getW_setF_beside _ _ (by decide) (by decide) (by decide), getW_setF _ _ _ _ _ (by decide) (by decide)]
    rfl

/-! ### Commands of the columns -/

/-- The row of the columns' command registers (R252). -/
def ldgCmdDesc : RegDesc := ⟨0x104, 0x40, 4, [rfOpU 1 0 .wo 0]⟩

theorem ldgCmd_row : ∀ c : Fin 4, plainReg ldgPg (0x104 + 0x40 * c.val) (unitField true) = true
    ∧ regAt ldgPg (0x104 + 0x40 * c.val) = some ldgCmdDesc ∧ regUnit ldgCmdDesc (0x104 + 0x40 * c.val) = c.val := by decide

section
variable {party : Party} {c : Fin 4} {w : Word} {cmd : Nat} {i : Instr} {s : State} {ps : List Part}

/-- A permitted write of a command register is judged as the column's command (R242, R248, R249). -/
theorem judgeReg_ldgCmd (h : MayWriteUnit party ldgPg c.val true s) (hw : bitsOf w 1 0 = cmd) (nonzero : cmd ≠ 0) (l : List Hold) :
    judgeReg (cxOf party ldgPg (0x104 + 0x40 * c.val) w ldgCmdDesc s l) (withHolds s l) = ldgCmd c.val cmd (withHolds s l) := by
  obtain ⟨-, -, unit⟩ := ldgCmd_row c
  have fields : (cxOf party ldgPg (0x104 + 0x40 * c.val) w ldgCmdDesc s l).fields ≠ [] :=
    List.ne_nil_of_mem (List.mem_filter.2 ⟨List.mem_singleton.2 rfl, by simp [writesField, rfOpU, hw, nonzero]⟩)
  have block : ¬ 0x104 + 0x40 * c.val < 0x100 := by omega
  have column : 0x104 + 0x40 * c.val < 0x200 := by omega
  have command : (0x104 + 0x40 * c.val - 0x100) % 0x40 = 4 := by omega
  rw [judgeReg_block h.2.1 rfl (permitted_unit l h unit (by simp [rangeReg, ldgPg, pageKind]) (by decide)) (.inl fields) block, blockWrite_ldg _ rfl]
  unfold ldgWrite
  extract_lets u k stopped
  rw [if_pos (show (cxOf party ldgPg (0x104 + 0x40 * c.val) w ldgCmdDesc s l).off < 0x200 from column),
    if_neg (by rw [show k = 4 from command]; decide), if_pos (show k = 4 from command)]
  exact congrArg₂ (ldgCmd · · _) unit hw

/-- A command that the column takes: reported done, with the registers and the reached parts that it leaves. -/
theorem ldgCmd_does {fact : State → Prop} (awake : Awake s) (h : MayWriteUnit party ldgPg c.val true s) (hw : bitsOf w 1 0 = cmd) (nonzero : cmd ≠ 0)
    (hps : Part.pwr ∉ ps ∧ Part.regs ∈ ps ∧ Part.bus ∈ ps)
    (he : exec i s = .next (finishWrite (reach ps (regWrite party ldgPg (0x104 + 0x40 * c.val) w)) s))
    (taken : ∀ l, ∃ t, ldgCmd c.val cmd (withHolds (clearReports s) l) = .ok t ∧ fact t) :
    Does i s fun u => Acked party (pageAddr ldgPg (0x104 + 0x40 * c.val)) u
      ∧ ∃ t, fact t ∧ RegsBut [] t u ∧ ∀ q ∈ ps, q ≠ .bus → agree q t u := by
  obtain ⟨plain, row, -⟩ := ldgCmd_row c
  obtain ⟨h1, h2, h3, h4, h5, h6, -⟩ := plainReg_facts plain
  obtain ⟨t, n, e, ht⟩ := regWrite_done (w := w) (s := clearReports s) h1 h2 h3 h4 h.1 row h5 (regAdvance_none h6 party) (by omega) fun l => by
    rw [judgeReg_ldgCmd (s := clearReports s) h hw nonzero]
    exact taken l
  obtain ⟨u, settles, done, left⟩ := does_regWrite awake hps he e
  exact ⟨u, settles, done, t, ht, left⟩

/-- A command that the column refuses: reported refused, with the ledger and the registers as they were. -/
theorem ldgCmd_refuses (awake : Awake s) (h : MayWriteUnit party ldgPg c.val true s) (hw : bitsOf w 1 0 = cmd) (nonzero : cmd ≠ 0)
    (hps : Part.pwr ∉ ps ∧ Part.regs ∈ ps ∧ Part.bus ∈ ps) (ledger : Part.ldg ∈ ps)
    (he : exec i s = .next (finishWrite (reach ps (regWrite party ldgPg (0x104 + 0x40 * c.val) w)) s))
    (refused : ∀ l, ldgCmd c.val cmd (withHolds (clearReports s) l) = .refuse) :
    Does i s fun u => u.bus.reports = [⟨party, pageAddr ldgPg (0x104 + 0x40 * c.val), .refused⟩] ∧ RegsBut [] s u ∧ u.ldg = s.ldg := by
  obtain ⟨plain, row, -⟩ := ldgCmd_row c
  obtain ⟨h1, h2, h3, h4, h5, h6, -⟩ := plainReg_facts plain
  obtain ⟨l, n, e⟩ := regWrite_refused (w := w) (s := clearReports s) h1 h2 h3 h4 h.1 row h5 (regAdvance_none h6 party) (by omega) fun l =>
    (judgeReg_ldgCmd (s := clearReports s) h hw nonzero l).trans (refused l)
  obtain ⟨u, settles, report, regs, parts⟩ := does_regWrite awake hps he e
  exact ⟨u, settles, report, regs, parts .ldg ledger (by decide)⟩

end

section
variable {party : Party} {s : State} (awake : Awake s) (c : Fin 4) (h : MayWriteUnit party ldgPg c.val true s)
include awake h

/-- INIT fills the column with parcels of its load (R248). -/
theorem ledgerInit_does (mode : colMode c.val s = 0) (asked : getW LDG.COL_CTRL_MODE ldgPg c.val s = 0) (volume : (colWord c.val 1 s).toNat ≠ 0)
    (fits : fillCount c.val s ≤ 2047) :
    Does (.ledgerInit party c) s fun u => Acked party (pageAddr ldgPg (0x104 + 0x40 * c.val)) u ∧ Outside [ldgPg] s u
      ∧ getW LDG.COL_PTR_HEAD ldgPg c.val u = fillCount c.val s ∧ getW LDG.COL_PTR_BOT ldgPg c.val u = 0 ∧ getW LDG.COL_TAIL_TAIL ldgPg c.val u = 0
      ∧ ∀ i < fillCount c.val s, (parcelAt u (c.val * 2048 + i)).minM = (colWord c.val 17 s).toInt
          ∧ (parcelAt u (c.val * 2048 + i)).tin = (colWord c.val 18 s).toInt := by
  obtain ⟨u, settles, acked, t, ⟨l, rfl⟩, regs, parts⟩ := ldgCmd_does (i := .ledgerInit party c) (w := 1) (cmd := 1)
    (fact := fun t => ∃ l, t = columnFilled c (withHolds (clearReports s) l))
    awake h (by decide) (by decide) (by decide) rfl fun l => ⟨_, ldgInit_fills (s := withHolds (clearReports s) l) mode asked volume fits, l, rfl⟩
  have same (f : Fld) : getW f ldgPg c u = getW f ldgPg c _ := getW_congr (regs _ List.not_mem_nil)
  have page := (columnFilled_on c (withHolds (clearReports s) l)).of_column c.isLt
  obtain ⟨head, bot, tail⟩ := columnFilled_pointers (s := withHolds (clearReports s) l) fits
  refine ⟨u, settles, acked, fun a qa ha => (regs a List.not_mem_nil).trans (page.outside a qa ha), (same _).trans head, (same _).trans bot,
    (same _).trans tail, fun i hi => ?_⟩
  rw [parcelAt_ldg (parts .ldg (by decide) (by decide))]
  exact parcelAt_columnFilled (s := withHolds (clearReports s) l) hi

/-- A clear of the bias waits for the boundary (R242). -/
theorem ledgerClearBias_does :
    Does (.ledgerClearBias party c) s fun u => Acked party (pageAddr ldgPg (0x104 + 0x40 * c.val)) u ∧ RegsBut [] s u
      ∧ ldgCol u c = { ldgCol s c with biasClr := true } := by
  obtain ⟨u, settles, acked, t, ⟨l, rfl⟩, regs, parts⟩ := ldgCmd_does (i := .ledgerClearBias party c) (w := 2) (cmd := 2)
    (fact := fun t => ∃ l, t = putCol c { ldgCol s c with biasClr := true } (withHolds (clearReports s) l))
    awake h (by decide) (by decide) (by decide) rfl fun l => ⟨_, rfl, l, rfl⟩
  have ledger : u.ldg = _ := parts .ldg (by decide) (by decide)
  exact ⟨u, settles, acked, regs, (ldgCol_congr (congrArg LdgState.cols ledger) c).trans (ldgCol_putCol ..)⟩

/-- A batch ends with its record in layer mode (R249, R251). -/
theorem ledgerBatchEnd_does (mode : colMode c.val s = 2) :
    Does (.ledgerBatchEnd party c) s fun u => Acked party (pageAddr ldgPg (0x104 + 0x40 * c.val)) u ∧ RegsBut [] s u
      ∧ u.ldg.cols = s.ldg.cols ∧ u.ldg.pass = s.ldg.pass ∧ (u.recd.inbox.drop s.recd.inbox.length).map RecReq.kind = [0x13]
      ∧ ((∀ i < 64, parcelOk s (c.val * 2048 + i) = true) → u.ldg = s.ldg) := by
  obtain ⟨u, settles, acked, t, ⟨l, rfl⟩, regs, parts⟩ := ldgCmd_does (i := .ledgerBatchEnd party c) (w := 3) (cmd := 3)
    (fact := fun t => ∃ l, t = batchRecord c (withHolds (clearReports s) l))
    awake h (by decide) (by decide) (by decide) rfl fun l => ⟨_, if_pos mode, l, rfl⟩
  obtain ⟨records, same, read⟩ := batchRecord_records c (withHolds (clearReports s) l)
  have verifies := usable_verifies (layerLocs c s) (withHolds (clearReports s) l)
  have ledger : u.ldg = (usable (layerLocs c s) (withHolds (clearReports s) l)).1.ldg := (parts .ldg (by decide) (by decide)).trans read
  have recorder : u.recd = (batchRecord c (withHolds (clearReports s) l)).recd := parts .recd (by decide) (by decide)
  refine ⟨u, settles, acked, fun a ha => (regs a ha).trans ?_, ?_, ?_, ?_, fun sound => ?_⟩
  · rw [rdReg, same]
    rfl
  · rw [ledger, verifies.cols]
    rfl
  · rw [ledger, verifies.pass]
    rfl
  · rw [recorder]
    exact records.kinds
  · have still : (usable (layerLocs c s) (withHolds (clearReports s) l)).1 = withHolds (clearReports s) l := usable_sound fun k hk => by
      obtain ⟨i, hi, rfl⟩ := mem_layerLocs hk
      exact sound i hi
    rw [ledger, still]
    rfl

/-- Out of layer mode there is no batch to end (R249). -/
theorem ledgerBatchEnd_refuses (mode : colMode c.val s ≠ 2) :
    Does (.ledgerBatchEnd party c) s fun u => u.bus.reports = [⟨party, pageAddr ldgPg (0x104 + 0x40 * c.val), .refused⟩] ∧ RegsBut [] s u
      ∧ u.ldg = s.ldg :=
  ldgCmd_refuses awake h (w := 3) (cmd := 3) (by decide) (by decide) (by decide) (by decide) rfl fun _ => if_neg mode

end

end Sys2Proof.Machine

namespace Sys2Proof.Proofs
open Sys2Proof Sys2Proof.Machine

/-- Settles O28: an advance and a sampling are one column's work after another, of which the parcels' moves keep the count and the number of
samples; an interval's end hands over its records; a write of a column's command register is judged as the command. The 8192 ticks of a
completed pass are the model's arrangement (log 32): an adoption's other length is computed at the due instant (R61). -/
theorem ledgerColumnsAdvanceAndObey : Obligations.Ledger_Columns_Advance_And_Obey := by
  unfold Obligations.Ledger_Columns_Advance_And_Obey
  intro party col s awake
  exact ⟨ledgerAdvance_does awake col, ledgerSample_does awake col, ledgerPassComplete_does awake, ledgerIntervalEnd_does awake col,
    fun may => ⟨ledgerInit_does awake col may, ledgerClearBias_does awake col may, ledgerBatchEnd_does awake col may,
      ledgerBatchEnd_refuses awake col may⟩⟩

end Sys2Proof.Proofs
end

section
/-!
PROOFS. The control engines' instructions (chapter 9), first those that compute, load, branch and jump (O1 to O4, O6). `Laws/Engine.lean` says
for each shape of instruction what it leaves; what is left to say here is that an instruction of the shape computes the word, or goes to
the index, that the statement names.
-/
namespace Sys2Proof.Machine

/-! ### Results of the integer instructions -/

/-- The lesser of two words, as their numbers' minimum (R260). -/
theorem minWord_eq (x y : Word) : BitVec.ofInt 32 (min x.toInt y.toInt) = if x.toInt < y.toInt then x else y := by
  split
  · next h => rw [min_eq_left h.le, ofInt_toInt]
  · next h => rw [min_eq_right (not_lt.1 h), ofInt_toInt]

theorem maxWord_eq (x y : Word) : BitVec.ofInt 32 (max x.toInt y.toInt) = if x.toInt < y.toInt then y else x := by
  split
  · next h => rw [max_eq_right h.le, ofInt_toInt]
  · next h => rw [max_eq_left (not_lt.1 h), ofInt_toInt]

/-- A limit above the range of a word limits nothing (SATQ by 31). -/
theorem clampI_eq {lo hi : Int} (h : lo ≤ hi) (i : Int) : clampI lo hi i = max lo (min hi i) := by
  unfold clampI
  split_ifs <;> omega

theorem satqWord_eq (x : Word) (k : Nat) :
    satqWord x k = BitVec.ofInt 32 (max (-(2 ^ k : Int)) (min ((2 ^ k : Int) - 1) x.toInt)) := by
  have pos : (1 : Int) ≤ 2 ^ k := by exact_mod_cast Nat.one_le_two_pow
  unfold satqWord ofI
  split
  · next h =>
    have lo := BitVec.le_toInt x
    have hi := BitVec.toInt_lt (x := x)
    subst h
    rw [min_eq_right (by omega), max_eq_right (by omega), ofInt_toInt]
  · push_cast
    rw [clampI_eq (by omega)]

theorem divuWord_eq (x y : Word) : divuWord x y = if y = 0 then 0xFFFFFFFF else x / y := by
  have quotient : ofN (x.toNat / y.toNat) = x / y := BitVec.eq_of_toNat_eq (by
    rw [ofN, BitVec.toNat_ofNat, BitVec.toNat_udiv]
    exact Nat.mod_eq_of_lt (lt_of_le_of_lt (Nat.div_le_self ..) x.isLt))
  rw [divuWord, quotient]

theorem qdivWord_eq (x y : Word) (k : Nat) : qdivWord x y k = if y = 0 then divZero x
    else BitVec.ofInt 32 (max (-2147483648) (min 2147483647 ((x.toInt * 2 ^ k).tdiv y.toInt))) := by
  rw [qdivWord, satWord_eq]
  push_cast
  rfl

theorem lhiWord_eq (imm : BitVec 16) : imm.zeroExtend 32 <<< 16 = ofN (imm.toNat * 65536) := by
  have h := imm.isLt
  refine BitVec.eq_of_toNat_eq ?_
  simp only [BitVec.toNat_shiftLeft, BitVec.toNat_setWidth, ofN, BitVec.toNat_ofNat, Nat.shiftLeft_eq]
  omega

section
variable {c : EngAt} {d a b : Fin 32} {s : State}

/-- A conditional move that does not move leaves `d` at its own value (R260). -/
theorem cmov_does (awake : Awake s) :
    IntDoes c d s (.engCmov c d a b) (formR 0x0E 1 d a b) (if gOf c b s = 0 then gOf c d s else gOf c a s) := by
  refine int_of _ awake rfl fun ex => ?_
  by_cases h : gOf c b (clearReports s) = 0
  · have stays : gOf c b s = 0 := h
    rw [if_pos stays]
    obtain ⟨step, le⟩ := engRun_go (ps := []) ex (f := fun _ s => .go (if gOf c b s = 0 then s else gPut c d (gOf c a s) s))
      (by simp only [gOf_atLane, h, if_true]) (.refl ..)
    obtain ⟨step, kept, flags, conds⟩ := flow_of step le
    refine ⟨step, fun r => ?_, flags, conds⟩
    rw [kept r]
    split
    · next hr => rw [hr.1]; rfl
    · rfl
  · have moves : ¬ gOf c b s = 0 := h
    rw [if_neg moves]
    exact intResult_of ex (by simp only [gOf_atLane, h, if_false]; rfl)

theorem lhi_does (awake : Awake s) (imm : BitVec 16) :
    IntDoes c d s (.engLhi c d imm) (formI 4 2 1 d 0 imm) (imm.zeroExtend 32 <<< 16) := by
  rw [lhiWord_eq]
  exact int_of _ awake rfl fun ex => intResult_of ex rfl

theorem clz_does (awake : Awake s) (ex : Executes c (formR2 0x0F d a) s) : ∃ (t : State) (n : Nat), exec (.engClz c d a) s = .next t
    ∧ IntResult c (formR2 0x0F d a) d (BitVec.ofNat 32 n) s t
    ∧ n ≤ 32 ∧ (∀ i < n, (gOf c a s).getLsbD (31 - i) = false) ∧ (n < 32 → (gOf c a s).getLsbD (31 - n) = true) := by
  obtain ⟨n, count, bounds⟩ := clzWord_spec (gOf c a s)
  have does : IntDoes c d s (.engClz c d a) (formR2 0x0F d a) (BitVec.ofNat 32 n) := int_op1 clzWord awake count.symm rfl
  obtain ⟨t, e, r⟩ := does ex
  exact ⟨t, n, e, r, bounds⟩

end

end Sys2Proof.Machine

namespace Sys2Proof.Proofs
open Sys2Proof Sys2Proof.Machine

/-- Settles O1: each instruction applies a function of its operands' words to the context, which computes the number that R260 and R261
give. -/
theorem integerInstructionsWriteTheirResult : Obligations.Integer_Instructions_Write_Their_Result := by
  unfold Obligations.Integer_Instructions_Write_Their_Result
  intro c d a b sh imm s awake
  exact ⟨
    int_op2 (· + ·) awake rfl rfl,
    int_op2 (· - ·) awake rfl rfl,
    int_op2 (· &&& ·) awake rfl rfl,
    int_op2 (· ||| ·) awake rfl rfl,
    int_op2 (· ^^^ ·) awake rfl rfl,
    int_op2 (fun x y => x <<< (y.toNat % 32)) awake rfl rfl,
    int_op2 (fun x y => x >>> (y.toNat % 32)) awake rfl rfl,
    int_op2 (fun x y => x.sshiftRight (y.toNat % 32)) awake rfl rfl,
    int_op2 (fun x y => boolWord (decide (x.toInt < y.toInt))) awake (boolWord_ite _).symm rfl,
    int_op2 (fun x y => boolWord (decide (x.toNat < y.toNat))) awake (boolWord_ite _).symm rfl,
    int_op2 (fun x y => if x.toInt < y.toInt then x else y) awake (minWord_eq ..) rfl,
    int_op2 (fun x y => if x.toInt < y.toInt then y else x) awake (maxWord_eq ..) rfl,
    int_op2 (fun x y => satWord (x.toInt + y.toInt)) awake (satWord_eq _).symm rfl,
    int_op2 (fun x y => satWord (x.toInt - y.toInt)) awake (satWord_eq _).symm rfl,
    cmov_does awake,
    int_op1 (fun x => x <<< sh.val) awake rfl rfl,
    int_op1 (fun x => x >>> sh.val) awake rfl rfl,
    int_op1 (fun x => x.sshiftRight sh.val) awake rfl rfl,
    int_op1 (fun x => satqWord x sh.val) awake (satqWord_eq ..).symm rfl,
    int_op1 (fun x => x + imm.signExtend 32) awake rfl rfl,
    int_op1 (fun x => boolWord (decide (x.toInt < imm.toInt))) awake (boolWord_ite _).symm rfl,
    lhi_does awake imm,
    int_op1 (fun x => x &&& imm.zeroExtend 32) awake rfl rfl,
    int_op1 (fun x => x ||| imm.zeroExtend 32) awake rfl rfl,
    int_op1 (fun x => x ^^^ imm.zeroExtend 32) awake rfl rfl,
    clz_does awake,
    int_op2 (· * ·) awake rfl rfl,
    int_op2 (fun x y => ofI (x.toInt * y.toInt / 4294967296)) awake rfl rfl,
    int_op2 (fun x y => ofN (x.toNat * y.toNat / 4294967296)) awake rfl rfl,
    int_op2 (fun x y => qmulWord x y sh.val) awake (satWord_eq _).symm rfl,
    int_op2 divWord awake rfl rfl,
    int_op2 divuWord awake (divuWord_eq ..).symm rfl,
    int_op2 remWord awake rfl rfl,
    int_op2 (fun x y => qdivWord x y sh.val) awake (qdivWord_eq ..).symm rfl⟩

/-- Settles O2: each instruction applies the format's function of R262 to its operands' words; the result's latency stands in its form. -/
theorem floatInstructionsWriteResultAndFlags : Obligations.Float_Instructions_Write_Result_And_Flags := by
  unfold Obligations.Float_Instructions_Write_Result_And_Flags
  intro c d a b s awake
  exact ⟨
    float_op2 f32Add awake rfl rfl,
    float_op2 f32Sub awake rfl rfl,
    float_op2 f32Mul awake rfl rfl,
    float_of _ awake rfl fun ex => floatResult_of ex (by simp only [gOf_atLane]; rfl),
    float_op2 (f32MinMax true) awake rfl rfl,
    float_op2 (f32MinMax false) awake rfl rfl,
    int_op1 (· &&& 0x7FFFFFFF) awake rfl rfl,
    int_op1 (· ^^^ 0x80000000) awake rfl rfl,
    float_op2 (f32Cmp false) awake rfl rfl,
    float_op2 (f32Cmp true) awake rfl rfl,
    float_op2 f32Eq awake rfl rfl,
    float_op2 f32Div awake rfl rfl,
    float_op1 f32Sqrt awake rfl rfl,
    float_op1 (f32FromInt · 0) awake rfl rfl,
    float_op1 f32ToInt awake rfl rfl,
    float_op1 (f32FromInt · (-16)) awake rfl rfl,
    float_op1 f32ToQ awake rfl rfl⟩

end Sys2Proof.Proofs
end

section
namespace Sys2Proof.Machine

/-! ### Data memory -/

theorem dataTrap_none {k n : Nat} (h : n < 0x8000) (aligned : n % k = 0) : dataTrap k n = none := by
  rw [dataTrap, if_neg (not_le.2 h), if_neg (by simpa using aligned)]

theorem dataTrap_beyond {k n : Nat} (h : 0x8000 ≤ n) : dataTrap k n = some 3 := if_pos h

theorem dataTrap_misaligned {k n : Nat} (h : n < 0x8000) (misaligned : n % k ≠ 0) : dataTrap k n = some 2 := by
  rw [dataTrap, if_neg (not_le.2 h), if_pos misaligned]

theorem dataBytes_one (e a : Nat) (s : State) : dataBytes e a 1 s = (rdByte s (dataBase e + a)).toNat := by
  simp only [dataBytes, Nat.zero_mul, Nat.zero_add, Nat.add_zero]

theorem dataBytes_lt (e a n : Nat) (s : State) : dataBytes e a n s < 256 ^ n := by
  induction n with
  | zero => exact Nat.one_pos
  | succ n ih =>
    have byte := (rdByte s (dataBase e + a + n)).isLt
    rw [dataBytes, Nat.pow_succ]
    omega

/-- Fewer bytes than a word's, extended with zeros, are the word of the same number. -/
theorem zeroExtend_ofNat {w n : Nat} (h : n < 2 ^ w) : (BitVec.ofNat w n).zeroExtend 32 = ofN n := by
  refine BitVec.eq_of_toNat_eq ?_
  rw [BitVec.toNat_setWidth, BitVec.toNat_ofNat, Nat.mod_eq_of_lt h, ofN, BitVec.toNat_ofNat]

/-- The parts that the settling of a cycle's writes may reach. -/
def storeParts : List Part := [.regs, .win, .act, .mem, .time, .bus, .flt, .recd, .clk, .sns, .moi, .lpa, .prf, .trc, .ldg,
  .eng, .drv, .hst, .can, .lnk, .nvs, .dig, .pwr, .fresh]

section
variable {c : EngAt} {d a : Fin 32} {imm : BitVec 16} {s : State}

theorem dataAddr_start (c : EngAt) (a : Fin 32) (imm : BitVec 16) (n : Nat) (s : State) :
    dataAddr c a imm (atLane c.lane n (clearReports s)) = dataAddr c a imm s := by
  rw [dataAddr, gOf_atLane]; rfl

/-- A load of an aligned address below the end of data memory. -/
theorem load_does {cls sub k : Nat} {v : Word} {i : Instr} (ext : Nat → Word) (awake : Awake s)
    (e : exec i s = .next (finish (reach [.regs, .time, .flt, .recd, .eng] (runLoad c cls sub k d a imm ext)) s))
    (below : dataAddr c a imm s < 0x8000) (value : v = ext (dataBytes c.eng.val (dataAddr c a imm s) k s))
    (aligned : dataAddr c a imm s % k = 0) : IntDoes c d s i (formLd cls sub d a imm) v :=
  int_load ext awake (dataTrap_none below aligned) value e

/-- A store of an aligned address below the end of data memory that no other write meets. -/
theorem store_does {sub k : Nat} {i : Instr} (awake : Awake s)
    (e : exec i s = .next (finishWrite (reach storeParts (runStore c sub k d a imm [])) s))
    (below : dataAddr c a imm s < 0x8000) (aligned : dataAddr c a imm s % k = 0) (ex : Executes c (formSt 7 sub d a imm) s) :
    ∃ t, exec i s = .next t ∧ FlowResult c (formSt 7 sub d a imm) (pcMod ((engCtx s c.eng.val c.lane).pc + 1)) [.mem] s t
      ∧ ∀ x, rdByte t x = if dataBase c.eng.val + dataAddr c a imm s ≤ x ∧ x < dataBase c.eng.val + dataAddr c a imm s + k then
          BitVec.ofNat 8 ((gOf c d s).toNat / 256 ^ (k - 1 - (x - (dataBase c.eng.val + dataAddr c a imm s)))) else rdByte s x := by
  obtain ⟨t, next, flow, mem⟩ := flow_store awake (by decide) (by decide) (dataTrap_none below aligned) e ex
  exact ⟨t, next, flow, fun x => (rdByte_mem mem x).trans (rdByte_putData ..)⟩

/-- A load whose address traps, beyond data memory or misaligned. -/
theorem load_traps {cls sub k : Nat} {ext : Nat → Word} {i : Instr} (awake : Awake s)
    (e : exec i s = .next (finish (reach [.regs, .time, .flt, .recd, .eng] (runLoad c cls sub k d a imm ext)) s)) :
    (0x8000 ≤ dataAddr c a imm s → Executes c (formLd cls sub d a imm) s → ∃ t, exec i s = .next t ∧ Trapped c 3 s t)
    ∧ (dataAddr c a imm s < 0x8000 → dataAddr c a imm s % k ≠ 0 → Executes c (formLd cls sub d a imm) s →
      ∃ t, exec i s = .next t ∧ Trapped c 2 s t) := by
  have traps {cause : Nat} (small : cause < 8) (trap : dataTrap k (dataAddr c a imm s) = some cause)
      (ex : Executes c (formLd cls sub d a imm) s) : ∃ t, exec i s = .next t ∧ Trapped c cause s t :=
    instr_trap awake ⟨by decide, by decide, by decide, small⟩ (.inl e) rfl (by simp only [dataAddr_start, trap]) ex
  exact ⟨fun far => traps (by decide) (dataTrap_beyond far), fun near odd => traps (by decide) (dataTrap_misaligned near odd)⟩

/-- A store whose address traps, whatever writes it meets. -/
theorem store_traps {sub k : Nat} {rivals : List BusReq} {i : Instr} (awake : Awake s)
    (e : exec i s = .next (finishWrite (reach storeParts (runStore c sub k d a imm rivals)) s)) :
    (0x8000 ≤ dataAddr c a imm s → Executes c (formSt 7 sub d a imm) s → ∃ t, exec i s = .next t ∧ Trapped c 3 s t)
    ∧ (dataAddr c a imm s < 0x8000 → dataAddr c a imm s % k ≠ 0 → Executes c (formSt 7 sub d a imm) s →
      ∃ t, exec i s = .next t ∧ Trapped c 2 s t) := by
  have traps {cause : Nat} (small : cause < 8) (trap : dataTrap k (dataAddr c a imm s) = some cause)
      (ex : Executes c (formSt 7 sub d a imm) s) : ∃ t, exec i s = .next t ∧ Trapped c cause s t :=
    instr_trap awake ⟨by decide, by decide, by decide, small⟩ (.inr e) rfl (by simp only [dataAddr_start, trap]) ex
  exact ⟨fun far => traps (by decide) (dataTrap_beyond far), fun near odd => traps (by decide) (dataTrap_misaligned near odd)⟩

end

end Sys2Proof.Machine

namespace Sys2Proof.Proofs
open Sys2Proof Sys2Proof.Machine

/-- Settles O3: a load extends the bytes at its address, of which the most significant lies lowest. -/
theorem loadsReadDataMemory : Obligations.Loads_Read_Data_Memory := by
  unfold Obligations.Loads_Read_Data_Memory
  intro c d a imm s awake n m below
  have two : BitVec.ofNat 16 (dataBytes c.eng.val (dataAddr c a imm s) 2 s) = m 0 ++ m 1 := dataBytes_two ..
  have one : BitVec.ofNat 8 (dataBytes c.eng.val (dataAddr c a imm s) 1 s) = m 0 := by rw [dataBytes_one, BitVec.ofNat_toNat]; rfl
  exact ⟨
    load_does ofN awake rfl below (dataBytes_four ..).symm,
    load_does (fun v => (BitVec.ofNat 16 v).signExtend 32) awake rfl below (by rw [two]),
    load_does ofN awake rfl below (by rw [← two]; exact zeroExtend_ofNat (dataBytes_lt _ _ 2 s)),
    load_does (fun v => (BitVec.ofNat 8 v).signExtend 32) awake rfl below (by rw [one]) (Nat.mod_one _),
    load_does ofN awake rfl below (by rw [← one]; exact zeroExtend_ofNat (dataBytes_lt _ _ 1 s)) (Nat.mod_one _)⟩

/-- Settles O4: each branch is taken where its condition holds of its operands' words. -/
theorem branchesMoveThePc : Obligations.Branches_Move_The_Pc := by
  unfold Obligations.Branches_Move_The_Pc
  intro c a b off s awake
  exact ⟨
    flow_branch (fun x y => decide (x = y)) awake rfl rfl,
    flow_branch (fun x y => decide (x ≠ y)) awake rfl rfl,
    flow_branch (fun x y => decide (x.toInt < y.toInt)) awake rfl rfl,
    flow_branch (fun x y => decide (y.toInt ≤ x.toInt)) awake rfl rfl,
    flow_branch (fun x y => decide (x.toNat < y.toNat)) awake rfl rfl,
    flow_branch (fun x y => decide (y.toNat ≤ x.toNat)) awake rfl rfl⟩

/-- Settles O5: alone in its cycle, a store puts its bytes as `putData` does. -/
theorem storesWriteDataMemory : Obligations.Stores_Write_Data_Memory := by
  unfold Obligations.Stores_Write_Data_Memory
  intro c d a imm s awake n at0 does below
  exact ⟨store_does awake rfl below, store_does awake rfl below, store_does awake rfl below (Nat.mod_one _)⟩

/-- Settles O8: the address alone decides the trap, before any byte is read or written. -/
theorem badDataAddressesTrap : Obligations.Bad_Data_Addresses_Trap := by
  unfold Obligations.Bad_Data_Addresses_Trap
  intro c d a imm rivals s awake
  exact ⟨load_traps awake rfl, load_traps awake rfl, load_traps awake rfl, (load_traps awake rfl).1, (load_traps awake rfl).1,
    store_traps awake rfl, store_traps awake rfl, (store_traps awake rfl).1⟩

end Sys2Proof.Proofs
end

section
namespace Sys2Proof.Machine

/-! ### From what an operation leaves to the result of its instruction -/

/-- The context of `c` stands in `w` as in `s`. -/
def SameContext (c : EngAt) (s w : State) : Prop := engCtx w c.eng.val c.lane = engCtx s c.eng.val c.lane

theorem sameContext_start (c : EngAt) (n : Nat) (s : State) : SameContext c s (atLane c.lane n (clearReports s)) := by
  rw [SameContext, engCtx, engSt_atLane]; rfl

theorem sameContext_putEng {c : EngAt} {v : EngState} {s w : State} (h : SameContext c s w)
    (hv : v.dl = (engSt w c.eng.val).dl ∧ v.bg = (engSt w c.eng.val).bg) : SameContext c s (putEng c.eng.val v w) := by
  refine Eq.trans ?_ h
  unfold engCtx
  rw [engSt_putEng]
  cases c.lane
  · exact hv.1
  · exact hv.2

theorem putCtx_shared (e : Nat) (l : Lane) (v : EngCtx) (s : State) : (engSt (putCtx e l v s) e).posts = (engSt s e).posts
    ∧ (engSt (putCtx e l v s) e).outs = (engSt s e).outs ∧ (engSt (putCtx e l v s) e).staging = (engSt s e).staging := by
  cases l <;> simp only [putCtx, engSt_putEng, and_self]

theorem gPut_shared (c : EngAt) (d : Fin 32) (v : Word) (s : State) :
    (engSt (gPut c d v s) c.eng.val).posts = (engSt s c.eng.val).posts ∧ (engSt (gPut c d v s) c.eng.val).outs = (engSt s c.eng.val).outs := by
  unfold gPut setG
  split
  · exact ⟨rfl, rfl⟩
  · obtain ⟨posts, outs, -⟩ := putCtx_shared c.eng.val c.lane
      { engCtx s c.eng.val c.lane with regs := tabSet (fun _ => (0 : Word)) (engCtx s c.eng.val c.lane).regs d.val v } s
    exact ⟨posts, outs⟩

section
variable {c : EngAt} {m : EngForm} {d : Fin 32} {v : Word} {ps : List Part} {s t w : State} {pc : Nat}

theorem SameContext.getG (h : SameContext c s w) (r : Nat) : getG w c.eng.val c.lane r = getG s c.eng.val c.lane r :=
  getG_congr (by rw [h]) r

theorem SameContext.gOf (h : SameContext c s w) (r : Fin 32) : gOf c r w = gOf c r s := h.getG r.val

/-- An instruction that writes `v` to `d` of a context that stands as before, and nothing else of it. -/
theorem SameContext.writes (h : SameContext c s w) (le : Left c (gPut c d v w) t) :
    Writes c d v s t ∧ Raises c 0 s t ∧ KeepsConditions c s t := by
  obtain ⟨flags, pcond, sage, sstat⟩ := gPut_keeps c d v w
  unfold Raises at flags
  refine ⟨fun r => ?_, ?_, ?_, ?_, ?_⟩
  · rw [le.g r, gPut_writes c d v w r, h.getG r]
  · unfold Raises; rw [le.fstat, flags, h]
  · rw [le.pcond, pcond, h]
  · rw [le.sage, sage, h]
  · rw [le.sstat, sstat, h]

theorem SameContext.intResult (h : SameContext c s w) (step : Stepped c m (pcMod ((engCtx s c.eng.val c.lane).pc + 1)) [] s t)
    (le : Left c (gPut c d v w) t) : IntResult c m d v s t :=
  have ⟨result, flags, conds⟩ := h.writes le
  ⟨step, result, flags, conds⟩

theorem SameContext.jumpResult (h : SameContext c s w) (step : Stepped c m pc [] s t) (le : Left c (gPut c d v w) t) :
    JumpResult c m pc d v s t :=
  have ⟨result, flags, conds⟩ := h.writes le
  ⟨step, result, flags, conds⟩

theorem engCtx_putPcond (c : EngAt) (r : Nat) (b : Bool) (w : State) :
    engCtx (putPcond c r b w) c.eng.val c.lane = { engCtx w c.eng.val c.lane with pcond := r + 16 * b2n b } := engCtx_putCtx ..

/-- A port instruction that sets PCOND of a context that stands as before. -/
theorem SameContext.portResult {r : Nat} (h : SameContext c s w) (step : Stepped c m (pcMod ((engCtx s c.eng.val c.lane).pc + 1)) ps s t)
    (le : Left c (putPcond c r false w) t) : PortResult c m ps r s t ∧ ∀ k, Machine.getG t c.eng.val c.lane k = Machine.getG s c.eng.val c.lane k := by
  have x : engCtx (putPcond c r false w) c.eng.val c.lane = { engCtx s c.eng.val c.lane with pcond := r } := by
    rw [engCtx_putPcond, h]; rfl
  refine ⟨⟨step, ?_, ?_, ?_, ?_⟩, fun k => getG_congr (by rw [le.regs, x]) k⟩
  · unfold Raises; rw [le.fstat, x, Nat.or_zero]
  · rw [le.pcond, x]
  · rw [le.sage, x]
  · rw [le.sstat, x]

/-- A source instruction on a context that stands as before. -/
theorem SameContext.sourceResult {res age stat : Nat} {stale : Bool} (h : SameContext c s w)
    (step : Stepped c m (pcMod ((engCtx s c.eng.val c.lane).pc + 1)) [.sns, .moi] s t)
    (le : Left c (sourceResult c d v res stale age stat w) t) : SourceResult c m d v (res + 16 * b2n stale) age stat s t := by
  have x : engCtx (Machine.sourceResult c d v res stale age stat w) c.eng.val c.lane
      = { engCtx (gPut c d v w) c.eng.val c.lane with pcond := res + 16 * b2n stale, sage := age, sstat := stat } := by
    unfold Machine.sourceResult
    rw [engCtx_putCtx, engCtx_putPcond]
  obtain ⟨flags, -⟩ := gPut_keeps c d v w
  unfold Raises at flags
  refine ⟨step, fun r => ?_, ?_, ?_, ?_, ?_⟩
  · rw [le.g r, getG_congr (s := gPut c d v w) (by rw [x]) r, gPut_writes c d v w r, h.getG r]
  · unfold Raises; rw [le.fstat, x, flags, h]
  · rw [le.pcond, x]
  · rw [le.sage, x]
  · rw [le.sstat, x]

end

/-! ### Jumps -/

section
variable {c : EngAt} {a : Fin 32} {s : State}

theorem branchTarget_start (c : EngAt) (off : Int) (n : Nat) (s : State) :
    branchTarget c off (atLane c.lane n (clearReports s)) = pcMod ((engCtx s c.eng.val c.lane).pc + 1 + off) := by
  rw [branchTarget, sameContext_start]

theorem branchTarget_gPut (c : EngAt) (off : Int) (d : Fin 32) (v : Word) (s : State) :
    branchTarget c off (gPut c d v s) = branchTarget c off s := by
  have keeps := gPut_ctx c d v s
  rw [EngCtx.mk.injEq] at keeps
  obtain ⟨-, pc, -⟩ := keeps
  rw [branchTarget, branchTarget, pc]

theorem jmp_does (awake : Awake s) (far : BitVec 27) :
    FlowDoes c s (.engJmp c far) ⟨⟨maskAll, encJ 0 far.toNat⟩, [], [], 2, 2, false, false⟩
      (pcMod ((engCtx s c.eng.val c.lane).pc + 1 + far.toInt)) := fun ex => by
  obtain ⟨t, e, step, le⟩ := instr_jump (i := .engJmp c far) (ps := []) (f := fun _ s => .jump (branchTarget c far.toInt s) s) awake (by decide) rfl rfl
    (by rw [branchTarget_start]) (.refl ..) ex
  exact ⟨t, e, flow_left step le⟩

theorem jmpr_does (awake : Awake s) :
    FlowDoes c s (.engJmpr c a) { formI 4 3 2 0 a 0 with writes := [] } ((gOf c a s).toNat % 16384) := fun ex => by
  obtain ⟨t, e, step, le⟩ := instr_jump (i := .engJmpr c a) (ps := []) (f := fun _ s => .jump ((gOf c a s).toNat % 16384) s) awake (by decide) rfl rfl
    (by rw [(sameContext_start ..).gOf]) (.refl ..) ex
  exact ⟨t, e, flow_left step le⟩

theorem call_does (awake : Awake s) (far : BitVec 27) (ex : Executes c ⟨⟨maskAll, encJ 1 far.toNat⟩, [], [31], 2, 2, false, false⟩ s) :
    ∃ t, exec (.engCall c far) s = .next t ∧ JumpResult c ⟨⟨maskAll, encJ 1 far.toNat⟩, [], [31], 2, 2, false, false⟩
      (pcMod ((engCtx s c.eng.val c.lane).pc + 1 + far.toInt)) 31 (BitVec.ofNat 32 (pcMod ((engCtx s c.eng.val c.lane).pc + 1))) s t := by
  obtain ⟨t, e, step, le⟩ := instr_jump (i := .engCall c far) (ps := [])
    (f := fun _ s => .jump (branchTarget c far.toInt s) (gPut c 31 (ofN (branchTarget c 0 s)) s)) awake (by decide) rfl rfl
    (by simp only [branchTarget_start, add_zero]; rfl)
    (.gPut c [] 31 (BitVec.ofNat 32 (pcMod ((engCtx s c.eng.val c.lane).pc + 1))) _) ex
  exact ⟨t, e, (sameContext_start ..).jumpResult step le⟩

theorem loop_does (awake : Awake s) (off : BitVec 16)
    (ex : Executes c { formB 9 2 a 0 off (decide (gOf c a s ≠ 1)) with reads := [a.val], writes := [a.val] } s) :
    ∃ t, exec (.engLoop c a off) s = .next t
      ∧ JumpResult c { formB 9 2 a 0 off (decide (gOf c a s ≠ 1)) with reads := [a.val], writes := [a.val] }
        (if gOf c a s - 1 = 0 then pcMod ((engCtx s c.eng.val c.lane).pc + 1) else pcMod ((engCtx s c.eng.val c.lane).pc + 1 + off.toInt))
        a (gOf c a s - 1) s t := by
  split
  · next zero =>
    obtain ⟨t, e, step, le⟩ := instr_go (i := .engLoop c a off) (ps := []) (f := fun _ t =>
      let v := gOf c a t - 1
      let t := gPut c a v t
      if v = 0 then .go t else .jump (branchTarget c off.toInt t) t) awake (by decide) rfl rfl
      (by simp only [(sameContext_start c _ s).gOf, zero, if_true]; rfl) (.gPut ..) ex
    rw [zero]
    exact ⟨t, e, (sameContext_start ..).jumpResult step le⟩
  · next more =>
    obtain ⟨t, e, step, le⟩ := instr_jump (i := .engLoop c a off) (ps := []) (f := fun _ t =>
      let v := gOf c a t - 1
      let t := gPut c a v t
      if v = 0 then .go t else .jump (branchTarget c off.toInt t) t) awake (by decide) rfl rfl
      (by simp only [(sameContext_start c _ s).gOf, more, if_false, branchTarget_gPut, branchTarget_start]; rfl) (.gPut ..) ex
    exact ⟨t, e, (sameContext_start ..).jumpResult step le⟩

end

end Sys2Proof.Machine

namespace Sys2Proof.Proofs
open Sys2Proof Sys2Proof.Machine

/-- Settles O6: a jump moves the pc, whose target the write to d leaves. LOOP of g0 reads 0 there and branches, as R254 leaves it
(log 36). -/
theorem jumpsMoveThePc : Obligations.Jumps_Move_The_Pc := by
  unfold Obligations.Jumps_Move_The_Pc
  intro c a far off s awake
  exact ⟨jmp_does awake far, jmpr_does awake, call_does awake far, loop_does awake off⟩

end Sys2Proof.Proofs
end

section
namespace Sys2Proof.Machine

/-! ### Special registers -/

section
variable {c : EngAt} {d a : Fin 32} {sp : Fin 16} {s : State}

theorem specialReg_start (c : EngAt) (n k i : Nat) (s : State) : specialReg c n i (atLane c.lane k (clearReports s)) = specialReg c n i s := by
  have ctx : engCtx (atLane c.lane k (clearReports s)) c.eng.val c.lane = engCtx s c.eng.val c.lane := sameContext_start c k s
  have eng : engSt (atLane c.lane k (clearReports s)) c.eng.val = engSt s c.eng.val := engSt_atLane ..
  obtain ⟨x, hx, tick⟩ := atLane_parts c.lane k (clearReports s)
  have gen : getW CMN.GEN_SWAP_GEN (engPg c.eng.val) 0 (atLane c.lane k (clearReports s)) = getW CMN.GEN_SWAP_GEN (engPg c.eng.val) 0 s := by
    rw [hx]; rfl
  have time : (atLane c.lane k (clearReports s)).time.tick = s.time.tick := by rw [hx]; exact tick
  unfold specialReg
  simp only [ctx, eng, gen, time]

/-- The special registers as their table lists them (R258). -/
theorem specialReg_eq (c : EngAt) (n i : Nat) (s : State) : specialReg c n i s = match i with
    | 0 => s.time.tick % 4294967296
    | 1 => lanePhase c.lane n
    | 2 => n
    | 3 => (engCtx s c.eng.val c.lane).pcond
    | 4 => (engCtx s c.eng.val c.lane).sage
    | 5 => (engCtx s c.eng.val c.lane).sstat
    | 6 => (engCtx s c.eng.val c.lane).fstat
    | 7 => if c.lane = .deadline then 1 else 0
    | 8 => c.eng.val
    | 9 => getW CMN.GEN_SWAP_GEN (engPg c.eng.val) 0 s
    | 10 => if (engSt s c.eng.val).prob.isSome then 1 else 0
    | 11 => (engSt s c.eng.val).posts.length + (engSt s c.eng.val).outs.length
    | _ => 0 := by
  unfold specialReg
  cases c.lane
  · rfl
  · rfl

theorem srr_does (awake : Awake s) :
    IntDoes c d s (.engSrr c d sp) (formX maskXds (encX 2 d.val 0 sp.val) [] [d.val] 1)
      (ofN (specialReg c (startCycle (engCtx s c.eng.val c.lane) (formX maskXds (encX 2 d.val 0 sp.val) [] [d.val] 1)) sp.val s)) :=
  int_of _ awake rfl fun ex => intResult_of ex (by simp only [specialReg_start]; rfl)

/-- SRW of FSTAT (R258). -/
theorem srw_fstat_does (awake : Awake s) (h : sp = 6) (ex : Executes c (formX maskXas (encX 3 0 a.val sp.val) [a.val] [] 1) s) :
    ∃ t, exec (.engSrw c a sp) s = .next t
      ∧ Stepped c (formX maskXas (encX 3 0 a.val sp.val) [a.val] [] 1) (pcMod ((engCtx s c.eng.val c.lane).pc + 1)) [] s t
      ∧ (engCtx t c.eng.val c.lane).fstat = (gOf c a s).toNat % 32
      ∧ (∀ r, getG t c.eng.val c.lane r = getG s c.eng.val c.lane r) ∧ KeepsConditions c s t := by
  obtain ⟨t, e, step, le⟩ := instr_go (i := .engSrw c a sp) (ps := []) (f := fun _ s => writeSpecial c a sp s) awake (by decide) rfl rfl
    (if_pos h) (.putCtx _ _ _ _ _ rfl) ex
  have ctx := sameContext_start c (startCycle (engCtx s c.eng.val c.lane) (formX maskXas (encX 3 0 a.val sp.val) [a.val] [] 1)) s
  refine ⟨t, e, step, ?_, fun r => getG_congr ?_ r, ?_, ?_, ?_⟩
  · rw [le.fstat, engCtx_putCtx, ctx.gOf]
  · rw [le.regs, engCtx_putCtx, ctx]
  · rw [le.pcond, engCtx_putCtx, ctx]
  · rw [le.sage, engCtx_putCtx, ctx]
  · rw [le.sstat, engCtx_putCtx, ctx]

theorem srw_traps (awake : Awake s) (h : sp ≠ 6) (ex : Executes c (formX maskXas (encX 3 0 a.val sp.val) [a.val] [] 1) s) :
    ∃ t, exec (.engSrw c a sp) s = .next t ∧ Trapped c 1 s t :=
  instr_trap (i := .engSrw c a sp) (f := fun _ s => writeSpecial c a sp s) awake (by decide) (.inl rfl) rfl (if_neg h) ex

end

/-! ### Sources -/

theorem readSrc_start (l : Lane) (n w : Nat) (s : State) : readSrc w (atLane l n (clearReports s)) = readSrc w s := by
  obtain ⟨x, hx, tick⟩ := atLane_parts l n (clearReports s)
  have same : x.tick = s.time.tick := tick
  rw [hx]
  unfold readSrc recOk recCrcNow recStamp moiOk moiCrcNow moiStamp age16 ageOf
  simp only [same]
  rfl

/-- Whether an operation reaches nothing but the readers' marks and the message of a mark. -/
def Marks (s t : State) : Prop := ∃ x y f, t = { s with sns := x, moi := y, flt := f }

/-- A reader's check marks the record and sends its message; no register changes (R111, R164). -/
theorem marks_verifySrc (w : Nat) (s : State) : Marks s (verifySrc w s) := by
  have same : Marks s s := ⟨s.sns, s.moi, s.flt, rfl⟩
  have record (loc : Nat) : Marks s (verifyRec loc s) := by
    unfold verifyRec
    simp only
    split
    · exact same
    · exact ⟨_, _, _, rfl⟩
  have moi (m : Nat) : Marks s (verifyMoi m s) := by
    unfold verifyMoi
    simp only
    split
    · exact same
    · exact ⟨_, _, _, rfl⟩
  unfold verifySrc
  split
  · exact record _
  · split
    · exact moi _
    · exact same

section
variable {c : EngAt} {d : Fin 32} {w : Nat} {s t : State}

theorem sameContext_verifySrc (h : SameContext c s t) : SameContext c s (verifySrc w t) := by
  obtain ⟨x, y, f, e⟩ := marks_verifySrc w t
  rw [e]; exact h

theorem verifySrc_local (e : Nat) (l : Lane) (w : Nat) (s : State) : Local e l [.sns, .moi] s (verifySrc w s) := by
  obtain ⟨x, y, f, h⟩ := marks_verifySrc w s
  rw [h]
  exact ⟨rfl, fun _ _ => rfl, fun _ _ => rfl, fun _ _ _ => rfl,
    fun p hp => by cases p <;> first | exact rfl | exact ⟨rfl, rfl, rfl⟩ | exact absurd (by simp) hp, ⟨rfl, rfl⟩⟩

theorem sourceResult_local (c : EngAt) (d : Fin 32) (v : Word) (res : Nat) (stale : Bool) (age stat : Nat) (s : State) :
    Local c.eng.val c.lane [.sns, .moi] s (sourceResult c d v res stale age stat s) :=
  ((Local.gPut ..).trans (.putPcond ..)).trans (.putCtx _ _ _ _ _ rfl)

/-- What a source read reads of `w`: value, RES, STALE, SAGE and SSTAT, and whether it reports the record (R267, R268, R270). -/
theorem readSource_cases (c : EngAt) (d : Fin 32) (w : Nat) (s : State) :
    (srcValid w none false = false ∧ readSource c d w s = sourceResult c d 0 3 true 0xFFFF 0 s)
    ∨ (srcValid w none false = true ∧ (readSrc w s).ok = true ∧ readSource c d w s = sourceResult c d (readSrc w s).value 0 (readSrc w s).stale
        (readSrc w s).age (if w / 4096 = 1 ∨ w / 4096 = 2 then (readSrc w s).status else 0) s)
    ∨ (srcValid w none false = true ∧ (readSrc w s).ok = false ∧ readSource c d w s = sourceResult c d 0 6 true (readSrc w s).age
        (if w / 4096 = 1 ∨ w / 4096 = 2 then (readSrc w s).status else 0) (verifySrc w s)) := by
  unfold readSource
  cases valid : srcValid w none false with
  | false => exact .inl ⟨rfl, rfl⟩
  | true =>
    cases ok : (readSrc w s).ok with
    | true => exact .inr (.inl ⟨rfl, rfl, by simp [ok]⟩)
    | false => exact .inr (.inr ⟨rfl, rfl, by simp [ok]⟩)

/-- A source read of `w` by an instruction of form `m`. -/
theorem source_does {m : EngForm} {i : Instr} {op : State → State} {f : Nat → State → EngOut} (awake : Awake s)
    (e : exec i s = .next (finish (reach [.regs, .time, .flt, .recd, .sns, .moi, .eng] op) s))
    (run : op (clearReports s) = engRun c m f (clearReports s))
    (reads : f (startCycle (engCtx s c.eng.val c.lane) m) (atLane c.lane (startCycle (engCtx s c.eng.val c.lane) m) (clearReports s))
      = .go (readSource c d w (atLane c.lane (startCycle (engCtx s c.eng.val c.lane) m) (clearReports s)))) (ex : Executes c m s) :
    ∃ t, exec i s = .next t
      ∧ (srcValid w none false = false → SourceResult c m d 0 19 0xFFFF 0 s t)
      ∧ (srcValid w none false = true → (readSrc w s).ok = true → SourceResult c m d (readSrc w s).value
          (if (readSrc w s).stale then 16 else 0) (readSrc w s).age (if w / 4096 = 1 ∨ w / 4096 = 2 then (readSrc w s).status else 0) s t)
      ∧ (srcValid w none false = true → (readSrc w s).ok = false → SourceResult c m d 0 22 (readSrc w s).age
          (if w / 4096 = 1 ∨ w / 4096 = 2 then (readSrc w s).status else 0) s t) := by
  have ctx := sameContext_start c (startCycle (engCtx s c.eng.val c.lane) m) s
  have read := readSrc_start c.lane (startCycle (engCtx s c.eng.val c.lane) m) w s
  rcases readSource_cases c d w (atLane c.lane (startCycle (engCtx s c.eng.val c.lane) m) (clearReports s)) with
    ⟨valid, does⟩ | ⟨valid, ok, does⟩ | ⟨valid, ok, does⟩
  · obtain ⟨t, next, step, le⟩ := instr_go awake (by decide) e run (reads.trans (by rw [does])) (sourceResult_local ..) ex
    exact ⟨t, next, fun _ => ctx.sourceResult step le, by simp [valid], by simp [valid]⟩
  · rw [read] at ok does
    obtain ⟨t, next, step, le⟩ := instr_go awake (by decide) e run (reads.trans (by rw [does])) (sourceResult_local ..) ex
    refine ⟨t, next, by simp [valid], fun _ _ => ?_, by simp [ok]⟩
    have r := ctx.sourceResult step le
    have cond : 0 + 16 * b2n (readSrc w s).stale = if (readSrc w s).stale then 16 else 0 := by cases (readSrc w s).stale <;> rfl
    rwa [cond] at r
  · rw [read] at ok does
    obtain ⟨t, next, step, le⟩ := instr_go awake (by decide) e run (reads.trans (by rw [does]))
      ((verifySrc_local ..).trans (sourceResult_local ..)) ex
    exact ⟨t, next, by simp [valid], by simp [ok], fun _ _ => (sameContext_verifySrc ctx).sourceResult step le⟩

end

/-! ### Posted writes and the staging copy -/


end Sys2Proof.Machine

namespace Sys2Proof.Proofs
open Sys2Proof Sys2Proof.Machine

/-- Settles O7: a special register is read of the state before the instruction, or of the cycle in which it starts (log 35). -/
theorem specialRegistersReadAndWrite : Obligations.Special_Registers_Read_And_Write := by
  unfold Obligations.Special_Registers_Read_And_Write
  intro c d a sp s awake x srr srw value
  have reads : value = specialReg c (startCycle x srr) sp.val s := (specialReg_eq ..).symm
  rw [reads]
  exact ⟨srr_does awake, srw_fstat_does awake, srw_traps awake⟩

/-- Settles O9: a source is read as it stands before the instruction. -/
theorem sourceReadsGiveValueAndCondition : Obligations.Source_Reads_Give_Value_And_Condition := by
  unfold Obligations.Source_Reads_Give_Value_And_Condition
  intro c d a src s awake srd srdr does
  exact ⟨source_does (i := .engSrd c d src) (f := fun _ s => .go (readSource c d src.toNat s)) awake rfl rfl rfl,
    source_does (i := .engSrdr c d a) (f := fun _ s => .go (readSource c d ((gOf c a s).toNat % 65536) s)) awake rfl rfl (by rw [gOf_atLane]; rfl)⟩

end Sys2Proof.Proofs
end

section
namespace Sys2Proof.Machine

/-! ### Posted writes and the staging copy -/

section
variable {c : EngAt} {d a : Fin 32} {imm : BitVec 16} {r : Nat} {s w t : State}

/-- The engine's queues after an operation that sets PCOND at its end. -/
theorem Left.queues (le : Left c (putPcond c r false w) t) :
    (engSt t c.eng.val).posts = (engSt w c.eng.val).posts ∧ (engSt t c.eng.val).outs = (engSt w c.eng.val).outs := by
  obtain ⟨posts, outs, -⟩ := putCtx_shared c.eng.val c.lane { engCtx w c.eng.val c.lane with pcond := r + 16 * b2n false } w
  exact ⟨le.posts.trans posts, le.outs.trans outs⟩

theorem portAddr_start (c : EngAt) (a : Fin 32) (imm : BitVec 16) (n : Nat) (s : State) :
    portAddr c a imm (atLane c.lane n (clearReports s)) = portAddr c a imm s := by
  rw [portAddr, gOf_atLane]; rfl

/-- The form of PST (R260). -/
def pstForm (d a : Fin 32) (imm : BitVec 16) : EngForm := ⟨⟨maskAll, encI 10 2 d.val a.val imm.toNat⟩, [a.val, d.val], [], 4, 4, false, false⟩

/-- What PST does before it sets PCOND: with RES 0 the write is queued (R269). -/
def postQueued (c : EngAt) (d a : Fin 32) (imm : BitVec 16) (r : Nat) (s : State) : State :=
  if r = 0 then putEng c.eng.val { engSt s c.eng.val with
    posts := (engSt s c.eng.val).posts ++ [⟨portAddr c a imm s, gOf c d s, false⟩] } s
  else s

/-- RES of PST (R269). -/
def postRes (c : EngAt) (a : Fin 32) (imm : BitVec 16) (s : State) : Nat :=
  if portBad c.eng.val (portAddr c a imm s) = true ∨ bridged (portAddr c a imm s) = false then 3
  else if 16 ≤ (engSt s c.eng.val).posts.length + (engSt s c.eng.val).outs.length then 5
  else 0

theorem runPst_eq (c : EngAt) (d a : Fin 32) (imm : BitVec 16) (s : State) : runPst c d a imm s = engRun c (pstForm d a imm)
    (fun _ s => .go (putPcond c (postRes c a imm s) false (postQueued c d a imm (postRes c a imm s) s))) s := by
  unfold runPst
  congr 1
  funext n s
  unfold postQueued postRes
  by_cases bad : portBad c.eng.val (portAddr c a imm s) = true ∨ bridged (portAddr c a imm s) = false
  · have h : (portBad c.eng.val (portAddr c a imm s) || !bridged (portAddr c a imm s)) = true := by simpa using bad
    simp [h, bad]
  · have h : (portBad c.eng.val (portAddr c a imm s) || !bridged (portAddr c a imm s)) = false := by simpa using bad
    by_cases full : 16 ≤ (engSt s c.eng.val).posts.length + (engSt s c.eng.val).outs.length
    · simp [h, bad, full]
    · simp [h, bad, full]

theorem postQueued_local (c : EngAt) (d a : Fin 32) (imm : BitVec 16) (r : Nat) (s : State) :
    Local c.eng.val c.lane [] s (postQueued c d a imm r s) := by
  unfold postQueued
  split
  · exact .shared _ _ _ _ _ ⟨rfl, rfl⟩
  · exact .refl ..

theorem sameContext_postQueued (h : SameContext c s w) : SameContext c s (postQueued c d a imm r w) := by
  unfold postQueued
  split
  · exact sameContext_putEng h ⟨rfl, rfl⟩
  · exact h

theorem postQueued_queues (c : EngAt) (d a : Fin 32) (imm : BitVec 16) (r : Nat) (s : State) :
    (engSt (postQueued c d a imm r s) c.eng.val).posts
        = (engSt s c.eng.val).posts ++ (if r = 0 then [⟨portAddr c a imm s, gOf c d s, false⟩] else [])
      ∧ (engSt (postQueued c d a imm r s) c.eng.val).outs = (engSt s c.eng.val).outs := by
  unfold postQueued
  split
  · simp only [engSt_putEng, and_self]
  · simp only [List.append_nil, and_self]

/-- PST sets PCOND to RES and queues its write where that is 0 (R269). -/
theorem pst_does (awake : Awake s) (ex : Executes c (pstForm d a imm) s) : ∃ t, exec (.engPst c d a imm) s = .next t
    ∧ (∀ r, getG t c.eng.val c.lane r = getG s c.eng.val c.lane r) ∧ (engSt t c.eng.val).outs = (engSt s c.eng.val).outs
    ∧ PortResult c (pstForm d a imm) [] (postRes c a imm s) s t
    ∧ (engSt t c.eng.val).posts = (engSt s c.eng.val).posts
      ++ if postRes c a imm s = 0 then [⟨portAddr c a imm s, gOf c d s, false⟩] else [] := by
  have eng : engSt (atLane c.lane (startCycle (engCtx s c.eng.val c.lane) (pstForm d a imm)) (clearReports s)) c.eng.val = engSt s c.eng.val :=
    engSt_atLane ..
  have res : postRes c a imm (atLane c.lane (startCycle (engCtx s c.eng.val c.lane) (pstForm d a imm)) (clearReports s)) = postRes c a imm s := by
    unfold postRes; rw [portAddr_start, eng]
  obtain ⟨t, next, step, le⟩ := instr_go (i := .engPst c d a imm) (ps := []) awake (by decide) rfl (runPst_eq ..)
    (by rw [res]) ((postQueued_local ..).trans (.putPcond ..)) ex
  obtain ⟨port, regs⟩ := (sameContext_postQueued (sameContext_start ..)).portResult step le
  obtain ⟨posts, outs⟩ := le.queues
  obtain ⟨queued, others⟩ := postQueued_queues c d a imm (postRes c a imm s)
    (atLane c.lane (startCycle (engCtx s c.eng.val c.lane) (pstForm d a imm)) (clearReports s))
  rw [eng, portAddr_start, gOf_atLane] at queued
  rw [eng] at others
  exact ⟨t, next, regs, outs.trans others, port, posts.trans queued⟩

/-- The oldest outcome taken off the engine's queue. -/
def outTaken (c : EngAt) (s : State) : State := putEng c.eng.val { engSt s c.eng.val with outs := (engSt s c.eng.val).outs.tail } s

theorem popOutcome_eq (c : EngAt) (d : Fin 32) (s : State) : popOutcome c d s = gPut c d ((engSt s c.eng.val).outs.headD 0) (outTaken c s) := rfl

theorem popOutcome_local (c : EngAt) (d : Fin 32) (s : State) : Local c.eng.val c.lane [] s (popOutcome c d s) :=
  have taken : Local c.eng.val c.lane [] s (outTaken c s) := .shared _ _ _ _ _ ⟨rfl, rfl⟩
  taken.trans (.gPut ..)

theorem popOutcome_queues (c : EngAt) (d : Fin 32) (s : State) : (engSt (popOutcome c d s) c.eng.val).outs = (engSt s c.eng.val).outs.tail
    ∧ (engSt (popOutcome c d s) c.eng.val).posts = (engSt s c.eng.val).posts := by
  obtain ⟨posts, outs⟩ := gPut_shared c d ((engSt s c.eng.val).outs.headD 0)
    (outTaken c s)
  rw [outTaken, engSt_putEng] at posts outs
  exact ⟨outs, posts⟩

/-- POP takes the oldest outcome off the queue (R269). -/
theorem pop_does (awake : Awake s) (ex : Executes c (formX maskXd (encX 5 d.val 0 0) [] [d.val] 1) s) :
    ∃ t, exec (.engPop c d) s = .next t
      ∧ IntResult c (formX maskXd (encX 5 d.val 0 0) [] [d.val] 1) d ((engSt s c.eng.val).outs.headD 0) s t
      ∧ (engSt t c.eng.val).outs = (engSt s c.eng.val).outs.tail ∧ (engSt t c.eng.val).posts = (engSt s c.eng.val).posts := by
  obtain ⟨t, next, step, le⟩ := instr_go (i := .engPop c d) (ps := []) (f := fun _ s => .go (popOutcome c d s)) awake (by decide) rfl rfl rfl
    (popOutcome_local ..) ex
  obtain ⟨outs, posts⟩ := popOutcome_queues c d
    (atLane c.lane (startCycle (engCtx s c.eng.val c.lane) (formX maskXd (encX 5 d.val 0 0) [] [d.val] 1)) (clearReports s))
  have ctx : SameContext c s (outTaken c (atLane c.lane (startCycle (engCtx s c.eng.val c.lane)
    (formX maskXd (encX 5 d.val 0 0) [] [d.val] 1)) (clearReports s))) := sameContext_putEng (sameContext_start ..) ⟨rfl, rfl⟩
  have result := ctx.intResult step le
  rw [engSt_atLane] at result outs posts
  exact ⟨t, next, result, le.outs.trans outs, le.posts.trans posts⟩

/-- NOP leaves the engine as it is but for the context's pc and cycles (R260). -/
theorem nop_does (awake : Awake s) (ex : Executes c (formX maskX (encX 0 0 0 0) [] [] 1) s) : ∃ t, exec (.engNop c) s = .next t
    ∧ FlowResult c (formX maskX (encX 0 0 0 0) [] [] 1) (pcMod ((engCtx s c.eng.val c.lane).pc + 1)) [] s t
    ∧ (engSt t c.eng.val).staging = (engSt s c.eng.val).staging := by
  obtain ⟨t, next, step, le⟩ := instr_go (i := .engNop c) (ps := []) (f := fun _ s => .go s) awake (by decide) rfl rfl rfl (.refl ..) ex
  exact ⟨t, next, flow_left step le, (le.trans (atLane_left ..)).staging⟩

/-- PUB sets its word of the staging copy (R271). -/
theorem pub_does (awake : Awake s) (k : Fin 16) (ex : Executes c ⟨⟨maskAll, encI 11 2 d.val 0 k.val⟩, [d.val], [], 1, 1, false, false⟩ s) :
    ∃ t, exec (.engPub c d k) s = .next t
      ∧ FlowResult c ⟨⟨maskAll, encI 11 2 d.val 0 k.val⟩, [d.val], [], 1, 1, false, false⟩ (pcMod ((engCtx s c.eng.val c.lane).pc + 1)) [] s t
      ∧ (engSt t c.eng.val).staging = tabSet (fun _ => (0 : Word)) (engSt s c.eng.val).staging k.val (gOf c d s) := by
  obtain ⟨t, next, step, le⟩ := instr_go (i := .engPub c d k) (ps := []) (f := fun _ s => .go (putStaging c k (gOf c d s) s)) awake (by decide) rfl rfl
    rfl (.shared _ _ _ _ _ ⟨rfl, rfl⟩) ex
  obtain ⟨⟨regs, flags, conds⟩, -, -, staging⟩ := left_shared le (by cases c.lane <;> rfl)
  refine ⟨t, next, ⟨step, regs, flags, conds⟩, staging.trans ?_⟩
  rw [gOf_atLane, engSt_atLane]
  rfl

end

end Sys2Proof.Machine

namespace Sys2Proof.Proofs
open Sys2Proof Sys2Proof.Machine

/-- Settles O11: RES decides whether PST queues its write; POP takes an outcome off the queue before it writes `d`. -/
theorem postedWritesAreQueued : Obligations.Posted_Writes_Are_Queued := by
  unfold Obligations.Posted_Writes_Are_Queued
  intro c d a imm s awake addr x pst pop
  refine ⟨fun ex => ?_, pop_does awake⟩
  obtain ⟨t, next, regs, outs, port, posts⟩ := pst_does awake ex
  have sound (good : portBad c.eng.val addr = false) (bridge : bridged addr = true) :
      ¬ (portBad c.eng.val addr = true ∨ bridged addr = false) := by simp [good, bridge]
  refine ⟨t, next, regs, outs, fun bad => ?_, fun good bridge full => ?_, fun good bridge room => ?_⟩
  · have res : postRes c a imm s = 3 := if_pos bad
    rw [res] at port posts
    exact ⟨port, posts.trans (List.append_nil _)⟩
  · have res : postRes c a imm s = 5 := (if_neg (sound good bridge)).trans (if_pos full)
    rw [res] at port posts
    exact ⟨port, posts.trans (List.append_nil _)⟩
  · have res : postRes c a imm s = 0 := (if_neg (sound good bridge)).trans (if_neg (not_le.2 room))
    rw [res] at port posts
    exact ⟨port, posts⟩

/-- Settles O12: NOP and PUB leave the context's registers, flags and conditions; PUB sets one word of the staging copy. -/
theorem pubWritesTheStagingCopy : Obligations.Pub_Writes_The_Staging_Copy := by
  unfold Obligations.Pub_Writes_The_Staging_Copy
  intro c d k s awake nop pub word
  refine ⟨fun ex => ?_, fun ex => ?_⟩
  · obtain ⟨t, next, flow, staging⟩ := nop_does awake ex
    exact ⟨t, next, flow, fun j => congrArg (tabGet _ · j) staging⟩
  · obtain ⟨t, next, flow, staging⟩ := pub_does awake k ex
    refine ⟨t, next, flow, fun j => (congrArg (tabGet _ · j) staging).trans ?_⟩
    rw [tabGet_set]
    simp only [eq_comm, word]

end Sys2Proof.Proofs
end

section
/-!
PROOFS. Two statements about the control engines fail: a state each in which the instruction runs and the statement's end does not hold. A
write through the port may draw a free value, which no part that the statement lists (`written`) holds; the history keeps the last
32 messages, so one that shares its cycle with 32 others and another may leave it again.
-/
namespace Sys2Proof.Machine

/-! ### What a concrete instruction leaves -/

/-- The state that a command leaves; the state itself where the command has no effect. -/
def leftBy (i : Instr) (s : State) : State :=
  match exec i s with
  | .next t => t
  | _ => s

theorem leftBy_of_next {i : Instr} {s t : State} (h : exec i s = .next t) : leftBy i s = t := by rw [leftBy, h]

/-- The background lane of engine 15, its memories sound. -/
def lane15 : EngAt := ⟨15, .background, .corrected 0⟩

/-- The device right after reset, but that the background context of engine 15 runs and is at word index 5, where `w` stands. -/
def engineAt (w : Nat) (x : EngCtx) : State :=
  let s := putCtx lane15.eng.val lane15.lane { x with pc := 5, act := true, pass := true } State.reset
  wrWord s (runBank lane15.eng.val s + 20) (ofN w)

/-! ### A port write that draws a free value -/

/-- Engine 15 is about to write 3, BATCH_END, to COL0_CMD of the ledger (PWR of g2 to the address in g1); it owns column 0, which is in
layer mode. -/
def batchEndAhead : State :=
  setFF LDG.COL_CTRL_OWNER ldgPg 0 (Party.eng lane15.eng).code (setFF LDG.COL_CTRL_MODE ldgPg 0 2
    (engineAt (encI 10 1 2 1 0) { EngCtx.idle with regs := [(1, ofN (pageAddr ldgPg 0x104)), (2, 3)] }))

theorem batchEndAhead_awake : Awake batchEndAhead := ⟨rfl, by change bitAt 0 4 = false; decide⟩

theorem batchEndAhead_executes : Executes lane15 (formPort lane15 1 2 1 0 [1, 2] [] 0 batchEndAhead) batchEndAhead :=
  ⟨rfl, by decide +kernel, by decide, by decide +kernel, by decide +kernel⟩

/-- The BATCH record is handed over, with a free value for the words that no layer gives (R251). -/
theorem batchEndAhead_draws : (leftBy (.engPwr lane15 2 1 0 0 []) batchEndAhead).fresh = 1 := by decide +kernel

/-! ### A message that leaves the history in its own cycle -/

/-- The form of UFLT of g0 (R260). -/
def ufltForm : EngForm := formX maskXa (encX 6 0 0 0) [0] [] 2

/-- Engine 15 is about to execute UFLT of g0 in the last two cycles of its lane. In the cycle of that instruction 32 messages of severity 0
have reached the history, and the recorder's queue is full. -/
def crowdedCycle : State :=
  let s := engineAt ufltForm.row.pat { EngCtx.idle with used := laneLen State.reset .background - 2 }
  { s with
    flt := { s.flt with hist := List.replicate 32 ⟨0, 0, 0, 0x3FFF, 0xFF, 0, 0, 0⟩ }
    recd := { s.recd with queue := List.replicate 64 ⟨2, 0, 0, [], 0, 0, 0⟩ }
    cyc := { Cycle.empty (cycleNow (atLane .background (laneLen State.reset .background - 2) s)) with sent := List.replicate 32 0x3F } }

theorem crowdedCycle_awake : Awake crowdedCycle := ⟨rfl, by change bitAt 0 4 = false; decide⟩

theorem crowdedCycle_executes : Executes lane15 ufltForm crowdedCycle :=
  ⟨rfl, by decide +kernel, by decide, by decide +kernel, by decide +kernel⟩

/-- The message of UFLT has the lowest source of its group (R360), so it stands as the oldest that the history holds; that the recorder
dropped a record is one message more (R383). -/
theorem crowdedCycle_forgets : ∀ h ∈ (leftBy (.engUflt lane15 0) crowdedCycle).flt.hist, h.src ≠ engPg 15 * 256 + 0xFF := by decide +kernel

end Sys2Proof.Machine

namespace Sys2Proof.Proofs
open Sys2Proof Sys2Proof.Machine

/-- Refutes O10: BATCH_END through the port draws a free value, which the statement would have unchanged. -/
theorem not_portAccessesSetTheCondition : ¬ Obligations.Port_Accesses_Set_The_Condition := by
  unfold Obligations.Port_Accesses_Set_The_Condition
  intro h
  obtain ⟨-, pwr⟩ := h lane15 2 1 0 0 [] batchEndAhead batchEndAhead_awake
  obtain ⟨t, next, -, good⟩ := pwr batchEndAhead_executes (fun _ => by decide +kernel)
  obtain ⟨ported, -⟩ := good (by decide +kernel)
  have kept : t.fresh = batchEndAhead.fresh := ported.rest .fresh (by decide)
  rw [← leftBy_of_next next, batchEndAhead_draws] at kept
  exact absurd kept (by decide +kernel)

/-- Refutes O13: UFLT sends its message, the collector takes it and the history drops it again, all in the cycle of the instruction. -/
theorem not_systemInstructionsActOnTheEngine : ¬ Obligations.System_Instructions_Act_On_The_Engine := by
  unfold Obligations.System_Instructions_Act_On_The_Engine
  intro h
  obtain ⟨-, -, uflt⟩ := h lane15 0 crowdedCycle crowdedCycle_awake
  obtain ⟨t, next, -, told⟩ := uflt crowdedCycle_executes
  obtain ⟨e, he, src, -⟩ := told rfl
  rw [← leftBy_of_next next] at he
  exact crowdedCycle_forgets e he src

end Sys2Proof.Proofs
end

section
/-!
PROOFS. The lanes of all engines (R256, R272): each is one engine's work after another, of which an engine sees only its own
(`SimE` of `Laws/Cutoff.lean`).
-/
namespace Sys2Proof.Machine

/-! ### One engine after another -/

/-- What an operation over all engines does to one of them, which has seen nothing of those before it. -/
theorem forN_engine {f : Nat → State → State} (hf : ∀ i e s, i ≠ e → i < 16 → SimE e s (f i s)) (e : Fin 16) (s : State) :
    ∃ u, SimE e.val s u ∧ SimE e.val (f e.val u) (forN 16 f s) := by
  have below (s : State) : forN 16 f s = forN 16 (fun i a => if i < 16 then f i a else a) s :=
    List.foldl_ext _ _ _ fun a i hi => (if_pos (List.mem_range.1 hi)).symm
  obtain ⟨u, seen, own⟩ := forN_visit (f := fun i a => if i < 16 then f i a else a) (Sim := SimE e.val) 16 e.val e.isLt (.refl _)
    (fun _ _ _ h g => h.trans _ _ _ g) (fun i s hi => by
      split
      · next small => exact hf i e.val s hi small
      · exact .refl ..) s
  simp only [e.isLt, if_true] at own
  exact ⟨u, seen, (below s).symm ▸ own⟩

theorem SimE.clearReports (e : Nat) (s : State) : SimE e s (clearReports s) := ⟨rfl, fun _ _ _ => rfl, rfl, rfl⟩

/-- One engine at the start of the deadline lane (R256). -/
def laneStart (e : Nat) (s : State) : State :=
  if dlDue s e && !(engSt s e).started then fetchCheck e .deadline (startDeadline e s) else s

/-- One engine at the start of a tick (R256). -/
def laneResume (e : Nat) (s : State) : State :=
  if bgDue s e && !(engCtx s e .background).act then fetchCheck e .background (resumeBackground e s) else s

theorem laneStart_sim {i e : Nat} (h : i ≠ e) (s : State) : SimE e s (laneStart i s) := by
  unfold laneStart
  split
  · exact .trans _ _ _ ((OnEng.startDeadline i s).sim h) ((fetchCheck_fetched i .deadline _).sim h)
  · exact .refl e s

theorem laneResume_sim {i e : Nat} (h : i ≠ e) (s : State) : SimE e s (laneResume i s) := by
  unfold laneResume
  split
  · exact .trans _ _ _ ((OnEng.resumeBackground i s).sim h) ((fetchCheck_fetched i .background _).sim h)
  · exact .refl e s

section
variable {e : Nat} {s : State}

/-- A deadline context that has started, after its first fetch. -/
theorem Fetched.ofDeadline {t u : State} {n : Nat} (h : Fetched e .deadline t u) (starts : engSt t e = { engSt s e with
      started := true, dl := { (engSt s e).dl with pc := n, act := true, pass := true, used := 0, flight := [] } }) :
    (engSt u e).bg = (engSt s e).bg ∧ (engSt u e).dl.pc = n ∧ (engSt u e).dl.used = 0 ∧ (engSt u e).dl.regs = (engSt s e).dl.regs :=
  ⟨(h.lane .background (by decide)).trans (by simp only [engCtx, starts, ctxOf]), h.pc.trans (by simp only [engCtx, starts, ctxOf]), h.used.trans (by simp only [engCtx, starts, ctxOf]),
    h.gregs.trans (by simp only [engCtx, starts, ctxOf])⟩

/-- A background context that has resumed, after its first fetch. -/
theorem Fetched.ofBackground {t u : State} {n : Nat} (h : Fetched e .background t u) (resumes : engSt t e = { engSt s e with
      bg := { (engSt s e).bg with pc := n, act := true, pass := true, used := 0, flight := [] } }) :
    (engSt u e).dl = (engSt s e).dl ∧ (engSt u e).bg.used = 0 ∧ (engSt u e).bg.regs = (engSt s e).bg.regs ∧ (engSt u e).bg.pc = n :=
  ⟨(h.lane .deadline (by decide)).trans (by simp only [engCtx, resumes, ctxOf]), h.used.trans (by simp only [engCtx, resumes, ctxOf]),
    h.gregs.trans (by simp only [engCtx, resumes, ctxOf]), h.pc.trans (by simp only [engCtx, resumes, ctxOf])⟩

theorem laneStart_due (due : dlDue s e = true) (fresh : (engSt s e).started = false) :
    (engSt (laneStart e s) e).bg = (engSt s e).bg ∧ (engSt (laneStart e s) e).started = true
      ∧ (engSt (laneStart e s) e).dl.pc = imgDl (runBank e s) s ∧ (engSt (laneStart e s) e).dl.used = 0
      ∧ (engSt (laneStart e s) e).dl.regs = (engSt s e).dl.regs := by
  have does : laneStart e s = fetchCheck e .deadline (startDeadline e s) := if_pos (by simp [due, fresh])
  obtain ⟨bg, pc, used, regs⟩ := (fetchCheck_fetched e .deadline (startDeadline e s)).ofDeadline (startDeadline_eng due fresh)
  rw [does]
  exact ⟨bg, by rw [fetchCheck_started, startDeadline_eng due fresh], pc, used, regs⟩

theorem laneStart_idle (h : dlDue s e = false ∨ (engSt s e).started = true) : laneStart e s = s := by
  rw [laneStart, if_neg]
  rcases h with off | started
  · simp [off]
  · simp [started]

theorem laneResume_due (due : bgDue s e = true) (rests : (engSt s e).bg.act = false) :
    (engSt (laneResume e s) e).dl = (engSt s e).dl ∧ (engSt (laneResume e s) e).bg.used = 0
      ∧ (engSt (laneResume e s) e).bg.regs = (engSt s e).bg.regs
      ∧ (engSt (laneResume e s) e).bg.pc = if (engSt s e).bg.pass then (engSt s e).bg.pc else imgBg (runBank e s) s := by
  have act : (engCtx s e .background).act = false := rests
  have does : laneResume e s = fetchCheck e .background (resumeBackground e s) := if_pos (by simp [due, act])
  rw [does]
  exact (fetchCheck_fetched e .background (resumeBackground e s)).ofBackground (resumeBackground_eng due)

theorem laneResume_idle (h : bgDue s e = false ∨ (engSt s e).bg.act = true) : laneResume e s = s := by
  rw [laneResume, if_neg]
  rcases h with off | runs
  · simp [off]
  · have act : (engCtx s e .background).act = true := runs
    simp [act]

end

/-! ### The lanes' commands -/

section
variable {e : Fin 16} {s : State}

theorem deadlineLaneStart_does (awake : Awake s) : ∃ t, exec .deadlineLaneStart s = .next t ∧ (engSt t e.val).bg = (engSt s e.val).bg
    ∧ (dlDue s e.val = true → (engSt s e.val).started = false → (engSt t e.val).started = true
      ∧ (engSt t e.val).dl.pc = imgDl (runBank e.val s) s ∧ (engSt t e.val).dl.used = 0 ∧ (engSt t e.val).dl.regs = (engSt s e.val).dl.regs)
    ∧ (dlDue s e.val = false ∨ (engSt s e.val).started = true → engSt t e.val = engSt s e.val) := by
  obtain ⟨u, seen, own, -⟩ := forN_engine (fun i e s hi _ => laneStart_sim (i := i) (e := e) hi s) e (atPhase 40 0 (clearReports s))
  have sim : SimE e.val s u := .trans _ _ _ (.clearReports ..) (.trans _ _ _ (.atPhase ..) seen)
  obtain ⟨due, -⟩ := sim.due e.isLt
  obtain ⟨entry, -⟩ := sim.entry
  obtain ⟨same, -⟩ := sim
  have left : engSt (finish (reach [.regs, .time, .flt, .eng] deadlineLaneStart) s) e.val = engSt (laneStart e.val u) e.val :=
    (finish_engs awake (by decide) e.val).trans own
  refine ⟨_, rfl, ?_⟩
  rw [left, ← due, ← same, ← entry]
  by_cases h : dlDue u e.val = false ∨ (engSt u e.val).started = true
  · rw [laneStart_idle h]
    exact ⟨rfl, fun on fresh => by simp [on, fresh] at h, fun _ => rfl⟩
  · rw [not_or, Bool.not_eq_false, Bool.not_eq_true] at h
    obtain ⟨bg, started, pc, used, regs⟩ := laneStart_due h.1 h.2
    exact ⟨bg, fun _ _ => ⟨started, pc, used, regs⟩, fun idle => by simp [h.1, h.2] at idle⟩

theorem deadlineCutoff_does (awake : Awake s) : ∃ t, exec .deadlineCutoff s = .next t ∧ (engSt t e.val).bg = (engSt s e.val).bg
    ∧ (engSt t e.val).dl = { (engSt s e.val).dl with act := false, pass := false }
    ∧ (dlDue s e.val = true → (engSt s e.val).ended = false → getW ENG.DLCYC_LAST (engPg e.val) 0 t = 34000) := by
  obtain ⟨u, seen, own⟩ := forN_engine (fun i e s hi small => SimE.cutoff (i := i) (e := e) hi small s) e (atPhase 124 399 (clearReports s))
  have sim : SimE e.val s u := .trans _ _ _ (.clearReports ..) (.trans _ _ _ (.atPhase ..) seen)
  obtain ⟨due, -⟩ := sim.due e.isLt
  obtain ⟨bg, dl, late⟩ := cutoffEngine_does e.isLt u
  have left : engSt (finish (reach [.regs, .time, .flt, .recd, .pubs, .eng] deadlineCutoff) s) e.val = engSt (cutoffEngine e.val u) e.val :=
    (finish_engs awake (by decide) e.val).trans own.1
  have last : quiet (fldAddr ENG.DLCYC_LAST (engPg e.val) 0) = true := by
    rw [quiet_iff]
    simp only [fldAddr, pageAddr, engPg, ENG.DLCYC_LAST]
    omega
  refine ⟨_, rfl, ?_⟩
  rw [left, getW_congr (finish_reg awake (by decide) last), ← due, ← sim.1]
  exact ⟨bg, dl, fun on open_ => (own.getW ENG.DLCYC_LAST (by decide) e.isLt).trans (late on open_)⟩

theorem backgroundResume_does (awake : Awake s) : ∃ t, exec .backgroundResume s = .next t ∧ (engSt t e.val).dl = (engSt s e.val).dl
    ∧ (s.time.phase < 40 → bgDue s e.val = true → (engSt s e.val).bg.act = false → (engSt t e.val).bg.used = 0
      ∧ (engSt t e.val).bg.regs = (engSt s e.val).bg.regs
      ∧ (engSt t e.val).bg.pc = if (engSt s e.val).bg.pass then (engSt s e.val).bg.pc else imgBg (runBank e.val s) s)
    ∧ (40 ≤ s.time.phase ∨ bgDue s e.val = false ∨ (engSt s e.val).bg.act = true → engSt t e.val = engSt s e.val) := by
  refine ⟨_, rfl, ?_⟩
  rw [finish_engs awake (by decide) e.val]
  by_cases open_ : s.time.phase < 40
  · obtain ⟨u, seen, own, -⟩ := forN_engine (fun i e s hi _ => laneResume_sim (i := i) (e := e) hi s) e (clearReports s)
    have sim : SimE e.val s u := .trans _ _ _ (.clearReports ..) seen
    obtain ⟨-, due⟩ := sim.due e.isLt
    obtain ⟨-, entry⟩ := sim.entry
    obtain ⟨same, -⟩ := sim
    have left : engSt (backgroundResume (clearReports s)) e.val = engSt (laneResume e.val u) e.val :=
      (congrArg (engSt · e.val) (if_pos open_)).trans own
    rw [left, ← due, ← same, ← entry]
    by_cases h : bgDue u e.val = false ∨ (engSt u e.val).bg.act = true
    · rw [laneResume_idle h]
      exact ⟨rfl, fun _ on rests => by simp [on, rests] at h, fun _ => rfl⟩
    · rw [not_or, Bool.not_eq_false, Bool.not_eq_true] at h
      obtain ⟨dl, used, regs, pc⟩ := laneResume_due h.1 h.2
      exact ⟨dl, fun _ _ _ => ⟨used, regs, pc⟩, fun idle => by simp [h.1, h.2, not_le.2 open_] at idle⟩
  · have closed : backgroundResume (clearReports s) = clearReports s := if_neg open_
    rw [closed]
    exact ⟨rfl, fun h => absurd h open_, fun _ => rfl⟩

theorem backgroundSuspend_does (awake : Awake s) : ∃ t, exec .backgroundSuspend s = .next t
    ∧ engSt t e.val = { engSt s e.val with bg := { (engSt s e.val).bg with act := false } } := by
  obtain ⟨u, seen, own, -⟩ := forN_engine (f := fun e a => putEng e { engSt a e with bg := { (engSt a e).bg with act := false } } a)
    (fun i _ s hi _ => (OnEng.putEng i _ s).sim hi) e (atPhase 39 (phaseLen (clearReports s) 39 - 1) (clearReports s))
  have same : engSt u e.val = engSt s e.val := (SimE.trans _ _ _ (.atPhase ..) seen).1
  refine ⟨_, rfl, (finish_engs awake (by decide) e.val).trans (own.trans ?_)⟩
  rw [engSt_putEng, same]

end

end Sys2Proof.Machine

namespace Sys2Proof.Proofs
open Sys2Proof Sys2Proof.Machine

/-- Settles O14: each of the four commands visits the engines in turn. -/
theorem lanesStartAndStopContexts : Obligations.Lanes_Start_And_Stop_Contexts := by
  unfold Obligations.Lanes_Start_And_Stop_Contexts
  intro e s awake
  exact ⟨deadlineLaneStart_does awake, deadlineCutoff_does awake, backgroundResume_does awake, backgroundSuspend_does awake⟩

end Sys2Proof.Proofs
end

section
/-!
PROOFS. The commands of the engines' pages (O29): posted writes, the CRC check of a pending image, the end of a probation, and the writes
of CTRL and CYC_CLR.
-/
namespace Sys2Proof.Machine

theorem engSt_reach {ps : List Part} {f : State → State} {s : State} (h : Part.eng ∈ ps) (e : Nat) : engSt (reach ps f s) e = engSt (f s) e :=
  engSt_of_eng (reach_eng _ _ _ h) e

/-! ### Posted writes -/

theorem countWrite_eng (e : Nat) (r : Res) (s : State) : (countWrite e r s).eng = s.eng := by
  unfold countWrite
  split
  · exact setF_eng ..
  · exact setF_eng ..
  · rfl

theorem countWrite_pwr (e : Nat) (r : Res) (s : State) : (countWrite e r s).pwr = s.pwr := by
  unfold countWrite
  split
  · exact setF_pwr ..
  · exact setF_pwr ..
  · rfl

section
variable {eng : Fin 16} {rivals : List BusReq} {s : State}

theorem postedOutcome_idle (awake : Awake s) (h : (engSt s eng.val).posts = []) :
    Does (.postedWriteOutcome eng rivals) s fun u => u = clearReports s := by
  have idle : postedOutcome eng rivals (clearReports s) = clearReports s := by
    have none : (engSt (clearReports s) eng.val).posts = [] := h
    rw [postedOutcome, none]
  exact ⟨_, settles_write_pwr awake (by rw [reach_self idle]; exact awake.2) rfl, reach_self idle⟩

/-- How the oldest posted write is judged among the writes of its cycle (R269). -/
def postJudged (eng : Fin 16) (q : EngPost) (rest : List EngPost) (rivals : List BusReq) (s : State) : Res × State :=
  contestedWrite ⟨.eng eng, q.addr, q.data⟩ rivals (putEng eng.val { engSt s eng.val with posts := rest } s)

theorem postedOutcome_judged {q : EngPost} {rest : List EngPost} (h : (engSt s eng.val).posts = q :: rest) :
    engSt (postedOutcome eng rivals s) eng.val = { engSt (postJudged eng q rest rivals s).2 eng.val with
        outs := (engSt (postJudged eng q rest rivals s).2 eng.val).outs
          ++ [ofN (q.addr / 4 * 4 * 256 + b2n q.old * 512 + 256 + (postJudged eng q rest rivals s).1.code)] }
      ∧ (postedOutcome eng rivals s).pwr = (postJudged eng q rest rivals s).2.pwr := by
  rw [postedOutcome, h]
  exact ⟨(engSt_of_eng (countWrite_eng ..) _).trans (engSt_putEng ..), countWrite_pwr ..⟩

/-- The oldest posted write, once it is judged: its outcome joins the queue (R269). -/
theorem postedOutcome_does {q : EngPost} {rest : List EngPost} (awake : Awake s) (h : (engSt s eng.val).posts = q :: rest)
    (on : bitAt (postJudged eng q rest rivals (clearReports s)).2.pwr.causes 4 = false) :
    Does (.postedWriteOutcome eng rivals) s fun u =>
      (engSt u eng.val).posts = (engSt (postJudged eng q rest rivals (clearReports s)).2 eng.val).posts
      ∧ (engSt u eng.val).outs = (engSt (postJudged eng q rest rivals (clearReports s)).2 eng.val).outs
        ++ [ofN (q.addr / 4 * 4 * 256 + b2n q.old * 512 + 256 + (postJudged eng q rest rivals (clearReports s)).1.code)] := by
  obtain ⟨engine, power⟩ := postedOutcome_judged (s := clearReports s) (rivals := rivals) h
  refine ⟨_, settles_write_pwr awake ?_ rfl, ?_⟩
  · rw [reach_pwr _ _ _ (by decide), power]
    exact on
  · dsimp only
    rw [engSt_reach, engine]
    · exact ⟨rfl, rfl⟩
    · decide

end

/-! ### The CRC check of a pending image -/

section
variable {e : Fin 16} {r : EngReq} {s : State}

theorem engCrcCheck_idle (h : ∀ r, (engSt s e.val).req = some r → r.checked = true) : engCrcCheck e.val s = s := by
  unfold engCrcCheck
  simp only
  split
  · rfl
  · next r pending => rw [if_pos (h r pending)]

theorem engCrcCheck_sound (pending : (engSt s e.val).req = some r) (open_ : r.checked = false) (sound : imgCrcOk (shadowBank e.val s) s = true) :
    engCrcCheck e.val s = putEng e.val { engSt s e.val with req := some { r with checked := true } } s := by
  simp only [engCrcCheck, pending, open_, sound, if_true, Bool.false_eq_true, if_false]

theorem engCrcCheck_unsound (pending : (engSt s e.val).req = some r) (open_ : r.checked = false) (unsound : imgCrcOk (shadowBank e.val s) s = false) :
    engCrcCheck e.val s = setIrq (engPg e.val) 16 (engRecord e.val 5 (setB CMN.STAT_SWAP_PEND (engPg e.val) 0 false
      (putEng e.val { engSt s e.val with req := none } s))) := by
  simp only [engCrcCheck, pending, open_, unsound, Bool.false_eq_true, if_false]

theorem OnEng.engRecord (e cause : Nat) (s : State) : OnEng e s (engRecord e cause s) := by
  unfold Machine.engRecord setB
  exact (OnEng.setF e _ (by decide) _ _).trans (.setF e _ (by decide) _ _)

theorem engCrcCheck_onEng (e : Nat) (s : State) : OnEng e s (engCrcCheck e s) := by
  unfold engCrcCheck
  simp only
  split
  · exact .refl e s
  · split
    · exact .refl e s
    · split
      · exact .putEng ..
      · unfold setB
        exact (((OnEng.putEng ..).trans (.setF e _ (by decide) _ _)).trans (.engRecord ..)).trans (.setIrq ..)

theorem engImageCrcCheck_does (awake : Awake s) : Does (.engImageCrcCheck e) s fun u => Outside [engPg e.val] s u
    ∧ ((engSt s e.val).req = none → u = clearReports s)
    ∧ ∀ r, (engSt s e.val).req = some r → r.checked = false →
      (imgCrcOk (shadowBank e.val s) s = true → (engSt u e.val).req = some { r with checked := true } ∧ RegsBut [] s u)
      ∧ (imgCrcOk (shadowBank e.val s) s = false → (engSt u e.val).req = none ∧ getW ENG.SWAP_CHK_CAUSE (engPg e.val) 0 u = 5
          ∧ getW CMN.STAT_SWAP_PEND (engPg e.val) 0 u = 0 ∧ irq (engPg e.val) 16 u = true) := by
  refine ⟨_, settles_finish awake rfl, fun a quiet_ outside => ?_, fun none => ?_, fun r pending open_ => ⟨fun sound => ?_, fun unsound => ?_⟩⟩
  · rw [rdReg_reach _ _ _ (by decide)]
    exact (engCrcCheck_onEng e.val (clearReports s)).regs a (quiet_calm quiet_) (by simpa [engPg] using outside)
  · exact reach_self (engCrcCheck_idle fun r pending => absurd (pending.symm.trans none) (by simp))
  · have does := engCrcCheck_sound (s := clearReports s) pending open_ sound
    refine ⟨?_, fun a _ => ?_⟩
    · rw [engSt_reach (by decide), does, engSt_putEng]
    · rw [rdReg_reach _ _ _ (by decide), does]
      rfl
  · have does := engCrcCheck_unsound (s := clearReports s) pending open_ unsound
    refine ⟨?_, ?_, ?_, ?_⟩
    · rw [engSt_reach (by decide), does, engSt_of_eng (setIrq_eng ..)]
      unfold engRecord setB
      rw [engSt_setF, engSt_setF, engSt_setF, engSt_putEng]
    · rw [getW_reach _ _ (by decide), does, getW_setIrq _ (by simp [pageAddr, fldAddr, ENG.SWAP_CHK_CAUSE]), engRecord,
        getW_setF _ _ _ _ _ (by decide) (by decide)]
      rfl
    · rw [getW_reach _ _ (by decide), does, getW_setIrq _ (by simp [pageAddr, fldAddr, CMN.STAT_SWAP_PEND]), engRecord, setB,
        getW_setF_beside _ _ (by decide) (by decide) (by decide), getW_setF_beside _ _ (by decide) (by decide) (by decide), setB,
        getW_setF _ _ _ _ _ (by decide) (by decide)]
      rfl
    · rw [irq_reach (by decide), does]
      exact irq_setIrq _ _ (by decide)

end

/-! ### The end of a probation -/

/-- An engine whose probation `q` has failed (R285). -/
def failedState (e cause : Nat) (q : EngProb) (s : State) : State :=
  setIrq (engPg e) 17 (setB ENG.STAT_PROB (engPg e) 0 false (setF ENG.PROB_CAUSE (engPg e) 0 cause
    (putEng e { engSt s e with prob := none, ret := some q.dataClr } s)))

theorem probFail_eq {e : Nat} {q : EngProb} {s : State} (h : (engSt s e).prob = some q) (cause : Nat) :
    probFail e cause s = raise (engPg e) 0xFF kEngProbationFail cause (failedState e cause q s) := by
  simp only [probFail, h]
  rfl

theorem failedState_engine (e cause : Nat) (q : EngProb) (s : State) :
    engSt (failedState e cause q s) e = { engSt s e with prob := none, ret := some q.dataClr } := by
  rw [failedState, engSt_of_eng (setIrq_eng ..), setB, engSt_setF, engSt_setF, engSt_putEng]

theorem failedState_cause {cause : Nat} (small : cause < 8) (e : Nat) (q : EngProb) (s : State) :
    getW ENG.PROB_CAUSE (engPg e) 0 (failedState e cause q s) = cause := by
  rw [failedState, getW_setIrq _ (by simp [pageAddr, fldAddr, ENG.PROB_CAUSE]), setB, getW_setF_beside _ _ (by decide) (by decide) (by decide),
    getW_setF _ _ _ _ _ (by decide) (by decide)]
  exact Nat.mod_eq_of_lt small

theorem failedState_time (e cause : Nat) (q : EngProb) (s : State) : (failedState e cause q s).time = s.time := by
  rw [failedState, setIrq_time, setB, setF_time, setF_time]
  rfl

/-- What a failed probation leaves: none is open, the return is due, the cause stands in the page and the message is on its way (R285). -/
theorem probFail_does {e cause : Nat} {q : EngProb} {s t : State} (time : t.time.tick = s.time.tick) (small : cause < 8) (h : (engSt t e).prob = some q) :
    (engSt (probFail e cause t) e).prob = none ∧ (engSt (probFail e cause t) e).ret = some q.dataClr
      ∧ getW ENG.PROB_CAUSE (engPg e) 0 (probFail e cause t) = cause ∧ Sent (engPg e) 0xFF kEngProbationFail cause s (probFail e cause t) := by
  rw [probFail_eq h, engSt_of_eng (raise_eng ..), failedState_engine, getW_congr (rdReg_raise ..), failedState_cause small]
  obtain ⟨m, sent, src, kind, addr, tick⟩ := sent_raise (engPg e) 0xFF kEngProbationFail cause (failedState e cause q t)
  rw [failedState_time, time] at tick
  exact ⟨rfl, rfl, rfl, m, sent, src, kind, addr, tick⟩

/-- What a return leaves of the probation whose failure led to it. -/
structure KeepsFail (e : Nat) (s t : State) : Prop where
  flt : t.flt = s.flt
  prob : (engSt t e).prob = (engSt s e).prob
  cause : getW ENG.PROB_CAUSE (engPg e) 0 t = getW ENG.PROB_CAUSE (engPg e) 0 s

namespace KeepsFail
variable {e : Nat} {s t u : State}

theorem refl (e : Nat) (s : State) : KeepsFail e s s := ⟨rfl, rfl, rfl⟩
theorem trans (h : KeepsFail e s t) (g : KeepsFail e t u) : KeepsFail e s u :=
  ⟨g.flt.trans h.flt, g.prob.trans h.prob, g.cause.trans h.cause⟩
theorem setF (h : KeepsFail e s t) (f : Fld) (v : Nat) (other : f.stride = 0 ∧ f.off ≠ ENG.PROB_CAUSE.off) :
    KeepsFail e s (setF f (engPg e) 0 v t) :=
  h.trans ⟨rfl, by rw [engSt_setF], getW_congr (rdReg_setF_ne _ _ _ _ _ (by simp only [fldAddr, pageAddr]; omega))⟩
theorem putEng (h : KeepsFail e s t) {v : EngState} (hv : v.prob = (engSt t e).prob) : KeepsFail e s (putEng e v t) :=
  h.trans ⟨rfl, by rw [engSt_putEng, hv], rfl⟩

theorem showImage (h : KeepsFail e s t) : KeepsFail e s (showImage e t) := by
  unfold Machine.showImage setB
  simp only
  split
  · exact (((h.setF ENG.TOOL_TOOL _ (by decide)).setF ENG.HDR_DL_WCET _ (by decide)).setF ENG.HDR_DLAYOUT _ (by decide)).setF ENG.STAT_NOPROG _ (by decide)
  · exact h.setF ENG.STAT_NOPROG _ (by decide)

theorem clearContexts (h : KeepsFail e s t) : KeepsFail e s (clearContexts e t) := by
  unfold Machine.clearContexts setB
  refine .setF (.setF (.putEng h ?_) ENG.STAT_DL_BUSY _ (by decide)) ENG.STAT_BG_BUSY _ (by decide)
  rfl

theorem exchangeBanks (h : KeepsFail e s t) (d : Bool) : KeepsFail e s (exchangeBanks e d t) := by
  have zeroed {u : State} (k : KeepsFail e s u) : KeepsFail e s (if d then zeroRange (dataBase e) (dataBase e + 0x8000) u else u) := by
    split
    · exact k.trans ⟨rfl, rfl, rfl⟩
    · exact k
  unfold Machine.exchangeBanks incMod
  simp only
  refine .showImage (.setF (zeroed (.clearContexts (.putEng h ?_))) CMN.GEN_SWAP_GEN _ (by decide))
  rfl

theorem engReturn (h : KeepsFail e s t) : KeepsFail e s (engReturn e t) := by
  unfold Machine.engReturn setB
  simp only
  split
  · exact h
  · refine .setF (.exchangeBanks (.putEng h ?_) _) ENG.STAT_SWAP_RET _ (by decide)
    rfl

theorem resumeBackground (h : KeepsFail e s t) : KeepsFail e s (resumeBackground e t) := by
  unfold Machine.resumeBackground setB
  simp only
  split
  · refine .setF (.putEng h ?_) ENG.STAT_BG_BUSY _ (by decide)
    rfl
  · exact h

theorem returnNow (h : KeepsFail e s t) : KeepsFail e s (returnNow e t) := by
  unfold Machine.returnNow
  simp only
  split
  · split
    · exact h.engReturn.resumeBackground
    · exact h.engReturn
  · exact h

end KeepsFail

section
variable {e : Fin 16} {s : State}

/-- An instant that has come moves the time within its tick alone. -/
theorem reachUs_keeps {t : Nat} {u : State} (h : reachUs t s = some u) : u.time.tick = s.time.tick ∧ u.eng = s.eng := by
  unfold reachUs at h
  split at h
  · exact absurd h (by simp)
  · split at h
    · cases h
      exact ⟨atPhase_tick .., atPhase_eng ..⟩
    · cases h
      exact ⟨rfl, rfl⟩

theorem probationTimeout_does (awake : Awake s) : Does (.probationTimeout e) s fun u => ((engSt s e.val).prob = none → u = clearReports s)
    ∧ ∀ q, (engSt s e.val).prob = some q → (s.time.ticks < (q.start + q.len) / 125 → u = clearReports s)
      ∧ ((q.start + q.len) / 125 ≤ s.time.ticks → (engSt u e.val).prob = none ∧ getW ENG.PROB_CAUSE (engPg e.val) 0 u = 1
          ∧ Sent (engPg e.val) 0xFF kEngProbationFail 1 s u) := by
  refine ⟨_, settles_finish awake rfl, fun none => ?_, fun q open_ => ⟨fun early => ?_, fun due => ?_⟩⟩
  · have off : (engSt (clearReports s) e.val).prob = Option.none := none
    exact reach_self (by rw [probationTimeout, off])
  · have on : (engSt (clearReports s) e.val).prob = some q := open_
    have later : reachUs (q.start + q.len) (clearReports s) = none := if_pos early
    exact reach_self (by rw [probationTimeout, on]; simp only [later])
  · have on : (engSt (clearReports s) e.val).prob = some q := open_
    obtain ⟨v, reached⟩ := reachUs_isSome (s := clearReports s) due
    obtain ⟨tick, eng⟩ := reachUs_keeps reached
    have does : probationTimeout e.val (clearReports s) = returnNow e.val (probFail e.val 1 v) := by
      rw [probationTimeout, on]; simp only [reached]
    obtain ⟨prob, -, cause, sent⟩ := probFail_does (s := s) (e := e.val) (cause := 1) tick (by decide) ((congrArg EngState.prob (engSt_of_eng eng e.val)).trans on)
    have keeps := (KeepsFail.refl e.val (probFail e.val 1 v)).returnNow
    refine ⟨?_, ?_, sent_reach (by decide) ?_⟩
    · rw [engSt_reach (by decide), does, keeps.prob, prob]
    · rw [getW_reach _ _ (by decide), does, keeps.cause, cause]
    · rw [does, Sent, keeps.flt]
      exact sent

end

end Sys2Proof.Machine
end

section
namespace Sys2Proof.Machine

/-! ### Writes of CTRL of an engine's page -/

/-- The row of CTRL of the engines' pages. -/
def engCtrlDesc : RegDesc := ⟨0x8, 0x0, 1, [rfNc 17 17 .wo 0x0, rfNc 16 16 .wo 0x0, rfCfg 15 8 .rw 0x3,
  rfNc 2 2 .wo 0x0, rfNc 1 1 .wo 0x0, rfCfg 0 0 .rw 0x0]⟩

theorem engCtrl_row : ∀ e : Fin 16, plainReg (engPg e.val) 0x08 (pageField false) = true ∧ regAt (engPg e.val) 0x08 = some engCtrlDesc
    ∧ pageKind (engPg e.val) = some .eng := by decide

/-- A word for CTRL without SOFT_RST, whose RW fields stand as the register `r` reads, so that they are not written. -/
structure OnlyCommands (w r : Word) : Prop where
  late : bitsOf w 15 8 = bitsOf r 15 8
  run : bitsOf w 0 0 = bitsOf r 0 0
  reset : bitsOf w 1 1 = 0

section
variable {party : Party} {e : Fin 16} {w : Word} {s : State}

theorem engCtrl_written (party : Party) (l : List Hold) (only : OnlyCommands w (rdReg s (pageAddr (engPg e.val) 0x08))) :
    (cxOf party (engPg e.val) 0x08 w engCtrlDesc s l).fields
      = engCtrlDesc.fields.filter fun f => decide (f.acc = .wo ∧ bitsOf w f.hi f.lo ≠ 0) := by
  obtain ⟨late, run, -⟩ := only
  have reads : regWord party (engPg e.val) 0x08 engCtrlDesc s = rdReg s (pageAddr (engPg e.val) 0x08) := rfl
  have range (f : FieldDesc) : rangeWrite w (engPg e.val) 0x08 f s = false := by simp [rangeWrite]
  unfold cxOf cycleCx writeCx
  refine List.filter_congr fun f hf => ?_
  rw [reads, range, Bool.or_false]
  simp only [engCtrlDesc, List.mem_cons, List.not_mem_nil, or_false] at hf
  rcases hf with rfl | rfl | rfl | rfl | rfl | rfl
  · exact decide_eq_decide.2 (by simp [rfNc])
  · exact decide_eq_decide.2 (by simp [rfNc])
  · simp [writesField, rfCfg, late]
  · exact decide_eq_decide.2 (by simp [rfNc])
  · exact decide_eq_decide.2 (by simp [rfNc])
  · simp [writesField, rfCfg, run]

theorem engCtrl_has (party : Party) (l : List Hold) (only : OnlyCommands w (rdReg s (pageAddr (engPg e.val) 0x08))) (n : Nat) :
    cxHas (cxOf party (engPg e.val) 0x08 w engCtrlDesc s l) n
      = decide ((n = 17 ∨ n = 16 ∨ n = 2 ∨ n = 1) ∧ bitsOf w n n ≠ 0) := by
  rw [cxHas, engCtrl_written party l only, List.any_filter]
  by_cases h : n = 17 ∨ n = 16 ∨ n = 2 ∨ n = 1
  · rcases h with rfl | rfl | rfl | rfl <;> simp [engCtrlDesc, rfNc, rfCfg]
  · obtain ⟨h17, h16, h2, h1⟩ : n ≠ 17 ∧ n ≠ 16 ∧ n ≠ 2 ∧ n ≠ 1 := by omega
    simp [engCtrlDesc, rfNc, rfCfg, h17.symm, h16.symm, h2.symm, h1.symm, h]

/-- A write that takes no field stores none: the register stands as before (R502). -/
theorem storeFields_commands {cx : WriteCx} (paged : partyReg cx.desc = false) (wo : ∀ f ∈ cx.fields, f.acc = .wo ∧ f.cfg = false) (t : State) :
    storeFields cx t = wrReg t (cxAddr cx) (rdReg t (cxAddr cx)) := by
  have merged (cx : WriteCx) (wo : ∀ f ∈ cx.fields, f.acc = .wo ∧ f.cfg = false) : cxMerged cx = cx.old := by
    unfold cxMerged
    generalize cx.old = old
    generalize cx.fields = fields at wo
    induction fields with
    | nil => rfl
    | cons f fields ih =>
      rw [List.foldl_cons, (wo f List.mem_cons_self).1]
      exact ih fun g hg => wo g (List.mem_cons_of_mem _ hg)
  have absorbed (x y : Word) : x ||| (x &&& y) = x := by
    ext i hi
    cases hx : x[i] <;> simp [hx]
  have uncounted (q : FieldDesc → Bool) : (cx.fields.any fun f => f.cfg && q f) = false := by
    rw [List.any_eq_false]
    intro f hf
    simp [(wo f hf).2]
  unfold storeFields
  simp only [paged, merged { cx with old := rdReg t (cxAddr cx) } wo, absorbed, uncounted, Bool.false_eq_true, if_false]

/-- Of a write that carries commands alone to CTRL, neither RUN nor the field above it is judged. -/
theorem engCtrl_judged (may : MayWrite party (engPg e.val) false s) (l : List Hold) (only : OnlyCommands w (rdReg s (pageAddr (engPg e.val) 0x08)))
    (effective : bitsOf w 17 17 ≠ 0 ∨ bitsOf w 2 2 ≠ 0) :
    judgeReg (cxOf party (engPg e.val) 0x08 w engCtrlDesc s l) (withHolds s l)
      = ctrlWrite (cxOf party (engPg e.val) 0x08 w engCtrlDesc s l) (withHolds s l)
    ∧ runRefused (cxOf party (engPg e.val) 0x08 w engCtrlDesc s l) (withHolds s l) = false
    ∧ cxOutside (cxOf party (engPg e.val) 0x08 w engCtrlDesc s l) 15 8 1 255 = false := by
  obtain ⟨plain, row, kind⟩ := engCtrl_row e
  have has := engCtrl_has (w := w) (e := e) (s := s) party l only
  have writes : (cxOf party (engPg e.val) 0x08 w engCtrlDesc s l).fields ≠ [] := by
    intro none
    have idle (n : Nat) : cxHas (cxOf party (engPg e.val) 0x08 w engCtrlDesc s l) n = false := by rw [cxHas, none]; rfl
    rcases effective with h | h
    · have := idle 17; rw [has] at this; simp [h] at this
    · have := idle 2; rw [has] at this; simp [h] at this
  refine ⟨?_, ?_, ?_⟩
  · rw [judgeReg_common may.2.1 rfl (permitted_page l may (by simp [rangeReg]) (by decide)) (.inl writes) (by decide : 0x08 < 0x100)]
    rfl
  · simp [runRefused, has, only.reset, alwaysRun]
  · simp [cxOutside, has]

/-- Such a write does not touch RUN, so no reaction write of its cycle stands against it (R275). -/
theorem engCtrl_run (party : Party) (only : OnlyCommands w (rdReg s (pageAddr (engPg e.val) 0x08)))
    (place : placeOf (pageAddr (engPg e.val) 0x08) s = .register (engPg e.val) 0x08 engCtrlDesc) :
    runTouched s ⟨party, pageAddr (engPg e.val) 0x08, w⟩ = none := by
  have run : cxHas (writeCx party w (engPg e.val) 0x08 engCtrlDesc s) 0 = false := (engCtrl_has party s.bus.holds only 0).trans (by simp)
  simp only [runTouched, place, run, Bool.and_false, Bool.false_eq_true, if_false]

/-- What CTRL's judgement makes of a write: its report, and the state. -/
def engCtrlTaken (party : Party) (e : Fin 16) (w : Word) (s : State) (l : List Hold) : Res × State :=
  judged (ctrlWrite (cxOf party (engPg e.val) 0x08 w engCtrlDesc s l) (withHolds s l)) (withHolds s l)

/-- A write that carries commands alone to CTRL comes to what CTRL's judgement makes of it. -/
theorem engCtrl_regWrite (may : MayWrite party (engPg e.val) false s) (only : OnlyCommands w (rdReg s (pageAddr (engPg e.val) 0x08)))
    (effective : bitsOf w 17 17 ≠ 0 ∨ bitsOf w 2 2 ≠ 0) :
    ∃ l c, regWrite party (engPg e.val) 0x08 w s
      = withReports (withCyc (engCtrlTaken party e w s l).2 c)
          (s.bus.reports ++ [⟨party, pageAddr (engPg e.val) 0x08,
            (engCtrlTaken party e w s l).1⟩]) := by
  obtain ⟨plain, row, -⟩ := engCtrl_row e
  obtain ⟨h1, h2, h3, h4, h5, h6, -⟩ := plainReg_facts plain
  have place := placeOf_page h1 h2 h3 h4 may.1 row
  have run := engCtrl_run (w := w) party only place
  obtain ⟨l, held⟩ := touchHolds_eq party (pageAddr (engPg e.val) 0x08) (holdKey (pageAddr (engPg e.val) 0x08) s) false s
  obtain ⟨judgement, -⟩ := engCtrl_judged may l only effective
  have placed : placeWriteSeen s party w (.register (engPg e.val) 0x08 engCtrlDesc) (withHolds s l)
      = engCtrlTaken party e w s l :=
    (placeWrite_register h5 (regAdvance_none h6 party)).trans (congrArg (judged · _) judgement)
  have wins : losesToReaction s ⟨party, pageAddr (engPg e.val) 0x08, w⟩ s = false := by simp [losesToReaction, run]
  have quiet_ (old t : State) : noteRun s ⟨party, pageAddr (engPg e.val) 0x08, w⟩ old t = t := by simp [noteRun, run]
  obtain ⟨c, noted⟩ := noteWas_eq (pageAddr (engPg e.val) 0x08) (placeWord party (.register (engPg e.val) 0x08 engCtrlDesc) s)
    (engCtrlTaken party e w s l).2
  have bus : busWrite ⟨party, pageAddr (engPg e.val) 0x08, w⟩ s
      = ((engCtrlTaken party e w s l).1,
        if (engCtrlTaken party e w s l).1 = .done then
          withCyc (engCtrlTaken party e w s l).2 c
        else (engCtrlTaken party e w s l).2) := by
    rw [busWrite, wins]
    simp only [busWriteSeen, Bool.false_eq_true, if_false, place, held, placed, quiet_, noted]
  rw [regWrite, writeAccess_eq, bus]
  split
  · exact ⟨l, c, rfl⟩
  · exact ⟨l, _, rfl⟩

/-- A state whose register `a` has been written with what it reads. -/
def stored (a : Nat) (s : State) : State := wrReg s a (rdReg s a)

theorem stored_eng (a : Nat) (s : State) : (stored a s).eng = s.eng := rfl

theorem rdReg_stored (a b : Nat) (s : State) : rdReg (stored a s) b = rdReg s b := by
  by_cases h : a = b
  · rw [← h, stored, rdReg_wrReg]
  · rw [stored, rdReg_wrReg_ne _ _ h]

theorem engCtrl_stored (party : Party) (l : List Hold) (only : OnlyCommands w (rdReg s (pageAddr (engPg e.val) 0x08))) (t : State) :
    storeFields (cxOf party (engPg e.val) 0x08 w engCtrlDesc s l) t = stored (pageAddr (engPg e.val) 0x08) t := by
  refine storeFields_commands (by decide : partyReg engCtrlDesc = false) (fun f hf => ?_) t
  rw [engCtrl_written party l only, List.mem_filter] at hf
  obtain ⟨mem, wo⟩ := hf
  have uncounted : ∀ f ∈ engCtrlDesc.fields, f.acc = .wo → f.cfg = false := by decide
  exact ⟨(of_decide_eq_true wo).1, uncounted f mem (of_decide_eq_true wo).1⟩

theorem engCtrl_block (party : Party) (l : List Hold) (only : OnlyCommands w (rdReg s (pageAddr (engPg e.val) 0x08))) (t : State) :
    ctrlBlock (cxOf party (engPg e.val) 0x08 w engCtrlDesc s l) t = .ok (if bitsOf w 17 17 ≠ 0 then probFail e.val 5 t else t) := by
  have page : pageKind (cxOf party (engPg e.val) 0x08 w engCtrlDesc s l).page = some .eng := (engCtrl_row e).2.2
  have engine : (cxOf party (engPg e.val) 0x08 w engCtrlDesc s l).page - 0x20 = e.val := Nat.add_sub_cancel_left ..
  have abort : cxHas (cxOf party (engPg e.val) 0x08 w engCtrlDesc s l) 17 = decide (bitsOf w 17 17 ≠ 0) :=
    (engCtrl_has party l only 17).trans (by simp)
  simp only [ctrlBlock, page, abort, engine, decide_eq_true_eq]

theorem swapRequest_eng (e : Fin 16) (clr : Bool) (s : State) : swapRequest (engPg e.val) clr s = engSwapReq e.val clr s := by
  have engine : engPg e.val - 0x20 = e.val := Nat.add_sub_cancel_left ..
  simp only [swapRequest, (engCtrl_row e).2.2, engine]

/-- PROB_ABORT alone fails an open probation with cause 5 (R285). -/
theorem engCtrl_abort (may : MayWrite party (engPg e.val) false s) (l : List Hold) (only : OnlyCommands w (rdReg s (pageAddr (engPg e.val) 0x08)))
    (abort : bitsOf w 17 17 ≠ 0) (swap : bitsOf w 2 2 = 0) :
    engCtrlTaken party e w s l = (.done, stored (pageAddr (engPg e.val) 0x08) (probFail e.val 5 (withHolds s l))) := by
  obtain ⟨-, run, late⟩ := engCtrl_judged may l only (.inl abort)
  have request : cxHas (cxOf party (engPg e.val) 0x08 w engCtrlDesc s l) 2 = false := (engCtrl_has party l only 2).trans (by simp [swap])
  have reset : cxHas (cxOf party (engPg e.val) 0x08 w engCtrlDesc s l) 1 = false := (engCtrl_has party l only 1).trans (by simp [only.reset])
  simp only [engCtrlTaken, ctrlWrite, run, late, engCtrl_block party l only, abort, request, reset, engCtrl_stored party l only, Bool.or_self,
    Bool.false_and, Bool.false_eq_true, if_false, ne_eq, not_false_eq_true, if_true]
  rfl

/-- SWAP_REQ alone requests a swap, or is refused with its cause (R280). -/
theorem engCtrl_swap {clr : Bool} (may : MayWrite party (engPg e.val) false s) (l : List Hold)
    (only : OnlyCommands w (rdReg s (pageAddr (engPg e.val) 0x08))) (abort : bitsOf w 17 17 = 0) (swap : bitsOf w 2 2 ≠ 0)
    (clears : decide (bitsOf w 16 16 ≠ 0) = clr) (buffered : doubleBuffered (engPg e.val) s = true) :
    (∀ t, engSwapReq e.val clr (withHolds s l) = .ok t → engCtrlTaken party e w s l = (.done, stored (pageAddr (engPg e.val) 0x08) t))
    ∧ ∀ t, engSwapReq e.val clr (withHolds s l) = .refuseTo t → engCtrlTaken party e w s l = (.refused, t) := by
  obtain ⟨-, run, late⟩ := engCtrl_judged may l only (.inr swap)
  have request : cxHas (cxOf party (engPg e.val) 0x08 w engCtrlDesc s l) 2 = true := (engCtrl_has party l only 2).trans (by simp [swap])
  have reset : cxHas (cxOf party (engPg e.val) 0x08 w engCtrlDesc s l) 1 = false := (engCtrl_has party l only 1).trans (by simp [only.reset])
  have data : cxHas (cxOf party (engPg e.val) 0x08 w engCtrlDesc s l) 16 = clr := (engCtrl_has party l only 16).trans (by simpa using clears)
  have page : (cxOf party (engPg e.val) 0x08 w engCtrlDesc s l).page = engPg e.val := rfl
  have pair : doubleBuffered (engPg e.val) (withHolds s l) = true := buffered
  simp only [engCtrlTaken, ctrlWrite, run, late, engCtrl_block party l only, abort, request, reset, data, page, pair, swapRequest_eng,
    engCtrl_stored party l only, Bool.or_self, Bool.and_self, Bool.false_eq_true, if_false, ne_eq, not_true_eq_false, if_true]
  refine ⟨fun t request => ?_, fun t request => ?_⟩
  · rw [request]
    rfl
  · rw [request]
    rfl

end

/-! ### The commands of CTRL -/

/-- CTRL with no command in it (R502). -/
theorem ctrl_idle {e : Fin 16} {s : State} (zero : CommandBitsZero (engPg e.val) 0x08 s) {n : Nat} (h : n = 1 ∨ n = 2 ∨ n = 17) :
    bitsOf (rdReg s (pageAddr (engPg e.val) 0x08)) n n = 0 := by
  have row := zero _ (engCtrl_row e).2.1
  rcases h with rfl | rfl | rfl
  · exact row (rfNc 1 1 .wo 0) (by decide) rfl
  · exact row (rfNc 2 2 .wo 0) (by decide) rfl
  · exact row (rfNc 17 17 .wo 0) (by decide) rfl

/-- The word of PROB_ABORT. -/
def abortWord (r : Word) : Word := setBits r 17 17 1

/-- The word of SWAP_REQ with DATA_CLR. -/
def swapWord (r : Word) (clr : Bool) : Word := setBits (setBits r 2 2 1) 16 16 (b2n clr)

theorem bitsOf_abortWord {hi lo : Nat} (r : Word) (h : hi < 17) (hl : lo ≤ hi) : bitsOf (abortWord r) hi lo = bitsOf r hi lo :=
  bitsOf_setBits_other _ _ _ _ _ _ (by decide) (by decide) (.inl h) hl

theorem bitsOf_swapWord {hi lo : Nat} (r : Word) (clr : Bool) (h : (hi < 16 ∨ 16 < lo) ∧ (hi < 2 ∨ 2 < lo)) (hl : lo ≤ hi) :
    bitsOf (swapWord r clr) hi lo = bitsOf r hi lo :=
  (bitsOf_setBits_other _ _ _ _ _ _ (by decide) (by decide) h.1 hl).trans (bitsOf_setBits_other _ _ _ _ _ _ (by decide) (by decide) h.2 hl)

theorem abortWord_commands {r : Word} (reset : bitsOf r 1 1 = 0) : OnlyCommands (abortWord r) r ∧ bitsOf (abortWord r) 17 17 ≠ 0 :=
  ⟨⟨bitsOf_abortWord r (by decide) (by decide), bitsOf_abortWord r (by decide) (by decide), (bitsOf_abortWord r (by decide) (by decide)).trans reset⟩,
    by rw [abortWord, bitsOf_setBits_self _ _ _ _ (by decide) (by decide)]; decide⟩

theorem swapWord_commands {r : Word} (clr : Bool) (reset : bitsOf r 1 1 = 0) : OnlyCommands (swapWord r clr) r ∧ bitsOf (swapWord r clr) 2 2 ≠ 0
    ∧ decide (bitsOf (swapWord r clr) 16 16 ≠ 0) = clr := by
  refine ⟨⟨bitsOf_swapWord r clr (by decide) (by decide), bitsOf_swapWord r clr (by decide) (by decide),
    (bitsOf_swapWord r clr (by decide) (by decide)).trans reset⟩, ?_, ?_⟩
  · rw [swapWord, bitsOf_setBits_other _ _ _ _ _ _ (by decide) (by decide) (by decide) (by decide), bitsOf_setBits_self _ _ _ _ (by decide) (by decide)]
    decide
  · rw [swapWord, bitsOf_setBits_self _ _ _ _ (by decide) (by decide)]
    cases clr <;> rfl

/-- The parts that a write of CTRL may reach. -/
def ctrlParts : List Part := [.regs, .bus, .flt, .recd, .sns, .moi, .lpa, .prf, .trc, .ldg, .eng, .drv, .can, .dig]

section
variable {party : Party} {e : Fin 16} {w : Word} {i : Instr} {s : State}

/-- From what CTRL's judgement makes of a write to what its command does. -/
theorem engCtrl_does {f : State → State} {res : Res} {fact : State → Prop} (awake : Awake s) (may : MayWrite party (engPg e.val) false s)
    (he : exec i s = .next (finishWrite (reach ctrlParts f) s)) (hf : f (clearReports s) = regWrite party (engPg e.val) 0x08 w (clearReports s))
    (only : OnlyCommands w (rdReg s (pageAddr (engPg e.val) 0x08))) (effective : bitsOf w 17 17 ≠ 0 ∨ bitsOf w 2 2 ≠ 0)
    (taken : ∀ l, ∃ t, engCtrlTaken party e w (clearReports s) l = (res, t) ∧ fact t) :
    Does i s fun u => u.bus.reports = [⟨party, pageAddr (engPg e.val) 0x08, res⟩]
      ∧ ∃ t, fact t ∧ (∀ a, rdReg u a = rdReg t a) ∧ u.eng = t.eng ∧ u.flt = t.flt := by
  have same : finishWrite (reach ctrlParts f) s = finishWrite (reach ctrlParts (regWrite party (engPg e.val) 0x08 w)) s := by
    unfold finishWrite reach
    rw [hf]
  obtain ⟨l, c, written⟩ := engCtrl_regWrite (s := clearReports s) may only effective
  obtain ⟨t, left, holds⟩ := taken l
  rw [left] at written
  obtain ⟨u, settles, report, regs, parts⟩ := does_regWrite awake ⟨by decide, by decide, by decide⟩ (he.trans (congrArg _ same)) written
  exact ⟨u, settles, report, t, holds, fun a => regs a List.not_mem_nil, parts .eng (by decide) (by decide), parts .flt (by decide) (by decide)⟩

theorem probFail_prob (e cause : Nat) (s : State) : (engSt (probFail e cause s) e).prob = none := by
  cases h : (engSt s e).prob with
  | none => rw [probFail, h]; exact h
  | some q => rw [probFail_eq h, engSt_of_eng (raise_eng ..), failedState_engine]

/-- PROB_ABORT (R285). -/
theorem probAbort_does (awake : Awake s) (may : MayWrite party (engPg e.val) false s) (zero : CommandBitsZero (engPg e.val) 0x08 s) :
    Does (.probAbort party e) s fun u => Acked party (pageAddr (engPg e.val) 0x08) u ∧ (engSt u e.val).prob = none
      ∧ ∀ q, (engSt s e.val).prob = some q → (engSt u e.val).ret = some q.dataClr ∧ getW ENG.PROB_CAUSE (engPg e.val) 0 u = 5
        ∧ Sent (engPg e.val) 0xFF kEngProbationFail 5 s u := by
  obtain ⟨only, abort⟩ := abortWord_commands (ctrl_idle zero (.inl rfl))
  have swap := (bitsOf_abortWord (rdReg s (pageAddr (engPg e.val) 0x08)) (by decide) (by decide)).trans (ctrl_idle zero (.inr (.inl rfl)))
  obtain ⟨u, settles, report, t, ⟨l, rfl⟩, regs, eng, flt⟩ := engCtrl_does (i := .probAbort party e) (res := .done)
    (fact := fun t => ∃ l, t = stored (pageAddr (engPg e.val) 0x08) (probFail e.val 5 (withHolds (clearReports s) l))) awake may rfl rfl only
    (.inl abort) fun l => ⟨_, engCtrl_abort (s := clearReports s) may l only abort swap, l, rfl⟩
  have engine : engSt u e.val = engSt (probFail e.val 5 (withHolds (clearReports s) l)) e.val := engSt_of_eng eng _
  refine ⟨u, settles, report, by rw [engine, probFail_prob], fun q open_ => ?_⟩
  obtain ⟨-, ret, cause, sent⟩ := probFail_does (s := s) (t := withHolds (clearReports s) l) (cause := 5) rfl (by decide) open_
  refine ⟨by rw [engine, ret], ?_, ?_⟩
  · rw [getW_congr ((regs _).trans (rdReg_stored ..)), cause]
  · rw [Sent, flt]
    exact sent

theorem engRecord_shows (e cause : Nat) (s : State) : getW ENG.SWAP_CHK_VALID (engPg e) 0 (engRecord e cause s) = 1
    ∧ getW ENG.SWAP_CHK_CAUSE (engPg e) 0 (engRecord e cause s) = cause % 16 := by
  refine ⟨?_, getW_setF _ _ _ _ _ (by decide) (by decide)⟩
  rw [engRecord, getW_setF_beside _ _ (by decide) (by decide) (by decide), setB, getW_setF _ _ _ _ _ (by decide) (by decide)]
  rfl

theorem engRecord_eng (e cause : Nat) (s : State) : (engRecord e cause s).eng = s.eng := (setF_eng ..).trans (setF_eng ..)

/-- The judgement of a swap reads neither reports nor holds. -/
theorem engSwapCause_start (e : Nat) (clr : Bool) (s : State) (l : List Hold) :
    engSwapCause e clr (withHolds (clearReports s) l) = engSwapCause e clr s := by
  have word (a : Nat) : rdWord (withHolds (clearReports s) l) a = rdWord s a := rfl
  have engine : engSt (withHolds (clearReports s) l) e = engSt s e := rfl
  have program : getB ENG.STAT_NOPROG (engPg e) 0 (withHolds (clearReports s) l) = getB ENG.STAT_NOPROG (engPg e) 0 s := rfl
  simp only [engSwapCause, hdrCause, imgLen, imgBg, imgDl, imgWcet, imgLayout, shadowBank, runBank, word, engine, program]
  rfl

/-- An engine that has taken a swap request (R280, R281). -/
def swapPending (e : Nat) (clr : Bool) (s : State) : State :=
  setB CMN.STAT_SWAP_PEND (engPg e) 0 true (putEng e { engSt s e with
    req := some ⟨s.time.ticks + (if s.time.phase ≤ 113 then 1 else 2), clr, getF ENG.PROB_PROB_LEN (engPg e) 0 s, false⟩ } s)

theorem swapPending_engine (e : Nat) (clr : Bool) (s : State) : engSt (swapPending e clr s) e = { engSt s e with
    req := some ⟨s.time.ticks + (if s.time.phase ≤ 113 then 1 else 2), clr, getF ENG.PROB_PROB_LEN (engPg e) 0 s, false⟩ } := by
  rw [swapPending, setB, engSt_setF, engSt_putEng]

theorem engSwapReq_takes {e : Nat} {clr : Bool} {s : State} (sound : engSwapCause e clr s = 0) (idle : (engSt s e).req = none) :
    engSwapReq e clr s = .ok (swapPending e clr s) := by
  simp only [engSwapReq, sound, idle, ne_eq, not_true_eq_false, if_false, Option.isSome_none, Bool.false_eq_true]
  rfl

theorem engSwapReq_refuses {e : Nat} {clr : Bool} {s : State} (unsound : engSwapCause e clr s ≠ 0) :
    engSwapReq e clr s = .refuseTo (engRecord e (engSwapCause e clr s) s) := if_pos unsound

/-- SWAP_REQ with DATA_CLR (R280, R281). -/
theorem engSwapReq_does {clr : Bool} (awake : Awake s) (may : MayWrite party (engPg e.val) false s) (zero : CommandBitsZero (engPg e.val) 0x08 s)
    (buffered : doubleBuffered (engPg e.val) s = true) (idle : (engSt s e.val).req = none) :
    (engSwapCause e.val clr s = 0 → Does (.engSwapReq party e clr) s fun u => Acked party (pageAddr (engPg e.val) 0x08) u
      ∧ getW CMN.STAT_SWAP_PEND (engPg e.val) 0 u = 1
      ∧ (engSt u e.val).req = some ⟨s.time.ticks + (if s.time.phase ≤ 113 then 1 else 2), clr, getF ENG.PROB_PROB_LEN (engPg e.val) 0 s, false⟩)
    ∧ (engSwapCause e.val clr s ≠ 0 → Does (.engSwapReq party e clr) s fun u =>
      u.bus.reports = [⟨party, pageAddr (engPg e.val) 0x08, .refused⟩] ∧ getW ENG.SWAP_CHK_VALID (engPg e.val) 0 u = 1
      ∧ getW ENG.SWAP_CHK_CAUSE (engPg e.val) 0 u = engSwapCause e.val clr s % 16 ∧ u.eng = s.eng) := by
  obtain ⟨only, swap, clears⟩ := swapWord_commands clr (ctrl_idle zero (.inl rfl))
  have abort := (bitsOf_swapWord (rdReg s (pageAddr (engPg e.val) 0x08)) clr (by decide) (by decide)).trans (ctrl_idle zero (.inr (.inr rfl)))
  have taken (l : List Hold) := engCtrl_swap (s := clearReports s) may l only abort swap clears buffered
  refine ⟨fun sound => ?_, fun unsound => ?_⟩
  · obtain ⟨u, settles, report, t, ⟨l, rfl⟩, regs, eng, -⟩ := engCtrl_does (i := .engSwapReq party e clr)
      (w := swapWord (rdReg s (pageAddr (engPg e.val) 0x08)) clr) (res := .done)
      (fact := fun t => ∃ l, t = stored (pageAddr (engPg e.val) 0x08) (swapPending e.val clr (withHolds (clearReports s) l))) awake may rfl rfl only
      (.inr swap) fun l => ⟨_, (taken l).1 _ (engSwapReq_takes ((engSwapCause_start ..).trans sound) idle), l, rfl⟩
    refine ⟨u, settles, report, ?_, ?_⟩
    · rw [getW_congr ((regs _).trans (rdReg_stored ..)), swapPending, setB, getW_setF _ _ _ _ _ (by decide) (by decide)]
      rfl
    · rw [engSt_of_eng (eng.trans (stored_eng ..)), swapPending_engine]
      rfl
  · obtain ⟨u, settles, report, t, ⟨l, rfl⟩, regs, eng, -⟩ := engCtrl_does (i := .engSwapReq party e clr)
      (w := swapWord (rdReg s (pageAddr (engPg e.val) 0x08)) clr) (res := .refused)
      (fact := fun t => ∃ l, t = engRecord e.val (engSwapCause e.val clr (withHolds (clearReports s) l)) (withHolds (clearReports s) l))
      awake may rfl rfl only (.inr swap) fun l => ⟨_, (taken l).2 _ (engSwapReq_refuses (by rwa [engSwapCause_start])), l, rfl⟩
    obtain ⟨valid, cause⟩ := engRecord_shows e.val (engSwapCause e.val clr (withHolds (clearReports s) l)) (withHolds (clearReports s) l)
    refine ⟨u, settles, report, ?_, ?_, eng.trans (engRecord_eng ..)⟩
    · rw [getW_congr (regs _), valid]
    · rw [getW_congr (regs _), cause, engSwapCause_start]

end

/-! ### CYC_CLR -/

/-- The row of CYC_CLR of the engines' pages. -/
def cycClrDesc : RegDesc := ⟨0x118, 0x0, 1, [rfNc 0 0 .wo 0x0]⟩

theorem cycClr_row : ∀ e : Fin 16, plainReg (engPg e.val) 0x118 (pageField false) = true ∧ regAt (engPg e.val) 0x118 = some cycClrDesc := by decide

/-- CLR of CYC_CLR is noted for the next boundary (R273). -/
theorem cycClr_does {party : Party} {e : Fin 16} {s : State} (awake : Awake s) (may : MayWrite party (engPg e.val) false s) :
    Does (.cycClr party e) s fun u => Acked party (pageAddr (engPg e.val) 0x118) u ∧ RegsBut [] s u
      ∧ engSt u e.val = { engSt s e.val with clr := true } ∧ ∀ k, k ≠ e.val → engSt u k = engSt s k := by
  obtain ⟨plain, row⟩ := cycClr_row e
  obtain ⟨t, c, written, l, rfl⟩ := pageCmd_done (w := 1) (s := clearReports s)
    (P := fun t => ∃ l, t = putEng e.val { engSt s e.val with clr := true } (withHolds (clearReports s) l)) plain (by decide) may fun l d hd => by
      obtain rfl : cycClrDesc = d := Option.some.inj (row.symm.trans hd)
      have kind : pageKind (engPg e.val) = some .eng := (engCtrl_row e).2.2
      have engine : engPg e.val - 0x20 = e.val := Nat.add_sub_cancel_left ..
      refine ⟨_, .inl (List.ne_nil_of_mem (List.mem_filter.2 ⟨List.mem_singleton.2 rfl, rfl⟩)), ?_, l, rfl⟩
      rw [blockWrite_eng _ kind]
      show WrOut.ok (putEng (engPg e.val - 0x20) { engSt (withHolds (clearReports s) l) (engPg e.val - 0x20) with clr := true } _) = _
      rw [engine]
      rfl
  obtain ⟨u, settles, report, regs, parts⟩ := does_regWrite (i := .cycClr party e) awake ⟨by decide, by decide, by decide⟩ rfl written
  have eng : u.eng = (putEng e.val { engSt s e.val with clr := true } (withHolds (clearReports s) l)).eng := parts .eng (by decide) (by decide)
  refine ⟨u, settles, report, regs, ?_, fun k other => ?_⟩
  · rw [engSt_of_eng eng, engSt_putEng]
  · rw [engSt_of_eng eng, engSt_putEng_ne _ _ other.symm]
    rfl

end Sys2Proof.Machine

namespace Sys2Proof.Proofs
open Sys2Proof Sys2Proof.Machine

/-- Settles O29: each command on a sound and on an unsound request; a write of CTRL with commands alone touches neither RUN nor a
configuration field. -/
theorem enginePagesObeyTheirCommands : Obligations.Engine_Pages_Obey_Their_Commands := by
  unfold Obligations.Engine_Pages_Obey_Their_Commands
  intro party eng clr rivals s awake e p x cause
  refine ⟨postedOutcome_idle awake, ?_, fun may zero buffered idle => engSwapReq_does awake may zero buffered idle,
    engImageCrcCheck_does awake, probationTimeout_does awake, probAbort_does awake, cycClr_does awake⟩
  intro q rest posts w on
  exact postedOutcome_does awake posts on

end Sys2Proof.Proofs
end

section
/-!
PROOFS. Two statements about the valve drive (O30, O31). Every operation on a leg works on the leg's pair: it puts the pair's two legs, writes
some fields of the leg's page, and leaves the order in which commands wait (`LegWork`). What it does to the partner is a change of the running
decay between FAST and CLAMP alone (`Steered`), so that a profile's state is read off the one leg that the operation puts.
-/
namespace Sys2Proof.Machine

/-! ### Fields of the valve pages -/

/-- Units of a field's row on a valve page: 4 pairs, whose registers lie 8 apart, or 8 legs. -/
def rowUnits (f : Fld) : Nat := if f.stride = 8 then 4 else 8

/-- A field whose row lies on one page. -/
abbrev InPage (f : Fld) : Prop := f.lo ≤ f.hi ∧ f.hi < 32 ∧ f.off + f.stride * 7 < 0x400

/-- A field of every leg. -/
abbrev OfLegs (f : Fld) : Prop := InPage f ∧ rowUnits f = 8

/-- Two rows of fields that share no bit of a register. -/
abbrev Beside (f g : Fld) : Prop :=
  f.hi < g.lo ∨ g.hi < f.lo ∨ ∀ u < rowUnits f, ∀ w < rowUnits g, f.off + f.stride * u ≠ g.off + g.stride * w

/-- IRQ_STAT as one field (R28). -/
def irqWord : Fld := ⟨0x10, 0, 31, 0, .ro⟩

/-- What a decay and a profile write besides the leg (R295, R302). -/
def profileFields : List Fld := [VLV.LG_STAT_SUBST, VLV.LG_CNT_SUBST, VLV.LG_MOVE_MSTAT]

/-- What commands and waits write besides (R298, R303). -/
def commandFields : List Fld := profileFields ++ [VLV.LG_STAT_PREEMPT, VLV.LG_STAT_OVERWR, VLV.LG_STAT_DLY_EXP, VLV.LG_STAT_BLOCKED, VLV.LG_STAT_EXT,
  VLV.LG_STAT_REACH, VLV.LG_CNT_BLOCK, VLV.LG_CNT_OVW, VLV.LG_CNT_EXT, VLV.PR_STAT_LAST_WAIT, irqWord]

theorem rowUnits_le (f : Fld) : rowUnits f ≤ 8 := by unfold rowUnits; split <;> omega

theorem InPage.offset {f : Fld} (h : InPage f) {u : Nat} (hu : u < rowUnits f) : f.off + f.stride * u < 0x400 := by
  have row := rowUnits_le f
  have := Nat.mul_le_mul_left f.stride (show u ≤ 7 by omega)
  omega

theorem OfLegs.unit {f : Fld} (h : OfLegs f) (l : Nat) : l % 8 < rowUnits f := by
  have := h.2
  omega

/-- A field put leaves every field beside it, on whatever page. -/
theorem getW_setF_of_beside {f g : Fld} {p q u w : Nat} (hf : InPage f) (hg : InPage g) (hu : u < rowUnits f) (hw : w < rowUnits g)
    (h : Beside f g) (v : Nat) (s : State) : getW g q w (setF f p u v s) = getW g q w s := by
  refine getW_setF_other v s ⟨hf.1, hf.2.1⟩ hg.1 ?_
  rcases h with below | above | apart
  · exact .inr (.inr below)
  · exact .inr (.inl above)
  · have place := apart u hu w hw
    have offset := hf.offset hu
    have offset' := hg.offset hw
    refine .inl fun same => ?_
    simp only [fldAddr, pageAddr] at same
    omega

/-! ### Work on the drive -/

/-- Work of the valve drive on the pages `ps` that writes, of their fields, those of `fs` alone. -/
structure DriveWork (ps : List Nat) (fs : List Fld) (s t : State) : Prop where
  parts : ∃ r d c, t = { s with regs := r, drv := { s.drv with legs := d }, cyc := c }
  page : ∀ a, a / 0x400 ∉ ps → rdReg t a = rdReg s a
  fields : ∀ g, InPage g → (∀ f ∈ fs, Beside f g) → ∀ p, ∀ u < rowUnits g, getW g p u t = getW g p u s

namespace DriveWork
variable {ps qs : List Nat} {fs gs : List Fld} {s t u : State}

theorem refl (ps : List Nat) (fs : List Fld) (s : State) : DriveWork ps fs s s := ⟨⟨s.regs, s.drv.legs, s.cyc, rfl⟩, fun _ _ => rfl, fun _ _ _ _ _ _ => rfl⟩

theorem trans (h : DriveWork ps fs s t) (g : DriveWork ps fs t u) : DriveWork ps fs s u where
  parts := by
    obtain ⟨_, _, _, rfl⟩ := h.parts
    obtain ⟨_, _, _, rfl⟩ := g.parts
    exact ⟨_, _, _, rfl⟩
  page := fun a ha => (g.page a ha).trans (h.page a ha)
  fields := fun f hf beside p u hu => (g.fields f hf beside p u hu).trans (h.fields f hf beside p u hu)

theorem mono (h : DriveWork ps fs s t) (hp : ps ⊆ qs) (hf : fs ⊆ gs) : DriveWork qs gs s t :=
  ⟨h.parts, fun a ha => h.page a fun m => ha (hp m), fun g hg beside => h.fields g hg fun f m => beside f (hf m)⟩

theorem put (ps : List Nat) (fs : List Fld) (l : Nat) (v : LegState) (s : State) : DriveWork ps fs s (putLeg l v s) :=
  ⟨⟨_, _, _, rfl⟩, fun _ _ => rfl, fun _ _ _ _ _ _ => rfl⟩

theorem field {f : Fld} (hf : f ∈ fs) (inPage : InPage f) {p u : Nat} (hp : p ∈ ps) (hu : u < rowUnits f) (v : Nat) (s : State) :
    DriveWork ps fs s (setF f p u v s) := by
  refine ⟨⟨_, _, _, rfl⟩, fun a ha => rdReg_setF_ne _ _ _ _ _ fun e => ha ?_, fun g hg beside q w hw =>
    getW_setF_of_beside inPage hg hu hw (beside f hf) v s⟩
  have offset := inPage.offset hu
  have : a / 0x400 = p := by rw [← e, fldAddr, pageAddr]; omega
  rwa [this]

theorem irq (hf : irqWord ∈ fs) {p : Nat} (hp : p ∈ ps) (n : Nat) (s : State) : DriveWork ps fs s (setIrq p n s) := by
  refine ⟨⟨_, _, _, rfl⟩, fun a ha => rdReg_setIrq_ne _ _ _ fun e => ha ?_, fun g hg beside q w hw => ?_⟩
  · have : a / 0x400 = p := by rw [← e, pageAddr]; omega
    rwa [this]
  · refine getW_setIrq s fun same => ?_
    have offset := hg.offset hw
    obtain ⟨low, high, -⟩ := hg
    rcases beside irqWord hf with below | above | apart
    · exact absurd below (by simp only [irqWord]; omega)
    · exact absurd above (by simp only [irqWord]; omega)
    · have place := apart 0 (by decide) w hw
      simp only [fldAddr, pageAddr, irqWord] at same place
      omega

theorem forN {n : Nat} {f : Nat → State → State} (hf : ∀ i < n, ∀ s, DriveWork ps fs s (f i s)) (s : State) : DriveWork ps fs s (forN n f s) :=
  List.foldlRecOn _ _ (.refl ps fs s) fun t h i hi => h.trans (hf i (List.mem_range.1 hi) t)

theorem time (h : DriveWork ps fs s t) : t.time = s.time := by obtain ⟨_, _, _, rfl⟩ := h.parts; rfl
theorem flt (h : DriveWork ps fs s t) : t.flt = s.flt := by obtain ⟨_, _, _, rfl⟩ := h.parts; rfl
theorem usNow (h : DriveWork ps fs s t) : usNow t = Machine.usNow s := by rw [Machine.usNow, h.time, Machine.usNow]

/-- A double-buffered field in force stands. -/
theorem force (h : DriveWork ps fs s t) {f : Fld} (rwd : f.acc = .rwd) (p u : Nat) : getF f p u t = getF f p u s := by
  obtain ⟨_, _, _, rfl⟩ := h.parts
  rw [getF, getF, if_pos rwd, if_pos rwd]
  rfl

/-- Another field that none of those written touches stands. -/
theorem stands (h : DriveWork ps fs s t) {g : Fld} (ro : g.acc ≠ .rwd) (hg : InPage g) (beside : ∀ f ∈ fs, Beside f g) (p : Nat) {u : Nat}
    (hu : u < rowUnits g) : getF g p u t = getF g p u s := by
  rw [getF_eq ro, getF_eq ro, h.fields g hg beside p u hu]

end DriveWork

/-! ### Legs -/

@[simp] theorem legSt_putLeg (l : Nat) (v : LegState) (s : State) : legSt (putLeg l v s) l = v := by simp [legSt, putLeg]

theorem legSt_putLeg_ne {l j : Nat} (v : LegState) (s : State) (h : j ≠ l) : legSt (putLeg l v s) j = legSt s j := by
  simp [legSt, putLeg, tabGet_set_ne _ _ _ h.symm]

theorem legSt_congr {s t : State} (h : t.drv = s.drv) (l : Nat) : legSt t l = legSt s l := by rw [legSt, legSt, h]

theorem partnerOf_ne (l : Nat) : partnerOf l ≠ l := by unfold partnerOf; split <;> omega
theorem partnerOf_partnerOf (l : Nat) : partnerOf (partnerOf l) = l := by
  unfold partnerOf
  split
  · rw [if_neg (by omega)]; omega
  · rw [if_pos (by omega)]; omega
theorem partnerOf_div (l : Nat) : partnerOf l / 2 = l / 2 := by unfold partnerOf; split <;> omega
theorem legPg_partnerOf (l : Nat) : legPg (partnerOf l) = legPg l := by unfold legPg partnerOf; split <;> omega
theorem legPg_of_lt {l : Nat} (h : l < 16) : legPg l ∈ [0x30, 0x31] := by simp only [legPg, List.mem_cons, List.not_mem_nil, or_false]; omega

/-- Work on the pair of leg `l` that leaves which commands wait for a phase 40. -/
structure LegWork (l : Nat) (fs : List Fld) (s t : State) : Prop extends DriveWork [legPg l] fs s t where
  others : ∀ j, j ≠ l → j ≠ partnerOf l → legSt t j = legSt s j
  orders : ∀ j, (legSt t j).cmd = (legSt s j).cmd ∧ (legSt t j).next = (legSt s j).next

namespace LegWork
variable {l : Nat} {fs gs : List Fld} {s t u : State}

theorem refl (l : Nat) (fs : List Fld) (s : State) : LegWork l fs s s := ⟨.refl .., fun _ _ _ => rfl, fun _ => ⟨rfl, rfl⟩⟩

theorem trans (h : LegWork l fs s t) (g : LegWork l fs t u) : LegWork l fs s u :=
  ⟨h.toDriveWork.trans g.toDriveWork, fun j a b => (g.others j a b).trans (h.others j a b),
    fun j => ⟨(g.orders j).1.trans (h.orders j).1, (g.orders j).2.trans (h.orders j).2⟩⟩

theorem mono (h : LegWork l fs s t) (hf : fs ⊆ gs) : LegWork l gs s t := ⟨h.toDriveWork.mono (fun _ m => m) hf, h.others, h.orders⟩

/-- Work on a leg is work on its partner's pair. -/
theorem ofPartner (h : LegWork (partnerOf l) fs s t) : LegWork l fs s t :=
  ⟨legPg_partnerOf l ▸ h.toDriveWork, fun j a b => h.others j b (by rwa [partnerOf_partnerOf]), h.orders⟩

/-- Work that leaves the legs. -/
theorem ofDrive (h : DriveWork [legPg l] fs s t) (drv : t.drv = s.drv) : LegWork l fs s t :=
  ⟨h, fun j _ _ => legSt_congr drv j, fun j => by rw [legSt_congr drv]; exact ⟨rfl, rfl⟩⟩

theorem field {f : Fld} (hf : f ∈ fs) (row : OfLegs f) {v : Nat} (s : State) : LegWork l fs s (setF f (legPg l) (l % 8) v s) :=
  .ofDrive (.field hf row.1 (List.mem_singleton.2 rfl) (row.unit _) v s) rfl

/-- A field of the legs that none of those written touches stands. -/
theorem shows (h : LegWork l fs s t) {g : Fld} (row : OfLegs g) (beside : ∀ f ∈ fs, Beside f g) (p j : Nat) : getW g p (j % 8) t = getW g p (j % 8) s :=
  h.fields g row.1 beside p _ (row.unit _)

theorem irq (hf : irqWord ∈ fs) (n : Nat) (s : State) : LegWork l fs s (setIrq (legPg l) n s) := .ofDrive (.irq hf (List.mem_singleton.2 rfl) n s) rfl

theorem put {v : LegState} (hv : v.cmd = (legSt s l).cmd ∧ v.next = (legSt s l).next) : LegWork l fs s (putLeg l v s) where
  toDriveWork := .put ..
  others := fun j a _ => legSt_putLeg_ne v s a
  orders := fun j => by
    by_cases h : j = l
    · subst h; rw [legSt_putLeg]; exact hv
    · rw [legSt_putLeg_ne v s h]; exact ⟨rfl, rfl⟩

/-- Work that begins with a leg put. -/
theorem afterPut {v : LegState} (h : LegWork l fs (putLeg l v s) t) (hv : v.cmd = (legSt s l).cmd ∧ v.next = (legSt s l).next) : LegWork l fs s t :=
  (put hv).trans h

theorem drive (h : LegWork l fs s t) (hl : l < 16) : DriveWork [0x30, 0x31] fs s t :=
  h.toDriveWork.mono (fun _ m => List.mem_singleton.1 m ▸ legPg_of_lt hl) fun _ m => m

end LegWork

end Sys2Proof.Machine
end

section
namespace Sys2Proof.Machine

/-! ### Decay and its substitution -/

/-- What a change between FAST and CLAMP may make of a leg `x`: only its running decay's switches and mark differ (R295). -/
structure Steered (x y : LegState) : Prop where
  same : ∃ sw decay, y = { x with sw := sw, decay := decay }
  off : x.sw ≠ .on → y.sw ≠ .on
  runs : y.decay.isSome = x.decay.isSome
  still : x.decay = none → y = x

namespace Steered
variable {x y z : LegState}

theorem refl (x : LegState) : Steered x x := ⟨⟨x.sw, x.decay, rfl⟩, id, rfl, fun _ => rfl⟩

theorem trans (h : Steered x y) (g : Steered y z) : Steered x z where
  same := by
    obtain ⟨_, _, rfl⟩ := h.same
    obtain ⟨_, _, rfl⟩ := g.same
    exact ⟨_, _, rfl⟩
  off := fun a => g.off (h.off a)
  runs := g.runs.trans h.runs
  still := fun a => by
    have first := h.still a
    rw [g.still (by rw [first, a]), first]

end Steered

/-- A substitution is shown and counted (R295). -/
def substNoted (l : Nat) (s : State) : State := incSat VLV.LG_CNT_SUBST (legPg l) (l % 8) (setLegB VLV.LG_STAT_SUBST l true s)

theorem substNoted_drv (l : Nat) (s : State) : (substNoted l s).drv = s.drv := (setF_drv ..).trans (setF_drv ..)

theorem substNoted_work (l : Nat) (s : State) : LegWork l profileFields s (substNoted l s) :=
  (LegWork.field (by decide) (by decide) s).trans (.field (by decide) (by decide) _)

/-- A refresh leaves the device, or puts the leg with its decay steered, and may note the substitution. -/
theorem refreshLeg_cases (l : Nat) (s : State) : refreshLeg l s = s ∨ ∃ v, Steered (legSt s l) v
    ∧ (refreshLeg l s = putLeg l v s ∨ refreshLeg l s = putLeg l v (substNoted l s)) := by
  cases decay : (legSt s l).decay with
  | none => exact .inl (by rw [refreshLeg, decay])
  | some d =>
    obtain ⟨m, t, sub⟩ := d
    have steered (sw : LegSw) (b : Bool) (h : sw ≠ .on) : Steered (legSt s l) { legSt s l with sw := sw, decay := some (m, t, b) } :=
      ⟨⟨_, _, rfl⟩, fun _ => h, by rw [decay]; rfl, fun none => by rw [none] at decay; exact absurd decay (by simp)⟩
    by_cases runs : (legSt s l).sw = .fast ∨ (legSt s l).sw = .clamp
    · right
      by_cases on : (legSt s (partnerOf l)).sw = .on ∧ hsTripped l s = false
      · refine ⟨_, steered .clamp true (by decide), ?_⟩
        simp only [refreshLeg, decay, if_pos runs, if_pos on]
        cases sub
        · exact .inr rfl
        · exact .inl rfl
      · have eta : { legSt s l with sw := .fast, decay := some (m, t, sub) } = { legSt s l with sw := .fast } := by rw [← decay]
        refine ⟨_, steered .fast sub (by decide), .inl ?_⟩
        rw [eta]
        simp only [refreshLeg, decay, if_pos runs, if_neg on]
    · exact .inl (by simp only [refreshLeg, decay, if_neg runs])

theorem refreshLeg_work (l : Nat) (s : State) : LegWork l profileFields s (refreshLeg l s) := by
  have put {v : LegState} {t : State} (steered : Steered (legSt s l) v) (drv : t.drv = s.drv) : LegWork l profileFields t (putLeg l v t) := by
    obtain ⟨_, _, rfl⟩ := steered.same
    exact .put (by rw [legSt_congr drv]; exact ⟨rfl, rfl⟩)
  rcases refreshLeg_cases l s with e | ⟨v, steered, e | e⟩
  · rw [e]; exact .refl ..
  · rw [e]; exact put steered rfl
  · rw [e]; exact (substNoted_work l s).trans (put steered (substNoted_drv l s))

theorem refreshLeg_steers (l j : Nat) (s : State) : Steered (legSt s j) (legSt (refreshLeg l s) j) := by
  have put {v : LegState} {t : State} (steered : Steered (legSt s l) v) (drv : t.drv = s.drv) : Steered (legSt s j) (legSt (putLeg l v t) j) := by
    by_cases h : j = l
    · subst h; rw [legSt_putLeg]; exact steered
    · rw [legSt_putLeg_ne v t h, legSt_congr drv]; exact .refl _
  rcases refreshLeg_cases l s with e | ⟨v, steered, e | e⟩
  · rw [e]; exact .refl _
  · rw [e]; exact put steered rfl
  · rw [e]; exact put steered (substNoted_drv l s)

theorem refreshPair_work (l : Nat) (s : State) : LegWork l profileFields s (refreshPair l s) :=
  (refreshLeg_work l s).trans (refreshLeg_work (partnerOf l) _).ofPartner

theorem refreshPair_steers (l j : Nat) (s : State) : Steered (legSt s j) (legSt (refreshPair l s) j) :=
  (refreshLeg_steers l j s).trans (refreshLeg_steers (partnerOf l) j _)

section
variable (l m : Nat) (s : State)

/-- A leg whose decay by method `m` begins now (R293). -/
def decaying (x : LegState) : LegState := { x with sw := decaySw l m (usNow s) s, decay := some (m, usNow s, false) }

/-- A leg whose LS is on (R293). -/
def turnedOn (x : LegState) : LegState := { x with sw := .on, decay := none }

theorem beginDecay_eq : beginDecay l m s = refreshPair l (putLeg l (decaying l m s (legSt s l)) s) := rfl

theorem legOn_eq : legOn l s = refreshPair l (putLeg l (turnedOn (legSt s l)) s) := rfl

theorem decaySw_ne_on (t : Nat) : decaySw l m t s ≠ .on := by
  unfold decaySw
  repeat' split
  all_goals decide

theorem beginDecay_work : LegWork l profileFields s (beginDecay l m s) := by
  rw [beginDecay_eq]
  exact (refreshPair_work ..).afterPut ⟨rfl, rfl⟩

/-- A leg whose decay has begun: a method runs, and LS is off. -/
theorem beginDecay_leg : ∃ sw decay, legSt (beginDecay l m s) l = { legSt s l with sw := sw, decay := decay } ∧ sw ≠ .on ∧ decay.isSome = true := by
  have steers := refreshPair_steers l l (putLeg l (decaying l m s (legSt s l)) s)
  rw [legSt_putLeg, ← beginDecay_eq] at steers
  obtain ⟨⟨sw, decay, e⟩, off, runs, -⟩ := steers
  rw [e] at off runs
  exact ⟨sw, decay, e, off (decaySw_ne_on l m s (usNow s)), runs⟩

theorem beginDecay_other {j : Nat} (h : j ≠ l) : Steered (legSt s j) (legSt (beginDecay l m s) j) := by
  have steers := refreshPair_steers l j (putLeg l (decaying l m s (legSt s l)) s)
  rwa [legSt_putLeg_ne _ _ h] at steers

theorem legOn_work : LegWork l profileFields s (legOn l s) := by
  rw [legOn_eq]
  exact (refreshPair_work ..).afterPut ⟨rfl, rfl⟩

theorem legOn_leg : legSt (legOn l s) l = turnedOn (legSt s l) := by
  have steers := refreshPair_steers l l (putLeg l (turnedOn (legSt s l)) s)
  rw [legSt_putLeg] at steers
  exact steers.still rfl

end

/-! ### The end of a profile -/

section
variable (l : Nat) (s : State)

theorem countOn_cases : countOn l s = s ∨ ∃ n o, countOn l s = putLeg l { legSt s l with cur := n, onSince := o } s := by
  cases since : (legSt s l).onSince with
  | none => exact .inl (by rw [countOn, since])
  | some t => exact .inr ⟨_, _, by rw [countOn, since]⟩

theorem countOn_work : LegWork l profileFields s (countOn l s) := by
  rcases countOn_cases l s with e | ⟨n, o, e⟩
  · rw [e]; exact .refl ..
  · rw [e]; exact .put ⟨rfl, rfl⟩

theorem countOn_leg : ∃ n o, legSt (countOn l s) l = { legSt s l with cur := n, onSince := o } := by
  rcases countOn_cases l s with e | ⟨n, o, e⟩
  · exact ⟨_, _, by rw [e]⟩
  · exact ⟨n, o, by rw [e, legSt_putLeg]⟩

theorem countOn_other {j : Nat} (h : j ≠ l) : legSt (countOn l s) j = legSt s j := by
  rcases countOn_cases l s with e | ⟨n, o, e⟩
  · rw [e]
  · rw [e, legSt_putLeg_ne _ _ h]

theorem endRamp_cases : (endRamp l s = s ∧ (legSt s l).ramp = false)
    ∨ endRamp l s = setLegF VLV.LG_MOVE_MSTAT l 2 (putLeg l { legSt s l with ramp := false } s) := by
  cases ramp : (legSt s l).ramp with
  | false => exact .inl ⟨by simp [endRamp, ramp], rfl⟩
  | true => exact .inr (by simp [endRamp, ramp])

theorem legSt_setF (f : Fld) (p u v : Nat) (s : State) (j : Nat) : legSt (setF f p u v s) j = legSt s j := legSt_congr (setF_drv ..) j

theorem endRamp_work : LegWork l profileFields s (endRamp l s) := by
  rcases endRamp_cases l s with ⟨e, -⟩ | e
  · rw [e]; exact .refl ..
  · rw [e, setLegF]; exact LegWork.afterPut (.field (by decide) (by decide) _) ⟨rfl, rfl⟩

theorem endRamp_leg : legSt (endRamp l s) l = { legSt s l with ramp := false } := by
  rcases endRamp_cases l s with ⟨e, off⟩ | e
  · rw [e, ← off]
  · rw [e, setLegF, legSt_setF, legSt_putLeg]

theorem endRamp_other {j : Nat} (h : j ≠ l) : legSt (endRamp l s) j = legSt s j := by
  rcases endRamp_cases l s with ⟨e, -⟩ | e
  · rw [e]
  · rw [e, setLegF, legSt_setF, legSt_putLeg_ne _ _ h]

/-- A leg `x` whose profile ends in state `st`. -/
def leaving (st : Nat) (x : LegState) : LegState := { x with st := st, onSince := none, chop := false }

/-- A leg `x` whose profile has ended in state `st`, with some decay. -/
def EndedIn (st : Nat) (x y : LegState) : Prop := ∃ n sw decay,
  y = { leaving st x with ramp := false, cur := n, sw := sw, decay := decay }

variable (st m : Nat)

/-- A profile's end, up to the decay with which it enters its state. -/
theorem endProfile_eq : endProfile l st m s
    = beginDecay l m (putLeg l (leaving st (legSt (endRamp l (countOn l s)) l)) (endRamp l (countOn l s))) := rfl

theorem endProfile_work : LegWork l profileFields s (endProfile l st m s) := by
  rw [endProfile_eq]
  exact ((countOn_work l s).trans (endRamp_work ..)).trans ((beginDecay_work ..).afterPut ⟨rfl, rfl⟩)

theorem endProfile_leg : EndedIn st (legSt s l) (legSt (endProfile l st m s) l) := by
  obtain ⟨n, o, counted⟩ := countOn_leg l s
  obtain ⟨sw, decay, e, -⟩ := beginDecay_leg l m (putLeg l (leaving st (legSt (endRamp l (countOn l s)) l)) (endRamp l (countOn l s)))
  rw [legSt_putLeg] at e
  refine ⟨n, sw, decay, e.trans ?_⟩
  rw [endRamp_leg, counted]
  rfl

theorem endProfile_other {j : Nat} (h : j ≠ l) : Steered (legSt s j) (legSt (endProfile l st m s) j) := by
  have steers := beginDecay_other l m (putLeg l (leaving st (legSt (endRamp l (countOn l s)) l)) (endRamp l (countOn l s))) h
  rwa [legSt_putLeg_ne _ _ h, endRamp_other _ _ h, countOn_other _ _ h] at steers

end

end Sys2Proof.Machine
end

section
namespace Sys2Proof.Machine

/-! ### What bears on a leg from outside its pair's work -/

/-- The work of the drive does not move a leg into its safe state or out of it (R311). -/
theorem DriveWork.legSafe {fs : List Fld} {s t : State} (h : DriveWork [0x30, 0x31] fs s t) (hfs : ∀ f ∈ fs, Beside f CMN.STAT_RUNNING) (l : Nat) :
    legSafe l t = Machine.legSafe l s := by
  have ov : getB PWR.STAT_VF_OV 0x36 0 t = getB PWR.STAT_VF_OV 0x36 0 s := by
    rw [getB, getB, getF_eq (by decide), getF_eq (by decide), getW_congr (h.page _ (by decide))]
  have uv : getB PWR.STAT_VF_UV 0x36 0 t = getB PWR.STAT_VF_UV 0x36 0 s := by
    rw [getB, getB, getF_eq (by decide), getF_eq (by decide), getW_congr (h.page _ (by decide))]
  have silent : hostSilent t = hostSilent s := by
    rw [hostSilent, hostSilent, getB, getB, getF_eq (by decide), getF_eq (by decide), getW_congr (h.page _ (by decide))]
  have runs : running (legPg l) t = running (legPg l) s := by
    rw [running, running, getB, getB, h.stands (by decide) (by decide) hfs _ (by decide)]
  have enabled : legF VLV.LG_CTRL_EN l t = legF VLV.LG_CTRL_EN l s := h.force rfl ..
  have reached : covered (legPg l) (l % 8) t = covered (legPg l) (l % 8) s := by
    obtain ⟨_, _, _, rfl⟩ := h.parts
    rfl
  have owner : unitOwner (legPg l) (l % 8) t = unitOwner (legPg l) (l % 8) s := by
    obtain ⟨_, _, _, rfl⟩ := h.parts
    unfold unitOwner
    split <;> rfl
  simp only [Machine.legSafe, fieldWindow, legForced, silenced, ov, uv, silent, runs, enabled, reached, owner]

theorem commandFields_running : ∀ f ∈ commandFields, Beside f CMN.STAT_RUNNING := by decide
theorem commandFields_duty : ∀ f ∈ commandFields, Beside f VLV.LG_STAT_DUTY_EP := by decide
theorem profile_subset_command : profileFields ⊆ commandFields := List.subset_append_left ..

section
variable {l : Nat} {s t : State}

theorem LegWork.legSafe (h : LegWork l commandFields s t) (hl : l < 16) (j : Nat) : Machine.legSafe j t = Machine.legSafe j s :=
  (h.drive hl).legSafe commandFields_running j

theorem DriveWork.duty {ps : List Nat} (h : DriveWork ps commandFields s t) (j : Nat) : legF VLV.LG_STAT_DUTY_EP j t = legF VLV.LG_STAT_DUTY_EP j s :=
  h.stands (by decide) (by decide) commandFields_duty _ (Nat.mod_lt _ (by decide))

end

/-! ### Registers and legs outside a pair -/

/-- An operation that touches, of the registers, those of the page of leg `l` alone, and of the legs those of its pair alone. -/
def PairOnly (l : Nat) (s t : State) : Prop := (∀ a, a / 0x400 ≠ legPg l → rdReg t a = rdReg s a) ∧ ∀ j, j ≠ l → j ≠ partnerOf l → legSt t j = legSt s j

section
variable {l : Nat} {fs : List Fld} {s t u : State}

theorem PairOnly.refl (l : Nat) (s : State) : PairOnly l s s := ⟨fun _ _ => rfl, fun _ _ _ => rfl⟩

theorem PairOnly.trans (h : PairOnly l s t) (g : PairOnly l t u) : PairOnly l s u :=
  ⟨fun a ha => (g.1 a ha).trans (h.1 a ha), fun j a b => (g.2 j a b).trans (h.2 j a b)⟩

theorem PairOnly.of_parts (regs : t.regs = s.regs) (drv : t.drv = s.drv) : PairOnly l s t :=
  ⟨fun a _ => by rw [rdReg, rdReg, regs], fun j _ _ => legSt_congr drv j⟩

theorem PairOnly.put (l : Nat) (v : LegState) (s : State) : PairOnly l s (putLeg l v s) := ⟨fun _ _ => rfl, fun _ a _ => legSt_putLeg_ne v s a⟩

theorem LegWork.pair (h : LegWork l fs s t) : PairOnly l s t := ⟨fun a ha => h.page a fun m => ha (List.mem_singleton.1 m), h.others⟩

/-- The instant of an event leaves the drive. -/
theorem reachUs_drv {n : Nat} (h : reachUs n s = some t) : t.drv = s.drv := by
  unfold reachUs at h
  split at h
  · exact absurd h (by simp)
  · split at h
    · rw [← Option.some.inj h, atPhase_drv]
    · rw [← Option.some.inj h]

theorem reachUs_pair {n : Nat} (h : reachUs n s = some t) : PairOnly l s t := .of_parts (reachUs_regs h) (reachUs_drv h)

theorem legSt_reachUs {n : Nat} (h : reachUs n s = some t) (j : Nat) : legSt t j = legSt s j := legSt_congr (reachUs_drv h) j

end

theorem legSt_reach {ps : List Part} {f : State → State} {s : State} (h : Part.drv ∈ ps) (j : Nat) : legSt (reach ps f s) j = legSt (f s) j :=
  legSt_congr (reach_drv _ _ _ h) j

/-- The command of an operation on a pair. -/
theorem does_pair {i : Instr} {ps : List Part} {f : State → State} {l : Nat} {fact : State → Prop} {s : State} (awake : Awake s)
    (he : exec i s = .next (finish (reach ps f) s)) (drv : Part.drv ∈ ps) (work : PairOnly l (clearReports s) (f (clearReports s)))
    (holds : fact (reach ps f (clearReports s))) :
    Does i s fun u => Outside [legPg l] s u ∧ (∀ j, j ≠ l → j ≠ partnerOf l → legSt u j = legSt s j) ∧ fact u := by
  refine ⟨_, settles_finish awake he, fun a _ ha => ?_, fun j hj hp => ?_, holds⟩
  · by_cases regs : Part.regs ∈ ps
    · rw [rdReg_reach _ _ _ regs]
      exact work.1 a fun e => ha (List.mem_singleton.2 e)
    · rw [rdReg_reach_not _ _ _ regs, rdReg_clearReports]
  · rw [legSt_reach drv]
    exact work.2 j hj hp

/-! ### The pull and the hold -/

section
variable {l : Nat} {s : State}

theorem getW_setLegF {f : Fld} (inPage : InPage f) (l v : Nat) (s : State) :
    getW f (legPg l) (l % 8) (setLegF f l v s) = v % 2 ^ (f.hi - f.lo + 1) := getW_setF f _ _ v s inPage.1 inPage.2.1

theorem legReach_idle (h : ¬ ((legSt s l).st = 1 ∧ (legSt s l).chop = false)) : legReach l s = s := if_neg h

/-- The leg whose unchopped ramp has ended, with REACH shown. -/
def reachShown (l : Nat) (s : State) : State := endRamp l (setLegB VLV.LG_STAT_REACH l true s)

/-- At REACH chopping begins (R300). -/
theorem legReach_chops (h : (legSt s l).st = 1 ∧ (legSt s l).chop = false) : (legSt (legReach l s) l).chop = true ∧ (legSt (legReach l s) l).st = 1
    ∧ getW VLV.LG_STAT_REACH (legPg l) (l % 8) (legReach l s) = 1 ∧ LegWork l commandFields s (legReach l s) := by
  have e : legReach l s = beginDecay l (legF VLV.LG_DECAY_DK_PULL l (reachShown l s))
      (putLeg l { legSt (reachShown l s) l with chop := true } (reachShown l s)) := if_pos h
  have shown : LegWork l commandFields s (setLegB VLV.LG_STAT_REACH l true s) := by
    rw [setLegB, setLegF]; exact .field (by decide) (by decide) s
  have ramp : LegWork l profileFields (setLegB VLV.LG_STAT_REACH l true s) (legReach l s) := by
    rw [e]; exact (endRamp_work ..).trans ((beginDecay_work ..).afterPut ⟨rfl, rfl⟩)
  have leg : legSt (reachShown l s) l = { legSt s l with ramp := false } := by
    rw [reachShown, endRamp_leg, setLegB, setLegF, legSt_setF]
  obtain ⟨sw, decay, chops, -⟩ := beginDecay_leg l (legF VLV.LG_DECAY_DK_PULL l (reachShown l s))
    (putLeg l { legSt (reachShown l s) l with chop := true } (reachShown l s))
  rw [← e, legSt_putLeg, leg] at chops
  refine ⟨by rw [chops], by rw [chops]; exact h.1, ?_, shown.trans (ramp.mono profile_subset_command)⟩
  rw [ramp.shows (by decide) (by decide), setLegB, getW_setLegF (by decide)]
  rfl

theorem legHoldLevel_idle (h : ¬ ((legSt s l).st = 2 ∧ (legSt s l).chop = false)) : legHoldLevel l s = s := if_neg h

/-- At I_HOLD chopping begins anew (R300). -/
theorem legHoldLevel_chops (h : (legSt s l).st = 2 ∧ (legSt s l).chop = false) :
    (legSt (legHoldLevel l s) l).chop = true ∧ (legSt (legHoldLevel l s) l).st = 2 ∧ LegWork l profileFields s (legHoldLevel l s) := by
  have e : legHoldLevel l s = beginDecay l (legF VLV.LG_DECAY_DK_HOLD l s) (putLeg l { legSt s l with chop := true } s) := if_pos h
  obtain ⟨sw, decay, chops, -⟩ := beginDecay_leg l (legF VLV.LG_DECAY_DK_HOLD l s) (putLeg l { legSt s l with chop := true } s)
  rw [← e, legSt_putLeg] at chops
  exact ⟨by rw [chops], by rw [chops]; exact h.1, by rw [e]; exact (beginDecay_work ..).afterPut ⟨rfl, rfl⟩⟩

theorem legReach_pair (l : Nat) (s : State) : PairOnly l s (legReach l s) := by
  by_cases h : (legSt s l).st = 1 ∧ (legSt s l).chop = false
  · obtain ⟨-, -, -, work⟩ := legReach_chops h
    exact work.pair
  · rw [legReach_idle h]; exact .refl l s

theorem legHoldLevel_pair (l : Nat) (s : State) : PairOnly l s (legHoldLevel l s) := by
  by_cases h : (legSt s l).st = 2 ∧ (legSt s l).chop = false
  · obtain ⟨-, -, work⟩ := legHoldLevel_chops h
    exact work.pair
  · rw [legHoldLevel_idle h]; exact .refl l s

/-- The leg goes from PULL to HOLD, without chopping (R300). -/
def toHold (l : Nat) (s : State) : State :=
  beginDecay l (legF VLV.LG_DECAY_DK_P2H l (endRamp l s)) (putLeg l { legSt (endRamp l s) l with st := 2, chop := false } (endRamp l s))

theorem toHold_work (l : Nat) (s : State) : LegWork l profileFields s (toHold l s) :=
  (endRamp_work l s).trans ((beginDecay_work ..).afterPut ⟨rfl, rfl⟩)

theorem toHold_leg (l : Nat) (s : State) : ∃ sw decay,
    legSt (toHold l s) l = { legSt s l with ramp := false, st := 2, chop := false, sw := sw, decay := decay } := by
  obtain ⟨sw, decay, holds, -⟩ := beginDecay_leg l (legF VLV.LG_DECAY_DK_P2H l (endRamp l s))
    (putLeg l { legSt (endRamp l s) l with st := 2, chop := false } (endRamp l s))
  rw [legSt_putLeg] at holds
  refine ⟨sw, decay, holds.trans ?_⟩
  rw [endRamp_leg]

theorem legPullEnd_pair (l : Nat) (s : State) : PairOnly l s (legPullEnd l s) := by
  unfold legPullEnd
  extract_lets x before
  split
  · split
    · exact .refl l s
    · next v reached => exact (reachUs_pair reached).trans (toHold_work l v).pair
  · exact .refl l s

/-- At s + T_PULL the leg goes to HOLD, where the profile has not ended before (R300). -/
theorem legPullEnd_holds (pull : (legSt s l).st = 1) (first : ∀ e, (legSt s l).endAt = some e → (legSt s l).pullEnd < e)
    (due : (legSt s l).pullEnd / 125 ≤ s.time.ticks) : (legSt (legPullEnd l s) l).st = 2 ∧ (legSt (legPullEnd l s) l).chop = false
      ∧ (legSt (legPullEnd l s) l).endAt = (legSt s l).endAt := by
  obtain ⟨v, reached⟩ := reachUs_isSome due
  have before : (match (legSt s l).endAt with | some e => decide ((legSt s l).pullEnd < e) | none => true) = true := by
    cases ends : (legSt s l).endAt with
    | none => rfl
    | some e => exact decide_eq_true (first e ends)
  have does : legPullEnd l s = toHold l v := by
    refine (if_pos ⟨pull, before⟩).trans ?_
    rw [reached]
    rfl
  obtain ⟨sw, decay, holds⟩ := toHold_leg l v
  rw [does, holds, legSt_reachUs reached]
  exact ⟨rfl, rfl, rfl⟩

end

end Sys2Proof.Machine
end

section
namespace Sys2Proof.Machine

section
variable {l : Nat} {s : State}

/-! ### The end of a profile and of its decay -/

theorem legProfileEnd_pair (l : Nat) (s : State) : PairOnly l s (legProfileEnd l s) := by
  unfold legProfileEnd
  extract_lets x
  split
  · exact .refl l s
  · split
    · split
      · exact .refl l s
      · next v reached => exact (reachUs_pair reached).trans (endProfile_work ..).pair
    · exact .refl l s

/-- At E the leg goes to OFF (R300). -/
theorem legProfileEnd_off {e : Nat} (ends : (legSt s l).endAt = some e) (runs : inProfile (legSt s l) = true) (due : e / 125 ≤ s.time.ticks) :
    (legSt (legProfileEnd l s) l).st = 3 ∧ (legSt (legProfileEnd l s) l).chop = false := by
  obtain ⟨v, reached⟩ := reachUs_isSome due
  have does : legProfileEnd l s = endProfile l 3 (dkOff l v) v := by
    simp only [legProfileEnd, ends, runs, reached, if_true]
  obtain ⟨n, sw, decay, off⟩ := endProfile_leg l v 3 (dkOff l v)
  rw [does, off]
  exact ⟨rfl, rfl⟩

theorem legDecayEnd_pair (l : Nat) (s : State) : PairOnly l s (legDecayEnd l s) := by
  unfold legDecayEnd
  extract_lets x
  split
  · exact .put ..
  · split
    · exact .put ..
    · exact .refl l s

theorem legDecayEnd_off (off : (legSt s l).st = 3) : legSt (legDecayEnd l s) l = { legSt s l with st := 0, sw := .idle, decay := none } := by
  rw [legDecayEnd, if_pos off, legSt_putLeg]

theorem legDecayEnd_trip (trip : (legSt s l).st = 4) : legSt (legDecayEnd l s) l = { legSt s l with sw := .idle, decay := none } := by
  rw [legDecayEnd, if_neg (by omega), if_pos trip, legSt_putLeg]

theorem legDecayEnd_idle (h : (legSt s l).st ≠ 3 ∧ (legSt s l).st ≠ 4) : legDecayEnd l s = s := by
  rw [legDecayEnd, if_neg h.1, if_neg h.2]

/-! ### The armature's dip -/

section
variable {t imax imin amp : Nat}

/-- What confirms a dip (R302). -/
def Dips (l imax imin amp : Nat) (s : State) : Prop := (legSt s l).st = 1 ∧ (legSt s l).ramp = true
  ∧ imin + legF VLV.LG_TIME_DIP_TH l s ≤ imax ∧ imin + legF VLV.LG_TIME_DIP_TH l s ≤ amp

theorem satN_eq_min (m n : Nat) : satN m n = min n m := by unfold satN; split <;> omega

theorem legDip_idle (h : ¬ Dips l imax imin amp s) : legDip l t imax imin amp s = s := if_neg h

/-- The registers of a confirmed dip (R302). -/
def dipShown (l t imin : Nat) (s : State) : State :=
  setLegF VLV.LG_MOVE_MOVE_T l (satN 0xFFFF t) (setLegF VLV.LG_MOVE_MOVE_I l (satN 0x3FF imin) s)

theorem legDip_eq (h : Dips l imax imin amp s) :
    legDip l t imax imin amp s = setLegF VLV.LG_MOVE_MSTAT l 1 (putLeg l { legSt s l with ramp := false } (dipShown l t imin s)) := if_pos h

theorem legDip_pair (l t imax imin amp : Nat) (s : State) : PairOnly l s (legDip l t imax imin amp s) := by
  by_cases h : Dips l imax imin amp s
  · have shown : LegWork l [VLV.LG_MOVE_MOVE_T, VLV.LG_MOVE_MOVE_I] s (dipShown l t imin s) :=
      (LegWork.field (by decide) (by decide) s).trans (.field (by decide) (by decide) _)
    rw [legDip_eq h]
    exact (shown.pair.trans (.put ..)).trans (LegWork.field (List.mem_singleton.2 rfl) (by decide) _ : LegWork l [VLV.LG_MOVE_MSTAT] _ _).pair
  · rw [legDip_idle h]; exact .refl l s

/-- A dip is confirmed: MSTAT is 1, with the instant and the current of the minimum (R302). -/
theorem legDip_confirms (h : Dips l imax imin amp s) :
    legSt (legDip l t imax imin amp s) l = { legSt s l with ramp := false }
    ∧ getW VLV.LG_MOVE_MSTAT (legPg l) (l % 8) (legDip l t imax imin amp s) = 1
    ∧ getW VLV.LG_MOVE_MOVE_T (legPg l) (l % 8) (legDip l t imax imin amp s) = min t 65535
    ∧ getW VLV.LG_MOVE_MOVE_I (legPg l) (l % 8) (legDip l t imax imin amp s) = min imin 1023 := by
  have put (f : Fld) (u : State) (v : LegState) : getW f (legPg l) (l % 8) (putLeg l v u) = getW f (legPg l) (l % 8) u := rfl
  have width (m n k : Nat) (hm : m < k) : satN m n % k = min n m := by
    rw [satN_eq_min]; exact Nat.mod_eq_of_lt (by omega)
  rw [legDip_eq h]
  refine ⟨?_, getW_setLegF (by decide) .., ?_, ?_⟩
  · rw [setLegF, legSt_setF, legSt_putLeg]
  · rw [setLegF, getW_setF_beside _ _ (by decide) (by decide) (by decide), put, dipShown, getW_setLegF (by decide)]
    exact width _ _ _ (by decide)
  · rw [setLegF, getW_setF_beside _ _ (by decide) (by decide) (by decide), put, dipShown, setLegF,
      getW_setF_beside _ _ (by decide) (by decide) (by decide), getW_setLegF (by decide)]
    exact width _ _ _ (by decide)

end

/-! ### The start of a pull -/

/-- A leg `x` whose pull by command `c` begins now (R298, R300). -/
def pulling (l : Nat) (c : LegCmd) (amp : Nat) (s : State) (x : LegState) : LegState :=
  { x with st := 1, start := usNow s, pullEnd := usNow s + legF VLV.LG_TIME_T_PULL l s
           endAt := if c.op = 1 then some (Nat.max (usNow s + c.onT) (usNow s + legF VLV.LG_TIME_T_PULL l s)) else none
           chop := false, ramp := !decide (4 ≤ amp), onSince := some (usNow s), wait := none }

/-- What STAT and MOVE show of a profile that begins (R298, R302). -/
def pullShown (l amp : Nat) (s : State) : State :=
  let z (f : Fld) (a : State) : State := setLegB f l false a
  let s := z VLV.LG_STAT_BLOCKED (z VLV.LG_STAT_OVERWR (z VLV.LG_STAT_SUBST (z VLV.LG_STAT_PREEMPT (z VLV.LG_STAT_EXT (z VLV.LG_STAT_REACH s)))))
  if decide (4 ≤ amp) then setLegF VLV.LG_MOVE_MSTAT l 3 s else s

theorem pullShown_drv (l amp : Nat) (s : State) : (pullShown l amp s).drv = s.drv := by
  unfold pullShown
  simp only [setLegB, setLegF]
  split <;> simp only [setF_drv]

theorem startPull_eq (l : Nat) (c : LegCmd) (amp : Nat) (s : State) :
    startPull l c amp s = legOn l (pullShown l amp (putLeg l (pulling l c amp s (legSt s l)) s)) := rfl

theorem setLegB_work {f : Fld} (hf : f ∈ commandFields) (row : OfLegs f) (b : Bool) (l : Nat) (s : State) : LegWork l commandFields s (setLegB f l b s) := by
  rw [setLegB, setLegF]; exact .field hf row s

theorem pullShown_work (l amp : Nat) (s : State) : LegWork l commandFields s (pullShown l amp s) := by
  have show0 {f : Fld} (hf : f ∈ commandFields) (row : OfLegs f) (s : State) : LegWork l commandFields s (setLegB f l false s) := setLegB_work hf row ..
  unfold pullShown
  extract_lets z t
  have cleared : LegWork l commandFields s t :=
    (show0 (f := VLV.LG_STAT_REACH) (by decide) (by decide) s).trans <| (show0 (f := VLV.LG_STAT_EXT) (by decide) (by decide) _).trans <|
    (show0 (f := VLV.LG_STAT_PREEMPT) (by decide) (by decide) _).trans <| (show0 (f := VLV.LG_STAT_SUBST) (by decide) (by decide) _).trans <|
    (show0 (f := VLV.LG_STAT_OVERWR) (by decide) (by decide) _).trans (show0 (f := VLV.LG_STAT_BLOCKED) (by decide) (by decide) _)
  split
  · exact cleared.trans (.field (by decide) (by decide) t)
  · exact cleared

theorem startPull_work (l : Nat) (c : LegCmd) (amp : Nat) (s : State) : LegWork l commandFields s (startPull l c amp s) := by
  rw [startPull_eq]
  exact ((pullShown_work ..).trans ((legOn_work ..).mono profile_subset_command)).afterPut ⟨rfl, rfl⟩

theorem startPull_leg (l : Nat) (c : LegCmd) (amp : Nat) (s : State) : legSt (startPull l c amp s) l = turnedOn (pulling l c amp s (legSt s l)) := by
  rw [startPull_eq, legOn_leg, legSt_congr (pullShown_drv ..), legSt_putLeg]

/-! ### Commands that are not executed, and waits -/

theorem blockCmd_drv (l : Nat) (s : State) : (blockCmd l s).drv = s.drv := by
  rw [blockCmd, setIrq, noteBit_drv, wrReg_drv, incSat, setF_drv, setLegB, setLegF, setF_drv]

theorem blockCmd_work (l : Nat) (s : State) : LegWork l commandFields s (blockCmd l s) := by
  rw [blockCmd, incSat]
  exact ((setLegB_work (by decide) (by decide) ..).trans (.field (by decide) (by decide) _)).trans (.irq (by decide) ..)

/-- A command that is not executed shows BLOCKED (R298). -/
theorem blockCmd_shows (l : Nat) (s : State) : getW VLV.LG_STAT_BLOCKED (legPg l) (l % 8) (blockCmd l s) = 1 := by
  have counted (t : State) : LegWork l [VLV.LG_CNT_BLOCK, irqWord] t (setIrq (legPg l) 18 (incSat VLV.LG_CNT_BLOCK (legPg l) (l % 8) t)) := by
    rw [incSat]
    exact (LegWork.field (by decide) (by decide) _).trans (.irq (by decide) ..)
  rw [blockCmd, (counted _).shows (by decide) (by decide), setLegB, getW_setLegF (by decide)]
  rfl

theorem lastWait_work (l since : Nat) (s : State) : LegWork l [VLV.PR_STAT_LAST_WAIT] s (lastWait l since s) := by
  have pair : l % 8 / 2 < rowUnits VLV.PR_STAT_LAST_WAIT := by rw [show rowUnits VLV.PR_STAT_LAST_WAIT = 4 from by decide]; omega
  exact .ofDrive (.field (List.mem_singleton.2 rfl) (by decide) (List.mem_singleton.2 rfl) pair _ s) (setF_drv ..)

/-- A leg that no longer waits, with the length of its wait and DLY_EXP shown (R303). -/
def waited (l since : Nat) (expired : Bool) (s : State) : State :=
  lastWait l since (setLegB VLV.LG_STAT_DLY_EXP l expired (putLeg l { legSt s l with wait := none } s))

theorem waited_leg (l since : Nat) (expired : Bool) (s : State) : legSt (waited l since expired s) l = { legSt s l with wait := none } := by
  rw [waited, lastWait, legSt_setF, setLegB, setLegF, legSt_setF, legSt_putLeg]

theorem waited_work (l since : Nat) (expired : Bool) (s : State) : LegWork l commandFields s (waited l since expired s) := by
  rw [waited]
  exact ((setLegB_work (by decide) (by decide) ..).trans ((lastWait_work ..).mono (by decide))).afterPut ⟨rfl, rfl⟩

theorem waited_shows (l since : Nat) (expired : Bool) (s : State) :
    getW VLV.LG_STAT_DLY_EXP (legPg l) (l % 8) (waited l since expired s) = b2n expired := by
  rw [waited, (lastWait_work ..).shows (by decide) (by decide), setLegB, getW_setLegF (by decide)]
  cases expired <;> rfl

section
variable {amp partnerAmp : Nat} {c : LegCmd}

theorem legWaitStart_pair (l amp partnerAmp : Nat) (s : State) : PairOnly l s (legWaitStart l amp partnerAmp s) := by
  unfold legWaitStart
  extract_lets x
  split
  · exact .refl l s
  · next c _ =>
    extract_lets expired t
    have work : LegWork l commandFields s t := waited_work l c.at_ false s
    split
    · exact .refl l s
    · split
      · exact (work.trans (blockCmd_work ..)).pair
      · exact (work.trans (startPull_work ..)).pair

/-- A waiting pull starts as soon as its pair's policy permits it (R303). -/
theorem legWaitStart_pulls (hl : l < 16) (waits : (legSt s l).wait = some c) (permitted : pullPermitted l partnerAmp s = true)
    (open_ : pairF VLV.PR_CFG_OVL l s ≠ 1 ∨ usNow s < c.at_ + pairF VLV.PR_CFG_DMAX l s) (unsafe_ : legSafe l s = false)
    (duty : legF VLV.LG_STAT_DUTY_EP l s = 0) :
    (legSt (legWaitStart l amp partnerAmp s) l).st = 1 ∧ (legSt (legWaitStart l amp partnerAmp s) l).wait = none
      ∧ (legSt (legWaitStart l amp partnerAmp s) l).start = usNow s := by
  have work := waited_work l c.at_ false s
  have running : (decide (pairF VLV.PR_CFG_OVL l s = 1) && decide (c.at_ + pairF VLV.PR_CFG_DMAX l s ≤ usNow s)) = false := by
    rcases open_ with other | early
    · simp [other]
    · simp [early]
  have does : legWaitStart l amp partnerAmp s = startPull l c amp (waited l c.at_ false s) := by
    unfold legWaitStart
    simp only [waits, permitted, running, Bool.not_true, Bool.or_self, Bool.false_eq_true, if_false]
    refine if_neg ?_
    change ¬ (legSafe l (waited l c.at_ false s) || decide (legF VLV.LG_STAT_DUTY_EP l (waited l c.at_ false s) = 1)) = true
    rw [work.legSafe hl, work.duty, unsafe_, duty]
    decide
  rw [does, startPull_leg]
  exact ⟨rfl, rfl, work.usNow⟩

theorem legDelayExpire_pair (l : Nat) (s : State) : PairOnly l s (legDelayExpire l s) := by
  unfold legDelayExpire
  extract_lets x
  split
  · exact .refl l s
  · split
    · split
      · exact .refl l s
      · next v reached => exact (reachUs_pair reached).trans ((waited_work ..).trans (blockCmd_work ..)).pair
    · exact .refl l s

/-- At s + DMAX a waiting command is not executed (R303). -/
theorem legDelayExpire_blocks (waits : (legSt s l).wait = some c) (policy : pairF VLV.PR_CFG_OVL l s = 1)
    (due : (c.at_ + pairF VLV.PR_CFG_DMAX l s) / 125 ≤ s.time.ticks) : legSt (legDelayExpire l s) l = { legSt s l with wait := none }
      ∧ getW VLV.LG_STAT_BLOCKED (legPg l) (l % 8) (legDelayExpire l s) = 1
      ∧ getW VLV.LG_STAT_DLY_EXP (legPg l) (l % 8) (legDelayExpire l s) = 1 := by
  obtain ⟨v, reached⟩ := reachUs_isSome due
  have does : legDelayExpire l s = blockCmd l (waited l c.at_ true v) := by
    simp only [legDelayExpire, waits, policy, reached, if_true]
    rfl
  have noted : LegWork l [VLV.LG_STAT_BLOCKED, VLV.LG_CNT_BLOCK, irqWord] (waited l c.at_ true v) (blockCmd l (waited l c.at_ true v)) := by
    rw [blockCmd, incSat, setLegB, setLegF]
    exact ((LegWork.field (by decide) (by decide) _).trans (.field (by decide) (by decide) _)).trans (.irq (by decide) ..)
  refine ⟨?_, ?_, ?_⟩
  · rw [does, legSt_congr (blockCmd_drv ..), waited_leg, legSt_reachUs reached]
  · rw [does, blockCmd_shows]
  · rw [does, noted.shows (by decide) (by decide), waited_shows]
    rfl

end

end

end Sys2Proof.Machine
end

section
namespace Sys2Proof.Machine

/-! ### Trips -/

/-- What a trip writes besides the leg (R308). -/
def tripFields : List Fld := VLV.LG_STAT_TRIP :: profileFields

theorem profile_subset_trip : profileFields ⊆ tripFields := List.subset_cons_self ..

/-- A leg whose trip is shown, before its profile ends (R308). -/
def tripShown (l : Nat) (s : State) : State := setLegB VLV.LG_STAT_TRIP l true (putLeg l { legSt s l with wait := none, tripClr := false } s)

section
variable (l : Nat) (s : State)

theorem tripShown_other {j : Nat} (h : j ≠ l) : legSt (tripShown l s) j = legSt s j := by
  rw [tripShown, setLegB, setLegF, legSt_setF, legSt_putLeg_ne _ _ h]

theorem tripShown_work : LegWork l tripFields s (tripShown l s) := by
  rw [tripShown, setLegB, setLegF]
  exact (LegWork.field (by decide) (by decide) _).afterPut ⟨rfl, rfl⟩

/-- A leg without current trips at once; another one ends its profile with a FAST decay (R308, R309). -/
theorem tripLeg_cases : tripLeg l s = putLeg l { legSt (tripShown l s) l with st := 4 } (tripShown l s)
    ∨ tripLeg l s = endProfile l 4 1 (tripShown l s) := by
  unfold tripLeg
  extract_lets x t
  split
  · exact .inl rfl
  · exact .inr rfl

theorem tripLeg_ends : LegWork l profileFields (tripShown l s) (tripLeg l s) := by
  rcases tripLeg_cases l s with e | e
  · rw [e]; exact .put ⟨rfl, rfl⟩
  · rw [e]; exact endProfile_work ..

theorem tripLeg_work : LegWork l tripFields s (tripLeg l s) := (tripShown_work l s).trans ((tripLeg_ends l s).mono profile_subset_trip)

theorem tripLeg_leg : (legSt (tripLeg l s) l).st = 4 := by
  rcases tripLeg_cases l s with e | e
  · rw [e, legSt_putLeg]
  · obtain ⟨n, sw, decay, ended⟩ := endProfile_leg l (tripShown l s) 4 1
    rw [e, ended]
    rfl

theorem tripLeg_other {j : Nat} (h : j ≠ l) : Steered (legSt s j) (legSt (tripLeg l s) j) := by
  rw [← tripShown_other l s h]
  rcases tripLeg_cases l s with e | e
  · rw [e, legSt_putLeg_ne _ _ h]; exact .refl _
  · rw [e]; exact endProfile_other _ _ _ _ h

theorem tripLeg_shows : getW VLV.LG_STAT_TRIP (legPg l) (l % 8) (tripLeg l s) = 1 := by
  rw [(tripLeg_ends l s).shows (by decide) (by decide), tripShown, setLegB, getW_setLegF (by decide)]
  rfl

end

theorem Steered.st {x y : LegState} (h : Steered x y) : y.st = x.st := by
  obtain ⟨_, _, rfl⟩ := h.same
  rfl

/-! ### Episodes -/

section
variable {p inst kind addr : Nat} {s t : State}

theorem epActive_congr (h : t.flt = s.flt) (p kind addr : Nat) : epActive p kind addr t = epActive p kind addr s := by simp only [epActive, h]

theorem beginEp_drv (p inst kind addr : Nat) (s : State) : (beginEp p inst kind addr s).drv = s.drv := by
  unfold beginEp
  split <;> rfl

theorem beginEp_regs (p inst kind addr : Nat) (s : State) : (beginEp p inst kind addr s).regs = s.regs := by
  unfold beginEp
  split <;> rfl

/-- An episode that is not active begins with its message (R350). -/
theorem sent_beginEp (time : t.time = s.time) (flt : t.flt = s.flt) (idle : epActive p kind addr s = false) :
    Sent p inst kind addr s (beginEp p inst kind addr t) := by
  rw [beginEp, epActive_congr flt, idle]
  exact sent_raise_of_time time ..

theorem getW_beginEp (f : Fld) (q u : Nat) (s : State) : getW f q u (beginEp p inst kind addr s) = getW f q u s :=
  getW_congr (by rw [rdReg, rdReg, beginEp_regs])

end

section
variable {l : Nat} {s : State}

theorem legSt_setIrq (p n : Nat) (s : State) (j : Nat) : legSt (setIrq p n s) j = legSt s j :=
  legSt_congr (by rw [setIrq, noteBit_drv, wrReg_drv]) j

theorem legOvercurrent_idle (off : (legSt s l).sw ≠ .on) : legOvercurrent l s = s := if_neg off

theorem legOvercurrent_eq (on : (legSt s l).sw = .on) :
    legOvercurrent l s = beginEp (legPg l) 0x01 kVlvOvercurrent l (setIrq (legPg l) 16 (tripLeg l s)) := if_pos on

theorem tripIrq_work (l : Nat) (s : State) : LegWork l (irqWord :: tripFields) s (setIrq (legPg l) 16 (tripLeg l s)) :=
  ((tripLeg_work l s).mono (List.subset_cons_self ..)).trans (.irq List.mem_cons_self ..)

theorem legOvercurrent_pair (l : Nat) (s : State) : PairOnly l s (legOvercurrent l s) := by
  by_cases on : (legSt s l).sw = .on
  · rw [legOvercurrent_eq on]
    exact (tripIrq_work l s).pair.trans (.of_parts (beginEp_regs ..) (beginEp_drv ..))
  · rw [legOvercurrent_idle on]; exact .refl l s

/-- An overcurrent of a leg whose LS is on trips it and is reported (R308). -/
theorem legOvercurrent_trips (on : (legSt s l).sw = .on) : (legSt (legOvercurrent l s) l).st = 4
    ∧ getW VLV.LG_STAT_TRIP (legPg l) (l % 8) (legOvercurrent l s) = 1
    ∧ (epActive (legPg l) kVlvOvercurrent l s = false → Sent (legPg l) 1 kVlvOvercurrent l s (legOvercurrent l s)) := by
  have work := tripIrq_work l s
  have noted : LegWork l [irqWord] (tripLeg l s) (setIrq (legPg l) 16 (tripLeg l s)) := .irq List.mem_cons_self ..
  rw [legOvercurrent_eq on]
  refine ⟨?_, ?_, sent_beginEp work.time work.flt⟩
  · rw [legSt_congr (beginEp_drv ..), legSt_setIrq, tripLeg_leg]
  · rw [getW_beginEp, noted.shows (by decide) (by decide), tripLeg_shows]

end

/-! ### The trip of a high-side switch -/

section
variable {k : Nat} {s : State}

/-- Both legs of pair `k` after the trip of its switch (R309). -/
def pairTripped (k : Nat) (s : State) : State :=
  refreshPair (2 * k) (tripLeg (2 * k + 1) (tripLeg (2 * k) (setB VLV.PR_STAT_HS_TRIP (0x30 + k / 4) (k % 4) true s)))

theorem hsOvercurrent_idle (off : hsOn (2 * k) s = false) : hsOvercurrent k s = s := by
  rw [hsOvercurrent, off]; rfl

theorem hsOvercurrent_eq (on : hsOn (2 * k) s = true) :
    hsOvercurrent k s = beginEp (0x30 + k / 4) 0x02 kVlvOvercurrent (0x10 + k) (setIrq (0x30 + k / 4) 16 (pairTripped k s)) := if_pos on

theorem partnerOf_even (k : Nat) : partnerOf (2 * k) = 2 * k + 1 := if_pos (by omega)

/-- The legs' trips write nothing beside the fields of a trip. -/
theorem pairTripped_work (k : Nat) (s : State) :
    LegWork (2 * k) tripFields (setB VLV.PR_STAT_HS_TRIP (0x30 + k / 4) (k % 4) true s) (pairTripped k s) := by
  have odd (t : State) : LegWork (2 * k) tripFields t (tripLeg (2 * k + 1) t) := by
    rw [← partnerOf_even]
    exact (tripLeg_work ..).ofPartner
  exact ((tripLeg_work ..).trans (odd _)).trans ((refreshPair_work ..).mono profile_subset_trip)

theorem pairTripped_legs (k : Nat) (s : State) : (legSt (pairTripped k s) (2 * k)).st = 4 ∧ (legSt (pairTripped k s) (2 * k + 1)).st = 4 := by
  refine ⟨?_, ?_⟩
  · rw [pairTripped, (refreshPair_steers ..).st, (tripLeg_other _ _ (by omega)).st, tripLeg_leg]
  · rw [pairTripped, (refreshPair_steers ..).st, tripLeg_leg]

/-- An overcurrent of a switch that is on trips it with both legs and is reported (R309). -/
theorem hsOvercurrent_trips (on : hsOn (2 * k) s = true) :
    (legSt (hsOvercurrent k s) (2 * k)).st = 4 ∧ (legSt (hsOvercurrent k s) (2 * k + 1)).st = 4
    ∧ getW VLV.PR_STAT_HS_TRIP (0x30 + k / 4) (k % 4) (hsOvercurrent k s) = 1
    ∧ (epActive (0x30 + k / 4) kVlvOvercurrent (0x10 + k) s = false → Sent (0x30 + k / 4) 2 kVlvOvercurrent (0x10 + k) s (hsOvercurrent k s)) := by
  have work := pairTripped_work k s
  obtain ⟨even, odd⟩ := pairTripped_legs k s
  have pair : k % 4 < rowUnits VLV.PR_STAT_HS_TRIP := Nat.mod_lt _ (by decide)
  rw [hsOvercurrent_eq on]
  refine ⟨?_, ?_, ?_, sent_beginEp (by rw [setIrq_time, work.time, setB, setF_time]) ?_⟩
  · rw [legSt_congr (beginEp_drv ..), legSt_setIrq, even]
  · rw [legSt_congr (beginEp_drv ..), legSt_setIrq, odd]
  · rw [getW_beginEp, getW_setIrq _ (by simp only [pageAddr, fldAddr, VLV.PR_STAT_HS_TRIP]; omega), work.fields _ (by decide) (by decide) _ _ pair,
      setB, getW_setF _ _ _ _ _ (by decide) (by decide)]
    rfl
  · rw [setIrq, noteBit_flt, wrReg_flt, work.flt, setB, setF_flt]

end

/-! ### Chopping -/

section
variable {l amp : Nat} {s : State}

/-- The level at which a leg is chopped (R301). -/
def chopTarget (l : Nat) (s : State) : Nat :=
  if (legSt s l).st = 1 then legF VLV.LG_CUR_I_PULL l s else legF VLV.LG_CUR_I_HOLD l s

theorem legChopStart_pair (l amp : Nat) (s : State) : PairOnly l s (legChopStart l amp s) := by
  unfold legChopStart
  extract_lets x target
  split
  · exact (legOn_work l s).pair
  · exact .refl l s

theorem legChopStart_on (runs : inProfile (legSt s l) = true) (chops : (legSt s l).chop = true) (whole : hsTripped l s = false)
    (below : amp < chopTarget l s) : legSt (legChopStart l amp s) l = { legSt s l with sw := .on, decay := none } := by
  have does : legChopStart l amp s = legOn l s := if_pos (by
    rw [runs, chops, whole, Bool.not_false, Bool.and_true, Bool.true_and, Bool.true_and]
    exact decide_eq_true below)
  rw [does, legOn_leg]
  rfl

theorem legChopStart_idle (above : chopTarget l s ≤ amp) : legChopStart l amp s = s := if_neg (by
  have off : decide (amp < chopTarget l s) = false := decide_eq_false (Nat.not_lt.2 above)
  change ¬ ((inProfile (legSt s l) && (legSt s l).chop && decide (amp < chopTarget l s) && !hsTripped l s) = true)
  rw [off]
  simp)

theorem legChopTarget_pair (l : Nat) (s : State) : PairOnly l s (legChopTarget l s) := by
  unfold legChopTarget
  extract_lets x
  split
  · exact (beginDecay_work ..).pair
  · exact .refl l s

/-- At the target the off-time begins, with the decay of the phase (R301). -/
theorem legChopTarget_off (runs : inProfile (legSt s l) = true) (chops : (legSt s l).chop = true) (on : (legSt s l).sw = .on) :
    (legSt (legChopTarget l s) l).sw ≠ .on ∧ (legSt (legChopTarget l s) l).decay.isSome = true ∧ (legSt (legChopTarget l s) l).st = (legSt s l).st := by
  have does : legChopTarget l s
      = beginDecay l (if (legSt s l).st = 1 then legF VLV.LG_DECAY_DK_PULL l s else legF VLV.LG_DECAY_DK_HOLD l s) s := if_pos (by
    rw [runs, chops, on]
    rfl)
  obtain ⟨sw, decay, leg, off, runs⟩ := beginDecay_leg l (if (legSt s l).st = 1 then legF VLV.LG_DECAY_DK_PULL l s else legF VLV.LG_DECAY_DK_HOLD l s) s
  rw [does, leg]
  exact ⟨off, runs, rfl⟩

theorem legMixedEnd_pair (l : Nat) (s : State) : PairOnly l s (legMixedEnd l s) := by
  unfold legMixedEnd
  extract_lets x
  split
  · split
    · split
      · exact .refl l s
      · next v reached => exact (reachUs_pair reached).trans (.put ..)
    · exact .refl l s
  · exact .refl l s

/-- MIXT µs into a MIXED interval the leg changes to SLOW (R293). -/
theorem legMixedEnd_slow {us : Nat} {b : Bool} (mixed : (legSt s l).decay = some (2, us, b)) (fast : (legSt s l).sw = .fast ∨ (legSt s l).sw = .clamp)
    (due : (us + legF VLV.LG_DECAY_MIXT l s) / 125 ≤ s.time.ticks) : legSt (legMixedEnd l s) l = { legSt s l with sw := .slow } := by
  obtain ⟨v, reached⟩ := reachUs_isSome due
  have does : legMixedEnd l s = putLeg l { legSt v l with sw := .slow } v := by
    simp only [legMixedEnd, mixed, fast, reached, and_self, if_true]
  rw [does, legSt_putLeg, legSt_reachUs reached]

end

/-! ### Bridge loss -/

section
variable {s : State}

theorem bridgeLoss_idle (lost : s.drv.loss.isSome = true) : bridgeLoss s = s := if_pos lost

/-- A loss of the bridge forces the outputs and begins its episode, at an address that the device chooses (R322). -/
theorem bridgeLoss_forces (whole : s.drv.loss = none) : ∃ addr, (bridgeLoss s).drv = { s.drv with loss := some addr }
    ∧ (epActive 0 kDevBridgeLoss addr s = false → Sent 0 4 kDevBridgeLoss addr s (bridgeLoss s)) := by
  refine ⟨Config.freeNat s.fresh % 65536, ?_, fun idle => ?_⟩
  · rw [bridgeLoss, whole]
    exact beginEp_drv ..
  · rw [bridgeLoss, whole]
    exact sent_beginEp (by rfl) (by rfl) idle

theorem bridgeLossEnd_drv (s : State) : (bridgeLossEnd s).drv = { s.drv with loss := none } := by
  cases loss : s.drv.loss with
  | none =>
    have same : { s.drv with loss := none } = s.drv := by rw [← loss]
    rw [bridgeLossEnd, loss, same]
  | some addr =>
    obtain ⟨⟨_, _, _, _, e⟩, -⟩ := endEp_only 0 kDevBridgeLoss addr { s with drv := { s.drv with loss := none } }
    rw [bridgeLossEnd, loss]
    exact congrArg State.drv e

theorem bridgeLossEnd_outside (s : State) : Outside [] s (bridgeLossEnd s) := by
  intro a quiet_ _
  cases loss : s.drv.loss with
  | none => rw [bridgeLossEnd, loss]
  | some addr =>
    obtain ⟨-, regs⟩ := endEp_only 0 kDevBridgeLoss addr { s with drv := { s.drv with loss := none } }
    rw [bridgeLossEnd, loss]
    exact regs a (quiet_calm quiet_)

end

end Sys2Proof.Machine
end

section
namespace Sys2Proof.Proofs
open Sys2Proof Sys2Proof.Machine

/-- Settles O31: every event runs its operation on the leg's pair, which either is not due and leaves the device, or puts the leg. -/
theorem valveLegsRunTheirProfile : Obligations.Valve_Legs_Run_Their_Profile := by
  unfold Obligations.Valve_Legs_Run_Their_Profile
  intro leg pair t imax imin amp partnerAmp s awake
  refine ⟨does_pair awake rfl (by decide) (legReach_pair ..) ⟨fun pulls => ?_, fun other => ?_⟩,
    does_pair awake rfl (by decide) (legDip_pair ..) ⟨fun dips => ?_, fun other => ?_⟩,
    does_pair awake rfl (by decide) (legPullEnd_pair ..) fun pull first due => ?_,
    does_pair awake rfl (by decide) (legHoldLevel_pair ..) ⟨fun holds => ?_, fun other => ?_⟩,
    does_pair awake rfl (by decide) (legProfileEnd_pair ..) fun e ends runs due => ?_,
    does_pair awake rfl (by decide) (legDecayEnd_pair ..) ⟨fun off => ?_, fun trip => ?_, fun other => ?_⟩,
    does_pair awake rfl (by decide) (legWaitStart_pair ..) fun c waits permitted early safe duty => ?_,
    does_pair awake rfl (by decide) (legDelayExpire_pair ..) fun c waits policy due => ?_,
    does_pair awake rfl (by decide) (legOvercurrent_pair ..) ⟨fun on => ?_, fun off => ?_⟩,
    ⟨_, settles_finish awake rfl, fun on => ?_, fun off => ?_⟩,
    does_pair awake rfl (by decide) (legChopStart_pair ..) fun runs chops whole => ⟨fun below => ?_, fun above => ?_⟩,
    does_pair awake rfl (by decide) (legChopTarget_pair ..) fun runs chops on => ?_,
    does_pair awake rfl (by decide) (legMixedEnd_pair ..) fun us b mixed fast due => ?_,
    ⟨_, settles_finish awake rfl, fun a _ => ?_, fun lost => ?_, fun whole => ?_⟩,
    ⟨_, settles_finish awake rfl, fun a quiet_ outside => ?_, ?_⟩⟩
  · obtain ⟨chop, st, shown, -⟩ := legReach_chops (s := clearReports s) pulls
    rw [legSt_reach (by decide), getW_reach _ _ (by decide)]
    exact ⟨chop, st, shown⟩
  · exact reach_self (legReach_idle (s := clearReports s) other)
  · rw [legSt_reach (by decide), getW_reach _ _ (by decide), getW_reach _ _ (by decide), getW_reach _ _ (by decide)]
    exact legDip_confirms (s := clearReports s) dips
  · exact reach_self (legDip_idle (s := clearReports s) other)
  · rw [legSt_reach (by decide)]
    exact legPullEnd_holds (s := clearReports s) pull first due
  · obtain ⟨chop, st, -⟩ := legHoldLevel_chops (s := clearReports s) holds
    rw [legSt_reach (by decide)]
    exact ⟨chop, st⟩
  · exact reach_self (legHoldLevel_idle (s := clearReports s) other)
  · rw [legSt_reach (by decide)]
    exact legProfileEnd_off (s := clearReports s) ends runs due
  · rw [legSt_reach (by decide)]
    exact legDecayEnd_off (s := clearReports s) off
  · rw [legSt_reach (by decide)]
    exact legDecayEnd_trip (s := clearReports s) trip
  · exact reach_self (legDecayEnd_idle (s := clearReports s) other)
  · rw [legSt_reach (by decide)]
    exact legWaitStart_pulls (s := clearReports s) leg.isLt waits permitted early safe duty
  · rw [legSt_reach (by decide), getW_reach _ _ (by decide), getW_reach _ _ (by decide)]
    exact legDelayExpire_blocks (s := clearReports s) waits policy due
  · obtain ⟨trip, shown, sent⟩ := legOvercurrent_trips (s := clearReports s) on
    rw [legSt_reach (by decide), getW_reach _ _ (by decide)]
    exact ⟨trip, shown, fun idle => sent_reach (by decide) (sent idle)⟩
  · exact reach_self (legOvercurrent_idle (s := clearReports s) off)
  · obtain ⟨even, odd, shown, sent⟩ := hsOvercurrent_trips (s := clearReports s) on
    rw [legSt_reach (by decide), legSt_reach (by decide), getW_reach _ _ (by decide)]
    exact ⟨even, odd, shown, fun idle => sent_reach (by decide) (sent idle)⟩
  · exact reach_self (hsOvercurrent_idle (s := clearReports s) off)
  · rw [legSt_reach (by decide)]
    exact legChopStart_on (s := clearReports s) runs chops whole below
  · exact reach_self (legChopStart_idle (s := clearReports s) above)
  · rw [legSt_reach (by decide)]
    exact legChopTarget_off (s := clearReports s) runs chops on
  · rw [legSt_reach (by decide)]
    exact legMixedEnd_slow (s := clearReports s) mixed fast due
  · exact rdReg_reach_not _ _ _ (by decide) a
  · exact reach_self (bridgeLoss_idle (s := clearReports s) lost)
  · obtain ⟨addr, forced, sent⟩ := bridgeLoss_forces (s := clearReports s) whole
    exact ⟨addr, (reach_drv _ _ _ (by decide)).trans forced, fun idle => sent_reach (by decide) (sent idle)⟩
  · rw [rdReg_reach _ _ _ (by decide)]
    exact bridgeLossEnd_outside (clearReports s) a quiet_ outside
  · exact (reach_drv _ _ _ (by decide)).trans (bridgeLossEnd_drv _)

end Sys2Proof.Proofs
end

section
namespace Sys2Proof.Machine

/-! ### A command at its start instant -/

section
variable (l : Nat) (c : LegCmd) (both : Bool) (amps : Nat → Nat) (s : State)

/-- A profile whose end instant has come has ended (R299). -/
def legLapsed : State :=
  match (legSt s l).endAt with
  | some e => if inProfile (legSt s l) && decide (e ≤ usNow s) then endProfile l 3 (dkOff l s) s else s
  | none => s

/-- What STAT shows of a command that is executed. -/
def legTaken : State := setLegB VLV.LG_STAT_BLOCKED l false (setLegB VLV.LG_STAT_OVERWR l false s)

theorem legTaken_work : LegWork l commandFields s (legTaken l s) := (setLegB_work (by decide) (by decide) ..).trans (setLegB_work (by decide) (by decide) ..)

theorem legLapsed_work : LegWork l commandFields s (legLapsed l s) := by
  unfold legLapsed
  split
  · split
    · exact (endProfile_work ..).mono profile_subset_command
    · exact .refl ..
  · exact .refl ..

theorem legLapsed_never {l : Nat} {s : State} (h : (legSt s l).endAt = none) : legLapsed l s = s := by rw [legLapsed, h]

theorem legLapsed_idle {l : Nat} {s : State} (h : inProfile (legSt s l) = false) : legLapsed l s = s := by
  unfold legLapsed
  rw [h]
  split <;> rfl

/-- A waiting command is put in place of another, or alone (R298, R303). -/
def legWaiting : State := putLeg l { legSt s l with wait := some { c with at_ := usNow s } } s

theorem legWaiting_work : LegWork l commandFields s (legWaiting l c s) := .put ⟨rfl, rfl⟩

/-- The partner makes room for the priority leg: its profile ends with a FAST decay, or it waits no longer (R303). -/
def legPreempted (q : Nat) : State :=
  if inProfile (legSt s q) then setLegB VLV.LG_STAT_PREEMPT q true (endProfile q 3 1 s) else putLeg q { legSt s q with wait := none } s

theorem legPreempted_work (q : Nat) : LegWork q commandFields s (legPreempted s q) := by
  unfold legPreempted
  split
  · exact ((endProfile_work ..).mono profile_subset_command).trans (setLegB_work (by decide) (by decide) ..)
  · exact .put ⟨rfl, rfl⟩

theorem policyStart_work : LegWork l commandFields s (policyStart l c both amps s) := by
  have room := (legPreempted_work s (partnerOf l)).ofPartner
  unfold policyStart
  extract_lets q y ovl prio busy wait t
  have waits (a : State) : LegWork l commandFields a (wait a) := legWaiting_work l c a
  have room : LegWork l commandFields s t := room
  split
  · exact blockCmd_work ..
  · split
    · split
      · exact room.trans (startPull_work ..)
      · exact room.trans (waits t)
    · split
      · exact waits s
      · exact startPull_work ..

/-- Under CONCURRENT a pull starts at once (R303). -/
theorem policyStart_concurrent (h : pairF VLV.PR_CFG_OVL l s = 2) : policyStart l c both amps s = startPull l c (amps l) s := by
  simp [policyStart, h]

/-- Whether a leg executes no command (R298). -/
def legBarred : Bool := legSafe l s || decide ((legSt s l).st = 4) || decide (legF VLV.LG_STAT_DUTY_EP l s = 1)

/-- A command by the state of its leg (R298). -/
def legActed : State :=
  if legBarred l s then (if c.op = 3 then putLeg l { legSt s l with wait := none } s else blockCmd l s)
  else if (legSt s l).wait.isSome then
    if c.op = 3 then legTaken l (putLeg l { legSt s l with wait := none } s)
    else legTaken l (legWaiting l c s)
  else if inProfile (legSt s l) then
    if c.op = 3 then endProfile l 3 (dkOff l (legTaken l s)) (legTaken l s)
    else if c.op = 2 then legTaken l (putLeg l { legSt s l with endAt := none } s)
    else legTaken l (incSat VLV.LG_CNT_EXT (legPg l) (l % 8) (setLegB VLV.LG_STAT_EXT l true
      (putLeg l { legSt s l with endAt := (legSt s l).endAt.map fun e => Nat.max e (usNow s + c.onT) } s)))
  else if c.op = 3 then legTaken l s
  else policyStart l c both amps s

theorem legActed_work : LegWork l commandFields s (legActed l c both amps s) := by
  unfold legActed
  split
  · split
    · exact .put ⟨rfl, rfl⟩
    · exact blockCmd_work ..
  · split
    · split
      · exact (legTaken_work ..).afterPut ⟨rfl, rfl⟩
      · exact (legWaiting_work ..).trans (legTaken_work ..)
    · split
      · split
        · exact (legTaken_work ..).trans ((endProfile_work ..).mono profile_subset_command)
        · split
          · exact (legTaken_work ..).afterPut ⟨rfl, rfl⟩
          · have extended (t : State) : LegWork l commandFields t (incSat VLV.LG_CNT_EXT (legPg l) (l % 8) (setLegB VLV.LG_STAT_EXT l true t)) := by
              rw [incSat]
              exact (setLegB_work (by decide) (by decide) ..).trans (.field (by decide) (by decide) _)
            exact ((extended _).trans (legTaken_work ..)).afterPut ⟨rfl, rfl⟩
      · split
        · exact legTaken_work ..
        · exact policyStart_work ..

/-- A command acts on the leg as it stands once a lapsed profile has ended (R298, R299). -/
theorem actCommand_eq (now : usNow (legLapsed l s) = usNow s) : actCommand l c both amps s = legActed l c both amps (legLapsed l s) := by
  unfold legActed legWaiting
  rw [now]
  rfl

theorem actCommand_work : LegWork l commandFields s (actCommand l c both amps s) := by
  rw [actCommand_eq _ _ _ _ _ (legLapsed_work l s).usNow]
  exact (legLapsed_work l s).trans (legActed_work ..)

end

end Sys2Proof.Machine
end

section
namespace Sys2Proof.Machine

section
variable {l : Nat} {c : LegCmd} {s : State}

/-- A leg that nothing keeps from executing a command (R298). -/
theorem legBarred_not (safe : legSafe l s = false) (trip : (legSt s l).st ≠ 4) (duty : legF VLV.LG_STAT_DUTY_EP l s = 0) : legBarred l s = false := by
  simp [legBarred, safe, trip, duty]

/-- ON starts a profile without end in an idle leg of a pair under CONCURRENT (R298, R303). -/
theorem actCommand_on (both : Bool) (amps : Nat → Nat) (op : c.op = 2) (idle : (legSt s l).st = 0) (wait : (legSt s l).wait = none)
    (policy : pairF VLV.PR_CFG_OVL l s = 2) (safe : legSafe l s = false) (duty : legF VLV.LG_STAT_DUTY_EP l s = 0) :
    (legSt (actCommand l c both amps s) l).st = 1 ∧ (legSt (actCommand l c both amps s) l).endAt = none := by
  have out : inProfile (legSt s l) = false := by simp [inProfile, idle]
  have bar := legBarred_not safe (by omega) duty
  have does : actCommand l c both amps s = startPull l c (amps l) s := by
    rw [actCommand_eq _ _ _ _ _ (legLapsed_work l s).usNow, legLapsed_idle out, legActed]
    simp only [bar, wait, out, op, policyStart_concurrent _ _ _ _ _ policy, Option.isSome_none, Bool.false_eq_true, if_false,
      show ¬ (2 : Nat) = 3 from by decide]
  rw [does, startPull_leg]
  refine ⟨rfl, if_neg ?_⟩
  omega

/-- OFF ends a running profile (R298). -/
theorem actCommand_off (both : Bool) (amps : Nat → Nat) (op : c.op = 3) (runs : inProfile (legSt s l) = true) (ends : (legSt s l).endAt = none)
    (wait : (legSt s l).wait = none) (safe : legSafe l s = false) (duty : legF VLV.LG_STAT_DUTY_EP l s = 0) :
    (legSt (actCommand l c both amps s) l).st = 3 := by
  have st : (legSt s l).st ≠ 4 := by
    simp only [inProfile, decide_eq_true_eq] at runs
    omega
  have bar := legBarred_not safe st duty
  have does : actCommand l c both amps s = endProfile l 3 (dkOff l (legTaken l s)) (legTaken l s) := by
    rw [actCommand_eq _ _ _ _ _ (legLapsed_work l s).usNow, legLapsed_never ends, legActed]
    simp only [bar, wait, runs, op, Option.isSome_none, Bool.false_eq_true, if_false, if_true]
  obtain ⟨n, sw, decay, off⟩ := endProfile_leg l (legTaken l s) 3 (dkOff l (legTaken l s))
  rw [does, off]
  rfl

end

/-! ### One leg at phase 40 -/

/-- What a change of owner or a duty episode leaves pending is cleared. -/
def unpended (l : Nat) (s : State) : State :=
  putLeg l { legSt s l with ownOff := false, dutyOff := false, wait := if (legSt s l).ownOff then none else (legSt s l).wait } s

theorem legPhase40_cases (l : Nat) (s : State) : (legPhase40 l s = s)
    ∨ (((legSt s l).ownOff || (legSt s l).dutyOff) = true
      ∧ (legPhase40 l s = unpended l s ∨ legPhase40 l s = endProfile l 3 (dkOff l (unpended l s)) (unpended l s))) := by
  unfold legPhase40
  extract_lets x t
  split
  · next pending =>
    refine .inr ⟨pending, ?_⟩
    split
    · exact .inr rfl
    · exact .inl rfl
  · exact .inl rfl

theorem legPhase40_work (l : Nat) (s : State) : LegWork l commandFields s (legPhase40 l s) := by
  have cleared : LegWork l commandFields s (unpended l s) := .put ⟨rfl, rfl⟩
  rcases legPhase40_cases l s with e | ⟨-, e | e⟩
  · rw [e]; exact .refl ..
  · rw [e]; exact cleared
  · rw [e]; exact cleared.trans ((endProfile_work ..).mono profile_subset_command)

/-- Phase 40 of any leg leaves another leg, and one that nothing ends, but for its running decay. -/
theorem legPhase40_steers {j : Nat} {s : State} (own : (legSt s j).ownOff = false) (duty : (legSt s j).dutyOff = false) (l : Nat) :
    Steered (legSt s j) (legSt (legPhase40 l s) j) := by
  rcases legPhase40_cases l s with e | ⟨pending, e⟩
  · rw [e]; exact .refl _
  · have other : j ≠ l := by
      rintro rfl
      simp [own, duty] at pending
    have same : legSt (unpended l s) j = legSt s j := legSt_putLeg_ne _ _ other
    rcases e with e | e
    · rw [e, same]; exact .refl _
    · rw [e, ← same]; exact endProfile_other _ _ _ _ other

/-! ### Which commands wait -/

theorem dueCmd_congr {l : Nat} {s t : State} (cmd : (legSt t l).cmd = (legSt s l).cmd) (time : t.time = s.time) : dueCmd t l = dueCmd s l := by
  rw [dueCmd, dueCmd, cmd, time]

/-- A leg whose due command has been taken from those that wait (R297). -/
def dequeued (l : Nat) (s : State) : State := putLeg l { legSt s l with cmd := (legSt s l).next, next := none } s

section
variable (amps : Nat → Nat) (both : Nat → Bool) {l j : Nat} {s : State}

theorem startLeg_idle (h : dueCmd s l = none) : startLeg amps both l s = s := by rw [startLeg, h]

theorem startLeg_due {c : LegCmd} (h : dueCmd s l = some c) : startLeg amps both l s = actCommand l c (both l) amps (dequeued l s) := by
  rw [startLeg, h]; rfl

theorem startLeg_work (l : Nat) (s : State) : DriveWork [legPg l] commandFields s (startLeg amps both l s)
    ∧ ∀ j, j ≠ l → j ≠ partnerOf l → legSt (startLeg amps both l s) j = legSt s j := by
  cases due : dueCmd s l with
  | none => rw [startLeg_idle _ _ due]; exact ⟨.refl .., fun _ _ _ => rfl⟩
  | some c =>
    have work := actCommand_work l c (both l) amps (dequeued l s)
    rw [startLeg_due _ _ due]
    exact ⟨.trans (.put ..) work.toDriveWork, fun j hj hp => (work.others j hj hp).trans (legSt_putLeg_ne _ _ hj)⟩

theorem startLeg_cmd (l : Nat) (s : State) :
    (legSt (startLeg amps both l s) l).cmd = if (dueCmd s l).isSome then (legSt s l).next else (legSt s l).cmd := by
  cases due : dueCmd s l with
  | none => rw [startLeg_idle _ _ due]; rfl
  | some c =>
    rw [startLeg_due _ _ due, ((actCommand_work ..).orders l).1, dequeued, legSt_putLeg]
    rfl

theorem startLeg_cmd_other (h : j ≠ l) : (legSt (startLeg amps both l s) j).cmd = (legSt s j).cmd
    ∧ (legSt (startLeg amps both l s) j).next = (legSt s j).next := by
  cases due : dueCmd s l with
  | none => rw [startLeg_idle _ _ due]; exact ⟨rfl, rfl⟩
  | some c =>
    rw [startLeg_due _ _ due, ((actCommand_work ..).orders j).1, ((actCommand_work ..).orders j).2, dequeued, legSt_putLeg_ne _ _ h]
    exact ⟨rfl, rfl⟩

end

/-! ### One pair at phase 40 -/

/-- The leg of pair `k` that comes first (R304). -/
def firstOf (k : Nat) (s : State) : Nat :=
  if pairF VLV.PR_CFG_OVL (2 * k) s = 0 then 2 * k + pairF VLV.PR_CFG_PRI (2 * k) s else 2 * k

theorem firstOf_div (k : Nat) (s : State) : firstOf k s / 2 = k := by
  have bit : pairF VLV.PR_CFG_PRI (2 * k) s < 2 := by
    rw [pairF, getF, if_pos (by rfl)]
    exact bitsOf_lt ..
  unfold firstOf
  split <;> omega

/-- Both legs of pair `k`, the first one first. -/
def startPair (amps : Nat → Nat) (both : Nat → Bool) (k : Nat) (s : State) : State :=
  startLeg amps both (partnerOf (firstOf k s)) (startLeg amps both (firstOf k s) s)

theorem eq_or_partner {l m : Nat} (h : m / 2 = l / 2) : m = l ∨ m = partnerOf l := by
  unfold partnerOf
  split <;> omega

section
variable (amps : Nat → Nat) (both : Nat → Bool) {l k : Nat} {s : State}

theorem startPair_work (hk : k < 8) (s : State) : DriveWork [0x30, 0x31] commandFields s (startPair amps both k s) := by
  have pair := firstOf_div k s
  have pair' := partnerOf_div (firstOf k s)
  have page {m : Nat} (hm : m < 16) (s : State) : DriveWork [0x30, 0x31] commandFields s (startLeg amps both m s) :=
    (startLeg_work amps both m s).1.mono (fun _ h => List.mem_singleton.1 h ▸ legPg_of_lt hm) fun _ h => h
  exact (page (by omega) s).trans (page (by omega) _)

/-- A pair leaves the legs of every other pair. -/
theorem startPair_others {j : Nat} (h : j / 2 ≠ k) (s : State) : legSt (startPair amps both k s) j = legSt s j := by
  have pair := firstOf_div k s
  have pair' := partnerOf_div (firstOf k s)
  have back := partnerOf_partnerOf (firstOf k s)
  rw [startPair, (startLeg_work ..).2 j (by rintro rfl; omega) (by rw [back]; rintro rfl; omega),
    (startLeg_work ..).2 j (by rintro rfl; omega) (by rintro rfl; omega)]

/-- Whichever leg of a pair comes first: each takes its own command (R297, R304). -/
theorem startPair_cmd (h : l / 2 = k) (s : State) :
    (legSt (startPair amps both k s) l).cmd = if (dueCmd s l).isSome then (legSt s l).next else (legSt s l).cmd := by
  rcases eq_or_partner ((firstOf_div k s).trans h.symm) with first | second
  · rw [startPair, first, (startLeg_cmd_other amps both (partnerOf_ne l).symm).1, startLeg_cmd]
  · obtain ⟨cmd, next⟩ := startLeg_cmd_other amps both (s := s) (partnerOf_ne l).symm
    rw [startPair, second, partnerOf_partnerOf, startLeg_cmd, dueCmd_congr cmd (startLeg_work ..).1.time, cmd, next]

/-- A leg whose partner has no due command acts alone. -/
theorem startPair_alone (h : l / 2 = k) (alone : dueCmd s (partnerOf l) = none) : startPair amps both k s = startLeg amps both l s := by
  rcases eq_or_partner ((firstOf_div k s).trans h.symm) with first | second
  · have cmd := (startLeg_cmd_other amps both (s := s) (partnerOf_ne l)).1
    rw [startPair, first, startLeg_idle _ _ ((dueCmd_congr cmd (startLeg_work ..).1.time).trans alone)]
  · rw [startPair, second, partnerOf_partnerOf, startLeg_idle _ _ alone]

end

/-! ### COMMAND_START -/

/-- What an operation over all units below `n` makes of unit `e`, where only the units below `n` are known to leave it. -/
theorem forN_visit_below {f : Nat → State → State} {Sim : State → State → Prop} (n e : Nat) (he : e < n) (hr : ∀ s, Sim s s)
    (ht : ∀ s t u, Sim s t → Sim t u → Sim s u) (hf : ∀ i s, i ≠ e → i < n → Sim s (f i s)) (s : State) :
    ∃ u, Sim s u ∧ Sim (f e u) (forN n f s) := by
  have below : forN n f s = forN n (fun i a => if i < n then f i a else a) s :=
    List.foldl_ext _ _ _ fun a i hi => (if_pos (List.mem_range.1 hi)).symm
  obtain ⟨u, seen, own⟩ := forN_visit (f := fun i a => if i < n then f i a else a) n e he hr ht (fun i s hi => by
    split
    · next small => exact hf i s hi small
    · exact hr s) s
  rw [if_pos he, ← below] at own
  exact ⟨u, seen, own⟩

/-- What leg `l` and its partner see of the pairs before theirs: the drive works, and their own states stand. -/
def Apart (l : Nat) (s t : State) : Prop :=
  DriveWork [0x30, 0x31] commandFields s t ∧ legSt t l = legSt s l ∧ legSt t (partnerOf l) = legSt s (partnerOf l)

/-- The instant and what changes of owner and duty episodes end at it. -/
def begun (s : State) : State := forN 16 legPhase40 (atPhase 40 0 s)

/-- The legs that are about to start a pull together with their partner (R304). -/
def togetherIn (s : State) (l : Nat) : Bool :=
  ((List.range 16).filter (startsPull s)).contains l && ((List.range 16).filter (startsPull s)).contains (partnerOf l)

theorem commandStart_eq (amps : List Nat) (s : State) :
    commandStart amps s = forN 8 (startPair (nthN amps) (togetherIn (begun s))) (begun s) := rfl

section
variable {l : Nat} {s : State}

theorem begun_work (s : State) : DriveWork [0x30, 0x31] commandFields (atPhase 40 0 s) (begun s) :=
  .forN (fun i hi a => (legPhase40_work i a).drive hi) _

theorem begun_orders (l : Nat) (s : State) : (legSt (begun s) l).cmd = (legSt s l).cmd ∧ (legSt (begun s) l).next = (legSt s l).next := by
  have start : legSt (atPhase 40 0 s) l = legSt s l := legSt_congr (atPhase_drv ..) l
  refine List.foldlRecOn (motive := fun t => (legSt t l).cmd = (legSt s l).cmd ∧ (legSt t l).next = (legSt s l).next) _ _
    (by rw [start]; exact ⟨rfl, rfl⟩) fun t h i _ => ?_
  obtain ⟨cmd, next⟩ := (legPhase40_work i t).orders l
  exact ⟨cmd.trans h.1, next.trans h.2⟩

theorem begun_steers (own : (legSt s l).ownOff = false) (duty : (legSt s l).dutyOff = false) : Steered (legSt s l) (legSt (begun s) l) := by
  have start : legSt (atPhase 40 0 s) l = legSt s l := legSt_congr (atPhase_drv ..) l
  refine List.foldlRecOn (motive := fun t => Steered (legSt s l) (legSt t l)) _ _ (start ▸ .refl _) fun t h i _ => h.trans ?_
  obtain ⟨sw, decay, same⟩ := h.same
  exact legPhase40_steers (by rw [same]; exact own) (by rw [same]; exact duty) i

theorem begun_due (l : Nat) (s : State) : dueCmd (begun s) l = dueCmd s l := by
  rw [dueCmd, dueCmd, (begun_orders l s).1, (begun_work s).time, atPhase_ticks]

/-- Nothing that keeps a leg in its safe state depends on the instant, nor does any field. -/
theorem atPhase_time (ph cy : Nat) (s : State) : ∃ x, atPhase ph cy s = { s with time := x } := by
  unfold atPhase
  split
  · exact ⟨_, rfl⟩
  · exact ⟨s.time, rfl⟩

theorem legSafe_atPhase (ph cy l : Nat) (s : State) : legSafe l (atPhase ph cy s) = legSafe l s := by
  obtain ⟨x, e⟩ := atPhase_time ph cy s
  rw [e]
  rfl

theorem getF_atPhase (f : Fld) (p u ph cy : Nat) (s : State) : getF f p u (atPhase ph cy s) = getF f p u s := by
  obtain ⟨x, e⟩ := atPhase_time ph cy s
  rw [e]
  rfl

theorem commandStart_outside (amps : List Nat) (s : State) : ∀ a, a / 0x400 ∉ [0x30, 0x31] → rdReg (commandStart amps s) a = rdReg s a := by
  have pairs : DriveWork [0x30, 0x31] commandFields (begun s) (commandStart amps s) := by
    rw [commandStart_eq]
    exact .forN (fun k hk a => startPair_work _ _ hk a) _
  intro a ha
  rw [pairs.page a ha, (begun_work s).page a ha, rdReg_atPhase]

/-- COMMAND_START as leg `l` sees it: the pairs before its own leave it, its own pair acts, and the pairs after it leave it. -/
theorem commandStart_visit (hl : l < 16) (amps : List Nat) (s : State) : ∃ u, Apart l (begun s) u
    ∧ legSt (commandStart amps s) l = legSt (startPair (nthN amps) (togetherIn (begun s)) (l / 2) u) l := by
  obtain ⟨u, before, after⟩ := forN_visit_below (f := startPair (nthN amps) (togetherIn (begun s))) (Sim := Apart l) 8 (l / 2) (by omega)
    (fun s => ⟨.refl .., rfl, rfl⟩)
    (fun _ _ _ h g => ⟨h.1.trans g.1, g.2.1.trans h.2.1, g.2.2.trans h.2.2⟩)
    (fun k a hk hk8 => ⟨startPair_work _ _ hk8 a, startPair_others _ _ hk.symm a, startPair_others _ _ (by rw [partnerOf_div]; exact hk.symm) a⟩)
    (begun s)
  exact ⟨u, before, after.2.1⟩

/-- A due command leaves the queue of its leg (R297). -/
theorem commandStart_cmd (hl : l < 16) (amps : List Nat) (s : State) :
    (legSt (commandStart amps s) l).cmd = if (dueCmd s l).isSome then (legSt s l).next else (legSt s l).cmd := by
  obtain ⟨u, ⟨work, same, -⟩, own⟩ := commandStart_visit hl amps s
  obtain ⟨cmd, next⟩ := begun_orders l s
  rw [own, startPair_cmd _ _ rfl, dueCmd_congr (by rw [same]) work.time, begun_due, same, cmd, next]

/-- The leg as its command finds it. -/
theorem commandStart_acts {c : LegCmd} (hl : l < 16) (amps : List Nat) (due : dueCmd s l = some c) (alone : dueCmd s (partnerOf l) = none)
    (own : (legSt s l).ownOff = false) (duty : (legSt s l).dutyOff = false) : ∃ v both,
      legSt (commandStart amps s) l = legSt (actCommand l c both (nthN amps) v) l
      ∧ (legSt v l).st = (legSt s l).st ∧ (legSt v l).endAt = (legSt s l).endAt ∧ (legSt v l).wait = (legSt s l).wait
      ∧ legSafe l v = legSafe l s ∧ legF VLV.LG_STAT_DUTY_EP l v = legF VLV.LG_STAT_DUTY_EP l s
      ∧ pairF VLV.PR_CFG_OVL l v = pairF VLV.PR_CFG_OVL l s := by
  obtain ⟨u, ⟨work, same, partner⟩, acts⟩ := commandStart_visit hl amps s
  obtain ⟨sw, decay, steered⟩ := (begun_steers own duty).same
  have all : DriveWork [0x30, 0x31] commandFields (atPhase 40 0 s) (dequeued l u) := ((begun_work s).trans work).trans (.put ..)
  have idle : dueCmd u (partnerOf l) = none := (dueCmd_congr (by rw [partner]) work.time).trans ((begun_due ..).trans alone)
  have now : dueCmd u l = some c := (dueCmd_congr (by rw [same]) work.time).trans ((begun_due ..).trans due)
  rw [startPair_alone _ _ rfl idle, startLeg_due _ _ now] at acts
  have leg : legSt (dequeued l u) l = { legSt (begun s) l with cmd := (legSt (begun s) l).next, next := none } := by
    rw [dequeued, legSt_putLeg, same]
  rw [steered] at leg
  exact ⟨dequeued l u, _, acts, by rw [leg], by rw [leg], by rw [leg], (all.legSafe commandFields_running l).trans (legSafe_atPhase ..),
    (all.duty l).trans (getF_atPhase ..), (all.force rfl ..).trans (getF_atPhase ..)⟩

end

end Sys2Proof.Machine
end

section
namespace Sys2Proof.Machine

/-! ### Writes of the valve pages' registers -/

section
variable {party : Party} {p off : Nat} {d : RegDesc} {i : Instr} {s : State}

/-- From what the judgement makes of one write to what its command does. -/
theorem does_judged {ps : List Part} {f : State → State} {w : Word} {ok : FieldDesc → Bool} {res : Res} {fact : State → Prop} (awake : Awake s)
    (he : exec i s = .next (finishWrite (reach ps f) s)) (hf : f (clearReports s) = regWrite party p off w (clearReports s))
    (hps : Part.pwr ∉ ps ∧ Part.regs ∈ ps ∧ Part.bus ∈ ps) (drv : Part.drv ∈ ps) (plain : plainReg p off ok = true) (row : regAt p off = some d)
    (block : ¬ off < 0x100) (power : pageOff p s = false)
    (taken : ∀ l, ∃ t, judged (judgeReg (cxOf party p off w d (clearReports s) l) (withHolds (clearReports s) l)) (withHolds (clearReports s) l) = (res, t)
      ∧ fact t) :
    Does i s fun u => u.bus.reports = [⟨party, pageAddr p off, res⟩] ∧ ∃ t, fact t ∧ RegsBut [] t u ∧ u.drv = t.drv := by
  have same : finishWrite (reach ps f) s = finishWrite (reach ps (regWrite party p off w)) s := by
    unfold finishWrite reach
    rw [hf]
  obtain ⟨h1, h2, h3, h4, h5, h6, -⟩ := plainReg_facts plain
  obtain ⟨l, c, written⟩ := regWrite_eq (party := party) (w := w) (s := clearReports s) h1 h2 h3 h4 power row h5 (regAdvance_none h6 party) (by omega)
  obtain ⟨t, left, holds⟩ := taken l
  rw [left] at written
  obtain ⟨u, settles, report, regs, parts⟩ := does_regWrite awake hps (he.trans (congrArg _ same)) written
  exact ⟨u, settles, report, t, holds, regs, parts .drv drv (by decide)⟩

/-- A write whose every written field its party may write, under LOCK too, is permitted (R31, R33). -/
theorem permitted_written {cx : WriteCx} (h : ∀ f ∈ cx.fields, ownerPermits cx s f = true ∧ f.oper = true ∧ f.acc ≠ .rws) :
    fieldsPermitted cx s = true := by
  refine List.all_eq_true.2 fun f hf => ?_
  obtain ⟨owner, oper, acc⟩ := h f hf
  simp [owner, oper, acc]

/-- A register that shows no computed state and belongs to no party. -/
theorem regWord_plain (block : ¬ off < 0x100) (shown : blockRead party p off s = none) (shared : partyReg d = false) :
    regWord party p off d s = rdReg s (pageAddr p off) := by
  rw [regWord, if_neg (by omega), if_neg (by omega), if_neg (by omega), if_neg block, shown]
  simp only [shared, Bool.false_eq_true, if_false]

theorem blockRead_vlv (kind : pageKind p = some .vlv) : blockRead party p off s = vlvRead p off s := by
  simp only [blockRead, kind]

/-- The word of a command bit: the register with bit `n` set. -/
def bitSet (r : Word) (n : Nat) : Word := setBits r n n 1

/-- Where no command bit is stored, the word of the command bit `g` writes the field `g` alone (R502). -/
theorem written_command {r : Word} {g : FieldDesc} (read : regWord party p off d s = r) (range : rangeReg p off = false) (single : g.hi = g.lo)
    (wo : g.acc = .wo) (small : g.lo < 32) (zero : ∀ f ∈ d.fields, f.acc = .wo → bitsOf r f.hi f.lo = 0)
    (beside : ∀ f ∈ d.fields, f ≠ g → (f.acc = .wo ∨ f.acc = .rwd ∧ f.win = false) ∧ f.lo ≤ f.hi ∧ (f.hi < g.lo ∨ g.lo < f.lo)) (l : List Hold) :
    (cxOf party p off (bitSet r g.lo) d s l).fields = d.fields.filter fun f => decide (f = g) := by
  unfold cxOf cycleCx writeCx
  refine List.filter_congr fun f hf => ?_
  have out : rangeWrite (bitSet r g.lo) p off f s = false := by
    simp only [rangeReg, decide_eq_false_iff_not] at range
    rw [rangeWrite, decide_eq_false fun h => range ⟨h.1, h.2.1, h.2.2.1, h.2.2.2.1⟩]
    rfl
  rw [read, out, Bool.or_false]
  by_cases here : f = g
  · subst here
    have set : bitsOf (bitSet r f.lo) f.lo f.lo = 1 := by
      rw [bitSet, bitsOf_setBits_self _ _ _ _ (Nat.le_refl _) small, Nat.sub_self]
      rfl
    simp [writesField, wo, single, set]
  · obtain ⟨acc, order, apart⟩ := beside f hf here
    have same : bitsOf (bitSet r g.lo) f.hi f.lo = bitsOf r f.hi f.lo := bitsOf_setBits_other _ _ _ _ _ _ (Nat.le_refl _) small apart order
    rcases acc with none | ⟨held, win⟩
    · simp [writesField, none, same, zero f hf none, here]
    · simp [writesField, held, same, win, here]

end

/-! ### LGi_CMD -/

/-- The row of the legs' command registers (R296). -/
def legCmdDesc : RegDesc := ⟨0x104, 0x20, 8, [rfOpU 31 30 .wo 0, rfOpU 23 0 .wo 0]⟩

theorem legCmd_row : ∀ leg : Fin 16, plainReg (legPg leg.val) (0x104 + 0x20 * (leg.val % 8)) (unitField true) = true
    ∧ regAt (legPg leg.val) (0x104 + 0x20 * (leg.val % 8)) = some legCmdDesc
    ∧ regUnit legCmdDesc (0x104 + 0x20 * (leg.val % 8)) = leg.val % 8 ∧ pageKind (legPg leg.val) = some .vlv := by decide

theorem legPg_leg (leg : Fin 16) : (legPg leg.val - 0x30) * 8 + leg.val % 8 = leg.val := by unfold legPg; omega

/-- The word of a leg's command (R296). -/
def legCmdWord (op onT : Nat) : Word := ofN (op * 1073741824 + onT)

theorem legCmdWord_fields {op onT : Nat} (hop : op < 4) (hon : onT < 2 ^ 24) :
    bitsOf (legCmdWord op onT) 31 30 = op ∧ bitsOf (legCmdWord op onT) 23 0 = onT := by
  simp only [bitsOf, legCmdWord, ofN, BitVec.toNat_ofNat, Nat.shiftRight_eq_div_pow]
  omega

section
variable {party : Party} {leg : Fin 16} {op onT : Nat} {i : Instr} {s : State}

/-- Where the registers of a leg lie. -/
abbrev cmdOff (leg : Fin 16) : Nat := 0x104 + 0x20 * (leg.val % 8)

/-- A permitted write of a command register with an operation is judged as the leg's command (R296). -/
theorem judgeReg_legCmd (may : MayWriteUnit party (legPg leg.val) (leg.val % 8) true s) (hop : op < 4) (hon : onT < 2 ^ 24) (nonzero : op ≠ 0)
    (l : List Hold) : judgeReg (cxOf party (legPg leg.val) (cmdOff leg) (legCmdWord op onT) legCmdDesc s l) (withHolds s l)
      = legCommand leg.val op onT (withHolds s l) := by
  obtain ⟨plain, row, unit, kind⟩ := legCmd_row leg
  obtain ⟨operation, time⟩ := legCmdWord_fields hop hon
  obtain ⟨-, -, -, -, -, -, range, -⟩ := plainReg_facts plain
  have fields : (cxOf party (legPg leg.val) (cmdOff leg) (legCmdWord op onT) legCmdDesc s l).fields ≠ [] :=
    List.ne_nil_of_mem (List.mem_filter.2 ⟨List.mem_cons_self, by simp [writesField, rfOpU, operation, nonzero]⟩)
  have leg16 : (legPg leg.val - 0x30) * 8 + regUnit legCmdDesc (cmdOff leg) = leg.val := by rw [unit, legPg_leg]
  have legs : cmdOff leg < 0x200 := by unfold cmdOff; omega
  have command : cmdOff leg % 0x20 = 4 := by unfold cmdOff; omega
  rw [judgeReg_block may.2.1 rfl (permitted_unit l may unit range (by decide)) (.inl fields) (show ¬ cmdOff leg < 0x100 by unfold cmdOff; omega),
    blockWrite_vlv _ kind]
  unfold vlvWrite
  extract_lets page u l' k
  rw [if_pos (show (cxOf party (legPg leg.val) (cmdOff leg) (legCmdWord op onT) legCmdDesc s l).off < 0x200 from legs),
    if_neg (by rw [show k = 4 from command]; decide), if_pos (show k = 4 from command), if_neg fields]
  rw [show l' = leg.val from leg16]
  exact congrArg₂ (legCommand leg.val · · _) operation time

/-- A write without an operation writes no field (R296, R502). -/
theorem judgeReg_legNop (may : MayWriteUnit party (legPg leg.val) (leg.val % 8) true s) (l : List Hold) :
    judgeReg (cxOf party (legPg leg.val) (cmdOff leg) (legCmdWord 0 0) legCmdDesc s l) (withHolds s l) = .ok (withHolds s l) := by
  obtain ⟨plain, row, unit, kind⟩ := legCmd_row leg
  obtain ⟨operation, time⟩ := legCmdWord_fields (op := 0) (onT := 0) (by decide) (by decide)
  obtain ⟨-, -, -, -, -, -, range, -⟩ := plainReg_facts plain
  have none : (cxOf party (legPg leg.val) (cmdOff leg) (legCmdWord 0 0) legCmdDesc s l).fields = [] := by
    refine List.filter_eq_nil_iff.2 fun f hf => ?_
    have out : rangeWrite (legCmdWord 0 0) (legPg leg.val) (cmdOff leg) f s = false := by simp [rangeWrite, kind]
    rw [out, Bool.or_false]
    simp only [legCmdDesc, List.mem_cons, List.not_mem_nil, or_false] at hf
    rcases hf with rfl | rfl
    · simp [writesField, rfOpU, operation]
    · simp [writesField, rfOpU, time]
  refine judgeReg_idle may.2.1 rfl (permitted_unit l may unit range (by decide)) ?_
  rintro (fields | key)
  · exact fields none
  · simp only [keyRegister, cxOf, cycleCx, writeCx, kind, cmdOff] at key
    split at key
    · omega
    · exact absurd key (by decide)

/-- The command of a write of a command register, from what the leg's command comes to. -/
theorem legCmd_does {res : Res} {fact : State → Prop} (awake : Awake s) (may : MayWriteUnit party (legPg leg.val) (leg.val % 8) true s)
    (hop : op < 4) (hon : onT < 2 ^ 24) (nonzero : op ≠ 0)
    (he : exec i s = .next (finishWrite (reach [.regs, .bus, .drv] (legCmdWrite party leg op onT)) s))
    (taken : ∀ l, ∃ t, judged (legCommand leg.val op onT (withHolds (clearReports s) l)) (withHolds (clearReports s) l) = (res, t) ∧ fact t) :
    Does i s fun u => u.bus.reports = [⟨party, pageAddr (legPg leg.val) (cmdOff leg), res⟩] ∧ ∃ t, fact t ∧ RegsBut [] t u ∧ u.drv = t.drv := by
  obtain ⟨plain, row, -⟩ := legCmd_row leg
  refine does_judged awake he rfl (by decide) (by decide) plain row (show ¬ cmdOff leg < 0x100 by unfold cmdOff; omega) may.1 fun l => ?_
  have judgement := judgeReg_legCmd (s := clearReports s) may hop hon nonzero l
  rw [show (legCmdWord op onT) = ofN (op * 1073741824 + onT) from rfl] at judgement
  rw [judgement]
  exact taken l

end

end Sys2Proof.Machine
end

section
namespace Sys2Proof.Machine

/-! ### The commands of LGi_CMD -/

/-- Whether a waiting command of leg `x` is one of a tick before `now`, still due (R297). -/
def OlderWaits (x : LegState) (now : Nat) : Prop := ∃ c, x.cmd = some c ∧ c.at_ < now

/-- A leg `x` with a command that has been written in tick `now` (R297). -/
def Ordered (op onT now : Nat) (x y : LegState) : Prop := (OlderWaits x now → y = { x with next := some ⟨op, onT, now⟩ })
  ∧ (¬ OlderWaits x now → y = { x with cmd := some ⟨op, onT, now⟩ })

section
variable {l op onT : Nat} {s : State}

theorem legCommand_refuses (h : stopped (legPg l) s = true ∨ legF VLV.LG_CTRL_EN l s = 0) : legCommand l op onT s = .refuse := by
  refine if_pos ?_
  rcases h with h | h <;> simp [h]

/-- A leg that can act does not refuse (R297). -/
theorem legCommand_open (runs : stopped (legPg l) s = false) (enabled : legF VLV.LG_CTRL_EN l s ≠ 0) (lasts : op = 1 → onT ≠ 0) :
    ¬ ((stopped (legPg l) s || decide (legF VLV.LG_CTRL_EN l s = 0) || (decide (op = 1) && decide (onT = 0))) = true) := by
  have pulse : (decide (op = 1) && decide (onT = 0)) = false := by
    by_cases h : op = 1
    · simp [lasts h]
    · simp [h]
  simp [runs, enabled, pulse]

theorem legCommand_held (runs : stopped (legPg l) s = false) (enabled : legF VLV.LG_CTRL_EN l s ≠ 0) (lasts : op = 1 → onT ≠ 0)
    (forced : legForced l s = true) : legCommand l op onT s = .held := by
  unfold legCommand
  extract_lets p
  rw [if_neg (legCommand_open runs enabled lasts), if_pos forced]

/-- What STAT, CNT and IRQ_STAT show of a command that replaces another (R297). -/
def overwritten (l : Nat) (s : State) : State := setIrq (legPg l) 18 (incSat VLV.LG_CNT_OVW (legPg l) (l % 8) (setLegB VLV.LG_STAT_OVERWR l true s))

theorem overwritten_work (l : Nat) (s : State) : LegWork l commandFields s (overwritten l s) := by
  rw [overwritten, incSat]
  exact ((setLegB_work (by decide) (by decide) ..).trans (.field (by decide) (by decide) _)).trans (.irq (by decide) ..)

theorem legSt_overwritten (l j : Nat) (s : State) : legSt (overwritten l s) j = legSt s j := by
  rw [overwritten, legSt_setIrq, incSat, legSt_setF, setLegB, setLegF, legSt_setF]

/-- A leg that can act takes the command, and no other leg changes (R297). -/
theorem legCommand_takes (runs : stopped (legPg l) s = false) (enabled : legF VLV.LG_CTRL_EN l s ≠ 0) (lasts : op = 1 → onT ≠ 0)
    (free : legForced l s = false) (nonzero : op ≠ 0) : ∃ t, legCommand l op onT s = .ok t ∧ Ordered op onT s.time.ticks (legSt s l) (legSt t l)
      ∧ (∀ j, j ≠ l → legSt t j = legSt s j) ∧ ∀ a, a / 0x400 ≠ legPg l → rdReg t a = rdReg s a := by
  unfold legCommand
  extract_lets p x old new again t
  rw [if_neg (legCommand_open runs enabled lasts), free, if_neg Bool.false_ne_true, if_neg nonzero]
  have noted : LegWork l commandFields s t ∧ ∀ j, legSt t j = legSt s j := by
    simp only [t]
    split
    · exact ⟨overwritten_work l s, fun j => legSt_overwritten l j s⟩
    · exact ⟨.refl .., fun _ => rfl⟩
  have older : old x.cmd = true ↔ OlderWaits x s.time.ticks := by
    simp only [old, OlderWaits]
    cases x.cmd with
    | none => simp
    | some c => simp
  refine ⟨_, rfl, ⟨fun h => ?_, fun h => ?_⟩, fun j hj => (legSt_putLeg_ne _ _ hj).trans (noted.2 j), noted.1.pair.1⟩
  · rw [legSt_putLeg, if_pos (older.2 h)]
  · rw [legSt_putLeg, if_neg fun h' => h (older.1 h')]

end

/-! ### LGi_CTRL -/

/-- The row of the legs' control registers (R310, R315). -/
def legCtrlDesc : RegDesc := ⟨0x100, 0x20, 8, [rfOwner 31 27 .rwd 0x3, rfOpU 9 9 .wo 0x0, rfOpU 8 8 .wo 0x0, rfCfgU 0 0 .rwd 0x0]⟩

/-- Where the control register of a leg lies. -/
def ctrlOff (leg : Fin 16) : Nat := 0x100 + 0x20 * (leg.val % 8)

theorem legCtrl_row : ∀ leg : Fin 16, plainReg (legPg leg.val) (ctrlOff leg) (fun _ => true) = true
    ∧ regAt (legPg leg.val) (ctrlOff leg) = some legCtrlDesc ∧ regUnit legCtrlDesc (ctrlOff leg) = leg.val % 8
    ∧ pageKind (legPg leg.val) = some .vlv := by decide

section
variable {party : Party} {leg : Fin 16} {n : Nat} {s : State}

/-- A write of a command bit of LGi_CTRL, with the register's other bits as they stand. -/
def ctrlCx (party : Party) (leg : Fin 16) (n : Nat) (s : State) (l : List Hold) : WriteCx :=
  cxOf party (legPg leg.val) (ctrlOff leg) (bitSet (rdReg s (pageAddr (legPg leg.val) (ctrlOff leg))) n) legCtrlDesc s l

theorem ctrl_regWord (s : State) : regWord party (legPg leg.val) (ctrlOff leg) legCtrlDesc s = rdReg s (pageAddr (legPg leg.val) (ctrlOff leg)) := by
  refine regWord_plain (by unfold ctrlOff; omega) ?_ (by decide)
  rw [blockRead_vlv (legCtrl_row leg).2.2.2, vlvRead, if_neg (by unfold ctrlOff; omega), if_neg (by unfold ctrlOff; omega)]

theorem ctrl_fields (h : n = 8 ∨ n = 9) (zero : CommandBitsZero (legPg leg.val) (ctrlOff leg) s) (l : List Hold) :
    (ctrlCx party leg n s l).fields = [rfOpU n n .wo 0] := by
  obtain ⟨plain, row, -⟩ := legCtrl_row leg
  obtain ⟨-, -, -, -, -, -, range, -⟩ := plainReg_facts plain
  have zero := zero _ row
  rcases h with rfl | rfl
  · exact (written_command (g := rfOpU 8 8 .wo 0) (ctrl_regWord s) range rfl rfl (by decide) zero (by decide) l).trans (by decide)
  · exact (written_command (g := rfOpU 9 9 .wo 0) (ctrl_regWord s) range rfl rfl (by decide) zero (by decide) l).trans (by decide)

/-- A permitted write of a command bit of LGi_CTRL comes to the checks and effects of its bits (R310, R315). -/
theorem judgeReg_ctrl (may : MayWriteUnit party (legPg leg.val) (leg.val % 8) true s) (h : n = 8 ∨ n = 9)
    (zero : CommandBitsZero (legPg leg.val) (ctrlOff leg) s) (l : List Hold) : judgeReg (ctrlCx party leg n s l) (withHolds s l)
      = vlvWrite (ctrlCx party leg n s l) (withHolds s l)
    ∧ storeFields (ctrlCx party leg n s l) (withHolds s l) = stored (pageAddr (legPg leg.val) (ctrlOff leg)) (withHolds s l) := by
  obtain ⟨-, -, unit, kind⟩ := legCtrl_row leg
  have fields := ctrl_fields (party := party) h zero l
  have owner : unitOwns (legPg leg.val) (regUnit legCtrlDesc (ctrlOff leg)) party (withHolds s l) = true := by rw [unit]; exact may.2.2.1
  refine ⟨?_, storeFields_commands (by decide : partyReg legCtrlDesc = false) ?_ _⟩
  · rw [judgeReg_block may.2.1 rfl (permitted_written ?_) (.inl (by rw [fields]; exact List.cons_ne_nil _ _))
      (show ¬ ctrlOff leg < 0x100 by unfold ctrlOff; omega), blockWrite_vlv _ kind]
    rw [fields]
    intro f hf
    rw [List.mem_singleton.1 hf]
    exact ⟨owner, rfl, by simp [rfOpU]⟩
  · rw [fields]
    intro f hf
    rw [List.mem_singleton.1 hf]
    exact ⟨rfl, rfl⟩

/-- The bits of a word with a command bit set. -/
theorem bitSet_bits (r : Word) {m : Nat} (hn : n < 32) : bitsOf (bitSet r n) m m = if m = n then 1 else bitsOf r m m := by
  split
  · next e =>
    subst e
    rw [bitSet, bitsOf_setBits_self _ _ _ _ (Nat.le_refl _) hn, Nat.sub_self]
    rfl
  · exact bitsOf_setBits_other _ _ _ _ _ _ (Nat.le_refl _) hn (by omega) (Nat.le_refl _)

theorem ctrl_zero (zero : CommandBitsZero (legPg leg.val) (ctrlOff leg) s) (h : n = 8 ∨ n = 9) :
    bitsOf (rdReg s (pageAddr (legPg leg.val) (ctrlOff leg))) n n = 0 := by
  have row := zero _ (legCtrl_row leg).2.1
  rcases h with rfl | rfl
  · exact row (rfOpU 8 8 .wo 0) (by decide) rfl
  · exact row (rfOpU 9 9 .wo 0) (by decide) rfl

/-- What the checks of LGi_CTRL make of a write of a command bit alone. -/
theorem vlvWrite_ctrl (h : n = 8 ∨ n = 9) (zero : CommandBitsZero (legPg leg.val) (ctrlOff leg) s) (l : List Hold) (t : State) :
    vlvWrite (ctrlCx party leg n s l) t = if n = 8 then
        (if hsTripped leg.val t then .refuse
         else .ok (putLeg leg.val { legSt (storeFields (ctrlCx party leg n s l) t) leg.val with tripClr := true } (storeFields (ctrlCx party leg n s l) t)))
      else .ok (wrReg (storeFields (ctrlCx party leg n s l) t) (pageAddr (legPg leg.val) (0x230 + 4 * (leg.val % 8))) 0) := by
  obtain ⟨-, -, unit, -⟩ := legCtrl_row leg
  have owner : cxHas (ctrlCx party leg n s l) 27 = false := by
    rw [cxHas, ctrl_fields h zero l]
    rcases h with rfl | rfl <;> rfl
  have bits (m : Nat) (hm : m = 8 ∨ m = 9) : cxBits (ctrlCx party leg n s l) m m = if m = n then 1 else 0 := by
    refine (bitSet_bits _ (by omega)).trans ?_
    rw [ctrl_zero zero hm]
  have legs : (ctrlCx party leg n s l).off < 0x200 := show ctrlOff leg < 0x200 by unfold ctrlOff; omega
  have place : (ctrlCx party leg n s l).off % 0x20 = 0 := show ctrlOff leg % 0x20 = 0 by unfold ctrlOff; omega
  have whose : ((ctrlCx party leg n s l).page - 0x30) * 8 + leg.val % 8 = leg.val := legPg_leg leg
  have where_ : (ctrlCx party leg n s l).unit = leg.val % 8 := unit
  unfold vlvWrite
  simp only [if_pos legs, if_pos place, owner, whose, where_, bits 8 (.inl rfl), bits 9 (.inr rfl)]
  rcases h with rfl | rfl
  · simp
  · simp only [Bool.false_and, Bool.false_or, show ¬ (8 : Nat) = 9 from by decide, show ¬ (9 : Nat) = 8 from by decide, if_false, if_true,
      show ¬ (0 : Nat) = 1 from by decide, decide_false, Bool.false_eq_true]
    rfl

/-- TRIP_CLR is noted for the next boundary, where the switch of the pair is whole (R310). -/
theorem legTripClr_does (awake : Awake s) (may : MayWriteUnit party (legPg leg.val) (leg.val % 8) true s)
    (zero : CommandBitsZero (legPg leg.val) (ctrlOff leg) s) (whole : hsTripped leg.val s = false) :
    Does (.legTripClr party leg) s fun u => Acked party (pageAddr (legPg leg.val) (ctrlOff leg)) u
      ∧ legSt u leg.val = { legSt s leg.val with tripClr := true } ∧ (∀ j, j ≠ leg.val → legSt u j = legSt s j) ∧ RegsBut [] s u := by
  obtain ⟨plain, row, -⟩ := legCtrl_row leg
  obtain ⟨u, settles, report, t, ⟨l, rfl⟩, regs, drv⟩ := does_judged (i := .legTripClr party leg) (res := .done)
    (fact := fun t => ∃ l, t = putLeg leg.val { legSt s leg.val with tripClr := true }
      (stored (pageAddr (legPg leg.val) (ctrlOff leg)) (withHolds (clearReports s) l)))
    awake rfl rfl (by decide) (by decide) plain row (Nat.not_lt.2 (Nat.le_add_right ..)) may.1 fun l => ⟨_, by
      obtain ⟨judgement, store⟩ := judgeReg_ctrl (s := clearReports s) may (.inl rfl) zero l
      have open_ : hsTripped leg.val (withHolds (clearReports s) l) = false := whole
      change judged (judgeReg (ctrlCx party leg 8 (clearReports s) l) (withHolds (clearReports s) l)) _ = _
      rw [judgement, vlvWrite_ctrl (s := clearReports s) (.inl rfl) zero, if_pos rfl, open_, store]
      rfl, l, rfl⟩
  refine ⟨u, settles, report, ?_, fun j hj => ?_, fun a ha => (regs a ha).trans (rdReg_stored ..)⟩
  · rw [legSt_congr drv, legSt_putLeg]
  · rw [legSt_congr drv, legSt_putLeg_ne _ _ hj]
    rfl

/-- CNT_CLR clears the leg's counters at once (R315). -/
theorem legCntClr_does (awake : Awake s) (may : MayWriteUnit party (legPg leg.val) (leg.val % 8) true s)
    (zero : CommandBitsZero (legPg leg.val) (ctrlOff leg) s) :
    Does (.legCntClr party leg) s fun u => Acked party (pageAddr (legPg leg.val) (ctrlOff leg)) u
      ∧ rdReg u (pageAddr (legPg leg.val) (0x230 + 4 * (leg.val % 8))) = 0 ∧ u.drv = s.drv
      ∧ RegsBut [pageAddr (legPg leg.val) (0x230 + 4 * (leg.val % 8))] s u := by
  obtain ⟨plain, row, -⟩ := legCtrl_row leg
  obtain ⟨u, settles, report, t, ⟨l, rfl⟩, regs, drv⟩ := does_judged (i := .legCntClr party leg) (res := .done)
    (fact := fun t => ∃ l, t = wrReg (stored (pageAddr (legPg leg.val) (ctrlOff leg)) (withHolds (clearReports s) l))
      (pageAddr (legPg leg.val) (0x230 + 4 * (leg.val % 8))) 0)
    awake rfl rfl (by decide) (by decide) plain row (Nat.not_lt.2 (Nat.le_add_right ..)) may.1 fun l => ⟨_, by
      obtain ⟨judgement, store⟩ := judgeReg_ctrl (s := clearReports s) may (.inr rfl) zero l
      change judged (judgeReg (ctrlCx party leg 9 (clearReports s) l) (withHolds (clearReports s) l)) _ = _
      rw [judgement, vlvWrite_ctrl (s := clearReports s) (.inr rfl) zero, if_neg (by decide), store]
      rfl, l, rfl⟩
  refine ⟨u, settles, report, ?_, drv, fun a ha => ?_⟩
  · rw [regs _ List.not_mem_nil, rdReg_wrReg]
  · rw [regs _ List.not_mem_nil, rdReg_wrReg_ne _ _ fun e => ha (List.mem_singleton.2 e.symm), rdReg_stored]
    rfl

end

end Sys2Proof.Machine
end

section
namespace Sys2Proof.Machine

/-! ### PRk_CFG -/

/-- The row of the pairs' configuration registers (R303, R310). -/
def pairCfgDesc : RegDesc := ⟨0x200, 0x8, 4, [rfOp 31 31 .wo 0x0, rfCfg 24 8 .rwd 0x4e20, rfCfg 4 4 .rwd 0x0, rfCfg 1 0 .rwd 0x0]⟩

/-- The page of a pair, by its global number (R292). -/
def pairPg (pair : Fin 8) : Nat := 0x30 + pair.val / 4

/-- Where the configuration register of a pair lies. -/
def pairOff (pair : Fin 8) : Nat := 0x200 + 8 * (pair.val % 4)

theorem pairCfg_row : ∀ pair : Fin 8, plainReg (pairPg pair) (pairOff pair) (fun _ => true) = true
    ∧ regAt (pairPg pair) (pairOff pair) = some pairCfgDesc ∧ regUnit pairCfgDesc (pairOff pair) = pair.val % 4
    ∧ pageKind (pairPg pair) = some .vlv := by decide

section
variable {party : Party} {pair : Fin 8} {s : State}

/-- A write of HS_CLR, with the register's other bits as they stand. -/
def hsClrCx (party : Party) (pair : Fin 8) (s : State) (l : List Hold) : WriteCx :=
  cxOf party (pairPg pair) (pairOff pair) (bitSet (rdReg s (pageAddr (pairPg pair) (pairOff pair))) 31) pairCfgDesc s l

theorem pairCfg_regWord (s : State) : regWord party (pairPg pair) (pairOff pair) pairCfgDesc s = rdReg s (pageAddr (pairPg pair) (pairOff pair)) := by
  refine regWord_plain (Nat.not_lt.2 (Nat.le_add_right_of_le (by decide))) ?_ (by decide)
  rw [blockRead_vlv (pairCfg_row pair).2.2.2, vlvRead, if_neg (by unfold pairOff; omega), if_neg (by unfold pairOff; omega)]

theorem hsClr_fields (zero : CommandBitsZero (pairPg pair) (pairOff pair) s) (l : List Hold) :
    (hsClrCx party pair s l).fields = [rfOp 31 31 .wo 0] := by
  obtain ⟨plain, row, -⟩ := pairCfg_row pair
  obtain ⟨-, -, -, -, -, -, range, -⟩ := plainReg_facts plain
  exact (written_command (g := rfOp 31 31 .wo 0) (pairCfg_regWord s) range rfl rfl (by decide) (zero _ row) (by decide) l).trans (by decide)

/-- A HS_CLR of a pair is among those that the next boundary takes (R310). -/
def hsClrNoted (pair : Fin 8) (t : State) : State := { t with drv := { t.drv with hsClr := pair.val :: t.drv.hsClr } }

/-- The first condition of R305 that the pair's configuration breaks as it was last written. -/
def pairBreaks (pair : Fin 8) (s : State) : Nat :=
  let cur := curWord (pairPg pair) s
  let k := pair.val % 4
  pairCause (getW VLV.PR_CFG_OVL (pairPg pair) k s) (bitsOf (cur (2 * k)) 25 16) (bitsOf (cur (2 * k)) 9 0)
    (bitsOf (cur (2 * k + 1)) 25 16) (bitsOf (cur (2 * k + 1)) 9 0)

/-- What the checks of PRk_CFG make of HS_CLR alone, in a pair whose configuration is sound (R305, R310). -/
theorem vlvWrite_hsClr (zero : CommandBitsZero (pairPg pair) (pairOff pair) s) (sound : pairBreaks pair s = 0) (l : List Hold) :
    vlvWrite (hsClrCx party pair s l) (withHolds s l) = .ok (hsClrNoted pair (storeFields (hsClrCx party pair s l) (withHolds s l))) := by
  obtain ⟨-, -, unit, -⟩ := pairCfg_row pair
  have fields := hsClr_fields (party := party) zero l
  have beyond (h b lo hi : Nat) (hb : b ≠ 31) : cxOutside (hsClrCx party pair s l) h b lo hi = false := by
    rw [cxOutside, cxHas, fields]
    simp [rfOp, hb.symm]
  have set : cxBits (hsClrCx party pair s l) 31 31 = 1 := (bitSet_bits _ (by decide)).trans (if_pos rfl)
  have policy : cxNew (hsClrCx party pair s l) 1 0 = getW VLV.PR_CFG_OVL (pairPg pair) (pair.val % 4) s := by
    have old : cxMerged (hsClrCx party pair s l) = (hsClrCx party pair s l).old := by rw [cxMerged, fields]; rfl
    rw [cxNew, old, show (hsClrCx party pair s l).old = _ from pairCfg_regWord (withHolds s l)]
    rfl
  have checked : pairCheck (pairPg pair) (pair.val % 4) (getW VLV.PR_CFG_OVL (pairPg pair) (pair.val % 4) s) (curWord (pairPg pair) (withHolds s l))
      (hsClrCx party pair s l) (withHolds s l) = .ok (storeFields (hsClrCx party pair s l) (withHolds s l)) := if_neg (not_not.2 sound)
  have legs : ¬ (hsClrCx party pair s l).off < 0x200 := show ¬ pairOff pair < 0x200 by unfold pairOff; omega
  have place : (hsClrCx party pair s l).off < 0x220 ∧ (hsClrCx party pair s l).off % 8 = 0 := by
    change pairOff pair < 0x220 ∧ pairOff pair % 8 = 0
    unfold pairOff
    omega
  have page : (hsClrCx party pair s l).page = pairPg pair := rfl
  have where_ : (hsClrCx party pair s l).unit = pair.val % 4 := unit
  have whose : (pairPg pair - 0x30) * 4 + pair.val % 4 = pair.val := by unfold pairPg; omega
  unfold vlvWrite
  simp only [if_neg legs, if_pos place, page, where_, beyond 24 8 0 100000 (by decide), beyond 1 0 0 2 (by decide), policy, checked, set, whose,
    Bool.or_self, Bool.false_eq_true, if_false, if_true]
  rfl

/-- HS_CLR is noted for the next boundary (R310). -/
theorem hsClr_does (awake : Awake s) (may : MayWrite party (pairPg pair) true s) (zero : CommandBitsZero (pairPg pair) (pairOff pair) s)
    (sound : pairBreaks pair s = 0) :
    Does (.hsClr party pair) s fun u => Acked party (pageAddr (pairPg pair) (pairOff pair)) u ∧ RegsBut [] s u
      ∧ u.drv = { s.drv with hsClr := pair.val :: s.drv.hsClr } := by
  obtain ⟨plain, row, unit, kind⟩ := pairCfg_row pair
  have block : ¬ pairOff pair < 0x100 := by unfold pairOff; omega
  have only (l : List Hold) : ∀ f ∈ (hsClrCx party pair (clearReports s) l).fields, f = rfOp 31 31 .wo 0 := fun f hf =>
    List.mem_singleton.1 (hsClr_fields (s := clearReports s) zero l ▸ hf)
  have store (l : List Hold) : storeFields (hsClrCx party pair (clearReports s) l) (withHolds (clearReports s) l)
      = stored (pageAddr (pairPg pair) (pairOff pair)) (withHolds (clearReports s) l) :=
    storeFields_commands (by decide : partyReg pairCfgDesc = false) (fun f hf => by rw [only l f hf]; exact ⟨rfl, rfl⟩) _
  have permitted (l : List Hold) : fieldsPermitted (hsClrCx party pair (clearReports s) l) (withHolds (clearReports s) l) = true :=
    permitted_written fun f hf => by
      rw [only l f hf]
      exact ⟨by rw [ownerPermits]; exact may.2.2.1, rfl, by decide⟩
  obtain ⟨u, settles, report, t, ⟨l, rfl⟩, regs, drv⟩ := does_judged (i := .hsClr party pair) (res := .done)
    (fact := fun t => ∃ l, t = hsClrNoted pair (stored (pageAddr (pairPg pair) (pairOff pair)) (withHolds (clearReports s) l)))
    awake rfl rfl (by decide) (by decide) plain row block may.1 fun l => ⟨_, by
      change judged (judgeReg (hsClrCx party pair (clearReports s) l) (withHolds (clearReports s) l)) _ = _
      rw [judgeReg_block may.2.1 rfl (permitted l) (.inl (by rw [hsClr_fields (s := clearReports s) zero l]; exact List.cons_ne_nil _ _)) block,
        blockWrite_vlv _ kind, vlvWrite_hsClr (s := clearReports s) zero sound, store]
      rfl, l, rfl⟩
  exact ⟨u, settles, report, fun a ha => (regs a ha).trans (rdReg_stored ..), drv⟩

end

/-! ### The commands of a leg -/

section
variable {party : Party} {leg : Fin 16} {op onT : Nat} {i : Instr} {s : State}

theorem vlvNop_does (awake : Awake s) (may : MayWriteUnit party (legPg leg.val) (leg.val % 8) true s) :
    Does (.vlvNop party leg) s fun u => Acked party (pageAddr (legPg leg.val) (cmdOff leg)) u ∧ u.drv = s.drv ∧ RegsBut [] s u := by
  obtain ⟨plain, row, -⟩ := legCmd_row leg
  obtain ⟨u, settles, report, t, ⟨l, rfl⟩, regs, drv⟩ := does_judged (i := .vlvNop party leg) (res := .done)
    (fact := fun t => ∃ l, t = withHolds (clearReports s) l) (w := legCmdWord 0 0)
    awake rfl rfl (by decide) (by decide) plain row (Nat.not_lt.2 (Nat.le_add_right_of_le (by decide))) may.1 fun l => ⟨_, by
      rw [judgeReg_legNop (s := clearReports s) may]
      rfl, l, rfl⟩
  exact ⟨u, settles, report, drv, regs⟩

/-- What a command that a leg can take does, by whether a forced state holds the leg (R297, R312). -/
theorem legCmd_taken (awake : Awake s) (may : MayWriteUnit party (legPg leg.val) (leg.val % 8) true s) (hop : op < 4) (hon : onT < 2 ^ 24)
    (nonzero : op ≠ 0) (lasts : op = 1 → onT ≠ 0) (runs : stopped (legPg leg.val) s = false) (enabled : legF VLV.LG_CTRL_EN leg.val s ≠ 0)
    (he : exec i s = .next (finishWrite (reach [.regs, .bus, .drv] (legCmdWrite party leg op onT)) s)) :
    (legForced leg.val s = false → Does i s fun u => Acked party (pageAddr (legPg leg.val) (cmdOff leg)) u
      ∧ (∀ j, j ≠ leg.val → legSt u j = legSt s j) ∧ Outside [legPg leg.val] s u
      ∧ legSt u leg.val = if (∃ c, (legSt s leg.val).cmd = some c ∧ c.at_ < s.time.ticks)
          then { legSt s leg.val with next := some ⟨op, onT, s.time.ticks⟩ } else { legSt s leg.val with cmd := some ⟨op, onT, s.time.ticks⟩ })
    ∧ (legForced leg.val s = true → Does i s fun u => u.bus.reports = [⟨party, pageAddr (legPg leg.val) (cmdOff leg), .held⟩]
      ∧ u.drv = s.drv ∧ RegsBut [] s u) := by
  refine ⟨fun free => ?_, fun forced => ?_⟩
  · obtain ⟨u, settles, report, t, ⟨⟨older, newest⟩, others, page⟩, regs, drv⟩ := legCmd_does (res := .done)
      (fact := fun t => Ordered op onT s.time.ticks (legSt s leg.val) (legSt t leg.val) ∧ (∀ j, j ≠ leg.val → legSt t j = legSt s j)
        ∧ ∀ a, a / 0x400 ≠ legPg leg.val → rdReg t a = rdReg s a)
      awake may hop hon nonzero he fun l => by
        obtain ⟨t, e, leg, others, page⟩ := legCommand_takes (l := leg.val) (s := withHolds (clearReports s) l) runs enabled lasts free nonzero
        exact ⟨t, by rw [e]; rfl, leg, others, page⟩
    refine ⟨u, settles, report, fun j hj => (legSt_congr drv j).trans (others j hj),
      fun a _ ha => (regs a List.not_mem_nil).trans (page a fun e => ha (List.mem_singleton.2 e)), ?_⟩
    rw [legSt_congr drv]
    split
    · next h => exact older h
    · next h => exact newest h
  · obtain ⟨u, settles, report, t, ⟨l, rfl⟩, regs, drv⟩ := legCmd_does (res := .held) (fact := fun t => ∃ l, t = withHolds (clearReports s) l)
      awake may hop hon nonzero he fun l => ⟨_, by
        rw [legCommand_held (s := withHolds (clearReports s) l) runs enabled lasts forced]
        rfl, l, rfl⟩
    exact ⟨u, settles, report, drv, regs⟩

/-- A leg that cannot act refuses (R297). -/
theorem vlvOn_refuses (awake : Awake s) (may : MayWriteUnit party (legPg leg.val) (leg.val % 8) true s)
    (h : stopped (legPg leg.val) s = true ∨ legF VLV.LG_CTRL_EN leg.val s = 0) :
    Does (.vlvOn party leg) s fun u => u.bus.reports = [⟨party, pageAddr (legPg leg.val) (cmdOff leg), .refused⟩] ∧ u.drv = s.drv ∧ RegsBut [] s u := by
  obtain ⟨u, settles, report, t, ⟨l, rfl⟩, regs, drv⟩ := legCmd_does (i := .vlvOn party leg) (op := 2) (onT := 0) (res := .refused)
    (fact := fun t => ∃ l, t = withHolds (clearReports s) l) awake may (by decide) (by decide) (by decide) rfl fun l => ⟨_, by
      rw [legCommand_refuses (s := withHolds (clearReports s) l) h]
      rfl, l, rfl⟩
  exact ⟨u, settles, report, drv, regs⟩

end

end Sys2Proof.Machine

namespace Sys2Proof.Proofs
open Sys2Proof Sys2Proof.Machine

/-- Settles O30: a write of a command register is judged as the leg's command, and one of a command bit writes this bit alone; at phase 40 a
leg sees of the other pairs nothing, and acts by its own state. -/
theorem valveLegsTakeTheirCommands : Obligations.Valve_Legs_Take_Their_Commands := by
  unfold Obligations.Valve_Legs_Take_Their_Commands
  intro party leg pair onT amps s awake
  refine ⟨fun may => ⟨vlvNop_does awake may, fun runs enabled => ⟨fun lasts => ?_, ?_, ?_⟩, fun h => vlvOn_refuses awake may h,
    fun zero => ⟨fun whole => legTripClr_does awake may zero whole, legCntClr_does awake may zero⟩⟩,
    fun may zero sound => hsClr_does awake may zero sound, ⟨_, settles_finish awake rfl, fun a _ ha => ?_, ?_, fun c due alone own duty safe episode wait => ?_⟩⟩
  · exact legCmd_taken awake may (by decide) onT.isLt (by decide) (fun _ zero => lasts (BitVec.eq_of_toNat_eq zero)) runs enabled rfl
  · exact legCmd_taken awake may (by decide) (by decide) (by decide) (by decide) runs enabled rfl
  · exact legCmd_taken awake may (by decide) (by decide) (by decide) (by decide) runs enabled rfl
  · rw [rdReg_reach _ _ _ (by decide)]
    exact commandStart_outside amps (clearReports s) a ha
  · rw [legSt_reach (by decide)]
    exact commandStart_cmd leg.isLt amps (clearReports s)
  · obtain ⟨v, both, acts, st, ends, waits, safe', duty', policy⟩ :=
      commandStart_acts (s := clearReports s) leg.isLt amps due alone own duty
    rw [legSt_reach (by decide), acts]
    refine ⟨fun op idle concurrent => ?_, fun op runs never => ?_⟩
    · exact actCommand_on both _ op (st.trans idle) (waits.trans wait) (policy.trans concurrent) (safe'.trans safe) (duty'.trans episode)
    · have profile : inProfile (legSt v leg.val) = true := by rw [inProfile, st]; exact runs
      exact actCommand_off both _ op profile (ends.trans never) (waits.trans wait) (safe'.trans safe) (duty'.trans episode)

end Sys2Proof.Proofs
end

section
/-!
PROOFS. A message that the history loses again in its own cycle (R361, R383): what follows a command does not keep it.
-/
namespace Sys2Proof.Machine

/-- Page 0 has sent one message of severity 0 in a cycle that has seen 32 of them, while the recorder's queue is full (`crowdedCycle`). -/
def crowdedMessage : State :=
  raise 0 0xFF 0x0001 0 { crowdedCycle with cyc := { crowdedCycle.cyc with at_ := cycleNow crowdedCycle } }

/-- That the recorder dropped a record is one message more (R383), before which the message of page 0 is the oldest of its group. -/
theorem crowdedMessage_forgotten : ∀ h ∈ (settle crowdedMessage).flt.hist, h.src ≠ 0xFF := by decide +kernel

end Sys2Proof.Machine

namespace Sys2Proof.Proofs
open Sys2Proof Sys2Proof.Machine

/-- Refutes O59: where the cycle has heard other messages before, a single message can leave the history in the cycle of its arrival. What
holds of every state is said by `settle_governed`, `settle_agree` and `settle_quiet`, and of a cycle without messages before by
`settle_heard`. -/
theorem not_whatFollowsACommandDeliversAndGoverns : ¬ Obligations.What_Follows_A_Command_Delivers_And_Governs := by
  unfold Obligations.What_Follows_A_Command_Delivers_And_Governs
  intro h
  obtain ⟨-, -, -, -, delivered⟩ := h crowdedMessage
  obtain ⟨e, he, src, -⟩ := delivered (by decide) _ (List.mem_singleton.2 rfl)
  exact crowdedMessage_forgotten e he src

end Sys2Proof.Proofs
end

section
/-!
PROOFS. The channels of the fans, inputs and outputs (chapter 11). An operation on one channel of a page touches the other channels
not at all, and of the registers those of its page, beside the common ones that the end of an episode writes. What a command makes of its
channel is said once for each case of its operation; the statements take the cases one by one.
-/
namespace Sys2Proof.Machine

/-! ### Work on one channel -/

/-- The channels of FAN, DOU and AOU as the drive holds them. -/
abbrev fanOf (d : DrvState) (n : Nat) : FanState := tabGet (fun _ => FanState.idle) d.fans n
@[inherit_doc fanOf] abbrev doOf (d : DrvState) (j : Nat) : DoState := tabGet (fun _ => DoState.idle) d.dos j
@[inherit_doc fanOf] abbrev aoOf (d : DrvState) (k : Nat) : AoState := tabGet (fun _ => AoState.idle) d.aos k

/-- An operation on channel `n` of page `p`, whose channels are `chan`. -/
structure ChannelWork {α : Type} (chan : DrvState → Nat → α) (p n : Nat) (s t : State) : Prop where
  page : ∀ a, calm a → a / 0x400 ≠ p → rdReg t a = rdReg s a
  others : ∀ k, k ≠ n → chan t.drv k = chan s.drv k

namespace ChannelWork
variable {α : Type} {chan : DrvState → Nat → α} {p n : Nat} {s t u : State}

theorem refl (chan : DrvState → Nat → α) (p n : Nat) (s : State) : ChannelWork chan p n s s := ⟨fun _ _ _ => rfl, fun _ _ => rfl⟩

theorem trans (h : ChannelWork chan p n s t) (g : ChannelWork chan p n t u) : ChannelWork chan p n s u :=
  ⟨fun a c ha => (g.page a c ha).trans (h.page a c ha), fun k hk => (g.others k hk).trans (h.others k hk)⟩

theorem ite {c : Prop} [Decidable c] (h : ChannelWork chan p n s t) : ChannelWork chan p n s (if c then t else s) := by
  split
  · exact h
  · exact refl chan p n s

/-- An operation that leaves the registers and the drive. -/
theorem of_parts (regs : t.regs = s.regs) (drv : t.drv = s.drv) : ChannelWork chan p n s t :=
  ⟨fun a _ _ => by rw [rdReg, rdReg, regs], fun k _ => by rw [drv]⟩

theorem collect (h : CollectOnly s t) : ChannelWork chan p n s t := by
  refine ⟨fun a c _ => h.2 a c, fun k _ => ?_⟩
  obtain ⟨⟨_, _, _, _, rfl⟩, -⟩ := h
  rfl

theorem fan (n : Nat) (v : FanState) (s : State) : ChannelWork fanOf p n s (putFan n v s) := ⟨fun _ _ _ => rfl, fun _ hk => fanSt_putFan_ne s v hk.symm⟩
theorem dou (j : Nat) (v : DoState) (s : State) : ChannelWork doOf p j s (putDo j v s) := ⟨fun _ _ _ => rfl, fun _ hk => doSt_putDo_ne s v hk.symm⟩
theorem aou (k : Nat) (v : AoState) (s : State) : ChannelWork aoOf p k s (putAo k v s) := ⟨fun _ _ _ => rfl, fun _ hk => aoSt_putAo_ne s v hk.symm⟩

end ChannelWork

/-- The command of an operation on one channel, of whose end `fact` holds. -/
theorem does_channel {α : Type} {chan : DrvState → Nat → α} {i : Instr} {ps : List Part} {f : State → State} {p n : Nat} {fact : State → Prop} {s : State}
    (awake : Awake s) (he : exec i s = .next (finish (reach ps f) s)) (drv : Part.drv ∈ ps)
    (work : ChannelWork chan p n (clearReports s) (f (clearReports s))) (holds : fact (reach ps f (clearReports s))) :
    Does i s fun u => Outside [p] s u ∧ (∀ k, k ≠ n → chan u.drv k = chan s.drv k) ∧ fact u := by
  refine ⟨_, settles_finish awake he, fun a quiet ha => ?_, fun k hk => ?_, holds⟩
  · by_cases regs : Part.regs ∈ ps
    · rw [rdReg_reach _ _ _ regs]
      exact work.page a (quiet_calm quiet) fun e => ha (List.mem_singleton.2 e)
    · rw [rdReg_reach_not _ _ _ regs, rdReg_clearReports]
  · rw [reach_drv _ _ _ drv]
    exact work.others k hk

/-! ### Instants, messages and interrupts -/

theorem CollectOnly.drv {s t : State} (h : CollectOnly s t) : t.drv = s.drv := by
  obtain ⟨⟨_, _, _, _, rfl⟩, -⟩ := h
  rfl

theorem CollectOnly.force {s t : State} (h : CollectOnly s t) : t.force = s.force := by
  obtain ⟨⟨_, _, _, _, rfl⟩, -⟩ := h
  rfl

theorem usNow_congr {s t : State} (h : t.time = s.time) : usNow t = usNow s := by rw [usNow, usNow, h]

/-- A double-buffered field is read in the register's copy in force. -/
theorem getF_congr_force {f : Fld} (rwd : f.acc = .rwd) {s t : State} (h : t.force = s.force) (p u : Nat) : getF f p u t = getF f p u s := by
  rw [getF, getF, if_pos rwd, if_pos rwd, rdForce, rdForce, h]

theorem fanSt_congr {s t : State} (h : t.drv = s.drv) (n : Nat) : fanSt t n = fanSt s n := by rw [fanSt, fanSt, h]
theorem doSt_congr {s t : State} (h : t.drv = s.drv) (j : Nat) : doSt t j = doSt s j := by rw [doSt, doSt, h]
theorem aoSt_congr {s t : State} (h : t.drv = s.drv) (k : Nat) : aoSt t k = aoSt s k := by rw [aoSt, aoSt, h]

theorem setIrq_drv (p n : Nat) (s : State) : (setIrq p n s).drv = s.drv := rfl

@[simp] theorem fanSt_setIrq (p k : Nat) (s : State) (n : Nat) : fanSt (setIrq p k s) n = fanSt s n := rfl
@[simp] theorem fanSt_raise (p i k a : Nat) (s : State) (n : Nat) : fanSt (raise p i k a s) n = fanSt s n := rfl

@[simp] theorem irq_raise (p i k a q m : Nat) (s : State) : irq q m (raise p i k a s) = irq q m s := rfl
@[simp] theorem irq_putFan (n : Nat) (v : FanState) (p k : Nat) (s : State) : irq p k (putFan n v s) = irq p k s := rfl

/-- The bit of IRQ_STAT that an operation has set reads 1. -/
theorem irq_set (p : Nat) {n : Nat} (s : State) (hn : n < 32) : irq p n (setIrq p n s) = true := irq_setIrq p s hn

/-- A message bears the tick count at which it is sent, whatever the phase. -/
theorem sent_raise_of_tick {s t : State} (h : t.time.tick = s.time.tick) (page inst kind addr : Nat) :
    Sent page inst kind addr s (raise page inst kind addr t) := by
  obtain ⟨x, hx, src, kd, ad, tick⟩ := sent_raise page inst kind addr t
  exact ⟨x, hx, src, kd, ad, by rw [tick, h]⟩

/-- What the instant of an event leaves: all but the phase and the cycle. -/
theorem reachUs_parts {n : Nat} {s t : State} (h : reachUs n s = some t) :
    ∃ x : TimeState, x.tick = s.time.tick ∧ x.ticks = s.time.ticks ∧ t = { s with time := x } := by
  unfold reachUs at h
  split at h
  · exact absurd h (by simp)
  · split at h
    · obtain ⟨x, e⟩ := atPhase_time (n % 125) 0 s
      refine ⟨x, ?_, ?_, (Option.some.inj h).symm.trans e⟩
      · rw [← atPhase_tick (n % 125) 0 s, e]
      · rw [← atPhase_ticks (n % 125) 0 s, e]
    · exact ⟨s.time, rfl, rfl, (Option.some.inj h).symm⟩

theorem reachUs_work {α : Type} {chan : DrvState → Nat → α} {p k n : Nat} {s t : State} (h : reachUs n s = some t) : ChannelWork chan p k s t :=
  .of_parts (reachUs_regs h) (reachUs_drv h)

theorem fanSt_reach {ps : List Part} {f : State → State} {s : State} (h : Part.drv ∈ ps) (n : Nat) : fanSt (reach ps f s) n = fanSt (f s) n :=
  fanSt_congr (reach_drv _ _ _ h) n

theorem doSt_reach {ps : List Part} {f : State → State} {s : State} (h : Part.drv ∈ ps) (n : Nat) : doSt (reach ps f s) n = doSt (f s) n :=
  doSt_congr (reach_drv _ _ _ h) n

theorem aoSt_reach {ps : List Part} {f : State → State} {s : State} (h : Part.drv ∈ ps) (n : Nat) : aoSt (reach ps f s) n = aoSt (f s) n :=
  aoSt_congr (reach_drv _ _ _ h) n

end Sys2Proof.Machine
end

section
namespace Sys2Proof.Machine

section
variable (n : Nat) (s : State)

/-! ### What an operation leaves of a fan -/

theorem endTachLost_only : CollectOnly s (endTachLost n s) := .ite _ (endEp_only ..)

theorem fanSt_endTachLost (k : Nat) : fanSt (endTachLost n s) k = fanSt s k := fanSt_congr (endTachLost_only n s).drv k

theorem endTachLost_other (h : (fanSt s n).st ≠ 6) : endTachLost n s = s := if_neg h

/-- A fan in BACKOFF before retry `r` (R330). -/
def restingFan (r : Nat) (x : FanState) : FanState :=
  { x with st := 3, out := 0, retry := r - 1, doubt := none, due := usNow s + getF FAN.CH_EVID_BACKOFF fanPg n s * 2 ^ (r - 1) * 1000000 }

theorem fanBackoff_eq (r : Nat) : fanBackoff n r s = putFan n (restingFan n s r (fanSt s n)) (endTachLost n s) := by
  have only := endTachLost_only n s
  rw [restingFan, ← fanSt_endTachLost, ← usNow_congr only.time, ← getF_congr_force (by decide) only.force]
  rfl

theorem fanBackoff_work (r : Nat) : ChannelWork fanOf fanPg n s (fanBackoff n r s) := by
  rw [fanBackoff_eq]
  exact (ChannelWork.collect (endTachLost_only n s)).trans (.fan ..)

/-- What the duty rests on of a fan beside its surroundings. -/
def DutyParts (x y : FanState) : Prop := y.gov = x.gov ∧ y.mode = x.mode ∧ y.man = x.man ∧ y.lpin = x.lpin ∧ y.region = x.region

/-- The governed duty rests on neither the fan's state nor its output (R320, R325). -/
theorem fanGoverned_put {v : FanState} (h : DutyParts (fanSt s n) v) : fanGoverned n (putFan n v s) = fanGoverned n s := by
  obtain ⟨gov, mode, man, lpin, region⟩ := h
  have ground := (OnFan.put n v s).ground
  have govs : govOf fanPg n (putFan n v s) = govOf fanPg n s := by rw [govOf, if_pos rfl, fanSt_putFan, gov, govOf, if_pos rfl]
  have modes : modeOf fanPg n (putFan n v s) = modeOf fanPg n s := by rw [modeOf, if_pos rfl, fanSt_putFan, mode, modeOf, if_pos rfl]
  have row : govBelow fanPg n (putFan n v s) = govBelow fanPg n s := by
    unfold govBelow row5
    rw [govs, modes]
    rfl
  unfold fanGoverned
  simp only [fanSt_putFan, row, gov, mode, man, lpin, region]
  rfl

/-- The governed duty does not rest on the phase. -/
theorem fanGoverned_time (x : TimeState) : fanGoverned n { s with time := x } = fanGoverned n s := rfl

/-! ### Edges of the tachometer -/

theorem fanTach_work (period : Option Nat) : ChannelWork fanOf fanPg n s (fanTach n period s) := .fan ..

/-! ### Kicks -/

variable {n : Nat} {s v : State}

theorem fanKickTimeout_idle (h : (fanSt s n).st ≠ 1) : fanKickTimeout n s = s := if_neg h

theorem fanKickTimeout_reached (kick : (fanSt s n).st = 1) (reached : reachUs (fanSt s n).due s = some v) : fanKickTimeout n s = fanKickFail n v := by
  rw [fanKickTimeout, if_pos kick, reached]

/-- A third failed retry ends in LOCKOUT (R330). -/
theorem fanKickFail_locks (spent : 3 ≤ (fanSt s n).retry) : fanKickFail n s
    = raise fanPg 0x02 kFanStallLockout n (putFan n { fanSt s n with st := 4, out := 0 } (setIrq fanPg 17 s)) := if_pos spent

/-- The interrupt and the report of a kick that has failed for the first time in its episode (R330). -/
def kickReported (n : Nat) (s : State) : State :=
  raiseIf (!(fanSt s n).told) fanPg 0x02 kFanStallStart n (putFan n { fanSt s n with told := true } (setIrq fanPg 17 s))

/-- Another failed kick ends in BACKOFF before the next retry (R330). -/
theorem fanKickFail_rests (left : (fanSt s n).retry < 3) : fanKickFail n s = fanBackoff n ((fanSt s n).retry + 1) (kickReported n s) :=
  if_neg (Nat.not_le.2 left)

theorem kickReported_cases (n : Nat) (s : State) : let t := putFan n { fanSt s n with told := true } (setIrq fanPg 17 s)
    kickReported n s = t ∨ kickReported n s = raise fanPg 0x02 kFanStallStart n t := by
  unfold kickReported raiseIf
  split
  · exact .inr rfl
  · exact .inl rfl

theorem fanSt_kickReported (n : Nat) (s : State) : fanSt (kickReported n s) n = { fanSt s n with told := true } := by
  obtain e | e := kickReported_cases n s
  · rw [e, fanSt_putFan]
  · rw [e, fanSt_raise, fanSt_putFan]

theorem kickReported_parts (n : Nat) (s : State) : (kickReported n s).time = s.time ∧ (kickReported n s).force = s.force
    ∧ irq fanPg 17 (kickReported n s) = true := by
  obtain e | e := kickReported_cases n s
  · rw [e, irq_putFan]; exact ⟨rfl, rfl, irq_set _ _ (by decide)⟩
  · rw [e, irq_raise, irq_putFan]; exact ⟨rfl, rfl, irq_set _ _ (by decide)⟩

theorem fanKickFail_work (n : Nat) (s : State) : ChannelWork fanOf fanPg n s (fanKickFail n s) := by
  have noted : ChannelWork fanOf fanPg n s (setIrq fanPg 17 s) := .collect (setIrq_only ..)
  by_cases spent : 3 ≤ (fanSt s n).retry
  · rw [fanKickFail_locks spent]
    exact (noted.trans (.fan ..)).trans (.collect (raise_only ..))
  · rw [fanKickFail_rests (Nat.not_le.1 spent)]
    refine ChannelWork.trans ?_ (fanBackoff_work ..)
    obtain e | e := kickReported_cases n s
    · rw [e]; exact noted.trans (.fan ..)
    · rw [e]; exact (noted.trans (.fan ..)).trans (.collect (raise_only ..))

theorem fanKickTimeout_work (n : Nat) (s : State) : ChannelWork fanOf fanPg n s (fanKickTimeout n s) := by
  by_cases kick : (fanSt s n).st = 1
  · cases reached : reachUs (fanSt s n).due s with
    | none => rw [fanKickTimeout, if_pos kick, reached]; exact .refl ..
    | some v => rw [fanKickTimeout_reached kick reached]; exact (reachUs_work reached).trans (fanKickFail_work n v)
  · rw [fanKickTimeout_idle kick]; exact .refl ..

/-- A kick whose window has passed after the third retry (R330). -/
theorem fanKickTimeout_locks (kick : (fanSt s n).st = 1) (due : (fanSt s n).due / 125 ≤ s.time.ticks) (spent : 3 ≤ (fanSt s n).retry) :
    let u := fanKickTimeout n s
    fanSt u n = { fanSt s n with st := 4, out := 0 } ∧ irq fanPg 17 u = true ∧ Sent fanPg 2 kFanStallLockout n s u := by
  obtain ⟨v, reached⟩ := reachUs_isSome due
  have same := fanSt_congr (reachUs_drv reached) n
  obtain ⟨x, tick, -, rfl⟩ := reachUs_parts reached
  rw [fanKickTimeout_reached kick reached, fanKickFail_locks (by rw [same]; exact spent), same]
  exact ⟨by rw [fanSt_raise, fanSt_putFan], by rw [irq_raise, irq_putFan, irq_set _ _ (by decide)], sent_raise_of_tick tick ..⟩

/-- A kick whose window has passed with a retry left (R330). -/
theorem fanKickTimeout_rests (kick : (fanSt s n).st = 1) (due : (fanSt s n).due / 125 ≤ s.time.ticks) (left : (fanSt s n).retry < 3) :
    let u := fanKickTimeout n s
    fanSt u n = restingFan n { s with time := u.time } ((fanSt s n).retry + 1) { fanSt s n with told := true } ∧ irq fanPg 17 u = true
      ∧ ((fanSt s n).told = false → Sent fanPg 2 kFanStallStart n s u) := by
  obtain ⟨v, reached⟩ := reachUs_isSome due
  have same := fanSt_congr (reachUs_drv reached) n
  obtain ⟨x, tick, -, rfl⟩ := reachUs_parts reached
  have kicked : (fanSt (kickReported n { s with time := x }) n).st ≠ 6 := by
    rw [fanSt_kickReported, same, kick]
    decide
  obtain ⟨time, force, noted⟩ := kickReported_parts n { s with time := x }
  rw [fanKickTimeout_reached kick reached, fanKickFail_rests (by rw [same]; exact left), fanBackoff_eq, endTachLost_other _ _ kicked,
    fanSt_kickReported, same]
  refine ⟨?_, noted, fun first => ?_⟩
  · change fanSt (putFan ..) n = restingFan n { s with time := (kickReported n { s with time := x }).time } _ _
    rw [fanSt_putFan, restingFan, usNow_congr time, getF_congr_force (by decide) force, time]
    rfl
  · have told : (fanSt { s with time := x } n).told = false := by rw [same]; exact first
    unfold kickReported
    rw [told]
    exact sent_raise_of_tick tick ..

end

end Sys2Proof.Machine
end

section
namespace Sys2Proof.Machine

section
variable {n g amp : Nat} {s v : State}

/-! ### The end of a back-off -/

/-- A fan whose retry waits for demand (R330). -/
def waitingFan (x : FanState) : FanState := { x with st := 0, pend := true }

/-- A fan in the kick that begins now (R329, R330). -/
def kickedFan (n : Nat) (s : State) (x : FanState) : FanState :=
  { x with
    st := 1, out := 1000, due := usNow s + getF FAN.CH_CFG_KICK_TO fanPg n s * 100000
    retry := if x.pend then x.retry + 1 else x.retry, pend := false }

/-- A fan whose kick has succeeded at governed duty `g` (R329). -/
def runningFan (g : Nat) (x : FanState) : FanState := { x with st := 2, out := g, retry := 0, told := false }

theorem fanKickCheck_cases (n g : Nat) (s : State) :
    fanKickCheck n g s = s ∨ fanKickCheck n g s = putFan n (runningFan g (fanSt s n)) s := by
  unfold fanKickCheck
  dsimp only
  split
  · exact .inr rfl
  · exact .inl rfl

/-- A kick begins, and succeeds at once where the published speed is high enough (R329). -/
theorem fanKick_cases (n g : Nat) (s : State) : let t := putFan n (kickedFan n s (fanSt s n)) s
    fanKick n g s = t ∨ fanKick n g s = putFan n (runningFan g (kickedFan n s (fanSt s n))) t := by
  have c := fanKickCheck_cases n g (putFan n (kickedFan n s (fanSt s n)) s)
  rw [fanSt_putFan] at c
  exact c

/-- The end of a back-off at its instant (R330). -/
def backoffEnded (n : Nat) (s : State) : State :=
  let t := putFan n (waitingFan (fanSt s n)) s
  if 0 < fanGoverned n t then fanKick n (fanGoverned n t) t else t

theorem fanBackoffEnd_idle (h : (fanSt s n).st ≠ 3) : fanBackoffEnd n s = s := if_neg h

theorem fanBackoffEnd_reached (rests : (fanSt s n).st = 3) (reached : reachUs (fanSt s n).due s = some v) :
    fanBackoffEnd n s = backoffEnded n v := by
  rw [fanBackoffEnd, if_pos rests, reached]
  rfl

theorem waits_duty (n : Nat) (s : State) : fanGoverned n (putFan n (waitingFan (fanSt s n)) s) = fanGoverned n s :=
  fanGoverned_put n s ⟨rfl, rfl, rfl, rfl, rfl⟩

theorem backoffEnded_waits (off : fanGoverned n s = 0) : backoffEnded n s = putFan n (waitingFan (fanSt s n)) s :=
  if_neg (by rw [waits_duty, off]; decide)

theorem backoffEnded_kicks (on : 0 < fanGoverned n s) :
    backoffEnded n s = fanKick n (fanGoverned n s) (putFan n (waitingFan (fanSt s n)) s) := by
  have demand : 0 < fanGoverned n (putFan n (waitingFan (fanSt s n)) s) := by rw [waits_duty]; exact on
  rw [backoffEnded, if_pos demand, waits_duty]

theorem fanKick_work (n g : Nat) (s : State) : ChannelWork fanOf fanPg n s (fanKick n g s) := by
  obtain e | e := fanKick_cases n g s
  · rw [e]; exact .fan ..
  · rw [e]; exact (ChannelWork.fan ..).trans (.fan ..)

theorem backoffEnded_work (n : Nat) (s : State) : ChannelWork fanOf fanPg n s (backoffEnded n s) := by
  obtain off | on := Nat.eq_zero_or_pos (fanGoverned n s)
  · rw [backoffEnded_waits off]; exact .fan ..
  · rw [backoffEnded_kicks on]; exact (ChannelWork.fan ..).trans (fanKick_work ..)

theorem fanBackoffEnd_work (n : Nat) (s : State) : ChannelWork fanOf fanPg n s (fanBackoffEnd n s) := by
  by_cases rests : (fanSt s n).st = 3
  · cases reached : reachUs (fanSt s n).due s with
    | none => rw [fanBackoffEnd, if_pos rests, reached]; exact .refl ..
    | some v => rw [fanBackoffEnd_reached rests reached]; exact (reachUs_work reached).trans (backoffEnded_work n v)
  · rw [fanBackoffEnd_idle rests]; exact .refl ..

/-- A fan whose back-off has passed waits for demand in OFF (R330). -/
theorem fanBackoffEnd_waits (rests : (fanSt s n).st = 3) (due : (fanSt s n).due / 125 ≤ s.time.ticks) (off : fanGoverned n s = 0) :
    fanSt (fanBackoffEnd n s) n = waitingFan (fanSt s n) ∧ fanGoverned n (fanBackoffEnd n s) = 0 := by
  obtain ⟨v, reached⟩ := reachUs_isSome due
  have same := fanSt_congr (reachUs_drv reached) n
  obtain ⟨x, -, -, rfl⟩ := reachUs_parts reached
  rw [fanBackoffEnd_reached rests reached, backoffEnded_waits (s := { s with time := x }) off, waits_duty, fanSt_putFan, same]
  exact ⟨rfl, off⟩

/-- A fan whose back-off has passed under demand kicks, and that kick may succeed at once (R329, R330). -/
theorem fanBackoffEnd_kicks (rests : (fanSt s n).st = 3) (due : (fanSt s n).due / 125 ≤ s.time.ticks) (on : 0 < fanGoverned n s) :
    let u := fanBackoffEnd n s
    let kicked := kickedFan n { s with time := u.time } (waitingFan (fanSt s n))
    (fanSt u n = kicked ∨ fanSt u n = runningFan (fanGoverned n s) kicked) ∧ fanGoverned n u = fanGoverned n s := by
  obtain ⟨v, reached⟩ := reachUs_isSome due
  have same := fanSt_congr (reachUs_drv reached) n
  obtain ⟨x, -, -, rfl⟩ := reachUs_parts reached
  have duty (w : FanState) (t : State) (h : DutyParts (fanSt t n) w) (ht : fanGoverned n t = fanGoverned n s) : fanGoverned n (putFan n w t) = fanGoverned n s :=
    (fanGoverned_put n t h).trans ht
  have waits := (waits_duty n { s with time := x }).trans (fanGoverned_time n s x)
  rw [fanBackoffEnd_reached rests reached, backoffEnded_kicks (s := { s with time := x }) on]
  have parts (w : FanState) : DutyParts w (kickedFan n (putFan n (waitingFan (fanSt { s with time := x } n)) { s with time := x }) w) :=
    ⟨rfl, rfl, rfl, rfl, rfl⟩
  obtain e | e := fanKick_cases n (fanGoverned n { s with time := x }) (putFan n (waitingFan (fanSt { s with time := x } n)) { s with time := x })
  · rw [e]
    exact ⟨.inl (by rw [fanSt_putFan, fanSt_putFan, same]; rfl), duty _ _ (parts _) waits⟩
  · rw [e]
    refine ⟨.inr (by rw [fanSt_putFan, fanSt_putFan, same]; rfl), duty _ _ ?_ (duty _ _ (parts _) waits)⟩
    rw [fanSt_putFan]
    exact ⟨rfl, rfl, rfl, rfl, rfl⟩

/-! ### A doubtful tachometer -/

theorem fanStall_eq (n : Nat) (s : State) :
    fanStall n s = raise fanPg 0x02 kFanStall n (setIrq fanPg 17 (fanBackoff n 1 (putFan n { fanSt s n with told := false } s))) := rfl

theorem fanStall_work (n : Nat) (s : State) : ChannelWork fanOf fanPg n s (fanStall n s) :=
  (((ChannelWork.fan ..).trans (fanBackoff_work ..)).trans (.collect (setIrq_only ..))).trans (.collect (raise_only ..))

/-- A stall: BACKOFF before retry 1, and its message (R331). -/
theorem fanStall_rests (n : Nat) (s : State) : fanSt (fanStall n s) n = restingFan n s 1 { fanSt s n with told := false }
    ∧ Sent fanPg 2 kFanStall n s (fanStall n s) := by
  have time (r : Nat) (t : State) : (fanBackoff n r t).time = t.time := by
    rw [fanBackoff_eq]
    exact (endTachLost_only n t).time
  refine ⟨?_, sent_raise_of_time ((setIrq_time ..).trans (time ..)) ..⟩
  rw [fanStall_eq, fanSt_raise, fanSt_setIrq, fanBackoff_eq, fanSt_putFan, fanSt_putFan]
  rfl

theorem fanTachDoubt_idle (h : (fanSt s n).doubt = none) : fanTachDoubt n amp s = s := by
  unfold fanTachDoubt
  simp only [h]

section
variable {t : Nat} (doubt : (fanSt s n).doubt = some t)
include doubt

theorem fanTachDoubt_early (early : s.time.ticks < t + 8192) : fanTachDoubt n amp s = s := by
  unfold fanTachDoubt
  simp only [doubt, early, if_true]

variable (due : t + 8192 ≤ s.time.ticks)
include due

theorem fanTachDoubt_due : fanTachDoubt n amp s = if !fanEvidence n amp s then fanStall n s
    else if (fanSt s n).st = 2 then
      raise fanPg 0x02 kFanTachLost n (setIrq fanPg 18 (putFan n { fanSt s n with st := 6, doubt := some s.time.ticks, steady := false } s))
    else putFan n { fanSt s n with doubt := some s.time.ticks } s := by
  unfold fanTachDoubt
  simp only [doubt, Nat.not_lt.2 due, if_false]

theorem fanTachDoubt_stalls (evidence : fanEvidence n amp s = false) : fanTachDoubt n amp s = fanStall n s := by
  rw [fanTachDoubt_due doubt due, evidence]
  rfl

/-- A fan in RUN with the second evidence loses its tachometer alone (R331). -/
theorem fanTachDoubt_loses (evidence : fanEvidence n amp s = true) (runs : (fanSt s n).st = 2) : let u := fanTachDoubt n amp s
    fanSt u n = { fanSt s n with st := 6, doubt := some s.time.ticks, steady := false } ∧ irq fanPg 18 u = true
      ∧ Sent fanPg 2 kFanTachLost n s u := by
  rw [fanTachDoubt_due doubt due, evidence, if_pos runs]
  exact ⟨by rw [if_neg (by decide), fanSt_raise, fanSt_setIrq, fanSt_putFan], by rw [if_neg (by decide), irq_raise, irq_set _ _ (by decide)],
    sent_raise_of_time rfl ..⟩

theorem fanTachDoubt_waits (evidence : fanEvidence n amp s = true) (other : (fanSt s n).st ≠ 2) :
    fanSt (fanTachDoubt n amp s) n = { fanSt s n with doubt := some s.time.ticks } := by
  rw [fanTachDoubt_due doubt due, evidence, if_neg other, if_neg (by decide), fanSt_putFan]

end

theorem fanTachDoubt_work (n amp : Nat) (s : State) : ChannelWork fanOf fanPg n s (fanTachDoubt n amp s) := by
  cases doubt : (fanSt s n).doubt with
  | none => rw [fanTachDoubt_idle doubt]; exact .refl ..
  | some t =>
    obtain early | due := Nat.lt_or_ge s.time.ticks (t + 8192)
    · rw [fanTachDoubt_early doubt early]; exact .refl ..
    · rw [fanTachDoubt_due doubt due]
      split
      · exact fanStall_work ..
      · split
        · exact ((ChannelWork.fan ..).trans (.collect (setIrq_only ..))).trans (.collect (raise_only ..))
        · exact .fan ..

/-! ### Trips -/

theorem fanTripped_idle {thermal : Bool} (h : (fanSt s n).st = 5) : fanTripped n thermal s = s := if_pos h

/-- A tripped fan (R332). -/
def trippedFan (x : FanState) : FanState := { x with st := 5, out := 0, doubt := none, steady := false }

theorem fanTripped_eq {thermal : Bool} (h : (fanSt s n).st ≠ 5) : fanTripped n thermal s
    = raise fanPg (if thermal then 0xFF else 0x01) kFanOutput n (setIrq fanPg 16 (putFan n (trippedFan (fanSt s n)) (endTachLost n s))) := if_neg h

theorem fanTripped_work (n : Nat) (thermal : Bool) (s : State) : ChannelWork fanOf fanPg n s (fanTripped n thermal s) := by
  by_cases h : (fanSt s n).st = 5
  · rw [fanTripped_idle h]; exact .refl ..
  · rw [fanTripped_eq h]
    exact (((ChannelWork.collect (endTachLost_only n s)).trans (.fan ..)).trans (.collect (setIrq_only ..))).trans (.collect (raise_only ..))

/-- A trip comes from every other state, and is reported (R332). -/
theorem fanTripped_trips {thermal : Bool} (h : (fanSt s n).st ≠ 5) : let u := fanTripped n thermal s
    fanSt u n = trippedFan (fanSt s n) ∧ irq fanPg 16 u = true ∧ Sent fanPg (if thermal then 0xFF else 1) kFanOutput n s u := by
  rw [fanTripped_eq h]
  exact ⟨by rw [fanSt_raise, fanSt_setIrq, fanSt_putFan], by rw [irq_raise, irq_set _ _ (by decide)],
    sent_raise_of_time (endTachLost_only n s).time ..⟩

end

end Sys2Proof.Machine
end

section
namespace Sys2Proof.Machine

/-! ### The command bits of a channel -/

/-- Whether a field beside command bit `n` keeps its bits where the word of the bit is written: it is a command, or it is written by a
change alone (R27, R502). -/
def besideBit (n : Nat) (f : FieldDesc) : Bool :=
  (decide (f.acc = .wo) || decide (f.acc = .rwd ∨ f.acc = .rw) && !f.win) && decide (f.lo ≤ f.hi) && decide (f.hi < n ∨ n < f.lo)

/-- What the row `d` at `off` of page `p` fixes of command bit `n` of channel `u`. -/
def commandBit (p off : Nat) (d : RegDesc) (u n : Nat) : Bool :=
  plainReg p off (fun _ => true) && decide (regAt p off = some d) && decide (regUnit d off = u) && decide (0x100 ≤ off) && !partyReg d
    && decide (n < 32) && decide (d.fields.filter (fun f => decide (f = rfOpU n n .wo 0)) = [rfOpU n n .wo 0])
    && d.fields.all fun f => decide (f = rfOpU n n .wo 0) || besideBit n f

section
variable {party : Party} {p off u n : Nat} {d : RegDesc} {s : State}

theorem commandBit_facts (h : commandBit p off d u n = true) : plainReg p off (fun _ => true) = true ∧ regAt p off = some d
    ∧ regUnit d off = u ∧ ¬ off < 0x100 ∧ partyReg d = false ∧ n < 32
    ∧ d.fields.filter (fun f => decide (f = rfOpU n n .wo 0)) = [rfOpU n n .wo 0]
    ∧ ∀ f ∈ d.fields, f ≠ rfOpU n n .wo 0 → besideBit n f = true := by
  simp only [commandBit, Bool.and_eq_true, decide_eq_true_eq, Bool.not_eq_true', List.all_eq_true, Bool.or_eq_true] at h
  obtain ⟨⟨⟨⟨⟨⟨⟨plain, row⟩, unit⟩, block⟩, paged⟩, small⟩, single⟩, beside⟩ := h
  exact ⟨plain, row, unit, Nat.not_lt.2 block, paged, small, single, fun f hf ne => (beside f hf).resolve_left ne⟩

/-- A write of command bit `n`, with the register's other bits as they stand. -/
def bitCx (party : Party) (p off : Nat) (d : RegDesc) (n : Nat) (s : State) (l : List Hold) : WriteCx :=
  cxOf party p off (bitSet (rdReg s (pageAddr p off)) n) d s l

/-- A field beside the bit is not written (R502). -/
theorem besideBit_rests {f : FieldDesc} {r : Word} (h : besideBit n f = true) (zero : f.acc = .wo → bitsOf r f.hi f.lo = 0) (small : n < 32) :
    writesField (bitSet r n) r f = false := by
  simp only [besideBit, Bool.and_eq_true, Bool.or_eq_true, decide_eq_true_eq, Bool.not_eq_true'] at h
  obtain ⟨⟨acc, order⟩, apart⟩ := h
  have same : bitsOf (bitSet r n) f.hi f.lo = bitsOf r f.hi f.lo := bitsOf_setBits_other _ _ _ _ _ _ (Nat.le_refl _) small apart order
  unfold writesField
  rw [same]
  rcases acc with wo | ⟨rwd | rw, win⟩
  · simp [wo, zero wo]
  · simp [rwd, win]
  · simp [rw, win]

section
variable (bit : commandBit p off d u n = true) (zero : CommandBitsZero p off s) (shown : blockRead party p off s = none) (l : List Hold)
include bit zero shown

/-- Where no command bit is stored, the word of a command bit writes its field alone (R502). -/
theorem bitCx_fields : (bitCx party p off d n s l).fields = [rfOpU n n .wo 0] := by
  obtain ⟨plain, row, -, block, paged, small, single, beside⟩ := commandBit_facts bit
  obtain ⟨-, -, -, -, -, -, range, -⟩ := plainReg_facts plain
  have read : regWord party p off d s = rdReg s (pageAddr p off) := regWord_plain block shown paged
  rw [← single, bitCx, cxOf, cycleCx, writeCx]
  refine List.filter_congr fun f hf => ?_
  have out : rangeWrite (bitSet (rdReg s (pageAddr p off)) n) p off f s = false := by
    simp only [rangeReg, decide_eq_false_iff_not] at range
    rw [rangeWrite, decide_eq_false fun h => range ⟨h.1, h.2.1, h.2.2.1, h.2.2.2.1⟩, Bool.false_and]
  rw [read, out, Bool.or_false]
  by_cases here : f = rfOpU n n .wo 0
  · have set : bitsOf (bitSet (rdReg s (pageAddr p off)) n) n n = 1 := by rw [bitSet_bits _ small, if_pos rfl]
    simp [here, writesField, rfOpU, set]
  · rw [decide_eq_false here, besideBit_rests (beside f hf here) (zero d row f hf) small]

theorem bitCx_has (m : Nat) : cxHas (bitCx party p off d n s l) m = decide (m = n) := by
  rw [cxHas, bitCx_fields bit zero shown]
  simp [rfOpU, eq_comm]

/-- A write of a command bit stores nothing (R502). -/
theorem bitCx_stores (t : State) : storeFields (bitCx party p off d n s l) t = stored (pageAddr p off) t := by
  obtain ⟨-, -, -, -, paged, -⟩ := commandBit_facts bit
  refine storeFields_commands paged ?_ t
  rw [bitCx_fields bit zero shown]
  intro f hf
  rw [List.mem_singleton.1 hf]
  exact ⟨rfl, rfl⟩

/-- A permitted write of a command bit comes to the checks of its page (R31, R33). -/
theorem judgeReg_bit (may : MayWriteUnit party p u true s) :
    judgeReg (bitCx party p off d n s l) (withHolds s l) = blockWrite (bitCx party p off d n s l) (withHolds s l) := by
  obtain ⟨plain, row, unit, block, -⟩ := commandBit_facts bit
  obtain ⟨-, -, -, -, -, -, -, d', row', writable, -⟩ := plainReg_facts plain
  cases row.symm.trans row'
  refine judgeReg_block may.2.1 writable (permitted_written ?_) (.inl ?_) block
  · rw [bitCx_fields bit zero shown]
    intro f hf
    rw [List.mem_singleton.1 hf]
    exact ⟨by rw [← unit] at may; exact may.2.2.1, rfl, by simp [rfOpU]⟩
  · rw [bitCx_fields bit zero shown]
    exact List.cons_ne_nil _ _

end

/-- The bits of a write of a command bit: among the command bits of its register, that one alone is set. -/
theorem bitCx_bits (bit : commandBit p off d u n = true) (zero : CommandBitsZero p off s) (l : List Hold) {m : Nat}
    (command : rfOpU m m .wo 0 ∈ d.fields) : cxBits (bitCx party p off d n s l) m m = if m = n then 1 else 0 := by
  obtain ⟨-, row, -, -, -, small, -⟩ := commandBit_facts bit
  have none : bitsOf (rdReg s (pageAddr p off)) m m = 0 := zero d row _ command rfl
  exact (bitSet_bits _ small).trans (by rw [none])

/-- The command of a permitted write of a command bit, which its page takes with `note` (R26). -/
theorem does_bit {i : Instr} {ps : List Part} {f : State → State} (note : State → State) (awake : Awake s) (bit : commandBit p off d u n = true)
    (may : MayWriteUnit party p u true s) (zero : CommandBitsZero p off s) (shown : blockRead party p off (clearReports s) = none)
    (he : exec i s = .next (finishWrite (reach ps f) s))
    (hf : f (clearReports s) = regWrite party p off (bitSet (rdReg s (pageAddr p off)) n) (clearReports s))
    (hps : Part.pwr ∉ ps ∧ Part.regs ∈ ps ∧ Part.bus ∈ ps) (drv : Part.drv ∈ ps) (regs : ∀ t a, rdReg (note t) a = rdReg t a)
    (taken : ∀ l, blockWrite (bitCx party p off d n (clearReports s) l) (withHolds (clearReports s) l)
      = .ok (note (stored (pageAddr p off) (withHolds (clearReports s) l)))) :
    Does i s fun w => Acked party (pageAddr p off) w ∧ (∃ t, t.drv = s.drv ∧ w.drv = (note t).drv) ∧ RegsBut [] s w := by
  obtain ⟨plain, row, -, block, -⟩ := commandBit_facts bit
  obtain ⟨w, settles, report, t, ⟨l, rfl⟩, kept, same⟩ := does_judged (res := .done) (fact := fun t => ∃ l, t = note (stored (pageAddr p off) (withHolds (clearReports s) l)))
    awake he hf hps drv plain row block may.1 fun l => ⟨_, by
      have judgement := (judgeReg_bit (s := clearReports s) bit zero shown l may).trans (taken l)
      change judged (judgeReg (bitCx party p off d n (clearReports s) l) _) _ = _
      rw [judgement]
      rfl, l, rfl⟩
  exact ⟨w, settles, report, ⟨stored (pageAddr p off) (withHolds (clearReports s) l), rfl, same⟩, fun a ha => ((kept a ha).trans (regs _ a)).trans (rdReg_stored ..)⟩

end

/-! ### The command bits of a fan -/

/-- The row of the fans' control registers (R316, R325, R332). -/
def fanCtrlDesc : RegDesc := ⟨0x100, 0x20, 12, [rfOwner 31 27 .rwd 0x3, rfCfgU 12 12 .rw 0x0, rfOpU 9 9 .wo 0x0, rfOpU 8 8 .wo 0x0,
  rfCfgU 4 4 .rw 0x0, rfOpU 1 0 .rw 0x0]⟩

theorem fanCtrl_bits : ∀ fan : Fin 12, commandBit fanPg (0x100 + 0x20 * fan.val) fanCtrlDesc fan.val 9 = true
    ∧ commandBit fanPg (0x100 + 0x20 * fan.val) fanCtrlDesc fan.val 8 = true := by decide

/-- The clears that a fan has been told (R332). -/
def notedClear (n : Nat) (stall trip : Bool) (s : State) : State :=
  putFan n { fanSt s n with stallClr := (fanSt s n).stallClr || stall, tripClr := (fanSt s n).tripClr || trip } s

section
variable {party : Party} {fan : Fin 12} {n : Nat} {s : State}

theorem fan_shown : blockRead party fanPg (0x100 + 0x20 * fan.val) s = none := by
  have kind : pageKind fanPg = some .fan := rfl
  simp only [blockRead, kind]
  rw [fanRead, if_neg (by omega), if_neg (by omega)]

/-- The FAN page notes the clear that is written (R332). -/
theorem fanWrite_clear (bit : commandBit fanPg (0x100 + 0x20 * fan.val) fanCtrlDesc fan.val n = true) (h : n = 9 ∨ n = 8)
    (zero : CommandBitsZero fanPg (0x100 + 0x20 * fan.val) s) (l : List Hold) (t : State) :
    blockWrite (bitCx party fanPg (0x100 + 0x20 * fan.val) fanCtrlDesc n s l) t
      = .ok (notedClear fan.val (decide (n = 9)) (decide (n = 8)) (stored (pageAddr fanPg (0x100 + 0x20 * fan.val)) t)) := by
  obtain ⟨-, -, unit, -⟩ := commandBit_facts bit
  have has (m : Nat) (hm : m ≠ n) : cxHas (bitCx party fanPg (0x100 + 0x20 * fan.val) fanCtrlDesc n s l) m = false := by
    rw [bitCx_has bit zero fan_shown, decide_eq_false hm]
  have bits (m : Nat) (hm : m = 9 ∨ m = 8) : decide (cxBits (bitCx party fanPg (0x100 + 0x20 * fan.val) fanCtrlDesc n s l) m m = 1) = decide (n = m) := by
    rw [bitCx_bits bit zero l (by rcases hm with rfl | rfl <;> decide)]
    by_cases e : m = n
    · simp [e]
    · simp [e, Ne.symm e]
  have off : (bitCx party fanPg (0x100 + 0x20 * fan.val) fanCtrlDesc n s l).off = 0x100 + 0x20 * fan.val := rfl
  have whose : (bitCx party fanPg (0x100 + 0x20 * fan.val) fanCtrlDesc n s l).unit = fan.val := unit
  rw [blockWrite_fan _ rfl]
  unfold fanWrite
  rw [if_neg (by rw [off]; omega), if_neg (by rw [off]; omega), if_pos (by rw [off]; omega), if_pos (by rw [off]; omega)]
  simp only [has 27 (by omega), has 0 (by omega), has 12 (by omega), bits 9 (.inl rfl), bits 8 (.inr rfl), bitCx_stores bit zero fan_shown l, whose,
    Bool.false_and, Bool.or_self, Bool.false_eq_true, if_false]
  rfl

/-- A fan's clear is noted for the next tick boundary (R332). -/
theorem notedClear_drv {t : State} (h : t.drv = s.drv) (k : Nat) (stall trip : Bool) :
    fanSt (notedClear k stall trip t) k = { fanSt s k with stallClr := (fanSt s k).stallClr || stall, tripClr := (fanSt s k).tripClr || trip }
    ∧ ∀ m, m ≠ k → fanSt (notedClear k stall trip t) m = fanSt s m := by
  refine ⟨by rw [notedClear, fanSt_putFan, fanSt_congr h], fun m hm => ?_⟩
  rw [notedClear, fanSt_putFan_ne _ _ hm.symm, fanSt_congr h]

/-- What a command bit of a fan does. -/
theorem fanClear_does {i : Instr} {f : State → State} (awake : Awake s) (h : n = 9 ∨ n = 8) (may : MayWriteUnit party fanPg fan.val true s)
    (zero : CommandBitsZero fanPg (0x100 + 0x20 * fan.val) s) (he : exec i s = .next (finishWrite (reach [.regs, .win, .bus, .drv] f) s))
    (hf : f (clearReports s) = regWrite party fanPg (0x100 + 0x20 * fan.val) (bitSet (rdReg s (pageAddr fanPg (0x100 + 0x20 * fan.val))) n) (clearReports s)) :
    Does i s fun u => Acked party (pageAddr fanPg (0x100 + 0x20 * fan.val)) u
      ∧ fanSt u fan.val = { fanSt s fan.val with
          stallClr := (fanSt s fan.val).stallClr || decide (n = 9), tripClr := (fanSt s fan.val).tripClr || decide (n = 8) }
      ∧ (∀ k, k ≠ fan.val → fanSt u k = fanSt s k) ∧ RegsBut [] s u := by
  have bit : commandBit fanPg (0x100 + 0x20 * fan.val) fanCtrlDesc fan.val n = true := by
    rcases h with rfl | rfl
    · exact (fanCtrl_bits fan).1
    · exact (fanCtrl_bits fan).2
  obtain ⟨u, settles, report, ⟨t, same, drv⟩, kept⟩ := does_bit (party := party) (notedClear fan.val (decide (n = 9)) (decide (n = 8))) awake bit may zero fan_shown he hf (by decide) (by decide)
    (fun t a => rfl) fun l => fanWrite_clear (s := clearReports s) bit h zero l _
  obtain ⟨own, others⟩ := notedClear_drv same fan.val (decide (n = 9)) (decide (n = 8))
  exact ⟨u, settles, report, (fanSt_congr drv _).trans own, fun k hk => (fanSt_congr drv k).trans (others k hk), kept⟩

end

end Sys2Proof.Machine
end

section
namespace Sys2Proof.Machine

/-! ### The commands of the fans -/

theorem Does.imp {i : Instr} {s : State} {P Q : State → Prop} (h : Does i s P) (imp : ∀ u, P u → Q u) : Does i s Q := by
  obtain ⟨u, settles, holds⟩ := h
  exact ⟨u, settles, imp u holds⟩

/-- What a command does before the collector and the outputs follow, as the state that it completes with. -/
theorem Does.completes {i : Instr} {s : State} {P : State → Prop} (h : Does i s P) :
    ∃ t u, exec i s = .next t ∧ t = keepQueue s (settle u) ∧ t.pending = s.pending ∧ P u := by
  obtain ⟨u, settles, holds⟩ := h
  exact ⟨_, u, settles, rfl, keepQueue_pending .., holds⟩

/-- An operation of one fan: the registers of other pages and the other fans stand as before. -/
abbrev OneFan (n : Nat) (s u : State) : Prop := Outside [fanPg] s u ∧ ∀ k, k ≠ n → fanSt u k = fanSt s k

section
variable (n : Nat) (amp : Nat) (thermal : Bool) (s u : State)

/-- What the end of a kick's window makes of fan `n` (R330). -/
structure KickEnds : Prop where
  idle : (fanSt s n).st ≠ 1 → u = clearReports s
  locks : (fanSt s n).st = 1 → (fanSt s n).due / 125 ≤ s.time.ticks → 3 ≤ (fanSt s n).retry →
    fanSt u n = { fanSt s n with st := 4, out := 0 } ∧ irq fanPg 17 u = true ∧ Sent fanPg 2 kFanStallLockout n s u
  rests : (fanSt s n).st = 1 → (fanSt s n).due / 125 ≤ s.time.ticks → (fanSt s n).retry < 3 →
    fanSt u n = restingFan n { s with time := u.time } ((fanSt s n).retry + 1) { fanSt s n with told := true } ∧ irq fanPg 17 u = true
      ∧ ((fanSt s n).told = false → Sent fanPg 2 kFanStallStart n s u)

/-- What the end of a back-off makes of fan `n` (R329, R330). -/
structure BackoffEnds : Prop where
  idle : (fanSt s n).st ≠ 3 → u = clearReports s
  duty : fanGoverned n u = fanGoverned n s
  waits : (fanSt s n).st = 3 → (fanSt s n).due / 125 ≤ s.time.ticks → fanGoverned n s = 0 → fanSt u n = waitingFan (fanSt s n)
  kicks : (fanSt s n).st = 3 → (fanSt s n).due / 125 ≤ s.time.ticks → 0 < fanGoverned n s →
    let kicked := kickedFan n { s with time := u.time } (waitingFan (fanSt s n))
    fanSt u n = kicked ∨ fanSt u n = runningFan (fanGoverned n s) kicked

/-- What a doubtful tachometer makes of fan `n` (R331). -/
structure DoubtEnds : Prop where
  idle : (fanSt s n).doubt = none → u = clearReports s
  early {t : Nat} : (fanSt s n).doubt = some t → s.time.ticks < t + 8192 → u = clearReports s
  stalls {t : Nat} : (fanSt s n).doubt = some t → t + 8192 ≤ s.time.ticks → fanEvidence n amp s = false →
    fanSt u n = restingFan n { s with time := u.time } 1 { fanSt s n with told := false } ∧ Sent fanPg 2 kFanStall n s u
  loses {t : Nat} : (fanSt s n).doubt = some t → t + 8192 ≤ s.time.ticks → fanEvidence n amp s = true → (fanSt s n).st = 2 →
    fanSt u n = { fanSt s n with st := 6, doubt := some s.time.ticks, steady := false } ∧ irq fanPg 18 u = true ∧ Sent fanPg 2 kFanTachLost n s u
  waits {t : Nat} : (fanSt s n).doubt = some t → t + 8192 ≤ s.time.ticks → fanEvidence n amp s = true → (fanSt s n).st ≠ 2 →
    fanSt u n = { fanSt s n with doubt := some s.time.ticks }

/-- What a trip makes of fan `n` (R332). -/
structure FanTrips : Prop where
  idle : (fanSt s n).st = 5 → u = clearReports s
  trips : (fanSt s n).st ≠ 5 → fanSt u n = trippedFan (fanSt s n) ∧ irq fanPg 16 u = true
    ∧ Sent fanPg (if thermal then 0xFF else 1) kFanOutput n s u

end

section
variable {fan : Fin 12} {period : Option Nat} {amp : Nat} {thermal : Bool} {s : State}

theorem tachEdge_does (awake : Awake s) : Does (.tachEdge fan period) s fun u => OneFan fan.val s u
    ∧ fanSt u fan.val = { fanSt s fan.val with tp := period, edge := usNow s } ∧ RegsBut [] s u := by
  refine (does_channel awake rfl (by decide) (fanTach_work fan.val (clearReports s) period)
    (fact := fun u => fanSt u fan.val = { fanSt s fan.val with tp := period, edge := usNow s } ∧ RegsBut [] s u) ⟨?_, fun a _ => ?_⟩).imp
    fun u ⟨page, others, fact⟩ => ⟨⟨page, others⟩, fact⟩
  · rw [fanSt_reach (by decide), fanTach, fanSt_putFan]
    rfl
  · rw [rdReg_reach_not _ _ _ (by decide), rdReg_clearReports]

theorem kickTimeout_does (awake : Awake s) : Does (.kickTimeout fan) s fun u => OneFan fan.val s u ∧ KickEnds fan.val s u := by
  refine (does_channel awake rfl (by decide) (fanKickTimeout_work fan.val (clearReports s)) (fact := KickEnds fan.val s)
    ⟨fun other => ?_, fun kick due spent => ?_, fun kick due left => ?_⟩).imp fun u ⟨page, others, fact⟩ => ⟨⟨page, others⟩, fact⟩
  · exact reach_self (fanKickTimeout_idle other)
  · obtain ⟨fan, noted, said⟩ := fanKickTimeout_locks (s := clearReports s) kick due spent
    rw [fanSt_reach (by decide), irq_reach (by decide)]
    exact ⟨fan, noted, sent_reach (by decide) said⟩
  · obtain ⟨fan, noted, said⟩ := fanKickTimeout_rests (s := clearReports s) kick due left
    rw [fanSt_reach (by decide), irq_reach (by decide), reach_time _ _ _ (by decide)]
    exact ⟨fan, noted, fun first => sent_reach (by decide) (said first)⟩

theorem tachDoubt_does (awake : Awake s) : Does (.tachDoubt fan amp) s fun u => OneFan fan.val s u ∧ DoubtEnds fan.val amp s u := by
  refine (does_channel awake rfl (by decide) (fanTachDoubt_work fan.val amp (clearReports s)) (fact := DoubtEnds fan.val amp s)
    ⟨fun none => ?_, fun doubt early => ?_, fun doubt due evidence => ?_, fun doubt due evidence runs => ?_, fun doubt due evidence other => ?_⟩).imp
    fun u ⟨page, others, fact⟩ => ⟨⟨page, others⟩, fact⟩
  · exact reach_self (fanTachDoubt_idle none)
  · exact reach_self (fanTachDoubt_early (s := clearReports s) doubt early)
  · rw [fanSt_reach (by decide), show (reach _ _ (clearReports s)).time = s.time from rfl]
    have stalls := fanTachDoubt_stalls (s := clearReports s) doubt due evidence
    obtain ⟨rests, said⟩ := fanStall_rests fan.val (clearReports s)
    exact ⟨by rw [stalls, rests]; rfl, sent_reach (by decide) (by rw [stalls]; exact said)⟩
  · obtain ⟨lost, noted, said⟩ := fanTachDoubt_loses (s := clearReports s) doubt due evidence runs
    rw [fanSt_reach (by decide), irq_reach (by decide)]
    exact ⟨lost, noted, sent_reach (by decide) said⟩
  · rw [fanSt_reach (by decide)]
    exact fanTachDoubt_waits (s := clearReports s) doubt due evidence other

theorem fanTrip_does (awake : Awake s) : Does (.fanTrip fan thermal) s fun u => OneFan fan.val s u ∧ FanTrips fan.val thermal s u := by
  refine (does_channel awake rfl (by decide) (fanTripped_work fan.val thermal (clearReports s)) (fact := FanTrips fan.val thermal s)
    ⟨fun tripped => ?_, fun other => ?_⟩).imp fun u ⟨page, others, fact⟩ => ⟨⟨page, others⟩, fact⟩
  · exact reach_self (fanTripped_idle tripped)
  · obtain ⟨trips, noted, said⟩ := fanTripped_trips (s := clearReports s) (thermal := thermal) other
    rw [fanSt_reach (by decide), irq_reach (by decide)]
    exact ⟨trips, noted, sent_reach (by decide) said⟩

/-- What an operation on the time and the drive alone keeps. -/
theorem reach_time_drv {f : State → State} {s : State} (h : ∃ x d, f s = { s with time := x, drv := d }) : reach [.time, .drv] f s = f s := by
  obtain ⟨x, d, e⟩ := h
  unfold reach
  rw [e]
  rfl

theorem reachUs_due {us : Nat} {s t : State} (h : reachUs us s = some t) : us / 125 ≤ s.time.ticks := by
  by_contra late
  rw [reachUs, if_pos (Nat.not_le.1 late)] at h
  exact absurd h (by simp)

theorem putFan_drv (n : Nat) (x : FanState) {s t : State} (h : ∃ d, t = withDrv s d) : ∃ d, putFan n x t = withDrv s d := by
  obtain ⟨d, rfl⟩ := h
  exact ⟨_, rfl⟩

theorem backoffEnded_drv (n : Nat) (s : State) : ∃ d, backoffEnded n s = withDrv s d := by
  have waits := putFan_drv n (waitingFan (fanSt s n)) ⟨s.drv, show s = withDrv s s.drv from rfl⟩
  obtain off | on := Nat.eq_zero_or_pos (fanGoverned n s)
  · rw [backoffEnded_waits off]
    exact waits
  · rw [backoffEnded_kicks on]
    obtain e | e := fanKick_cases n (fanGoverned n s) (putFan n (waitingFan (fanSt s n)) s)
    · rw [e]; exact putFan_drv n _ waits
    · rw [e]; exact putFan_drv n _ (putFan_drv n _ waits)

theorem reach_fanBackoffEnd (n : Nat) (s : State) : reach [.time, .drv] (fanBackoffEnd n) s = fanBackoffEnd n s := by
  refine reach_time_drv ?_
  by_cases rests : (fanSt s n).st = 3
  · cases reached : reachUs (fanSt s n).due s with
    | none => exact ⟨s.time, s.drv, by rw [fanBackoffEnd, if_pos rests, reached]⟩
    | some v =>
      obtain ⟨x, -, -, rfl⟩ := reachUs_parts reached
      obtain ⟨d, e⟩ := backoffEnded_drv n { s with time := x }
      exact ⟨x, d, (fanBackoffEnd_reached rests reached).trans e⟩
  · exact ⟨s.time, s.drv, fanBackoffEnd_idle rests⟩

/-- The end of a back-off leaves the governed duty. -/
theorem fanGoverned_backoffEnd (n : Nat) (s : State) : fanGoverned n (fanBackoffEnd n s) = fanGoverned n s := by
  by_cases rests : (fanSt s n).st = 3
  · cases reached : reachUs (fanSt s n).due s with
    | none => rw [fanBackoffEnd, if_pos rests, reached]
    | some v =>
      have due : (fanSt s n).due / 125 ≤ s.time.ticks := reachUs_due reached
      obtain off | on := Nat.eq_zero_or_pos (fanGoverned n s)
      · rw [(fanBackoffEnd_waits rests due off).2, off]
      · exact (fanBackoffEnd_kicks rests due on).2
  · rw [fanBackoffEnd_idle rests]

theorem backoffEnd_does (awake : Awake s) : Does (.backoffEnd fan) s fun u => OneFan fan.val s u ∧ BackoffEnds fan.val s u := by
  refine (does_channel awake rfl (by decide) (fanBackoffEnd_work fan.val (clearReports s)) (fact := BackoffEnds fan.val s)
    ⟨fun other => ?_, ?_, fun rests due off => ?_, fun rests due on => ?_⟩).imp fun u ⟨page, others, fact⟩ => ⟨⟨page, others⟩, fact⟩
  · exact reach_self (fanBackoffEnd_idle other)
  · rw [reach_fanBackoffEnd]
    exact fanGoverned_backoffEnd fan.val (clearReports s)
  · rw [reach_fanBackoffEnd]
    exact (fanBackoffEnd_waits (s := clearReports s) rests due off).1
  · rw [reach_fanBackoffEnd]
    exact (fanBackoffEnd_kicks (s := clearReports s) rests due on).1

/-- STALL_CLR is noted for the next boundary (R332). -/
theorem stallClr_does {party : Party} (awake : Awake s) (may : MayWriteUnit party fanPg fan.val true s)
    (zero : CommandBitsZero fanPg (0x100 + 0x20 * fan.val) s) :
    Does (.stallClr party fan) s fun u => OneFan fan.val s u ∧ Acked party (pageAddr fanPg (0x100 + 0x20 * fan.val)) u
      ∧ fanSt u fan.val = { fanSt s fan.val with stallClr := true } ∧ RegsBut [] s u :=
  (fanClear_does (n := 9) awake (.inl rfl) may zero rfl (by rfl)).imp fun u ⟨report, noted, others, kept⟩ =>
    ⟨⟨fun a _ _ => kept a List.not_mem_nil, others⟩, report, by simpa using noted, kept⟩

/-- TRIP_CLR is noted for the next boundary (R332). -/
theorem fanTripClr_does {party : Party} (awake : Awake s) (may : MayWriteUnit party fanPg fan.val true s)
    (zero : CommandBitsZero fanPg (0x100 + 0x20 * fan.val) s) :
    Does (.fanTripClr party fan) s fun u => OneFan fan.val s u ∧ Acked party (pageAddr fanPg (0x100 + 0x20 * fan.val)) u
      ∧ fanSt u fan.val = { fanSt s fan.val with tripClr := true } ∧ RegsBut [] s u :=
  (fanClear_does (n := 8) awake (.inr rfl) may zero rfl (by rfl)).imp fun u ⟨report, noted, others, kept⟩ =>
    ⟨⟨fun a _ _ => kept a List.not_mem_nil, others⟩, report, by simpa using noted, kept⟩

end

end Sys2Proof.Machine

namespace Sys2Proof.Proofs
open Sys2Proof Sys2Proof.Machine

/-- Settles O32: each command is an operation on its fan alone, of which the cases are those of the statement. -/
theorem fansFollowTheirEvents : Obligations.Fans_Follow_Their_Events := by
  unfold Obligations.Fans_Follow_Their_Events
  intro party fan period amp thermal s awake n x idle reached does said a
  refine ⟨?_, ?_, ?_, ?_, ?_, fun may zero => ⟨?_, ?_⟩⟩
  · exact (tachEdge_does awake).imp fun u ⟨⟨page, others⟩, edge⟩ => ⟨page, others, edge⟩
  · refine (kickTimeout_does awake).imp fun u ⟨⟨page, others⟩, kick⟩ =>
      ⟨page, others, kick.idle, fun st due spent => ?_, fun st due left => ?_⟩
    · obtain ⟨fan, -, told⟩ := kick.locks st due spent
      exact ⟨by rw [fan], by rw [fan], told⟩
    · obtain ⟨fan, -, told⟩ := kick.rests st due left
      exact ⟨by rw [fan]; rfl, by rw [fan]; rfl, by rw [fan]; exact Nat.add_sub_cancel .., told⟩
  · refine (backoffEnd_does awake).imp fun u ⟨⟨page, others⟩, ends⟩ => ⟨page, others, ends.idle, fun st due => ?_⟩
    obtain off | on := Nat.eq_zero_or_pos (fanGoverned n s)
    · exact .inl (by rw [ends.waits st due off]; exact ⟨rfl, rfl⟩)
    · obtain e | e := ends.kicks st due on
      · exact .inr (.inl (by rw [e]; exact ⟨rfl, rfl, rfl, rfl⟩))
      · exact .inr (.inr (by rw [e]; exact ⟨rfl, rfl, rfl⟩))
  · refine (tachDoubt_does awake).imp fun u ⟨⟨page, others⟩, doubt⟩ =>
      ⟨page, others, doubt.idle, fun t st => ⟨doubt.early st, fun due none => ?_, fun due some runs => ?_, doubt.waits st⟩⟩
    · obtain ⟨fan, told⟩ := doubt.stalls st due none
      exact ⟨by rw [fan]; rfl, by rw [fan]; rfl, told⟩
    · obtain ⟨fan, -, told⟩ := doubt.loses st due some runs
      exact ⟨by rw [fan], told⟩
  · refine (fanTrip_does awake).imp fun u ⟨⟨page, others⟩, trip⟩ => ⟨page, others, trip.idle, fun st => ?_⟩
    obtain ⟨fan, noted, told⟩ := trip.trips st
    exact ⟨by rw [fan]; rfl, by rw [fan]; rfl, noted, told⟩
  · exact (stallClr_does awake may zero).imp fun u ⟨⟨page, others⟩, fact⟩ => ⟨page, others, fact⟩
  · exact (fanTripClr_does awake may zero).imp fun u ⟨⟨page, others⟩, fact⟩ => ⟨page, others, fact⟩

/-- Settles O60: where a fan's command acts, its completed state is that of the same case. -/
theorem fanCommandsCompleteWhereTheyAct : Obligations.Fan_Commands_Complete_Where_They_Act := by
  unfold Obligations.Fan_Commands_Complete_Where_They_Act
  intro party fan period amp thermal s awake n x reached a completes backoff
  refine ⟨?_, fun st due left => ?_, fun st due spent => ?_, fun st due => ?_, fun t st due none => ?_, fun t st due some runs => ?_, fun st => ?_,
    fun may zero => ⟨?_, ?_⟩⟩
  · refine ((tachEdge_does awake).imp fun u ⟨_, fan, _⟩ => ?_).completes
    rw [fan]
    exact ⟨rfl, rfl, rfl, rfl⟩
  · refine ((kickTimeout_does awake).imp fun u ⟨_, kick⟩ => ?_).completes
    obtain ⟨fan, noted, -⟩ := kick.rests st due left
    rw [fan]
    exact ⟨⟨rfl, rfl, rfl, rfl⟩, rfl, noted⟩
  · refine ((kickTimeout_does awake).imp fun u ⟨_, kick⟩ => ?_).completes
    obtain ⟨fan, noted, told⟩ := kick.locks st due spent
    rw [fan]
    exact ⟨rfl, rfl, noted, told⟩
  · refine ((backoffEnd_does awake).imp fun u ⟨_, ends⟩ => ⟨fun off => ?_, fun on => ?_⟩).completes
    · rw [ends.waits st due (ends.duty ▸ off)]
      exact ⟨rfl, rfl, rfl⟩
    · obtain e | e := ends.kicks st due (ends.duty ▸ on)
      · rw [e]
        exact ⟨rfl, .inl ⟨rfl, rfl, rfl, rfl⟩⟩
      · rw [e, ends.duty]
        exact ⟨rfl, .inr ⟨rfl, rfl, rfl⟩⟩
  · refine ((tachDoubt_does awake).imp fun u ⟨_, doubt⟩ => ?_).completes
    obtain ⟨fan, told⟩ := doubt.stalls st due none
    rw [fan]
    exact ⟨⟨rfl, rfl, rfl, rfl⟩, told⟩
  · refine ((tachDoubt_does awake).imp fun u ⟨_, doubt⟩ => ?_).completes
    obtain ⟨fan, noted, told⟩ := doubt.loses st due some runs
    rw [fan]
    exact ⟨rfl, rfl, noted, told⟩
  · refine ((fanTrip_does awake).imp fun u ⟨_, trip⟩ => ?_).completes
    obtain ⟨fan, noted, told⟩ := trip.trips st
    rw [fan]
    exact ⟨rfl, rfl, noted, told⟩
  · exact ((stallClr_does awake may zero).imp fun u ⟨_, report, noted, _⟩ => ⟨report, noted⟩).completes
  · exact ((fanTripClr_does awake may zero).imp fun u ⟨_, report, noted, _⟩ => ⟨report, noted⟩).completes

end Sys2Proof.Proofs
end

section
/-!
PROOFS. The digital inputs and the counters (R334 to R336). A change of an input writes bits of the DIN page's state registers; each bit is
read back by the input's number.
-/
namespace Sys2Proof.Machine

/-! ### The state registers of the inputs -/

/-- A bit just put is read back. -/
theorem bitAt_putBit (n i : Nat) (b : Bool) : bitAt (putBit n i b) i = b := by
  have pos : 0 < 2 ^ i := Nat.two_pow_pos i
  unfold putBit
  by_cases set : bitAt n i = true
  · rw [if_pos set]
    cases b with
    | true => exact set
    | false =>
      have odd : n / 2 ^ i % 2 = 1 := by simpa [bitAt, Nat.shiftRight_eq_div_pow] using set
      have below : (n - 2 ^ i) / 2 ^ i = n / 2 ^ i - 1 := by simpa using Nat.sub_mul_div n (2 ^ i) 1
      simp only [Bool.false_eq_true, if_false, bitAt, Nat.shiftRight_eq_div_pow, decide_eq_false_iff_not]
      omega
  · rw [if_neg set]
    cases b with
    | true =>
      have even : n / 2 ^ i % 2 ≠ 1 := by simpa [bitAt, Nat.shiftRight_eq_div_pow] using set
      have above : (n + 2 ^ i) / 2 ^ i = n / 2 ^ i + 1 := Nat.add_div_right n pos
      simp only [if_true, bitAt, Nat.shiftRight_eq_div_pow, decide_eq_true_eq]
      omega
    | false => simpa using set

/-- A register's word keeps its 32 bits. -/
theorem bitAt_ofN (n : Nat) {i : Nat} (hi : i < 32) : bitAt (ofN n).toNat i = bitAt n i := by
  have test (m : Nat) : bitAt m i = m.testBit i := Nat.decide_shiftRight_mod_two_eq_one
  rw [test, test, ofN, BitVec.toNat_ofNat, Nat.testBit_mod_two_pow]
  simp [hi]

/-- Bit `j` of a state register of the DIN page is put. -/
def inputBit (off j : Nat) (b : Bool) (s : State) : State :=
  wrReg s (pageAddr dinPg off) (ofN (putBit (rdReg s (pageAddr dinPg off)).toNat j b))

/-- Bit `j` of a state register of the DIN page. -/
abbrev inputAt (off j : Nat) (s : State) : Bool := bitAt (rdReg s (pageAddr dinPg off)).toNat j

theorem inputAt_inputBit (off : Nat) {j : Nat} (hj : j < 32) (b : Bool) (s : State) : inputAt off j (inputBit off j b s) = b := by
  rw [inputAt, inputBit, rdReg_wrReg, bitAt_ofN _ hj, bitAt_putBit]

theorem rdReg_inputBit {off a : Nat} (h : pageAddr dinPg off ≠ a) (j : Nat) (b : Bool) (s : State) : rdReg (inputBit off j b s) a = rdReg s a :=
  rdReg_wrReg_ne _ _ h

theorem inputAt_inputBit_ne {off o : Nat} (h : off ≠ o) (j k : Nat) (b : Bool) (s : State) : inputAt o k (inputBit off j b s) = inputAt o k s := by
  rw [inputAt, rdReg_inputBit (by unfold pageAddr; omega)]

/-- The debounce windows as the drive holds them. -/
abbrev debOf (d : DrvState) (j : Nat) : Nat := tabGet (fun _ => (0 : Nat)) d.debs j

theorem debEnd_congr {s t : State} (h : t.drv = s.drv) (j : Nat) : debEnd t j = debEnd s j := by rw [debEnd, debEnd, h]

@[simp] theorem debEnd_putDeb (j t : Nat) (s : State) : debEnd (putDeb j t s) j = t := by simp [debEnd, putDeb]

theorem ChannelWork.deb (j t : Nat) (s : State) : ChannelWork debOf dinPg j s (putDeb j t s) :=
  ⟨fun _ _ _ => rfl, fun _ hk => by simp [debOf, putDeb, tabGet_set_ne _ _ _ hk.symm]⟩

theorem ChannelWork.input {off : Nat} (ho : off < 0x400) (j : Nat) (b : Bool) (k : Nat) (s : State) :
    ChannelWork debOf dinPg k s (inputBit off j b s) :=
  ⟨fun a _ ha => rdReg_inputBit (fun e => ha (by rw [← e]; unfold pageAddr; omega)) j b s, fun _ _ => rfl⟩

theorem ChannelWork.noted {α : Type} {chan : DrvState → Nat → α} {p k : Nat} (a n : Nat) (s : State) : ChannelWork chan p k s (noteBit a n s) :=
  .of_parts rfl rfl

/-! ### The filtered state of an input -/

section
variable {j : Nat} {v : Bool} {s t : State}

theorem dinTake_same (h : dinState j s = v) : dinTake j v s = s := if_pos h

theorem dinTake_changes (h : dinState j s ≠ v) : dinTake j v s
    = noteBit (pageAddr dinPg (if v then 0x198 else 0x19C)) j (inputBit (if v then 0x198 else 0x19C) j true (inputBit 0x190 j v s)) := if_neg h

/-- RISE or FALL of an input. -/
theorem edgeOff_facts (v : Bool) : (if v then 0x198 else 0x19C) < 0x400 ∧ (if v then 0x198 else 0x19C) ≠ 0x190 ∧ (if v then 0x198 else 0x19C) ≠ 0x194 := by
  cases v <;> decide

theorem dinTake_work (j : Nat) (v : Bool) (k : Nat) (s : State) : ChannelWork debOf dinPg k s (dinTake j v s) := by
  by_cases same : dinState j s = v
  · rw [dinTake_same same]; exact .refl ..
  · rw [dinTake_changes same]
    exact ((ChannelWork.input (by decide) ..).trans (.input (edgeOff_facts v).1 ..)).trans (.noted ..)

theorem dinTake_parts (j : Nat) (v : Bool) (s : State) : (dinTake j v s).drv = s.drv ∧ (dinTake j v s).time = s.time ∧ (dinTake j v s).force = s.force := by
  by_cases same : dinState j s = v
  · rw [dinTake_same same]; exact ⟨rfl, rfl, rfl⟩
  · rw [dinTake_changes same]; exact ⟨rfl, rfl, rfl⟩

/-- The input shows the level taken over (R335). -/
theorem dinState_dinTake (hj : j < 32) (v : Bool) (s : State) : dinState j (dinTake j v s) = v := by
  by_cases same : dinState j s = v
  · rw [dinTake_same same]; exact same
  · rw [dinTake_changes same]
    exact (inputAt_inputBit_ne (edgeOff_facts v).2.1 ..).trans (inputAt_inputBit _ hj v s)

theorem dinRaw_dinTake (j : Nat) (v : Bool) (s : State) : dinRaw j (dinTake j v s) = dinRaw j s := by
  by_cases same : dinState j s = v
  · rw [dinTake_same same]
  · rw [dinTake_changes same]
    exact (inputAt_inputBit_ne (edgeOff_facts v).2.2 ..).trans (inputAt_inputBit_ne (by decide) ..)

theorem running_dinTake (j : Nat) (v : Bool) (s : State) : running dinPg (dinTake j v s) = running dinPg s := by
  have reg : rdReg (dinTake j v s) (fldAddr CMN.STAT_RUNNING dinPg 0) = rdReg s (fldAddr CMN.STAT_RUNNING dinPg 0) := by
    by_cases same : dinState j s = v
    · rw [dinTake_same same]
    · rw [dinTake_changes same, rdReg_noteBit, rdReg_inputBit (by cases v <;> decide), rdReg_inputBit (by decide)]
  exact congrArg (decide <| · ≠ 0) (getW_congr reg)

/-! ### Changes of the raw level -/

/-- A debounce window that the instant has reached takes its level over before the change (R335). -/
def lateTaken (j : Nat) (s : State) : State :=
  if 0 < debEnd s j ∧ debEnd s j ≤ usNow s then dinTake j (dinRaw j s) (putDeb j 0 s) else s

/-- What the new raw level `v` of an input does: it is taken over at once or opens a debounce window (R335). -/
def rawTaken (j : Nat) (v : Bool) (s : State) : State :=
  if !running dinPg s then s
  else if getF DIN.IN_CFG_DEB dinPg j s = 0 then dinTake j v (putDeb j 0 s)
  else putDeb j (usNow s + getF DIN.IN_CFG_DEB dinPg j s) s

theorem dinRawChange_same (h : dinRaw j s = v) : dinRawChange j v s = s := if_pos h

theorem dinRawChange_changes (h : dinRaw j s ≠ v) : dinRawChange j v s = rawTaken j v (inputBit 0x194 j v (lateTaken j s)) := if_neg h

theorem lateTaken_work (j : Nat) (s : State) : ChannelWork debOf dinPg j s (lateTaken j s) :=
  .ite ((ChannelWork.deb ..).trans (dinTake_work ..))

theorem lateTaken_keeps (j : Nat) (s : State) : (lateTaken j s).time = s.time ∧ (lateTaken j s).force = s.force
    ∧ running dinPg (lateTaken j s) = running dinPg s := by
  unfold lateTaken
  split
  · obtain ⟨-, time, force⟩ := dinTake_parts j (dinRaw j s) (putDeb j 0 s)
    exact ⟨time, force, running_dinTake ..⟩
  · exact ⟨rfl, rfl, rfl⟩

theorem rawTaken_work (j : Nat) (v : Bool) (s : State) : ChannelWork debOf dinPg j s (rawTaken j v s) := by
  unfold rawTaken
  split
  · exact .refl ..
  · split
    · exact (ChannelWork.deb ..).trans (dinTake_work ..)
    · exact .deb ..

theorem dinRaw_rawTaken (j : Nat) (v : Bool) (s : State) : dinRaw j (rawTaken j v s) = dinRaw j s := by
  unfold rawTaken
  split
  · rfl
  · split
    · exact dinRaw_dinTake ..
    · rfl

theorem dinRawChange_work (j : Nat) (v : Bool) (s : State) : ChannelWork debOf dinPg j s (dinRawChange j v s) := by
  by_cases same : dinRaw j s = v
  · rw [dinRawChange_same same]; exact .refl ..
  · rw [dinRawChange_changes same]
    exact ((lateTaken_work j s).trans (.input (by decide) ..)).trans (rawTaken_work ..)

/-- A raw change shows at once (R334). -/
theorem dinRaw_dinRawChange (hj : j < 32) (v : Bool) (s : State) : dinRaw j (dinRawChange j v s) = v := by
  by_cases same : dinRaw j s = v
  · rw [dinRawChange_same same, same]
  · rw [dinRawChange_changes same, dinRaw_rawTaken]
    exact inputAt_inputBit _ hj v _

/-- A raw change of an input of a running page is taken over at once without a debounce time, and else starts its window (R335). -/
theorem dinRawChange_takes (hj : j < 32) (change : dinRaw j s ≠ v) (runs : running dinPg s = true) :
    (getF DIN.IN_CFG_DEB dinPg j s = 0 → dinState j (dinRawChange j v s) = v)
    ∧ (getF DIN.IN_CFG_DEB dinPg j s ≠ 0 → debEnd (dinRawChange j v s) j = usNow s + getF DIN.IN_CFG_DEB dinPg j s) := by
  obtain ⟨time, force, run⟩ := lateTaken_keeps j s
  have deb : getF DIN.IN_CFG_DEB dinPg j (inputBit 0x194 j v (lateTaken j s)) = getF DIN.IN_CFG_DEB dinPg j s :=
    getF_congr_force (f := DIN.IN_CFG_DEB) rfl force ..
  have runs' : running dinPg (inputBit 0x194 j v (lateTaken j s)) = true := by
    rw [← runs, ← run]
    exact congrArg (decide <| · ≠ 0) (getW_congr (rdReg_inputBit (by decide) ..))
  have now : usNow (inputBit 0x194 j v (lateTaken j s)) = usNow s := usNow_congr time
  rw [dinRawChange_changes change, rawTaken, runs', deb, now]
  refine ⟨fun none => ?_, fun some => ?_⟩
  · rw [if_pos none]
    exact dinState_dinTake hj v _
  · rw [if_neg some]
    exact debEnd_putDeb ..

/-! ### The end of a debounce window -/

theorem dinDebounceEnd_idle (h : debEnd s j = 0 ∨ running dinPg s = false) : dinDebounceEnd j s = s := if_pos h

theorem dinDebounceEnd_reached (waits : debEnd s j ≠ 0) (runs : running dinPg s = true) (reached : reachUs (debEnd s j) s = some t) :
    dinDebounceEnd j s = dinTake j (dinRaw j t) (putDeb j 0 t) := by
  rw [dinDebounceEnd, if_neg (by simp [waits, runs]), reached]

theorem dinDebounceEnd_work (j : Nat) (s : State) : ChannelWork debOf dinPg j s (dinDebounceEnd j s) := by
  by_cases h : debEnd s j = 0 ∨ running dinPg s = false
  · rw [dinDebounceEnd_idle h]; exact .refl ..
  · cases reached : reachUs (debEnd s j) s with
    | none => rw [dinDebounceEnd, if_neg h, reached]; exact .refl ..
    | some t =>
      rw [not_or, Bool.not_eq_false] at h
      rw [dinDebounceEnd_reached h.1 h.2 reached]
      exact ((reachUs_work reached).trans (.deb ..)).trans (dinTake_work ..)

/-- The end of a debounce window takes the raw level over (R335). -/
theorem dinDebounceEnd_takes (hj : j < 32) (waits : debEnd s j ≠ 0) (runs : running dinPg s = true) (due : debEnd s j / 125 ≤ s.time.ticks) :
    dinState j (dinDebounceEnd j s) = dinRaw j s ∧ debEnd (dinDebounceEnd j s) j = 0 := by
  obtain ⟨t, reached⟩ := reachUs_isSome due
  have raw : dinRaw j t = dinRaw j s := by rw [dinRaw, dinRaw, rdReg, rdReg, reachUs_regs reached]
  rw [dinDebounceEnd_reached waits runs reached, raw]
  exact ⟨dinState_dinTake hj .., (debEnd_congr (dinTake_parts ..).1 j).trans (debEnd_putDeb ..)⟩

/-! ### Counters -/

/-- Whether a counter counts the edge that its filtered level takes (R336). -/
def countsEdge (c : Nat) (rising : Bool) (s : State) : Prop :=
  running dinPg s = true ∧ (getF DIN.CNT_CFG_EDGE dinPg c s = 2 ∨ getF DIN.CNT_CFG_EDGE dinPg c s = 0 ∧ rising = true
    ∨ getF DIN.CNT_CFG_EDGE dinPg c s = 1 ∧ rising = false)

variable {c held : Nat} {rising : Bool}

theorem counterEdge_idle (h : ¬ (getF DIN.CNT_CFG_CFILT dinPg c s ≤ held ∧ (cntSt s c).level ≠ rising)) : counterEdge c rising held s = s := if_neg h

theorem cntSt_putCnt (c : Nat) (x : CntState) (s : State) : cntSt (putCnt c x s) c = x := by simp [cntSt, putCnt]

/-- The filtered level moves, and the counter counts the edges that it is to count (R336). -/
theorem counterEdge_counts (h : getF DIN.CNT_CFG_CFILT dinPg c s ≤ held ∧ (cntSt s c).level ≠ rising) : let x := cntSt (counterEdge c rising held s) c
    x.level = rising ∧ (countsEdge c rising s → x.count = ((cntSt s c).count + 1) % 2 ^ 32) ∧ (¬ countsEdge c rising s → x.count = (cntSt s c).count) := by
  have counts : (running dinPg s && (decide (getF DIN.CNT_CFG_EDGE dinPg c s = 2) || (decide (getF DIN.CNT_CFG_EDGE dinPg c s = 0) && rising)
      || (decide (getF DIN.CNT_CFG_EDGE dinPg c s = 1) && !rising))) = true ↔ countsEdge c rising s := by
    simp [countsEdge, or_assoc]
  rw [counterEdge, if_pos h]
  refine ⟨by rw [cntSt_putCnt], fun yes => ?_, fun no => ?_⟩
  · rw [cntSt_putCnt, if_pos (counts.2 yes)]
    rfl
  · rw [cntSt_putCnt, if_neg fun e => no (counts.1 e)]

theorem counterEdge_others {k : Nat} (h : k ≠ c) : cntSt (counterEdge c rising held s) k = cntSt s k := by
  unfold counterEdge
  extract_lets x
  split
  · simp [cntSt, putCnt, tabGet_set_ne _ _ _ h.symm]
  · rfl

/-- The gate of a counter's rate opens in the present tick (R336). -/
def gateOpens (c : Nat) (s : State) : Prop := s.time.tick % 2 ^ getF DIN.CNT_CFG_GATE dinPg c s = 0 ∧ running dinPg s = true

theorem counterRate_idle (h : ¬ gateOpens c s) : counterRate c s = s := if_neg h

theorem getPub_putPub (k : Nat) (p : Pub) (s : State) : getPub k (putPub k p s) = p := by simp [getPub, putPub]

/-- A rate whose word was lost on the bridge goes stale (R48, R336). -/
theorem counterRate_misses (opens : gateOpens c s) (lost : (cntSt s c).rateLost = true) :
    getPub (rateSrc c) (counterRate c s) = { getPub (rateSrc c) s with stale := true } := by
  unfold counterRate
  extract_lets gate x d
  rw [if_pos (show s.time.tick % 2 ^ gate = 0 ∧ running dinPg s = true from opens), if_pos lost]
  exact getPub_putPub ..

/-- The rate of a counter at its gate, in Q16.16 per second (R336). -/
def gateRate (c : Nat) (s : State) : Word :=
  ofI (sat32 (divAway ((((cntSt s c).gate1 + 4294967296 - (cntSt s c).gate0) % 4294967296 * 8000 * 65536 : Nat) : Int)
    ((cntSt s c).span.getD (2 ^ getF DIN.CNT_CFG_GATE dinPg c s)))).1

theorem counterRate_publishes (opens : gateOpens c s) (kept : (cntSt s c).rateLost = false) :
    getPub (rateSrc c) (counterRate c s) = ⟨gateRate c s, some s.time.tick, false, 0⟩ := by
  unfold counterRate
  extract_lets gate x d
  rw [if_pos (show s.time.tick % 2 ^ gate = 0 ∧ running dinPg s = true from opens), if_neg (by rw [show x.rateLost = false from kept]; decide)]
  exact getPub_putPub ..

end

/-! ### The commands of the inputs and counters -/

section
variable {input : Fin 32} {counter : Fin 8} {level rising : Bool} {held : Nat} {s : State}

theorem dinState_reach {ps : List Part} {f : State → State} (h : Part.regs ∈ ps) (j : Nat) (s : State) : dinState j (reach ps f s) = dinState j (f s) := by
  rw [dinState, dinState, rdReg_reach _ _ _ h]

theorem dinRaw_reach {ps : List Part} {f : State → State} (h : Part.regs ∈ ps) (j : Nat) (s : State) : dinRaw j (reach ps f s) = dinRaw j (f s) := by
  rw [dinRaw, dinRaw, rdReg_reach _ _ _ h]

theorem debEnd_reach {ps : List Part} {f : State → State} (h : Part.drv ∈ ps) (j : Nat) (s : State) : debEnd (reach ps f s) j = debEnd (f s) j :=
  debEnd_congr (reach_drv _ _ _ h) j

/-- An input whose pin has taken a level (R334). -/
def pinned (j : Nat) (level : Bool) (s : State) : State := { s with drv := { s.drv with pins := putBit s.drv.pins j level } }

theorem dinChange_eq (j : Nat) (level : Bool) (s : State) :
    dinChange j level s = dinRawChange j (level != getB DIN.IN_CFG_INV dinPg j s) (pinned j level s) := rfl

theorem dinChange_work (j : Nat) (level : Bool) (s : State) : ChannelWork debOf dinPg j s (dinChange j level s) :=
  ChannelWork.trans (t := pinned j level s) ⟨fun _ _ _ => rfl, fun _ _ => rfl⟩ (dinRawChange_work ..)

theorem diChange_does (awake : Awake s) : Does (.diChange input level) s fun u => let v := level != getB DIN.IN_CFG_INV dinPg input.val s
    let deb := getF DIN.IN_CFG_DEB dinPg input.val s
    Outside [dinPg] s u ∧ dinRaw input.val u = v ∧ (dinRaw input.val s ≠ v → running dinPg s = true →
      (deb = 0 → dinState input.val u = v) ∧ (deb ≠ 0 → debEnd u input.val = usNow s + deb)) := by
  refine (does_channel awake rfl (by decide) (dinChange_work input.val level (clearReports s))
    (fact := fun u => dinRaw input.val u = (level != getB DIN.IN_CFG_INV dinPg input.val s)
      ∧ (dinRaw input.val s ≠ (level != getB DIN.IN_CFG_INV dinPg input.val s) → running dinPg s = true →
        (getF DIN.IN_CFG_DEB dinPg input.val s = 0 → dinState input.val u = (level != getB DIN.IN_CFG_INV dinPg input.val s))
        ∧ (getF DIN.IN_CFG_DEB dinPg input.val s ≠ 0 → debEnd u input.val = usNow s + getF DIN.IN_CFG_DEB dinPg input.val s)))
    ⟨?_, fun change runs => ?_⟩).imp fun u ⟨page, _, fact⟩ => ⟨page, fact⟩
  · rw [dinRaw_reach (by decide), dinChange_eq]
    exact dinRaw_dinRawChange input.isLt ..
  · rw [dinState_reach (by decide), debEnd_reach (by decide), dinChange_eq]
    exact dinRawChange_takes (s := pinned input.val level (clearReports s)) input.isLt change runs

theorem debounceEnd_does (awake : Awake s) : Does (.debounceEnd input) s fun u => Outside [dinPg] s u
    ∧ (debEnd s input.val = 0 ∨ running dinPg s = false → u = clearReports s)
    ∧ (debEnd s input.val ≠ 0 → running dinPg s = true → debEnd s input.val / 125 ≤ s.time.ticks →
      dinState input.val u = dinRaw input.val s ∧ debEnd u input.val = 0) := by
  refine (does_channel awake rfl (by decide) (dinDebounceEnd_work input.val (clearReports s))
    (fact := fun u => (debEnd s input.val = 0 ∨ running dinPg s = false → u = clearReports s)
      ∧ (debEnd s input.val ≠ 0 → running dinPg s = true → debEnd s input.val / 125 ≤ s.time.ticks →
        dinState input.val u = dinRaw input.val s ∧ debEnd u input.val = 0))
    ⟨fun idle => reach_self (dinDebounceEnd_idle idle), fun waits runs due => ?_⟩).imp fun u ⟨page, _, fact⟩ => ⟨page, fact⟩
  rw [dinState_reach (by decide), debEnd_reach (by decide)]
  exact dinDebounceEnd_takes (s := clearReports s) input.isLt waits runs due

theorem counterEdge_does (awake : Awake s) : Does (.counterEdge counter rising held) s fun u =>
    u = reach [.drv] (counterEdge counter.val rising held) (clearReports s) := ⟨_, settles_finish awake rfl, rfl⟩

theorem diRateGate_does (awake : Awake s) : Does (.diRateGate counter) s fun u => u = reach [.pubs] (counterRate counter.val) (clearReports s) :=
  ⟨_, settles_finish awake rfl, rfl⟩

end

end Sys2Proof.Machine

namespace Sys2Proof.Proofs
open Sys2Proof Sys2Proof.Machine

/-- Settles O33: an input's change and the end of its window write its own bits and window; a counter's edge and gate, its counter and
its rate. -/
theorem inputsAndCountersFollowTheirLevels : Obligations.Inputs_And_Counters_Follow_Their_Levels := by
  unfold Obligations.Inputs_And_Counters_Follow_Their_Levels
  intro input counter level rising held s awake j v deb c x e edge counts gate opens
  refine ⟨diChange_does awake, debounceEnd_does awake, (counterEdge_does awake).imp fun u h => ?_, (diRateGate_does awake).imp fun u h => ?_⟩
  · have same (k : Nat) : cntSt u k = cntSt (counterEdge c rising held (clearReports s)) k := by rw [h]; rfl
    refine ⟨fun a _ => ?_, fun idle => ?_, fun k other => ?_, fun taken => ?_⟩
    · rw [h, rdReg_reach_not _ _ _ (by decide), rdReg_clearReports]
    · rw [h]; exact reach_self (counterEdge_idle idle)
    · rw [same]; exact counterEdge_others (s := clearReports s) other
    · rw [same]; exact counterEdge_counts (s := clearReports s) taken
  · have same : getPub (rateSrc c) u = getPub (rateSrc c) (counterRate c (clearReports s)) := by rw [h]; rfl
    refine ⟨fun a _ => ?_, fun idle => ?_, fun opened lost => ?_, fun opened kept => ?_⟩
    · rw [h, rdReg_reach_not _ _ _ (by decide), rdReg_clearReports]
    · rw [h]; exact reach_self (counterRate_idle idle)
    · rw [same]; exact counterRate_misses (s := clearReports s) opened lost
    · rw [same]; exact counterRate_publishes (s := clearReports s) opened kept

end Sys2Proof.Proofs
end

section
/-!
PROOFS. The digital and analog outputs (R337 to R341): their periods, trips and readbacks.
-/
namespace Sys2Proof.Machine

/-! ### What an operation on an output leaves -/

theorem beginEp_only (p inst kind addr : Nat) (s : State) : CollectOnly s (beginEp p inst kind addr s) := by
  unfold beginEp
  split
  · exact .refl s
  · exact raise_only ..

theorem ChannelWork.phase {α : Type} {chan : DrvState → Nat → α} {p k : Nat} (ph cy : Nat) (s : State) : ChannelWork chan p k s (atPhase ph cy s) :=
  .of_parts (atPhase_regs ..) (atPhase_drv ..)

section
variable {p j : Nat} {s : State}

theorem doSt_atPhase (ph cy : Nat) (j : Nat) (s : State) : doSt (atPhase ph cy s) j = doSt s j := doSt_congr (atPhase_drv ..) j

/-- A driven output takes what is demanded of it and keeps all else (R320). -/
theorem doSt_doDrive (j : Nat) (s : State) : doSt (doDrive j s) j = { doSt s j with out := doDemanded j s } := by
  unfold doDrive
  split
  · next same => rw [← same]
  · rw [doSt_putDo]

theorem doDrive_work (j : Nat) (s : State) : ChannelWork doOf p j s (doDrive j s) := by
  unfold doDrive
  split
  · exact .refl ..
  · exact .dou ..

theorem doDrive_flt (j : Nat) (s : State) : (doDrive j s).flt = s.flt := by
  unfold doDrive
  split <;> rfl

theorem doDrive_time (j : Nat) (s : State) : (doDrive j s).time = s.time := by
  unfold doDrive
  split <;> rfl

/-! ### Time-proportioning periods -/

/-- Whether a period of output `j` starts (R337). -/
def periodStarts (j : Nat) (s : State) : Prop := (doSt s j).mode = 2 ∧ running douPg s = true ∧ (doSt s j).next ≤ s.time.ticks

/-- The ON time of a period, in whole ticks with ties up (R337). -/
def periodOnT (j : Nat) (s : State) : Nat := (2 * ((doSt s j).lpin.toInt.toNat * getF DOU.CH_CTRL_TPER douPg j s) + 6553600) / 13107200

/-- An output whose period starts (R337). -/
def periodStarted (j : Nat) (s : State) : DoState :=
  { doSt s j with
    start := s.time.ticks, per := getF DOU.CH_CTRL_TPER douPg j s, onT := periodOnT j s
    next := s.time.ticks + getF DOU.CH_CTRL_TPER douPg j s, tpOn := decide (0 < periodOnT j s) }

theorem doPeriodStart_idle (h : ¬ periodStarts j s) : doPeriodStart j s = s := if_neg h

theorem doPeriodStart_starts (h : periodStarts j s) : doPeriodStart j s = doDrive j (putDo j (periodStarted j s) (atPhase 40 0 s)) := by
  refine (if_pos h).trans ?_
  simp only [atPhase_ticks, getF_atPhase]
  rfl

theorem doPeriodStart_work (j : Nat) (s : State) : ChannelWork doOf p j s (doPeriodStart j s) := by
  by_cases h : periodStarts j s
  · rw [doPeriodStart_starts h]
    exact ((ChannelWork.phase ..).trans (.dou ..)).trans (doDrive_work ..)
  · rw [doPeriodStart_idle h]; exact .refl ..

theorem doSt_doPeriodStart (h : periodStarts j s) : ∃ b, doSt (doPeriodStart j s) j = { periodStarted j s with out := b } := by
  rw [doPeriodStart_starts h, doSt_doDrive, doSt_putDo]
  exact ⟨_, rfl⟩

/-- Whether the ON time of output `j` ends (R337). -/
def onTimeEnds (j : Nat) (s : State) : Prop :=
  (doSt s j).mode = 2 ∧ (doSt s j).tpOn = true ∧ (doSt s j).start + (doSt s j).onT ≤ s.time.ticks ∧ (doSt s j).onT < (doSt s j).per

theorem doOntimeEnd_idle (h : ¬ onTimeEnds j s) : doOntimeEnd j s = s := if_neg h

theorem doOntimeEnd_ends (h : onTimeEnds j s) : doOntimeEnd j s = doDrive j (putDo j { doSt s j with tpOn := false } (atPhase 40 0 s)) := if_pos h

theorem doOntimeEnd_work (j : Nat) (s : State) : ChannelWork doOf p j s (doOntimeEnd j s) := by
  by_cases h : onTimeEnds j s
  · rw [doOntimeEnd_ends h]
    exact ((ChannelWork.phase ..).trans (.dou ..)).trans (doDrive_work ..)
  · rw [doOntimeEnd_idle h]; exact .refl ..

theorem doSt_doOntimeEnd (h : onTimeEnds j s) : ∃ b, doSt (doOntimeEnd j s) j = { doSt s j with tpOn := false, out := b } := by
  rw [doOntimeEnd_ends h, doSt_doDrive, doSt_putDo]
  exact ⟨_, rfl⟩

/-! ### Trips -/

variable {therm : Bool}

/-- A tripped output is driven off (R320, R338). -/
theorem doDemanded_tripped (h : (doSt s j).trip = true) : doDemanded j s = false := by
  have off : switchedOff douPg j s = true := by
    rw [switchedOff, if_neg (by decide), if_pos rfl, h, Bool.or_true]
  have row : govRow douPg j s = 1 := by rw [govRow, row1, off]; rfl
  unfold doDemanded
  simp [row, off]

/-- An output in TRIP (R338). -/
def trippedDo (therm : Bool) (x : DoState) : DoState := { x with trip := true, therm := therm, lim := false }

/-- An output that trips, before its message (R338). -/
def tripNoted (therm : Bool) (j : Nat) (s : State) : State := setIrq douPg 16 (doDrive j (putDo j (trippedDo therm (doSt s j)) s))

theorem doTrip_idle (h : (doSt s j).trip = true) : doTrip therm j s = s := if_pos h

theorem doTrip_trips (h : (doSt s j).trip = false) : doTrip therm j s
    = beginEp douPg (if therm then 2 else 1) (if therm then kDouThermal else kDouOverload) j (tripNoted therm j s) := by
  unfold doTrip
  extract_lets x t
  rw [if_neg (by rw [show x.trip = false from h]; decide)]
  cases therm <;> rfl

theorem tripNoted_work (therm : Bool) (j : Nat) (s : State) : ChannelWork doOf p j s (tripNoted therm j s) :=
  ((ChannelWork.dou ..).trans (doDrive_work ..)).trans (.collect (setIrq_only ..))

theorem doTrip_work (therm : Bool) (j : Nat) (s : State) : ChannelWork doOf p j s (doTrip therm j s) := by
  cases h : (doSt s j).trip with
  | true => rw [doTrip_idle h]; exact .refl ..
  | false => rw [doTrip_trips h]; exact (tripNoted_work therm j s).trans (.collect (beginEp_only ..))

/-- A trip switches the output off and is reported (R338). -/
theorem doTrip_reports (h : (doSt s j).trip = false) : doSt (doTrip therm j s) j = { trippedDo therm (doSt s j) with out := false }
    ∧ (epActive douPg (if therm then kDouThermal else kDouOverload) j s = false →
      Sent douPg (if therm then 2 else 1) (if therm then kDouThermal else kDouOverload) j s (doTrip therm j s)) := by
  have off : doDemanded j (putDo j (trippedDo therm (doSt s j)) s) = false := doDemanded_tripped (by rw [doSt_putDo]; rfl)
  rw [doTrip_trips h]
  refine ⟨?_, sent_beginEp ?_ ?_⟩
  · rw [doSt_congr (beginEp_drv ..), tripNoted, doSt_congr (setIrq_drv ..), doSt_doDrive, off, doSt_putDo]
  · exact (setIrq_time ..).trans (doDrive_time ..)
  · rw [tripNoted, setIrq, noteBit_flt, wrReg_flt, doDrive_flt]
    rfl

variable {ms : Nat}

theorem doLimitTrip_idle (h : ms < getF DOU.ILT_ILT douPg 0 s ∨ (doSt s j).trip = true) : doLimitTrip j ms s = s := by
  unfold doLimitTrip
  split
  · next long => exact doTrip_idle (h.resolve_left (Nat.not_lt.2 long))
  · rfl

theorem doLimitTrip_long (h : getF DOU.ILT_ILT douPg 0 s ≤ ms) : doLimitTrip j ms s = doTrip false j s := if_pos h

theorem doLimitTrip_work (j ms : Nat) (s : State) : ChannelWork doOf p j s (doLimitTrip j ms s) := .ite (doTrip_work ..)

/-! ### Readbacks of the digital outputs -/

variable {high : Bool}

/-- Whether the ball of output `j` is contrary to its state, outside an episode (R339). -/
def contraryBall (j : Nat) (high : Bool) (s : State) : Prop := (doSt s j).rbEp = false
  ∧ ((doSt s j).out = false ∧ high = true ∨ (doSt s j).out = true ∧ (doSt s j).lim = false ∧ high = false)

theorem contraryBall_iff : (!(doSt s j).rbEp && ((!(doSt s j).out && high) || ((doSt s j).out && !(doSt s j).lim && !high))) = true
    ↔ contraryBall j high s := by
  simp [contraryBall, and_assoc]

theorem doReadback_idle (h : ¬ contraryBall j high s) : doReadback j high s = s := if_neg fun e => h (contraryBall_iff.1 e)

theorem doReadback_begins (h : contraryBall j high s) : doReadback j high s
    = beginEp douPg 0x03 kDouReadback j (setIrq douPg 17 (putDo j { doSt s j with rbEp := true } s)) := if_pos (contraryBall_iff.2 h)

theorem doReadback_work (j : Nat) (high : Bool) (s : State) : ChannelWork doOf p j s (doReadback j high s) := by
  by_cases h : contraryBall j high s
  · rw [doReadback_begins h]
    exact ((ChannelWork.dou ..).trans (.collect (setIrq_only ..))).trans (.collect (beginEp_only ..))
  · rw [doReadback_idle h]; exact .refl ..

/-- A contrary ball begins an episode with its message (R339). -/
theorem doReadback_reports (h : contraryBall j high s) : doSt (doReadback j high s) j = { doSt s j with rbEp := true }
    ∧ (epActive douPg kDouReadback j s = false → Sent douPg 3 kDouReadback j s (doReadback j high s)) := by
  rw [doReadback_begins h]
  exact ⟨by rw [doSt_congr (beginEp_drv ..), doSt_congr (setIrq_drv ..), doSt_putDo], sent_beginEp rfl rfl⟩

theorem doReadbackEnd_idle (h : (doSt s j).rbEp = false) : doReadbackEnd j s = s := if_neg (by rw [h]; decide)

theorem doReadbackEnd_ends (h : (doSt s j).rbEp = true) :
    doReadbackEnd j s = endEp douPg kDouReadback j (putDo j { doSt s j with rbEp := false } s) := if_pos h

theorem doReadbackEnd_work (j : Nat) (s : State) : ChannelWork doOf p j s (doReadbackEnd j s) := by
  cases h : (doSt s j).rbEp with
  | false => rw [doReadbackEnd_idle h]; exact .refl ..
  | true => rw [doReadbackEnd_ends h]; exact (ChannelWork.dou ..).trans (.collect (endEp_only ..))

theorem doSt_doReadbackEnd (h : (doSt s j).rbEp = true) : doSt (doReadbackEnd j s) j = { doSt s j with rbEp := false } := by
  rw [doReadbackEnd_ends h, doSt_congr (endEp_only ..).drv, doSt_putDo]

end

/-! ### Readbacks of the analog outputs -/

section
variable {p k : Nat} {m : AoReading} {meas : List AoReading} {s t : State}

/-- Whether analog output `k` is measured (R341). -/
def measures (k : Nat) (s : State) : Prop := running aouPg s = true ∧ (aoSt s k).mode ≠ 0

/-- What the measurement of an analog output makes of its readback and of the comparison (R341). -/
structure Measured (k : Nat) (m : AoReading) (s t : State) : Prop where
  out : (aoSt t k).out = (aoSt s k).out
  stopped : ¬ measures k s → aoSt t k = { aoSt s k with limit := false, open_ := false }
  read : measures k s → (aoSt t k).rb = some m.rb
  skips : measures k s → (aoSt s k).changed = true → (aoSt t k).changed = false

theorem aoMeasure_stopped (h : ¬ measures k s) : aoMeasure k m s = putAo k { aoSt s k with limit := false, open_ := false } s :=
  if_pos (by simpa [measures, imp_iff_not_or] using h)

/-- An analog output that has read its readback (R341). -/
def readAo (m : AoReading) (x : AoState) : AoState :=
  { x with rb := some m.rb, limit := decide (x.mode = 1) && m.limit, open_ := decide (x.mode = 2) && m.open_ }

/-- What a measurement leaves of the other outputs, and the forms that its own output takes. -/
theorem aoMeasure_forms (h : measures k s) : ∃ x u, CollectOnly (putAo k x s) u ∧ aoMeasure k m s = u ∧ x.rb = some m.rb ∧ x.out = (aoSt s k).out
    ∧ ((aoSt s k).changed = true → x.changed = false) := by
  have on : ¬ (!running aouPg s || decide ((aoSt s k).mode = 0)) = true := by simpa [measures] using h
  unfold aoMeasure
  extract_lets y x begins w z
  rw [if_neg on]
  by_cases changed : x.changed = true
  · rw [if_pos changed]
    exact ⟨_, _, .refl _, rfl, rfl, rfl, fun _ => rfl⟩
  · rw [if_neg changed]
    have same : (aoSt s k).changed = true → x.changed = false := fun h => absurd h changed
    split
    · split
      · exact ⟨_, _, (setIrq_only ..).trans (beginEp_only ..), rfl, rfl, rfl, same⟩
      · exact ⟨_, _, .refl _, rfl, rfl, rfl, same⟩
    · split
      · exact ⟨_, _, endEp_only .., rfl, rfl, rfl, same⟩
      · exact ⟨_, _, .refl _, rfl, rfl, rfl, same⟩

theorem aoMeasure_work (k : Nat) (m : AoReading) (s : State) : ChannelWork aoOf p k s (aoMeasure k m s) := by
  by_cases h : measures k s
  · obtain ⟨x, u, only, e, -⟩ := aoMeasure_forms (m := m) h
    rw [e]
    exact (ChannelWork.aou ..).trans (.collect only)
  · rw [aoMeasure_stopped h]
    exact .aou ..

theorem aoMeasure_measured (k : Nat) (m : AoReading) (s : State) : Measured k m s (aoMeasure k m s) := by
  by_cases h : measures k s
  · obtain ⟨x, u, only, e, rb, out, changed⟩ := aoMeasure_forms (m := m) h
    have own : aoSt (aoMeasure k m s) k = x := by rw [e, aoSt_congr only.drv, aoSt_putAo]
    exact ⟨by rw [own, out], fun n => absurd h n, fun _ => by rw [own, rb], fun _ c => by rw [own, changed c]⟩
  · have own : aoSt (aoMeasure k m s) k = { aoSt s k with limit := false, open_ := false } := by rw [aoMeasure_stopped h, aoSt_putAo]
    exact ⟨by rw [own], fun _ => own, fun y => absurd y h, fun y => absurd y h⟩

/-- What output `k` sees of the measurements of others. -/
structure AoSees (k : Nat) (s t : State) : Prop where
  own : aoSt t k = aoSt s k
  runs : running aouPg t = running aouPg s

theorem AoSees.refl (k : Nat) (s : State) : AoSees k s s := ⟨rfl, rfl⟩

theorem AoSees.trans {u : State} (h : AoSees k s t) (g : AoSees k t u) : AoSees k s u := ⟨g.own.trans h.own, g.runs.trans h.runs⟩

/-- Work on another output: RUNNING of the page is none of the registers that the end of an episode writes. -/
theorem AoSees.of_work {i : Nat} (h : i ≠ k) (work : ∀ p, ChannelWork aoOf p i s t) : AoSees k s t :=
  ⟨(work 0).others k h.symm, congrArg (decide <| · ≠ 0) (getW_congr ((work 0).page _ ⟨by decide, by decide, by decide⟩ (by decide)))⟩

/-- The measurement of one output, where it has a reading. -/
def aoMeasureAt (meas : List AoReading) (k : Nat) (s : State) : State :=
  match meas[k]? with
  | some m => aoMeasure k m s
  | none => s

theorem aoMeasureAt_some (h : meas[k]? = some m) (s : State) : aoMeasureAt meas k s = aoMeasure k m s := by
  unfold aoMeasureAt
  rw [h]

theorem aoMeasureAt_none (h : meas[k]? = none) (s : State) : aoMeasureAt meas k s = s := by
  unfold aoMeasureAt
  rw [h]

theorem aoMeasureAt_work (meas : List AoReading) (k : Nat) (s : State) : ChannelWork aoOf p k s (aoMeasureAt meas k s) := by
  cases h : meas[k]? with
  | none => rw [aoMeasureAt_none h]; exact .refl ..
  | some m => rw [aoMeasureAt_some h]; exact aoMeasure_work ..

theorem aoReadbackMeasure_eq (meas : List AoReading) (s : State) :
    aoReadbackMeasure meas s = forN 8 (aoMeasureAt meas) (atPhase 100 0 s) := rfl

/-- Each output is measured for itself (R341). -/
theorem aoReadbackMeasure_visit {k : Nat} (hk : k < 8) (meas : List AoReading) (s : State) :
    ∃ u, AoSees k s u ∧ AoSees k (aoMeasureAt meas k u) (aoReadbackMeasure meas s) := by
  have phase : AoSees k s (atPhase 100 0 s) := ⟨aoSt_congr (atPhase_drv ..) k, congrArg (decide <| · ≠ 0) (getW_congr (by rw [rdReg, rdReg, atPhase_regs]))⟩
  obtain ⟨u, seen, own⟩ := forN_visit (Sim := AoSees k) 8 k hk (.refl k) (fun _ _ _ h g => h.trans g)
    (fun i s hi => .of_work hi fun p => aoMeasureAt_work meas i s) (atPhase 100 0 s)
  exact ⟨u, phase.trans seen, own⟩

theorem aoReadbackMeasure_none {k : Nat} (hk : k < 8) (h : meas[k]? = none) (s : State) : aoSt (aoReadbackMeasure meas s) k = aoSt s k := by
  obtain ⟨u, seen, own⟩ := aoReadbackMeasure_visit hk meas s
  rw [own.own, aoMeasureAt_none h, seen.own]

theorem aoReadbackMeasure_measured {k : Nat} (hk : k < 8) (h : meas[k]? = some m) (s : State) : Measured k m s (aoReadbackMeasure meas s) := by
  obtain ⟨u, seen, own⟩ := aoReadbackMeasure_visit hk meas s
  have measured := aoMeasure_measured k m u
  rw [aoMeasureAt_some h] at own
  have same : measures k u ↔ measures k s := by rw [measures, measures, seen.own, seen.runs]
  refine ⟨?_, fun n => ?_, fun y => ?_, fun y => ?_⟩
  · rw [own.own, measured.out, seen.own]
  · rw [own.own, measured.stopped (same.not.2 n), seen.own]
  · rw [own.own, measured.read (same.2 y)]
  · rw [own.own, ← seen.own]
    exact measured.skips (same.2 y)

theorem aoReadbackMeasure_page {a : Nat} (c : calm a) (ha : a / 0x400 ≠ aouPg) (meas : List AoReading) (s : State) :
    rdReg (aoReadbackMeasure meas s) a = rdReg s a := by
  refine forN_keep (Q := fun t => rdReg t a = rdReg s a) 8 (fun k t h => ?_) _ ?_
  · exact ((aoMeasureAt_work (p := aouPg) meas k t).page a c ha).trans h
  · rw [rdReg, rdReg, atPhase_regs]

end

end Sys2Proof.Machine
end

section
namespace Sys2Proof.Machine

/-! ### TRIP_CLR of a digital output -/

/-- The row of the digital outputs' control registers (R337, R338, R342). -/
def doCtrlDesc : RegDesc := ⟨0x100, 0x8, 24, [rfOwner 31 27 .rwd 0x3, rfCfgU 26 22 .rwd 0x0, rfCfgU 21 21 .rwd 0x0, rfOpU 20 20 .wo 0x0,
  rfCfgU 19 4 .rwd 0x50, rfCfgU 3 3 .rwd 0x0, rfOpU 2 2 .rw 0x0, rfOpU 1 0 .rw 0x0]⟩

theorem doCtrl_bit : ∀ ch : Fin 24, commandBit douPg (0x100 + 8 * ch.val) doCtrlDesc ch.val 20 = true := by decide

section
variable {party : Party} {ch : Fin 24} {s : State}

theorem do_shown : blockRead party douPg (0x100 + 8 * ch.val) s = none := by
  have kind : pageKind douPg = some .dou := rfl
  simp only [blockRead, kind]
  rw [douRead, if_neg (by omega)]

/-- The clear that an output has been told (R338). -/
def notedTripClr (j : Nat) (s : State) : State := putDo j { doSt s j with tripClr := true } s

/-- A write of a control register beside its command is stored where its fields are in range (R323). -/
theorem commandStore_plain {cx : WriteCx} {bad : Bool} (command : cxHas cx 2 = false) (good : bad = false) (t : State) :
    commandStore (cxHas cx 2) bad cx t = .ok (storeFields cx t) := by
  rw [command, good]
  rfl

/-- A stored write of a control register notes its TRIP_CLR (R338). -/
theorem douWrite_ctrl {cx : WriteCx} {t : State} (place : cx.off < 0x200 ∧ cx.off % 8 = 0) (command : cxHas cx 2 = false)
    (good : ((cxHas cx 27 && !ownerValid (cxBits cx 31 27)) || cxOutside cx 19 4 8 65535 || cxOutside cx 1 0 0 2) = false)
    (clear : cxBits cx 20 20 = 1) : douWrite cx t = .ok (notedTripClr cx.unit (storeFields cx t)) := by
  unfold douWrite
  rw [if_neg (by omega), if_pos place.1, if_pos place.2, commandStore_plain command good]
  exact congrArg WrOut.ok (if_pos clear)

/-- The DOU page notes the clear that is written (R338). -/
theorem douWrite_clear (zero : CommandBitsZero douPg (0x100 + 8 * ch.val) s) (l : List Hold) (t : State) :
    blockWrite (bitCx party douPg (0x100 + 8 * ch.val) doCtrlDesc 20 s l) t
      = .ok (notedTripClr ch.val (stored (pageAddr douPg (0x100 + 8 * ch.val)) t)) := by
  have bit := doCtrl_bit ch
  obtain ⟨-, -, unit, -⟩ := commandBit_facts bit
  have has (m : Nat) (hm : m ≠ 20) : cxHas (bitCx party douPg (0x100 + 8 * ch.val) doCtrlDesc 20 s l) m = false := by
    rw [bitCx_has bit zero do_shown, decide_eq_false hm]
  have set : cxBits (bitCx party douPg (0x100 + 8 * ch.val) doCtrlDesc 20 s l) 20 20 = 1 := by
    rw [bitCx_bits bit zero l (by decide), if_pos rfl]
  have off : (bitCx party douPg (0x100 + 8 * ch.val) doCtrlDesc 20 s l).off = 0x100 + 8 * ch.val := rfl
  have whose : (bitCx party douPg (0x100 + 8 * ch.val) doCtrlDesc 20 s l).unit = ch.val := unit
  rw [blockWrite_dou _ rfl, douWrite_ctrl (by rw [off]; omega) (has 2 (by decide)) ?_ set, whose, bitCx_stores bit zero do_shown l]
  simp only [cxOutside, has 27 (by decide), has 4 (by decide), has 0 (by decide), Bool.false_and, Bool.or_self]

end

/-! ### The commands of the outputs -/

/-- An operation of one digital output: the registers of other pages and the other outputs stand as before. -/
abbrev OneDo (j : Nat) (s u : State) : Prop := Outside [douPg] s u ∧ ∀ n, n ≠ j → doSt u n = doSt s n

/-- The command of an operation on one digital output. -/
theorem does_dou {i : Instr} {ps : List Part} {f : State → State} {j : Nat} {s : State} (awake : Awake s)
    (he : exec i s = .next (finish (reach ps f) s)) (drv : Part.drv ∈ ps) (work : ∀ t, ChannelWork doOf douPg j t (f t)) :
    Does i s fun u => OneDo j s u ∧ u = reach ps f (clearReports s) :=
  (does_channel awake he drv (work _) (fact := fun u => u = reach ps f (clearReports s)) rfl).imp fun _ ⟨page, others, same⟩ => ⟨⟨page, others⟩, same⟩

/-- TRIP_CLR is noted for the next tick boundary (R338). -/
theorem douTripClr_does {party : Party} {ch : Fin 24} {s : State} (awake : Awake s) (may : MayWriteUnit party douPg ch.val true s)
    (zero : CommandBitsZero douPg (0x100 + 8 * ch.val) s) :
    Does (.douTripClr party ch) s fun u => OneDo ch.val s u ∧ Acked party (pageAddr douPg (0x100 + 8 * ch.val)) u
      ∧ doSt u ch.val = { doSt s ch.val with tripClr := true } ∧ RegsBut [] s u := by
  obtain ⟨u, settles, report, ⟨t, same, drv⟩, kept⟩ := does_bit (i := .douTripClr party ch) (party := party) (notedTripClr ch.val) awake
    (doCtrl_bit ch) may zero do_shown rfl (by rfl) (by decide) (by decide) (fun _ _ => rfl) fun l => douWrite_clear (s := clearReports s) zero l _
  refine ⟨u, settles, ⟨fun a _ _ => kept a List.not_mem_nil, fun n hn => ?_⟩, report, ?_, kept⟩
  · rw [doSt_congr drv, notedTripClr, doSt_putDo_ne _ _ hn.symm, doSt_congr same]
  · rw [doSt_congr drv, notedTripClr, doSt_putDo, doSt_congr same]

/-- The analog outputs' measurement, each by itself (R341). -/
theorem aoReadbackMeasure_does {meas : List AoReading} {s : State} (awake : Awake s) : Does (.aoReadbackMeasure meas) s fun u => Outside [aouPg] s u
    ∧ ∀ k, aoSt u k = aoSt (aoReadbackMeasure meas (clearReports s)) k := by
  refine ⟨_, settles_finish awake rfl, fun a quiet ha => ?_, fun k => aoSt_reach (by decide) k⟩
  rw [rdReg_reach _ _ _ (by decide)]
  exact aoReadbackMeasure_page (quiet_calm quiet) (fun e => ha (List.mem_singleton.2 e)) meas (clearReports s)

end Sys2Proof.Machine

namespace Sys2Proof.Proofs
open Sys2Proof Sys2Proof.Machine

/-- Settles O34: each command is an operation on its output alone, and the measurement one on each analog output. -/
theorem outputsRunTheirPeriodsAndTrips : Obligations.Outputs_Run_Their_Periods_And_Trips := by
  unfold Obligations.Outputs_Run_Their_Periods_And_Trips
  intro party ch high ms meas k s awake j x idle does said starts per ends contrary a y
  have regs {f : State → State} (l : List Nat) : RegsBut l s (reach [.time, .drv] f (clearReports s)) := fun a _ => by
    rw [rdReg_reach_not _ _ _ (by decide), rdReg_clearReports]
  refine ⟨?_, ?_, ?_, ?_, ?_, ?_, fun may zero => ?_, ?_⟩
  · refine (does_dou (j := j) awake rfl (by decide) fun t => doPeriodStart_work j t).imp fun u ⟨⟨page, others⟩, e⟩ =>
      ⟨page, others, e ▸ regs _, fun rests => e.trans (reach_self (doPeriodStart_idle rests)), fun start => ?_⟩
    obtain ⟨b, own⟩ := doSt_doPeriodStart (s := clearReports s) start
    rw [e, doSt_reach (by decide), own]
    exact ⟨rfl, rfl, rfl, rfl, rfl⟩
  · refine (does_dou (j := j) awake rfl (by decide) fun t => doOntimeEnd_work j t).imp fun u ⟨⟨page, others⟩, e⟩ =>
      ⟨page, others, e ▸ regs _, fun rests => e.trans (reach_self (doOntimeEnd_idle rests)), fun ended => ?_⟩
    obtain ⟨b, own⟩ := doSt_doOntimeEnd (s := clearReports s) ended
    rw [e, doSt_reach (by decide), own]
    exact ⟨rfl, rfl⟩
  · refine (does_dou (j := j) awake rfl (by decide) fun t => doLimitTrip_work j ms t).imp fun u ⟨⟨page, others⟩, e⟩ =>
      ⟨page, others, fun rests => e.trans (reach_self (doLimitTrip_idle rests)), fun long trip => ?_⟩
    obtain ⟨own, told⟩ := doTrip_reports (s := clearReports s) (therm := false) trip
    rw [← doLimitTrip_long (s := clearReports s) long] at own told
    rw [e, doSt_reach (by decide), own]
    exact ⟨rfl, rfl, rfl, fun none => sent_reach (by decide) (told none)⟩
  · refine (does_dou (j := j) awake rfl (by decide) fun t => doTrip_work true j t).imp fun u ⟨⟨page, others⟩, e⟩ =>
      ⟨page, others, fun rests => e.trans (reach_self (doTrip_idle rests)), fun trip => ?_⟩
    obtain ⟨own, told⟩ := doTrip_reports (s := clearReports s) (therm := true) trip
    rw [e, doSt_reach (by decide), own]
    exact ⟨rfl, rfl, rfl, fun none => sent_reach (by decide) (told none)⟩
  · refine (does_dou (j := j) awake rfl (by decide) fun t => doReadback_work j high t).imp fun u ⟨⟨page, others⟩, e⟩ =>
      ⟨page, others, fun rests => e.trans (reach_self (doReadback_idle rests)), fun contrary => ?_⟩
    obtain ⟨own, told⟩ := doReadback_reports (s := clearReports s) contrary
    rw [e, doSt_reach (by decide), own]
    exact ⟨rfl, fun none => sent_reach (by decide) (told none)⟩
  · refine (does_dou (j := j) awake rfl (by decide) fun t => doReadbackEnd_work j t).imp fun u ⟨⟨page, others⟩, e⟩ =>
      ⟨page, others, fun rests => e.trans (reach_self (doReadbackEnd_idle rests)), fun episode => ?_⟩
    rw [e, doSt_reach (by decide), doSt_doReadbackEnd (s := clearReports s) episode]
    rfl
  · exact (douTripClr_does awake may zero).imp fun u ⟨⟨page, others⟩, fact⟩ => ⟨page, others, fact⟩
  · refine (aoReadbackMeasure_does awake).imp fun u ⟨page, same⟩ => ⟨page, fun none => ?_, fun m some => ?_⟩
    · exact (same k.val).trans (aoReadbackMeasure_none k.isLt none _)
    · have measured := aoReadbackMeasure_measured k.isLt some (clearReports s)
      rw [same]
      refine ⟨measured.out, fun runs mode => ⟨measured.read ⟨runs, mode⟩, measured.skips ⟨runs, mode⟩⟩, fun off => measured.stopped fun on => ?_⟩
      obtain stopped | none := off
      · exact absurd on.1 (by rw [show running aouPg (clearReports s) = false from stopped]; decide)
      · exact on.2 none

end Sys2Proof.Proofs
end

section
/-!
PROOFS. Every step keeps the outputs governed and the memory canonical (R320). A command ends by settling, which governs every output, or
leaves a device that is held or in DEEP; on an empty queue a clock passes, which touches nothing that an output rests on. Of the memory,
what is not a write of bytes leaves it as it stands, and what writes bytes keeps its form.
-/
namespace Sys2Proof.Machine

/-! ### How commands end -/

/-- The ways in which a command ends: in a running device, after writes of registers, or in every state. -/
def Ending (fin : (State → State) → State → State) : Prop := fin = finish ∨ fin = finishWrite ∨ fin = finishAlways

/-- What a command carries out: an operation on the parts listed, the memory among them only where it is in its footprint. -/
inductive Carried (i : Instr) (s : State) : Host.Outcome State Fault Refusal → Prop
  | reaches (fin : (State → State) → State → State) (ps : List Part) (f : State → State) :
      Ending fin → (Part.mem ∉ footprint i → Part.mem ∉ ps) → Carried i s (.next (fin (reach ps f) s))
  | whole (fin : (State → State) → State → State) (f : State → State) :
      Ending fin → Part.mem ∈ footprint i → Carried i s (.next (fin f s))

theorem exec_carried (i : Instr) (s : State) : Carried i s (exec i s) := by
  cases i
  case supplyMonitorReset | resetAssert | thermalReset | deepEntry | powerModeChangeDone => exact .whole _ _ (by simp [Ending]) (by simp [footprint, allParts])
  all_goals exact .reaches _ _ _ (by simp [Ending]) (by simp [footprint, allParts])

theorem softwareReset_governed {s : State} (h : Governed s) (awake : dormant (softwareReset s) = false) : Governed (softwareReset s) := by
  unfold softwareReset at awake ⊢
  split at awake
  · have held : dormant (resetDevice true s) = true := rfl
    exact absurd (held.symm.trans awake) (by decide)
  · next stays => rwa [if_neg stays]

/-- A command leaves a dormant device or governed outputs (R320). -/
theorem Ending.governed {fin : (State → State) → State → State} (h : Ending fin) {f : State → State} {s : State}
    (awake : dormant (fin f s) = false) : Governed (fin f s) := by
  obtain rfl | rfl | rfl := h
  · unfold finish at awake ⊢
    split at awake
    · next asleep => exact absurd (asleep.symm.trans awake) (by decide)
    · next runs => rw [if_neg runs]; exact keepQueue_governed (settle_governed _)
  · unfold finishWrite at awake ⊢
    split at awake
    · next asleep => exact absurd (asleep.symm.trans awake) (by decide)
    · next runs => rw [if_neg runs]; exact keepQueue_governed (softwareReset_governed (settle_governed _) awake)
  · unfold finishAlways at awake ⊢
    extract_lets at awake ⊢
    split at awake
    · next asleep => exact absurd (asleep.symm.trans awake) (by decide)
    · next runs =>
      rw [if_neg runs]
      exact keepQueue_governed (softwareReset_governed (settle_governed _) awake)

theorem exec_governed {i : Instr} {s t : State} (h : exec i s = .next t) (awake : dormant t = false) : Governed t := by
  have carried := exec_carried i s
  rw [h] at carried
  cases carried with
  | reaches fin ps f ending => exact ending.governed awake
  | whole fin f ending => exact ending.governed awake

/-! ### A clock on an empty queue -/

/-- A state that differs from another in nothing that an output rests on: in the instant, in the collisions of the cycle, and in RUN and
WRITE_GEN of the pages. -/
structure LikeGround (s t : State) : Prop where
  parts : ∃ r x c l, t = { s with regs := r, time := x, cyc := c, flt := { s.flt with retry := l } }
  regs : ∀ a, calm a → rdReg t a = rdReg s a

namespace LikeGround
variable {s t u : State}

theorem refl (s : State) : LikeGround s s := ⟨⟨s.regs, s.time, s.cyc, s.flt.retry, rfl⟩, fun _ _ => rfl⟩

theorem trans (h : LikeGround s t) (g : LikeGround t u) : LikeGround s u := by
  obtain ⟨⟨_, _, _, _, rfl⟩, h⟩ := h
  obtain ⟨⟨_, _, _, _, rfl⟩, g⟩ := g
  exact ⟨⟨_, _, _, _, rfl⟩, fun a c => (g a c).trans (h a c)⟩

theorem getB {f : Fld} {p u : Nat} (h : LikeGround s t) (plain : f.acc ≠ .rwd) (c : calm (fldAddr f p u)) : getB f p u t = getB f p u s := by
  rw [Machine.getB, Machine.getB, getF_eq plain, getF_eq plain, getW_congr (h.regs _ c)]

theorem fieldWindow (h : LikeGround s t) : fieldWindow t = fieldWindow s := by
  rw [Machine.fieldWindow, Machine.fieldWindow, h.getB (by decide) ⟨by decide, by decide, by decide⟩, h.getB (by decide) ⟨by decide, by decide, by decide⟩]

theorem switchedOff (h : LikeGround s t) (p n : Nat) : switchedOff p n t = switchedOff p n s := by
  have window := h.fieldWindow
  obtain ⟨⟨_, _, _, _, rfl⟩, -⟩ := h
  unfold Machine.switchedOff
  rw [window]
  rfl

theorem dinState (h : LikeGround s t) (j : Nat) : dinState j t = dinState j s := by
  rw [Machine.dinState, Machine.dinState, h.regs _ ⟨by decide, by decide, by decide⟩]

theorem gateOff (h : LikeGround s t) (p n : Nat) : gateOff p n t = gateOff p n s := by
  have din := h.dinState
  obtain ⟨⟨_, _, _, _, rfl⟩, -⟩ := h
  unfold Machine.gateOff
  simp only [din]
  rfl

/-- The same row of R320 governs a channel of the output pages. -/
theorem govRow (h : LikeGround s t) {p : Nat} (page : p = fanPg ∨ p = douPg ∨ p = aouPg) (n : Nat) : govRow p n t = govRow p n s := by
  have off := h.switchedOff p n
  have gate := h.gateOff p n
  have silent : hostSilent t = hostSilent s := h.getB (by decide) ⟨by decide, by decide, by decide⟩
  have runs : running p t = running p s := by
    obtain rfl | rfl | rfl := page
    all_goals exact h.getB (by decide) ⟨by decide, by decide, by decide⟩
  obtain ⟨⟨_, _, _, _, rfl⟩, -⟩ := h
  have owner (r : Tab Word) (x : TimeState) (c : Cycle) (l : List (Nat × Bool × Nat)) :
      unitOwner p n { s with regs := r, time := x, cyc := c, flt := { s.flt with retry := l } } = unitOwner p n s := by
    obtain rfl | rfl | rfl := page
    all_goals rfl
  unfold Machine.govRow govBelow row1 silenced row5
  rw [off, gate, silent, runs, owner]
  rfl

theorem fanDemanded (h : LikeGround s t) (n : Nat) : fanDemanded n t = fanDemanded n s := by
  have row := h.govRow (.inl rfl) n
  obtain ⟨⟨_, _, _, _, rfl⟩, -⟩ := h
  unfold Machine.fanDemanded
  rw [row]
  rfl

theorem doDemanded (h : LikeGround s t) (j : Nat) : doDemanded j t = doDemanded j s := by
  have row := h.govRow (.inr (.inl rfl)) j
  have off := h.switchedOff douPg j
  obtain ⟨⟨_, _, _, _, rfl⟩, -⟩ := h
  unfold Machine.doDemanded
  rw [row, off]
  rfl

theorem aoDemanded (h : LikeGround s t) (k : Nat) : aoDemanded k t = aoDemanded k s := by
  have row := h.govRow (.inr (.inr rfl)) k
  have off := h.switchedOff aouPg k
  obtain ⟨⟨_, _, _, _, rfl⟩, -⟩ := h
  unfold Machine.aoDemanded
  rw [row, off]
  rfl

theorem governed (h : LikeGround s t) (g : Governed s) : Governed t := by
  obtain ⟨fans, dos, aos⟩ := g
  have drv : t.drv = s.drv := by
    obtain ⟨⟨_, _, _, _, rfl⟩, -⟩ := h
    rfl
  refine ⟨fun n hn => ?_, fun j hj => ?_, fun k hk => ?_⟩
  · rw [h.fanDemanded, fanSt_congr drv, fans n hn]
  · rw [h.doDemanded, doSt_congr drv, dos j hj]
  · rw [h.aoDemanded, aoSt_congr drv, aos k hk]

theorem dormant (h : LikeGround s t) : dormant t = dormant s := by
  obtain ⟨⟨_, _, _, _, rfl⟩, -⟩ := h
  rfl

theorem mem (h : LikeGround s t) : t.mem = s.mem := by
  obtain ⟨⟨_, _, _, _, rfl⟩, -⟩ := h
  rfl

end LikeGround

theorem putRun_regs (p : Nat) (run : Bool) (s : State) : ∃ r, putRun p run s = { s with regs := r } := by
  unfold putRun
  split
  · exact ⟨s.regs, rfl⟩
  · exact ⟨_, rfl⟩

theorem reactionRun_like (e : Nat) (run : Bool) (s : State) : LikeGround s (reactionRun e run s) := by
  refine ⟨?_, fun a c => reactionRun_quiet c e run s⟩
  unfold reactionRun
  split
  · exact ⟨s.regs, s.time, s.cyc, _, rfl⟩
  · split
    · exact (LikeGround.refl s).parts
    · obtain ⟨r, put⟩ := putRun_regs (0x20 + e) run s
      rw [put]
      exact ⟨r, s.time, _, s.flt.retry, rfl⟩

theorem retryRuns_like (s : State) : LikeGround s (retryRuns s) := by
  unfold retryRuns
  extract_lets due
  split
  · exact .refl s
  · refine LikeGround.trans (t := { s with flt := { s.flt with retry := s.flt.retry.filter fun r => !decide (r.2.2 < cycleNow s) } })
      ⟨⟨_, _, _, _, rfl⟩, fun _ _ => rfl⟩ ?_
    exact List.foldlRecOn due _ (.refl _) fun t h r _ => h.trans (reactionRun_like ..)

theorem nextClock_like (s : State) : LikeGround s (nextClock s) := by
  refine ⟨?_, ?_⟩
  · unfold nextClock
    split
    · exact ⟨_, _, _, _, rfl⟩
    · split <;> exact ⟨_, _, _, _, rfl⟩
  · intro a _
    unfold nextClock
    split
    · rfl
    · split <;> rfl

theorem idle_like (s : State) : LikeGround s (idle s) := (nextClock_like s).trans (retryRuns_like _)

/-! ### One step -/

/-- A step is one clock on an empty queue, or the command at its front. -/
theorem step_cases {s t : State} (h : step s = .next t) :
    (s.pending = [] ∧ t = idle s) ∨ ∃ c q, s.pending = c :: q ∧ exec c { s with pending := q } = .next t := by
  unfold step at h
  cases queue : s.pending with
  | nil =>
    rw [queue] at h
    exact .inl ⟨rfl, (Host.Outcome.next.inj h).symm⟩
  | cons c q =>
    rw [queue] at h
    exact .inr ⟨c, q, rfl, h⟩

theorem step_governed {s t : State} (h : step s = .next t) (governed : dormant s = false → Governed s) (awake : dormant t = false) : Governed t := by
  obtain ⟨-, rfl⟩ | ⟨c, q, -, acts⟩ := step_cases h
  · have like := idle_like s
    exact like.governed (governed (like.dormant.symm.trans awake))
  · exact exec_governed acts awake

end Sys2Proof.Machine
end

section
/-!
PROOFS. What leaves the memory alone: the operations of a step that write no byte of it, callees before their callers, one rule each. `simp`
rewrites by these rules with `-implicitDefEqProofs`, since a check by unfolding would compare whole states.
-/
namespace Sys2Proof.Machine

@[simp] theorem mem_ite (c : Prop) [Decidable c] (s t : State) : (if c then s else t).mem = if c then s.mem else t.mem := apply_ite ..

@[simp] theorem mem_iteMap (c : Prop) [Decidable c] (f g : State → State) (s : State) :
    ((if c then f else g) s).mem = if c then (f s).mem else (g s).mem := by
  split <;> rfl

@[simp] theorem foldl_mem {β : Type} {f : State → β → State} (h : ∀ s b, (f s b).mem = s.mem) (l : List β) (s : State) :
    (l.foldl f s).mem = s.mem := by
  induction l generalizing s with
  | nil => rfl
  | cons b l ih => exact (ih _).trans (h s b)

theorem foldl_fst_mem {β γ : Type} {f : State × γ → β → State × γ} (h : ∀ a b, (f a b).1.mem = a.1.mem) (l : List β) (a : State × γ) :
    (l.foldl f a).1.mem = a.1.mem := by
  induction l generalizing a with
  | nil => rfl
  | cons b l ih => exact (ih _).trans (h a b)

@[simp] theorem forN_mem {n : Nat} {f : Nat → State → State} (h : ∀ i s, (f i s).mem = s.mem) (s : State) : (forN n f s).mem = s.mem :=
  foldl_mem (fun s i => h i s) _ s

@[simp] theorem forPages_mem {f : Nat → State → State} (h : ∀ p s, (f p s).mem = s.mem) (s : State) : (forPages f s).mem = s.mem :=
  foldl_mem (fun s p => h p s) _ s

theorem collectOnly_mem {s t : State} (h : CollectOnly s t) : t.mem = s.mem := by
  obtain ⟨⟨_, _, _, _, rfl⟩, -⟩ := h
  rfl

theorem busOnly_mem {s t : State} (h : BusOnly s t) : t.mem = s.mem := by
  obtain ⟨_, _, rfl⟩ := h
  rfl

/-- What a judged write leaves, where it leaves a state, has memory `m`. -/
@[irreducible] def WrOut.Leaves (m : List Host.Cell) : WrOut → Prop
  | .ok t | .refuseTo t => t.mem = m
  | .refuse | .held => True

@[simp] theorem leaves_ok (m : List Host.Cell) (t : State) : (WrOut.ok t).Leaves m ↔ t.mem = m := by rw [WrOut.Leaves]

@[simp] theorem leaves_refuseTo (m : List Host.Cell) (t : State) : (WrOut.refuseTo t).Leaves m ↔ t.mem = m := by rw [WrOut.Leaves]

@[simp] theorem leaves_refuse (m : List Host.Cell) : WrOut.refuse.Leaves m := by rw [WrOut.Leaves]; trivial

@[simp] theorem leaves_held (m : List Host.Cell) : WrOut.held.Leaves m := by rw [WrOut.Leaves]; trivial

@[simp] theorem leaves_ite (m : List Host.Cell) (c : Prop) [Decidable c] (a b : WrOut) :
    (if c then a else b).Leaves m ↔ if c then a.Leaves m else b.Leaves m := by
  split <;> rfl

theorem WrOut.Leaves.of_ok {m : List Host.Cell} {r : WrOut} {t : State} (h : r.Leaves m) (eq : r = .ok t) : t.mem = m :=
  (leaves_ok m t).1 (eq ▸ h)

theorem WrOut.Leaves.of_refuseTo {m : List Host.Cell} {r : WrOut} {t : State} (h : r.Leaves m) (eq : r = .refuseTo t) : t.mem = m :=
  (leaves_refuseTo m t).1 (eq ▸ h)

theorem leaves_congr {m m' : List Host.Cell} {r : WrOut} (h : r.Leaves m) (eq : m = m') : r.Leaves m' := eq ▸ h

@[simp] theorem drawWord_mem (s : State) : (drawWord s).2.mem = s.mem := rfl

@[simp] theorem takeAreas_mem (p lo hi : Nat) (s : State) : (takeAreas p lo hi s).mem = s.mem := by simp -implicitDefEqProofs [takeAreas]

@[simp] theorem takeWritten_mem (s : State) : (takeWritten s).mem = s.mem := by simp -implicitDefEqProofs [takeWritten]

@[simp] theorem noteCycle_mem (f : Cycle → Cycle) (s : State) : (noteCycle f s).mem = s.mem := by simp -implicitDefEqProofs [noteCycle]

@[simp] theorem setB_mem (f : Fld) (p u : Nat) (b : Bool) (s : State) : (setB f p u b s).mem = s.mem := by simp -implicitDefEqProofs [setB]

@[simp] theorem incMod_mem (f : Fld) (p u : Nat) (s : State) : (incMod f p u s).mem = s.mem := by simp -implicitDefEqProofs [incMod]

@[simp] theorem bumpWriteGen_mem (p : Nat) (s : State) : (bumpWriteGen p s).mem = s.mem := by simp -implicitDefEqProofs [bumpWriteGen]

@[simp] theorem putRun_mem (p : Nat) (run : Bool) (s : State) : (putRun p run s).mem = s.mem := collectOnly_mem (putRun_only ..)

@[simp] theorem reactionRun_mem (e : Nat) (run : Bool) (s : State) : (reactionRun e run s).mem = s.mem := collectOnly_mem (reactionRun_only ..)

@[simp] theorem retryRuns_mem (s : State) : (retryRuns s).mem = s.mem := by simp -implicitDefEqProofs [retryRuns]

@[simp] theorem maxClear_mem (s : State) : (maxClear s).mem = s.mem := by simp -implicitDefEqProofs [maxClear]

@[simp] theorem recPush_mem (kind sev subj : Nat) (body : List (Nat × Word)) (cls key : Nat) (s : State) : (recPush kind sev subj body cls key s).mem = s.mem :=
  collectOnly_mem (recPush_only ..)

@[simp] theorem putScope_mem (k : Nat) (c : Scope) (s : State) : (putScope k c s).mem = s.mem := collectOnly_mem (putScope_only ..)

@[simp] theorem startQuiet_mem (k t : Nat) (s : State) : (startQuiet k t s).mem = s.mem := collectOnly_mem (startQuiet_only ..)

@[simp] theorem scopeRecord_mem (k outcome : Nat) (s : State) : (scopeRecord k outcome s).mem = s.mem := collectOnly_mem (scopeRecord_only ..)

@[simp] theorem setIrq_mem (p n : Nat) (s : State) : (setIrq p n s).mem = s.mem := collectOnly_mem (setIrq_only ..)

@[simp] theorem incSat_mem (f : Fld) (p u : Nat) (s : State) : (incSat f p u s).mem = s.mem := by simp -implicitDefEqProofs [incSat]

@[simp] theorem endEp_mem (page kind addr : Nat) (s : State) : (endEp page kind addr s).mem = s.mem := collectOnly_mem (endEp_only ..)

@[simp] theorem raise_mem (page inst kind addr : Nat) (s : State) : (raise page inst kind addr s).mem = s.mem := collectOnly_mem (raise_only ..)

@[simp] theorem dueInstant_mem (p : Nat) (anyDue : Bool) (late : List Nat) (s : State) : (dueInstant p anyDue late s).mem = s.mem := by
  simp -implicitDefEqProofs [dueInstant]

@[simp] theorem dueBoundary_mem (p : Nat) (anyDue : Bool) (late : List Nat) (s : State) : (dueBoundary p anyDue late s).mem = s.mem := by
  simp -implicitDefEqProofs [dueBoundary]

@[simp] theorem cargoPublished_mem (some_ : Bool) (s : State) : (cargoPublished some_ s).mem = s.mem := by
  simp -implicitDefEqProofs [cargoPublished]

@[simp] theorem cargoVisible_mem (s : State) : (cargoVisible s).mem = s.mem := by
  simp -implicitDefEqProofs [cargoVisible, showEntry, putPub, putPartner]

@[simp] theorem railsUpdate_mem (r : RailMv) (s : State) : (railsUpdate r s).mem = s.mem := by simp -implicitDefEqProofs [railsUpdate]

@[simp] theorem snsDue_mem (s : State) : (snsDue s).mem = s.mem := by simp -implicitDefEqProofs [snsDue]

@[simp] theorem nvsCapture_mem (s : State) : (nvsCapture s).mem = s.mem := by
  unfold nvsCapture
  split <;> simp -implicitDefEqProofs

@[simp] theorem stalePub_mem (k : Nat) (s : State) : (stalePub k s).mem = s.mem := by simp -implicitDefEqProofs [stalePub, putPub]

@[simp] theorem putCol_mem (c : Nat) (v : LdgCol) (s : State) : (putCol c v s).mem = s.mem := by simp -implicitDefEqProofs [putCol]

@[simp] theorem layerResidual_mem (x : LdgSnap) (s : State) : (layerResidual x s).mem = s.mem := by
  unfold layerResidual
  dsimp only
  split <;> simp -implicitDefEqProofs

@[simp] theorem lateCol_mem (x : LdgSnap) (s : State) : (lateCol x s).mem = s.mem := by simp -implicitDefEqProofs [lateCol]

@[simp] theorem setEp_mem (on : Bool) (page inst kind addr : Nat) (s : State) : (setEp on page inst kind addr s).mem = s.mem :=
  collectOnly_mem (setEp_only ..)

@[simp] theorem setFF_mem (f : Fld) (p u v : Nat) (s : State) : (setFF f p u v s).mem = s.mem := by
  simp -implicitDefEqProofs [setFF, wrForce]

@[simp] theorem slipTrim_mem (c : Nat) (s : State) : (slipTrim c s).mem = s.mem := by
  unfold slipTrim
  split <;> simp -implicitDefEqProofs

@[simp] theorem qmeasUpdate_mem (c : Nat) (s : State) : (qmeasUpdate c s).mem = s.mem := by
  unfold qmeasUpdate
  dsimp only
  split
  · rfl
  · split <;> rfl

@[simp] theorem colLongTide_mem (served : List Nat) (c : Nat) (s : State) : (colLongTide served c s).mem = s.mem := by
  simp -implicitDefEqProofs [colLongTide]

@[simp] theorem putBias_mem (c : Nat) (b : Int) (s : State) : (putBias c b s).mem = s.mem := by simp -implicitDefEqProofs [putBias]

@[simp] theorem verifyParcel_mem (loc : Nat) (s : State) : (verifyParcel loc s).mem = s.mem := by
  simp -implicitDefEqProofs [verifyParcel, putParcel]

@[simp] theorem publish_mem (k : Nat) (v : Word) (s : State) : (publish k v s).mem = s.mem := by simp -implicitDefEqProofs [publish, putPub]

@[simp] theorem ldgPublish_mem (k c : Nat) (v : Option Int) (s : State) : (ldgPublish k c v s).mem = s.mem := by
  unfold ldgPublish
  split <;> simp -implicitDefEqProofs

@[simp] theorem publishCol_mem (x : LdgSnap) (r : LdgResult) (s : State) : (publishCol x r s).mem = s.mem := by
  simp -implicitDefEqProofs [publishCol, biasUpdate, writeItem, setParcel, putParcel]

@[simp] theorem ledgerDue_mem (s : State) : (ledgerDue s).mem = s.mem := by
  unfold ledgerDue
  extract_lets short snaps s1 s2
  have late : s1.mem = s.mem := forN_mem (fun c a => colLongTide_mem ..) s
  have published : s2.mem = s1.mem := by
    unfold s2
    split
    · rfl
    · split <;> simp -implicitDefEqProofs
  split
  · rfl
  · exact published.trans late

@[simp] theorem haltReturn_mem (s : State) : (haltReturn s).mem = s.mem := by simp -implicitDefEqProofs [haltReturn]

@[simp] theorem haltEntry_mem (s : State) : (haltEntry s).mem = s.mem := by simp -implicitDefEqProofs [haltEntry]

@[simp] theorem modeBoundary_mem (s : State) : (modeBoundary s).mem = s.mem := by
  unfold modeBoundary
  split <;> simp -implicitDefEqProofs

@[simp] theorem trcAbort_mem (u : Nat) (s : State) : (trcAbort u s).mem = s.mem := by simp -implicitDefEqProofs [trcAbort, putTrc]

@[simp] theorem takeRun_mem (p : Nat) (s : State) : (takeRun p s).mem = s.mem := by simp -implicitDefEqProofs [takeRun]

@[simp] theorem tickLength_mem (s : State) : (tickLength s).mem = s.mem := by simp -implicitDefEqProofs [tickLength]

@[simp] theorem lateMaps_mem (s : State) : (lateMaps s).mem = s.mem := by simp -implicitDefEqProofs [lateMaps]

@[simp] theorem putSlot_mem (q : Nat) (v : LpaSlot) (s : State) : (putSlot q v s).mem = s.mem := by simp -implicitDefEqProofs [putSlot]

@[simp] theorem lpaSwap_mem (p : Nat) (s : State) : (lpaSwap p s).mem = s.mem := by simp -implicitDefEqProofs [lpaSwap]

@[simp] theorem putMoi_mem (m : Nat) (v : MoiCh) (s : State) : (putMoi m v s).mem = s.mem := by simp -implicitDefEqProofs [putMoi]

@[simp] theorem moiSwap_mem (s : State) : (moiSwap s).mem = s.mem := by simp -implicitDefEqProofs [moiSwap]

@[simp] theorem swapAreas_mem (p lo hi : Nat) (s : State) : (swapAreas p lo hi s).mem = s.mem := by simp -implicitDefEqProofs [swapAreas]

@[simp] theorem swapSets_mem (p : Nat) (s : State) : (swapSets p s).mem = s.mem := by
  unfold swapSets
  split <;> simp -implicitDefEqProofs

@[simp] theorem swapPage_mem (p : Nat) (s : State) : (swapPage p s).mem = s.mem := by simp -implicitDefEqProofs [swapPage]

@[simp] theorem fltBoundary_mem (s : State) : (fltBoundary s).mem = s.mem := by
  simp -implicitDefEqProofs [fltBoundary, settleClear, leaveScope, restartEngines]

@[simp] theorem putArea_mem (area : Nat) (t : Tab (List Word)) (s : State) : (putArea area t s).mem = s.mem := by
  simp -implicitDefEqProofs [putArea]

@[simp] theorem recCount_mem (s : State) : (recCount s).mem = s.mem := by simp -implicitDefEqProofs [recCount]

@[simp] theorem clearTick_mem (s : State) : (clearTick s).mem = s.mem := by
  unfold clearTick
  split <;> simp -implicitDefEqProofs

@[simp] theorem startPeriod_mem (m start : Nat) (s : State) : (startPeriod m start s).mem = s.mem := by
  unfold startPeriod
  dsimp only
  split <;> simp -implicitDefEqProofs

@[simp] theorem endCal_mem (result : Nat) (s : State) : (endCal result s).mem = s.mem := by
  unfold endCal
  split <;> simp -implicitDefEqProofs

@[simp] theorem calStopped_mem (m : Nat) (s : State) : (calStopped m s).mem = s.mem := by
  unfold calStopped
  split <;> simp -implicitDefEqProofs

@[simp] theorem moiChBoundary_mem (o : State) (m : Nat) (s : State) : (moiChBoundary o m s).mem = s.mem := by
  unfold moiChBoundary
  dsimp only
  split
  · simp -implicitDefEqProofs
  · split
    · simp
    · simp -implicitDefEqProofs

@[simp] theorem moiBoundary_mem (o s : State) : (moiBoundary o s).mem = s.mem := by
  simp -implicitDefEqProofs [moiBoundary, moiClampBoundary, missDue, staleMoi, verifyMoi]

@[simp] theorem hstBoundary_mem (o s : State) : (hstBoundary o s).mem = s.mem := by simp -implicitDefEqProofs [hstBoundary, endSilence]

@[simp] theorem prfBoundary_mem (o s : State) : (prfBoundary o s).mem = s.mem := by simp -implicitDefEqProofs [prfBoundary, putGen]

@[simp] theorem showImage_mem (e : Nat) (s : State) : (showImage e s).mem = s.mem := by simp -implicitDefEqProofs [showImage]

@[simp] theorem putEng_mem (e : Nat) (v : EngState) (s : State) : (putEng e v s).mem = s.mem := by simp -implicitDefEqProofs [putEng]

@[simp] theorem clearContexts_mem (e : Nat) (s : State) : (clearContexts e s).mem = s.mem := by simp -implicitDefEqProofs [clearContexts]

@[simp] theorem engRecord_mem (e cause : Nat) (s : State) : (engRecord e cause s).mem = s.mem := by simp -implicitDefEqProofs [engRecord]

@[simp] theorem engCrcCheck_mem (e : Nat) (s : State) : (engCrcCheck e s).mem = s.mem := by
  unfold engCrcCheck
  dsimp only
  split <;> simp -implicitDefEqProofs

@[simp] theorem publishEngine_mem (e : Nat) (s : State) : (publishEngine e s).mem = s.mem := by simp -implicitDefEqProofs [publishEngine]

@[simp] theorem slotBoundary_mem (o : State) (q : Nat) (s : State) : (slotBoundary o q s).mem = s.mem := by
  unfold slotBoundary
  dsimp only
  split <;> simp -implicitDefEqProofs

@[simp] theorem lpaBoundary_mem (o s : State) : (lpaBoundary o s).mem = s.mem := by simp -implicitDefEqProofs [lpaBoundary]

@[simp] theorem openParcel_mem (c slot vol : Nat) (s : State) : (openParcel c slot vol s).mem = s.mem := by
  simp -implicitDefEqProofs [openParcel, newParcel, putParcel]

@[simp] theorem startTower_mem (c : Nat) (s : State) : (startTower c s).mem = s.mem := by
  unfold startTower
  simp -implicitDefEqProofs

@[simp] theorem ldgBoundary_mem (o s : State) : (ldgBoundary o s).mem = s.mem := by
  simp -implicitDefEqProofs [ldgBoundary, colBoundary, setParcel, putParcel, pauseCol, dropSnap, stopCol]

@[simp] theorem setLegB_mem (f : Fld) (l : Nat) (b : Bool) (s : State) : (setLegB f l b s).mem = s.mem := by
  simp -implicitDefEqProofs [setLegB, setLegF]

@[simp] theorem putLeg_mem (l : Nat) (v : LegState) (s : State) : (putLeg l v s).mem = s.mem := by simp -implicitDefEqProofs [putLeg]

@[simp] theorem countOn_mem (l : Nat) (s : State) : (countOn l s).mem = s.mem := by
  unfold countOn
  dsimp only
  split <;> simp -implicitDefEqProofs

@[simp] theorem legTripClr_mem (l : Nat) (s : State) : (legTripClr l s).mem = s.mem := by simp -implicitDefEqProofs [legTripClr]

@[simp] theorem dinTake_mem (j : Nat) (v : Bool) (s : State) : (dinTake j v s).mem = s.mem := by simp -implicitDefEqProofs [dinTake]

@[simp] theorem putAo_mem (k : Nat) (v : AoState) (s : State) : (putAo k v s).mem = s.mem := by simp -implicitDefEqProofs [putAo]

@[simp] theorem putFan_mem (n : Nat) (v : FanState) (s : State) : (putFan n v s).mem = s.mem := by simp -implicitDefEqProofs [putFan]

@[simp] theorem putDo_mem (j : Nat) (v : DoState) (s : State) : (putDo j v s).mem = s.mem := by simp -implicitDefEqProofs [putDo]

@[simp] theorem putGov_mem (p u : Nat) (g : ChanGov) (s : State) : (putGov p u g s).mem = s.mem := by simp -implicitDefEqProofs [putGov]

@[simp] theorem releaseChan_mem (p u : Nat) (s : State) : (releaseChan p u s).mem = s.mem := by simp -implicitDefEqProofs [releaseChan]

@[simp] theorem aoBoundary_mem (o : State) (k : Nat) (s : State) : (aoBoundary o k s).mem = s.mem := by
  unfold aoBoundary
  dsimp only
  split <;> simp -implicitDefEqProofs

@[simp] theorem doTripEnd_mem (j : Nat) (s : State) : (doTripEnd j s).mem = s.mem := by simp -implicitDefEqProofs [doTripEnd]

@[simp] theorem driveBoundary_mem (o s : State) : (driveBoundary o s).mem = s.mem := by
  simp -implicitDefEqProofs [driveBoundary, vlvBoundary, legBoundary, legDuty, hsClear, dinBoundary, counterBoundary, putCnt, putDeb,
    dinRawChange, doBoundary, fanBoundary, fanBoundaryOne, fanPublish]

@[simp] theorem putCh_mem (c : Nat) (v : SnsCh) (s : State) : (putCh c v s).mem = s.mem := by simp -implicitDefEqProofs [putCh]

@[simp] theorem putBank_mem (b : Nat) (v : SnsBank) (s : State) : (putBank b v s).mem = s.mem := by simp -implicitDefEqProofs [putBank]

@[simp] theorem oweBank_mem (b q pos t : Nat) (s : State) : (oweBank b q pos t s).mem = s.mem := by
  simp -implicitDefEqProofs [oweBank, oweAt]

@[simp] theorem seqBoundary_mem (b : Nat) (s : State) : (seqBoundary b s).mem = s.mem := by
  simp -implicitDefEqProofs [seqBoundary, scanDone, oweNot, startPoint, putLoc]

@[simp] theorem clampBoundary_mem (ended : Nat) (b : Nat) (s : State) : (clampBoundary ended b s).mem = s.mem := by
  simp -implicitDefEqProofs [clampBoundary]

@[simp] theorem changeRange_mem (c new : Nat) (auto : Bool) (s : State) : (changeRange c new auto s).mem = s.mem := by
  simp -implicitDefEqProofs [changeRange]

@[simp] theorem idleRange_mem (c r : Nat) (s : State) : (idleRange c r s).mem = s.mem := by simp -implicitDefEqProofs [idleRange]

@[simp] theorem channelBoundary_mem (o : State) (c : Nat) (s : State) : (channelBoundary o c s).mem = s.mem := by
  unfold channelBoundary
  extract_lets p i was now s1 ch extend
  have ranged : s1.mem = s.mem := by
    unfold s1
    split <;> simp
  simp -implicitDefEqProofs [ranged]

@[simp] theorem frameEnds_mem (s : State) : (frameEnds s).mem = s.mem := by simp -implicitDefEqProofs [frameEnds, putLoc]

@[simp] theorem snsBoundary_mem (o s : State) : (snsBoundary o s).mem = s.mem := by simp -implicitDefEqProofs [snsBoundary]

@[simp] theorem pushAnchor_mem (reason : Nat) (s : State) : (pushAnchor reason s).mem = s.mem := by simp -implicitDefEqProofs [pushAnchor]

@[simp] theorem anchorAfterSet_mem (s : State) : (anchorAfterSet s).mem = s.mem := by
  unfold anchorAfterSet
  split <;> simp -implicitDefEqProofs

@[simp] theorem putRpt_mem (n : Nat) (v : RptOut) (s : State) : (putRpt n v s).mem = s.mem := by simp -implicitDefEqProofs [putRpt]

@[simp] theorem rptTake_mem (n : Nat) (v : Nat × Bool) (at_ : Nat) (s : State) : (rptTake n v at_ s).mem = s.mem := by
  simp -implicitDefEqProofs [rptTake]

@[simp] theorem rptCommit_mem (n : Nat) (s : State) : (rptCommit n s).mem = s.mem := by
  unfold rptCommit
  split <;> simp -implicitDefEqProofs

@[simp] theorem verifyRec_mem (loc : Nat) (s : State) : (verifyRec loc s).mem = s.mem := by simp -implicitDefEqProofs [verifyRec, putRec]

@[simp] theorem rptUpdate_mem (n : Nat) (s : State) : (rptUpdate n s).mem = s.mem := by
  unfold rptUpdate
  dsimp only
  split
  · rfl
  · split <;> simp -implicitDefEqProofs

@[simp] theorem rptBoundary_mem (o s : State) : (rptBoundary o s).mem = s.mem := by simp -implicitDefEqProofs [rptBoundary]

@[simp] theorem nextTickBegins_mem (s : State) : (nextTickBegins s).mem = s.mem := by simp -implicitDefEqProofs [nextTickBegins, drawCorr]

@[simp] theorem clockCheck_mem (oscLen : Nat) (s : State) : (clockCheck oscLen s).mem = s.mem := by
  simp -implicitDefEqProofs [clockCheck, raiseIf]

@[simp] theorem takeOwner_mem (o : State) (p : Nat) (s : State) : (takeOwner o p s).mem = s.mem := by simp -implicitDefEqProofs [takeOwner]

@[simp] theorem digBoundary_mem (s : State) : (digBoundary s).mem = s.mem := by simp -implicitDefEqProofs [digBoundary, putPair]

@[simp] theorem holdInstant_mem (n : TimeState) (s : State) : (holdInstant n s).mem = s.mem := by simp -implicitDefEqProofs [holdInstant]

@[simp] theorem refreshLeg_mem (l : Nat) (s : State) : (refreshLeg l s).mem = s.mem := by
  unfold refreshLeg
  dsimp only
  split <;> simp -implicitDefEqProofs

@[simp] theorem beginDecay_mem (l m : Nat) (s : State) : (beginDecay l m s).mem = s.mem := by
  simp -implicitDefEqProofs [beginDecay, refreshPair]

@[simp] theorem endProfile_mem (l st m : Nat) (s : State) : (endProfile l st m s).mem = s.mem := by
  simp -implicitDefEqProofs [endProfile, endRamp, setLegF]

@[simp] theorem govNote_mem (p u : Nat) (s : State) : (govNote p u s).mem = s.mem := by simp -implicitDefEqProofs [govNote]

@[simp] theorem doDrive_mem (j : Nat) (s : State) : (doDrive j s).mem = s.mem := by simp -implicitDefEqProofs [doDrive]

@[simp] theorem aoDrive_mem (k : Nat) (s : State) : (aoDrive k s).mem = s.mem := by simp -implicitDefEqProofs [aoDrive]

@[simp] theorem dropRecord_mem (r : RecReq) (s : State) : (dropRecord r s).mem = s.mem := by
  simp -implicitDefEqProofs [dropRecord, noteCount]

@[simp] theorem atPhase_mem (p c : Nat) (s : State) : (atPhase p c s).mem = s.mem := by simp -implicitDefEqProofs [atPhase]

@[simp] theorem resumeBackground_mem (e : Nat) (s : State) : (resumeBackground e s).mem = s.mem := by
  simp -implicitDefEqProofs [resumeBackground]

@[simp] theorem probFail_mem (e cause : Nat) (s : State) : (probFail e cause s).mem = s.mem := by
  unfold probFail
  dsimp only
  split <;> simp -implicitDefEqProofs

@[simp] theorem clearPerm_mem (s : State) : (clearPerm s).mem = s.mem := by simp -implicitDefEqProofs [clearPerm]

@[simp] theorem nvWriteFail_mem (off : Nat) (s : State) : (nvWriteFail off s).mem = s.mem := by simp -implicitDefEqProofs [nvWriteFail]

@[simp] theorem touchHolds_mem (party : Party) (a k : Nat) (read : Bool) (s : State) : (touchHolds party a k read s).mem = s.mem := by
  simp -implicitDefEqProofs [touchHolds]

@[simp] theorem wrParty_mem (party : Party) (a : Nat) (v : Word) (s : State) : (wrParty party a v s).mem = s.mem := by rw [wrParty]

@[simp] theorem regAdvance_mem (party : Party) (p off : Nat) (read : Bool) (s : State) : (regAdvance party p off read s).mem = s.mem :=
  busOnly_mem (regAdvance_busOnly ..)

@[simp] theorem loseWrite_mem (r : BusReq) (s : State) : (loseWrite r s).mem = s.mem := by
  unfold loseWrite
  extract_lets s1 s2
  have advanced : s2.mem = s1.mem := by
    unfold s2
    split <;> simp
  simp [advanced, s1]

@[simp] theorem noteWas_mem (a : Nat) (old : Option Word) (s : State) : (noteWas a old s).mem = s.mem := by
  unfold noteWas
  split <;> simp -implicitDefEqProofs

@[simp] theorem storeFields_mem (cx : WriteCx) (s : State) : (storeFields cx s).mem = s.mem := by simp -implicitDefEqProofs [storeFields]

@[simp] theorem commandStore_mem (command bad : Bool) (cx : WriteCx) (s : State) : (commandStore command bad cx s).Leaves s.mem := by
  simp -implicitDefEqProofs [commandStore, noteCommand]

@[simp] theorem storeUnless_mem (bad : Bool) (cx : WriteCx) (s : State) : (storeUnless bad cx s).Leaves s.mem := by
  simp -implicitDefEqProofs [storeUnless]

@[simp] theorem douWrite_mem (cx : WriteCx) (s : State) : (douWrite cx s).Leaves s.mem := by
  unfold douWrite
  dsimp only
  split
  · simp
  · split
    · split
      · split
        · next judged => simp -implicitDefEqProofs [(commandStore_mem ..).of_ok judged]
        · simp
      · simp
    · simp

@[simp] theorem rptWrite_mem (cx : WriteCx) (s : State) : (rptWrite cx s).Leaves s.mem := by simp -implicitDefEqProofs [rptWrite]

@[simp] theorem hstWrite_mem (cx : WriteCx) (s : State) : (hstWrite cx s).Leaves s.mem := by
  simp -implicitDefEqProofs [hstWrite, keepAliveNow, endSilence]

@[simp] theorem setShd_mem (p area word : Nat) (v : Word) (s : State) : (setShd p area word v s).mem = s.mem := by rw [setShd]

@[simp] theorem lpaWinWrite_mem (cx : WriteCx) (s : State) : (lpaWinWrite cx s).Leaves s.mem := by simp -implicitDefEqProofs [lpaWinWrite]

@[simp] theorem lpaRecord_mem (p cause slot : Nat) (s : State) : (lpaRecord p cause slot s).mem = s.mem := by
  simp -implicitDefEqProofs [lpaRecord]

@[simp] theorem lpaWrite_mem (cx : WriteCx) (s : State) : (lpaWrite cx s).Leaves s.mem := by
  unfold lpaWrite
  dsimp only
  split
  · split
    · split
      · simp
      · split <;> simp
    · simp
  · simp -implicitDefEqProofs

@[simp] theorem engWrite_mem (cx : WriteCx) (s : State) : (engWrite cx s).Leaves s.mem := by simp -implicitDefEqProofs [engWrite]

@[simp] theorem snsWrite_mem (cx : WriteCx) (s : State) : (snsWrite cx s).Leaves s.mem := by simp -implicitDefEqProofs [snsWrite, coefWrite]

@[simp] theorem commitStart_mem (cid : Nat) (s : State) : (commitStart cid s).Leaves s.mem := by simp -implicitDefEqProofs [commitStart]

@[simp] theorem cmtCtrl_mem (cx : WriteCx) (s : State) : (cmtCtrl cx s).Leaves s.mem := by
  unfold cmtCtrl
  simp -implicitDefEqProofs [← storeFields_mem cx s, - storeFields_mem]

@[simp] theorem setAct_mem (p area word : Nat) (v : Word) (s : State) : (setAct p area word v s).mem = s.mem := by rw [setAct]

@[simp] theorem lnkWinWrite_mem (cx : WriteCx) (s : State) : (lnkWinWrite cx s).Leaves s.mem := by
  unfold lnkWinWrite
  dsimp only
  simp -implicitDefEqProofs

@[simp] theorem lnkWrite_mem (cx : WriteCx) (s : State) : (lnkWrite cx s).Leaves s.mem := by
  simp -implicitDefEqProofs [lnkWrite, dqueryStart, sendFrame, sendOut]

@[simp] theorem digWrite_mem (cx : WriteCx) (s : State) : (digWrite cx s).Leaves s.mem := by
  simp -implicitDefEqProofs [digWrite, shadowStart]

@[simp] theorem tickWrite_mem (cx : WriteCx) (s : State) : (tickWrite cx s).Leaves s.mem := by simp -implicitDefEqProofs [tickWrite]

@[simp] theorem putCan_mem (p : Nat) (v : CanState) (s : State) : (putCan p v s).mem = s.mem := by simp -implicitDefEqProofs [putCan]

@[simp] theorem noteOffer_mem (p : Nat) (s : State) : (noteOffer p s).mem = s.mem := by
  unfold noteOffer
  split <;> simp -implicitDefEqProofs

@[simp] theorem canWrite_mem (cx : WriteCx) (s : State) : (canWrite cx s).Leaves s.mem := by
  simp -implicitDefEqProofs [canWrite, moWrite, putMo, txRequest, putMoBit, txAbort]

@[simp] theorem pairCheck_mem (p k ovl : Nat) (cur : Nat → Word) (cx : WriteCx) (s : State) : (pairCheck p k ovl cur cx s).Leaves s.mem := by
  simp -implicitDefEqProofs [pairCheck]

@[simp] theorem legCommand_mem (l op onT : Nat) (s : State) : (legCommand l op onT s).Leaves s.mem := by
  simp -implicitDefEqProofs [legCommand]

@[simp] theorem vlvWrite_mem (cx : WriteCx) (s : State) : (vlvWrite cx s).Leaves s.mem := by
  have paired (k ovl : Nat) (cur : Nat → Word) : (pairCheck cx.page k ovl cur cx s).Leaves s.mem := pairCheck_mem ..
  unfold vlvWrite
  extract_lets p i l k stored cleared leg cur
  have stays : cleared.mem = s.mem := by simp [cleared, stored]
  split
  · split
    · simp [stays]
    · split
      · simp
      · simp [k, p, paired]
  · split
    · split
      · simp
      · split
        · next judged => simp [(paired ..).of_ok judged]
        · exact paired ..
    · simp

@[simp] theorem pwrWrite_mem (cx : WriteCx) (s : State) : (pwrWrite cx s).Leaves s.mem := by
  simp -implicitDefEqProofs [pwrWrite, modeRequest]

@[simp] theorem trcWrite_mem (cx : WriteCx) (s : State) : (trcWrite cx s).Leaves s.mem := by
  simp -implicitDefEqProofs [trcWrite, trcCmd, putTrc, trcFill]

@[simp] theorem prfWrite_mem (cx : WriteCx) (s : State) : (prfWrite cx s).Leaves s.mem := by
  simp -implicitDefEqProofs [prfWrite, prfWinWrite]

@[simp] theorem clkWrite_mem (cx : WriteCx) (s : State) : (clkWrite cx s).Leaves s.mem := by
  simp -implicitDefEqProofs [clkWrite, clockSetTo]

@[simp] theorem applyClear_mem (k : Nat) (s : State) : (applyClear k s).mem = s.mem := by simp -implicitDefEqProofs [applyClear]

@[simp] theorem clearScopes_mem (ks : List Nat) (s : State) : (clearScopes ks s).Leaves s.mem := by simp -implicitDefEqProofs [clearScopes]

@[simp] theorem fltClr_mem (party : Party) (key scope : Nat) (s : State) : (fltClr party key scope s).Leaves s.mem := by
  unfold fltClr
  extract_lets mine op closed off
  have cleared : (clearScopes (List.range 9) off).Leaves s.mem := clearScopes_mem (List.range 9) off
  have kept : off.mem = s.mem := rfl
  simp [cleared, kept]

@[simp] theorem fltWrite_mem (cx : WriteCx) (s : State) : (fltWrite cx s).Leaves s.mem := by simp -implicitDefEqProofs [fltWrite, sevWrite]

@[simp] theorem dinWrite_mem (cx : WriteCx) (s : State) : (dinWrite cx s).Leaves s.mem := by simp -implicitDefEqProofs [dinWrite]

@[simp] theorem swapChk_mem (m cause : Nat) (s : State) : (swapChk m cause s).mem = s.mem := by simp -implicitDefEqProofs [swapChk]

@[simp] theorem tblWrite_mem (cx : WriteCx) (s : State) : (tblWrite cx s).Leaves s.mem := by simp -implicitDefEqProofs [tblWrite]

@[simp] theorem calWrite_mem (cx : WriteCx) (s : State) : (calWrite cx s).Leaves s.mem := by
  unfold calWrite
  dsimp only
  split <;> simp -implicitDefEqProofs

@[simp] theorem moiWrite_mem (cx : WriteCx) (s : State) : (moiWrite cx s).Leaves s.mem := by
  unfold moiWrite
  dsimp only
  split
  · split
    · split
      · simp
      · split <;> simp
    · simp
  · simp

@[simp] theorem fanWrite_mem (cx : WriteCx) (s : State) : (fanWrite cx s).Leaves s.mem := by
  simp -implicitDefEqProofs [fanWrite, fanWinWrite, fanAgeReset]

@[simp] theorem ldgWinWrite_mem (cx : WriteCx) (s : State) : (ldgWinWrite cx s).Leaves s.mem := by simp -implicitDefEqProofs [ldgWinWrite]

@[simp] theorem usable_mem (locs : List Nat) (s : State) : (usable locs s).1.mem = s.mem := foldl_mem (fun _ _ => verifyParcel_mem ..) _ _

@[simp] theorem batchRecord_mem (c : Nat) (s : State) : (batchRecord c s).mem = s.mem := by
  unfold batchRecord
  simp -implicitDefEqProofs

@[simp] theorem ldgCmd_mem (c cmd : Nat) (s : State) : (ldgCmd c cmd s).Leaves s.mem := by
  simp -implicitDefEqProofs [ldgCmd, ldgInit, newParcel, putParcel]

@[simp] theorem ldgRecord_mem (c cause : Nat) (s : State) : (ldgRecord c cause s).mem = s.mem := by simp -implicitDefEqProofs [ldgRecord]

@[simp] theorem ldgWrite_mem (cx : WriteCx) (s : State) : (ldgWrite cx s).Leaves s.mem := by
  unfold ldgWrite
  split
  · extract_lets c k stopped get new read t
    have checked : t.mem = s.mem := by simp [t]
    split
    · split
      · simp
      · split <;> simp [checked]
    · simp
  · simp

@[simp] theorem recWrite_mem (cx : WriteCx) (s : State) : (recWrite cx s).Leaves s.mem := by
  simp -implicitDefEqProofs [recWrite, recClr, clearCount]

@[simp] theorem aouWrite_mem (cx : WriteCx) (s : State) : (aouWrite cx s).Leaves s.mem := by simp -implicitDefEqProofs [aouWrite]

@[simp] theorem devWrite_mem (cx : WriteCx) (s : State) : (devWrite cx s).Leaves s.mem := by
  simp -implicitDefEqProofs [devWrite, swrstWrite, clearCount]

@[simp] theorem wchWrite_mem (cx : WriteCx) (s : State) : (wchWrite cx s).Leaves s.mem := by
  simp -implicitDefEqProofs [wchWrite, wchCoefWrite]

@[simp] theorem lpaSwapCheck_mem (p : Nat) (s : State) : (lpaSwapCheck p s).Leaves s.mem := by
  unfold lpaSwapCheck
  split <;> simp -implicitDefEqProofs

@[simp] theorem engSwapReq_mem (e : Nat) (dataClr : Bool) (s : State) : (engSwapReq e dataClr s).Leaves s.mem := by
  simp -implicitDefEqProofs [engSwapReq]

@[simp] theorem ldgSwapCheck_mem (s : State) : (ldgSwapCheck s).Leaves s.mem := by
  unfold ldgSwapCheck
  split <;> simp -implicitDefEqProofs

@[simp] theorem moiSwapCheck_mem (s : State) : (moiSwapCheck s).Leaves s.mem := by
  unfold moiSwapCheck
  split <;> simp -implicitDefEqProofs

@[simp] theorem swapRequest_mem (p : Nat) (dataClr : Bool) (s : State) : (swapRequest p dataClr s).Leaves s.mem := by
  unfold swapRequest
  extract_lets pend
  have pended {r : WrOut} (h : r.Leaves s.mem) : (pend r).Leaves s.mem := by
    unfold pend
    split
    · simpa using h
    · exact h
  split
  · simp
  · exact pended (moiSwapCheck_mem s)
  · exact pended (lpaSwapCheck_mem p s)
  · exact pended (ldgSwapCheck_mem s)
  · exact pended ((leaves_ok ..).2 rfl)
  · simp

@[simp] theorem snsCtrl_mem (cx : WriteCx) (s : State) : (snsCtrl cx s).Leaves s.mem := by simp -implicitDefEqProofs [snsCtrl]

@[simp] theorem canCtrl_mem (cx : WriteCx) (s : State) : (canCtrl cx s).Leaves s.mem := by
  simp -implicitDefEqProofs [canCtrl, canRecoverNow]

@[simp] theorem ctrlBlock_mem (cx : WriteCx) (s : State) : (ctrlBlock cx s).Leaves s.mem := by
  unfold ctrlBlock
  split <;> simp -implicitDefEqProofs

@[simp] theorem moiSoftRst_mem (s : State) : (moiSoftRst s).mem = s.mem := by simp -implicitDefEqProofs [moiSoftRst]

@[simp] theorem ldgSoftRst_mem (s : State) : (ldgSoftRst s).mem = s.mem := by simp -implicitDefEqProofs [ldgSoftRst, stopCol, dropSnap]

@[simp] theorem aouSoftRst_mem (s : State) : (aouSoftRst s).mem = s.mem := by simp -implicitDefEqProofs [aouSoftRst]

@[simp] theorem snsSoftRst_mem (p : Nat) (s : State) : (snsSoftRst p s).mem = s.mem := by simp -implicitDefEqProofs [snsSoftRst]

@[simp] theorem endTachLost_mem (n : Nat) (s : State) : (endTachLost n s).mem = s.mem := collectOnly_mem (endTachLost_only ..)

@[simp] theorem fanSoftRst_mem (s : State) : (fanSoftRst s).mem = s.mem := by simp -implicitDefEqProofs [fanSoftRst]

@[simp] theorem dinSoftRst_mem (s : State) : (dinSoftRst s).mem = s.mem := by simp -implicitDefEqProofs [dinSoftRst]

@[simp] theorem prfSoftRst_mem (s : State) : (prfSoftRst s).mem = s.mem := by simp -implicitDefEqProofs [prfSoftRst, putGen]

@[simp] theorem canSoftRst_mem (p : Nat) (s : State) : (canSoftRst p s).mem = s.mem := by simp -implicitDefEqProofs [canSoftRst]

@[simp] theorem vlvSoftRst_mem (p : Nat) (s : State) : (vlvSoftRst p s).mem = s.mem := by simp -implicitDefEqProofs [vlvSoftRst, hsClear]

@[simp] theorem engSoftRst_mem (p : Nat) (s : State) : (engSoftRst p s).mem = s.mem := by simp -implicitDefEqProofs [engSoftRst]

@[simp] theorem doReadbackEnd_mem (j : Nat) (s : State) : (doReadbackEnd j s).mem = s.mem := by simp -implicitDefEqProofs [doReadbackEnd]

@[simp] theorem douSoftRst_mem (s : State) : (douSoftRst s).mem = s.mem := by simp -implicitDefEqProofs [douSoftRst]

@[simp] theorem lpaSoftRst_mem (p : Nat) (s : State) : (lpaSoftRst p s).mem = s.mem := by simp -implicitDefEqProofs [lpaSoftRst]

@[simp] theorem softRst_mem (p : Nat) (s : State) : (softRst p s).mem = s.mem := by
  unfold softRst
  split <;> simp -implicitDefEqProofs

@[simp] theorem ctrlWrite_mem (cx : WriteCx) (s : State) : (ctrlWrite cx s).Leaves s.mem := by
  unfold ctrlWrite
  extract_lets p
  split
  · simp
  · split
    · next s1 blocked =>
      have first := (ctrlBlock_mem cx s).of_ok blocked
      have asked : (if cxHas cx 2 && doubleBuffered p s then swapRequest p (cxHas cx 16) s1 else .ok s1).Leaves s.mem := by
        split
        · exact leaves_congr (swapRequest_mem ..) first
        · exact (leaves_ok ..).2 first
      split
      · next s2 swapped => simp [asked.of_ok swapped]
      · split
        · next s' refused => exact (leaves_refuseTo ..).2 ((swapRequest_mem ..).of_refuseTo refused)
        · simp
      · exact asked
    · exact ctrlBlock_mem cx s

@[simp] theorem commonWrite_mem (cx : WriteCx) (s : State) : (commonWrite cx s).Leaves s.mem := by
  simp -implicitDefEqProofs [commonWrite, dinEdge, finjWrite, lockWrite]

@[simp] theorem shadowTouched_mem (p : Nat) (s : State) : (shadowTouched p s).mem = s.mem := by
  unfold shadowTouched
  split <;> simp -implicitDefEqProofs

@[simp] theorem parcelWrite_mem (party : Party) (loc w : Nat) (v : Word) (s : State) : (parcelWrite party loc w v s).Leaves s.mem := by
  simp -implicitDefEqProofs [parcelWrite, setParcel, putParcel, newParcel]

@[simp] theorem noteRun_mem (seen : State) (r : BusReq) (old s : State) : (noteRun seen r old s).mem = s.mem := by
  unfold noteRun
  split <;> simp -implicitDefEqProofs

@[simp] theorem putCtx_mem (e : Nat) (l : Lane) (c : EngCtx) (s : State) : (putCtx e l c s).mem = s.mem := by
  unfold putCtx
  split <;> simp -implicitDefEqProofs

@[simp] theorem countWrite_mem (e : Nat) (r : Res) (s : State) : (countWrite e r s).mem = s.mem := by
  unfold countWrite
  split <;> simp -implicitDefEqProofs

@[simp] theorem tellEngine_tell_mem (n : Fin 16) (r : BusReq) (res : Res) (s : State) : (tellEngine.tell n r res s).mem = s.mem := by
  simp -implicitDefEqProofs [tellEngine.tell, noteCycle]

@[simp] theorem tellEngine_mem (n : Fin 16) (r : BusReq) (res : Res) (s : State) : (tellEngine n r res s).mem = s.mem := by
  unfold tellEngine
  dsimp only
  split
  · split <;> simp -implicitDefEqProofs
  · simp

@[simp] theorem tellEngines_mem (rs : List BusReq) (out : List Res) (s : State) : (tellEngines rs out s).mem = s.mem := by
  refine foldl_mem (fun s x => ?_) _ _
  split <;> simp

@[simp] theorem report_mem (party : Party) (a : Nat) (res : Res) (s : State) : (report party a res s).mem = s.mem := by
  simp -implicitDefEqProofs [report]

@[simp] theorem hostEnd_mem (s : State) : (hostEnd s).mem = s.mem := by
  unfold hostEnd
  (repeat' split) <;> simp -implicitDefEqProofs

@[simp] theorem hostBegin_mem (s : State) : (hostBegin s).mem = s.mem := by simp -implicitDefEqProofs [hostBegin]

@[simp] theorem hostViolation_mem (cause : Nat) (s : State) : (hostViolation cause s).mem = s.mem := by
  simp -implicitDefEqProofs [hostViolation]

@[simp] theorem hostReply_mem (q : HostReq) (bytes : List Nat) (last : Option (Word × Option (List Word))) (s : State) :
    (hostReply q bytes last s).mem = s.mem := by
  simp -implicitDefEqProofs [hostReply]

@[simp] theorem hostRefuse_mem (rd : Bool) (q : HostReq) (res : Nat) (known : Bool) (s : State) : (hostRefuse rd q res known s).mem = s.mem := by
  simp [hostRefuse]

@[simp] theorem makeHold_mem (party : Party) (words : List (Nat × Word)) (scope : HoldScope) (once : Bool) (s : State) :
    (makeHold party words scope once s).mem = s.mem := by
  simp -implicitDefEqProofs [makeHold]

@[simp] theorem regReadHold_mem (party : Party) (p off : Nat) (s : State) : (regReadHold party p off s).mem = s.mem :=
  busOnly_mem (regReadHold_busOnly ..)

@[simp] theorem nvsOutcome_mem (result : Nat) (s : State) : (nvsOutcome result s).mem = s.mem := by simp -implicitDefEqProofs [nvsOutcome]

@[simp] theorem rejectEntry_mem (ix : Nat) (s : State) : (rejectEntry ix s).mem = s.mem := by simp -implicitDefEqProofs [rejectEntry]

@[simp] theorem factorySet_mem (p : Nat) (was s : State) : (factorySet p was s).mem = s.mem := by simp -implicitDefEqProofs [factorySet]

@[simp] theorem rejectSwap_mem (p : Nat) (s : State) : (rejectSwap p s).mem = s.mem := by simp -implicitDefEqProofs [rejectSwap]

@[simp] theorem loadBoundary_mem (ps : List Nat) (s : State) : (loadBoundary ps s).mem = s.mem := by
  simp -implicitDefEqProofs [loadBoundary, forcePages, wrForce]

@[simp] theorem putRecSlot_mem (area slot : Nat) (ws : List Word) (s : State) : (putRecSlot area slot ws s).mem = s.mem := by
  simp -implicitDefEqProofs [putRecSlot]

@[simp] theorem storeRecord_mem (area slot : Nat) (r : RecReq) (s : State) : (storeRecord area slot r s).mem = s.mem := by
  simp -implicitDefEqProofs [storeRecord]

@[simp] theorem wchHeld_mem (s : State) : (wchHeld s).mem = s.mem := by simp -implicitDefEqProofs [wchHeld]

@[simp] theorem histRecord_mem (it : WatchInterval) (hotTh : Int) (s : State) : (histRecord it hotTh s).2.mem = s.mem := by
  unfold histRecord
  rfl

@[simp] theorem closeInterval_mem (s : State) : (closeInterval s).mem = s.mem := by
  unfold closeInterval
  split
  · rfl
  · simp -implicitDefEqProofs

@[simp] theorem nvTake_mem (n : Nat) (s : State) : (nvTake n s).2.mem = s.mem := by
  unfold nvTake
  split
  · rfl
  · split
    · rfl
    · split <;> rfl

@[simp] theorem writeSlot_mem (area slot : Nat) (r : RecReq) (s : State) : (writeSlot area slot r s).1.mem = s.mem := by
  unfold writeSlot
  dsimp only
  split <;> simp -implicitDefEqProofs

@[simp] theorem placeService_mem (r : RecReq) (s : State) : (placeService r s).1.mem = s.mem := by
  unfold placeService
  split <;> simp -implicitDefEqProofs

@[simp] theorem transferRecord_mem (ws : List Word) (s : State) : (transferRecord ws s).1.mem = s.mem := by
  simp [transferRecord]

@[simp] theorem transferOne_mem (ws : List Word) (s : State) : (transferOne ws s).1.mem = s.mem := by
  unfold transferOne
  rcases placed : transferRecord ws s with ⟨s1, ok⟩
  have kept : s1.mem = s.mem := by simpa [placed] using transferRecord_mem ws s
  rcases taken : (if ok ∧ s1.nvs.stop.any (·.cut) then nvTake 1 s1 else (b2n ok, s1)) with ⟨m, s2⟩
  have second : s2.mem = s1.mem := by
    split at taken
    · simpa [taken] using nvTake_mem 1 s1
    · cases taken
      rfl
  dsimp only
  rw [taken]
  dsimp only
  split <;> simp -implicitDefEqProofs [second, kept]

@[simp] theorem transferInterval_mem (rs : List (List Word)) (s : State) : (transferInterval rs s).1.mem = s.mem :=
  foldl_fst_mem (by intro a ws; exact transferOne_mem ws a.1) rs (s, 0, [])

@[simp] theorem watchTransfer_mem (s : State) : (watchTransfer s).mem = s.mem := by
  unfold watchTransfer
  extract_lets s1
  split
  next s2 n left moved =>
    have second : s2.mem = s1.mem := (congrArg (·.1.mem) moved).symm.trans (foldl_fst_mem (by intro a it; exact transferInterval_mem it a.1) ..)
    simp -implicitDefEqProofs [second, s1]

@[simp] theorem putStep_mem (n : Nat) (s : State) : (putStep n s).mem = s.mem := by simp -implicitDefEqProofs [putStep]

@[simp] theorem loadRecords_mem (s : State) : (loadRecords s).mem = s.mem := by
  simp -implicitDefEqProofs [loadRecords, heldMessages, recScan, recResume]

@[simp] theorem computeOutputs_mem (m : LandSense) (s : State) : (computeOutputs m s).mem = s.mem := by
  simp -implicitDefEqProofs [computeOutputs, takeSense, setLegF, fanPhase40, fanState, fanKickCheck, fanStall, fanBackoff, fanKick,
    fanTemperature, verifySrc, verifyMoi]

@[simp] theorem landLost_mem (k : Nat) (s : State) : (landLost k s).mem = s.mem := by simp -implicitDefEqProofs [landLost]

@[simp] theorem legPhase40_mem (l : Nat) (s : State) : (legPhase40 l s).mem = s.mem := by simp -implicitDefEqProofs [legPhase40]

@[simp] theorem releaseDest_mem (s : State) (d : Nat) : (releaseDest s d).mem = s.mem := by simp -implicitDefEqProofs [releaseDest]

@[simp] theorem govPhase40_mem (p u : Nat) (s : State) : (govPhase40 p u s).mem = s.mem := by simp -implicitDefEqProofs [govPhase40]

@[simp] theorem fanCommands_mem (n : Nat) (s : State) : (fanCommands n s).mem = s.mem := by simp -implicitDefEqProofs [fanCommands]

@[simp] theorem aoCommands_mem (k : Nat) (s : State) : (aoCommands k s).mem = s.mem := by simp -implicitDefEqProofs [aoCommands]

@[simp] theorem landApply_mem (p u owner : Nat) (v : Word) (s : State) : (landApply p u owner v s).mem = s.mem := by
  unfold landApply
  dsimp only
  split
  · simp -implicitDefEqProofs
  · split
    · split <;> simp -implicitDefEqProofs
    · simp -implicitDefEqProofs

@[simp] theorem landResult_mem (q r : Nat) (s : State) : (landResult q r s).mem = s.mem := by simp -implicitDefEqProofs [landResult]

@[simp] theorem doCommands_mem (j : Nat) (s : State) : (doCommands j s).mem = s.mem := by simp -implicitDefEqProofs [doCommands]

@[simp] theorem restCtx_mem (e : Nat) (l : Lane) (s : State) : (restCtx e l s).mem = s.mem := by
  unfold restCtx
  split <;> simp -implicitDefEqProofs

@[simp] theorem engTrap_mem (e : Nat) (l : Lane) (cause pc : Nat) (s : State) : (engTrap e l cause pc s).mem = s.mem := by
  simp -implicitDefEqProofs [engTrap, noteTrap]

@[simp] theorem atLane_mem (l : Lane) (n : Nat) (s : State) : (atLane l n s).mem = s.mem := by
  unfold atLane
  split <;> simp -implicitDefEqProofs

@[simp] theorem engAfter_mem (e : Nat) (l : Lane) (m : EngForm) (pc start used : Nat) (s : State) : (engAfter e l m pc start used s).mem = s.mem := by
  simp -implicitDefEqProofs [engAfter, fetchCheck]

@[simp] theorem putPcond_mem (c : EngAt) (res : Nat) (stale : Bool) (s : State) : (putPcond c res stale s).mem = s.mem := by
  simp -implicitDefEqProofs [putPcond]

@[simp] theorem watchPowerUp_mem (s : State) : (watchPowerUp s).mem = s.mem := by simp -implicitDefEqProofs [watchPowerUp]

@[simp] theorem targetEnd_mem (st outcome : Nat) (results : List Nat) (s : State) : (targetEnd st outcome results s).mem = s.mem := by
  unfold targetEnd
  split <;> simp -implicitDefEqProofs

@[simp] theorem placeRead_mem (party : Party) (held : Option Word) (pl : Place) (s : State) : (placeRead party held pl s).2.2.mem = s.mem := by
  unfold placeRead
  cases pl with
  | register p off d => cases held <;> simp
  | parcel loc w =>
    cases held with
    | some v => rfl
    | none => simp -implicitDefEqProofs
  | nowhere | unpowered | engine | trace => rfl

@[simp] theorem busRead_mem (party : Party) (a : Nat) (s : State) : (busRead party a s).2.2.mem = s.mem := by
  simp -implicitDefEqProofs [busRead]

@[simp] theorem readAccess_mem (party : Party) (a : Nat) (s : State) : (readAccess party a s).mem = s.mem := by
  simp -implicitDefEqProofs [readAccess]

@[simp] theorem regRead_mem (party : Party) (page off : Nat) (s : State) : (regRead party page off s).mem = s.mem := by
  simp -implicitDefEqProofs [regRead]

@[simp] theorem noteCause_mem (bit : Nat) (s : State) : (noteCause bit s).mem = s.mem := by simp -implicitDefEqProofs [noteCause]

@[simp] theorem leaveDeep_mem (s : State) : (leaveDeep s).mem = s.mem := by simp -implicitDefEqProofs [leaveDeep]

@[simp] theorem startCauses_mem (s : State) : (startCauses s).mem = s.mem := by simp -implicitDefEqProofs [startCauses]

@[simp] theorem scanOver_mem (abandon : Nat) (s : State) : (scanOver abandon s).mem = s.mem := by
  unfold scanOver
  dsimp only
  split <;> simp -implicitDefEqProofs

@[simp] theorem scanAbandon_mem (brownout : Bool) (s : State) : (scanAbandon brownout s).mem = s.mem := by
  simp -implicitDefEqProofs [scanAbandon]

@[simp] theorem wakeAlarm_mem (s : State) : (wakeAlarm s).mem = s.mem := by
  unfold wakeAlarm
  split <;> simp -implicitDefEqProofs

@[simp] theorem tapLoad_mem (ir : TapIr) (s : State) : (tapLoad ir s).mem = s.mem := by simp -implicitDefEqProofs [tapLoad]

@[simp] theorem showDomains_mem (on : Bool) (s : State) : (showDomains on s).mem = s.mem := by simp -implicitDefEqProofs [showDomains]

@[simp] theorem moiPowerOff_mem (s : State) : (moiPowerOff s).mem = s.mem := by simp -implicitDefEqProofs [moiPowerOff]

@[simp] theorem snsPowerOff_mem (s : State) : (snsPowerOff s).mem = s.mem := by simp -implicitDefEqProofs [snsPowerOff, oweAt]

@[simp] theorem domainsOff_mem (s : State) : (domainsOff s).mem = s.mem := by simp -implicitDefEqProofs [domainsOff]

@[simp] theorem modeInForce_mem (m : Nat) (s : State) : (modeInForce m s).mem = s.mem := by simp -implicitDefEqProofs [modeInForce]

end Sys2Proof.Machine
end

section
/-! PROOFS. What writes bytes of the memory keeps its canonical form: engines and their banks, the stores of the NV memory, judged writes. -/
namespace Sys2Proof.Machine

/-- The memory of a state has its canonical form. -/
structure Canonical (s : State) : Prop where
  wf : Memory.wf s.mem = true

theorem Canonical.of_mem {s t : State} (h : Canonical s) (same : t.mem = s.mem) : Canonical t := ⟨same ▸ h.wf⟩

/-- The state that stands first in a pair has a canonical memory. -/
structure FstCanonical {α : Type} (x : State × α) : Prop where
  state : Canonical x.1

theorem Canonical.first {α : Type} {s : State} (a : α) (c : Canonical s) : FstCanonical (s, a) := ⟨c⟩

theorem Canonical.snd {α : Type} {x : α × State} {t : State} {a : α} (c : Canonical x.2) (h : x = (a, t)) : Canonical t := by
  rw [h] at c
  exact c

theorem setB_canonical (f : Fld) (p u : Nat) (b : Bool) {s : State} (c : Canonical s) : Canonical (setB f p u b s) := c.of_mem (setB_mem ..)

theorem putEng_canonical (e : Nat) (x : EngState) {s : State} (c : Canonical s) : Canonical (putEng e x s) := c.of_mem (putEng_mem ..)

theorem wrWord_canonical (a : Nat) (v : Word) {s : State} (c : Canonical s) : Canonical (wrWord s a v) := ⟨wrWord_wf a v c.wf⟩

theorem zeroRange_canonical (a b : Nat) {s : State} (c : Canonical s) : Canonical (zeroRange a b s) := ⟨zeroRange_wf a b c.wf⟩

theorem copyRange_canonical (a b n : Nat) {s : State} (c : Canonical s) : Canonical (copyRange a b n s) := ⟨copyRange_wf a b n c.wf⟩

theorem putData_canonical (e a v n : Nat) {s : State} (c : Canonical s) : Canonical (putData e a v n s) := ⟨putData_wf e a v n c.wf⟩

theorem foldl_canonical {β : Type} {f : State → β → State} (h : ∀ s b, Canonical s → Canonical (f s b)) (l : List β) {s : State} (c : Canonical s) :
    Canonical (l.foldl f s) :=
  List.foldlRecOn (motive := Canonical) l f c fun s hs b _ => h s b hs

theorem forN_canonical {n : Nat} {f : Nat → State → State} (h : ∀ i s, Canonical s → Canonical (f i s)) {s : State} (c : Canonical s) :
    Canonical (forN n f s) :=
  foldl_canonical (fun s i => h i s) _ c

/-- Every state that a judged write leaves has a canonical memory. -/
@[irreducible] def WrOut.Canonical : WrOut → Prop
  | .ok t | .refuseTo t => Machine.Canonical t
  | .refuse | .held => True

@[simp] theorem canonical_ok (t : State) : (WrOut.ok t).Canonical ↔ Canonical t := by rw [WrOut.Canonical]

@[simp] theorem canonical_refuseTo (t : State) : (WrOut.refuseTo t).Canonical ↔ Canonical t := by rw [WrOut.Canonical]

@[simp] theorem canonical_refuse : WrOut.refuse.Canonical := by rw [WrOut.Canonical]; trivial

@[simp] theorem canonical_held : WrOut.held.Canonical := by rw [WrOut.Canonical]; trivial

theorem WrOut.Leaves.canonical {r : WrOut} {s : State} (h : r.Leaves s.mem) (c : Machine.Canonical s) : r.Canonical := by
  cases r with
  | ok t => exact (canonical_ok t).2 (c.of_mem ((leaves_ok ..).1 h))
  | refuseTo t => exact (canonical_refuseTo t).2 (c.of_mem ((leaves_refuseTo ..).1 h))
  | refuse => exact canonical_refuse
  | held => exact canonical_held

/-! ### The banks of the engines -/

theorem exchangeBanks_canonical (e : Nat) (clr : Bool) {s : State} (c : Canonical s) : Canonical (exchangeBanks e clr s) := by
  unfold exchangeBanks
  extract_lets p x s1 s2 s3
  have first : Canonical s2 := c.of_mem (by simp -implicitDefEqProofs [s2, s1])
  have second : Canonical s3 := by
    unfold s3
    split
    · exact zeroRange_canonical _ _ first
    · exact first
  exact second.of_mem (by simp -implicitDefEqProofs)

theorem engReturn_canonical (e : Nat) {s : State} (c : Canonical s) : Canonical (engReturn e s) := by
  unfold engReturn
  extract_lets x
  split
  · exact c
  · exact (exchangeBanks_canonical e _ (c.of_mem (putEng_mem ..))).of_mem (setB_mem ..)

theorem engSwap_canonical (halted : Bool) (e : Nat) {s : State} (c : Canonical s) : Canonical (engSwap halted e s) := by
  have checked : Canonical (engCrcCheck e s) := c.of_mem (engCrcCheck_mem ..)
  have swapped (clr : Bool) (x : EngState) : Canonical (exchangeBanks e clr (putEng e x (engCrcCheck e s))) :=
    exchangeBanks_canonical e clr (checked.of_mem (putEng_mem ..))
  have shown {t : State} (h : Canonical t) :
      Canonical (setIrq (engPg e) 1 (setB CMN.STAT_SWAP_PEND (engPg e) 0 false (setB ENG.STAT_SWAP_RET (engPg e) 0 false t))) :=
    (setB_canonical _ _ _ _ (setB_canonical _ _ _ _ h)).of_mem (setIrq_mem ..)
  unfold engSwap
  split
  · exact c
  · dsimp only
    split
    · split
      · exact checked
      · split
        · exact shown (swapped ..)
        · exact setB_canonical _ _ _ _ (putEng_canonical _ _ (shown (swapped ..)))
    · exact c

theorem engBoundary_canonical (o : State) (e : Nat) {s : State} (c : Canonical s) : Canonical (engBoundary o e s) := by
  unfold engBoundary
  extract_lets p used s1 s2 s3 x s4
  have swapped : Canonical s2 := engSwap_canonical _ e (engReturn_canonical e (c.of_mem (by simp -implicitDefEqProofs [s1])))
  exact swapped.of_mem (by simp -implicitDefEqProofs [s4, s3])

theorem blockBoundaries_canonical (o : State) {s : State} (c : Canonical s) : Canonical (blockBoundaries o s) :=
  (forN_canonical (n := 16) (fun e t h => engBoundary_canonical o e h) c).of_mem (by simp -implicitDefEqProofs [blockBoundaries])

theorem tickBoundary_canonical (oscLen : Nat) (rails : RailMv) {s : State} (c : Canonical s) : Canonical (tickBoundary oscLen rails s) := by
  unfold tickBoundary
  extract_lets o cargo s1 s2 s3 s4 s5 s6
  have ready : Canonical s4 := c.of_mem (by simp -implicitDefEqProofs [s4, s3, s2, s1])
  have passed : Canonical s5 := (blockBoundaries_canonical o ready).of_mem (by simp -implicitDefEqProofs [s5])
  exact passed.of_mem (by simp -implicitDefEqProofs [s6])

theorem returnNow_canonical (e : Nat) {s : State} (c : Canonical s) : Canonical (returnNow e s) := by
  unfold returnNow
  split
  · extract_lets on s1
    have returned : Canonical s1 := engReturn_canonical e c
    split
    · exact returned.of_mem (by simp -implicitDefEqProofs)
    · exact returned
  · exact c

theorem reachUs_mem {n : Nat} {s t : State} (h : reachUs n s = some t) : t.mem = s.mem := by
  unfold reachUs at h
  split at h
  · cases h
  · split at h <;> cases h
    · simp
    · rfl

theorem probationTimeout_canonical (e : Nat) {s : State} (c : Canonical s) : Canonical (probationTimeout e s) := by
  unfold probationTimeout
  split
  · exact c
  · split
    · exact c
    · next t reached => exact returnNow_canonical e (c.of_mem ((probFail_mem ..).trans (reachUs_mem reached)))

/-! ### The words of the NV memory -/

theorem putNv_canonical (off : Nat) (v : Word) {s : State} (c : Canonical s) : Canonical (putNv off v s) := wrWord_canonical _ _ c

theorem nvStopped_canonical (off : Nat) {s : State} (c : Canonical s) : Canonical (nvStopped off s) := by
  unfold nvStopped
  split
  · exact c
  · exact (putNv_canonical off _ (c.of_mem (drawWord_mem s))).of_mem (nvWriteFail_mem ..)

theorem nvPut_canonical (off : Nat) (v : Word) {s : State} (c : Canonical s) : Canonical (nvPut off v s) := by
  have taken : Canonical (nvTake 1 s).2 := c.of_mem (nvTake_mem 1 s)
  unfold nvPut
  split
  · exact c
  · dsimp only
    split
    · exact putNv_canonical off v taken
    · exact nvStopped_canonical off taken

theorem nvPuts_canonical (ws : List (Nat × Word)) {s : State} (c : Canonical s) : Canonical (nvPuts ws s) :=
  foldl_canonical (fun _ w h => nvPut_canonical w.1 w.2 h) ws c

theorem cutCommand_canonical {s : State} (c : Canonical s) : Canonical (cutCommand s) := by
  unfold cutCommand
  split
  · exact c
  · exact nvPuts_canonical _ (c.of_mem rfl)

/-- A device reset leaves of the memory the cells of the NV store. -/
theorem resetDevice_canonical (warm : Bool) {s : State} (c : Canonical s) : Canonical (resetDevice warm s) := by
  have cut : Canonical (cutCommand (if warm then s else clearPerm s)) := cutCommand_canonical (c.of_mem (by simp -implicitDefEqProofs))
  exact ⟨tabWf_sublist (List.filter_sublist ..) cut.wf⟩

theorem softwareReset_canonical {s : State} (c : Canonical s) : Canonical (softwareReset s) := by
  unfold softwareReset
  split
  · exact resetDevice_canonical true c
  · exact c

theorem putRegion_canonical (base st : Nat) {s : State} (c : Canonical s) : Canonical (putRegion base st s) := nvPut_canonical _ _ c

theorem confirmImage_canonical {s : State} (c : Canonical s) : Canonical (confirmImage s) := by
  unfold confirmImage
  extract_lets st svn s1
  have stored : Canonical s1 := putRegion_canonical _ _ (nvPut_canonical _ _ (nvPut_canonical _ _ c))
  split
  · split
    · exact stored
    · exact stored.of_mem (by simp -implicitDefEqProofs)
  · exact c

/-! ### Judged writes -/

theorem nvsCommand_canonical (key cmd eng : Nat) {s : State} (c : Canonical s) : (nvsCommand key cmd eng s).Canonical := by
  unfold nvsCommand
  extract_lets image ask nvs s1 s2
  have asked : Canonical s2 := by
    unfold s2
    split
    · exact putNv_canonical _ _ (c.of_mem rfl)
    · exact c.of_mem rfl
  split
  · exact canonical_refuse
  · exact (canonical_ok _).2 (asked.of_mem (by simp -implicitDefEqProofs))

theorem nvDataWrite_canonical (party : Party) (v : Word) {s : State} (c : Canonical s) : (nvDataWrite party v s).Canonical := by
  unfold nvDataWrite
  extract_lets off s1
  have stored : Canonical s1 := nvPut_canonical _ _ (by
    split
    · exact putNv_canonical _ _ c
    · exact c)
  split
  · split
    · exact (canonical_refuseTo _).2 stored
    · exact (canonical_ok _).2 stored
  · exact canonical_refuse

theorem nvsWrite_canonical (cx : WriteCx) {s : State} (c : Canonical s) : (nvsWrite cx s).Canonical := by
  have confirmed := confirmImage_canonical c
  unfold nvsWrite
  split
  · exact (storeUnless_mem ..).canonical c
  · split
    · exact nvDataWrite_canonical _ _ c
    · split
      · split
        · exact nvsCommand_canonical _ _ _ c
        · exact canonical_refuse
      · split
        · split
          · exact (canonical_ok _).2 c
          · split
            · dsimp only
              split
              · exact (canonical_refuseTo _).2 confirmed
              · exact (canonical_ok _).2 confirmed
            · exact canonical_refuse
        · exact (canonical_ok _).2 (c.of_mem (by simp -implicitDefEqProofs))

theorem blockWrite_canonical (cx : WriteCx) {s : State} (c : Canonical s) : (blockWrite cx s).Canonical := by
  unfold blockWrite
  split
  case h_7 => exact nvsWrite_canonical cx c
  all_goals
    refine WrOut.Leaves.canonical ?_ c
    simp

theorem judgeReg_canonical (cx : WriteCx) {s : State} (c : Canonical s) : (judgeReg cx s).Canonical := by
  unfold judgeReg
  split
  · exact canonical_refuse
  · split
    · exact (canonical_ok _).2 c
    · split
      · exact (commonWrite_mem ..).canonical c
      · exact blockWrite_canonical cx c

theorem placeWriteSeen_canonical (seen : State) (party : Party) (data : Word) (pl : Place) {s : State} (c : Canonical s) :
    Canonical (placeWriteSeen seen party data pl s).2 := by
  unfold placeWriteSeen
  extract_lets settle
  have settled {r : WrOut} (h : r.Canonical) : Canonical (settle r).2 := by
    cases r with
    | ok t => exact (canonical_ok t).1 h
    | refuseTo t => exact (canonical_refuseTo t).1 h
    | refuse | held => exact c
  cases pl with
  | nowhere | unpowered | trace => exact c
  | register p off d =>
    have judged := settled (judgeReg_canonical (cycleCx seen party data p off d s) c)
    exact judged.of_mem (by simp -implicitDefEqProofs)
  | engine e off =>
    dsimp only
    split
    · exact c
    · have stored : Canonical (wrWord s (engWinAddr e off s) data) := wrWord_canonical _ _ c
      exact stored.of_mem (by simp -implicitDefEqProofs)
  | parcel loc w =>
    dsimp only
    split
    · exact c
    · exact settled ((parcelWrite_mem ..).canonical c)

theorem busWriteSeen_canonical (seen : State) (r : BusReq) {s : State} (c : Canonical s) : Canonical (busWriteSeen seen r s).2 := by
  unfold busWriteSeen
  extract_lets t pl
  have written : Canonical (placeWriteSeen seen r.party r.data pl t).2 := placeWriteSeen_canonical _ _ _ _ (c.of_mem (by simp -implicitDefEqProofs [t]))
  exact written.of_mem (by simp -implicitDefEqProofs)

theorem busWrite_canonical (r : BusReq) {s : State} (c : Canonical s) : Canonical (busWrite r s).2 := by
  unfold busWrite
  split
  · exact c.of_mem (loseWrite_mem r s)
  · exact busWriteSeen_canonical s r c

theorem writeAccess_canonical (r : BusReq) {s : State} (c : Canonical s) : Canonical (writeAccess r s) :=
  (busWrite_canonical r c).of_mem rfl

theorem regWrite_canonical (party : Party) (page off : Nat) (w : Word) {s : State} (c : Canonical s) : Canonical (regWrite party page off w s) :=
  writeAccess_canonical _ c

theorem keyWrite_canonical (party : Party) (page off key rest : Nat) {s : State} (c : Canonical s) : Canonical (keyWrite party page off key rest s) :=
  regWrite_canonical party page off _ c

/-! ### The writes of one cycle -/

theorem cycleWrite_canonical (seen : State) (acc : List (Nat × Nat) × List Res × State) (r : BusReq) (c : Canonical acc.2.2) :
    Canonical (cycleWrite seen acc r).2.2 := by
  obtain ⟨taken, out, s⟩ := acc
  unfold cycleWrite
  extract_lets mine
  dsimp only
  split
  · exact c.of_mem (by simp -implicitDefEqProofs)
  · exact (busWriteSeen_canonical seen r c).of_mem (by simp -implicitDefEqProofs)

theorem cycleFold_canonical (seen : State) (rs : List BusReq) {acc : List (Nat × Nat) × List Res × State} (c : Canonical acc.2.2) :
    Canonical (rs.foldl (cycleWrite seen) acc).2.2 :=
  List.foldlRecOn (motive := fun a => Canonical a.2.2) rs _ c fun a h r _ => cycleWrite_canonical seen a r h

theorem cycleWrites_canonical (rs : List BusReq) {s : State} (c : Canonical s) : Canonical (cycleWrites rs s).2 :=
  cycleFold_canonical s (sortBy (fun r => r.party.rank) rs) (acc := ([], [], s)) c

theorem cycleCommand_canonical (rs : List BusReq) {s : State} (c : Canonical s) : Canonical (cycleCommand rs s) :=
  (cycleWrites_canonical rs c).of_mem (by simp -implicitDefEqProofs [cycleCommand])

theorem contestedWrite_canonical (r : BusReq) (rivals : List BusReq) {s : State} (c : Canonical s) : Canonical (contestedWrite r rivals s).2 := by
  unfold contestedWrite
  split
  · exact c
  · extract_lets rs
    exact (cycleWrites_canonical (r :: rs) c).of_mem (by simp -implicitDefEqProofs)

theorem cycleMore_canonical (seen : State) (acc : List (Nat × Nat) × State) (rs : List BusReq) (c : Canonical acc.2) :
    Canonical (cycleMore seen acc rs).2 := by
  unfold cycleMore
  extract_lets order
  exact (cycleFold_canonical seen order (acc := (acc.1, [], acc.2)) c).of_mem (by simp -implicitDefEqProofs)

end Sys2Proof.Machine
end

section
/-! PROOFS. The canonical form of the memory through the operations of the supervisor, of the frames, of the engines and of the resets. -/
namespace Sys2Proof.Machine

/-! ### The NV commands and the image of a start -/

theorem withStop_canonical (x : Option NvStop) {f : State → State} (h : ∀ s, Canonical s → Canonical (f s)) {s : State} (c : Canonical s) :
    Canonical (withStop x f s) := by
  have done := h { s with nvs := { s.nvs with stop := x, ended := false } } (c.of_mem rfl)
  exact done.of_mem rfl

theorem nvsFinish_canonical (d : NvsCmd) {s : State} (c : Canonical s) : Canonical (nvsFinish d s) := by
  have put : Canonical (nvPuts (nvsWrites d s) s) := nvPuts_canonical _ c
  exact put.of_mem (by simp -implicitDefEqProofs [nvsFinish])

theorem nvsDone_canonical (failed : Option Nat) {s : State} (c : Canonical s) : Canonical (nvsDone failed s) := by
  unfold nvsDone
  split
  · exact c
  · split
    · exact c
    · exact withStop_canonical _ (fun t h => nvsFinish_canonical _ h) c

theorem nvCopy_canonical (src dst n : Nat) {s : State} (c : Canonical s) : Canonical (nvCopy src dst n s) := by
  have taken : Canonical (nvTake (n / 4) s).2 := c.of_mem (nvTake_mem ..)
  unfold nvCopy
  split
  · exact c
  · dsimp only
    split
    · exact copyRange_canonical _ _ _ taken
    · exact nvStopped_canonical _ (copyRange_canonical _ _ _ taken)

theorem copyRegion_canonical (src dst : Nat) {s : State} (c : Canonical s) : Canonical (copyRegion src dst s) :=
  nvCopy_canonical _ _ _ (nvCopy_canonical _ _ _ (putRegion_canonical _ _ c))

theorem putSlip_canonical (st : Nat) {s : State} (c : Canonical s) : Canonical (putSlip st s) := nvPut_canonical _ _ c

theorem copySlipway_canonical {s : State} (c : Canonical s) : Canonical (copySlipway s) := by
  unfold copySlipway
  refine forN_canonical (fun n t h => ?_) (nvCopy_canonical _ _ _ (nvCopy_canonical _ _ _ (putRegion_canonical _ _ c)))
  split
  · exact nvCopy_canonical _ _ _ h
  · exact h

theorem restoreImage_canonical (cause : Nat) {s : State} (c : Canonical s) : FstCanonical (restoreImage cause s) := by
  have copied : Canonical (putRegion runImg 4 (copyRegion backImg runImg s)) := putRegion_canonical _ _ (copyRegion_canonical _ _ c)
  unfold restoreImage
  split
  · extract_lets s1 s2
    have told : Canonical s2 := copied.of_mem ((setIrq_mem ..).trans (setF_mem ..))
    split
    · exact copied.first _
    · exact Canonical.first _ (told.of_mem ((raise_mem ..).trans (setB_mem ..)))
  · exact c.first _

theorem selectRunning_canonical (fail : Nat) {s : State} (c : Canonical s) : FstCanonical (selectRunning fail s) := by
  unfold selectRunning
  extract_lets st s1
  split
  · exact restoreImage_canonical fail c
  · split
    · exact restoreImage_canonical 2 c
    · split
      · exact (nvPut_canonical _ _ c).first _
      · split
        · exact c.first _
        · exact restoreImage_canonical 3 c

theorem selectImage_canonical (fail : Nat) {s : State} (c : Canonical s) : FstCanonical (selectImage fail s) := by
  have rejected : Canonical (putSlip 4 s) := putSlip_canonical _ c
  have kept : Canonical (if regionState runImg s = 3 then putRegion backImg 3 (copyRegion runImg backImg s) else s) := by
    split
    · exact putRegion_canonical _ _ (copyRegion_canonical _ _ c)
    · exact c
  have taken := putSlip_canonical 5 (putRegion_canonical runImg 2 (nvPut_canonical (runImg + 0xF04) 1 (copySlipway_canonical kept)))
  unfold selectImage
  split
  · extract_lets cause s1 s2 s3
    split
    · split
      · exact taken.first _
      · exact (setB_canonical _ _ _ _ taken).first _
    · split
      · exact rejected.first _
      · exact selectRunning_canonical fail (rejected.of_mem (setF_mem ..))
  · exact selectRunning_canonical fail c

-- The body comes in through an equation of functions: the kernel, asked to unfold the applied function, would run the selection of the image.
theorem supervisorRun_canonical (fail : Nat) {s : State} (c : Canonical s) : FstCanonical (supervisorRun fail s) := by
  have selected := selectImage_canonical fail (setB_canonical DEV.BOOT_COPY 0 0 false c)
  have body : supervisorRun = supervisorRun := rfl
  conv at body => rhs; delta supervisorRun
  rw [body]
  beta_reduce
  extract_lets +onlyGivenNames s1
  change FstCanonical (selectImage fail s1) at selected
  generalize selectImage fail s1 = x at selected
  obtain ⟨t, ok⟩ := x
  exact Canonical.first _ (selected.state.of_mem rfl)

theorem loadBanks_canonical (factory : Bool) {s : State} (c : Canonical s) : Canonical (loadBanks factory s) := by
  unfold loadBanks
  refine forN_canonical (fun e t h => ?_) c
  extract_lets slot
  refine Canonical.of_mem ?_ (showImage_mem ..)
  split
  · exact copyRange_canonical _ _ _ h
  · exact h

/-! ### The profiles that a start loads -/

theorem loadWrite_canonical (a : Nat) (v : Word) {s : State} (c : Canonical s) : Canonical (loadWrite a v s).1 :=
  busWrite_canonical ⟨.sup, a, v⟩ c

theorem loadWords_canonical (a : Nat) (ws : List Word) {s : State} (c : Canonical s) : Canonical (loadWords a ws s).1 := by
  induction ws generalizing s with
  | nil => exact c
  | cons w ws ih =>
    unfold loadWords
    dsimp only
    split
    · exact ih (loadWrite_canonical a w c)
    · exact loadWrite_canonical a w c

theorem loadEntry_canonical (e : ProfEntry) {s : State} (c : Canonical s) : Canonical (loadEntry e s).1 := by
  cases e with
  | reg a mask value =>
    unfold loadEntry
    dsimp only
    split
    · split
      · split
        · exact loadWrite_canonical a _ c
        · exact c
      · split
        · exact c
        · split
          · exact loadWrite_canonical a _ c
          · exact c
    · exact c
  | run a w1 data =>
    unfold loadEntry
    dsimp only
    split
    · exact c
    · split
      · exact loadWords_canonical a data (loadWrite_canonical _ _ c)
      · exact loadWrite_canonical _ _ c

theorem loadEntries_canonical (keep : ProfEntry → Bool) (es : List ProfEntry) {s : State} (c : Canonical s) : Canonical (loadEntries keep es s) := by
  unfold loadEntries
  refine foldl_canonical (fun t e h => ?_) _ c
  dsimp only
  split
  · exact loadEntry_canonical e.1 h
  · exact (loadEntry_canonical e.1 h).of_mem (rejectEntry_mem ..)

theorem loadSwap_canonical (was : State) (p : Nat) {s : State} (c : Canonical s) : Canonical (loadSwap was s p) := by
  unfold loadSwap
  dsimp only
  split
  · exact loadWrite_canonical _ _ c
  · exact (loadWrite_canonical _ _ c).of_mem ((rejectSwap_mem ..).trans (factorySet_mem ..))

theorem loadSets_canonical (want : Nat → Bool) (user : Option Nat) {s : State} (c : Canonical s) : Canonical (loadSets want user s) := by
  unfold loadSets
  extract_lets fact mine s1 es s2 s3
  have entered : Canonical s2 := loadEntries_canonical _ _ (loadEntries_canonical _ _ c)
  have swapped : Canonical s3 := foldl_canonical (fun t p h => loadSwap_canonical s1 p h) _ entered
  exact swapped.of_mem (loadBoundary_mem ..)

theorem profileLoad_canonical (factory : Bool) {s : State} (c : Canonical s) : Canonical (profileLoad factory s) := by
  unfold profileLoad
  extract_lets user s1 s2 s3 want s4
  have shown : Canonical s3 := by
    have first : Canonical s2 := c.of_mem (by simp -implicitDefEqProofs [s2, s1])
    unfold s3
    cases user with
    | none => exact setB_canonical _ _ _ _ first
    | some k => exact first.of_mem ((setF_mem ..).trans (setF_mem ..))
  have loaded : Canonical s4 := loadSets_canonical want user shown
  have entered (f : Nat → ProfEntry → Bool) (es : List ProfEntry) {t : State} (h : Canonical t) :
      Canonical (forN 64 (fun p a => if want p then loadEntries (f p) es a else a) t) := by
    refine forN_canonical (fun p t h => ?_) h
    split
    · exact loadEntries_canonical _ _ h
    · exact h
  cases user with
  | none => exact loaded
  | some k => exact entered _ _ (entered _ _ loaded)

-- The body comes in through an equation of functions, as for `supervisorRun`.
theorem startFrom3_canonical {s : State} (c : Canonical s) : Canonical (startFrom3 s) := by
  have run := supervisorRun_canonical 0 (c.of_mem (putStep_mem 3 s))
  have body : startFrom3 = startFrom3 := rfl
  conv at body => rhs; delta startFrom3
  rw [body]
  beta_reduce
  extract_lets +onlyGivenNames factory
  generalize supervisorRun 0 (putStep 3 s) = x at run
  obtain ⟨t, ok⟩ := x
  have shown := setB_canonical DEV.BOOT_NOIMG 0 0 (!ok && !nvCut t) run.state
  refine iteInduction (fun _ => ?_) (fun _ => shown)
  refine Canonical.of_mem ?_ ((loadRecords_mem _).trans (putStep_mem ..))
  exact profileLoad_canonical _ ((loadBanks_canonical _ shown).of_mem (putStep_mem ..))

theorem supervisorStart_canonical {s : State} (c : Canonical s) : Canonical (supervisorStart s) := by
  unfold supervisorStart
  split
  · exact c
  · next cause _ =>
    have run := supervisorRun_canonical cause (setB_canonical NVS.STAT_SUPSTART nvsPg 0 true c)
    refine iteInduction (fun _ => c) (fun _ => iteInduction (fun _ => ?_) (fun _ => ?_))
    · have settled : Canonical { s with nvs := { s.nvs with ask := none } } := c.of_mem rfl
      exact (startFrom3_canonical settled).of_mem (nvsOutcome_mem ..)
    · generalize supervisorRun cause (setB NVS.STAT_SUPSTART nvsPg 0 true s) = x at run
      obtain ⟨t, ok⟩ := x
      have shown := setB_canonical DEV.BOOT_NOIMG 0 0 (!ok && !nvCut t) run.state
      exact iteInduction (fun _ => shown.of_mem (nvsOutcome_mem ..)) (fun _ => shown)

/-! ### The frames of the host interface -/

theorem hostReads_mem (q : HostReq) (k n : Nat) (out : List Nat × List Word) (s : State) : (hostReads q k n out s).2.mem = s.mem := by
  induction n generalizing k out s with
  | zero => rfl
  | succ n ih =>
    unfold hostReads
    split
    next w res t read =>
      have kept : t.mem = s.mem := (congrArg (·.2.2.mem) read).symm.trans (busRead_mem ..)
      exact (ih ..).trans ((report_mem ..).trans kept)

theorem hostWrites_canonical (q : HostReq) (k : Nat) (ws : List Word) (rivals : List (List BusReq)) (out : List Nat) {s : State} (c : Canonical s) :
    Canonical (hostWrites q k ws rivals out s).2 := by
  induction ws generalizing k rivals out s with
  | nil => exact c
  | cons w ws ih =>
    unfold hostWrites
    split
    next res t wrote => exact ih _ _ _ ((contestedWrite_canonical _ _ c).snd wrote)

theorem hostFrame_canonical (rd : Bool) (q : HostReq) (rivals : List (List BusReq)) {s : State} (c : Canonical s) :
    Canonical (hostFrame rd q rivals s) := by
  unfold hostFrame
  extract_lets n short was s1 s2 sil done
  have begun : Canonical s1 := c.of_mem (by simp -implicitDefEqProofs [s1])
  have replied (rs : List Nat) (ws : List Word) {t : State} (h : Canonical t) : Canonical (done rs ws t) := h.of_mem (hostReply_mem ..)
  split
  · split
    · exact begun.of_mem (by simp -implicitDefEqProofs [s2])
    · exact begun.of_mem (by simp -implicitDefEqProofs [s2])
  · split
    · exact begun.of_mem (by simp -implicitDefEqProofs)
    · split
      · exact begun.of_mem (by simp -implicitDefEqProofs)
      · split
        · exact begun.of_mem (by simp -implicitDefEqProofs)
        · split
          · split
            next rs ws t read =>
              have kept : t.mem = s1.mem := (congrArg (·.2.mem) read).symm.trans (hostReads_mem ..)
              exact replied _ _ (begun.of_mem kept)
          · split
            next rs t wrote => exact replied _ _ ((hostWrites_canonical _ _ _ _ _ begun).snd wrote)

/-! ### Landings, stores and writes of ports -/

theorem landItem_canonical (seen : State) (acc : List (Nat × Nat) × State) (i : LandItem) (c : Canonical acc.2) : Canonical (landItem seen acc i).2 := by
  obtain ⟨taken, s⟩ := acc
  unfold landItem
  cases i with
  | other r => exact cycleWrite_canonical seen (taken, [], s) r c
  | slot q d owner v =>
    dsimp only
    split
    · exact c.of_mem (landResult_mem ..)
    · split
      · exact c.of_mem (landResult_mem ..)
      · exact c.of_mem ((landResult_mem ..).trans (landApply_mem ..))

theorem landFold_canonical (seen : State) (items : List LandItem) (taken : List (Nat × Nat)) {s : State} (c : Canonical s) :
    Canonical (items.foldl (landItem seen) (taken, s)).2 :=
  List.foldlRecOn (motive := fun a => Canonical a.2) items _ c fun a h i _ => landItem_canonical seen a i h

theorem landing_canonical (contenders : List BusReq) (sense : LandSense) {s : State} (c : Canonical s) : Canonical (landing contenders sense s) := by
  unfold landing
  extract_lets s1 s2 s3 s4 items
  have legs : Canonical s2 := c.of_mem ((forN_mem legPhase40_mem s1).trans (atPhase_mem ..))
  have placed : Canonical s3 := legs.of_mem ((forN_mem aoCommands_mem _).trans ((forN_mem doCommands_mem _).trans (forN_mem fanCommands_mem _)))
  have ready : Canonical s4 := placed.of_mem (foldl_mem (fun _ _ => releaseDest_mem ..) _ _)
  have landed : Canonical (items.foldl (landItem s4) ([], s4)).2 := landFold_canonical s4 items [] ready
  exact landed.of_mem (by simp -implicitDefEqProofs)

theorem engRun_canonical (c : EngAt) (m : EngForm) {f : Nat → State → EngOut} {s : State} (w : Canonical s)
    (go : ∀ start t u, Canonical t → f start t = .go u → Canonical u) (noJump : ∀ start t pc u, f start t ≠ .jump pc u)
    (noStop : ∀ start t u, f start t ≠ .stop u) : Canonical (engRun c m f s) := by
  unfold engRun
  extract_lets e l x start extra s1 used
  have placed : Canonical s1 := w.of_mem (atLane_mem ..)
  split
  · exact w
  · split
    · exact w.of_mem (by simp -implicitDefEqProofs)
    · split
      · exact w
      · split
        · exact w.of_mem (putCtx_mem ..)
        · split
          · exact placed.of_mem (engTrap_mem ..)
          · split
            · next u acts => exact (go _ _ _ placed acts).of_mem (engAfter_mem ..)
            · next acts => exact absurd acts (noJump _ _ _ _)
            · next acts => exact absurd acts (noStop _ _ _)
            · exact placed.of_mem (engTrap_mem ..)

theorem storeAmong_canonical (c : EngAt) (n addr v : Nat) (rivals : List BusReq) {s : State} (w : Canonical s) :
    Canonical (storeAmong c n addr v rivals s) := by
  unfold storeAmong
  extract_lets e mine rs unit
  have before := cycleMore_canonical s ([], s) (rs.filter fun r => decide (r.party.rank < mine.rank)) w
  split
  next taken s1 begun =>
    have first := before.snd begun
    refine cycleMore_canonical _ _ _ ?_
    dsimp only
    split
    · exact first.of_mem ((countWrite_mem ..).trans (putPcond_mem ..))
    · exact putData_canonical _ _ _ _ first

theorem runStore_canonical (c : EngAt) (sub n : Nat) (d a : Fin 32) (imm : BitVec 16) (rivals : List BusReq) {s : State} (w : Canonical s) :
    Canonical (runStore c sub n d a imm rivals s) := by
  refine engRun_canonical c _ w (fun _ t u h acts => ?_) (fun _ t pc u acts => ?_) (fun _ t u acts => ?_)
  all_goals
    dsimp only at acts
    split at acts <;> cases acts
  exact storeAmong_canonical _ _ _ _ _ h

theorem runPwr_canonical (c : EngAt) (d a : Fin 32) (imm : BitVec 16) (took : Fin 805) (rivals : List BusReq) {s : State} (w : Canonical s) :
    Canonical (runPwr c d a imm took rivals s) := by
  refine engRun_canonical c _ w (fun _ t u h acts => ?_) (fun _ t pc u acts => ?_) (fun _ t u acts => ?_)
  all_goals
    dsimp only at acts
    split at acts <;> cases acts
  · exact h.of_mem (putPcond_mem ..)
  · have settled := contestedWrite_canonical ⟨.eng c.eng, portAddr c a imm t, gOf c d t⟩ rivals h
    refine Canonical.of_mem ?_ (putPcond_mem ..)
    exact iteInduction (fun _ => settled) (fun _ => settled.of_mem (countWrite_mem ..))

theorem postedOutcome_canonical (eng : Fin 16) (rivals : List BusReq) {s : State} (c : Canonical s) : Canonical (postedOutcome eng rivals s) := by
  unfold postedOutcome
  split
  · exact c
  · next q rest _ =>
    extract_lets +onlyGivenNames x s1
    have settled : Canonical (contestedWrite ⟨.eng eng, q.addr, q.data⟩ rivals s1).2 := contestedWrite_canonical _ rivals (putEng_canonical _ _ c)
    generalize contestedWrite ⟨.eng eng, q.addr, q.data⟩ rivals s1 = x at settled
    obtain ⟨r, t⟩ := x
    exact settled.of_mem ((countWrite_mem ..).trans (putEng_mem ..))

/-! ### Committed writes, resets and the test access port -/

theorem commitWrites_canonical (ws : List (Word × Word)) (rivals : List (List BusReq)) (out : List Nat) {s : State} (c : Canonical s) :
    Canonical (commitWrites ws rivals out s).2 := by
  induction ws generalizing rivals out s with
  | nil => exact c
  | cons w ws ih =>
    unfold commitWrites
    split
    next r t wrote => exact ih _ _ ((contestedWrite_canonical _ _ c).snd wrote)

theorem commitApply_canonical (rivals : List (List BusReq)) {s : State} (c : Canonical s) : Canonical (commitApply rivals s) := by
  unfold commitApply
  split
  · exact c
  · next t _ =>
    have ready : Canonical (atPhase 42 0 s) := c.of_mem (atPhase_mem ..)
    split
    · refine iteInduction (fun _ => ?_) (fun _ => ?_)
      · split
        next rs u wrote => exact ((commitWrites_canonical t.writes rivals [] ready).snd wrote).of_mem (targetEnd_mem ..)
      · exact ready.of_mem (by simp -implicitDefEqProofs)
    · exact c

theorem nvDataAccess_canonical (party : Party) (write : Option Word) (failed : Bool) {s : State} (c : Canonical s) :
    Canonical (nvDataAccess party write failed s) := by
  cases write with
  | none => exact c.of_mem (regRead_mem ..)
  | some w => exact withStop_canonical _ (fun t h => regWrite_canonical _ _ _ _ h) c

theorem resetBy_canonical (bit : Nat) (warm : Bool) {s : State} (c : Canonical s) : Canonical (resetBy bit warm s) :=
  resetDevice_canonical warm (c.of_mem (noteCause_mem ..))

theorem supplyReset_canonical (rail : Rail) {s : State} (c : Canonical s) : Canonical (supplyReset rail s) := by
  unfold supplyReset
  split
  · exact c
  · exact resetBy_canonical _ _ c

theorem resetPin_canonical (pin : ResetPin) {s : State} (c : Canonical s) : Canonical (resetPin pin s) := by
  unfold resetPin
  split
  · exact resetBy_canonical _ _ c
  · exact resetBy_canonical _ _ c
  · exact c.of_mem (by simp -implicitDefEqProofs)
  · exact c.of_mem (leaveDeep_mem s)

theorem deviceStart_canonical (boot vddio : Nat) {s : State} (c : Canonical s) : Canonical (deviceStart boot vddio s) := by
  unfold deviceStart
  extract_lets pwr s1 s2 s3 s4
  have ready : Canonical s4 := c.of_mem (by simp -implicitDefEqProofs [s4, s3, s2, s1])
  split
  · exact c
  · split
    · exact ready.of_mem rfl
    · exact startFrom3_canonical ready

theorem thermalReset_canonical {s : State} (c : Canonical s) : Canonical (thermalReset s) := by
  unfold thermalReset
  split
  · exact c
  · exact resetBy_canonical _ _ c

theorem deepEntry_canonical {s : State} (c : Canonical s) : Canonical (deepEntry s) := by
  have reset := resetDevice_canonical false c
  unfold deepEntry
  split
  · exact c
  · split
    · exact reset.of_mem rfl
    · exact c

theorem debugRelease_canonical {s : State} (c : Canonical s) : Canonical (debugRelease s) := by
  unfold debugRelease
  split
  · exact startFrom3_canonical (c.of_mem rfl)
  · exact c

theorem tapAccess_canonical (addr : Nat) (write : Option Word) {s : State} (c : Canonical s) : Canonical (tapAccess addr write s) := by
  have loaded : Canonical (tapLoad .debug s) := c.of_mem (tapLoad_mem ..)
  unfold tapAccess
  dsimp only
  split
  · split
    · exact writeAccess_canonical _ loaded
    · exact loaded.of_mem (readAccess_mem ..)
  · exact loaded

theorem domainsOn_canonical {s : State} (c : Canonical s) : Canonical (domainsOn s) := by
  have shown : Canonical (scanAbandon false (showDomains true { s with pwr := { s.pwr with standby := false } })) :=
    c.of_mem (by simp -implicitDefEqProofs)
  unfold domainsOn
  exact loadSets_canonical _ _ shown

theorem modeDone_canonical {s : State} (c : Canonical s) : Canonical (modeDone s) := by
  unfold modeDone
  split
  · exact c
  · split
    · exact c
    · split
      · exact c.of_mem (modeInForce_mem ..)
      · split
        · refine Canonical.of_mem ?_ (modeInForce_mem ..)
          split
          · exact domainsOn_canonical c
          · exact c
        · split
          · exact c.of_mem (by simp -implicitDefEqProofs)
          · exact c

end Sys2Proof.Machine
end

section
/-! PROOFS. Every step keeps the canonical form of the memory, and every step keeps the outputs governed (R320). -/
namespace Sys2Proof.Machine

/-- An operation restricted to parts keeps the canonical form where the operation does. -/
theorem reach_canonical (ps : List Part) {f : State → State} (h : ∀ s, Canonical s → Canonical (f s)) (s : State) (c : Canonical s) :
    Canonical (reach ps f s) := by
  by_cases mem : Part.mem ∈ ps
  · exact (h s c).of_mem (reach_mem _ _ _ mem)
  · exact c.of_mem (reach_agree (f := f) mem s)

theorem reach_canonical_of_notMem {ps : List Part} (apart : Part.mem ∉ ps) (f : State → State) (s : State) (c : Canonical s) :
    Canonical (reach ps f s) :=
  c.of_mem (reach_agree (f := f) apart s)

theorem settle_canonical {s : State} (c : Canonical s) : Canonical (settle s) := c.of_mem (settle_mem s)

theorem keepQueue_canonical (s : State) {t : State} (c : Canonical t) : Canonical (keepQueue s t) := c.of_mem (keepQueue_mem s t)

theorem Ending.canonical {fin : (State → State) → State → State} (h : Ending fin) {f : State → State} (keeps : ∀ s, Canonical s → Canonical (f s))
    {s : State} (c : Canonical s) : Canonical (fin f s) := by
  have begun : Canonical (clearReports s) := c.of_mem (clearReports_mem s)
  have settled := settle_canonical (keeps _ begun)
  obtain rfl | rfl | rfl := h
  · exact iteInduction (fun _ => keepQueue_canonical s begun) (fun _ => keepQueue_canonical s settled)
  · exact iteInduction (fun _ => keepQueue_canonical s begun) (fun _ => keepQueue_canonical s (softwareReset_canonical settled))
  · refine keepQueue_canonical s ?_
    exact iteInduction (fun _ => keeps _ begun) (fun _ => softwareReset_canonical settled)

/-- What a command carries out: an operation that keeps the canonical form of the memory. -/
inductive Keeps (s : State) : Host.Outcome State Fault Refusal → Prop
  | ends (fin : (State → State) → State → State) (f : State → State) : Ending fin → (∀ u, Canonical u → Canonical (f u)) → Keeps s (.next (fin f s))

theorem Carried.keeps {i : Instr} {s : State} {o : Host.Outcome State Fault Refusal} (h : Carried i s o) (apart : Part.mem ∉ footprint i) : Keeps s o := by
  cases h with
  | reaches fin ps f ending within => exact .ends fin _ ending (reach_canonical_of_notMem (within apart) f)
  | whole fin f ending writes => exact absurd writes apart

theorem finish_keeps (ps : List Part) {f : State → State} (h : ∀ u, Canonical u → Canonical (f u)) (s : State) : Keeps s (.next (finish (reach ps f) s)) :=
  .ends _ _ (.inl rfl) (reach_canonical ps h)

theorem finishWrite_keeps (ps : List Part) {f : State → State} (h : ∀ u, Canonical u → Canonical (f u)) (s : State) :
    Keeps s (.next (finishWrite (reach ps f) s)) :=
  .ends _ _ (.inr (.inl rfl)) (reach_canonical ps h)

theorem finishAlways_keeps (ps : List Part) {f : State → State} (h : ∀ u, Canonical u → Canonical (f u)) (s : State) :
    Keeps s (.next (finishAlways (reach ps f) s)) :=
  .ends _ _ (.inr (.inr rfl)) (reach_canonical ps h)

theorem exec_keeps (i : Instr) (s : State) : Keeps s (exec i s) := by
  by_cases apart : Part.mem ∉ footprint i
  · exact (exec_carried i s).keeps apart
  cases i
  case tickBoundary oscLen rails => exact finish_keeps _ (fun _ => tickBoundary_canonical oscLen rails) s
  case probationTimeout eng => exact finish_keeps _ (fun _ => probationTimeout_canonical _) s
  case nvsCommandDone failed => exact finish_keeps _ (fun _ => nvsDone_canonical _) s
  case supervisorStart stop => exact finish_keeps _ (fun _ => withStop_canonical stop (fun _ => supervisorStart_canonical)) s
  case hostReadFrame req => exact finish_keeps _ (fun _ => hostFrame_canonical true req []) s
  case powerModeChangeDone => exact .ends finish modeDone (.inl rfl) (fun _ => modeDone_canonical)
  case deepEntry => exact .ends finish deepEntry (.inl rfl) (fun _ => deepEntry_canonical)
  case supplyMonitorReset rail => exact .ends finishAlways (supplyReset rail) (.inr (.inr rfl)) (fun _ => supplyReset_canonical rail)
  case resetAssert pin => exact .ends finishAlways (resetPin pin) (.inr (.inr rfl)) (fun _ => resetPin_canonical pin)
  case thermalReset => exact .ends finishAlways thermalReset (.inr (.inr rfl)) (fun _ => thermalReset_canonical)
  case deviceStart boot vddio stop => exact finishAlways_keeps _ (fun _ => withStop_canonical stop (fun _ => deviceStart_canonical _ _)) s
  case debugRelease stop => exact finishAlways_keeps _ (fun _ => withStop_canonical stop (fun _ => debugRelease_canonical)) s
  case jtagDebugAccess addr write => exact finishAlways_keeps _ (fun _ => tapAccess_canonical _ write) s
  case watchPowerUp => exact finishAlways_keeps _ (fun _ c => c.of_mem (watchPowerUp_mem _)) s
  case wakeAlarm => exact finishAlways_keeps _ (fun _ c => c.of_mem (wakeAlarm_mem _)) s
  case registerWrite writes => exact finishWrite_keeps _ (fun _ => cycleCommand_canonical writes) s
  case landing contenders sense => exact finishWrite_keeps _ (fun _ => landing_canonical contenders sense) s
  case engSt c d a imm rivals => exact finishWrite_keeps _ (fun _ => runStore_canonical c 1 4 d a imm rivals) s
  case engSth c d a imm rivals => exact finishWrite_keeps _ (fun _ => runStore_canonical c 2 2 d a imm rivals) s
  case engStb c d a imm rivals => exact finishWrite_keeps _ (fun _ => runStore_canonical c 3 1 d a imm rivals) s
  case engPwr c d a imm took rivals => exact finishWrite_keeps _ (fun _ => runPwr_canonical c d a imm took rivals) s
  case postedWriteOutcome eng rivals => exact finishWrite_keeps _ (fun _ => postedOutcome_canonical eng rivals) s
  case hostWriteFrame req rivals => exact finishWrite_keeps _ (fun _ => hostFrame_canonical false req rivals) s
  case commitApply rivals => exact finishWrite_keeps _ (fun _ => commitApply_canonical rivals) s
  case nvsDataAccess party write failed => exact finishWrite_keeps _ (fun _ => nvDataAccess_canonical party write failed) s
  case engineWindowWrite party eng off data => exact finishWrite_keeps _ (fun _ => writeAccess_canonical _) s
  case confirm party stop => exact finishWrite_keeps _ (fun _ => withStop_canonical stop (fun _ c => regWrite_canonical _ _ _ _ c)) s
  case bridgeClr | tempClr => exact finishWrite_keeps _ (fun _ c => regWrite_canonical _ _ _ _ c) s
  case verify | arm | disarm | saveProfile | storeEng | supRestart | probReject | progKey | setKeypol | eraseProfile | modeReqRun | modeReqHalt | modeReqStandby |
      modeReqDeep | swrstFirst | swrstSecond =>
    exact finishWrite_keeps _ (fun _ c => keyWrite_canonical _ _ _ _ _ c) s
  all_goals exact absurd (by simp [footprint]) apart

theorem exec_canonical {i : Instr} {s t : State} (h : exec i s = .next t) (c : Canonical s) : Canonical t := by
  have kept := exec_keeps i s
  rw [h] at kept
  cases kept with
  | ends fin f ending keeps => exact ending.canonical keeps c

theorem step_canonical {s t : State} (h : step s = .next t) (c : Canonical s) : Canonical t := by
  obtain ⟨-, rfl⟩ | ⟨i, q, -, acts⟩ := step_cases h
  · exact c.of_mem (idle_like s).mem
  · exact exec_canonical acts (c.of_mem rfl)

end Sys2Proof.Machine

namespace Sys2Proof.Proofs
open Sys2Proof Sys2Proof.Machine

/-- Settles O57: a command ends by settling, which governs every output, or leaves the device dormant, and an idle clock changes nothing that
an output rests on; every operation that writes bytes does so through writes that keep the memory canonical. -/
theorem everyStepKeepsOutputsAndMemory : Obligations.Every_Step_Keeps_Outputs_And_Memory := by
  unfold Obligations.Every_Step_Keeps_Outputs_And_Memory
  intro s t h
  exact ⟨step_governed h, fun canonical => (step_canonical h ⟨canonical⟩).wf⟩

end Sys2Proof.Proofs
end

section
/-!
PROOFS. The fault collector's commands (O35): messages and pins, the end of a quiet window, the clear sequence, and injections. Each command is
an operation of the collector or one write to its page; what the operation makes of the collector is said once for each of its cases.
-/
namespace Sys2Proof.Machine

/-! ### Messages and pins -/

/-- The message that the collector hears of another die (R348). -/
def seenMsg (m : MsgIn) (s : State) : Msg :=
  let seen := usNow s - m.ago
  ⟨m.page * 256 + m.inst, m.kind, m.addr % 65536, s.time.tick - (s.time.ticks - seen / 125), seen % 125, s.time.cycle, usNow s, seen, 0⟩

section
variable {s t : State}

/-- Messages of one cycle join those on their way, each with its own stamp (R348, R360). -/
theorem faultMessages_outbox (msgs : List MsgIn) (s : State) :
    (faultMessages msgs s).flt.outbox = s.flt.outbox ++ msgs.map fun m => seenMsg m s := by
  induction msgs generalizing s with
  | nil => exact (List.append_nil _).symm
  | cons m msgs ih => exact (ih (raiseSeen m s)).trans (List.append_assoc ..)

theorem raiseOpen_sent (page inst kind : Nat) (h : t.time = s.time) : ∃ addr, Sent page inst kind addr s (raiseOpen page inst kind t) :=
  ⟨_, sent_raise_of_time (t := { t with fresh := t.fresh + 1 }) h ..⟩

theorem flashingFault_same {present : Bool} (h : present = s.flt.flash) : flashingFault present s = s := if_pos h

theorem flashingFault_shows (present : Bool) (s : State) : (flashingFault present s).flt.flash = present := by
  unfold flashingFault
  split
  · next same => exact same.symm
  · split <;> rfl

/-- A net that becomes unsound is reported (R357). -/
theorem flashingFault_sent (sound : s.flt.flash = false) : ∃ addr, Sent 0 0xFF kDevFlashing addr s (flashingFault true s) := by
  have changed : ¬ true = s.flt.flash := by rw [sound]; decide
  rw [flashingFault, if_neg changed]
  exact raiseOpen_sent 0 0xFF kDevFlashing rfl

/-- An asserted SAFE_IN_N begins its episode (R358). -/
theorem safeInput_asserts (s : State) : (safeInput true s).flt.safeIn = true
    ∧ (epActive fltPg kFltSafeIn 0 s = false → Sent fltPg 0xFE kFltSafeIn 0 s (safeInput true s)) := by
  refine ⟨?_, fun idle => ?_⟩
  · change (beginEp fltPg 0xFE kFltSafeIn 0 { s with flt := { s.flt with safeIn := true } }).flt.safeIn = true
    unfold beginEp
    split <;> rfl
  · have idle' : epActive fltPg kFltSafeIn 0 { s with flt := { s.flt with safeIn := true } } = false := idle
    change Sent fltPg 0xFE kFltSafeIn 0 s (beginEp fltPg 0xFE kFltSafeIn 0 _)
    rw [beginEp, idle']
    exact sent_raise_of_time rfl ..

end

/-! ### The end of an episode -/

/-- A change that leaves the collector's input pin and the messages on their way. -/
structure KeepsInputs (s t : State) : Prop where
  safeIn : t.flt.safeIn = s.flt.safeIn
  outbox : t.flt.outbox = s.flt.outbox

namespace KeepsInputs
variable {s t u : State}

theorem refl (s : State) : KeepsInputs s s := ⟨rfl, rfl⟩

theorem trans (h : KeepsInputs s t) (g : KeepsInputs t u) : KeepsInputs s u := ⟨g.safeIn.trans h.safeIn, g.outbox.trans h.outbox⟩

theorem ite {c : Prop} [Decidable c] (h : KeepsInputs s t) : KeepsInputs s (if c then t else s) := by
  split
  · exact h
  · exact refl s

theorem fold {β : Type} {f : State → β → State} (hf : ∀ s b, KeepsInputs s (f s b)) (l : List β) (s : State) : KeepsInputs s (l.foldl f s) :=
  List.foldlRecOn l f (refl s) fun t h b _ => h.trans (hf t b)

end KeepsInputs

theorem putScope_inputs (k : Nat) (c : Scope) (s : State) : KeepsInputs s (putScope k c s) := ⟨rfl, rfl⟩

theorem setIrq_inputs (p n : Nat) (s : State) : KeepsInputs s (setIrq p n s) := ⟨rfl, rfl⟩

theorem recPush_inputs (k v j : Nat) (b : List (Nat × Word)) (c y : Nat) (s : State) : KeepsInputs s (recPush k v j b c y s) := ⟨rfl, rfl⟩

theorem startQuiet_inputs (k t : Nat) (s : State) : KeepsInputs s (startQuiet k t s) := .ite (putScope_inputs ..)

theorem putRun_flt (p : Nat) (run : Bool) (s : State) : (putRun p run s).flt = s.flt := by
  unfold putRun
  split <;> rfl

/-- A reaction write that loses a collision is noted to be presented again, and nothing else of the collector changes (R277). -/
theorem reactionRun_flt (e : Nat) (run : Bool) (s : State) : ∃ l, (reactionRun e run s).flt = { s.flt with retry := l } := by
  unfold reactionRun
  split
  · exact ⟨_, rfl⟩
  · split
    · exact ⟨s.flt.retry, rfl⟩
    · exact ⟨s.flt.retry, putRun_flt ..⟩

theorem reactionRun_inputs (e : Nat) (run : Bool) (s : State) : KeepsInputs s (reactionRun e run s) := by
  obtain ⟨l, h⟩ := reactionRun_flt e run s
  exact ⟨by rw [h], by rw [h]⟩

theorem stopEngine_inputs (k e : Nat) (s : State) : KeepsInputs s (stopEngine k e s) :=
  .ite ((putScope_inputs ..).trans (reactionRun_inputs ..))

theorem latchScope_inputs (k : Nat) (s : State) : KeepsInputs s (latchScope k s) := by
  have latch (c : Scope) : KeepsInputs s (setIrq 2 18 (scopeRecord k 2 (putScope k c s))) :=
    ((putScope_inputs ..).trans (recPush_inputs ..)).trans (setIrq_inputs ..)
  unfold latchScope
  extract_lets c
  split
  · exact .refl s
  · split <;> exact latch _

theorem reactScope_inputs (k sev q t : Nat) (m : Msg) (latch : Bool) (s : State) : KeepsInputs s (reactScope k sev q t m latch s) := by
  unfold reactScope
  extract_lets c begins c' s1 s2 s3 s4 s5
  have h2 : KeepsInputs s s2 := (putScope_inputs k c' s).trans (.ite (setIrq_inputs ..))
  have h3 : KeepsInputs s2 s3 := .fold (fun a e => stopEngine_inputs k e a) _ _
  have h5 : KeepsInputs s3 s5 := (startQuiet_inputs ..).trans (.ite (.fold (fun a g => startQuiet_inputs g t a) _ _))
  exact ((h2.trans h3).trans h5).trans (.ite (latchScope_inputs ..))

theorem receive_inputs (grp : Bool) (m : Msg) (s : State) : KeepsInputs s (receive grp m s) := by
  unfold receive
  extract_lets e sev k latch latches flags q h page high epis fs s1 s2 s3 s4 s5 s6
  have h3 : KeepsInputs s s3 := ⟨rfl, rfl⟩
  have h5 : KeepsInputs s3 s5 := (KeepsInputs.ite (setIrq_inputs page 0 s3)).trans (.ite (reactScope_inputs ..))
  have h6 : KeepsInputs s5 s6 := recPush_inputs ..
  refine (h3.trans (h5.trans h6)).trans (.ite ?_)
  split <;> exact ⟨rfl, rfl⟩

theorem regroup_inputs (s : State) : KeepsInputs s (regroup s) := by
  unfold regroup
  extract_lets mine order new
  split
  · exact .refl s
  · exact ⟨rfl, rfl⟩

theorem receiveGroup_inputs (ms : List Msg) (s : State) : KeepsInputs s (receiveGroup ms s) := .fold (fun a m => receive_inputs _ m a) _ s

/-- The collector takes every message on its way, and leaves its input pin. -/
theorem collect_inputs (s : State) : KeepsInputs { s with flt := { s.flt with outbox := [] } } (collect s) :=
  (KeepsInputs.fold (fun a t => receiveGroup_inputs (s.flt.outbox.filter fun m => stampOf m = t) a) _ _).trans (regroup_inputs _)

/-- The same, and the active episodes stay. -/
structure KeepsEpisodes (s t : State) : Prop extends KeepsInputs s t where
  eps : t.flt.eps = s.flt.eps

namespace KeepsEpisodes
variable {s t u : State}

theorem refl (s : State) : KeepsEpisodes s s := ⟨.refl s, rfl⟩

theorem trans (h : KeepsEpisodes s t) (g : KeepsEpisodes t u) : KeepsEpisodes s u := ⟨h.toKeepsInputs.trans g.toKeepsInputs, g.eps.trans h.eps⟩

theorem ite {c : Prop} [Decidable c] (h : KeepsEpisodes s t) : KeepsEpisodes s (if c then t else s) := by
  split
  · exact h
  · exact refl s

end KeepsEpisodes

theorem startQuiet_eps (k t : Nat) (s : State) : (startQuiet k t s).flt.eps = s.flt.eps := by
  unfold startQuiet
  extract_lets c
  split <;> rfl

/-- Whether a message of an episode is on its way. -/
def epOnItsWay (page kind addr : Nat) (s : State) : Bool :=
  s.flt.outbox.any fun m => decide (m.src / 256 = page ∧ m.kind = kind ∧ m.addr = addr % 65536)

/-- What the end of an episode makes of the collector: no such episode is left, nor is a message of one on its way (R351). -/
theorem endEp_ends (page kind addr : Nat) (s : State) : (endEp page kind addr s).flt.safeIn = s.flt.safeIn
    ∧ epActive page kind addr (endEp page kind addr s) = false := by
  unfold endEp
  extract_lets s1 gone fs s2 s3
  have first : s1.flt.safeIn = s.flt.safeIn ∧ epOnItsWay page kind addr s1 = false := by
    by_cases coming : epOnItsWay page kind addr s = true
    · have taken : s1 = collect s := if_pos coming
      rw [taken, epOnItsWay, (collect_inputs s).outbox]
      exact ⟨(collect_inputs s).safeIn, rfl⟩
    · have kept : s1 = s := if_neg coming
      rw [kept]
      exact ⟨rfl, Bool.eq_false_iff.2 coming⟩
  have none : s2.flt.eps.any (epMatch page kind addr) = false := by
    simp [s2, List.any_filter]
  have records : KeepsEpisodes s2 s3 := List.foldlRecOn gone _ (.refl s2) fun t h e _ => h.trans ⟨recPush_inputs .., rfl⟩
  have quiets : KeepsEpisodes s2 (gone.foldl (fun a e => if 3 ≤ e.sev then startQuiet e.scope (usNow a) a else a) s3) :=
    List.foldlRecOn gone _ records fun t h e _ => h.trans (.ite ⟨startQuiet_inputs .., startQuiet_eps ..⟩)
  obtain ⟨kept, eps⟩ := quiets
  refine ⟨kept.safeIn.trans first.1, ?_⟩
  rw [epActive, eps, none, kept.outbox, Bool.false_or]
  exact first.2

/-- A SAFE_IN_N that is no longer asserted has no episode (R358). -/
theorem safeInput_deasserts (s : State) : (safeInput false s).flt.safeIn = false ∧ epActive fltPg kFltSafeIn 0 (safeInput false s) = false := by
  change (setEp false fltPg 0xFE kFltSafeIn 0 { s with flt := { s.flt with safeIn := false } }).flt.safeIn = false ∧ epActive _ _ _ (setEp ..) = false
  rw [setEp, if_neg Bool.false_ne_true]
  split
  · exact endEp_ends ..
  · next idle => exact ⟨rfl, Bool.eq_false_iff.2 idle⟩

theorem safeInput_only (on : Bool) (s : State) : CollectOnly s (safeInput on s) := (flt_only ..).trans (setEp_only ..)

/-! ### Scopes -/

section
variable {k : Nat} {c : Scope} {s : State}

@[simp] theorem scopeAt_putScope (k : Nat) (c : Scope) (s : State) : scopeAt (putScope k c s) k = c := by simp [scopeAt, putScope]

theorem scopeAt_putScope_ne (c : Scope) (s : State) {j : Nat} (h : j ≠ k) : scopeAt (putScope k c s) j = scopeAt s j := by
  simp [scopeAt, putScope, tabGet_set_ne _ _ _ h.symm]

theorem scopeAt_congr {t : State} (h : t.flt.scopes = s.flt.scopes) (k : Nat) : scopeAt t k = scopeAt s k := by rw [scopeAt, scopeAt, h]

theorem reactionRun_scopes (e : Nat) (run : Bool) (s : State) : (reactionRun e run s).flt.scopes = s.flt.scopes := by
  obtain ⟨l, h⟩ := reactionRun_flt e run s
  rw [h]

theorem restartEngines_scopes (es : List Nat) (s : State) : (restartEngines es s).flt.scopes = s.flt.scopes := by
  induction es generalizing s with
  | nil => rfl
  | cons e es ih =>
    refine (ih _).trans ?_
    dsimp only
    split
    · rfl
    · exact reactionRun_scopes ..

theorem restartEngines_only (es : List Nat) (s : State) : CollectOnly s (restartEngines es s) := by
  refine .fold _ (fun a e => ?_) es s
  split
  · exact .refl a
  · exact reactionRun_only ..

/-- A scope whose reaction has ended (R364). -/
def leftScope (c : Scope) : Scope :=
  { c with react := false, latched := false, quiet := none, named := [], engs := [], clr := false, again := false, relatch := false }

theorem scopeAt_leaveScope (k : Nat) (s : State) : scopeAt (leaveScope k s) k = leftScope (scopeAt s k) := by
  unfold leaveScope
  extract_lets c s1 fs s2
  rw [scopeAt_congr (restartEngines_scopes c.engs s2)]
  exact scopeAt_putScope k (leftScope c) s

theorem leaveScope_only (k : Nat) (s : State) : CollectOnly s (leaveScope k s) :=
  ((putScope_only ..).trans (flt_only ..)).trans (restartEngines_only ..)

/-! ### The end of a quiet window -/

/-- A scope that latches at the end of its quiet window (R365). -/
def latchedScope (c : Scope) : Scope := { c with latched := true, quiet := none }

/-- A scope that has recovered, before its reaction ends (R364, R365). -/
def recoveredScope (t : Nat) (c : Scope) : Scope := { c with recov := (t :: c.recov).take 15, total := satN 0xFFFF (c.total + 1) }

/-- A quiet window that is closed, or of a scope without reaction or latched, does not end (R364). -/
theorem quietEnd_idle (h : (scopeAt s k).quiet = none ∨ (scopeAt s k).react = false ∨ (scopeAt s k).latched = true) : quietEnd k s = s := by
  unfold quietEnd
  extract_lets c t
  split
  · rfl
  · next open_ =>
    refine if_neg ?_
    rcases h with h | h | h
    · exact absurd (h.symm.trans open_) (by simp)
    · simp [c, h]
    · simp [c, h]

section
variable {a len : Nat} (window : (scopeAt s k).quiet = some (a, len))
include window

/-- A quiet window does not end before its time (R364). -/
theorem quietEnd_early (early : usNow s < a + len) : quietEnd k s = s := by
  unfold quietEnd
  simp only [window]
  exact if_neg (by simp [Nat.not_le.2 early])

variable (react : (scopeAt s k).react = true) (open_ : (scopeAt s k).latched = false) (ended : a + len ≤ usNow s)
include react open_ ended

theorem quietEnd_over : quietEnd k s = if getF FLT.RECOV_REC_LIM fltPg 0 s ≤ recentRecov (scopeAt s k) (usNow s) + 1 then latchScope k s
    else setIrq fltPg 19 (leaveScope k (scopeRecord k 1 (putScope k (recoveredScope (usNow s) (scopeAt s k)) s))) := by
  have due : ((scopeAt s k).react && !(scopeAt s k).latched && decide (a + len ≤ usNow s)) = true := by simp [react, open_, ended]
  unfold quietEnd
  extract_lets c t
  split
  · next none => exact absurd (window.symm.trans none) (by simp)
  · next b m same =>
    obtain ⟨rfl, rfl⟩ := Prod.mk.inj (Option.some.inj (window.symm.trans same))
    exact if_pos due

/-- At the limit of its recoveries the scope latches (R365). -/
theorem quietEnd_latches (limit : getF FLT.RECOV_REC_LIM fltPg 0 s ≤ recentRecov (scopeAt s k) (usNow s) + 1) :
    scopeAt (quietEnd k s) k = latchedScope (scopeAt s k) ∧ irq fltPg 18 (quietEnd k s) = true := by
  have latches : latchScope k s = setIrq fltPg 18 (scopeRecord k 2 (putScope k (latchedScope (scopeAt s k)) s)) := by
    have can : latchable k s = true := by simp [latchable, open_]
    simp only [latchScope, can, open_, Bool.not_true, Bool.false_eq_true, if_false]
    rfl
  rw [quietEnd_over window react open_ ended, if_pos limit, latches]
  exact ⟨scopeAt_putScope .., irq_set _ _ (by decide)⟩

/-- Below the limit the scope recovers (R364). -/
theorem quietEnd_recovers (below : recentRecov (scopeAt s k) (usNow s) + 1 < getF FLT.RECOV_REC_LIM fltPg 0 s) :
    scopeAt (quietEnd k s) k = leftScope (recoveredScope (usNow s) (scopeAt s k)) ∧ irq fltPg 19 (quietEnd k s) = true := by
  rw [quietEnd_over window react open_ ended, if_neg (Nat.not_le.2 below)]
  refine ⟨?_, irq_set _ _ (by decide)⟩
  exact (scopeAt_leaveScope ..).trans (congrArg leftScope (scopeAt_putScope ..))

end

theorem quietEnd_only (k : Nat) (s : State) : CollectOnly s (quietEnd k s) := by
  unfold quietEnd
  extract_lets c t
  split
  · exact .refl s
  · refine .ite _ ?_
    split
    · exact latchScope_only ..
    · exact (((putScope_only ..).trans (scopeRecord_only ..)).trans (leaveScope_only ..)).trans (setIrq_only ..)

end

/-! ### The clear sequence -/

/-- A party's write to FLT_CLR ends its open sequences (R366). -/
def closedClr (party : Party) (s : State) : State := { s with flt := { s.flt with clrSeq := s.flt.clrSeq.filter fun k => k / 16 ≠ party.code } }

/-- A scope whose clear waits for the boundary (R366). -/
def clearedScope (c : Scope) : Scope := { c with clr := true, again := false, relatch := false }

section
variable {party : Party} {k : Nat} {s : State}

theorem not_mem_closedClr (hk : k < 16) : party.code * 16 + k ∉ (closedClr party s).flt.clrSeq := by
  have own : (party.code * 16 + k) / 16 = party.code := by omega
  simp [closedClr, own]

theorem scopeAt_applyClear (k : Nat) (s : State) : scopeAt (applyClear k s) k = clearedScope (scopeAt s k) := scopeAt_putScope ..

theorem scopeAt_applyClear_ne {j : Nat} (h : j ≠ k) (s : State) : scopeAt (applyClear k s) j = scopeAt s j := scopeAt_putScope_ne _ _ h

/-- A clear of several scopes leaves the registers and the open sequences. -/
theorem clearScopes_kept (ks : List Nat) (s t : State) :
    (judged (clearScopes ks s) t).2.regs = s.regs ∧ (judged (clearScopes ks s) t).2.flt.clrSeq = s.flt.clrSeq := by
  unfold clearScopes
  extract_lets latched good u
  have kept : u.regs = s.regs ∧ u.flt.clrSeq = s.flt.clrSeq :=
    List.foldlRecOn (motive := fun v : State => v.regs = s.regs ∧ v.flt.clrSeq = s.flt.clrSeq) good _ ⟨rfl, rfl⟩ fun _ h _ _ => h
  split <;> exact kept

/-- The first key opens the party's sequence for a scope of the device (R366). -/
theorem fltClr_first (valid : ¬ (9 ≤ k ∧ k ≤ 14)) (s : State) : ∃ l, fltClr party 0x6C61 k s
    = .ok { s with flt := { s.flt with clrSeq := (party.code * 16 + k) :: l } } := by
  unfold fltClr
  extract_lets mine open_ fs off
  rw [if_neg valid, if_pos rfl]
  exact ⟨_, rfl⟩

/-- Scopes 9 to 14 are none, and their writes are refused (R366). -/
theorem fltClr_noScope {key : Nat} (none : 9 ≤ k ∧ k ≤ 14) (s : State) : fltClr party key k s = .refuseTo (closedClr party s) := if_pos none

/-- The second key is refused without an open sequence, and for a scope that may not be cleared (R366). -/
theorem fltClr_refuses (h : party.code * 16 + k ∉ s.flt.clrSeq ∨ (k ≤ 8 ∧ clearable k s = false)) :
    fltClr party 0x7463 k s = .refuseTo (closedClr party s) := by
  unfold fltClr
  extract_lets mine open_ fs off
  by_cases none : 9 ≤ k ∧ k ≤ 14
  · exact if_pos none
  rw [if_neg none, if_neg (by decide)]
  by_cases opened : open_ = true
  · obtain ⟨scope, kept⟩ := h.resolve_left (not_not.2 (by simpa [open_] using opened))
    rw [if_pos ⟨rfl, opened⟩, if_neg (by omega)]
    exact if_neg (Bool.eq_false_iff.1 kept)
  · rw [if_neg fun c => opened c.2]
    rfl

/-- The second key of an open sequence clears the scope that may be cleared (R366). -/
theorem fltClr_clears (opened : party.code * 16 + k ∈ s.flt.clrSeq) (scope : k ≤ 8) (can : clearable k s = true) :
    fltClr party 0x7463 k s = .ok (applyClear k (closedClr party s)) := by
  unfold fltClr
  extract_lets mine open_ fs off
  rw [if_neg (by omega), if_neg (by decide), if_pos ⟨rfl, by simpa [open_] using opened⟩, if_neg (by omega)]
  exact if_pos can

/-- The second key of an open sequence for all scopes (R366). -/
theorem fltClr_all (opened : party.code * 16 + 15 ∈ s.flt.clrSeq) : fltClr party 0x7463 15 s = clearScopes (List.range 9) (closedClr party s) := by
  unfold fltClr
  extract_lets mine open_ fs off
  rw [if_neg (by omega), if_neg (by decide), if_pos ⟨rfl, by simpa [open_] using opened⟩, if_pos rfl]
  rfl

/-- Whatever the second key comes to, the registers stay and the party's sequences are closed (R366). -/
theorem fltClr_second_kept (hk : k < 16) (s : State) : (judged (fltClr party 0x7463 k s) s).2.regs = s.regs
    ∧ (judged (fltClr party 0x7463 k s) s).2.flt.clrSeq = (closedClr party s).flt.clrSeq := by
  by_cases none : 9 ≤ k ∧ k ≤ 14
  · rw [fltClr_noScope none]; exact ⟨rfl, rfl⟩
  by_cases refused : party.code * 16 + k ∉ s.flt.clrSeq ∨ (k ≤ 8 ∧ clearable k s = false)
  · rw [fltClr_refuses refused]; exact ⟨rfl, rfl⟩
  rw [not_or, not_not, not_and, Bool.not_eq_false] at refused
  obtain ⟨opened, can⟩ := refused
  by_cases scope : k ≤ 8
  · rw [fltClr_clears opened scope (can scope)]; exact ⟨rfl, rfl⟩
  · obtain rfl : k = 15 := by omega
    rw [fltClr_all opened]
    exact clearScopes_kept ..

end

/-- The row of FLT_CLR (R375). -/
def fltClrDesc : RegDesc := ⟨0x114, 0x0, 1, [rfOp 31 16 .wo 0x0, rfOp 3 0 .wo 0x0]⟩

theorem fltClr_row : plainReg fltPg 0x114 (pageField true) = true ∧ regAt fltPg 0x114 = some fltClrDesc := by decide

section
variable {party : Party} {i : Instr} {key k : Nat} {s : State}

/-- The word of a key and a scope. -/
theorem fltClr_word (hkey : key < 65536) (hk : k < 16) : bitsOf (ofN (key * 65536 + k)) 31 16 = key ∧ bitsOf (ofN (key * 65536 + k)) 3 0 = k := by
  simp only [bitsOf, ofN, BitVec.toNat_ofNat, Nat.shiftRight_eq_div_pow]
  omega

theorem fltWrite_clr {cx : WriteCx} (off : cx.off = 0x114) (fields : cx.fields ≠ []) :
    fltWrite cx s = fltClr cx.party (cxBits cx 31 16) (cxBits cx 3 0) s := by
  unfold fltWrite
  rw [if_neg (by omega), if_pos off, if_neg fields]

/-- A permitted write of FLT_CLR is judged as a step of the clear sequence (R366). -/
theorem judgeReg_fltClr (may : MayWrite party fltPg true s) (hkey : key < 65536) (nonzero : key ≠ 0) (hk : k < 16) (l : List Hold) :
    judgeReg (cxOf party fltPg 0x114 (ofN (key * 65536 + k)) fltClrDesc s l) (withHolds s l) = fltClr party key k (withHolds s l) := by
  obtain ⟨high, low⟩ := fltClr_word hkey hk
  have fields : (cxOf party fltPg 0x114 (ofN (key * 65536 + k)) fltClrDesc s l).fields ≠ [] :=
    List.ne_nil_of_mem (a := rfOp 31 16 .wo 0) (List.mem_filter.2 ⟨List.mem_cons_self .., by simp [writesField, rfOp, high, nonzero]⟩)
  have block : ¬ (cxOf party fltPg 0x114 (ofN (key * 65536 + k)) fltClrDesc s l).off < 0x100 := show ¬ 0x114 < 0x100 by decide
  rw [judgeReg_block may.2.1 rfl (permitted_page l may (by decide) (by decide)) (.inl fields) block, blockWrite_flt _ rfl, fltWrite_clr rfl fields]
  exact congrArg₂ (fltClr party · · _) high low

/-- The command of a write of FLT_CLR: the report and the state are those of the step of the sequence. -/
theorem fltClr_does (awake : Awake s) (may : MayWrite party fltPg true s) (hkey : key < 65536) (nonzero : key ≠ 0) (hk : k < 16)
    (he : exec i s = .next (finishWrite (reach [.regs, .bus, .flt, .recd] (keyWrite party fltPg 0x114 key k)) s)) :
    Does i s fun u => ∃ l, let t := withHolds (clearReports s) l
      u.bus.reports = [⟨party, pageAddr fltPg 0x114, (judged (fltClr party key k t) t).1⟩] ∧ RegsBut [] (judged (fltClr party key k t) t).2 u
        ∧ u.flt = (judged (fltClr party key k t) t).2.flt := by
  obtain ⟨plain, row⟩ := fltClr_row
  obtain ⟨h1, h2, h3, h4, h5, h6, -⟩ := plainReg_facts plain
  obtain ⟨l, c, e⟩ := regWrite_eq (party := party) (w := ofN (key * 65536 + k)) (s := clearReports s) h1 h2 h3 h4 may.1 row h5
    (regAdvance_none h6 party) (by decide)
  rw [judgeReg_fltClr (s := clearReports s) may hkey nonzero hk] at e
  obtain ⟨u, settles, report, regs, parts⟩ := does_regWrite (i := i) awake (by decide) he e
  exact ⟨u, settles, l, report, regs, parts .flt (by decide) (by decide)⟩

/-- FLT_CLR with the first key (R366). -/
theorem fltClrFirst_does {sc : BitVec 4} (awake : Awake s) (may : MayWrite party fltPg true s) : Does (.fltClrFirst party sc) s fun u => RegsBut [] s u
    ∧ (sc.toNat ≤ 8 ∨ sc.toNat = 15 → Acked party (pageAddr fltPg 0x114) u ∧ party.code * 16 + sc.toNat ∈ u.flt.clrSeq)
    ∧ (9 ≤ sc.toNat → sc.toNat ≤ 14 → u.bus.reports = [⟨party, pageAddr fltPg 0x114, .refused⟩] ∧ party.code * 16 + sc.toNat ∉ u.flt.clrSeq) := by
  obtain ⟨u, settles, l, report, regs, flt⟩ := fltClr_does (i := .fltClrFirst party sc) awake may (by decide) (by decide) sc.isLt rfl
  by_cases none : 9 ≤ sc.toNat ∧ sc.toNat ≤ 14
  · rw [fltClr_noScope none] at report regs flt
    exact ⟨u, settles, regs, fun scope => by omega, fun _ _ => ⟨report, flt ▸ not_mem_closedClr sc.isLt⟩⟩
  · obtain ⟨n, opens⟩ := fltClr_first (party := party) none (withHolds (clearReports s) l)
    rw [opens] at report regs flt
    exact ⟨u, settles, regs, fun _ => ⟨report, flt ▸ List.mem_cons_self ..⟩, fun low high => absurd ⟨low, high⟩ none⟩

/-- FLT_CLR with the second key (R366). -/
theorem fltClrSecond_does {sc : BitVec 4} (awake : Awake s) (may : MayWrite party fltPg true s) : Does (.fltClrSecond party sc) s fun u => RegsBut [] s u
    ∧ party.code * 16 + sc.toNat ∉ u.flt.clrSeq
    ∧ (party.code * 16 + sc.toNat ∉ s.flt.clrSeq ∨ (sc.toNat ≤ 8 ∧ clearable sc.toNat s = false) →
      u.bus.reports = [⟨party, pageAddr fltPg 0x114, .refused⟩] ∧ u.flt.scopes = s.flt.scopes)
    ∧ (party.code * 16 + sc.toNat ∈ s.flt.clrSeq → sc.toNat ≤ 8 → clearable sc.toNat s = true → Acked party (pageAddr fltPg 0x114) u
      ∧ (scopeAt u sc.toNat).clr = true ∧ (scopeAt u sc.toNat).again = false ∧ ∀ k, k ≠ sc.toNat → scopeAt u k = scopeAt s k) := by
  obtain ⟨u, settles, l, report, regs, flt⟩ := fltClr_does (i := .fltClrSecond party sc) awake may (by decide) (by decide) sc.isLt rfl
  obtain ⟨kept, closed⟩ := fltClr_second_kept (party := party) sc.isLt (withHolds (clearReports s) l)
  refine ⟨u, settles, fun a ha => (regs a ha).trans ?_, ?_, fun refused => ?_, fun opened scope can => ?_⟩
  · rw [rdReg, kept]
    rfl
  · rw [flt, closed]
    exact not_mem_closedClr sc.isLt
  · rw [fltClr_refuses (s := withHolds (clearReports s) l) refused] at report flt
    exact ⟨report, by rw [flt]; rfl⟩
  · rw [fltClr_clears (s := withHolds (clearReports s) l) opened scope can] at report flt
    have whole (k : Nat) : scopeAt u k = scopeAt (applyClear sc.toNat (closedClr party (withHolds (clearReports s) l))) k :=
      scopeAt_congr (congrArg FltState.scopes flt) k
    refine ⟨report, ?_, ?_, fun k other => ?_⟩
    · rw [whole, scopeAt_applyClear]; rfl
    · rw [whole, scopeAt_applyClear]; rfl
    · rw [whole, scopeAt_applyClear_ne other]; rfl

/-! ### The first-fault register -/

/-- The row of FLT_FF_CLR (R375). -/
def ffClrDesc : RegDesc := ⟨0x134, 0x0, 1, [rfOp 0 0 .wo 0x0]⟩

theorem ffClr_row : plainReg fltPg 0x134 (pageField true) = true ∧ regAt fltPg 0x134 = some ffClrDesc := by decide

/-- A state whose first fault is that of its own cycle, if any (R362). -/
def ffCleared (s : State) : State := { s with flt := { s.flt with ff := keptFf (usNow s * 512 + s.time.cycle) s } }

theorem fltWrite_ffClr {cx : WriteCx} (off : cx.off = 0x134) (clear : cxBits cx 0 0 = 1) : fltWrite cx s = .ok (ffCleared s) := by
  unfold fltWrite
  rw [if_neg (by omega), if_neg (by omega), if_pos off, if_pos clear]
  rfl

/-- FLT_FF_CLR (R362). -/
theorem ffClr_does (awake : Awake s) (may : MayWrite party fltPg true s) : Does (.ffClr party) s fun u => RegsBut [] s u
    ∧ Acked party (pageAddr fltPg 0x134) u ∧ u.flt.ff = keptFf (usNow s * 512 + s.time.cycle) s := by
  obtain ⟨plain, row⟩ := ffClr_row
  obtain ⟨t, c, written, l, rfl⟩ := pageCmd_done (w := 1) (s := clearReports s) (P := fun t => ∃ l, t = ffCleared (withHolds (clearReports s) l))
    plain (by decide) may fun l d hd => by
      obtain rfl : ffClrDesc = d := Option.some.inj (row.symm.trans hd)
      refine ⟨_, .inl (List.ne_nil_of_mem (List.mem_filter.2 ⟨List.mem_singleton.2 rfl, rfl⟩)), ?_, l, rfl⟩
      rw [blockWrite_flt _ rfl]
      exact fltWrite_ffClr rfl rfl
  obtain ⟨u, settles, report, regs, parts⟩ := does_regWrite (i := .ffClr party) awake (by decide) rfl written
  have flt : u.flt = (ffCleared (withHolds (clearReports s) l)).flt := parts .flt (by decide) (by decide)
  exact ⟨u, settles, regs, report, by rw [flt]; rfl⟩

end

/-! ### The outcome of an injection -/

/-- The registers that show an injection of a page (R368). -/
def injRegs (p : Nat) : List Nat := [pageAddr p 0x1C, fldAddr FLT.INJ_PAGE fltPg 0, pageAddr fltPg 0x10]

/-- The outcome of a page's injection with a checker is shown (R368). -/
def InjShows (p checker outcome : Nat) (u : State) : Prop :=
  getW CMN.FINJ_ARM p 0 u = 0 ∧ getW CMN.FINJ_PASSED p 0 u = b2n (decide (outcome = 1)) ∧ getW FLT.INJ_OUTCOME fltPg 0 u = outcome
    ∧ getW FLT.INJ_PAGE fltPg 0 u = p ∧ getW FLT.INJ_CHECKER fltPg 0 u = checker ∧ irq fltPg 20 u = true

/-- The injection of a page ends with an outcome, and no other register changes. -/
def InjConcluded (p outcome : Nat) (s u : State) : Prop := InjShows p (getW CMN.FINJ_CHECKER p 0 s) outcome u ∧ RegsBut (injRegs p) s u

section
variable {p outcome : Nat} {s t : State}

/-- FINJ of a page is another register than INJ and IRQ_STAT of the fault page. -/
theorem finj_apart {f g : Fld} (hf : f.off = 0x1C ∧ f.stride = 0) (hg : g.off = 0x174 ∧ g.stride = 0) (p : Nat) :
    fldAddr g fltPg 0 ≠ fldAddr f p 0 ∧ pageAddr fltPg 0x10 ≠ fldAddr f p 0 := by
  simp only [fldAddr, pageAddr, hf, hg, fltPg]
  omega

theorem injEnd_shows (hp : p < 256) (ho : outcome < 8) (s : State) : InjShows p (getW CMN.FINJ_CHECKER p 0 s) outcome (injEnd p outcome s) := by
  have checker : getW CMN.FINJ_CHECKER p 0 s < 256 := bitsOf_lt ..
  unfold injEnd
  extract_lets c s1 s2
  have finj {f : Fld} (hf : f.lo ≤ f.hi) (place : f.off = 0x1C ∧ f.stride = 0) : getW f p 0 (setIrq fltPg 20 s2) = getW f p 0 s1 := by
    obtain ⟨-, irq⟩ := finj_apart (g := FLT.INJ_PAGE) place (by decide) p
    have put {g : Fld} (hg : (g.lo ≤ g.hi ∧ g.hi < 32) ∧ g.off = 0x174 ∧ g.stride = 0) (v : Nat) (t : State) :
        getW f p 0 (setF g fltPg 0 v t) = getW f p 0 t := getW_setF_other _ _ hg.1 hf (.inl (finj_apart place hg.2 p).1)
    rw [getW_setIrq _ irq, put (by decide), put (by decide), put (by decide)]
  refine ⟨?_, ?_, ?_, ?_, ?_, irq_set _ _ (by decide)⟩
  · rw [finj (by decide) (by decide)]
    exact (getW_setF_beside _ _ (by decide) (by decide) (by decide)).trans (getW_setF _ _ _ _ _ (by decide) (by decide))
  · rw [finj (by decide) (by decide)]
    refine (getW_setF _ _ _ _ _ (by decide) (by decide)).trans ?_
    cases decide (outcome = 1) <;> rfl
  · rw [getW_setIrq _ (by decide), getW_setF_beside _ _ (by decide) (by decide) (by decide), getW_setF_beside _ _ (by decide) (by decide) (by decide),
      getW_setF _ _ _ _ _ (by decide) (by decide)]
    exact Nat.mod_eq_of_lt ho
  · rw [getW_setIrq _ (by decide), getW_setF _ _ _ _ _ (by decide) (by decide)]
    exact Nat.mod_eq_of_lt hp
  · rw [getW_setIrq _ (by decide), getW_setF_beside _ _ (by decide) (by decide) (by decide), getW_setF _ _ _ _ _ (by decide) (by decide)]
    exact Nat.mod_eq_of_lt checker

theorem injEnd_regs (p outcome : Nat) (s : State) : RegsBut (injRegs p) s (injEnd p outcome s) := by
  intro a ha
  simp only [injRegs, List.mem_cons, List.not_mem_nil, or_false, not_or] at ha
  obtain ⟨finj, inj, irq⟩ := ha
  have inj' {g : Fld} (hg : g.off = 0x174 ∧ g.stride = 0) (v : Nat) (t : State) : rdReg (setF g fltPg 0 v t) a = rdReg t a :=
    rdReg_setF_ne _ _ _ _ _ fun e => inj (by rw [← e, fldAddr, hg.1, hg.2]; rfl)
  have finj' {g : Fld} (hg : g.off = 0x1C ∧ g.stride = 0) (b : Bool) (t : State) : rdReg (setB g p 0 b t) a = rdReg t a :=
    rdReg_setB_ne _ _ _ _ _ fun e => finj (by rw [← e, fldAddr, hg.1, hg.2, Nat.zero_mul, Nat.add_zero])
  rw [injEnd, rdReg_setIrq_ne _ _ _ (Ne.symm irq), inj' (by decide), inj' (by decide), inj' (by decide), finj' (by decide), finj' (by decide)]

theorem injEnd_flt (p outcome : Nat) (s : State) : (injEnd p outcome s).flt = s.flt := by
  rw [injEnd, setIrq, noteBit_flt, wrReg_flt, setF_flt, setF_flt, setF_flt, setB, setF_flt, setB, setF_flt]

theorem injEnd_drv (p outcome : Nat) (s : State) : (injEnd p outcome s).drv = s.drv := by
  rw [injEnd, setIrq, noteBit_drv, wrReg_drv, setF_drv, setF_drv, setF_drv, setB, setF_drv, setB, setF_drv]

theorem sent_injEnd {page inst kind addr : Nat} (h : Sent page inst kind addr s t) : Sent page inst kind addr s (injEnd p outcome t) := by
  rw [Sent, injEnd_flt]
  exact h

/-- An injection that ends where no register has changed before. -/
theorem injEnd_concluded (hp : p < 256) (ho : outcome < 8) (same : t.regs = s.regs) : InjConcluded p outcome s (injEnd p outcome t) := by
  have regs (a : Nat) : rdReg t a = rdReg s a := by rw [rdReg, rdReg, same]
  refine ⟨?_, fun a ha => (injEnd_regs p outcome t a ha).trans (regs a)⟩
  rw [← getW_congr (regs _)]
  exact injEnd_shows hp ho t

/-! ### What a real fault does beside its message -/

/-- A change that leaves the collector and every page's FINJ.CHECKER. -/
def KeepsChecker (s t : State) : Prop := t.flt = s.flt ∧ ∀ p, getW CMN.FINJ_CHECKER p 0 t = getW CMN.FINJ_CHECKER p 0 s

theorem tripLeg_keepsChecker (l : Nat) (s : State) : KeepsChecker s (tripLeg l s) :=
  ⟨(tripLeg_work l s).flt, fun p => (tripLeg_work l s).fields _ (by decide) (by decide) p 0 (by decide)⟩

theorem pairTripped_keepsChecker (k : Nat) (s : State) : KeepsChecker s (pairTripped k s) := by
  refine ⟨(pairTripped_work k s).flt, fun p => ((pairTripped_work k s).fields _ (by decide) (by decide) p 0 (by decide)).trans ?_⟩
  refine getW_setF_other _ _ (by decide) (by decide) (.inl ?_)
  simp only [fldAddr, pageAddr, VLV.PR_STAT_HS_TRIP, CMN.FINJ_CHECKER]
  omega

theorem doDrive_keepsChecker (j : Nat) (v : DoState) (s : State) : KeepsChecker s (doDrive j (putDo j v s)) := by
  refine ⟨doDrive_flt .., fun p => ?_⟩
  unfold doDrive
  split <;> rfl

theorem realEffect_keepsChecker (kind addr : Nat) (s : State) : KeepsChecker s (realEffect kind addr s) := by
  unfold realEffect
  split
  · split
    · exact tripLeg_keepsChecker ..
    · split
      · exact pairTripped_keepsChecker ..
      · exact ⟨rfl, fun _ => rfl⟩
  · split
    · exact ⟨rfl, fun _ => rfl⟩
    · split
      · exact doDrive_keepsChecker ..
      · exact ⟨rfl, fun _ => rfl⟩

variable {kind addr : Nat}

/-- A real fault of a fan trips it (R369). -/
theorem realEffect_fan (h : kind = kFanOutput) (unit : addr < 12) :
    (fanSt (realEffect kind addr s) addr).st = 5 ∧ (fanSt (realEffect kind addr s) addr).out = 0 := by
  rw [realEffect, if_neg (by rw [h]; decide), if_pos ⟨h, unit⟩, fanSt_putFan]
  exact ⟨rfl, rfl⟩

/-- A real overload of a digital output trips it (R369). -/
theorem realEffect_dou (h : kind = kDouOverload ∨ kind = kDouThermal) (unit : addr < 24) : (doSt (realEffect kind addr s) addr).trip = true := by
  have other : kind ≠ kVlvOvercurrent ∧ kind ≠ kFanOutput := by
    rcases h with rfl | rfl <;> decide
  rw [realEffect, if_neg other.1, if_neg fun c => other.2 c.1, if_pos ⟨h, unit⟩, doSt_doDrive, doSt_putDo]

end

/-! ### The end of an injection -/

/-- How an injection ends with what its checker shows, and what is sent (R368, R369). -/
def InjConcludes (p : Nat) (shown : Option Shown) (kind addr : Nat) (s u : State) : Prop :=
  let c := getW CMN.FINJ_CHECKER p 0 s
  (shown = none → InjConcluded p 3 s u ∧ Sent p c kFltCheckerFail (getW CMN.FINJ_INV_MASK p 0 s) s u)
    ∧ (shown.isSome = true → shown = injExpected p s → InjConcluded p 1 s u ∧ Sent p c kind addr s u)
    ∧ (shown.isSome = true → shown ≠ injExpected p s → InjShows p c 2 u ∧ Sent p c kind addr s u
        ∧ (kind = kFanOutput → addr < 12 → (fanSt u addr).st = 5 ∧ (fanSt u addr).out = 0)
        ∧ (kind = kDouOverload ∨ kind = kDouThermal → addr < 24 → (doSt u addr).trip = true))

section
variable {p : Nat} {seen : Syndrome} {s t : State}

theorem sent_raiseInj (h : t.time = s.time) (inj page inst kind addr : Nat) : Sent page inst kind addr s (raiseInj inj page inst kind addr t) :=
  ⟨_, List.mem_append_right _ (List.mem_singleton.2 rfl), rfl, rfl, rfl, by rw [h]⟩

theorem injConclude_closed (shut : injOpen p s = false) (seen : Syndrome) : injConclude p seen s = s := if_neg (Bool.eq_false_iff.1 shut)

/-- A checker that shows nothing has failed (R368). -/
theorem injConclude_silent (open_ : injOpen p s = true) (h : seen.shown = none) : injConclude p seen s
    = injEnd p 3 (raise p (getW CMN.FINJ_CHECKER p 0 s) kFltCheckerFail (getW CMN.FINJ_INV_MASK p 0 s) s) := by
  rw [injConclude, if_pos open_, h]
  rfl

/-- The syndrome expected is a pass (R368). -/
theorem injConclude_passes (open_ : injOpen p s = true) (some : seen.shown.isSome = true) (h : seen.shown = injExpected p s) :
    injConclude p seen s = injEnd p 1 (raiseInj 1 p (getW CMN.FINJ_CHECKER p 0 s) seen.kind seen.addr s) := by
  rw [injConclude, if_pos open_]
  exact (if_neg (by simp [Option.isSome_iff_ne_none.1 some])).trans (if_pos h)

/-- Another syndrome is a real fault (R368, R369). -/
theorem injConclude_real (open_ : injOpen p s = true) (some : seen.shown.isSome = true) (h : seen.shown ≠ injExpected p s) : injConclude p seen s
    = injEnd p 2 (realEffect seen.kind seen.addr (raiseInj 2 p (getW CMN.FINJ_CHECKER p 0 s) seen.kind seen.addr s)) := by
  rw [injConclude, if_pos open_]
  exact (if_neg (by simp [Option.isSome_iff_ne_none.1 some])).trans (if_neg h)

/-- A real fault is shown and sent, and what it has done to the outputs stands (R368, R369). -/
theorem injEnd_real {inj inst kind addr : Nat} {fan dou : Prop} (hp : p < 256) (keeps : KeepsChecker (raiseInj inj p inst kind addr s) t)
    (hfan : fan → addr < 12 → (fanSt t addr).st = 5 ∧ (fanSt t addr).out = 0) (hdou : dou → addr < 24 → (doSt t addr).trip = true) :
    InjShows p (getW CMN.FINJ_CHECKER p 0 s) 2 (injEnd p 2 t) ∧ Sent p inst kind addr s (injEnd p 2 t)
      ∧ (fan → addr < 12 → (fanSt (injEnd p 2 t) addr).st = 5 ∧ (fanSt (injEnd p 2 t) addr).out = 0)
      ∧ (dou → addr < 24 → (doSt (injEnd p 2 t) addr).trip = true) := by
  obtain ⟨flt, checker⟩ := keeps
  refine ⟨?_, sent_injEnd ?_, ?_, ?_⟩
  · rw [show getW CMN.FINJ_CHECKER p 0 s = getW CMN.FINJ_CHECKER p 0 t from (checker p).symm]
    exact injEnd_shows hp (by decide) t
  · rw [Sent, flt]
    exact sent_raiseInj rfl ..
  · rwa [fanSt_congr (injEnd_drv ..)]
  · rwa [doSt_congr (injEnd_drv ..)]

/-- An open injection concludes by what its checker shows (R368). -/
theorem injConclude_concludes (hp : p < 256) (open_ : injOpen p s = true) (seen : Syndrome) :
    InjConcludes p seen.shown seen.kind seen.addr s (injConclude p seen s) := by
  refine ⟨fun none => ?_, fun some expected => ?_, fun some other => ?_⟩
  · rw [injConclude_silent open_ none]
    exact ⟨injEnd_concluded hp (by decide) rfl, sent_injEnd (sent_raise ..)⟩
  · rw [injConclude_passes open_ some expected]
    exact ⟨injEnd_concluded hp (by decide) rfl, sent_injEnd (sent_raiseInj rfl ..)⟩
  · rw [injConclude_real open_ some other]
    exact injEnd_real hp (realEffect_keepsChecker ..) realEffect_fan realEffect_dou

/-- The same after a command that reaches registers, collector and outputs. -/
theorem InjConcludes.reach {shown : Option Shown} {kind addr : Nat} {f : State → State} (h : InjConcludes p shown kind addr s (f t)) :
    InjConcludes p shown kind addr s (reach [.regs, .flt, .drv] f t) := h

/-- An injection that is armed and not open has been waiting too long (R368). -/
theorem injTimeout_concludes (hp : p < 256) (armed : getB CMN.FINJ_ARM p 0 s = true) (shut : injOpen p s = false) :
    InjConcluded p 4 s (injTimeout p s) ∧ ∃ addr, Sent p 0xFF kFltInjTimeout addr s (injTimeout p s) := by
  have late : injTimeout p s = injEnd p 4 (raise p 0xFF kFltInjTimeout (Config.freeWord s.fresh).toNat { s with fresh := s.fresh + 1 }) :=
    if_pos (by simp [armed, shut])
  rw [late]
  exact ⟨injEnd_concluded hp (by decide) rfl, _, sent_injEnd (sent_raise_of_time rfl ..)⟩

theorem injTimeout_idle (h : getB CMN.FINJ_ARM p 0 s = false ∨ injOpen p s = true) : injTimeout p s = s := by
  refine if_neg ?_
  rcases h with h | h
  · simp [h]
  · simp [h]

end

/-! ### The scrub -/

section
variable {page checker : Nat} {found : ScrubResult} {s : State}

/-- A read by the checker of an open injection concludes it (R367, R373). -/
theorem scrubWord_armed (armed : injOpen page s = true ∧ getW CMN.FINJ_CHECKER page 0 s = checker) (word : Nat) (found : ScrubResult) :
    scrubWord page checker word found s
      = injConclude page ⟨(scrubShown found).map Prod.fst, ((scrubShown found).map Prod.snd).getD 0, word⟩ s :=
  if_pos (by simp [armed])

/-- Any other read reports what it finds (R373). -/
theorem scrubWord_plain (plain : ¬ (injOpen page s = true ∧ getW CMN.FINJ_CHECKER page 0 s = checker)) (word : Nat) (found : ScrubResult) :
    scrubWord page checker word found s = match scrubShown found with
      | none => s
      | some (_, k) => raise page checker k word s :=
  if_neg (by simpa using plain)

theorem scrubCycleEnd_idle (h : s.time.ticks < s.flt.scrubStart + 16384) : scrubCycleEnd s = s := if_pos h

/-- A scrub cycle that has lasted its time ends (R373). -/
theorem scrubCycleEnd_ends (h : s.flt.scrubStart + 16384 ≤ s.time.ticks) : (scrubCycleEnd s).flt.scrubStart = s.flt.scrubStart + 16384
    ∧ getW FLT.SCRUB_LAST_LEN fltPg 0 (scrubCycleEnd s) = 256
    ∧ RegsBut [fldAddr FLT.SCRUB_LAST_LEN fltPg 0, fldAddr FLT.SCRUB_CYCLES fltPg 0] s (scrubCycleEnd s) := by
  rw [scrubCycleEnd, if_neg (Nat.not_lt.2 h)]
  refine ⟨rfl, getW_setF _ _ _ _ _ (by decide) (by decide), fun a ha => ?_⟩
  simp only [List.mem_cons, List.not_mem_nil, or_false, not_or] at ha
  rw [rdReg_setF_ne _ _ _ _ _ (Ne.symm ha.1), rdReg_incMod_ne _ _ _ _ (Ne.symm ha.2)]
  rfl

end

/-! ### The collector's commands -/

section
variable {s : State} (awake : Awake s)
include awake

theorem faultMessage_does (msgs : List MsgIn) : Does (.faultMessage msgs) s fun u => RegsBut [] s u ∧ ∀ m ∈ msgs, seenMsg m s ∈ u.flt.outbox := by
  refine ⟨_, settles_finish awake rfl, fun _ _ => rfl, fun m hm => ?_⟩
  rw [reach_flt _ _ _ (by decide), faultMessages_outbox]
  exact List.mem_append_right _ (List.mem_map_of_mem hm)

theorem flashingFault_does (present : Bool) : Does (.flashingFault present) s fun u => RegsBut [] s u ∧ u.flt.flash = present
    ∧ (present = true → s.flt.flash = false → ∃ addr, Sent 0 0xFF kDevFlashing addr s u) ∧ (present = s.flt.flash → u = clearReports s) := by
  refine ⟨_, settles_finish awake rfl, fun _ _ => rfl, ?_, fun on sound => ?_, fun same => reach_self (flashingFault_same same)⟩
  · rw [reach_flt _ _ _ (by decide), flashingFault_shows]
  · subst on
    exact (flashingFault_sent (s := clearReports s) sound).imp fun _ => sent_reach (by decide)

theorem lockstepMismatch_does : Does .lockstepMismatch s fun u => RegsBut [] s u ∧ ∃ addr, Sent 0 0x03 kDevLockstep addr s u :=
  ⟨_, settles_finish awake rfl, fun _ _ => rfl, (raiseOpen_sent (s := s) (t := clearReports s) 0 0x03 kDevLockstep rfl).imp fun _ => sent_reach (by decide)⟩

/-- The command of an operation of the collector: no register changes but those that settling may write. -/
theorem does_collect {i : Instr} {f : State → State} (he : exec i s = .next (finish (reach [.regs, .flt, .recd] f) s))
    (only : CollectOnly (clearReports s) (f (clearReports s))) :
    Does i s fun u => Outside [] s u ∧ u = reach [.regs, .flt, .recd] f (clearReports s) := by
  refine ⟨_, settles_finish awake he, fun a quiet _ => ?_, rfl⟩
  rw [rdReg_reach _ _ _ (by decide)]
  exact only.2 a (quiet_calm quiet)

theorem safeInAssert_does : Does .safeInAssert s fun u => RegsBut [] s u ∧ u.flt.safeIn = true
    ∧ (epActive fltPg kFltSafeIn 0 s = false → Sent fltPg 0xFE kFltSafeIn 0 s u) := by
  obtain ⟨shown, sent⟩ := safeInput_asserts (clearReports s)
  refine ⟨_, settles_finish awake rfl, fun a _ => ?_, ?_, fun idle => sent_reach (by decide) (sent idle)⟩
  · rw [rdReg_reach _ _ _ (by decide), rdReg]
    exact congrArg (tabGet resetWord · a) (beginEp_regs ..)
  · rw [reach_flt _ _ _ (by decide), shown]

theorem safeInDeassert_does : Does .safeInDeassert s fun u => Outside [] s u ∧ u.flt.safeIn = false ∧ epActive fltPg kFltSafeIn 0 u = false := by
  obtain ⟨shown, ended⟩ := safeInput_deasserts (clearReports s)
  refine (does_collect (i := .safeInDeassert) awake rfl (safeInput_only ..)).imp fun u ⟨page, e⟩ => ⟨page, ?_, ?_⟩
  · rw [e, reach_flt _ _ _ (by decide), shown]
  · rw [e, epActive_congr (reach_flt _ _ _ (by decide)), ended]

/-- Nothing of the collector but the operation itself changes the scope whose quiet window ends. -/
theorem quietWindowEnd_runs (scope : Fin 9) : Does (.quietWindowEnd scope) s fun u => Outside [] s u
    ∧ (quietEnd scope.val (clearReports s) = clearReports s → u = clearReports s)
    ∧ scopeAt u scope.val = scopeAt (quietEnd scope.val (clearReports s)) scope.val
    ∧ ∀ n, irq fltPg n u = irq fltPg n (quietEnd scope.val (clearReports s)) := by
  refine (does_collect (i := .quietWindowEnd scope) awake rfl (quietEnd_only ..)).imp fun u ⟨page, e⟩ => ⟨page, fun idle => ?_, ?_, fun n => ?_⟩
  · rw [e, reach_self idle]
  · rw [e, scopeAt_congr (congrArg FltState.scopes (reach_flt _ _ _ (by decide)))]
  · rw [e, irq_reach (by decide)]

theorem quietWindowEnd_does (scope : Fin 9) : Does (.quietWindowEnd scope) s fun u =>
    let x := scopeAt s scope.val
    Outside [] s u ∧ (x.quiet = none ∨ x.react = false ∨ x.latched = true → u = clearReports s)
      ∧ ∀ a len, x.quiet = some (a, len) → x.react = true → x.latched = false →
        (usNow s < a + len → u = clearReports s)
        ∧ (a + len ≤ usNow s → getF FLT.RECOV_REC_LIM fltPg 0 s ≤ recentRecov x (usNow s) + 1 →
          scopeAt u scope.val = latchedScope x ∧ irq fltPg 18 u = true)
        ∧ (a + len ≤ usNow s → recentRecov x (usNow s) + 1 < getF FLT.RECOV_REC_LIM fltPg 0 s →
          scopeAt u scope.val = leftScope (recoveredScope (usNow s) x) ∧ irq fltPg 19 u = true) := by
  refine (quietWindowEnd_runs awake scope).imp fun u ⟨page, rests, own, bits⟩ => ⟨page, fun stays => ?_, fun a len window react open_ => ?_⟩
  · exact rests (quietEnd_idle (s := clearReports s) stays)
  · rw [own, bits, bits]
    exact ⟨fun early => rests (quietEnd_early (s := clearReports s) window early),
      quietEnd_latches (s := clearReports s) window react open_, quietEnd_recovers (s := clearReports s) window react open_⟩

theorem injectionConclude_does (page : PageIx) (seen : Syndrome) : Does (.injectionConclude page seen) s fun u =>
    (injOpen page.val s = false → u = clearReports s) ∧ (injOpen page.val s = true → InjConcludes page.val seen.shown seen.kind seen.addr s u) :=
  ⟨_, settles_finish awake rfl, fun shut => reach_self (injConclude_closed (s := clearReports s) shut seen),
    fun open_ => .reach (injConclude_concludes (s := clearReports s) (by omega) open_ seen)⟩

theorem injectionTimeout_does (page : PageIx) : Does (.injectionTimeout page) s fun u =>
    (getB CMN.FINJ_ARM page.val 0 s = false ∨ injOpen page.val s = true → u = clearReports s)
    ∧ (getB CMN.FINJ_ARM page.val 0 s = true → injOpen page.val s = false →
      InjConcluded page.val 4 s u ∧ ∃ addr, Sent page.val 0xFF kFltInjTimeout addr s u) :=
  ⟨_, settles_finish awake rfl, fun idle => reach_self (injTimeout_idle (s := clearReports s) idle),
    fun armed shut => injTimeout_concludes (s := clearReports s) (by omega) armed shut⟩

theorem scrubWordRead_does (page : PageIx) (checker : Byte) (word : BitVec 16) (found : ScrubResult) :
    Does (.scrubWordRead page checker word found) s fun u =>
      (¬ (injOpen page.val s = true ∧ getW CMN.FINJ_CHECKER page.val 0 s = checker.toNat) → RegsBut [] s u
        ∧ match found with
          | .clean => u = clearReports s
          | .corrected _ => Sent page.val checker.toNat kFltEccCorr word.toNat s u
          | .uncorrectable => Sent page.val checker.toNat kFltEccUncorr word.toNat s u
          | .parity => Sent page.val checker.toNat kFltCfgParity word.toNat s u)
      ∧ (injOpen page.val s = true ∧ getW CMN.FINJ_CHECKER page.val 0 s = checker.toNat →
        InjConcludes page.val ((scrubShown found).map Prod.fst) (((scrubShown found).map Prod.snd).getD 0) word.toNat s u) := by
  refine ⟨_, settles_finish awake rfl, fun plain => ?_, fun armed => .reach ?_⟩
  · have reads := scrubWord_plain (s := clearReports s) plain word.toNat found
    have sent (k : Nat) (h : scrubWord page.val checker.toNat word.toNat found (clearReports s) = raise page.val checker.toNat k word.toNat (clearReports s)) :
        Sent page.val checker.toNat k word.toNat s (reach [.regs, .flt, .drv] (scrubWord page.val checker.toNat word.toNat found) (clearReports s)) :=
      sent_reach (by decide) (h ▸ sent_raise ..)
    refine ⟨fun a _ => ?_, ?_⟩
    · rw [rdReg_reach _ _ _ (by decide), reads]
      cases found <;> rfl
    · cases found with
      | clean => exact reach_self reads
      | corrected b => exact sent _ reads
      | uncorrectable => exact sent _ reads
      | parity => exact sent _ reads
  · rw [scrubWord_armed (s := clearReports s) armed]
    exact injConclude_concludes (s := clearReports s) (by omega) armed.1
      ⟨(scrubShown found).map Prod.fst, ((scrubShown found).map Prod.snd).getD 0, word.toNat⟩

theorem scrubCycleEnd_does : Does .scrubCycleEnd s fun u => (s.time.ticks < s.flt.scrubStart + 16384 → u = clearReports s)
    ∧ (s.flt.scrubStart + 16384 ≤ s.time.ticks → u.flt.scrubStart = s.flt.scrubStart + 16384 ∧ getW FLT.SCRUB_LAST_LEN fltPg 0 u = 256
      ∧ RegsBut [fldAddr FLT.SCRUB_LAST_LEN fltPg 0, fldAddr FLT.SCRUB_CYCLES fltPg 0] s u) :=
  ⟨_, settles_finish awake rfl, fun idle => reach_self (scrubCycleEnd_idle (s := clearReports s) idle),
    fun ended => scrubCycleEnd_ends (s := clearReports s) ended⟩

end

end Sys2Proof.Machine

namespace Sys2Proof.Proofs
open Sys2Proof Sys2Proof.Machine

/-- Settles O35: each command runs its operation of the collector, or its write is judged as a step of the clear sequence; the cases of the
operation are those of the statement. -/
theorem faultCommandsReportRecoverAndClear : Obligations.Fault_Commands_Report_Recover_And_Clear := by
  unfold Obligations.Fault_Commands_Report_Recover_And_Clear
  intro msgs present scope party sc page seen checker word found s awake idle x mine clr p c inj shows concluded concludes armed
  refine ⟨?_, flashingFault_does awake present, safeInAssert_does awake, safeInDeassert_does awake, ?_,
    fun may => ⟨fltClrFirst_does awake may, fltClrSecond_does awake may, ffClr_does awake may⟩,
    fun _ => ⟨injectionConclude_does awake page seen, injectionTimeout_does awake page⟩, ?_, scrubCycleEnd_does awake, lockstepMismatch_does awake⟩
  · exact (faultMessage_does awake msgs).imp fun u ⟨regs, sent⟩ => ⟨regs, fun m hm => ⟨_, sent m hm, rfl, rfl, rfl, rfl, rfl, rfl⟩⟩
  · refine (quietWindowEnd_does awake scope).imp fun u ⟨page, stays, ends⟩ => ⟨page, stays, fun a len window react open_ => ?_⟩
    obtain ⟨early, latches, recovers⟩ := ends a len window react open_
    refine ⟨early, fun ended limit => ?_, fun ended below => ?_⟩
    · obtain ⟨after, bit⟩ := latches ended limit
      rw [after]
      exact ⟨rfl, react, rfl, bit⟩
    · obtain ⟨after, bit⟩ := recovers ended below
      rw [after]
      exact ⟨rfl, rfl, rfl, rfl, rfl, bit⟩
  · exact (scrubWordRead_does awake page checker word found).imp fun u ⟨plain, concludes⟩ => ⟨plain, fun _ => concludes⟩

end Sys2Proof.Proofs
end
